-- ==== Sys2Proof/Word.lean ====
section
/-! DEFINITION. The words of the device and the plainest arithmetic on them (00 R7, R8), and the type of its tables. -/

namespace Sys2Proof

abbrev Byte := BitVec 8
abbrev W16 := BitVec 16
abbrev W32 := BitVec 32
abbrev W64 := BitVec 64

/-- Bits [lo+len-1 : lo] of a word as a number (00 R7). -/
def fld {n : Nat} (w : BitVec n) (lo len : Nat) : Nat := (w.toNat >>> lo) % 2 ^ len

/-- One bit of a word. -/
def bitOf {n : Nat} (w : BitVec n) (i : Nat) : Bool := w.toNat.testBit i

/-- The two's complement reading of the low `len` bits of a number. -/
def sext (len v : Nat) : Int :=
  if v % 2 ^ len < 2 ^ (len - 1) then ((v % 2 ^ len : Nat) : Int) else ((v % 2 ^ len : Nat) : Int) - 2 ^ len

/-- A table of entries by number, in rising order of the numbers. -/
abbrev Tbl (α : Type) := List (Nat × α)

end Sys2Proof
end

