-- ==== Sys2Proof/Syntax.lean ====
section
/-! DEFINITION. The commands of the block and their operands, whole: one constructor of `Instr` for each row of
spec/opcode_table.json. What a command carries beside the device's own state comes from outside the block: an
instruction word, a written value, a packet, a sensor reading, a choice the manual leaves to the device (log 9). `same`
says that an access reaches the update step that the last update of its register reached (00 R562; log 54). Left out, `same`
is false, and `ecc` and `out` are empty: an access in a step of its own, sound reads, no packet for the Yoke. -/

namespace Sys2Proof

/-- The three instruction streams of a core (04 R134). -/
inductive Str where
  | F | B | U
deriving DecidableEq, Repr

/-- A stream of a logical core (01 R25). -/
structure CS where
  core : Fin 6144
  st   : Str
deriving DecidableEq, Repr

/-- A launched action: the stream and the action's number in it (05 R163). -/
structure Act where
  cs : CS
  id : Nat
deriving DecidableEq, Repr

/-- What a run-ahead fetch serves: a command in the queue of a GME or a Press, by device line, or the decode of a stream, by the
frame line of the image's copy: Spool, logical channel, channel address (02 R77; 05 R172). -/
inductive AheadBy where
  | gme (a : Act) (line : Nat)
  | press (a : Act) (line : Nat)
  | decode (cs : CS) (m : Fin 8) (ch : Fin 32) (addr : Nat)
deriving DecidableEq, Repr

/-- An accepted ICI command: its queue, TAG, FLAGS.IRQ and the 48 payload bytes, byte 0 in bits [7:0] (14 R419). -/
structure Ici where
  q   : Fin 9
  tag : W32
  irq : Bool
  p   : BitVec 384
deriving DecidableEq, Repr

/-- What the Reed-Solomon decoder meets on a line (11 R329): symbols corrected (0 to 3), or an uncorrectable line. -/
inductive Ecc where
  | ok
  | corrected (symbols : Nat)
  | uncorrectable
deriving DecidableEq, Repr

/-- What the scratchpad code meets on a read (06 R191, R192). -/
inductive ScrEcc where
  | ok
  | corrected (bank : Nat)
  | uncorrectable (bank line : Nat)
deriving DecidableEq, Repr

/-- How a 64-bit register is written: whole, or by its low or high half (00 R11). -/
inductive Part where
  | whole | low | high
deriving DecidableEq, Repr

/-- Why a lane leaves its link (12 R361), in listed order. -/
inductive LaneTrigger where
  | crc | alignment | codewords | command
deriving DecidableEq, Repr

/-- The engines that can hang (15 R436, R437). -/
inductive Engine where
  | arrayGroup (core : Fin 6144)
  | vector (core : Fin 6144)
  | hem (cluster : Fin 384)
  | gme (m : Fin 8) (g : Fin 16)
  | press (m : Fin 8) (g : Fin 8)
  | serger (m : Fin 8) (g : Fin 16)
  | reduction (r : Fin 32)
deriving DecidableEq, Repr

/-- One access that a channel controller serves (11 R331): 64-byte line address, data when it writes, the bytes it
writes, whether the data arrives poisoned, who asks, and what the decoder meets. `addr` is the channel address of a line that no
region and no spill backing holds. `targetFails`: the write to the target of a Darning fails, with the errors that the copier met
until then, each with its channel address and device line (11 R342, R344). -/
structure SpoolAcc where
  line   : Nat
  write  : Option (BitVec 512)
  mask   : BitVec 64
  poison : Bool
  ctx    : Option (Fin 8)
  spool  : Fin 8
  chan   : Fin 32
  addr   : Nat
  ecc    : Ecc
  targetFails : Option (List (Nat × Nat × Ecc))
deriving DecidableEq, Repr

/-- A packet of the transaction layer (12 R373): header, source-route unit and data lines. -/
structure Packet where
  hdr   : BitVec 128
  route : BitVec 128
  lines : List (BitVec 512)
deriving DecidableEq, Repr

/-- What a boot meets outside the state (16 R483 to R486): which roots pass their ROM test and derive the identity. -/
structure BootEnv where
  rootOk     : BitVec 4
  identityOk : BitVec 4
deriving DecidableEq, Repr

/-- A word that a channel test reads back (11 R347): its pass, its channel address, the data before correction, and the bits of its
check byte that are wrong. Words that are not named read back as they were written. -/
structure TestRead where
  pass  : Nat
  addr  : Nat
  data  : W64
  check : BitVec 8
deriving DecidableEq, Repr

/-- The commands of the block, one for each row of spec/opcode_table.json. -/
inductive Instr where
  /-- NOP (R159): Core instruction that does nothing. -/
  | nop (cs : CS) (w : W64)
  /-- JMP (R159): Core instruction that adds a sign-extended immediate to the stream's program counter. -/
  | jmp (cs : CS) (w : W64)
  /-- LOOP (R159): Core instruction that increments a loop counter and branches while it is below a scalar. -/
  | loop (cs : CS) (w : W64) (same : Bool := false)
  /-- SETLC (R159): Core instruction that sets a loop counter from an immediate or a scalar. -/
  | setlc (cs : CS) (w : W64) (same : Bool := false)
  /-- GETLC (R159): Core instruction that copies a loop counter into a scalar. -/
  | getlc (cs : CS) (w : W64) (same : Bool := false)
  /-- STOP (R168): Core instruction that ends its stream. -/
  | stop (cs : CS) (w : W64)
  /-- ABORT (R168): Core instruction that raises event 0xE013 and stops the context at once. -/
  | abort (cs : CS) (w : W64)
  /-- TWAIT (R159): Timed core instruction that launches at its Tack with no effect. -/
  | twait (a : Act)
  /-- FENCE (R165): Core instruction that waits until every earlier action of the stream has completed and its writes are visible. -/
  | fence (cs : CS) (w : W64)
  /-- ADD (R160): Scalar addition modulo 2^32. -/
  | add (cs : CS) (w : W64) (same : Bool := false)
  /-- SUB (R160): Scalar subtraction modulo 2^32. -/
  | sub (cs : CS) (w : W64) (same : Bool := false)
  /-- MUL (R160): Scalar multiplication keeping the low 32 bits. -/
  | mul (cs : CS) (w : W64) (same : Bool := false)
  /-- AND (R160): Scalar bitwise AND. -/
  | and (cs : CS) (w : W64) (same : Bool := false)
  /-- OR (R160): Scalar bitwise OR. -/
  | or (cs : CS) (w : W64) (same : Bool := false)
  /-- XOR (R160): Scalar bitwise XOR. -/
  | xor (cs : CS) (w : W64) (same : Bool := false)
  /-- SHL (R160): Scalar shift left by bits [4:0] of the second operand. -/
  | shl (cs : CS) (w : W64) (same : Bool := false)
  /-- SHR (R160): Scalar logical shift right. -/
  | shr (cs : CS) (w : W64) (same : Bool := false)
  /-- SAR (R160): Scalar arithmetic shift right. -/
  | sar (cs : CS) (w : W64) (same : Bool := false)
  /-- MIN (R160): Scalar signed minimum. -/
  | min (cs : CS) (w : W64) (same : Bool := false)
  /-- MAX (R160): Scalar signed maximum. -/
  | max (cs : CS) (w : W64) (same : Bool := false)
  /-- MINU (R160): Scalar unsigned minimum. -/
  | minu (cs : CS) (w : W64) (same : Bool := false)
  /-- MAXU (R160): Scalar unsigned maximum. -/
  | maxu (cs : CS) (w : W64) (same : Bool := false)
  /-- LI (R159): Loads a sign-extended immediate into a scalar. -/
  | li (cs : CS) (w : W64) (same : Bool := false)
  /-- LIH (R159): Loads an immediate into the high half of a scalar. -/
  | lih (cs : CS) (w : W64) (same : Bool := false)
  /-- GETS (R160): Reads a special register into a scalar, latching the high Tape half on a read of code 3. -/
  | gets (cs : CS) (w : W64) (same : Bool := false)
  /-- CMPEQ (R159): Sets a predicate when two operands are equal. -/
  | cmpeq (cs : CS) (w : W64) (same : Bool := false)
  /-- CMPNE (R159): Sets a predicate when two operands differ. -/
  | cmpne (cs : CS) (w : W64) (same : Bool := false)
  /-- CMPLT (R159): Sets a predicate on a signed less-than comparison. -/
  | cmplt (cs : CS) (w : W64) (same : Bool := false)
  /-- CMPGE (R159): Sets a predicate on a signed greater-or-equal comparison. -/
  | cmpge (cs : CS) (w : W64) (same : Bool := false)
  /-- CMPLTU (R159): Sets a predicate on an unsigned less-than comparison. -/
  | cmpltu (cs : CS) (w : W64) (same : Bool := false)
  /-- CMPGEU (R159): Sets a predicate on an unsigned greater-or-equal comparison. -/
  | cmpgeu (cs : CS) (w : W64) (same : Bool := false)
  /-- PAND (R159): Predicate AND. -/
  | pand (cs : CS) (w : W64)
  /-- POR (R159): Predicate OR. -/
  | por (cs : CS) (w : W64)
  /-- PXOR (R159): Predicate XOR. -/
  | pxor (cs : CS) (w : W64)
  /-- PNOT (R159): Predicate NOT. -/
  | pnot (cs : CS) (w : W64)
  /-- PSET (R159): Sets a predicate from an immediate bit. -/
  | pset (cs : CS) (w : W64)
  /-- SWLD (R158): Reads a shape word into a scalar once the slot is ready, clamping to its declared maximum. -/
  | swld (cs : CS) (w : W64) (same : Bool := false)
  /-- SWST (R311): Writes a scalar to a shape-word slot with STEP and VALID set. -/
  | swst (a : Act)
  /-- HMAP (R183): Places a handle in scratchpad or on the spill ladder and optionally zeroes it. -/
  | hmap (a : Act) (ecc : List ScrEcc := [])
  /-- HFREE (R184): Releases a handle once its USERS count reaches 0. -/
  | hfree (a : Act)
  /-- KARR (R161): Sends an arrival of an amount to a local or remote Knot. -/
  | karr (a : Act)
  /-- KWAIT (R161): Waits until a local Knot's generation has passed the named generation. -/
  | kwait (cs : CS) (w : W64) (same : Bool := false)
  /-- KARRW (R161): Arrives at a local Knot and waits for the generation observed at the arrival. -/
  | karrw (a : Act)
  /-- ARR (R115): Array command computing Y = Y0 + X · W over accumulation groups. -/
  | arr (a : Act)
  /-- CHALK (R255): Predictor-slot array command that writes Z and the predicted neuron mask. -/
  | chalk (a : Act)
  /-- VEC_ADD (R162): Vector element-wise addition. -/
  | vecAdd (a : Act) (ecc : List ScrEcc := [])
  /-- VEC_SUB (R162): Vector element-wise subtraction. -/
  | vecSub (a : Act) (ecc : List ScrEcc := [])
  /-- VEC_MUL (R162): Vector element-wise multiplication. -/
  | vecMul (a : Act) (ecc : List ScrEcc := [])
  /-- VEC_FMA (R162): Vector fused multiply-add into the destination's prior value. -/
  | vecFma (a : Act) (ecc : List ScrEcc := [])
  /-- VEC_DIV (R162): Vector element-wise division. -/
  | vecDiv (a : Act) (ecc : List ScrEcc := [])
  /-- VEC_SQRT (R162): Vector element-wise square root. -/
  | vecSqrt (a : Act) (ecc : List ScrEcc := [])
  /-- VEC_MIN (R162): Vector element-wise minimum. -/
  | vecMin (a : Act) (ecc : List ScrEcc := [])
  /-- VEC_MAX (R162): Vector element-wise maximum. -/
  | vecMax (a : Act) (ecc : List ScrEcc := [])
  /-- VEC_ABS (R162): Vector element-wise absolute value. -/
  | vecAbs (a : Act) (ecc : List ScrEcc := [])
  /-- VEC_NEG (R162): Vector element-wise negation. -/
  | vecNeg (a : Act) (ecc : List ScrEcc := [])
  /-- VEC_ADDS (R162): Vector addition of a scalar. -/
  | vecAdds (a : Act) (ecc : List ScrEcc := [])
  /-- VEC_MULS (R162): Vector multiplication by a scalar. -/
  | vecMuls (a : Act) (ecc : List ScrEcc := [])
  /-- VEC_EXP (R162): Vector element-wise exponential. -/
  | vecExp (a : Act) (ecc : List ScrEcc := [])
  /-- VEC_LOG (R162): Vector element-wise natural logarithm. -/
  | vecLog (a : Act) (ecc : List ScrEcc := [])
  /-- VEC_CVT (R162): Vector format conversion. -/
  | vecCvt (a : Act) (ecc : List ScrEcc := [])
  /-- VEC_REDSUM (R132): Vector sum reduction in the fixed pairwise tree. -/
  | vecRedsum (a : Act) (ecc : List ScrEcc := [])
  /-- VEC_REDMAX (R132): Vector maximum reduction in the fixed pairwise tree. -/
  | vecRedmax (a : Act) (ecc : List ScrEcc := [])
  /-- VEC_CMPGT (R162): Vector comparison writing a KI1 mask. -/
  | vecCmpgt (a : Act) (ecc : List ScrEcc := [])
  /-- VEC_SEL (R162): Vector selection between two sources by a mask. -/
  | vecSel (a : Act) (ecc : List ScrEcc := [])
  /-- TOPK (R300): Router selection writing k route entries per token. -/
  | topk (a : Act) (ecc : List ScrEcc := [])
  /-- VEC_IOTA (R162): Vector write of the element index plus a scalar. -/
  | vecIota (a : Act) (ecc : List ScrEcc := [])
  /-- HEMF (R276): Hem forward pass of soft-maximum or normalisation with statistics capture. -/
  | hemf (a : Act) (ecc : List ScrEcc := [])
  /-- HEMB (R277): Hem backward pass using the stored row statistics. -/
  | hemb (a : Act) (ecc : List ScrEcc := [])
  /-- COPY (R157): Scratchpad copy within one core. -/
  | copy (a : Act) (ecc : List ScrEcc := [])
  /-- XFER (R157): Scratchpad transfer to a handle of another core of the context. -/
  | xfer (a : Act) (ecc : List ScrEcc := [])
  /-- LOAD (R212): Moves a tensor slice from Spool or companion memory into a handle with conversion. -/
  | load (a : Act)
  /-- STORE (R213): Moves a handle's contents into a tensor slice, through a Serger when compressed. -/
  | store (a : Act) (ecc : List ScrEcc := [])
  /-- GATHER (R218): GME gather of rows selected by an index tensor. -/
  | gather (a : Act)
  /-- SCATTER (R223): GME scatter of rows to indexed positions in overwrite or add mode. -/
  | scatter (a : Act)
  /-- GREQ_COPY (R216): GME permuting copy through a copy pair. -/
  | greqCopy (a : Act)
  /-- PACK (R252): GME packing of ragged sequences end to end. -/
  | pack (a : Act)
  /-- UNPACK (R253): GME return of packed sequences to a padded layout. -/
  | unpack (a : Act)
  /-- DISPATCH (R303): GME assign-mode dispatch of tokens into expert capacity slots. -/
  | dispatch (a : Act)
  /-- DISPATCH_REPLAY (R310): GME replay-mode dispatch along an existing combine map. -/
  | dispatchReplay (a : Act)
  /-- COMBINE (R308): GME weighted combine of expert outputs into token rows. -/
  | combine (a : Act)
  /-- ROWFETCH (R257): GME fetch of predicted-active and audited neuron weight rows. -/
  | rowfetch (a : Act)
  /-- PATCH (R251): GME build of a dense patch operand from an overflow list. -/
  | patch (a : Act)
  /-- LISTCLR (R245): GME reset of an overflow list header. -/
  | listclr (a : Act)
  /-- AUDIT (R260): GME audit of predicted-inactive neurons writing the effective mask. -/
  | audit (a : Act)
  /-- COLL (R381): Launches an instance of a loaded collective plan. -/
  | coll (a : Act)
  /-- PRESS_UPDATE (R283): Press update-phase optimiser step over an element range. -/
  | pressUpdate (a : Act)
  /-- PRESS_NORM (R287): Press norm-phase accumulation of squared gradients into a clip group. -/
  | pressNorm (a : Act)
  /-- ACTION_LAUNCH (R62): An action launches at the first grid point at or after its scheduled instant and readiness. -/
  | actionLaunch (cs : CS) (w : W64) (rec : BitVec 256) (tack : BitVec 128) (report : Fin 12) (unit : Fin 16) (same : Bool := false)
  /-- ACTION_COMPLETE (R163): A launched action completes and releases its stream slot and handle users. -/
  | actionComplete (a : Act)
  /-- RUN_AHEAD_FETCH (R77): A GME, Press, Chalk fetch or core decode reads ahead of launch without visible effect. -/
  | runAheadFetch (by' : AheadBy) (ecc : Ecc)
  /-- BOBBIN_FILL (R122): A Bobbin or the weight queue issues its next scratchpad read when an entry is free. -/
  | bobbinFill (core : Fin 6144) (unit : Fin 17) (ecc : ScrEcc)
  /-- ACCUM_GROUP_START (R135): The array group chooses and starts an accumulation group or shadow work. -/
  | accumGroupStart (core : Fin 6144) (sample : Bool) (ecc : List ScrEcc := [])
  /-- ARRAY_STEP (R111): An array step fires when weight, activation entries and a bank are ready. -/
  | arrayStep (core : Fin 6144) (err : List (Nat × W32))
  /-- GROUP_DRAIN (R118): A bank's drain converts and writes its accumulators to the destination. -/
  | groupDrain (core : Fin 6144)
  /-- SHADOW_GROUP_START (R141): A partner or referee core runs a sampled group from its shadow region. -/
  | shadowGroupStart (core : Fin 6144) (err : List (Nat × W32)) (ecc : List ScrEcc := [])
  /-- VERDICT (R143): The partner compares accumulator values and decides the duplicate-execution verdict. -/
  | verdict (core : Fin 6144)
  /-- VERDICT_RECEIVE (R142): The primary receives the verdict, re-drains if outvoted, and lets its command complete. -/
  | verdictReceive (core : Fin 6144)
  /-- SAMPLE_ABANDON (R145): No verdict within 1 ms abandons the sample and lets the output stand. -/
  | sampleAbandon (core : Fin 6144)
  /-- IDLE_CHECK (R449): An idle core runs a random-operand check group after 2 µs without work. -/
  | idleCheck (core : Fin 6144) (err : List (Nat × W32))
  /-- KNOT_ARRIVE (R58): The Selvage applies an arrival to a Knot and completes it as often as COUNT reaches TARGET. -/
  | knotArrive (n : Nat)
  /-- RUN_END (R168): All streams have ended and actions completed, so the run ends and SCHED_RUN completes. -/
  | runEnd (ctx : Fin 8)
  /-- STREAM_WATCHDOG (R167): A wait on a Knot or shape word exceeds WATCHDOG and raises event 0xE012. -/
  | streamWatchdog (cs : CS)
  /-- ENGINE_HANG (R436): An engine without progress for 10 ms is reset and its contexts terminated. -/
  | engineHang (e : Engine)
  /-- QUEUE_DOORBELL (R416): A write of YK_QTAIL_q announces new command ring entries. -/
  | queueDoorbell (q : Fin 9) (v : W32)
  /-- CQHEAD_WRITE (R416): A write of YK_QCQHEAD_q consumes completion slots. -/
  | cqheadWrite (q : Fin 9) (v : W32)
  /-- MGMT_QUEUE_ENABLE (R413): Setting ENABLE of the management queue checks and enables it. -/
  | mgmtQueueEnable (v : W32)
  /-- MGMT_QUEUE_DISABLE (R413): Clearing ENABLE of the management queue stops fetching. -/
  | mgmtQueueDisable (v : W32)
  /-- ENTRY_FETCH (R414): The device fetches the next command entry when room allows. -/
  | entryFetch (q : Fin 9)
  /-- COMMAND_ACCEPT (R422): Pattern accepts a fetched command after opcode, header, queue and deadline checks. -/
  | commandAccept
  /-- COMPLETION_WRITE (R417): The device writes a completion entry with its phase and advances CQTAIL. -/
  | completionWrite (q : Fin 9)
  /-- YK_DEVIRQ_CLEAR (R12): A W1C write clears device interrupt status bits. -/
  | ykDevirqClear (v : W32) (same : Bool := false)
  /-- TP_CTRL_WRITE (R56): A write of TP_CTRL changes the Tape source, polarity or step permission. -/
  | tpCtrlWrite (v : W32)
  /-- TP_NOW_LOW_READ (R57): A 32-bit read of the low half of TP_NOW latches the high half. -/
  | tpNowLowRead (req : Nat)
  /-- TP_LATE_READ (R14): A read of TP_LATE_n returns and clears the worst lateness. -/
  | tpLateRead (n : Fin 8) (same : Bool := false)
  /-- MB_LOST_READ (R14): A read of MB_LOST returns and clears the lost-record count. -/
  | mbLostRead (same : Bool := false)
  /-- MB_OVERRUN_CLEAR (R12): A W1C write clears MB_STATUS.OVERRUN. -/
  | mbOverrunClear (v : W32) (same : Bool := false)
  /-- MB_SEL_WRITE (R512): A write of MB_SEL selects the records shown in the MB_REC windows. -/
  | mbSelWrite (part : Part) (v : W64)
  /-- BM_DRAIN_AT_BOUNDARY (R431): BM_CTRL DRAIN 1 stops every running context at its next step boundary. -/
  | bmDrainAtBoundary (v : W32)
  /-- BM_DRAIN_AT_ONCE (R431): BM_CTRL DRAIN 2 stops every running context at once. -/
  | bmDrainAtOnce (v : W32)
  /-- MB_FLUSH (R431): BM_CTRL MB_FLUSH writes the Measure Book ring to its Spool region. -/
  | mbFlush (v : W32)
  /-- WARM_RESET (R487): A warm reset keeps Spool contents and reboots every other block. -/
  | warmReset (v : W32) (env : BootEnv)
  /-- CREASE_WRITE (R518): A write to a CR_ register changes a perturbation in the diagnostic state, or is denied. -/
  | creaseWrite (off : W16) (part : Part) (v : W64)
  /-- REGISTER_WRITE (R11): A write to a Yoke window register without behaviour of its own, including 64-bit half handling. -/
  | registerWrite (off : W16) (bytes : Nat) (v : W64)
  /-- APERTURE_ACCESS (R408): A companion access through an aperture window reaches device memory or fails. -/
  | apertureAccess (off : BitVec 40) (n : Nat) (data : Option (List Byte))
  /-- I3C_READ (R544): An I3C private read returns bytes of the telemetry record. -/
  | i3cRead (off : BitVec 7)
  /-- SPOOL_ACCESS (R331): A channel controller serves an access with ECC correction, write-back or poison marking. -/
  | spoolAccess (x : SpoolAcc)
  /-- PATROL_SCRUB (R332): The patrol scrub reads and repairs lines of a channel. -/
  | patrolScrub (m : Fin 8) (ch : Fin 34) (addr line : Nat) (ecc : Ecc)
  /-- SPOOL_THERMAL_SAMPLE (R334): The base die samples Spool temperature and changes thermal state. -/
  | spoolThermalSample (m : Fin 8) (temp : W16) (sensor : Fin 9)
  /-- PAUSE_NOTICE_REPEAT (R337): The 10 ms repeat of the pause lateness notice while Critical lasts. -/
  | pauseNoticeRepeat
  /-- DARNING_DONE (R343): The Darning watermark reaches the end and the channel is remapped to the target. `errs`: channel
  address and device line of each copied line on which the decoder met an error. -/
  | darningDone (m : Fin 8) (ok : Bool) (errs : List (Nat × Nat × Ecc))
  /-- RETRAIN_INPLACE_START (R345): A channel enters self-refresh and retrains in place after its notice. -/
  | retrainInplaceStart (m : Fin 8)
  /-- RETRAIN_INPLACE_DONE (R345): A retrain in place ends and the channel returns to service. -/
  | retrainInplaceDone (m : Fin 8) (ok : Bool)
  /-- CHANNEL_FAILING_REPEAT (R346): Daily repeat of event 0x400A while a channel stays failing. -/
  | channelFailingRepeat (m : Fin 8) (l : Fin 32)
  /-- SPARE_CHANNEL_TEST (R349): Hourly PRBS31 pass on every idle spare channel. `reads`: what the pass reads back; `again`: what the
  test after a retrain reads back. -/
  | spareChannelTest (m : Fin 8) (ph : Fin 34) (reads again : List TestRead)
  /-- PACE_GUARD_TICK (R66): Every 50 µs the pace guard reads the step-rate monitors and adjusts VCORE. -/
  | paceGuardTick (rates : List Nat) (powerAt : List Nat)
  /-- PPS_EDGE (R54): A selected TIME_PPS edge aligns the Tape to a whole second. -/
  | ppsEdge (rising : Bool)
  /-- PPS_TIMEOUT (R54): No PPS edge for 1.5 s raises event 0x900A. -/
  | ppsTimeout
  /-- TAPE_REF_FAILOVER (R51): The package reference Tape counter fails and the next Selvage takes over. -/
  | tapeRefFailover
  /-- TAPE_ALIGN_TICK (R378): Every 1 ms a device sends a TAPE_ALIGN request to its upstream. -/
  | tapeAlignTick
  /-- TAPE_ALIGN_REQUEST (R378): An upstream answers a TAPE_ALIGN request with its stamps and distance. -/
  | tapeAlignRequest (p : Fin 64) (k : Packet) (jit2 jit3 : Int)
  /-- TAPE_ALIGN_RESPONSE (R378): A requester estimates its offset and slews, and may change upstream. -/
  | tapeAlignResponse (p : Fin 64) (k : Packet)
  /-- TAPE_OFFSET_TIMEOUT (R55): Fabric offset beyond ±20 ns for 1 ms raises event 0x9008. -/
  | tapeOffsetTimeout
  /-- SEAM_BRING_UP (R356): An enabled Seam finishes training and alignment and carries traffic. -/
  | seamBringUp (p : Fin 64) (body : BitVec 1920)
  /-- SEAM_BRINGUP_RETRY (R356): A Seam without partner retries bring-up every 1 s. -/
  | seamBringupRetry (p : Fin 64)
  /-- FLIT_RECEIVE (R358): A receiver checks a flit's CRC and sequence, takes ACK, NAK and credits. `corr` and `unc`: FEC
  codewords that were corrected, and that could not be, since the flit before it. -/
  | flitReceive (p : Fin 65) (lane : Fin 8) (flit : BitVec 2048) (corr unc : Nat)
  /-- REPLAY_TIMEOUT (R358): ACK not advancing for 3 µs resends from ACK + 1. -/
  | replayTimeout (p : Fin 65)
  /-- ACK_TIMER (R358): A receiver sends an ACK at least every 100 ns. -/
  | ackTimer (p : Fin 65) (out : List Packet := [])
  /-- HEARTBEAT_SEND (R363): Every 10 µs an up Seam sends a heartbeat control flit. -/
  | heartbeatSend (p : Fin 64)
  /-- HEARTBEAT_RECEIVE (R363): A received heartbeat keeps the Seam up and reports partner levels. -/
  | heartbeatReceive (p : Fin 64) (body : BitVec 1920)
  /-- HEARTBEAT_TIMEOUT (R363): No heartbeat for 50 µs takes the Seam down. -/
  | heartbeatTimeout (p : Fin 64)
  /-- LEVEL_CONTROL (R395): A level control flit changes the Seam protocol level from a named SEQ. -/
  | levelControl (p : Fin 64) (body : BitVec 1920)
  /-- LANE_LEAVE (R361): A lane passes a retrain trigger, leaves the link and starts retraining. -/
  | laneLeave (p : Fin 64) (lane : Fin 4) (trigger : LaneTrigger)
  /-- LANE_RETRAIN_DONE (R362): A retrained lane rejoins the link. -/
  | laneRetrainDone (p : Fin 64) (lane : Fin 4)
  /-- LANE_RETRAIN_TIMEOUT (R362): A retrain not done in 4 ms marks the lane failed. -/
  | laneRetrainTimeout (p : Fin 64) (lane : Fin 4)
  /-- FAILED_LANE_RETRY (R362): A failed lane is tried again every 60 s. -/
  | failedLaneRetry (p : Fin 64) (lane : Fin 4) (ok : Bool)
  /-- PACKET_FORWARD (R371): A transit packet is forwarded cut-through on a routed or source-routed Seam. -/
  | packetForward (p : Fin 64) (k : Packet)
  /-- RD_REQ (R374): A remote read request is served if an export window admits it. -/
  | rdReq (p : Fin 64) (k : Packet)
  /-- RD_RESP (R375): A remote read response completes the read, poisoned on error. -/
  | rdResp (p : Fin 64) (k : Packet)
  /-- WR (R375): A remote write is stored if an export window admits it and acknowledged. -/
  | wr (p : Fin 64) (k : Packet)
  /-- WR_ACK (R375): A write acknowledgement completes a remote write or stops the context on error. -/
  | wrAck (p : Fin 64) (k : Packet)
  /-- KNOT_ARR (R376): A remote Knot arrival is applied to a running context's Knot and acknowledged. -/
  | knotArr (p : Fin 64) (k : Packet)
  /-- KNOT_ACK (R376): A Knot acknowledgement completes a remote KARR or stops the context. -/
  | knotAck (p : Fin 64) (k : Packet)
  /-- COLL_DATA (R384): A collective data packet is combined, written or forwarded by the reduction unit. -/
  | collData (p : Fin 64) (k : Packet)
  /-- COLL_READY (R389): A READY lets a member send instance data to its sender. -/
  | collReady (p : Fin 64) (k : Packet)
  /-- COLL_DONE (R390): A DONE from a child advances completion up the tree. -/
  | collDone (p : Fin 64) (k : Packet)
  /-- COLL_RELEASE (R390): A RELEASE completes the instance and sets the common slip offset. -/
  | collRelease (p : Fin 64) (k : Packet)
  /-- COLL_ABORT (R391): An ABORT fails the instance and stops its context. -/
  | collAbort (p : Fin 64) (k : Packet)
  /-- COLL_TIMEOUT (R391): An instance timer expiring before RELEASE fails the instance. -/
  | collTimeout (plan : Fin 1024) (inst : Fin 64)
  /-- LATE_NOTICE (R394): A received lateness notice extends the named collectives' timeouts. -/
  | lateNotice (p : Fin 64) (k : Packet)
  /-- LOSS_NOTICE (R365): A received LOSS_NOTICE removes the lost device and is forwarded. -/
  | lossNotice (p : Fin 64) (k : Packet)
  /-- YOKE_LANE_LEAVE (R404): A Yoke lane leaves and the Yoke moves to a lower allowed width. -/
  | yokeLaneLeave (lane : Fin 8) (trigger : LaneTrigger)
  /-- YOKE_LANE_RETURN (R404): A retrained Yoke lane returns and the width may rise. -/
  | yokeLaneReturn (lane : Fin 8)
  /-- YOKE_SILENCE (R404): No flit from the companion for 50 µs takes the Yoke down. -/
  | yokeSilence
  /-- YOKE_LINK_RETURN (R405): The Yoke returns and fetching and delayed completions resume. -/
  | yokeLinkReturn (lanes : BitVec 8)
  /-- COMPANION_ACCESS_TIMEOUT (R405): An engine access to companion memory waiting 10 ms fails and stops its context. -/
  | companionAccessTimeout (a : Act)
  /-- BASTE_GRANULE_COPY (R455): A protected granule is copied to the pool before a waiting write proceeds. -/
  | basteGranuleCopy (g : Nat)
  /-- BASTE_GRANULE_DRAINED (R457): A drained granule is acknowledged, unprotected and its pool slot freed. -/
  | basteGranuleDrained (id : Fin 16) (ok : Option (Fin 8))
  /-- SPARE_SUITES_DONE (R446): The known-answer suites on a candidate spare cluster finish. -/
  | spareSuitesDone (b : Fin 24) (k : Fin 16) (ok : Bool)
  /-- SHADOW_SUMMARY (R448): Every 60 s duplicate-execution counts are recorded. -/
  | shadowSummary
  /-- BATON_HEARTBEAT (R464): The active Cutter arrives on the baton every 1 ms. -/
  | batonHeartbeat
  /-- BATON_CLAIM (R464): A standby claims the baton after 2 + rank ms without heartbeat. -/
  | batonClaim (c : Fin 4)
  /-- CUTTER_TAKEOVER (R465): The winner becomes ACTIVE, writes DISCARDED completions and resumes the pace guard. -/
  | cutterTakeover (c : Fin 4)
  /-- CUTTER_REJOIN (R466): A restarted Cutter finishes its self-test and rejoins or is retired. -/
  | cutterRejoin (c : Fin 4) (ok : Bool)
  /-- BARE_MODE_ENTRY (R467): No Cutter ACTIVE 20 ms after the last heartbeat puts the device in bare mode. -/
  | bareModeEntry
  /-- CUTTER_ROTATION_PERIOD (R468): The rotation period expires and a planned rotation becomes due. -/
  | cutterRotationPeriod
  /-- ROOT_RESTART_DONE (R494): A Thimble root restarted in an update finishes its self-test. -/
  | rootRestartDone (c : Fin 4) (ok : Bool)
  /-- DIAG_EXPIRY (R498): The diagnostic state's time runs out and Crease fields reset. -/
  | diagExpiry
  /-- CREASE_SUMMARY (R518): Every second while armed, perturbation counts are recorded. -/
  | creaseSummary
  /-- MB_DRAIN (R507): The drainer copies readable records to the Spool region. -/
  | mbDrain
  /-- PERIODIC_TRIGGER (R516): A periodic trigger writes a snapshot record at each multiple of PERIOD. -/
  | periodicTrigger (t : Fin 256)
  /-- HOUR_MARK (R556): At each powered hour the device writes H and records HOUR_MARK. -/
  | hourMark
  /-- PWR_GOOD_RISE (R483): The rising edge of PWR_GOOD starts a cold boot. -/
  | pwrGoodRise (env : BootEnv)
  /-- PWR_GOOD_FALL (R539): A fall of PWR_GOOD holds the device in reset. -/
  | pwrGoodFall
  /-- CLOCK_LOSS (R541): No edge of a clock for 1 µs declares it lost. -/
  | clockLoss (c : Fin 5)
  /-- CLOCK_RETURN (R541): A lost clock returns and its users resume. -/
  | clockReturn (c : Fin 5)
  /-- RAIL_SAMPLE (R529): Every 50 µs the rails are measured and checked against tolerance. -/
  | railSample (mv dw : List Nat) (avg100 avg1000 : Nat)
  /-- JUNCTION_SAMPLE (R546): Every 100 µs the hottest junction is sampled and the junction state changes. -/
  | junctionSample (bolts selv : List W16)
  /-- HOLD_EXIT (R535): Spools leave self-refresh and clusters ungate, and the waiting operation proceeds. -/
  | holdExit
  /-- QUEUE_CREATE (R428): Creates and enables a context queue. -/
  | queueCreate (c : Ici)
  /-- QUEUE_DELETE (R428): Stops and disables a context queue after its fetched commands complete. -/
  | queueDelete (c : Ici)
  /-- QUEUE_QUERY (R427): Writes a queue's register block. -/
  | queueQuery (c : Ici)
  /-- ICI_NOP (R427): Command with no effect. -/
  | iciNop (c : Ici)
  /-- DEVICE_INFO (R427): Writes identity, spares, levels and context states. -/
  | deviceInfo (c : Ici)
  /-- COMPANION_MAP (R428): Creates a grant of companion memory. -/
  | companionMap (c : Ici)
  /-- COMPANION_UNMAP (R428): Removes a grant of companion memory. -/
  | companionUnmap (c : Ici)
  /-- DESC_CREATE (R207): Checks and creates descriptors all or nothing. -/
  | descCreate (c : Ici)
  /-- DESC_DESTROY (R208): Empties descriptor entries once their actions finish. -/
  | descDestroy (c : Ici)
  /-- DESC_QUERY (R209): Writes a descriptor table entry and its kind. -/
  | descQuery (c : Ici)
  /-- PAIR_CREATE (R215): Creates a copy pair with a permutation. -/
  | pairCreate (c : Ici)
  /-- COMPAT_MAP (R226): Maps forerunner pages to device addresses. -/
  | compatMap (c : Ici)
  /-- COMPAT_UNMAP (R226): Removes forerunner page mappings. -/
  | compatUnmap (c : Ici)
  /-- SCHED_LOAD (R171): Copies and checks a schedule image into a context. -/
  | schedLoad (c : Ici)
  /-- SCHED_RUN (R560): Checks and starts a loaded schedule against a run base. -/
  | schedRun (c : Ici)
  /-- SCHED_STOP (R174): Stops a context's schedule at the next step boundary or at once. -/
  | schedStop (c : Ici)
  /-- SCHED_UNLOAD (R173): Frees a loaded context. -/
  | schedUnload (c : Ici)
  /-- SCHED_QUERY (R173): Reports a context's state and training-step number. -/
  | schedQuery (c : Ici)
  /-- SPOOL_ALLOC (R327): Allocates a Spool region. -/
  | spoolAlloc (c : Ici)
  /-- SPOOL_FREE (R328): Frees a Spool region not in use. -/
  | spoolFree (c : Ici)
  /-- SPOOL_QUERY (R351): Writes free frames per Spool and the region count. -/
  | spoolQuery (c : Ici)
  /-- CHAN_RETRAIN (R352): Retrains a channel by Darning or in place. -/
  | chanRetrain (c : Ici)
  /-- CHAN_RETIRE (R352): Retires a channel through a Darning. -/
  | chanRetire (c : Ici)
  /-- CHAN_TEST (R348): Runs test patterns on a channel and writes the result. -/
  | chanTest (c : Ici) (reads : List TestRead)
  /-- CHAN_HEALTH (R351): Writes the health records of a Spool's channels. -/
  | chanHealth (c : Ici)
  /-- FAB_CONFIG (R397): Sets the device ID and forwarding enable. -/
  | fabConfig (c : Ici)
  /-- ROUTE_SET (R397): Loads routing table entries. -/
  | routeSet (c : Ici)
  /-- SEAM_CTRL (R356): Enables, disables, retrains or sets polarity of a Seam. -/
  | seamCtrl (c : Ici)
  /-- SEAM_QUERY (R397): Writes Seam status records. -/
  | seamQuery (c : Ici)
  /-- REMOTE_MAP (R374): Maps a local range onto another device's addresses. -/
  | remoteMap (c : Ici)
  /-- EXPORT_SET (R374): Sets an export window for remote requests. -/
  | exportSet (c : Ici)
  /-- TAPE_REF_SET (R377): Sets the priority list of fabric Tape reference devices. -/
  | tapeRefSet (c : Ici)
  /-- COLL_PLAN_LOAD (R379): Checks and loads a collective plan. -/
  | collPlanLoad (c : Ici)
  /-- COLL_PLAN_UNLOAD (R397): Unloads collective plans without instances in progress. -/
  | collPlanUnload (c : Ici)
  /-- COLL_EPOCH_SET (R392): Sets a loaded context's layout epoch. -/
  | collEpochSet (c : Ici)
  /-- FAB_QUERY (R397): Writes fabric identity, levels, reference and drop counts. -/
  | fabQuery (c : Ici)
  /-- POWER_STATE_SET (R534): Moves the device to Idle, Hold or Off. -/
  | powerStateSet (c : Ici)
  /-- POWER_LIMIT_SET (R530): Sets the package power limit PLIMIT. -/
  | powerLimitSet (c : Ici)
  /-- POWER_QUERY (R552): Writes the power record. -/
  | powerQuery (c : Ici)
  /-- TELEMETRY_QUERY (R552): Writes the telemetry record. -/
  | telemetryQuery (c : Ici)
  /-- BASTE_TAKE (R453): Arranges a Baste snapshot of ranges at the next take point. -/
  | basteTake (c : Ici)
  /-- BASTE_DRAIN (R457): Drains a protected Baste to a destination as an image. -/
  | basteDrain (c : Ici)
  /-- BASTE_RESTORE (R461): Verifies and restores a Baste image. -/
  | basteRestore (c : Ici)
  /-- BASTE_RELEASE (R462): Returns a Baste ID to EMPTY. -/
  | basteRelease (c : Ici)
  /-- BASTE_QUERY (R473): Writes a Baste's state and counts. -/
  | basteQuery (c : Ici)
  /-- CONTAIN_CONFIG (R439): Selects contain or reset containment mode. -/
  | containConfig (c : Ici)
  /-- SHADOW_CONFIG (R443): Sets sampling rate, strike limits and idle checks. -/
  | shadowConfig (c : Ici)
  /-- CUTTER_ROTATE (R468): Requests a planned Cutter rotation or sets its period. -/
  | cutterRotate (c : Ici)
  /-- HEALTH_QUERY (R471): Writes the health record. -/
  | healthQuery (c : Ici)
  /-- ATTEST_REPORT (R490): Thimble forms and signs an attestation report. -/
  | attestReport (c : Ici)
  /-- IDENTITY_CERT (R489): Writes the identity certificate chain. -/
  | identityCert (c : Ici)
  /-- PATTERN_UPDATE (R491): Updates Pattern live by restarting Cutters and rotating. -/
  | patternUpdate (c : Ici)
  /-- THIMBLE_UPDATE (R494): Updates Thimble by restarting roots one at a time. -/
  | thimbleUpdate (c : Ici)
  /-- FLASH_WRITE (R496): Writes a verified image to a slot of the non-preferred flash. -/
  | flashWrite (c : Ici)
  /-- DIAG_AUTHORISE (R498): Starts or ends the diagnostic state with a token. -/
  | diagAuthorise (c : Ici)
  /-- FW_QUERY (R500): Writes the firmware state record. -/
  | fwQuery (c : Ici)
  /-- MB_TRIGGER_SET (R513): Loads Measure Book trigger entries. -/
  | mbTriggerSet (c : Ici)
  /-- MB_QUERY (R524): Drains and writes Measure Book records. -/
  | mbQuery (c : Ici)
  /-- MB_CLEAR (R517): Erases records below a limit under a signed token. -/
  | mbClear (c : Ici)
  /-- TEST_RUN (R522): Runs known-answer suites on a target or makes a cluster due. -/
  | testRun (c : Ici)
  /-- TEST_RESULT (R523): Writes the last test result record of a target. -/
  | testResult (c : Ici)
  /-- PRESS_SLOT_SET (R295): Sets optimiser slot entries. -/
  | pressSlotSet (c : Ici)
  /-- PRESS_PROGRAM_SET (R295): Sets an optimiser program entry. -/
  | pressProgramSet (c : Ici)
  /-- PRESS_SLOT_QUERY (R296): Writes optimiser slot entries in force. -/
  | pressSlotQuery (c : Ici)
  /-- PRESS_COUNTS (R296): Writes the current step's Press counts. -/
  | pressCounts (c : Ici)
  /-- SEQ_ASSIGN (R318): Assigns sequence slots to a context. -/
  | seqAssign (c : Ici)
  /-- SEQ_RELEASE (R318): Releases whole sequence slot assignments. -/
  | seqRelease (c : Ici)
  /-- SEQ_STAGE (R314): Appends a stage of sequence lengths. -/
  | seqStage (c : Ici)
  /-- SEQ_QUERY (R317): Writes sequence slot query entries. -/
  | seqQuery (c : Ici)
  /-- ROUTE_QUERY (R318): Writes the current step's router counts. -/
  | routeQuery (c : Ici)
  /-- CHALK_CONFIG (R265): Sets Chalk layer audit and fallback configuration. -/
  | chalkConfig (c : Ici)
  /-- CHALK_QUERY (R266): Writes Chalk layer counts. -/
  | chalkQuery (c : Ici)
  /-- SPARSE_QUERY (R266): Writes the current step's sparsity counts. -/
  | sparseQuery (c : Ici)
  /-- LINK_MARGIN_LOW (R340): A channel's link margin falls below the monitor's limit and a retrain of the channel is started. -/
  | linkMarginLow (m : Fin 8) (l : Fin 32) (margin : Nat)
  /-- ORIGINAL_RETRAIN_DONE (R343): After a Darning, the retrain and PRBS pass of the original channel end, so it becomes an idle spare or is retired with event 0x4009. -/
  | originalRetrainDone (m : Fin 8) (ok : Bool)
  /-- CUTTER_FAILURE (R466): A Cutter, active or standby, fails and its Thimble root restarts it as OUT. -/
  | cutterFailure (c : Fin 4) (ev : W16)
  /-- POWER_REMOVED (R537): The board removes the rails, with or without the preparation of R536, and the device loses everything it has not already written. -/
  | powerRemoved
  /-- VAUX_IN_TOLERANCE (R544): VAUX reaches tolerance and, 100 ms later, the I3C target begins to answer whatever the state of PWR_GOOD. -/
  | vauxInTolerance
  /-- I3C_SETDASA (R543): The I3C controller's SETDASA command assigns the device's dynamic address from static address 0x4C. -/
  | i3cSetdasa (addr : BitVec 7) (static : BitVec 7)
  /-- JTAG_TCK_EDGE (R543): TCK, TMS, TDI and TRST_N drive the IEEE 1149.1 and 1149.6 test access port, with private instructions acting only in the diagnostic state. -/
  | jtagTckEdge (rising tms tdi trstN : Bool)
  /-- COMPANION_WRITE (R409): A companion write to a line that a device run-ahead buffer holds invalidates that entry. -/
  | companionWrite (a : Nat) (data : List Byte)
  /-- DEVICE_REPORTS_READY (R483): The cold or warm boot ends: Pattern sets YK_STATUS.MODE to 1, sets YK_DEVIRQ.MODE_CHANGED and raises event 0x8004. -/
  | deviceReportsReady (fails : List (Nat × Nat))
deriving DecidableEq, Repr

end Sys2Proof
end

