-- ==== Sys2Proof/Decode.lean ====
section
/-! DEFINITION. Reading bit patterns: the decoder of table words (the table gives no row bits, so it reads none) and the
fields of the core's 64-bit instruction words with the opcode table (05 R149, R150, R151, R159). -/

namespace Sys2Proof

/-- The command that a word spells by the bits of spec/opcode_table.json. No row of the table has bits. -/
def decodeTableWord (_nbits _w : Nat) : Option Instr := none

namespace Insn

/-- The three instruction formats (05 R150). -/
inductive Fmt where
  | C | S | K
deriving DecidableEq, Repr

/-! ### Fields common to all instructions (05 R149) -/

def opc (w : W64) : Nat := fld w 56 8
def g (w : W64) : Bool := bitOf w 55
def pn (w : W64) : Bool := bitOf w 54
def psel (w : W64) : Nat := fld w 51 3
def tidx (w : W64) : Nat := fld w 39 12

/-! ### Format C (05 R150) -/

def ridx (w : W64) : Nat := fld w 27 12
def ha (w : W64) : Nat := fld w 21 6
def hb (w : W64) : Nat := fld w 15 6
def hc (w : W64) : Nat := fld w 9 6
def hd (w : W64) : Nat := fld w 3 6

/-! ### Format S (05 R150) -/

def sd (w : W64) : Nat := fld w 34 5
def sa (w : W64) : Nat := fld w 29 5
def sb (w : W64) : Nat := fld w 24 5
def is (w : W64) : Bool := bitOf w 23
def imm (w : W64) : Nat := fld w 0 23
/-- IMM sign-extended (05 R150). -/
def simm (w : W64) : Int := sext 23 (imm w)

/-! ### Format K (05 R150) -/

def kid (w : W64) : Nat := fld w 25 14
def ksa (w : W64) : Nat := fld w 20 5
def krs (w : W64) : Bool := bitOf w 19
def ksb (w : W64) : Nat := fld w 14 5
def krmt (w : W64) : Bool := bitOf w 13
def kimm (w : W64) : Nat := fld w 0 13

/-! ### The opcode table (05 R159) -/

/-- Format and action mark of a defined opcode. -/
def table (o : Nat) : Option (Fmt × Bool) :=
  if o = 0x08 ∨ o = 0x31 then some (.S, true)
  else if (1 ≤ o ∧ o ≤ 9) ∨ (0x10 ≤ o ∧ o ≤ 0x2A) ∨ o = 0x30 then some (.S, false)
  else if o = 0x41 then some (.K, false)
  else if o = 0x40 ∨ o = 0x42 then some (.K, true)
  else if o = 0x38 ∨ o = 0x39 ∨ (0x50 ≤ o ∧ o ≤ 0x54) ∨ (0x58 ≤ o ∧ o ≤ 0x5B) ∨ o = 0x60 ∨ o = 0x61 ∨ o = 0x68
      ∨ o = 0x69 then some (.C, true)
  else none

def defined (o : Nat) : Bool := (table o).isSome
def isAction (o : Nat) : Bool := (table o).elim false (·.2)
def fmtOf (o : Nat) : Fmt := (table o).elim .S (·.1)

/-- Scalar fields and immediate that a format S opcode uses: SD, SA, SB, IS, IMM; `alu` takes IS and SB or IMM, `setlc`
takes IS and SA or IMM (05 R150, R159). -/
structure SUse where
  sd : Bool := false
  sa : Bool := false
  sb : Bool := false
  is : Bool := false
  imm : Bool := false

def sUse (o : Nat) (is : Bool) : SUse :=
  if (0x10 ≤ o ∧ o ≤ 0x1C) ∨ (0x20 ≤ o ∧ o ≤ 0x25) then { sd := true, sa := true, sb := !is, is := true, imm := is }
  else if o = 0x02 ∨ o = 0x07 then { imm := true }
  else if o = 0x03 then { sd := true, sb := true, imm := true }
  else if o = 0x04 then { sd := true, sa := !is, is := true, imm := is }
  else if o = 0x05 ∨ o = 0x29 then { sd := true, sa := true }
  else if o = 0x1D ∨ o = 0x1E ∨ o = 0x1F ∨ o = 0x2A ∨ o = 0x30 then { sd := true, imm := true }
  else if 0x26 ≤ o ∧ o ≤ 0x28 then { sd := true, sa := true, sb := true }
  else if o = 0x31 then { sa := true, imm := true }
  else {}

/-- The fields of a format S word that must be 0 are 0 (05 R149, R151; log 12). -/
def zerosS (w : W64) : Bool :=
  let u := sUse (opc w) (is w)
  (u.sd || sd w == 0) && (u.sa || sa w == 0) && (u.sb || sb w == 0) && (u.is || !is w) && (u.imm || imm w == 0)

/-- The same of a format K word: RMT and SB only in KARR (05 R161), SA only with RS. -/
def zerosK (w : W64) : Bool :=
  (krs w || ksa w == 0) && (krmt w || ksb w == 0) && (opc w == 0x40 || !krmt w)

/-- The rules of 05 R149 on G, PN, PSEL and TIDX. -/
def zerosCommon (w : W64) : Bool :=
  (g w || (!pn w && psel w == 0)) && (isAction (opc w) || tidx w == 0)

end Insn
end Sys2Proof
end

