-- ==== Sys2Proof/Config.lean ====
section
/-! DEFINITION. What the manual leaves open: constants without a body, so that no proof can see their values
(assumption log 2, 6, 8, 9, 24, 33, 34, 36, 38, 68 and 73). -/

namespace Sys2Proof

/-- Content that the manual leaves undefined: byte `a` of the undefined content number `n` (06 R186, 07 R221,
08 R245, 08 R246, 11 R327, 12 R391; log 2). `n` is the counter `State.free`. -/
opaque Config.freeByte : (n a : Nat) → Byte

/-- Which of the two neighbours of the exact value EXP takes (05 R162: within 1 ulp; log 6). -/
opaque Config.expUp : W32 → Bool

/-- Which of the two neighbours of the exact value LOG takes (05 R162: within 1 ulp; log 6). -/
opaque Config.logUp : W32 → Bool

/-- Does the ML-DSA-87 signature verify (16 R481, R497; FIPS 204; log 8)? -/
opaque Config.mldsaVerify : (key msg sig : List Byte) → Bool

/-- The 4,627 bytes of an ML-DSA-87 signature by the identity key (16 R488, R490; log 8). -/
opaque Config.identitySign : (n : Nat) → (msg : List Byte) → BitVec 37016

/-- The random challenge number `n` (16 R497; log 8). -/
opaque Config.challenge : (n : Nat) → BitVec 256

/-- Which roots pass their ROM test (bits [3:0]) and derive the identity (bits [7:4]) in boot number `boot`, when a
containment reset starts it (15 R441; 16 R483; log 9). -/
opaque Config.rootTest : (boot : Nat) → BitVec 8

/-- Journal and other firmware-internal delays are not modelled; the suites' stored answers are: does suite
`suite` pass on target (`kind`, `number`) in run `n` (17 R521, R522; log 8)? -/
opaque Config.suitePass : (n kind number suite : Nat) → Bool

/-- A reading that the manual leaves to the device's sensors when nothing was sampled yet (18 R552; log 9). -/
opaque Config.freeWord : (n i : Nat) → W32

/-- Which frame of a channel holds frame number `i` of an allocation's share of that channel; `key` names the allocation (11 R323,
R333; log 38). -/
opaque Config.frameOf : (key i : Nat) → W32

/-- The DRAM row of a channel address, which the manual does not give (11 R347; log 68). -/
opaque Config.dramRow : (a : Nat) → W32

/-- The set of a GME's coalescing cache that a line falls in, which the manual does not give (08 R233; log 73). -/
opaque Config.cacheSet : (line : Nat) → BitVec 10

/-- Does a CHALK of this record find X in KF16 in HA, else in KF8: no field of the record says so (08 R254; log 24). -/
opaque Config.chalkX16 : (record : BitVec 256) → Bool

/-- Which of the permutations that fit its sizes the copy of a forerunner image takes: the record names none
(07 R228; log 33). -/
opaque Config.compatPerm : (src dst : BitVec 512) → Nat

/-- Where the overflow list of a side descriptor lies when no record of the image names the form of its tensor
(08 R244, R245; log 34). -/
opaque Config.listPlace : (sideIndex : Nat) → Nat

end Sys2Proof
end

