-- ==== Sys2Proof/Machine/State.lean ====
section
/-! DEFINITION. The state of the block as plain data: every register, buffer, table, counter and mode that the manual
gives the device, and the queue of waiting commands. INVENTORY.md lists each with its rule and its reset value. -/

namespace Sys2Proof.Machine

/-! ### Memory -/

/-- Bytes at `lo` to `lo + len - 1` whose content is undefined, as content number `n` (log 2). -/
structure FreeRange where
  lo : Nat
  len : Nat
  n : Nat
deriving DecidableEq, Repr

/-- A byte space. `cells` lists the bytes that differ from 0, in rising order (log 3); `free` the undefined ones. -/
structure Mem where
  cells : List Host.Cell
  free : List FreeRange
deriving DecidableEq, Repr

/-! ### Measure Book records (17 R503) -/

structure Rec where
  seq : Nat
  code : Nat
  src : Nat
  fw : Bool
  ctx : Option Nat
  diag : Bool
  slots : List W64
  trig : Nat
  snap : List W64
  trunc : Bool
  tape : Nat
  boot : Nat
deriving DecidableEq, Repr

/-! ### Queues (14) -/

/-- A command that has been accepted and has not completed. -/
structure Pend where
  q : Nat
  opc : Nat
  tag : W32
  irq : Bool
deriving DecidableEq, Repr

/-- What a completion that is due will say (14 R419 to R421). -/
structure Completion where
  cmd : Pend
  status : Nat
  event : Nat
  detail : W32
  result : W64
deriving DecidableEq, Repr

/-- Registers of a queue block and the entries the device holds (14 R413 to R418). -/
structure Queue where
  sqBase : Nat
  cqBase : Nat
  log2 : Nat
  enable : Bool
  irqAll : Bool
  error : Bool
  halted : Bool
  tail : Nat
  head : Nat
  cqHead : Nat
  cqTail : Nat
  phase : Bool
  irqAddr : W64
  irqData : W32
  fetched : List (BitVec 512)
  accepted : List (BitVec 512)
  due : List Completion
deriving DecidableEq, Repr

/-- What a long-running command waits for. -/
inductive OpenKind where
  /-- DESC_DESTROY: the entries of a range becoming empty (07 R208). -/
  | destroy (first count : Nat)
  /-- QUEUE_DELETE: the fetched commands of a queue (14 R428). -/
  | queueDelete (q : Nat)
  /-- CHAN_RETRAIN or CHAN_RETIRE of logical channel `l` of Spool `m` (11 R352). -/
  | channel (m l : Nat)
  /-- BASTE_TAKE or BASTE_DRAIN of a Baste ID (15 R453, R457). -/
  | baste (id : Nat)
  /-- PATTERN_UPDATE or THIMBLE_UPDATE (16 R500). -/
  | update
deriving DecidableEq, Repr

structure OpenCmd where
  cmd : Pend
  kind : OpenKind
deriving DecidableEq, Repr

/-! ### Cores (04, 05, 06) -/

/-- The action that is next in its stream, with its scheduled instant formed (05 R163). -/
structure NextAct where
  w : W64
  e : Option Nat
  tack : Nat
  n0 : Nat
  n1 : Nat
  n2 : Nat
  val : W32
  dev : Nat
  unit : Nat
  /-- The input that was not ready when the launch was last tried (0 none, 1 an earlier action, 2 room in the engine's queue,
  3 a plan, reduction unit or fence, 4 a shape word, 5 a Knot, 6 an earlier array command), and the lateness cause that goes with it (02 R69). -/
  input : Nat
  cause : Nat
deriving DecidableEq, Repr

/-- A launched action that has not completed (05 R163). -/
structure Action where
  id : Nat
  w : W64
  /-- Number of the instruction in its block. -/
  index : Nat
  desc : BitVec 256
  e : Option Nat
  launch : Nat
  tack : Nat
  n0 : Nat
  n1 : Nat
  n2 : Nat
  val : W32
  dev : Nat
  unit : Nat
  ctx : Nat
  step : Nat
  reads : List Nat
  writes : List Nat
  /-- The engine has done the action's work; for a Knot operation, the arrival has been sent. -/
  done : Bool
  /-- The generation that a Knot operation's arrival observed (05 R161). -/
  gen : Option W16
  /-- Start of a KARRW's wait, and whether event 0xE012 was raised for it (05 R167). -/
  since : Nat
  raised : Bool
  /-- Lines of level-4 handles that were requested for the action so far (12 R374). -/
  fetched : Nat
  /-- What a PRESS read at launch: norm, its poison, learning rate, P1, P2, slot entry, program (09 R286, R288, R295). -/
  cfg : List W32
  /-- The input that became ready last and the cause of the launch's lateness (02 R69). -/
  input : Nat
  cause : Nat
  /-- The update step of its core that it launched in (00 R562; 06 R183). -/
  cyc : Nat
deriving DecidableEq, Repr

/-- A wait of a stream: its start, and whether event 0xE012 was raised for it (05 R167). -/
structure Wait where
  since : Nat
  knot : Bool
  item : Nat
  raised : Bool
deriving DecidableEq, Repr

structure StreamSt where
  ctx : Option Nat
  block : Nat
  pc : Nat
  ended : Bool
  s : Tbl W32
  p : BitVec 8
  lc : Tbl W32
  gen : W16
  tapeHi : W32
  nxt : Option NextAct
  acts : List Action
  count : Nat
  wait : Option Wait
  /-- Input and cause of the stream's last wait, for the action that becomes next after it (02 R69). -/
  lateBy : Nat × Nat
deriving DecidableEq, Repr

/-- A handle table entry (06 R178); `listed`: placed from a handle list, not by HMAP. -/
structure Handle where
  ctx : Nat
  spilled : Bool
  level : Nat
  log2nb : Nat
  firstBank : Nat
  bankOff : Nat
  lines : Nat
  zero : Bool
  users : Nat
  backing : Nat
  listed : Bool
  /-- A handle list handle of a context in LOADED state is placed and not valid (06 R186, R187). -/
  valid : Bool
  /-- The byte ranges that hold what a PATCH wrote last: operands of patch passes (08 R251; 04 R140). -/
  patched : List (Nat × Nat)
deriving DecidableEq, Repr

/-- An element in an array: its binary32 value and its poison (04 R130). -/
structure Elem where
  v : W32
  poison : Bool
deriving DecidableEq, Repr

/-- One row's or column's operand for an inner window: elements by inner index, in ascending order (04 R122, R129). -/
abbrev Entry := List (Nat × Elem)

/-- One array step's input: the column quad, the 16 held entries and the weight tile of 4 columns (04 R111). -/
structure StepIn where
  quad : Nat
  /-- The activation operand is the compressed one. -/
  byRow : Bool
  /-- One operand is compressed: an element that it selects and the other does not hold is zero (04 R128). -/
  kept : Bool
  ents : List Entry
  tile : List Entry
deriving DecidableEq, Repr

/-- A launched array command that has not completed; `chalk`: 0 ARR, 1 and 2 the two commands of a CHALK (04 R135;
08 R255). -/
structure ArrCmd where
  st : Str
  id : Nat
  ctx : Nat
  e : Nat
  chalk : Nat
  m : Nat
  n : Nat
  k : Nat
  next : Nat
  drained : Nat
  verdicts : Nat
  /-- Of a CHALK's second command: mask bits of each drained group's columns, and which of them are poisoned. -/
  hits : Tbl (Nat × Nat)
deriving DecidableEq, Repr

/-- An accumulation group on a bank (04 R113). -/
structure Grp where
  st : Str
  id : Nat
  chalk : Nat
  mb : Nat
  nb : Nat
  win : Nat
  quad : Nat
  /-- The step within the quad's window: KF16 and 4:4 windows take several (04 R112, R127). -/
  sub : Nat
  sampled : Bool
  ended : Bool
deriving DecidableEq, Repr

structure Bank where
  grp : Option Grp
  acc : Tbl Elem
deriving DecidableEq, Repr

/-- A shadow group in a partner's shadow region (04 R141, R143). `stage`: 0 receiving, 1 ready, 2 run by the partner,
3 waiting for the referee, 4 run by the referee. -/
structure Shadow where
  primary : Nat
  st : Str
  id : Nat
  ctx : Option Nat
  chalk : Nat
  mb : Nat
  nb : Nat
  idle : Bool
  init : Tbl Elem
  steps : List StepIn
  pv : Tbl Elem
  qv : Tbl Elem
  rv : Tbl Elem
  stage : Nat
  endTape : Nat
deriving DecidableEq, Repr

/-- A verdict on its way to the primary (04 R143): 0 match, 1 primary wins, 2 partner wins, 3 no majority. -/
structure VerdictMsg where
  st : Str
  id : Nat
  chalk : Nat
  mb : Nat
  nb : Nat
  idle : Bool
  kind : Nat
  vals : Tbl Elem
deriving DecidableEq, Repr

structure Strike where
  tape : Nat
  unresolved : Bool
deriving DecidableEq, Repr

/-- Corrected-error counting of a scratchpad bank (06 R191): times of the last hour, above the threshold, total. -/
structure BankErr where
  log : List Nat
  above : Bool
  total : Nat
deriving DecidableEq, Repr

/-- The present update step of a core's shared scalars (00 R562; 05 R147): its number, the streams whose accesses reached
it, what the scalars written in it held before it, and the rank in the order B, F, U of the write that stands. -/
structure CoreCyc where
  no : Nat
  streams : List Str
  before : Tbl W32
  rank : Tbl Nat
deriving DecidableEq, Repr

structure Core where
  sf : StreamSt
  sb : StreamSt
  su : StreamSt
  shared : Tbl W32
  cyc : CoreCyc
  handles : Tbl Handle
  arrq : List ArrCmd
  bankA : Bank
  bankB : Bank
  nextB : Bool
  /-- The command whose entries the Bobbins and the weight queue hold and fetch: stream, action, `ArrCmd.chalk` (04 R122). -/
  feeds : Option (Str × Nat × Nat)
  /-- Windows whose entries stand in a Bobbin, numbered over the groups of the command in the order of 04 R115; the data is
  what memory holds when a step consumes it (04 R123). -/
  bob : Tbl (List Nat)
  bobFill : Tbl Nat
  /-- Tiles that stand in the weight queue: 8 times the number of their window, plus the column quad. -/
  wq : List Nat
  wqFill : Nat
  held : List Entry
  shadow : Option Shadow
  verdicts : List VerdictMsg
  strikes : List Strike
  idleCount : Nat
  lastIdle : Option Nat
  lastGroup : Nat
  bankErr : Tbl BankErr
deriving DecidableEq, Repr

/-! ### Contexts (05, 08, 09, 10) -/

inductive CtxState where
  | empty | loaded | running | stopping
deriving DecidableEq, Repr

structure Block where
  insns : List W64
  tacks : List (BitVec 128)
  recs : List (BitVec 256)
  hlist : List (BitVec 128)
  bytes : Nat
deriving DecidableEq, Repr

structure CoreMapE where
  core : Nat
  block : Nat
  entF : Nat
  entB : Nat
  entU : Nat
  shadow : Nat
  s : List W32
deriving DecidableEq, Repr

structure KnotDecl where
  id : Nat
  barrier : Bool
  stepEnd : Bool
  target : Nat
  absorb : Nat
deriving DecidableEq, Repr

structure DescUse where
  idx : Nat
  rd : Bool
  wr : Bool
  fmt : Nat
deriving DecidableEq, Repr

/-- A loaded schedule image (05 R169, R170). -/
structure Image where
  major : Nat
  length : Nat
  pace : Nat
  seed : W64
  stepPeriod : Nat
  slipLimit : Nat
  watchdog : Nat
  blocks : List Block
  cores : List CoreMapE
  knots : List KnotDecl
  shapes : List (Nat × Nat)
  descs : List DescUse
  clusterMap : List Nat
  /-- The handle numbers that the image names (06 R179). -/
  owned : List Nat
deriving DecidableEq, Repr

/-- A shape-word slot (05 R158); `clamped`: the present write was already reported by 0xE011. -/
structure Shape where
  value : W32
  step : W16
  valid : Bool
  poison : Bool
  clamped : Bool
deriving DecidableEq, Repr

structure ChalkLayer where
  al : Nat
  fb : Bool
  missLimit : W32
  eps : W32
  minSample : Nat
  sumP : Nat
  aud : Nat
  miss : Nat
  unaud : Nat
  flag : Bool
  /-- The flag was set by an AUDIT that has completed: it acts on what launches from then on (08 R261). -/
  acting : Bool
  /-- The neurons of the layer's last effective mask in the present training step (08 R258, R260). -/
  eff : List Nat
deriving DecidableEq, Repr

/-- A line that a run-ahead buffer holds for an action (02 R77 to R79). -/
structure AheadLine where
  line : Nat
  act : Act
deriving DecidableEq, Repr

/-- An optimiser slot entry in force with its running P1 and P2 (09 R286, R292). -/
structure OSlot where
  e : BitVec 512
  p1 : W32
  p2 : W32
deriving DecidableEq, Repr

structure StageE where
  slot : Nat
  len : Nat
  tag : W64
deriving DecidableEq, Repr

/-- The counts of a context in the present training step (03 R108, 07 R220, 08 R263, 09 R297, 10 R319), each list
in the payload order of its summary event. -/
structure Counts where
  arith : Tbl Nat
  idx : Tbl Nat
  sparse : Tbl Nat
  press : Tbl Nat
  route : Tbl Nat
deriving DecidableEq, Repr

/-- A barrier completion whose waiters are held (11 R337; 15 R446): the Knot, the generation that completed, since when,
and the Spool that caused a pause. -/
structure Hold where
  knot : Nat
  gen : W16
  since : Nat
  spool : Nat
deriving DecidableEq, Repr

structure Ctx where
  st : CtxState
  img : Option Image
  runBase : Nat
  step : Nat
  stepLimit : Nat
  slip : Nat
  inc : Nat
  slipEv : Nat
  stop : Option Nat
  stopFault : Option Nat
  runCmd : Option Pend
  stopCmds : List Pend
  counts : Counts
  firsts : List (Nat × Nat)
  shapes : Tbl Shape
  chalk : Tbl ChalkLayer
  chalkPend : List (BitVec 384)
  slots : Tbl OSlot
  slotPend : List (Nat × BitVec 512)
  progs : Tbl (BitVec 1536)
  progPend : List (Nat × BitVec 1536)
  epoch : Nat
  stages : List (List StageE)
  /-- The hold of an ordered pause, and the hold of a retirement. -/
  hold : Option Hold
  rhold : Option Hold
  pauseWanted : Option Nat
  poisonSeen : Bool
  stepTapes : List Nat
deriving DecidableEq, Repr

structure SeqSlot where
  len : Nat
  step : Nat
  tag : W64
deriving DecidableEq, Repr

/-- An assignment of sequence slots (10 R313). -/
structure SeqAssignment where
  ctx : Nat
  first : Nat
  count : Nat
  lmax : Nat
  mirror : Option Nat
  total : Option Nat
  base : Option Nat
deriving DecidableEq, Repr

structure SeqSt where
  slots : Tbl SeqSlot
  assigns : List SeqAssignment
deriving DecidableEq, Repr

/-- A Knot that a context holds (02 R58). -/
structure Knot where
  count : Nat
  target : Nat
  gen : W16
  barrier : Bool
  stepEnd : Bool
  absorb : Nat
  owner : Nat
deriving DecidableEq, Repr

/-- Where an arrival comes from: a stream's action, or a partner's packet. -/
inductive ArrSrc where
  | act (a : Act)
  | remote (seam dev tag : Nat)
deriving DecidableEq, Repr

structure Arrival where
  knot : Nat
  amount : Nat
  src : ArrSrc
deriving DecidableEq, Repr

/-! ### Tape and pace (02) -/

structure TapeSt where
  now : Nat
  latch : Tbl W32
  source : Nat
  ppsFalling : Bool
  stepAllow : Bool
  offset : Int
  slew : Int
  ref : Nat
  counterOk : BitVec 4
  lastPps : Option Nat
  ppsSeen : Bool
  ppsLost : Bool
  /-- Since when the device waits for an edge of the selected polarity with the selected source (02 R54; log 59). -/
  ppsFrom : Nat
  /-- The upstream changed: the next correction is a slew (12 R377). -/
  slewNext : Bool
  beyondSince : Option Nat
  alignLost : Bool
  late : Tbl W32
  /-- What TP_LATE_n held before the device's last update of it (00 R14), and cause and input of the largest lateness (R69). -/
  lateWas : Tbl W32
  lateWhy : Tbl (Nat × Nat)
deriving DecidableEq, Repr

structure PaceSt where
  rates : Tbl Nat
  saturated : Bool
  vcore : Nat
  /-- The ceiling that Throttle sets (18 R546). -/
  ceiling : Option Nat
deriving DecidableEq, Repr

/-! ### Yoke (14) -/

structure YokeSt where
  mode : Nat
  healthy : BitVec 8
  width : Nat
  down : Option Nat
  devirq : BitVec 3
  /-- The bits of YK_DEVIRQ that the device has set since the last access to it (00 R13). -/
  devirqSet : BitVec 3
  devirqEn : BitVec 3
  devirqAddr : W64
  devirqData : W32
  aper : Tbl W64
  lowHeld : Tbl W32
  directory : List Nat
  lastServed : Nat
  bareTape : Nat
  bareCause : W16
  draining : Bool
  msgs : List (Nat × W32)
deriving DecidableEq, Repr

/-! ### Memory tables (07, 11, 12, 14) -/

structure Region where
  base : Nat
  units : Nat
  spool : Option Nat
deriving DecidableEq, Repr

structure Grant where
  base : Nat
  units : Nat
  rd : Bool
  wr : Bool
deriving DecidableEq, Repr

structure RemoteMap where
  base : Nat
  units : Nat
  dev : Nat
  rd : Bool
  wr : Bool
  target : Nat
deriving DecidableEq, Repr

structure ExportWin where
  base : Nat
  units : Nat
  lo : Nat
  hi : Nat
  rd : Bool
  wr : Bool
deriving DecidableEq, Repr

/-- A descriptor table entry that is not empty (07 R194). -/
inductive DescEntry where
  | native (d : BitVec 512)
  | forerunner (d : BitVec 512)
  | pair (p : BitVec 128)
deriving DecidableEq, Repr

structure CompatPage where
  target : Nat
  rd : Bool
  wr : Bool
deriving DecidableEq, Repr

/-! ### Spools (08, 09, 11) -/

/-- A physical channel (11 R333, R352): role 0 in service, 1 idle spare, 2 Darning target, 3 retired, 4 failing. -/
structure Chan where
  role : Nat
  corr : Nat
  unc : Nat
  corrLog : List Nat
  uncLog : List (Nat × Nat)
  retrains : Nat
  darnings : Nat
  lastErr : Option Nat
  /-- Lanes on which a test showed an error (11 R349). -/
  lanes : BitVec 72
  /-- Of a failing channel: when event 0x400A was last raised, and its reason (11 R346). -/
  failedAt : Nat
  reason : Nat
deriving DecidableEq, Repr

/-- A Darning (11 R341), with the request that started it. -/
structure Darn where
  logical : Nat
  src : Nat
  tgt : Nat
  mark : Nat
  retire : Bool
  start : Nat
  mode : Nat
  byCmd : Bool
deriving DecidableEq, Repr

/-- A retrain in place: the announced Tape value of its stall, and when the stall began (11 R345). -/
structure InPlace where
  logical : Nat
  notice : Nat
  begun : Option Nat
  byCmd : Bool
deriving DecidableEq, Repr

/-- A channel action that waits: logical channel, retirement, mode (0 as chosen, 1 Darning, 2 in place), by command. -/
structure ChanReq where
  logical : Nat
  retire : Bool
  mode : Nat
  byCmd : Bool
deriving DecidableEq, Repr

structure Spool where
  therm : Nat
  temp : W16
  sensor : Nat
  free : Nat
  remap : Tbl Nat
  chans : Tbl Chan
  darn : Option Darn
  inplace : Option InPlace
  waiting : List ChanReq
  /-- Originals of Darnings that are being retrained: physical channel, and whether it was a retirement (11 R343). -/
  offline : List (Nat × Bool)
  inplaceLast : Tbl Nat
  /-- Poison marks in frames that no region and no spill backing holds: physical channel and channel line (11 R331, R332). -/
  marks : List (Nat × Nat)
deriving DecidableEq, Repr

/-- An entry of an engine's command queue (08 R230, 09 R271, R279). -/
structure QEnt where
  a : Act
  launched : Bool
deriving DecidableEq, Repr

structure EngQ where
  q : List QEnt
  disabled : Bool
  hangs : List Nat
deriving DecidableEq, Repr

/-- A statistics entry of a Hem's side memory (09 R274). -/
structure HemEntry where
  a : W32
  b : W32
  ctx : Nat
  poison : Bool
deriving DecidableEq, Repr

structure Hem where
  ents : Tbl HemEntry
  q : List QEnt
deriving DecidableEq, Repr

/-! ### Seams and fabric (12) -/

/-- A data flit that is not acknowledged: its SEQ, its credit returns and its body (12 R358). -/
structure DataFlit where
  seq : Nat
  ret : (Nat × Nat) × (Nat × Nat)
  body : List Byte
deriving DecidableEq, Repr

/-- A Seam as a link; entry 64 of the table is the Yoke's, of which it holds what 14 R403 takes from 12 R357 to R360. -/
structure Seam where
  st : Nat
  mode : Nat
  active : BitVec 4
  failed : BitVec 4
  /-- The lane that retrains and since when, and the lanes that wait for it with their trigger (12 R361, R362). -/
  retrain : Option (Nat × Nat)
  laneq : List (Nat × Nat)
  retryAt : Tbl Nat
  pol : BitVec 4
  partner : W16
  pseam : Nat
  level : Nat
  levelAt : Option (Nat × Nat)
  txSeq : Nat
  rxSeq : Nat
  acked : Nat
  replay : List DataFlit
  nak : Bool
  wait : Bool
  /-- Flits that came before an earlier one, with their lanes, while no gap is known (12 R357). -/
  early : List (Nat × BitVec 2048)
  /-- The lane of the last flit sent: flits are dealt to the active lanes in rotation (12 R357). -/
  txLane : Nat
  credits : Tbl Nat
  returns : Tbl Nat
  units : List (BitVec 128)
  /-- Packets in the buffer of virtual channel 0 that wait for memory in Hold or in Trip (11 R339; 12 R371; 18 R535). -/
  held : List Packet
  /-- Packets that wait to start, in order, each with the Seam whose buffer holds it in transit (12 R358, R359, R371). -/
  waitq : List (Packet × Option Nat)
  /-- Packets started on virtual channels 0 to 2 in the present round of the arbitration; the Tape value of the last start on
  channel 3 and the time that its share asks for (12 R371). -/
  turns : Tbl Nat
  ctl : Nat × Nat
  /-- Packets with a flit in the replay buffer: SEQ of the last flit, and the packet (12 R364). -/
  flying : List (Nat × Packet)
  crcFail : Nat
  replays : Nat
  retrains : Nat
  fecCorr : Nat
  fecUnc : Nat
  replayLog : List Nat
  crcLog : List (Nat × Nat)
  lastHb : Nat
  hbSent : Nat
  ackSent : Nat
  ackMoved : Nat
  tried : Nat
  reported : Bool
deriving DecidableEq, Repr

/-- A loaded collective plan (12 R379). -/
structure Plan where
  ctx : Nat
  hdr : BitVec 512
  members : List (Nat × Nat)
  launched : Nat
deriving DecidableEq, Repr

/-- A collective instance in progress (12 R382 to R391): `parts` holds the received chunks, `sent` and `wrote` the chunks
already passed on and already written to DD. -/
structure CollInst where
  plan : Nat
  inst : Nat
  ctx : Nat
  act : Act
  unit : Nat
  ds : Nat
  dd : Nat
  n : Nat
  dstart : Nat
  ddstart : Nat
  deadline : Nat
  ready : List Nat
  parts : Tbl (List Elem)
  /-- Elements whose reduction is complete and written to DD: what later rounds send (12 R384, R385). -/
  results : Tbl Elem
  sent : List Nat
  wrote : List Nat
  dones : List Nat
  slipMax : Nat
  sentDone : Bool
deriving DecidableEq, Repr

/-- A remote request without an answer yet (12 R375, R376): 0 read, 1 write, 2 Knot arrival, 3 Baste drain write. -/
structure RemoteReq where
  kind : Nat
  tag : Nat
  dev : Nat
  addr : Nat
  len : Nat
  act : Option Act
  ctx : Nat
  /-- The core whose spill port carries the request (06 R190). -/
  port : Option Nat
deriving DecidableEq, Repr

structure FabSt where
  deviceId : W16
  forwarding : Bool
  routes : Tbl W32
  refs : List Nat
  upstream : Option Nat
  refId : Nat
  distance : Nat
  dist : Tbl (Nat × Nat)
  dropped : Nat
  unreachable : Nat
  seen : List (Nat × Nat)
  seq : Nat
  lost : List Nat
  plans : Tbl Plan
  insts : List CollInst
  earlyReady : List (Nat × Nat × Nat)
  heldLate : List (Nat × Nat × Nat)
  /-- Contexts with a collective that a received lateness notice named (02 R69, R76). -/
  noticed : List Nat
  unitsDown : List Nat
  remote : List RemoteReq
  /-- Remote writes that wait for a tag, in order (12 R375). -/
  waitWr : List RemoteReq
  align : Option Nat
deriving DecidableEq, Repr

/-- What leaves on a Seam: a packet as it is handed over, and the flits placed on its lanes. -/
inductive TxItem where
  | packet (k : Packet)
  | flit (lane : Nat) (f : BitVec 2048)
deriving DecidableEq, Repr

/-! ### Baste, clusters, Cutters, boot (15, 16) -/

/-- A Baste (15 R452): 0 EMPTY, 1 PENDING, 2 PROTECTED, 3 DRAINING, 4 DRAINED, 5 ABANDONED. -/
structure Baste where
  st : Nat
  ctx : Nat
  ranges : List (Nat × Nat)
  pool : Nat
  auto : Option Nat
  dest : Option Nat
  step : Nat
  tape : Nat
  jobs : Nat
  costFloor : Nat
  prot : List Nat
  copied : Tbl Nat
  drained : Nat
  done : List (Nat × BitVec 512)
  poison : List (Nat × Nat)
  /-- Of a drain: 0 granules, 1 tables, 2 header; the granule being written; where the image's data begins (15 R457). -/
  phase : Nat
  cur : Option Nat
  dataOff : Nat
  copies : Nat
  copyWait : Nat
  delay : Nat
  drainStart : Nat
deriving DecidableEq, Repr

structure Bolt where
  remap : Tbl Nat
  spares : List Nat
  out : List Nat
deriving DecidableEq, Repr

/-- A logical cluster due for retirement (15 R446): trigger, the spare that passed its suites. -/
structure RetireDue where
  bolt : Nat
  k : Nat
  trigger : Nat
  spare : Option Nat
deriving DecidableEq, Repr

structure ShadowSt where
  rate : Nat
  idle : Bool
  strikeLimit : Nat
  unresLimit : Nat
  window : Nat
  interval : Nat
  seed : W64
  counts : Tbl Nat
  sinceTape : Nat
deriving DecidableEq, Repr

structure HealthSt where
  hours : Nat
  faults : Nat
  advice : BitVec 6
  interval : Nat
  stepUs : Nat
  retired : List Nat
  retiredChans : List (Nat × Nat)
  scratchLog : List (Nat × Nat × Bool)
deriving DecidableEq, Repr

/-- States of the Cutters: 0 ACTIVE, 1 STANDBY, 2 OUT, 3 RETIRED (15 R464). -/
structure CutterSt where
  st : Tbl Nat
  active : Option Nat
  lastActive : Nat
  lastHb : Nat
  claim : Option Nat
  failedAt : Tbl Nat
  lastEv : W16
  period : Nat
  lastRot : Nat
  rotDue : Option Nat
  /-- A rotation that fell due during a firmware update, with its reason (16 R492). -/
  held : Option Nat
deriving DecidableEq, Repr

/-- What the device knows of a firmware image (16 R481). -/
structure FwImg where
  version : W32
  level : Nat
  svn : Nat
  journal : Nat
  meas : BitVec 512
  bytes : List Byte
deriving DecidableEq, Repr

/-- A firmware update in progress (16 R491, R494). Once it fails, `fail` holds the Selvage, the step of the update and the
reason, and the old image is restored; `root` is the root that restarts. -/
structure Update where
  thimble : Bool
  new : FwImg
  old : FwImg
  persist : Bool
  raiseSvn : Bool
  fail : Option (Nat × Nat × Nat)
  root : Option Nat
deriving DecidableEq, Repr

structure FwSt where
  bootCount : Nat
  stepping : Nat
  identityHash : BitVec 512
  fwKeys : Tbl (BitVec 512)
  fwRevoked : BitVec 4
  authKeys : Tbl (BitVec 512)
  authRevoked : BitVec 4
  svnThimble : Nat
  svnPattern : Nat
  flash : Mem
  preferred : Nat
  booted : Nat
  warm : Bool
  booting : Bool
  bootAt : Nat
  roots : BitVec 4
  rootImg : Tbl FwImg
  cutImg : Tbl FwImg
  pattern : FwImg
  mThimble : BitVec 512
  mPattern : BitVec 512
  mSched : Tbl (BitVec 512)
  upd : Option Update
  challenge : Nat
  diagEnd : Option Nat
  signs : Nat
  /-- The fuses of the test-time retirements: physical clusters, and channels with their Spool (01 R27, R34, R39; log 66). -/
  testClusters : List Nat
  testChans : List (Nat × Nat)
deriving DecidableEq, Repr

/-! ### Measure Book, Crease, tests, power, pins (17, 18) -/

structure MbSt where
  head : Nat
  drained : Nat
  sel : Nat
  overrun : Bool
  /-- The device has set OVERRUN since the last access to it (00 R13). -/
  overrunSet : Bool
  lost : Nat
  /-- What LOST held before the device's last update of it (00 R14). -/
  lostWas : Option Nat
  lostFrom : Option Nat
  ring : List Rec
  region : List Rec
  trigs : Tbl (BitVec 1280)
  flushed : Bool
  /-- An MB_FLUSH waits for the exit from Hold (14 R431; 18 R535). -/
  flushing : Bool
  /-- First and last record that a warm reset lost, until event 0xD002 reports them (17 R509). -/
  resetLost : Option (Nat × Nat)
deriving DecidableEq, Repr

structure CreaseSt where
  regs : Tbl W64
  counts : Tbl Nat
  last : Nat
deriving DecidableEq, Repr

structure PowerSt where
  hold : Bool
  off : Bool
  plimit : Nat
  jst : Nat
  bolts : List W16
  selv : List W16
  sampled : Bool
  mv : List Nat
  dw : List Nat
  avg1000 : Nat
  limits : Nat
  limiting : Bool
  energy : Nat
  railSince : Tbl Nat
  railBad : List Nat
  thermtrip : Bool
  clocksLost : BitVec 5
  pwrGood : Bool
  /-- How long VAUX has been in tolerance, in ns; it counts up to the 100 ms of 18 R544. -/
  vaux : Option Nat
  /-- What started the exit from Hold: cause, and opcode or address (18 R535). -/
  wake : Option (Nat × Nat)
deriving DecidableEq, Repr

/-- The pins: `driven`, the SPI pins and the other outputs but PRESENT_N, THERMTRIP_N, TDO and the I3C target are driven, not
high-impedance (16 R480; 18 R539); of the sideband, dynamic I3C address, JTAG controller state and registers (18 R543, R544). -/
structure PinSt where
  driven : Bool
  i3c : Option (BitVec 7)
  tap : Nat
  ir : BitVec 8
  irShift : BitVec 8
  bypass : Bool
  tdo : Bool
deriving DecidableEq, Repr

/-- What the last read access returned (the block's answer on its bus). -/
structure OutSt where
  value : W64
  bytes : List Byte
  err : Bool
deriving DecidableEq, Repr

/-- The addressed byte spaces: device memory (00 R21, 14 R406) and the scratchpads (06 R177), each with its poisoned
64-byte lines, and the counter of undefined contents (log 2). -/
structure Store where
  mem : Mem
  memPoison : List Nat
  scratch : Mem
  scratchPoison : List Nat
  /-- The model's own counter: the number of the next undefined content (log 2). -/
  free : Nat
deriving DecidableEq, Repr

/-- Everything else that the device holds. -/
structure Dev where
  cores : Tbl Core
  ctxs : Tbl Ctx
  seq : SeqSt
  knots : Tbl Knot
  arrivals : List Arrival
  tape : TapeSt
  pace : PaceSt
  yoke : YokeSt
  queues : Tbl Queue
  opens : List OpenCmd
  regions : List Region
  grants : List Grant
  remotes : List RemoteMap
  exports : Tbl ExportWin
  descs : Tbl DescEntry
  dying : List Nat
  compat : Tbl CompatPage
  spools : Tbl Spool
  gmes : Tbl EngQ
  presses : Tbl EngQ
  engs : Tbl EngQ
  hems : Tbl Hem
  ahead : List AheadLine
  /-- The coalescing cache of each GME: by set, the lines that it holds, the one used last first (08 R233). -/
  caches : Tbl (Tbl (List Nat))
  /-- The permuting copy that holds the bounce buffer of a Serger (07 R217; 08 R234). -/
  bounce : Tbl Act
  seams : Tbl Seam
  fab : FabSt
  tx : List (Nat × TxItem)
  bolts : Tbl Bolt
  retireDue : List RetireDue
  shadow : ShadowSt
  health : HealthSt
  containReset : Bool
  bastes : Tbl Baste
  cutter : CutterSt
  fw : FwSt
  mb : MbSt
  cr : CreaseSt
  tests : Tbl (BitVec 512)
  power : PowerSt
  pins : PinSt
  out : OutSt
  /-- The seconds in which an event that is raised at most once per second was raised, and its later occurrences (00 R557). -/
  secs : Tbl (List Nat)
  later : Tbl Nat
deriving DecidableEq, Repr

/-- All that a command can change. -/
structure Box where
  store : Store
  dev : Dev
deriving DecidableEq, Repr

structure State where
  /-- The commands that wait, first in, first out. -/
  pending : List Instr
  box : Box
deriving DecidableEq, Repr

def State.store (s : State) : Store := s.box.store
def State.dev (s : State) : Dev := s.box.dev

/-! ### Reset values -/

def Mem.empty : Mem := ⟨[], []⟩

def StreamSt.init : StreamSt :=
  { ctx := none, block := 0, pc := 0, ended := false, s := [], p := 0, lc := [], gen := 0, tapeHi := 0,
    nxt := none, acts := [], count := 0, wait := none, lateBy := (0, 0) }

def Bank.init : Bank := ⟨none, []⟩

def CoreCyc.init : CoreCyc := ⟨0, [], [], []⟩

def Core.init : Core :=
  { sf := .init, sb := .init, su := .init, shared := [], cyc := .init, handles := [], arrq := [], bankA := .init, bankB := .init,
    nextB := false, feeds := none, bob := [], bobFill := [], wq := [], wqFill := 0, held := [], shadow := none, verdicts := [],
    strikes := [], idleCount := 0, lastIdle := none, lastGroup := 0, bankErr := [] }

def Counts.zero : Counts := ⟨[], [], [], [], []⟩

/-- Chalk configuration that SCHED_LOAD sets (08 R265): AL 5, fallback on, MISS_LIMIT 0.02, EPS 0, MIN_SAMPLE 64. -/
def ChalkLayer.init : ChalkLayer :=
  { al := 5, fb := true, missLimit := 0x3CA3D70A, eps := 0, minSample := 64, sumP := 0, aud := 0, miss := 0,
    unaud := 0, flag := false, acting := false, eff := [] }

def Ctx.init : Ctx :=
  { st := .empty, img := none, runBase := 0, step := 0, stepLimit := 0, slip := 0, inc := 0,
    slipEv := 0, stop := none, stopFault := none, runCmd := none, stopCmds := [], counts := .zero, firsts := [],
    shapes := [], chalk := [], chalkPend := [], slots := [], slotPend := [], progs := [], progPend := [], epoch := 0,
    stages := [], hold := none, rhold := none, pauseWanted := none, poisonSeen := false, stepTapes := [] }

/-- A queue block after reset (14, queue block field maps): every field 0 but PHASE. -/
def Queue.init : Queue :=
  { sqBase := 0, cqBase := 0, log2 := 0, enable := false, irqAll := false, error := false, halted := false, tail := 0,
    head := 0, cqHead := 0, cqTail := 0, phase := true, irqAddr := 0, irqData := 0, fetched := [], accepted := [],
    due := [] }

def Chan.init (role : Nat) : Chan :=
  { role := role, corr := 0, unc := 0, corrLog := [], uncLog := [], retrains := 0, darnings := 0, lastErr := none,
    lanes := 0, failedAt := 0, reason := 0 }

/-- A Spool after reset: 293,888 frames that host software can allocate (11 R324). Channels 32 and 33 are spare: the reset values
of YK_SPARES, SP_CHSTATE and SP_FREE are U, and the model starts with both spares and every frame (DESIGN CHOICE, log 66). -/
def Spool.init : Spool :=
  { therm := 0, temp := 0, sensor := 0, free := 293888, remap := [], chans := [], darn := none, inplace := none,
    waiting := [], offline := [], inplaceLast := [], marks := [] }

def EngQ.init : EngQ := ⟨[], false, []⟩
def Hem.init : Hem := ⟨[], []⟩

def Seam.init : Seam :=
  { st := 0, mode := 0, active := 0, failed := 0, retrain := none, laneq := [], retryAt := [], pol := 0, partner := 0xFFFF, pseam := 0,
    level := 0, levelAt := none, txSeq := 0, rxSeq := 0, acked := 65535, replay := [], nak := false, wait := false,
    early := [], txLane := 0, credits := [], returns := [], units := [], held := [], waitq := [], turns := [], ctl := (0, 0)
    flying := [], crcFail := 0, replays := 0, retrains := 0, fecCorr := 0, fecUnc := 0,
    replayLog := [], crcLog := [], lastHb := 0, hbSent := 0, ackSent := 0, ackMoved := 0, tried := 0, reported := false }

/-- Units of the partner's buffers: 32 KiB, 32 KiB, 128 KiB and 8 KiB in units of 16 bytes (12 R359). -/
def bufferUnits : Tbl Nat := [(0, 2048), (1, 2048), (2, 8192), (3, 512)]

/-- The Yoke's link at its bring-up (12 R359; 14 R403). -/
def Seam.yoke : Seam := { Seam.init with st := 2, credits := bufferUnits }

def Baste.init : Baste :=
  { st := 0, ctx := 0, ranges := [], pool := 0, auto := none, dest := none, step := 0, tape := 0, jobs := 1,
    costFloor := 0, prot := [], copied := [], drained := 0, done := [], poison := [], phase := 0, cur := none, dataOff := 0, copies := 0, copyWait := 0,
    delay := 0, drainStart := 0 }

/-- A Bolt whose test retired no cluster: spares 16 and 17 remain. How many remain is reset U (01 R27, R38); the model starts with
both (DESIGN CHOICE, log 66). -/
def Bolt.init : Bolt := ⟨[], [16, 17], []⟩

def FwImg.none : FwImg := ⟨0, 0, 0, 0, 0, []⟩

def TapeSt.init : TapeSt :=
  { now := 0, latch := [], source := 0, ppsFalling := false, stepAllow := true, offset := 0, slew := 0, ref := 0,
    counterOk := 15, lastPps := none, ppsSeen := false, ppsLost := false, ppsFrom := 0, slewNext := false, beyondSince := none,
    alignLost := false, late := [], lateWas := [], lateWhy := [] }

def PaceSt.init : PaceSt := { rates := [], saturated := false, vcore := 650, ceiling := none }

def YokeSt.init : YokeSt :=
  { mode := 0, healthy := 255, width := 8, down := none, devirq := 0, devirqSet := 0, devirqEn := 0,
    devirqAddr := 0, devirqData := 0, aper := [], lowHeld := [], directory := [], lastServed := 7, bareTape := 0,
    bareCause := 0, draining := false, msgs := [] }

def FabSt.init : FabSt :=
  { deviceId := 0xFFFF, forwarding := false, routes := [], refs := [], upstream := none, refId := 0xFFFF, distance := 0,
    dist := [], dropped := 0, unreachable := 0, seen := [], seq := 0, lost := [], plans := [], insts := [],
    earlyReady := [], heldLate := [], noticed := [], unitsDown := [], remote := [], waitWr := [], align := none }

/-- SHADOW_CONFIG after power-on (15 R473). -/
def ShadowSt.init : ShadowSt :=
  { rate := 10, idle := true, strikeLimit := 3, unresLimit := 6, window := 24, interval := 100, seed := 0, counts := [],
    sinceTape := 0 }

def HealthSt.init : HealthSt :=
  { hours := 0, faults := 0, advice := 0, interval := 0, stepUs := 0, retired := [], retiredChans := [],
    scratchLog := [] }

def CutterSt.init : CutterSt :=
  { st := [], active := none, lastActive := 0, lastHb := 0, claim := none, failedAt := [], lastEv := 0, period := 24,
    lastRot := 0, rotDue := none, held := none }

def FwSt.init : FwSt :=
  { bootCount := 0, stepping := 1, identityHash := 0, fwKeys := [], fwRevoked := 0, authKeys := [], authRevoked := 0,
    svnThimble := 0, svnPattern := 0, flash := .empty, preferred := 0, booted := 0, warm := false, booting := false,
    bootAt := 0, roots := 0, rootImg := [], cutImg := [], pattern := .none,
    mThimble := 0, mPattern := 0, mSched := [], upd := none, challenge := 0, diagEnd := none, signs := 0,
    testClusters := [], testChans := [] }

def MbSt.init : MbSt :=
  { head := 1, drained := 1, sel := 0, overrun := false, overrunSet := false, lost := 0, lostWas := none, lostFrom := none, ring := [],
    region := [], trigs := [], flushed := false, flushing := false, resetLost := none }

def CreaseSt.init : CreaseSt := ⟨[], [], 0⟩

def PowerSt.init : PowerSt :=
  { hold := false, off := false, plimit := 2900, jst := 0, bolts := [], selv := [], sampled := false, mv := [], dw := [],
    avg1000 := 0, limits := 0, limiting := false, energy := 0, railSince := [], railBad := [], thermtrip := false,
    clocksLost := 0, pwrGood := false, vaux := none, wake := none }

def PinSt.init : PinSt := { driven := false, i3c := none, tap := 15, ir := 0, irShift := 0, bypass := false, tdo := false }

def OutSt.init : OutSt := ⟨0, [], false⟩

def Store.init : Store := { mem := .empty, memPoison := [], scratch := .empty, scratchPoison := [], free := 0 }

def Dev.init : Dev :=
  { cores := [], ctxs := [], seq := ⟨[], []⟩, knots := [], arrivals := [], tape := .init, pace := .init, yoke := .init,
    queues := [], opens := [], regions := [], grants := [], remotes := [], exports := [], descs := [], dying := [],
    compat := [], spools := [], gmes := [], presses := [], engs := [], hems := [], ahead := [], caches := [], bounce := [], seams := [],
    fab := .init, tx := [], bolts := [], retireDue := [], shadow := .init, health := .init, containReset := false,
    bastes := [], cutter := .init, fw := .init, mb := .init, cr := .init, tests := [], power := .init, pins := .init,
    out := .init, secs := [], later := [] }

/-- The device right after power-on reset, PWR_GOOD still low (00 R9; 18 R539; log 1, 4, 5). -/
def State.reset : State := { pending := [], box := { store := .init, dev := .init } }

/-- The reasons a step stops with a fault: none. No operation of the device traps (03 R86); what goes wrong raises
an event, fails a command or stops a context, and each of these is a next state. -/
inductive Fault where
deriving DecidableEq, Repr

/-- The reasons a step is refused. -/
inductive Refusal where
  /-- `exec` answers it for a command that has no meaning yet. Safe: nothing is claimed of the command. -/
  | notModelled (mnemonic : String)
  /-- JTAG_TCK_EDGE answers it when a private JTAG instruction would act, whose effect the manual does not give
  (18 R543). Safe: nothing is claimed of that instruction. -/
  | jtagPrivate
deriving DecidableEq, Repr

end Sys2Proof.Machine
end

