-- ==== Sys2Proof/Machine/Table.lean ====
section
/-! DEFINITION. Named operations on the tables and lists that the state is made of. -/

namespace Sys2Proof.Machine

/-! ### Tables by number, kept in rising order -/

def get? {α : Type} : Tbl α → Nat → Option α
  | [], _ => none
  | (k, v) :: t, n => if k = n then some v else get? t n

def getD {α : Type} (t : Tbl α) (n : Nat) (d : α) : α := (get? t n).getD d

def put {α : Type} : Tbl α → Nat → α → Tbl α
  | [], n, v => [(n, v)]
  | (k, x) :: t, n, v => if n < k then (n, v) :: (k, x) :: t else if n = k then (n, v) :: t else (k, x) :: put t n v

def del {α : Type} (t : Tbl α) (n : Nat) : Tbl α := t.filter fun e => e.1 != n

/-- Changes an entry, a missing entry being `d`. -/
def upd {α : Type} (t : Tbl α) (n : Nat) (d : α) (f : α → α) : Tbl α := put t n (f (getD t n d))

def updAll {α : Type} (t : Tbl α) (f : Nat → α → α) : Tbl α := t.map fun e => (e.1, f e.1 e.2)

def has {α : Type} (t : Tbl α) (n : Nat) : Bool := (get? t n).isSome

def keys {α : Type} (t : Tbl α) : List Nat := t.map (·.1)

/-! ### Sets of numbers as rising lists -/

def addSet : List Nat → Nat → List Nat
  | [], n => [n]
  | k :: t, n => if n < k then n :: k :: t else if n = k then k :: t else k :: addSet t n

def delSet (t : List Nat) (n : Nat) : List Nat := t.filter (· != n)

/-! ### Lists -/

/-- `len` numbers from `lo`. -/
def span (lo len : Nat) : List Nat := (List.range len).map (lo + ·)

def replaceAt {α : Type} : List α → Nat → α → List α
  | [], _, _ => []
  | _ :: t, 0, v => v :: t
  | x :: t, n + 1, v => x :: replaceAt t n v

def lastN {α : Type} (n : Nat) (l : List α) : List α := l.drop (l.length - n)

/-- The first repetition in a list. -/
def firstDup : List Nat → Option Nat
  | [] => none
  | x :: t => if t.contains x then some x else firstDup t

/-- A list cut into pieces of `n`. -/
def pieces {α : Type} (n : Nat) (l : List α) : List (List α) :=
  (List.range ((l.length + n - 1) / n)).map fun i => (l.drop (n * i)).take n

/-- Rounding up to a multiple. -/
def ceilTo (m n : Nat) : Nat := (n + m - 1) / m * m
def ceilDiv (n m : Nat) : Nat := (n + m - 1) / m

/-- A counter of `w` bits that saturates (00 R14). -/
def satAdd (w a b : Nat) : Nat := min (a + b) (2 ^ w - 1)

def sumN (l : List Nat) : Nat := l.foldl (· + ·) 0
def maxN (l : List Nat) : Nat := l.foldl max 0

/-! ### Bytes, least significant first (00 R8) -/

/-- A number from bytes, least significant first. -/
def leNat : List Byte → Nat
  | [] => 0
  | b :: t => b.toNat + 256 * leNat t

/-- `n` bytes of a number. -/
def leBytes : Nat → Nat → List Byte
  | 0, _ => []
  | n + 1, v => BitVec.ofNat 8 v :: leBytes n (v / 256)

def zeros (n : Nat) : List Byte := List.replicate n 0

/-- A byte string cut or filled with zeros to `n` bytes. -/
def padTo (n : Nat) (l : List Byte) : List Byte := (l ++ zeros (n - l.length)).take n

/-- The number in bytes `o` to `o + n - 1` of a byte string; bytes beyond its end are 0. -/
def leAt (l : List Byte) (o n : Nat) : Nat := leNat ((l.drop o).take n)

def toW64 (i : Int) : W64 := BitVec.ofInt 64 i

def boolN (b : Bool) : Nat := if b then 1 else 0

end Sys2Proof.Machine
end

