-- ==== Sys2Proof/Machine/Ops.lean ====
section
/-! DEFINITION. The named operations over the byte spaces: device memory and the scratchpads, with the poison marks of
their 64-byte lines (06 R192, 11 R331) and content that the manual leaves undefined (log 2). -/

namespace Sys2Proof.Machine

/-- A byte with the poison mark of the line it came from or goes to. -/
abbrev PB := Byte × Bool

/-! ### One byte space -/

/-- What an unlisted address reads as (log 3). -/
def unlisted : Byte := 0

def cellAt : List Host.Cell → Nat → Byte
  | [], _ => unlisted
  | (k, v) :: t, a => if k = a then v else cellAt t a

def setCell : List Host.Cell → Nat → Byte → List Host.Cell
  | [], a, b => if b = unlisted then [] else [(a, b)]
  | (k, v) :: t, a, b =>
    if a < k then (if b = unlisted then (k, v) :: t else (a, b) :: (k, v) :: t)
    else if a = k then (if b = unlisted then t else (a, b) :: t)
    else (k, v) :: setCell t a b

def FreeRange.holds (r : FreeRange) (a : Nat) : Bool := r.lo ≤ a && a < r.lo + r.len

/-- The range without the bytes `lo` to `lo + len - 1`. -/
def FreeRange.minus (r : FreeRange) (lo len : Nat) : List FreeRange :=
  if lo + len ≤ r.lo ∨ r.lo + r.len ≤ lo then [r]
  else (if r.lo < lo then [{ r with len := lo - r.lo }] else [])
    ++ (if lo + len < r.lo + r.len then [{ r with lo := lo + len, len := r.lo + r.len - (lo + len) }] else [])

/-- The byte at an address: listed, undefined (a free value), or what an unlisted address reads as. -/
def Mem.byte (m : Mem) (a : Nat) : Byte :=
  match m.free.find? (·.holds a) with
  | some r => Config.freeByte r.n a
  | none => cellAt m.cells a

def Mem.setByte (m : Mem) (a : Nat) (b : Byte) : Mem :=
  { cells := setCell m.cells a b, free := m.free.flatMap (·.minus a 1) }

def Mem.read (m : Mem) : Nat → Nat → List Byte
  | _, 0 => []
  | a, n + 1 => m.byte a :: m.read (a + 1) n

def Mem.write (m : Mem) : Nat → List Byte → Mem
  | _, [] => m
  | a, b :: t => (m.setByte a b).write (a + 1) t

/-- Makes `len` bytes read as zero. -/
def Mem.zero (m : Mem) (lo len : Nat) : Mem :=
  { cells := m.cells.filter fun c => c.1 < lo || lo + len ≤ c.1, free := m.free.flatMap (·.minus lo len) }

/-- Makes the content of `len` bytes undefined, as content number `n`. -/
def Mem.undefine (m : Mem) (lo len n : Nat) : Mem :=
  if len = 0 then m
  else { cells := (m.zero lo len).cells, free := (m.zero lo len).free ++ [⟨lo, len, n⟩] }

def cellsWf : List Host.Cell → Bool
  | [] => true
  | [(_, v)] => v != unlisted
  | (k, v) :: (k', v') :: t => v != unlisted && k < k' && cellsWf ((k', v') :: t)

/-- The canonical form: addresses strictly rising, no listed byte equal to what an unlisted address reads as, and the
undefined ranges not empty and without listed bytes. -/
def Mem.wf (m : Mem) : Bool :=
  cellsWf m.cells && m.free.all fun r => 0 < r.len && m.cells.all fun c => !r.holds c.1

/-! ### Lines and poison -/

/-- The 64-byte lines that a byte range touches. -/
def linesOf (a n : Nat) : List Nat := if n = 0 then [] else span (a / 64) ((a + n - 1) / 64 - a / 64 + 1)

/-- Poison marks after a write of `bad` bytes at `a`: a line that receives a poisoned byte is marked; a line written
whole with clean bytes loses its mark; any other line keeps it (06 R192, 11 R331). -/
def markWrite (p : List Nat) (a : Nat) (bad : List Bool) : List Nat :=
  (linesOf a bad.length).foldl (fun p ln =>
    let lo := ln * 64 - a
    if ((bad.drop lo).take (ln * 64 + 64 - a - lo)).any id then addSet p ln
    else if a ≤ ln * 64 && ln * 64 + 64 ≤ a + bad.length then delSet p ln
    else p) p

def markZero (p : List Nat) (a n : Nat) : List Nat := p.filter fun ln => ln * 64 + 64 ≤ a || a + n ≤ ln * 64

/-! ### The two spaces of the store -/

/-- Scratchpad address of byte 0 of a bank line of a core (06 R176). -/
def scrAddr (core bank line : Nat) : Nat := core * 2097152 + bank * 65536 + line * 64

namespace Store

def rdMem (s : Store) (a n : Nat) : List PB := (s.mem.read a n).zip ((span a n).map fun x => s.memPoison.contains (x / 64))
def rdScr (s : Store) (a n : Nat) : List PB :=
  (s.scratch.read a n).zip ((span a n).map fun x => s.scratchPoison.contains (x / 64))

def wrMem (s : Store) (a : Nat) (l : List PB) : Store :=
  { s with mem := s.mem.write a (l.map (·.1)), memPoison := markWrite s.memPoison a (l.map (·.2)) }
def wrScr (s : Store) (a : Nat) (l : List PB) : Store :=
  { s with scratch := s.scratch.write a (l.map (·.1)), scratchPoison := markWrite s.scratchPoison a (l.map (·.2)) }

def zeroMem (s : Store) (a n : Nat) : Store := { s with mem := s.mem.zero a n, memPoison := markZero s.memPoison a n }
def zeroScr (s : Store) (a n : Nat) : Store :=
  { s with scratch := s.scratch.zero a n, scratchPoison := markZero s.scratchPoison a n }

/-- The content of `n` bytes becomes undefined (log 2); a scratchpad line keeps its poison mark, which only a write of all 64 bytes
clears (06 R192). -/
def undefMem (s : Store) (a n : Nat) : Store :=
  { s with mem := s.mem.undefine a n s.free, memPoison := markZero s.memPoison a n, free := s.free + 1 }
def undefScr (s : Store) (a n : Nat) : Store :=
  { s with scratch := s.scratch.undefine a n s.free, free := s.free + 1 }

/-- Scratchpad lines that lose their power lose content and marks (06 R187). -/
def lostScr (s : Store) (a n : Nat) : Store :=
  { s with scratch := s.scratch.undefine a n s.free, scratchPoison := markZero s.scratchPoison a n, free := s.free + 1 }

def poisonMem (s : Store) (line : Nat) : Store := { s with memPoison := addSet s.memPoison line }
def poisonScr (s : Store) (line : Nat) : Store := { s with scratchPoison := addSet s.scratchPoison line }

/-- The canonical form of both spaces. -/
def wf (s : Store) : Bool := s.mem.wf && s.scratch.wf

end Store

/-- Clean bytes. -/
def clean (l : List Byte) : List PB := l.map fun b => (b, false)
def bytesOf (l : List PB) : List Byte := l.map (·.1)
def anyBad (l : List PB) : Bool := l.any (·.2)

/-! ### Answers of a meaning -/

abbrev Res := Host.Outcome State Fault Refusal

def Box.onD (b : Box) (f : Dev → Dev) : Box := { b with dev := f b.dev }
def Box.onS (b : Box) (f : Store → Store) : Box := { b with store := f b.store }

/-- A next state whose device is changed by `f`; memory and the queue of waiting commands are not touched. -/
def State.onDev (s : State) (f : Dev → Dev) : Res := .next { s with box := s.box.onD f }

/-- A next state whose store and device are changed by `f`; the queue of waiting commands is not touched. -/
def State.on (s : State) (f : Box → Box) : Res := .next { s with box := f s.box }

end Sys2Proof.Machine
end

