-- ==== Sys2Proof/Machine/Access.lean ====
section
/-! DEFINITION. Reading and changing the parts of the device by number, and its numbering (01 R22, R24, R25, R35, R36). -/

namespace Sys2Proof

/-- The number of a stream (05 R160). -/
def Str.num : Str → Nat
  | .F => 0
  | .B => 1
  | .U => 2

end Sys2Proof

namespace Sys2Proof.Machine

/-! ### Numbering -/

def boltOf (core : Nat) : Nat := core / 256
/-- Device-wide logical cluster of a core (01 R25). -/
def clusterOf (core : Nat) : Nat := core / 16
/-- Home Spool of a Bolt (01 R35). -/
def homeSpool (bolt : Nat) : Nat := bolt / 3

/-- Die IDs (01 R22). -/
def dieSpool (m : Nat) : Nat := 0x20 + m
def dieSelvage (s : Nat) : Nat := 0x30 + s
/-- The Selvage of a Seam (01 R37). -/
def dieSeam (p : Nat) : Nat := 0x30 + p / 16
/-- The Selvage of a Knot (01 R36). -/
def dieKnot (k : Nat) : Nat := 0x30 + k / 4096

/-! ### Parts by number -/

namespace Dev

def core (d : Dev) (c : Nat) : Core := getD d.cores c .init
def setCore (d : Dev) (c : Nat) (x : Core) : Dev := { d with cores := put d.cores c x }
def updCore (d : Dev) (c : Nat) (f : Core → Core) : Dev := d.setCore c (f (d.core c))

def ctx (d : Dev) (n : Nat) : Ctx := getD d.ctxs n .init
def setCtx (d : Dev) (n : Nat) (x : Ctx) : Dev := { d with ctxs := put d.ctxs n x }
def updCtx (d : Dev) (n : Nat) (f : Ctx → Ctx) : Dev := d.setCtx n (f (d.ctx n))

def queue (d : Dev) (q : Nat) : Queue := getD d.queues q .init
def setQueue (d : Dev) (q : Nat) (x : Queue) : Dev := { d with queues := put d.queues q x }
def updQueue (d : Dev) (q : Nat) (f : Queue → Queue) : Dev := d.setQueue q (f (d.queue q))

def spool (d : Dev) (m : Nat) : Spool := getD d.spools m .init
def setSpool (d : Dev) (m : Nat) (x : Spool) : Dev := { d with spools := put d.spools m x }
def updSpool (d : Dev) (m : Nat) (f : Spool → Spool) : Dev := d.setSpool m (f (d.spool m))

/-- The link of a Seam, or with 64 that of the Yoke. -/
def seam (d : Dev) (p : Nat) : Seam := getD d.seams p (if p = 64 then .yoke else .init)
def setSeam (d : Dev) (p : Nat) (x : Seam) : Dev := { d with seams := put d.seams p x }
def updSeam (d : Dev) (p : Nat) (f : Seam → Seam) : Dev := d.setSeam p (f (d.seam p))

def bolt (d : Dev) (b : Nat) : Bolt := getD d.bolts b .init
def updBolt (d : Dev) (b : Nat) (f : Bolt → Bolt) : Dev := { d with bolts := put d.bolts b (f (d.bolt b)) }

def hem (d : Dev) (k : Nat) : Hem := getD d.hems k .init
def updHem (d : Dev) (k : Nat) (f : Hem → Hem) : Dev := { d with hems := put d.hems k (f (d.hem k)) }

def baste (d : Dev) (i : Nat) : Baste := getD d.bastes i .init
def setBaste (d : Dev) (i : Nat) (x : Baste) : Dev := { d with bastes := put d.bastes i x }

end Dev

def Core.stream (c : Core) : Str → StreamSt
  | .F => c.sf
  | .B => c.sb
  | .U => c.su

def Core.setStream (c : Core) : Str → StreamSt → Core
  | .F, x => { c with sf := x }
  | .B, x => { c with sb := x }
  | .U, x => { c with su := x }

def Dev.stream (d : Dev) (s : CS) : StreamSt := (d.core s.core).stream s.st
def Dev.setStream (d : Dev) (s : CS) (x : StreamSt) : Dev := d.updCore s.core fun c => c.setStream s.st x
def Dev.updStream (d : Dev) (s : CS) (f : StreamSt → StreamSt) : Dev := d.setStream s (f (d.stream s))

/-- A placed handle, valid or not. -/
def Core.placed (c : Core) (h : Nat) : Option Handle := get? c.handles h
/-- A valid handle (06 R178, R187). -/
def Core.handle (c : Core) (h : Nat) : Option Handle := (c.placed h).filter (·.valid)
def Core.setHandle (c : Core) (h : Nat) (x : Handle) : Core := { c with handles := put c.handles h x }
def Core.delHandle (c : Core) (h : Nat) : Core := { c with handles := del c.handles h }

/-- A physical channel; channels 32 and 33 are idle spares until used (11 R321). That both remain at shipment is the model's choice
(01 R34; log 66). -/
def Spool.chan (s : Spool) (n : Nat) : Chan := getD s.chans n (.init (if n < 32 then 0 else 1))
def Spool.updChan (s : Spool) (n : Nat) (f : Chan → Chan) : Spool := { s with chans := put s.chans n (f (s.chan n)) }
/-- The physical channel of a logical one (11 R321). -/
def Spool.phys (s : Spool) (l : Nat) : Nat := getD s.remap l l
/-- The logical channel that maps to a physical one. -/
def Spool.logical (s : Spool) (p : Nat) : Option Nat := (List.range 32).find? fun l => s.phys l == p
/-- Idle spare channels (01 R38). -/
def Spool.spares (s : Spool) : List Nat := (List.range 34).filter fun n => (s.chan n).role == 1

/-- The physical cluster of a logical cluster of a Bolt (01 R24). -/
def Bolt.phys (b : Bolt) (k : Nat) : Nat := getD b.remap k k

/-- Device-wide physical cluster of a core: 18 x Bolt + physical cluster (17 R505). -/
def Dev.physOf (d : Dev) (core : Nat) : Nat := 18 * boltOf core + (d.bolt (boltOf core)).phys (core / 16 % 16)

/-! ### Modes -/

def Dev.now (d : Dev) : Nat := d.tape.now
def Dev.ready (d : Dev) : Bool := d.yoke.mode == 1
def Dev.bare (d : Dev) : Bool := d.yoke.mode == 2
/-- In the diagnostic state (16 R498). -/
def Dev.diag (d : Dev) : Bool := d.fw.diagEnd.isSome
/-- The Selvage of the active Cutter, or of the last one. -/
def Dev.cutterNo (d : Dev) : Nat := d.cutter.active.getD d.cutter.lastActive
/-- The die of records that Pattern forms. -/
def Dev.fwDie (d : Dev) : Nat := dieSelvage d.cutterNo
/-- No Cutter is active: VCORE keeps its last set point (02 R68). -/
def Dev.vcoreHeld (d : Dev) : Bool := d.bare || d.cutter.active.isNone
/-- Pattern serves commands: ready, and some Cutter ACTIVE (14 R430, 15 R464). -/
def Dev.serving (d : Dev) : Bool := d.ready && d.cutter.active.isSome && !d.power.off

def Ctx.live (c : Ctx) : Bool := c.st == .running || c.st == .stopping
def Dev.liveCtxs (d : Dev) : List Nat := (List.range 8).filter fun n => (d.ctx n).live
def Dev.runningCtxs (d : Dev) : List Nat := (List.range 8).filter fun n => (d.ctx n).st == .running

def strs : List Str := [.F, .B, .U]

/-- Changes every stream. -/
def Dev.mapStreams (d : Dev) (f : StreamSt → StreamSt) : Dev :=
  { d with cores := d.cores.map fun e => (e.1, { e.2 with sf := f e.2.sf, sb := f e.2.sb, su := f e.2.su }) }

/-- A stream waits on a Knot for context `n`: in a KWAIT, or through a launched KARRW. -/
def StreamSt.waitsOn (s : StreamSt) (n k : Nat) : Bool :=
  s.ctx == some n && (s.wait.any (fun w => w.knot && w.item == k)
    || s.acts.any fun a => Insn.opc a.w == 0x42 && Insn.kid a.w == k)

/-- The waiters of a Knot are released from a hold: what they launch next is late with the hold's cause (11 R338; 15 R446). -/
def Dev.markReleased (d : Dev) (n k cause : Nat) : Dev :=
  d.mapStreams fun s => if s.waitsOn n k then { s with lateBy := (5, cause) } else s

/-! ### Schedule loads in progress (01 R28; 05 R173) -/

/-- The entries of SCHED_LOAD commands that were accepted and have not completed. -/
def Dev.loads (d : Dev) : List (BitVec 512) :=
  (List.range 9).flatMap fun q => (d.queue q).accepted.filter fun e => fld e 0 16 == 0x0301

/-- A schedule load is in progress. -/
def Dev.loading (d : Dev) : Bool := !d.loads.isEmpty

/-- A schedule load for context `n` is in progress. -/
def Dev.loadingCtx (d : Dev) (n : Nat) : Bool := d.loads.any fun e => fld e 224 3 == n

/-- Some launched action of the core has not completed. -/
def Core.busy (c : Core) : Bool := strs.any fun s => !(c.stream s).acts.isEmpty

/-- BM_STATUS.DRAINED: no context RUNNING or STOPPING and no launched action incomplete (14 R431). -/
def Dev.drained (d : Dev) : Bool := d.liveCtxs.isEmpty && d.cores.all fun e => !e.2.busy

/-- The pace class in force: the highest among the running schedules (02 R65). -/
def Dev.paceClass (d : Dev) : Nat :=
  maxN (d.liveCtxs.filterMap fun n => (d.ctx n).img.map (·.pace))

/-- The entry of a core in a context's core map. -/
def Ctx.coreMap (c : Ctx) (core : Nat) : Option CoreMapE := c.img.bind fun i => i.cores.find? (·.core == core)

def Ctx.block (c : Ctx) (n : Nat) : Option Block := c.img.bind fun i => i.blocks[n]?

/-- The Knot declaration of an image. -/
def Ctx.knotDecl (c : Ctx) (k : Nat) : Option KnotDecl := c.img.bind fun i => i.knots.find? (·.id == k)

/-- The streams that a core map entry names: stream, entry instruction (05 R170). -/
def CoreMapE.entries (e : CoreMapE) : List (Str × Nat) :=
  ([(Str.F, e.entF), (Str.B, e.entB), (Str.U, e.entU)] : List (Str × Nat)).filter fun x => x.2 != 0xFFFF

/-- Every stream of a context. -/
def Ctx.streams (c : Ctx) : List (Nat × Str × Nat) :=
  c.img.elim [] fun i => i.cores.flatMap fun e => e.entries.map fun x => (e.core, x.1, x.2)

/-- A logical core number as a stream's core. -/
def coreFin (n : Nat) : Fin 6144 := ⟨n % 6144, Nat.mod_lt _ (by decide)⟩

def mkCS (core : Nat) (st : Str) : CS := ⟨coreFin core, st⟩

/-- Every launched incomplete action of a context, with its stream. -/
def Dev.actsOf (d : Dev) (n : Nat) : List (CS × Action) :=
  d.cores.flatMap fun e => strs.flatMap fun st =>
    (((e.2.stream st).acts.filter (·.ctx == n)).map fun a => (mkCS e.1 st, a))

/-- A launched action by stream and number. -/
def Dev.action (d : Dev) (a : Act) : Option Action := (d.stream a.cs).acts.find? (·.id == a.id)
def Dev.updAction (d : Dev) (a : Act) (f : Action → Action) : Dev :=
  if (d.action a).isNone then d
  else d.updStream a.cs fun s => { s with acts := s.acts.map fun x => if x.id == a.id then f x else x }
/-- The engine has done the action's work. -/
def Dev.actDone (d : Dev) (a : Act) : Dev := d.updAction a fun x => { x with done := true }

end Sys2Proof.Machine
end

