-- ==== Sys2Proof/Machine/Flags.lean ====
section
/-! DEFINITION. The predicates of a stream: guards, comparisons and predicate logic (05 R146, R149, R152, R159). They are
the only flags of the machine: scalar arithmetic sets none (05 R160). -/

namespace Sys2Proof.Machine

def StreamSt.pred (s : StreamSt) (n : Nat) : Bool := bitOf s.p n

def StreamSt.setPred (s : StreamSt) (n : Nat) (b : Bool) : StreamSt :=
  let m := BitVec.ofNat 8 (2 ^ n)
  { s with p := if b then s.p ||| m else s.p &&& ~~~ m }

/-- The guard of an instruction holds: unguarded, or the predicate is 1, or 0 with PN (05 R149). -/
def StreamSt.guard (s : StreamSt) (w : W64) : Bool := !Insn.g w || (s.pred (Insn.psel w) != Insn.pn w)

/-! ### The conditions of CMPEQ to CMPGEU (05 R159) -/

def condEq (a b : W32) : Bool := a == b
def condNe (a b : W32) : Bool := a != b
def condLt (a b : W32) : Bool := decide (a.toInt < b.toInt)
def condGe (a b : W32) : Bool := decide (b.toInt ≤ a.toInt)
def condLtu (a b : W32) : Bool := decide (a.toNat < b.toNat)
def condGeu (a b : W32) : Bool := decide (b.toNat ≤ a.toNat)

end Sys2Proof.Machine
end

