-- ==== Sys2Proof/Machine/Hash.lean ====
section
/-! DEFINITION. SHA3-512 of a byte string, as FIPS 202 defines it (05 R169; 15 R451; 16 R481). -/

namespace Sys2Proof.Machine
namespace Keccak

/-- The state: 25 lanes, lane x + 5 y at place x + 5 y. -/
abbrev Lanes := List W64

def lane (a : Lanes) (x y : Nat) : W64 := a.getD (x % 5 + 5 * (y % 5)) 0

def build (f : Nat → Nat → W64) : Lanes := (List.range 25).map fun i => f (i % 5) (i / 5)

def rotl (w : W64) (n : Nat) : W64 := w.rotateLeft (n % 64)

def theta (a : Lanes) : Lanes :=
  let c := (List.range 5).map fun x => lane a x 0 ^^^ lane a x 1 ^^^ lane a x 2 ^^^ lane a x 3 ^^^ lane a x 4
  let d := (List.range 5).map fun x => c.getD ((x + 4) % 5) 0 ^^^ rotl (c.getD ((x + 1) % 5) 0) 1
  build fun x y => lane a x y ^^^ d.getD x 0

/-- Rotation offsets by lane. -/
def offsets : List Nat :=
  [0, 1, 62, 28, 27, 36, 44, 6, 55, 20, 3, 10, 43, 25, 39, 41, 45, 15, 21, 8, 18, 2, 61, 56, 14]

def rho (a : Lanes) : Lanes := build fun x y => rotl (lane a x y) (offsets.getD (x + 5 * y) 0)
/-- Lane (x, y) comes from lane (x + 3 y, x). -/
def pi (a : Lanes) : Lanes := build fun x y => lane a (x + 3 * y) x
def chi (a : Lanes) : Lanes := build fun x y => lane a x y ^^^ (~~~ lane a (x + 1) y &&& lane a (x + 2) y)
def iota (k : W64) (a : Lanes) : Lanes := build fun x y => if x = 0 ∧ y = 0 then lane a 0 0 ^^^ k else lane a x y

def roundConsts : List W64 :=
  [0x1, 0x8082, 0x800000000000808A, 0x8000000080008000, 0x808B, 0x80000001, 0x8000000080008081,
   0x8000000000008009, 0x8A, 0x88, 0x80008009, 0x8000000A, 0x8000808B, 0x800000000000008B,
   0x8000000000008089, 0x8000000000008003, 0x8000000000008002, 0x8000000000000080, 0x800A,
   0x800000008000000A, 0x8000000080008081, 0x8000000000008080, 0x80000001, 0x8000000080008008]

def permute (a : Lanes) : Lanes := roundConsts.foldl (fun a k => iota k (chi (pi (rho (theta a))))) a

/-- Mixes one 72-byte block into the state. -/
def absorb (a : Lanes) (blk : List Byte) : Lanes :=
  permute ((List.range 25).map fun i =>
    if i < 9 then a.getD i 0 ^^^ BitVec.ofNat 64 (leAt blk (8 * i) 8) else a.getD i 0)

/-- The message with its padding: bits 01, then 10...01, to a multiple of 72 bytes. -/
def pad (m : List Byte) : List Byte :=
  let q := 72 - m.length % 72
  m ++ (if q = 1 then [0x86] else (0x06 : Byte) :: (zeros (q - 2) ++ [0x80]))

end Keccak

/-- SHA3-512: 64 bytes. -/
def sha3_512 (m : List Byte) : List Byte :=
  let a := (pieces 72 (Keccak.pad m)).foldl Keccak.absorb (List.replicate 25 0)
  (a.take 8).flatMap fun w => leBytes 8 w.toNat

/-- SHA3-512 as a word, byte 0 in bits [7:0]. -/
def sha3Word (m : List Byte) : BitVec 512 := BitVec.ofNat 512 (leNat (sha3_512 m))

end Sys2Proof.Machine
end

