-- ==== Sys2Proof/Machine/Float.lean ====
section
/-! DEFINITION. binary32 arithmetic as IEEE 754 gives it, rounding to nearest-even, with canonical NaNs (03 R86, R89),
and EXP and LOG within one unit in the last place (05 R162; log 6). -/

namespace Sys2Proof.Machine

/-- A binary32 value: NaN, infinity, or (-1)^neg x m x 2^e exactly. -/
inductive Fv where
  | nan
  | inf (neg : Bool)
  | fin (neg : Bool) (m : Nat) (e : Int)
deriving DecidableEq, Repr

namespace B32

def nan : W32 := 0x7FC00000
def inf (neg : Bool) : W32 := if neg then 0xFF800000 else 0x7F800000
def zero (neg : Bool) : W32 := if neg then 0x80000000 else 0

def neg (w : W32) : Bool := bitOf w 31
def mag (w : W32) : Nat := fld w 0 31
def ofMag (n : Bool) (m : Nat) : W32 := BitVec.ofNat 32 (m + (if n then 2 ^ 31 else 0))

def isNan (w : W32) : Bool := 0x7F800000 < mag w
def isInf (w : W32) : Bool := mag w == 0x7F800000
def isZero (w : W32) : Bool := mag w == 0
def isFinite (w : W32) : Bool := mag w < 0x7F800000
/-- Below the smallest normal magnitude, zero included. -/
def isTiny (w : W32) : Bool := mag w < 0x00800000

def val (w : W32) : Fv :=
  let x := mag w
  if 0x7F800000 < x then .nan
  else if x = 0x7F800000 then .inf (neg w)
  else if x < 0x00800000 then .fin (neg w) x (-149)
  else .fin (neg w) (x % 2 ^ 23 + 2 ^ 23) ((x / 2 ^ 23 : Nat) - 150)

/-- Nearest-even binary32 magnitude of m x 2^e, to which `sticky` adds a positive amount below one unit of m. -/
def round (n : Bool) (m : Nat) (e : Int) (sticky : Bool) : W32 :=
  if m = 0 then zero n
  else
    let q : Int := max (e + Nat.log2 m - 23) (-149)
    let k : Nat :=
      if q ≤ e then m * 2 ^ (e - q).toNat
      else
        let sh := (q - e).toNat
        let k := m / 2 ^ sh
        let r := m % 2 ^ sh
        if 2 ^ sh < 2 * r ∨ (2 ^ sh = 2 * r ∧ (sticky ∨ k % 2 = 1)) then k + 1 else k
    let x := (q + 149).toNat * 2 ^ 23 + k
    if 0x7F800000 ≤ x then inf n else ofMag n x

/-- The exact sum of two finite dyadic values as sign, magnitude and exponent; equal magnitudes of opposite sign give
+0 under nearest-even. -/
def addExact (n1 : Bool) (m1 : Nat) (e1 : Int) (n2 : Bool) (m2 : Nat) (e2 : Int) : Bool × Nat × Int :=
  let e := min e1 e2
  let a : Int := (m1 * 2 ^ (e1 - e).toNat : Nat)
  let b : Int := (m2 * 2 ^ (e2 - e).toNat : Nat)
  let s : Int := (if n1 then -a else a) + (if n2 then -b else b)
  if s = 0 then ((n1 && n2 && (m1 == 0 && m2 == 0)), 0, e) else (decide (s < 0), s.natAbs, e)

def add (a b : W32) : W32 :=
  match val a, val b with
  | .nan, _ => nan
  | _, .nan => nan
  | .inf x, .inf y => if x = y then inf x else nan
  | .inf x, _ => inf x
  | _, .inf y => inf y
  | .fin n1 m1 e1, .fin n2 m2 e2 => let r := addExact n1 m1 e1 n2 m2 e2; round r.1 r.2.1 r.2.2 false

def flip (a : W32) : W32 := if isNan a then nan else a ^^^ 0x80000000
def abs (a : W32) : W32 := if isNan a then nan else a &&& 0x7FFFFFFF

def sub (a b : W32) : W32 := add a (flip b)

def mul (a b : W32) : W32 :=
  match val a, val b with
  | .nan, _ => nan
  | _, .nan => nan
  | .inf x, .inf y => inf (x != y)
  | .inf x, .fin y m _ => if m = 0 then nan else inf (x != y)
  | .fin x m _, .inf y => if m = 0 then nan else inf (x != y)
  | .fin n1 m1 e1, .fin n2 m2 e2 => round (n1 != n2) (m1 * m2) (e1 + e2) false

/-- a x b + c, rounded once. -/
def fma (a b c : W32) : W32 :=
  match val a, val b, val c with
  | .nan, _, _ => nan
  | _, .nan, _ => nan
  | _, _, .nan => nan
  | .fin n1 m1 e1, .fin n2 m2 e2, .fin n3 m3 e3 =>
    let r := addExact (n1 != n2) (m1 * m2) (e1 + e2) n3 m3 e3
    round r.1 r.2.1 r.2.2 false
  | .fin _ _ _, .fin _ _ _, .inf z => inf z
  | _, _, _ => add (mul a b) c

def div (a b : W32) : W32 :=
  match val a, val b with
  | .nan, _ => nan
  | _, .nan => nan
  | .inf _, .inf _ => nan
  | .inf x, .fin y _ _ => inf (x != y)
  | .fin x _ _, .inf y => zero (x != y)
  | .fin n1 m1 e1, .fin n2 m2 e2 =>
    if m2 = 0 then (if m1 = 0 then nan else inf (n1 != n2))
    else
      let q := m1 * 2 ^ 64 / m2
      round (n1 != n2) q (e1 - e2 - 64) (m1 * 2 ^ 64 % m2 != 0)

/-- Square root of a natural number, rounded down, by bits from 2^(2 fuel - 2) downward. -/
def isqrt (n : Nat) : Nat → Nat → Nat
  | 0, r => r
  | k + 1, r => isqrt n k (if (r + 2 ^ k) * (r + 2 ^ k) ≤ n then r + 2 ^ k else r)

def sqrt (a : W32) : W32 :=
  match val a with
  | .nan => nan
  | .inf true => nan
  | .inf false => inf false
  | .fin n m e =>
    if m = 0 then zero n
    else if n then nan
    else
      let e' := if e % 2 = 0 then e else e - 1
      let m' := if e % 2 = 0 then m else 2 * m
      let x := m' * 2 ^ 64
      let r := isqrt x 50 0
      round false r ((e' - 64) / 2) (r * r != x)

/-- Order of two values without NaN: -0 below +0 when `signed`. -/
def key (w : W32) : Int := if neg w then -(mag w : Int) else mag w
def lt (a b : W32) : Bool := !isNan a && !isNan b && key a < key b

def minV (a b : W32) : W32 :=
  if isNan a || isNan b then nan
  else if key a < key b ∨ (key a = key b ∧ neg a) then a else b
def maxV (a b : W32) : W32 :=
  if isNan a || isNan b then nan
  else if key a < key b ∨ (key a = key b ∧ neg a) then b else a

/-- An integer as binary32, rounded to nearest-even. -/
def ofInt (i : Int) : W32 := round (decide (i < 0)) i.natAbs 0 false

/-- The nearest integer of a finite value, ties to even; the second part of a NaN or an infinity is not used. -/
def toInt (w : W32) : Int :=
  match val w with
  | .fin n m e =>
    let k : Nat :=
      if 0 ≤ e then m * 2 ^ e.toNat
      else
        let sh := (-e).toNat
        let q := m / 2 ^ sh
        let r := m % 2 ^ sh
        if 2 ^ sh < 2 * r ∨ (2 ^ sh = 2 * r ∧ q % 2 = 1) then q + 1 else q
    if n then -(k : Int) else k
  | _ => 0

/-! ### EXP and LOG -/

/-- Fixed point with 256 bits behind the point. -/
def fix : Nat := 2 ^ 256
/-- ln 2 in fixed point, rounded down. -/
def ln2 : Int := 80260960185991308862233904206310070533990667611589946606122867505419956976171

/-- The binary32 value next above, in magnitude for positive values. -/
def nextUp (w : W32) : W32 := ofMag (neg w) (mag w + 1)

/-- The binary32 magnitude of m x 2^e rounded toward zero. -/
def trunc (n : Bool) (m : Nat) (e : Int) : W32 :=
  if m = 0 then zero n
  else
    let q : Int := max (e + Nat.log2 m - 23) (-149)
    let k := if q ≤ e then m * 2 ^ (e - q).toNat else m / 2 ^ (q - e).toNat
    let x := (q + 149).toNat * 2 ^ 23 + k
    if 0x7F800000 ≤ x then ofMag n 0x7F7FFFFF else ofMag n x

/-- Terms of the exponential series for a fixed-point argument. -/
def expSeries (r : Int) : Nat → Nat → Int → Int → Int
  | 0, _, _, acc => acc
  | k + 1, n, t, acc => let t' := t * r / (fix * n); expSeries r k (n + 1) t' (acc + t')

/-- A finite binary32 value in fixed point, rounded down. -/
def toFix (n : Bool) (m : Nat) (e : Int) : Int :=
  let x : Int := if n then -(m : Int) else m
  if 0 ≤ e + 256 then x * 2 ^ (e + 256).toNat else x / 2 ^ (-(e + 256)).toNat

/-- e^a: exact at zero and the infinities, infinity above the range, else one of the two neighbours (log 6). -/
def exp (a : W32) : W32 :=
  match val a with
  | .nan => nan
  | .inf true => zero false
  | .inf false => inf false
  | .fin n m e =>
    if m = 0 then 0x3F800000
    else if !n && 0x42B17218 ≤ mag a then inf false
    else if n && 0x42D00000 ≤ mag a then (if Config.expUp a then 1 else 0)
    else
      let x := toFix n m e
      let k := x / ln2
      let r := x - k * ln2
      let y := expSeries r 64 1 fix fix
      let f := trunc false y.toNat (k - 256)
      if Config.expUp a then nextUp f else f

/-- Terms of 2 atanh z. -/
def atanhSeries (z2 : Int) : Nat → Nat → Int → Int → Int
  | 0, _, _, acc => acc
  | k + 1, n, t, acc => atanhSeries z2 k (n + 2) (t * z2 / fix) (acc + 2 * t / n)

/-- ln a: minus infinity at zero, NaN below it, exact at 1 and +infinity, else one of the two neighbours (log 6). -/
def log (a : W32) : W32 :=
  match val a with
  | .nan => nan
  | .inf true => nan
  | .inf false => inf false
  | .fin n m e =>
    if m = 0 then inf true
    else if n then nan
    else if a = 0x3F800000 then 0
    else
      let l := Nat.log2 m
      let k : Int := e + l
      let x : Int := (m * fix / 2 ^ l : Nat)
      let z := (x - fix) * fix / (x + fix)
      let y := k * ln2 + atanhSeries (z * z / fix) 100 1 z 0
      let f := trunc (decide (y < 0)) y.natAbs (-256)
      if Config.logUp a then nextUp f else f

end B32
end Sys2Proof.Machine
end

