-- ==== Sys2Proof/Machine/Formats.lean ====
section
/-! DEFINITION. Element formats: their codes, encodings, conversions with both roundings, and their layout in memory
(03 R81 to R106, R563). -/

namespace Sys2Proof.Machine

/-! ### Codes (03 R81) -/

def fmtValid (f : Nat) : Bool := f ≤ 3 || (8 ≤ f && f ≤ 18)

/-- Bits per element. -/
def fmtBits (f : Nat) : Nat :=
  if f = 0 ∨ f = 0x11 ∨ f = 0x12 then 32
  else if f = 1 ∨ f = 0x10 then 16
  else if f = 2 ∨ f = 8 ∨ f = 9 then 8
  else if f = 3 ∨ f = 0xA ∨ f = 0xB then 4
  else if f = 0xC ∨ f = 0xD then 2
  else 1

/-- Always stored planar (03 R102). -/
def fmtPlanar (f : Nat) : Bool := f == 3 || (0xA ≤ f && f ≤ 0xF)
/-- May be stored planar: these formats and KF8 and KI8. -/
def fmtMayPlanar (f : Nat) : Bool := fmtPlanar f || f == 2 || f == 8 || f == 9
def fmtKF (f : Nat) : Bool := f == 1 || f == 2 || f == 3
def fmtKI (f : Nat) : Bool := 8 ≤ f && f ≤ 0xF
def fmtInt (f : Nat) : Bool := 8 ≤ f && f ≤ 0x12
/-- Formats whose index or code values are signed: KI signed and SI32. -/
def fmtSigned (f : Nat) : Bool := f == 9 || f == 0xB || f == 0xD || f == 0xF || f == 0x12

/-! ### Reading an element as binary32 (03 R82 to R88, R90) -/

/-- A binary32 pattern with exponent field X and the top mantissa bits. -/
def pat (neg : Bool) (x m : Nat) : W32 := B32.ofMag neg (x * 2 ^ 23 + m)

/-- The integer that a code of an integer format holds. -/
def codeInt (f v : Nat) : Int := if fmtSigned f then sext (fmtBits f) v else (v % 2 ^ fmtBits f : Nat)

/-- Conversion of an element to binary32: exact but for 32-bit integers (03 R93). -/
def toB32 (f v : Nat) : W32 :=
  if f = 0 then BitVec.ofNat 32 v
  else if f = 1 then
    let e := v / 128 % 256
    let m := v % 128
    let n := v / 32768 % 2 == 1
    if e = 0 then B32.zero n else if e = 255 then (if m = 0 then B32.inf n else B32.nan) else pat n e (m * 2 ^ 16)
  else if f = 2 then
    let e := v / 2 % 64
    let m := v % 2
    let n := v / 128 % 2 == 1
    if e = 0 then B32.zero n else if e = 63 then (if m = 0 then B32.inf n else B32.nan) else pat n (e + 96) (m * 2 ^ 22)
  else if f = 3 then
    let e := v % 8
    let n := v / 8 % 2 == 1
    if e = 0 then B32.zero n else pat n (e + 120) 0
  else B32.ofInt (codeInt f v)

/-! ### Rounding keys (03 R94, R95) -/

/-- The generator of 03 R95. -/
def srBits (seed : W64) (step key : W32) (index : W64) : W32 :=
  let x := seed ^^^ (step.setWidth 64 * 0x9E3779B97F4A7C15#64)
  let x := x ^^^ (((key.setWidth 64 <<< 32) ||| key.setWidth 64) * 0xC2B2AE3D27D4EB4F#64)
  let x := x ^^^ (index * 0xD1B54A32D192ED03#64)
  let x := (x ^^^ (x >>> 30)) * 0xBF58476D1CE4E5B9#64
  let x := (x ^^^ (x >>> 27)) * 0x94D049BB133111EB#64
  let x := x ^^^ (x >>> 31)
  (x >>> 32).setWidth 32

/-- How a store rounds: to nearest-even, or stochastically with seed, training step and key. -/
inductive Rnd where
  | even
  | stoch (seed : W64) (step key : W32)
deriving DecidableEq, Repr

/-! ### Conversion of binary32 into a format (03 R90 to R94) -/

/-- Mantissa bits that a KF destination discards. -/
def kfDrop (f : Nat) : Nat := if f = 1 then 16 else if f = 2 then 22 else 23

/-- Stage 1 of 03 R91 or the rule of R94: the rounded binary32 magnitude of a normal value. A carry raises the
exponent. For KF4 a tie goes to the even biased exponent, k + 7, which is X - 120 and has the parity of X. -/
def roundMag (f : Nat) (r : Rnd) (index m : Nat) : Nat :=
  let d := kfDrop f
  let low := m % 2 ^ d
  let base := m - low
  match r with
  | .stoch seed step key =>
    let b := (srBits seed step key (BitVec.ofNat 64 index)).toNat / 2 ^ (32 - d)
    if 2 ^ d ≤ low + b then base + 2 ^ d else base
  | .even =>
    let odd := base / 2 ^ d % 2 == 1
    if 2 ^ d < 2 * low ∨ (2 * low = 2 ^ d ∧ odd) then base + 2 ^ d else base

/-- Range of an integer format. -/
def intRange (f : Nat) : Int × Int :=
  let b := fmtBits f
  if fmtSigned f then (-(2 ^ (b - 1)), 2 ^ (b - 1) - 1) else (0, 2 ^ b - 1)

/-- Conversion of a binary32 value to the code of a format, for the element with a linear index. -/
def ofB32 (f : Nat) (r : Rnd) (index : Nat) (v : W32) : Nat :=
  let n := B32.neg v
  let s := boolN n
  if f = 0 then (if B32.isNan v then B32.nan.toNat else v.toNat)
  else if f = 1 then
    if B32.isNan v then 0x7FC0
    else if B32.isInf v then s * 32768 + 0x7F80
    else if B32.isTiny v then s * 32768
    else s * 32768 + roundMag 1 r index (B32.mag v) / 2 ^ 16
  else if f = 2 then
    if B32.isNan v then 0x7F
    else if B32.isInf v then s * 128 + 0x7E
    else if B32.isTiny v then s * 128
    else
      let m := roundMag 2 r index (B32.mag v)
      let x := m / 2 ^ 23
      if x < 97 then s * 128 else if 158 < x then s * 128 + 0x7E else s * 128 + (x - 96) * 2 + m / 2 ^ 22 % 2
  else if f = 3 then
    if B32.isNan v then 0
    else if B32.isInf v then s * 8 + 7
    else if B32.isTiny v then s * 8
    else
      let x := roundMag 3 r index (B32.mag v) / 2 ^ 23
      if x < 121 then s * 8 else if 127 < x then s * 8 + 7 else s * 8 + (x - 120)
  else
    if B32.isNan v then 0
    else
      let g := intRange f
      let i := if B32.isInf v then (if n then g.1 else g.2) else max g.1 (min g.2 (B32.toInt v))
      (i % 2 ^ fmtBits f).toNat

/-- The arithmetic conditions of a conversion (03 R92, R93, R109): event codes. -/
def convConds (f : Nat) (r : Rnd) (index : Nat) (v : W32) : List Nat :=
  if f = 0 then []
  else if f = 1 ∨ f = 2 then
    if B32.isFinite v && B32.isInf (toB32 f (ofB32 f r index v)) then [0x3002] else []
  else if f = 3 then
    if B32.isNan v then [0x3004]
    else if B32.isInf v || 0x3FC00000 ≤ B32.mag v
        || (!B32.isTiny v && 127 < roundMag 3 r index (B32.mag v) / 2 ^ 23) then [0x3003] else []
  else if B32.isNan v then [0x3004]
  else
    let g := intRange f
    if B32.isInf v || B32.toInt v < g.1 || g.2 < B32.toInt v then [0x3005] else []

/-- The conditions of an operation: NaN from operands without NaN, infinity from finite operands (03 R109). -/
def opConds (ins : List W32) (out : W32) : List Nat :=
  (if B32.isNan out && ins.all (!B32.isNan ·) then [0x3001] else [])
    ++ (if B32.isInf out && ins.all B32.isFinite then [0x3002] else [])

/-! ### Layout of elements (03 R87, R104, R105, R106) -/

/-- Plane size of n elements. -/
def planeSize (n : Nat) : Nat := ceilTo 64 (ceilDiv n 8)

/-- Bytes that n elements of a format take, planar or not. -/
def storageBytes (f n : Nat) (planar : Bool) : Nat :=
  if planar then fmtBits f * planeSize n else n * (fmtBits f / 8)

/-- The bytes that hold element i of n, with the bits each contributes: byte offset, bit in the byte (planar), or the
first byte (not planar). -/
def planeByte (f n i k : Nat) : Nat := (fmtBits f - 1 - k) * planeSize n + i / 8

/-- Element i of n elements read with `get` from its storage: the code, and whether any byte of it is poisoned. -/
def readEl (get : Nat → (Byte × Bool)) (f n i : Nat) (planar : Bool) : Nat × Bool :=
  if planar then
    (List.range (fmtBits f)).foldl (fun (a : Nat × Bool) k =>
      let x := get (planeByte f n i k)
      (a.1 + (x.1.toNat / 2 ^ (i % 8) % 2) * 2 ^ k, a.2 || x.2)) (0, false)
  else
    let w := fmtBits f / 8
    let l := (span (i * w) w).map get
    (leNat (l.map (·.1)), l.any (·.2))

/-- A number from bits, lowest first. -/
def bitsNat : List Nat → Nat
  | [] => 0
  | b :: t => b + 2 * bitsNat t

/-- The storage of n elements: in planes, top plane first, padding 0, or one after another (03 R87, R104). -/
def layEls (f : Nat) (planar : Bool) (els : List (Nat × Bool)) : List (Byte × Bool) :=
  if planar then
    let p := planeSize els.length
    (List.range (fmtBits f)).flatMap fun j =>
      let k := fmtBits f - 1 - j
      (List.range p).map fun b =>
        let l := (els.drop (8 * b)).take 8
        (BitVec.ofNat 8 (bitsNat (l.map fun e => e.1 / 2 ^ k % 2)), l.any (·.2))
  else els.flatMap fun e => (leBytes (fmtBits f / 8) e.1).map fun b => (b, e.2)

/-- Fills the low bits of a top-plane read of t planes; `mid` selects the fill (03 R105), with the corrections of
03 R106 for KF8. -/
def fillPlanes (f t : Nat) (mid : Bool) (v : Nat) : Nat :=
  let b := fmtBits f
  if b ≤ t then v
  else
    let lowBits := b - t
    let x := v / 2 ^ lowBits * 2 ^ lowBits + (if mid then 2 ^ (lowBits - 1) else 0)
    if f = 2 then
      if t = 7 then v / 2 * 2
      else
        let e := x / 2 % 64
        if e = 63 then x - 2 else if e = 0 then x + 2 else x
    else x

/-- Element i of n elements in planes, read from the top `p` planes with a fill; all planes with p 0 (03 R105, R106). -/
def readTop (get : Nat → (Byte × Bool)) (f n p : Nat) (mid : Bool) (i : Nat) : Nat × Bool :=
  if p = 0 ∨ fmtBits f ≤ p then readEl get f n i true
  else
    let v := (span (fmtBits f - p) p).foldl (fun (a : Nat × Bool) k =>
      let x := get (planeByte f n i k)
      (a.1 + (x.1.toNat / 2 ^ (i % 8) % 2) * 2 ^ k, a.2 || x.2)) (0, false)
    (fillPlanes f p mid v.1, v.2)

/-- A code as the device writes it unconverted: zeros with a mantissa of 0 and the canonical NaN (03 R85, R86). -/
def cleanCode (f v : Nat) : Nat := if f ≤ 3 then ofB32 f .even 0 (toB32 f v) else v

/-- The rounding index of an element of a handle, from the operation's destination offset in 64-byte units
(03 R563). -/
def handleIndex (f off i : Nat) : Nat := 512 * off / fmtBits f + i

end Sys2Proof.Machine
end

