-- ==== Sys2Proof/Machine/RegView.lean ====
section
/-! DEFINITION. What the registers of the Yoke window read, without the effect of a read (14 R411; 19, Yoke window
registers), and the handle and Knot views of a snapshot (17 R513). -/

namespace Sys2Proof.Machine

/-- Fields side by side: value and place of the lowest bit. -/
def packFields (l : List (Nat × Nat)) : Nat := l.foldl (fun a x => a + x.1 * 2 ^ x.2) 0

def limN (w v : Nat) : Nat := v % 2 ^ w

/-! ### YK_ (14 R411 to R418; 01 R38) -/

def Dev.rdYkId (d : Dev) : Nat := packFields [(0x2480, 0), (limN 4 d.fw.stepping, 16), (d.fab.deviceId.toNat, 32)]

/-- The largest allowed width that healthy lanes form (14 R404). -/
def yokeWidthOf (healthy : Nat) : Nat := if 8 ≤ healthy then 8 else if 6 ≤ healthy then 6 else 4

def Dev.rdYkStatus (d : Dev) : Nat := packFields [(limN 2 d.yoke.mode, 0), (limN 2 d.cutterNo, 2), (limN 4 d.yoke.width, 4)]

def Dev.rdSpares (d : Dev) : Nat :=
  packFields ((List.range 24).map fun b => (min 2 (d.bolt b).spares.length, 2 * b))
    + packFields ((List.range 8).map fun m => (min 2 (d.spool m).spares.length, 2 * m + 48))

/-- The run and stop commands that a context holds open. -/
def Ctx.openCmds (c : Ctx) : List Pend := c.runCmd.toList ++ c.stopCmds

/-- Accepted commands of a queue not yet completed (14, INFLIGHT). -/
def Dev.inflight (d : Dev) (q : Nat) : Nat :=
  (d.queue q).accepted.length + (d.queue q).due.length + (d.opens.filter (·.cmd.q == q)).length
    + ((d.ctxs.flatMap fun e => e.2.openCmds).filter (·.q == q)).length

def Dev.rdQueue (d : Dev) (q o : Nat) : Nat :=
  let x := d.queue q
  if o = 0x00 then x.sqBase
  else if o = 0x08 then x.cqBase
  else if o = 0x10 then packFields [(limN 4 x.log2, 0), (boolN x.enable, 4), (boolN x.irqAll, 5)]
  else if o = 0x14 then
    packFields [(boolN (x.enable && !x.error), 0), (boolN x.error, 1), (boolN x.halted, 2), (limN 16 (d.inflight q), 16)]
  else if o = 0x18 then x.tail
  else if o = 0x1C then x.head
  else if o = 0x20 then x.cqHead
  else if o = 0x24 then packFields [(x.cqTail, 0), (boolN x.phase, 12)]
  else if o = 0x28 then x.irqAddr.toNat
  else if o = 0x30 then x.irqData.toNat
  else 0

def queueRegWidth (o : Nat) : Option Nat :=
  if o = 0x00 ∨ o = 0x08 ∨ o = 0x28 then some 64
  else if o = 0x10 ∨ o = 0x14 ∨ o = 0x18 ∨ o = 0x1C ∨ o = 0x20 ∨ o = 0x24 ∨ o = 0x30 then some 32
  else none

/-! ### TP_ (02 R57) -/

/-- OFFSET of TP_STATUS: 0 in free-run, saturating at 16 bits. -/
def Dev.tpOffset (d : Dev) : Int :=
  if d.tape.source = 0 then 0 else max (-32768) (min 32767 d.tape.offset)

def Dev.ppsRecent (d : Dev) : Bool :=
  d.tape.ppsSeen && d.tape.lastPps.elim false fun t => d.tape.now ≤ t + 1500000000

/-- LOCKED: within 20 ns of the selected source; always 1 in free-run (log 13). -/
def Dev.locked (d : Dev) : Bool :=
  d.tape.source == 0 || (decide (d.tape.offset.natAbs ≤ 20) && (d.tape.source != 1 || d.tape.lastPps.isSome))

def Dev.rdTpStatus (d : Dev) : Nat :=
  packFields [(boolN d.locked, 0), (boolN d.ppsRecent, 1), (limN 2 d.tape.ref, 2), (boolN (d.tape.slew != 0), 4),
    (limN 16 (toW64 d.tpOffset).toNat, 16)]

def Dev.rdTpCtrl (d : Dev) : Nat :=
  packFields [(d.tape.source, 0), (boolN d.tape.ppsFalling, 2), (boolN d.tape.stepAllow, 3)]

/-- Measured step rate of the slowest Bolt, in M steps/s. -/
def Dev.slowestRate (d : Dev) : Nat :=
  ((List.range 24).map fun b => getD d.pace.rates b 0).foldl min 65535

def Dev.rdTpPace (d : Dev) : Nat :=
  packFields [(d.slowestRate, 0), (d.paceClass, 16), (boolN d.pace.saturated, 18), (limN 12 d.pace.vcore, 20)]

def Dev.rdTpSlip (d : Dev) (n : Nat) : Nat := packFields [(limN 40 (d.ctx n).slip, 0), (limN 16 (d.ctx n).slipEv, 40)]
def Dev.rdTpLate (d : Dev) (n : Nat) : Nat := (getD d.tape.late n 0).toNat

/-! ### SP_ (11 R350) -/

/-- A hold because of a Spool is in force (11 R337). -/
def Dev.heldBy (d : Dev) (m : Nat) : Bool := d.ctxs.any fun e => e.2.hold.elim false fun h => h.spool == m

def Dev.rdSpTherm (d : Dev) (m : Nat) : Nat :=
  let s := d.spool m
  packFields [(limN 3 s.therm, 0), (boolN (d.heldBy m), 3), (limN 4 s.sensor, 4), (s.temp.toNat, 16)]

/-- State of a logical channel: 0 in service, 1 source of a Darning, 2 retraining in place, 3 failing. -/
def Spool.chState (s : Spool) (l : Nat) : Nat :=
  if s.darn.any (·.logical == l) then 1
  else if s.inplace.any (fun x => x.logical == l && x.begun.isSome) then 2
  else if (s.chan (s.phys l)).role = 4 then 3 else 0

def Dev.rdSpChstate (d : Dev) (m : Nat) : Nat :=
  packFields ((List.range 32).map fun l => ((d.spool m).chState l, 2 * l))

def Dev.rdSpDarn (d : Dev) (m : Nat) : Nat :=
  match (d.spool m).darn with
  | none => 0
  | some x => packFields [(1, 0), (limN 6 x.src, 1), (limN 6 x.tgt, 7), (boolN (2 ≤ (d.spool m).therm), 13),
      (boolN x.retire, 14), (limN 8 (x.mark / 9437184), 16)]

def Dev.rdSpFree (d : Dev) (m : Nat) : Nat := limN 19 (d.spool m).free

/-! ### MB_ (17 R511) -/

def Dev.mbOldest (d : Dev) : Nat :=
  ((d.mb.ring ++ d.mb.region).map (·.seq)).foldl min d.mb.head

/-- Draining pauses while the Spool that holds the region is in Trip; the model's region lies over every Spool
(11 R324; log 14). -/
def Dev.mbPaused (d : Dev) : Bool := (List.range 8).any fun m => (d.spool m).therm == 4

def trigEnabled (t : BitVec 1280) : Bool := bitOf t 32
def Dev.trigCount (d : Dev) : Nat := (d.mb.trigs.filter fun e => trigEnabled e.2).length

def Dev.rdMbStatus (d : Dev) : Nat :=
  packFields [(boolN (d.mb.drained < d.mb.head), 0), (boolN d.mbPaused, 1), (boolN d.mb.overrun, 2),
    (min 255 d.trigCount, 3)]

/-! ### BM_ (14 R431) -/

def Dev.rdBmStatus (d : Dev) : Nat :=
  packFields ([(boolN d.bare, 0), (boolN (d.yoke.draining && !d.drained), 1), (boolN d.drained, 2),
      (boolN d.mb.flushed, 3)]
    ++ (List.range 8).map fun n => (boolN (d.ctx n).live, 16 + n))

/-! ### CR_ (17 R518) -/

/-- AMPLITUDE of CR_TAPE: a multiple of 4, at most 1,000; other values are taken as 0 (17 R518). -/
def Dev.crAmplitude (d : Dev) : Nat :=
  let a := fld (getD d.cr.regs 0x3030 0) 0 10
  if a % 4 = 0 ∧ a ≤ 1000 then a else 0

/-- A configured perturbation: any CR_HS, CR_CREDIT or CR_MEM delay, a CR_FLIT action, or CR_TAPE jitter. -/
def Dev.crConfigured (d : Dev) : Bool :=
  let r := fun o => getD d.cr.regs o 0
  fld (r 0x3010) 8 16 != 0 || fld (r 0x3018) 8 16 != 0
    || (fld (r 0x3020) 6 2 == 1 && fld (r 0x3020) 8 16 != 0) || fld (r 0x3020) 6 2 == 2
    || fld (r 0x3028) 10 16 != 0 || (d.crAmplitude != 0 && fld (r 0x3030) 10 2 != 0)

def Dev.crArmed (d : Dev) : Bool := d.diag && bitOf (getD d.cr.regs 0x3000 0) 0

def Dev.rdCrease (d : Dev) (o : Nat) : Nat :=
  if !d.diag then 0
  else if o = 0x3004 then packFields [(1, 0), (boolN (d.crArmed && d.crConfigured), 1)]
  else (getD d.cr.regs o 0).toNat

/-! ### The window -/

/-- Width of the register at an offset; none where no register begins. -/
def regWidth (o : Nat) : Option Nat :=
  if o = 0x0000 ∨ o = 0x0018 ∨ o = 0x0120 then some 64
  else if o = 0x0008 ∨ o = 0x0010 ∨ o = 0x0014 ∨ o = 0x0020 then some 32
  else if 0x0200 ≤ o ∧ o < 0x0440 then queueRegWidth ((o - 0x0200) % 0x40)
  else if 0x0600 ≤ o ∧ o < 0x0680 then (if o % 8 = 0 then some 64 else none)
  else if o = 0x0800 then some 64
  else if o = 0x0808 ∨ o = 0x080C ∨ o = 0x0810 then some 32
  else if 0x0840 ≤ o ∧ o < 0x0880 then (if o % 8 = 0 then some 64 else none)
  else if 0x0880 ≤ o ∧ o < 0x08A0 then (if o % 4 = 0 then some 32 else none)
  else if 0x0A00 ≤ o ∧ o < 0x0A20 then (if o % 4 = 0 then some 32 else none)
  else if 0x0A20 ≤ o ∧ o < 0x0A60 then (if o % 8 = 0 then some 64 else none)
  else if 0x0A60 ≤ o ∧ o < 0x0AA0 then (if o % 4 = 0 then some 32 else none)
  else if o = 0x1000 ∨ o = 0x1008 ∨ o = 0x1010 ∨ o = 0x1018 then some 64
  else if o = 0x1020 ∨ o = 0x1024 then some 32
  else if o = 0x2000 ∨ o = 0x2010 ∨ o = 0x2014 then some 32
  else if o = 0x2008 then some 64
  else if o = 0x3000 ∨ o = 0x3004 then some 32
  else if o = 0x3008 ∨ o = 0x3010 ∨ o = 0x3018 ∨ o = 0x3020 ∨ o = 0x3028 ∨ o = 0x3030 then some 64
  else none

/-- What the register at an offset reads, with no effect of the read (17 R515). Offsets that begin no register
read 0. -/
def Dev.reg (d : Dev) (o : Nat) : Nat :=
  if o = 0x0000 then d.rdYkId
  else if o = 0x0008 then d.rdYkStatus
  else if o = 0x0010 then d.yoke.devirq.toNat
  else if o = 0x0014 then d.yoke.devirqEn.toNat
  else if o = 0x0018 then d.yoke.devirqAddr.toNat
  else if o = 0x0020 then d.yoke.devirqData.toNat
  else if o = 0x0120 then d.rdSpares
  else if 0x0200 ≤ o ∧ o < 0x0440 then d.rdQueue ((o - 0x0200) / 0x40) ((o - 0x0200) % 0x40)
  else if 0x0600 ≤ o ∧ o < 0x0680 then (if o % 8 = 0 then (getD d.yoke.aper ((o - 0x0600) / 8) 0).toNat else 0)
  else if o = 0x0800 then limN 64 d.tape.now
  else if o = 0x0808 then d.rdTpCtrl
  else if o = 0x080C then d.rdTpStatus
  else if o = 0x0810 then d.rdTpPace
  else if 0x0840 ≤ o ∧ o < 0x0880 then (if o % 8 = 0 then d.rdTpSlip ((o - 0x0840) / 8) else 0)
  else if 0x0880 ≤ o ∧ o < 0x08A0 then (if o % 4 = 0 then d.rdTpLate ((o - 0x0880) / 4) else 0)
  else if 0x0A00 ≤ o ∧ o < 0x0A20 then (if o % 4 = 0 then d.rdSpTherm ((o - 0x0A00) / 4) else 0)
  else if 0x0A20 ≤ o ∧ o < 0x0A60 then (if o % 8 = 0 then d.rdSpChstate ((o - 0x0A20) / 8) else 0)
  else if 0x0A60 ≤ o ∧ o < 0x0A80 then (if o % 4 = 0 then d.rdSpDarn ((o - 0x0A60) / 4) else 0)
  else if 0x0A80 ≤ o ∧ o < 0x0AA0 then (if o % 4 = 0 then d.rdSpFree ((o - 0x0A80) / 4) else 0)
  else if o = 0x1000 then limN 64 d.mb.head
  else if o = 0x1008 then limN 64 d.mbOldest
  else if o = 0x1010 then limN 64 d.mb.drained
  else if o = 0x1018 then limN 64 d.mb.sel
  else if o = 0x1020 then d.rdMbStatus
  else if o = 0x1024 then limN 32 d.mb.lost
  else if o = 0x2000 then d.rdBmStatus
  else if o = 0x2008 then limN 64 d.yoke.bareTape
  else if o = 0x2014 then d.yoke.bareCause.toNat
  else if 0x3000 ≤ o ∧ o < 0x4000 then d.rdCrease o
  else 0

/-! ### Snapshot selectors (17 R513) -/

/-- A handle table entry as its 128 bits (06 R178). -/
def Handle.bits (h : Handle) : Nat :=
  packFields [(boolN h.valid, 0), (limN 3 h.ctx, 1), (boolN h.spilled, 4), (limN 3 h.level, 5), (limN 3 h.log2nb, 8),
    (limN 5 h.firstBank, 11), (limN 10 h.bankOff, 16), (limN 17 h.lines, 26), (boolN h.zero, 43),
    (limN 16 h.users, 48), (limN 46 (h.backing / 64), 64)]

/-- The context that owns a handle number on a core (06 R179). -/
def Dev.ownerOf (d : Dev) (core h : Nat) : Option Nat :=
  (List.range 8).find? fun n => (d.ctx n).img.any fun i => i.owned.contains h && i.cores.any (·.core == core)

/-- The entry of a placed handle; of a number that is only owned, its owner. -/
def Dev.handleBits (d : Dev) (core h : Nat) : Nat :=
  ((d.core core).placed h).elim (packFields [(((d.ownerOf core h).getD 0 : Nat), 1)]) Handle.bits

def Dev.knotBits (d : Dev) (k : Nat) : Nat × Nat :=
  match get? d.knots k with
  | none => (0, 0)
  | some x => (packFields [(limN 32 x.count, 0), (limN 32 x.target, 32)],
      packFields [(x.gen.toNat, 0), (boolN x.barrier, 16), (limN 3 x.owner, 17), (1, 20)])

/-- The slots of one selector. -/
def Dev.snapshot (d : Dev) (sel : Nat) : List W64 :=
  let v := sel % 2 ^ 28
  if sel / 2 ^ 28 = 0 then [BitVec.ofNat 64 (d.reg (v % 65536))]
  else if sel / 2 ^ 28 = 1 then
    let b := d.handleBits (v % 8192) (v / 8192 % 64)
    [BitVec.ofNat 64 b, BitVec.ofNat 64 (b / 2 ^ 64)]
  else if sel / 2 ^ 28 = 2 then
    let b := d.knotBits (v % 16384)
    [BitVec.ofNat 64 b.1, BitVec.ofNat 64 b.2]
  else []

end Sys2Proof.Machine
end

