-- ==== Sys2Proof/Machine/Record.lean ====
section
/-! DEFINITION. Raising an event: the Measure Book record with its trigger and snapshot, the ring, the drainer, events
at most once per second, and the device interrupt (00 R557; 14 R412; 17 R502 to R516). -/

namespace Sys2Proof.Machine

/-! ### Triggers (17 R513, R514) -/

def trigCode (t : BitVec 1280) : Nat := fld t 0 16
def trigMask (t : BitVec 1280) : Nat := fld t 16 16
def trigFilter (t : BitVec 1280) : Bool := bitOf t 33
def trigPeriodic (t : BitVec 1280) : Bool := bitOf t 34
def trigCtx (t : BitVec 1280) : Nat := fld t 40 3
def trigNreg (t : BitVec 1280) : Nat := fld t 48 8
def trigPeriod (t : BitVec 1280) : Nat := fld t 64 64
def trigSel (t : BitVec 1280) (i : Nat) : Nat := fld t (256 + 32 * i) 32

def trigMatches (t : BitVec 1280) (code : Nat) (ctx : Option Nat) : Bool :=
  trigEnabled t && !trigPeriodic t && (code &&& trigMask t) == (trigCode t &&& trigMask t)
    && (!trigFilter t || ctx == some (trigCtx t))

/-- The lowest-numbered trigger that matches. -/
def Dev.trigFor (d : Dev) (code : Nat) (ctx : Option Nat) : Option (Nat × BitVec 1280) :=
  d.mb.trigs.find? fun e => trigMatches e.2 code ctx

/-- Snapshot slots in selector order, as many selectors as fit in `room` slots, and whether some were left out. -/
def Dev.takeSnap (d : Dev) (sels : List Nat) (room : Nat) : List W64 × Bool :=
  sels.foldl (fun (acc : List W64 × Bool) s =>
    let x := d.snapshot s
    if acc.2 || room < acc.1.length + x.length then (acc.1, true) else (acc.1 ++ x, false)) ([], false)

/-! ### Forming and keeping records -/

/-- A record of an event as it is formed now; `trig` names the trigger whose snapshot it carries. -/
def Dev.form (d : Dev) (code die : Nat) (fw : Bool) (ctx : Option Nat) (slots : List Int)
    (trig : Option (Nat × BitVec 1280)) : Rec :=
  let snap := trig.elim ([], false) fun t =>
    d.takeSnap ((List.range (trigNreg t.2)).map (trigSel t.2)) (58 - slots.length)
  { seq := d.mb.head, code := code, src := die, fw := fw, ctx := ctx, diag := d.diag, slots := slots.map toW64,
    trig := trig.elim 0xFFFF (·.1), snap := snap.1, trunc := snap.2, tape := d.tape.now,
    boot := limN 32 d.fw.bootCount }

/-- Puts a record into its slot of the ring, SEQ mod 8,192 (17 R506, R508). -/
def MbSt.append (m : MbSt) (r : Rec) : MbSt :=
  let gone := (m.ring.filter fun x => x.seq + 8192 ≤ r.seq).map (·.seq)
  let lostNow := gone.filter (m.drained ≤ ·)
  { m with
    ring := (m.ring.filter fun x => r.seq < x.seq + 8192) ++ [r]
    head := r.seq + 1
    lost := satAdd 32 m.lost lostNow.length
    lostWas := if lostNow.isEmpty then m.lostWas else some m.lost
    overrun := m.overrun || !lostNow.isEmpty
    overrunSet := m.overrunSet || !lostNow.isEmpty
    lostFrom := m.lostFrom.orElse fun _ => lostNow.head? }

def Dev.keep (d : Dev) (r : Rec) : Dev := { d with mb := d.mb.append r }

/-- The drainer copies every record of the ring that is not drained to the Spool region, in SEQ order, and reports lost
records (17 R507, R508). Paused, it does nothing. -/
def Dev.mbDrainAll (d : Dev) : Dev :=
  if d.mbPaused then d else
    let new := d.mb.ring.filter fun r => d.mb.drained ≤ r.seq
    let d1 := { d with mb := { d.mb with
      region := lastN 2097152 (d.mb.region ++ new), drained := d.mb.head, lostFrom := none } }
    match d.mb.lostFrom with
    | none => d1
    | some f =>
      let last := ((new.map (·.seq)).foldl min d.mb.head) - 1
      d1.keep (d1.form 0xD002 (dieSelvage 0) false none [f, last, 0] (d1.trigFor 0xD002 none))

/-- MB_FLUSH is done: the records are drained, unless draining is paused (14 R431; 17 R507). -/
def Dev.flushBook (d : Dev) : Dev :=
  let d := d.mbDrainAll
  { d with mb := { d.mb with flushed := !d.mbPaused, flushing := false } }

/-- An operation that needs Spool memory or a cluster in Hold starts the exit: its cause (0 command, 1 aperture,
2 remote request, 3 completion, 4 recorder, 5 retirement) and its opcode or address (18 R535, R553). -/
def Dev.wakeFor (d : Dev) (cause item : Nat) : Dev :=
  { d with power := { d.power with wake := if d.power.wake.isSome then d.power.wake else some (cause, item) } }

/-- The drainer runs; in Hold it starts the exit and waits (18 R535). -/
def Dev.mbDrainer (d : Dev) : Dev := if d.power.hold then d.wakeFor 4 0 else d.mbDrainAll

/-- Raises an event: exactly one record (17 R502), drained at once when 1,024 records await draining (17 R507). -/
def Dev.raise (d : Dev) (code die : Nat) (fw : Bool) (ctx : Option Nat) (slots : List Int) : Dev :=
  let d1 := d.keep (d.form code die fw ctx slots (d.trigFor code ctx))
  if d1.mb.drained + 1024 ≤ d1.mb.head then d1.mbDrainer else d1

/-- An event that hardware raises on a die. -/
def Dev.ev (d : Dev) (code die : Nat) (ctx : Option Nat) (slots : List Int) : Dev := d.raise code die false ctx slots

/-- An event that Pattern raises. -/
def Dev.evFw (d : Dev) (code : Nat) (ctx : Option Nat) (slots : List Int) : Dev := d.raise code d.fwDie true ctx slots

/-- The present second (00 R557). -/
def Dev.second (d : Dev) : Nat := d.tape.now / 1000000000

/-- An event raised at most once per second for a key: an occurrence after the first in its interval of Tape time, also
when a step of the Tape led back into it, is counted and raises nothing (00 R557; 14 R433). -/
def Dev.oncePerSec (d : Dev) (key : Nat) (f : Dev → Dev) : Dev :=
  let past := getD d.secs key []
  if past.contains d.second then { d with later := upd d.later key 0 (· + 1) }
  else f { d with secs := put d.secs key (past ++ [d.second]) }

/-! ### Engine slots (17 R505) -/

def engSlot (number die kind phys : Nat) : Int := packFields [(limN 16 number, 0), (limN 6 die, 16), (kind, 24), (phys, 32)]
/-- A logical core with its physical cluster, as every item that names a core is given (01 R26; log 64). -/
def Dev.coreSlot (d : Dev) (core : Nat) : Int := engSlot core (boltOf core) 0 (d.physOf core)
def Dev.hemSlot (d : Dev) (cluster : Nat) : Int := engSlot cluster (cluster / 16) 4 (d.physOf (cluster * 16))
def gmeSlot (m g : Nat) : Int := engSlot g (dieSpool m) 1 0
def pressSlot (m g : Nat) : Int := engSlot g (dieSpool m) 2 0
def sergerSlot (m g : Nat) : Int := engSlot g (dieSpool m) 3 0
def reductionSlot (r : Nat) : Int := engSlot (r % 8) (dieSelvage (r / 8)) 5 0
def cutterSlot (c : Nat) : Int := engSlot 0 (dieSelvage c) 7 0
def rootSlot (c : Nat) : Int := engSlot 0 (dieSelvage c) 8 0

/-- A collective ID (17 R504). -/
def collId (plan inst ctx : Nat) : Int := packFields [(limN 10 plan, 0), (limN 6 inst, 10), (limN 3 ctx, 16)]

/-- An item "field": byte offset and bit position within the byte (17 R504). -/
def fieldItem (byte bit : Nat) : Int := byte + bit * 2 ^ 32

/-! ### The device interrupt (14 R412) -/

/-- Sets a YK_DEVIRQ bit; when it becomes set while enabled, a message waits for the companion. -/
def Dev.setDevirq (d : Dev) (bit : Nat) : Dev :=
  let y := d.yoke
  let becomes := !bitOf y.devirq bit && bitOf y.devirqEn bit && y.devirqAddr != 0
  { d with yoke := { y with
      devirq := y.devirq ||| BitVec.ofNat 3 (2 ^ bit)
      devirqSet := y.devirqSet ||| BitVec.ofNat 3 (2 ^ bit)
      msgs := if becomes then y.msgs ++ [(y.devirqAddr.toNat / 4 * 4, y.devirqData)] else y.msgs } }

/-- The companion window (14 R406). -/
def companionBase : Nat := 0xE000000000000
/-- The reserved window (11 R325). -/
def reservedBase : Nat := 0xF000000000000

/-- Writes the waiting interrupt messages to companion memory while the Yoke is up (14 R405, R412, R418). -/
def Box.flushMsgs (b : Box) : Box :=
  if b.dev.yoke.down.isSome then b
  else { store := b.dev.yoke.msgs.foldl
           (fun s m => s.wrMem (companionBase + m.1 % 2 ^ 48) (clean (leBytes 4 m.2.toNat))) b.store
         dev := { b.dev with yoke := { b.dev.yoke with msgs := [] } } }

/-! ### A record as bytes (17 R503) -/

/-- CRC-32C of bytes, reflected, polynomial 0x82F63B78. -/
def crcStep (c : Nat) : Nat := if c % 2 = 1 then (c / 2) ^^^ 0x82F63B78 else c / 2
def crc8 (c : Nat) : Nat := crcStep (crcStep (crcStep (crcStep (crcStep (crcStep (crcStep (crcStep c)))))))
def crc32c (l : List Byte) : Nat := (l.foldl (fun c b => crc8 (c ^^^ b.toNat)) 0xFFFFFFFF) ^^^ 0xFFFFFFFF

def Rec.length (r : Rec) : Nat := ceilTo 16 (32 + 8 * (r.slots.length + r.snap.length)) + 16

def Rec.body (r : Rec) : List Byte :=
  let head := leBytes 8 r.seq ++ leBytes 2 r.code ++ leBytes 2 r.length
    ++ leBytes 1 (packFields [(limN 6 r.src, 0), (boolN r.fw, 6)])
    ++ leBytes 1 (packFields [(boolN r.ctx.isSome, 0), (boolN (!r.snap.isEmpty), 1), (boolN r.trunc, 2), (boolN r.diag, 3)])
    ++ leBytes 1 (limN 3 (r.ctx.getD 0)) ++ leBytes 1 r.slots.length ++ leBytes 8 r.tape ++ leBytes 2 r.trig
    ++ leBytes 1 r.snap.length ++ leBytes 1 0 ++ leBytes 4 r.boot
  padTo (r.length - 16) (head ++ (r.slots ++ r.snap).flatMap fun x => leBytes 8 x.toNat)

/-- The 512 bytes of a record's slot. -/
def Rec.bytes (r : Rec) : List Byte :=
  let b := r.body ++ leBytes 8 r.seq ++ leBytes 4 0
  padTo 512 (b ++ leBytes 4 (crc32c b))

/-- The record with a SEQ, from the ring or the Spool region (17 R512). -/
def Dev.recAt (d : Dev) (seq : Nat) : Option Rec :=
  (d.mb.ring.find? (·.seq == seq)).orElse fun _ => d.mb.region.find? (·.seq == seq)

def Dev.recBytes (d : Dev) (seq : Nat) : List Byte := (d.recAt seq).elim (zeros 512) Rec.bytes

end Sys2Proof.Machine
end

