-- ==== Sys2Proof/Machine/Crease.lean ====
section
/-! DEFINITION. Which occurrences Crease perturbs, and their counts (17 R518 to R520). The delays themselves are time,
which the model leaves out (log 11); the dropped flit and the counts are modelled. -/

namespace Sys2Proof.Machine

/-- Counts by kind, in the order of event 0xD007: 0 handshakes, 1 credit returns, 2 flits delayed, 3 flits dropped,
4 reads, 5 grid points, 6 stamps; 16 more for the counts since the state began; by register offset, occurrences. -/
def Dev.creaseCount (d : Dev) (kind : Nat) : Dev :=
  { d with cr := { d.cr with
      counts := put (put d.cr.counts kind (getD d.cr.counts kind 0 + 1)) (kind + 16) (getD d.cr.counts (kind + 16) 0 + 1) } }

/-- Occurrence n of a register's kind is selected when sr_bits(SEED, 0, offset, n) is below 2^(32 - RATE). -/
def Dev.creaseSelected (d : Dev) (off rate n : Nat) : Bool :=
  (srBits (getD d.cr.regs 0x3008 0) 0 (BitVec.ofNat 32 off) (BitVec.ofNat 64 n)).toNat < 2 ^ (32 - rate)

/-- An occurrence that a configured register may perturb: whether it is, and the device with the counts. -/
def Dev.crease (d : Dev) (off rate kind : Nat) (configured : Bool) : Dev × Bool :=
  if d.crArmed && configured then
    let n := getD d.cr.counts off 0
    let d1 := { d with cr := { d.cr with counts := put d.cr.counts off (n + 1) } }
    if d.creaseSelected off rate n then (d1.creaseCount kind, true) else (d1, false)
  else (d, false)

/-- A handshake of a unit of a Bolt: 0 array steps, 1 Bobbin fills, 2 vector unit, 3 Hem (CR_HS). -/
def Dev.creaseHs (d : Dev) (bolt unit : Nat) : Dev :=
  let r := getD d.cr.regs 0x3010 0
  (d.crease 0x3010 (fld r 24 4) 0
    (fld r 8 16 != 0 && fld r 6 2 == unit && (fld r 0 6 == bolt || fld r 0 6 == 0x3F))).1

/-- A demand read at a channel controller (CR_MEM). -/
def Dev.creaseMem (d : Dev) (spool chan : Nat) : Dev :=
  let r := getD d.cr.regs 0x3028 0
  (d.crease 0x3028 (fld r 26 4) 4
    (fld r 10 16 != 0 && (bitOf r 3 || fld r 0 3 == spool) && (bitOf r 9 || fld r 4 5 == chan))).1

/-- A credit return on a Seam's virtual channel (CR_CREDIT, every return). -/
def Dev.creaseCredit (d : Dev) (p vc : Nat) : Dev :=
  let r := getD d.cr.regs 0x3018 0
  (d.crease 0x3018 0 1 (fld r 8 16 != 0 && fld r 0 6 == p && fld r 6 2 == vc)).1

/-- A data flit of a Seam, not a resend (CR_FLIT): the device with its counts, and whether the flit is dropped. -/
def Dev.creaseFlit (d : Dev) (p : Nat) : Dev × Bool :=
  let r := getD d.cr.regs 0x3020 0
  let act := fld r 6 2
  let x := d.crease 0x3020 (fld r 24 4) (if act = 2 then 3 else 2)
    (fld r 0 6 == p && (act == 2 || (act == 1 && fld r 8 16 != 0)))
  (x.1, x.2 && act == 2)

/-- The stamps of a TAPE_ALIGN response while ALIGN is armed, or a jittered grid point while LAUNCH is (CR_TAPE). -/
def Dev.creaseTape (d : Dev) (align : Bool) : Dev × Bool :=
  let r := getD d.cr.regs 0x3030 0
  d.crease 0x3030 0 (if align then 6 else 5) (d.crAmplitude != 0 && bitOf r (if align then 11 else 10))

end Sys2Proof.Machine
end

