-- ==== Sys2Proof/Machine/Packets.lean ====
section
/-! DEFINITION. Packets and flits: their fields, routing, credits, the replay buffer and sending (12 R357 to R360, R367
to R373). -/

namespace Sys2Proof


/-! ### Packets (12 R373) -/

def Packet.dst (k : Packet) : Nat := fld k.hdr 0 16
def Packet.src (k : Packet) : Nat := fld k.hdr 16 16
def Packet.type (k : Packet) : Nat := fld k.hdr 32 5
def Packet.vc (k : Packet) : Nat := fld k.hdr 37 2
def Packet.sr (k : Packet) : Bool := bitOf k.hdr 39
def Packet.nlines (k : Packet) : Nat := fld k.hdr 40 3
def Packet.lpoison (k : Packet) : Nat := fld k.hdr 48 6
def Packet.flow (k : Packet) : Nat := fld k.hdr 56 8
def Packet.word (k : Packet) : Nat := fld k.hdr 64 64

/-- The 16-byte units of a packet: header, source route, data lines. -/
def Packet.units (k : Packet) : List (BitVec 128) :=
  k.hdr :: ((if k.sr then [k.route] else [])
    ++ k.lines.flatMap fun l => (List.range 4).map fun i => BitVec.ofNat 128 (fld l (128 * i) 128))

end Sys2Proof

namespace Sys2Proof.Machine

/-- Bytes of a data line, and a data line from bytes. -/
def lineBytes (l : BitVec 512) : List Byte := leBytes 64 l.toNat
def lineOf (b : List Byte) : BitVec 512 := BitVec.ofNat 512 (leNat (b.take 64))

def mkPacket (dst src type vc flow word lpoison : Nat) (lines : List (BitVec 512)) : Packet :=
  { hdr := BitVec.ofNat 128 (packFields [(limN 16 dst, 0), (limN 16 src, 16), (limN 5 type, 32), (limN 2 vc, 37),
      (limN 3 lines.length, 40), (limN 6 lpoison, 48), (limN 8 flow, 56), (limN 64 word, 64)])
    route := 0, lines := lines }

/-- The virtual channel of a packet type; none for an undefined type. -/
def typeVc (t : Nat) : Option Nat :=
  if t = 1 ∨ t = 3 ∨ t = 5 then some 0
  else if t = 2 ∨ t = 4 ∨ t = 6 then some 1
  else if t = 8 then some 2
  else if t = 9 ∨ t = 0x10 ∨ t = 0x11 ∨ t = 0x12 then some 3
  else none

/-- Requests, whose source gets status 3 when they are unreachable (12 R368). -/
def typeIsRequest (t : Nat) : Bool := t == 1 || t == 3 || t == 5

/-! ### Flits (12 R357) -/

def flitBytes (seq ack kind crvc crn crvc2 crn2 : Nat) (body : List Byte) : List Byte :=
  let b := leBytes 2 seq ++ leBytes 2 ack ++ leBytes 1 kind ++ leBytes 1 crvc ++ leBytes 2 crn ++ leBytes 1 crvc2
    ++ leBytes 1 0 ++ leBytes 2 crn2 ++ padTo 240 body
  b ++ leBytes 4 (crc32c b)

/-- Takes up to two credit returns to send: virtual channel and units, and what remains. -/
def takeReturns (r : Tbl Nat) : (Nat × Nat) × (Nat × Nat) × Tbl Nat :=
  match r with
  | [] => ((0, 0), (0, 0), [])
  | [(v, n)] => ((v, min n 4095), (0, 0), if n ≤ 4095 then [] else [(v, n - 4095)])
  | (v, n) :: (v2, n2) :: t =>
    ((v, min n 4095), (v2, min n2 4095),
      (if n ≤ 4095 then [] else [(v, n - 4095)]) ++ (if n2 ≤ 4095 then [] else [(v2, n2 - 4095)]) ++ t)

/-- ACK: the SEQ before the next that is expected (rxSeq). -/
def Seam.rxAck (s : Seam) : Nat := (s.rxSeq + 65535) % 65536

/-- The next lane in rotation of those that carry traffic. -/
def Seam.nextLane (s : Seam) (lanes : List Nat) : Nat := (lanes.find? (s.txLane < ·)).getD (lanes.headD 0)

/-- A flit as it leaves: every flit carries ACK and NAK as they stand (12 R357, R358). -/
def Seam.flit (s : Seam) (kind : Nat) (x : DataFlit) : BitVec 2048 :=
  BitVec.ofNat 2048 (leNat (flitBytes x.seq s.rxAck (kind + (if s.nak then 4 else 0)) x.ret.1.1 x.ret.1.2 x.ret.2.1 x.ret.2.2 x.body))

/-- A flit leaves on a lane; its NAK is told. -/
def Seam.sent (s : Seam) (now lane : Nat) : Seam := { s with nak := false, ackSent := now, txLane := lane }

/-- A new flit: kind 0 idle, 1 data, 2 control. A data flit takes the next SEQ and stays in the replay buffer (12 R357, R358). -/
def Seam.emit (s : Seam) (now kind : Nat) (body : List Byte) (lanes : List Nat) : Seam × Nat × BitVec 2048 :=
  let r := takeReturns s.returns
  let x : DataFlit := ⟨s.txSeq, (r.1, r.2.1), body⟩
  let lane := s.nextLane lanes
  ({ s.sent now lane with
      txSeq := if kind = 1 then (s.txSeq + 1) % 65536 else s.txSeq
      replay := if kind = 1 then s.replay ++ [x] else s.replay
      ackMoved := if kind = 1 ∧ s.replay.isEmpty then now else s.ackMoved
      returns := r.2.2 }, lane, s.flit kind x)

/-- Credits that the Seam holds on a virtual channel. -/
def Seam.credit (s : Seam) (vc : Nat) : Nat := getD s.credits vc 0

/-- Up: state 2. -/
def Seam.up (s : Seam) : Bool := s.st == 2

/-! ### Which packet starts (12 R359, R371) -/

def unitCount (l : List (Packet × Option Nat)) : Nat := sumN (l.map fun e => e.1.units.length)

/-- The packet that is first on a virtual channel may start after the packets `l`: credits for all its units, room in the replay
buffer of 1,024 flits, and on channel 3 its share of the flits. -/
def Seam.ready (s : Seam) (now : Nat) (l : List (Packet × Option Nat)) (vc : Nat) : Option (Packet × Option Nat) :=
  (s.waitq.find? (·.1.vc == vc)).filter fun e =>
    e.1.units.length ≤ s.credit vc && s.replay.length + ceilDiv (unitCount l + e.1.units.length) 15 ≤ 1024
      && (vc != 3 || now < s.ctl.1 || s.ctl.1 + s.ctl.2 ≤ now)

/-- Weights of the virtual channels 0 to 2. -/
def vcWeight (vc : Nat) : Nat := if vc = 2 then 6 else 1

/-- Channel 3 first; of the others the lowest that has a turn left in the round, else the lowest of a new round (log 78). -/
def Seam.pick (s : Seam) (now : Nat) (l : List (Packet × Option Nat)) : Option ((Packet × Option Nat) × Tbl Nat) :=
  match s.ready now l 3 with
  | some e => some (e, s.turns)
  | none =>
    let can := [0, 1, 2].filterMap fun v => (s.ready now l v).map fun e => (v, e)
    match can.find? fun c => getD s.turns c.1 0 < vcWeight c.1 with
    | some c => some (c.2, put s.turns c.1 (getD s.turns c.1 0 + 1))
    | none => can.head?.map fun c => (c.2, [(c.1, 1)])

/-- Time in which a link of `width` lanes sends 20 times so many flits, in ns: a flit takes 10.24 ns on a lane (12 R355). -/
def ctlShare (units width : Nat) : Nat := ceilDiv (20 * ceilDiv units 15 * 1024) (100 * max 1 width)

/-- A packet starts: its credits are taken. -/
def Seam.start (s : Seam) (now width : Nat) (e : Packet × Option Nat) (turns : Tbl Nat) : Seam :=
  { s with waitq := s.waitq.erase e, turns := turns
           credits := put s.credits e.1.vc (s.credit e.1.vc - e.1.units.length)
           ctl := if e.1.vc = 3 then (now, ctlShare e.1.units.length width) else s.ctl }

/-- The packets that start now, in order; `fuel` bounds their number. -/
def Seam.starts (s : Seam) (now width : Nat) (l : List (Packet × Option Nat)) : Nat → Seam × List (Packet × Option Nat)
  | 0 => (s, l)
  | n + 1 =>
    match s.pick now l with
    | none => (s, l)
    | some x => (s.start now width x.1 x.2).starts now width (l ++ [x.1]) n

/-- Packets that start one after another from SEQ `q`, each with the SEQ of its last flit. -/
def lastSeqs (q : Nat) : List (Packet × Option Nat) → Nat → List (Nat × Packet)
  | [], _ => []
  | e :: t, u => ((q + (u + e.1.units.length - 1) / 15) % 65536, e.1) :: lastSeqs q t (u + e.1.units.length)

namespace Dev

def tell (d : Dev) (p : Nat) (x : TxItem) : Dev := { d with tx := d.tx ++ [(p, x)] }

/-- The lanes of a Seam that carry traffic, all four while it trains; of the Yoke the lowest healthy ones of its width (14 R404). -/
def lanesOf (d : Dev) (p : Nat) : List Nat :=
  if p = 64 then ((List.range 8).filter fun i => bitOf d.yoke.healthy i).take d.yoke.width
  else
    let l := (List.range 4).filter fun i => bitOf (d.seam p).active i
    if l.isEmpty then List.range 4 else l

/-- The link carries data flits: a Seam that is up, or the Yoke while it is up. -/
def linkUp (d : Dev) (p : Nat) : Bool := if p = 64 then d.yoke.down.isNone else (d.seam p).up

/-- Sends one flit on a Seam. A flit that Crease drops is counted as sent and not placed on a lane (17 R520). -/
def sendFlit (d : Dev) (p kind : Nat) (body : List Byte) : Dev :=
  let r := (d.seam p).emit d.now kind body (d.lanesOf p)
  let d := d.setSeam p r.1
  if kind = 1 then
    let c := d.creaseFlit p
    if c.2 then c.1 else c.1.tell p (.flit r.2.1 r.2.2)
  else d.tell p (.flit r.2.1 r.2.2)

/-- Sends an unacknowledged data flit again, with ACK and NAK as they stand. -/
def resend (d : Dev) (p : Nat) (x : DataFlit) : Dev :=
  let s := d.seam p
  let lane := s.nextLane (d.lanesOf p)
  (d.setSeam p (s.sent d.now lane)).tell p (.flit lane (s.flit 1 x))

/-- Units leave the buffer of a virtual channel: their credits return (12 R359). -/
def giveBack (d : Dev) (src : Option Nat) (k : Packet) : Dev :=
  src.elim d fun p => d.updSeam p fun s => { s with returns := put s.returns k.vc (getD s.returns k.vc 0 + k.units.length) }

/-- Starts the packets of a Seam that may start: their units fill data flits one after another, the last one up with pad units
(12 R360). -/
def startWaiting (d : Dev) (p : Nat) : Dev :=
  if !d.linkUp p then d
  else
    let s := d.seam p
    let r := s.starts d.now (d.lanesOf p).length [] s.waitq.length
    if r.2.isEmpty then d
    else
      let d := d.setSeam p { r.1 with flying := r.1.flying ++ lastSeqs s.txSeq r.2 0 }
      let d := (pieces 15 (r.2.flatMap fun e => e.1.units)).foldl (fun d c => d.sendFlit p 1 (c.flatMap fun x => leBytes 16 x.toNat)) d
      r.2.foldl (fun d e => d.giveBack e.2 e.1) d

/-- Hands a packet to a Seam; one in transit stays in the buffer of the Seam `src` until it starts. -/
def handFrom (d : Dev) (src : Option Nat) (p : Nat) (k : Packet) : Dev :=
  ((d.tell p (.packet k)).updSeam p fun s => { s with waitq := s.waitq ++ [(k, src)] }).startWaiting p

/-- Hands a packet of this device to a Seam. -/
def handPacket (d : Dev) (p : Nat) (k : Packet) : Dev := d.handFrom none p k

/-! ### Routing (12 R367 to R369) -/

def routeEntry (d : Dev) (dst : Nat) : Nat := (getD d.fab.routes dst 0).toNat

/-- The listed Seams of an entry that are up, in listed order. -/
def routeSeams (d : Dev) (dst : Nat) : List Nat :=
  let e := d.routeEntry dst
  let n := fld (BitVec.ofNat 32 e) 24 3
  if 4 < n then [] else
    ((List.range n).map fun i => e / 2 ^ (6 * i) % 64).filter fun p => (d.seam p).up

/-- The Seam on which a packet leaves: number (FLOW + SRC) mod k of the Seams that are up. -/
def routeFor (d : Dev) (dst src flow : Nat) : Option Nat :=
  let l := d.routeSeams dst
  if l.isEmpty then none else l[(flow + src) % l.length]?

/-- Drops an unreachable packet with event 0x500F. -/
def unreachable (d : Dev) (k : Packet) : Dev :=
  ({ d with fab := { d.fab with unreachable := satAdd 32 d.fab.unreachable 1 } }).ev 0x500F (dieSelvage 0) none
    [k.dst, k.type, k.src]

/-- A packet that cannot be sent on leaves its buffer (12 R368). -/
def cannotSend (d : Dev) (src : Option Nat) (k : Packet) : Dev := (d.giveBack src k).unreachable k

/-- Drops a packet, counts it, and raises event 0x5010 at its first occurrence in each second (12 R373, R398); `reason`
is the model's number: 0 type, 1 virtual channel, 2 reserved field, 3 source route, 4 no device ID (log 15). -/
def dropPacket (d : Dev) (p : Nat) (k : Packet) (reason : Nat) : Dev :=
  ({ d with fab := { d.fab with dropped := satAdd 32 d.fab.dropped 1 } }).oncePerSec 0x5010 fun d =>
    d.ev 0x5010 (dieSeam p) none [p, k.type, k.vc, reason]

/-- Sends a packet of this device by its routing table; false when it is unreachable. -/
def sendRouted (d : Dev) (k : Packet) : Dev × Bool :=
  match d.routeFor k.dst k.src k.flow with
  | some p => (d.handPacket p k, true)
  | none => (d.unreachable k, false)

def myId (d : Dev) : Nat := d.fab.deviceId.toNat

/-- A Seam control packet to the partner itself (DST 0xFFFF, 12 R368). -/
def seamsUp (d : Dev) : List Nat := (List.range 64).filter fun p => (d.seam p).up

/-! ### Collective control packets (12 R373, R389 to R391) -/

/-- COLL_CTRL: kind 0 READY, 1 DONE, 2 RELEASE, 3 ABORT, with a slip value. -/
def collCtrl (d : Dev) (dst plan inst kind status slip : Nat) : Packet :=
  mkPacket dst d.myId 9 3 0 (packFields [(limN 10 plan, 0), (limN 6 inst, 10), (kind, 16), (limN 4 status, 18)]) 0
    [lineOf (leBytes 64 slip)]

def sendCtrl (d : Dev) (dst plan inst kind status slip : Nat) : Dev :=
  if dst = d.myId then d else (d.sendRouted (d.collCtrl dst plan inst kind status slip)).1

end Dev
end Sys2Proof.Machine
end

