-- ==== Sys2Proof/Machine/Memory.lean ====
section
/-! DEFINITION. Device memory as the device's own engines and commands reach it: what an address names, grants, writes
with copy-on-write protection, the directory and run-ahead buffers, and completions that become due (11 R325; 14 R406,
R407, R410, R420 to R423; 02 R79; 15 R455, R456). -/

namespace Sys2Proof.Machine

/-! ### Completions -/

/-- A completion becomes due. In bare mode none is written (14 R430). -/
def Dev.complete (d : Dev) (c : Pend) (status event : Nat) (detail : W32 := 0) (result : W64 := 0) : Dev :=
  if d.bare then d
  else d.updQueue c.q fun q => { q with due := q.due ++ [⟨c, status, event, detail, result⟩] }

/-- Ends the long-running commands that `p` selects with one outcome. -/
def Dev.endOpens (d : Dev) (p : OpenCmd → Bool) (status event : Nat) (detail : W32 := 0) (result : W64 := 0) : Dev :=
  let hit := d.opens.filter p
  hit.foldl (fun d o => d.complete o.cmd status event detail result) { d with opens := d.opens.filter fun o => !p o }

/-! ### What an address names -/

def unit2M : Nat := 2097152

def Region.len (r : Region) : Nat := r.units * unit2M
def Region.covers (r : Region) (a n : Nat) : Bool := r.base ≤ a && a + n ≤ r.base + r.len

/-- The host region that holds a whole range (11 R325). -/
def Dev.regionOf (d : Dev) (a n : Nat) : Option Region := d.regions.find? (·.covers a n)

def inCompanion (a n : Nat) : Bool := companionBase ≤ a && a + n ≤ reservedBase
def inReserved (a n : Nat) : Bool := reservedBase ≤ a && a + n ≤ 2 ^ 52

/-! ### Channels (11 R321 to R326, R333) -/

/-- Where the interleave puts a byte of Spool memory: Spool, logical channel, chunk position in the share of that channel, byte in
the chunk; `key` names the allocation. -/
structure Place where
  spool : Nat
  chan : Nat
  pos : Nat
  byte : Nat
  key : Nat
deriving DecidableEq, Repr

/-- The place of offset `o` of an allocation at `base`: package-wide, or local to a Spool (R326). -/
def placeIn (base : Nat) (spool : Option Nat) (o : Nat) : Place :=
  let c := o / 256
  match spool with
  | none => ⟨c % 8, c / 8 % 32, c / 256, o % 256, base⟩
  | some m => ⟨m, c % 32, c / 32, o % 256, base⟩

/-- Device address of a level 2 or 3 backing in Spool `m` (log 17). -/
def backingAddr (m core h : Nat) : Nat := reservedBase + m * 2 ^ 41 + (core * 64 + h) * 4194304
/-- The Spool that holds such a backing. -/
def backingSpool (a : Nat) : Nat := (a - reservedBase) / 2 ^ 41 % 8

/-- The spilled handle whose backing of level 2 or 3 holds an address: such a backing is a Spool-local allocation (R324). -/
def Dev.backingOf (d : Dev) (a : Nat) : Option Handle :=
  if inReserved a 1 then
    let i := (a - reservedBase) % 2 ^ 41 / 4194304
    ((d.core (i / 64)).placed (i % 64)).filter fun h =>
      h.spilled && decide (h.level ≤ 3 ∧ h.backing ≤ a ∧ a < h.backing + ceilDiv (h.lines * 64) unit2M * unit2M)
  else none

def Dev.placeOf (d : Dev) (a : Nat) : Option Place :=
  match d.regionOf a 64 with
  | some r => some (placeIn r.base r.spool (a - r.base))
  | none => (d.backingOf a).map fun h => placeIn h.backing (some (backingSpool h.backing)) (a - h.backing)

/-- The Spool and the logical channel of an address of Spool memory (R326). -/
def Dev.channelOf (d : Dev) (a : Nat) : Option (Nat × Nat) := (d.placeOf a).map fun p => (p.spool, p.chan)

/-- The channel address of a place: its frame of 8 KiB holds 32 chunk positions. Which frame holds them is the base die's choice,
free (R323, R333; log 38). -/
def Place.addr (p : Place) : Nat := 8192 * ((Config.frameOf p.key (p.pos / 32)).toNat % 294912) + p.pos % 32 * 256 + p.byte

/-- The Spool is in Trip: it keeps its contents and serves no access (11 R339). -/
def Spool.tripped (s : Spool) : Bool := s.therm == 4

/-- A logical channel is in the stall of a retrain in place: accesses to it wait (11 R345). -/
def Spool.stalls (s : Spool) (l : Nat) : Bool := s.inplace.any fun i => i.logical == l && i.begun.isSome

/-- The channels that the bytes of a range lie on: at most 256 chunks in turn reach them all. -/
def Dev.chansOf (d : Dev) (a n : Nat) : List (Nat × Nat) :=
  (List.range 257).filterMap fun i =>
    let x := a / 256 * 256 + 256 * i
    if x < a + n then d.channelOf x else none

/-- Some byte of a range lies in a Spool that serves no access, its Trip having no end yet (11 R339). -/
def Dev.tripHolds (d : Dev) (a n : Nat) : Bool :=
  (List.range 8).any (fun m => (d.spool m).tripped) && (d.chansOf a n).any fun c => (d.spool c.1).tripped

/-- A REMOTE_MAP range that holds a whole range (12 R374). -/
def Dev.remoteOf (d : Dev) (a n : Nat) : Option RemoteMap :=
  d.remotes.find? fun r => r.base ≤ a && a + n ≤ r.base + r.units * unit2M

def Grant.covers (g : Grant) (a n : Nat) : Bool := g.base ≤ a && a + n ≤ g.base + g.units * 4096

/-- Entries of a queue's rings. -/
def Queue.size (q : Queue) : Nat := 2 ^ q.log2

/-- Companion access permitted: inside one grant with the permission, or in a ring of an enabled queue (14 R407). -/
def Dev.granted (d : Dev) (a n : Nat) (write : Bool) : Bool :=
  d.grants.any (fun g => g.covers a n && (if write then g.wr else g.rd))
    || d.queues.any fun e => e.2.enable &&
        (if write then e.2.cqBase ≤ a && a + n ≤ e.2.cqBase + 32 * e.2.size
         else e.2.sqBase ≤ a && a + n ≤ e.2.sqBase + 64 * e.2.size)

/-- Memory that a command's address may name: whole within one host region or within the companion window (14 R559). -/
def Dev.addressable (d : Dev) (a n : Nat) : Bool := (d.regionOf a n).isSome || inCompanion a n

/-! ### Copy-on-write protection (15 R455, R456) -/

def granule : Nat := 262144

def granulesOf (a n : Nat) : List Nat := if n = 0 then [] else span (a / granule) ((a + n - 1) / granule - a / granule + 1)

/-- The Baste that protects a granule whose copy has not been made. -/
def Dev.protector (d : Dev) (g : Nat) : Option (Nat × Baste) :=
  d.bastes.find? fun e => (e.2.st == 2 || e.2.st == 3) && e.2.prot.contains g && !has e.2.copied g

/-- Slots of a Baste's pool. -/
def Dev.poolSlots (d : Dev) (b : Baste) : Nat := (d.regions.find? (·.base == b.pool)).elim 0 fun r => r.units * 8

/-- Lifts a Baste's protection and frees its pool, event 0xC803 (15 R452, R456); reason 0 pool full, 1 context stopped,
2 warm reset, 3 release. A drain in progress ends. -/
def Dev.abandonBaste (d : Dev) (id reason : Nat) : Dev :=
  let b := d.baste id
  let d := d.setBaste id { b with st := 5, prot := [], copied := [], auto := none }
  let d := d.evFw 0xC803 none [id, reason]
  d.endOpens (fun o => match o.kind with | .baste i => i == id | _ => false) 1 0xC803

/-- A delay that the manual bounds and does not fix: a free value of at most `most` ns (log 36). -/
def Dev.freeDelay (d : Dev) (key most : Nat) : Nat := (Config.freeWord d.mb.head key).toNat % (most + 1)

/-- Copies a protected granule into a free slot of the pool, which takes at most 50 µs; without a free slot the Baste is
abandoned. -/
def Box.copyGranule (b : Box) (g : Nat) : Box :=
  match b.dev.protector g with
  | none => b
  | some (id, x) =>
    match (List.range (b.dev.poolSlots x)).find? fun i => !(x.copied.any fun e => e.2 == i) with
    | none => b.onD fun d => d.abandonBaste id 0
    | some i =>
      { store := b.store.wrMem (x.pool + i * granule) (b.store.rdMem (g * granule) granule)
        dev := b.dev.setBaste id { x with
          copied := put x.copied g i, copies := x.copies + 1, copyWait := x.copyWait + b.dev.freeDelay (0x455 + x.copies) 50000 } }

/-! ### Reads and writes -/

/-- A write of bytes to device memory from any source: protected granules are copied first, the companion's cached lines
are recalled, run-ahead buffers and coalescing caches lose the lines (15 R455; 14 R410; 02 R79; 08 R233). -/
def Box.wrDev (b : Box) (a : Nat) (l : List PB) : Box :=
  let b := (granulesOf a l.length).foldl Box.copyGranule b
  let ls := linesOf a l.length
  { store := b.store.wrMem a l
    dev := { b.dev with
      ahead := b.dev.ahead.filter fun x => !ls.contains x.line
      caches := b.dev.caches.map fun g => (g.1, g.2.map fun e => (e.1, e.2.filter fun x => !ls.contains x))
      yoke := { b.dev.yoke with directory := b.dev.yoke.directory.filter fun x => !ls.contains x } } }

/-- Clean bytes that a command or the device writes. -/
def Box.wrClean (b : Box) (a : Nat) (l : List Byte) : Box := b.wrDev a (clean l)

/-- Runs a device change in a box. -/
def Box.withDev (b : Box) (d : Dev) : Box := { b with dev := d }

end Sys2Proof.Machine
end

