-- ==== Sys2Proof/Machine/Boot.lean ====
section
/-! DEFINITION. Firmware images, the boot flash, cold and warm boot, and the frames of the Spools (16 R476 to R487;
15 R442; 11 R323, R324). -/

namespace Sys2Proof.Machine

/-! ### Frames (11 R323, R324) -/

/-- Frames per in-service channel that a region takes from Spool `m`. -/
def framesIn (units : Nat) (spool : Option Nat) (m : Nat) : Nat :=
  match spool with
  | none => units
  | some k => if k = m then 8 * units else 0

/-- Are the frames of an allocation free? -/
def Dev.roomFor (d : Dev) (units : Nat) (spool : Option Nat) : Bool :=
  (List.range 8).all fun m => framesIn units spool m ≤ (d.spool m).free

def Dev.takeFrames (d : Dev) (units : Nat) (spool : Option Nat) : Dev :=
  (List.range 8).foldl (fun d m => d.updSpool m fun s => { s with free := s.free - framesIn units spool m }) d

def Dev.giveFrames (d : Dev) (units : Nat) (spool : Option Nat) : Dev :=
  (List.range 8).foldl (fun d m => d.updSpool m fun s => { s with free := s.free + framesIn units spool m }) d

/-! ### Images (16 R481, R482) -/

def asciiBytes (s : String) : List Byte := s.toList.map fun c => BitVec.ofNat 8 c.toNat
def allZero (l : List Byte) (o n : Nat) : Bool := ((l.drop o).take n).all (· == 0)

def thimbleMax : Nat := 1048576
def patternMax : Nat := 65011712

/-- Number of the unrevoked key whose hash is the SHA3-512 of a public key. -/
def keyIndex (t : Tbl (BitVec 512)) (revoked : BitVec 4) (pub : List Byte) : Option Nat :=
  (List.range 4).find? fun i => get? t i == some (sha3Word pub) && !bitOf revoked i

def FwSt.svnMin (f : FwSt) (kind : Nat) : Nat := if kind = 1 then f.svnThimble else f.svnPattern

/-- The reason of 16 R482 for which an image of `kind` is rejected; 0 when it passes. `b` holds the bytes of the space
that holds the image. -/
def FwSt.imgReason (f : FwSt) (b : List Byte) (kind : Nat) : Nat :=
  let len := leAt b 24 4
  let ok1 := b.take 8 == asciiBytes "FVKFWIMG" && leAt b 8 1 == kind && (leAt b 9 1).testBit f.stepping
    && leAt b 9 1 < 4 && 8192 < len && len ≤ (if kind = 1 then thimbleMax else patternMax) && len ≤ b.length
    && allZero b 20 4 && allZero b 28 4 && allZero b 96 160 && allZero b 7475 717
  let pub := (b.drop 256).take 2592
  if !ok1 then 1
  else if (keyIndex f.fwKeys f.fwRevoked pub).isNone then 2
  else if !Config.mldsaVerify pub (b.take 256) ((b.drop 2848).take 4627) then 3
  else if (b.drop 32).take 64 != sha3_512 ((b.take len).drop 8192) then 4
  else if leAt b 16 2 < f.svnMin kind then 5
  else 0

/-- The image within the bytes that hold it. -/
def imgBytes (b : List Byte) : List Byte := b.take (leAt b 24 4)

def imgOf (b : List Byte) : FwImg :=
  { version := BitVec.ofNat 32 (leAt b 12 4), level := leAt b 10 2, svn := leAt b 16 2, journal := leAt b 18 2,
    meas := sha3Word (imgBytes b), bytes := imgBytes b }

/-! ### The boot flash (16 R478, R479): flash A at 0, flash B at 64 MiB -/

def flashBase (f : Nat) : Nat := f * 67108864
def FwSt.dir (w : FwSt) (f : Nat) : List Byte := w.flash.read (flashBase f) 64
def FwSt.dirValid (w : FwSt) (f : Nat) : Bool :=
  (w.dir f).take 8 == asciiBytes "FVKFLASH" && crc32c ((w.dir f).take 60) == leAt (w.dir f) 60 4
def FwSt.dirGen (w : FwSt) (f : Nat) : Nat := leAt (w.dir f) 8 8

/-- The preferred flash; A when neither directory is valid. -/
def FwSt.prefer (w : FwSt) : Nat :=
  if w.dirValid 1 && (!w.dirValid 0 || w.dirGen 0 < w.dirGen 1) then 1 else 0

/-- The bytes of a slot that its image's LENGTH covers, at most the slot. -/
def FwSt.slotBytes (w : FwSt) (f kind : Nat) : List Byte :=
  let base := flashBase f + (if kind = 1 then 0x10000 else 0x200000)
  let len := leNat (w.flash.read (base + 24) 4)
  w.flash.read base (max 8192 (min len (if kind = 1 then thimbleMax else patternMax)))

/-! ### Boot (16 R483 to R487) -/

/-- The die of the root that speaks for Thimble: the lowest-numbered one that takes part. -/
def thimbleDie (roots : BitVec 4) : Nat := dieSelvage (((List.range 4).find? (bitOf roots ·)).getD 0)

/-- An event that Thimble raises. -/
def Dev.evTh (d : Dev) (code : Nat) (slots : List Int) : Dev := d.raise code (thimbleDie d.fw.roots) true none slots

/-- Checks the set of one flash in the order of 16 R483 and raises event 0x8001 for the first image that fails: the
reason, 0 when both pass. -/
def Dev.checkSet (d : Dev) (f : Nat) : Dev × Nat :=
  let r1 := d.fw.imgReason (d.fw.slotBytes f 1) 1
  if r1 ≠ 0 then (d.evTh 0x8001 [1, f, 1, r1], r1)
  else
    let r2 := d.fw.imgReason (d.fw.slotBytes f 2) 2
    if r2 ≠ 0 then (d.evTh 0x8001 [2, f, 2, r2], r2) else (d, 0)

/-- Steps 2 and 4 of 16 R483 with the set of flash `f`: roots with another identity drop out, the Cutter of the lowest
root that passed becomes ACTIVE and the others STANDBY. -/
def Dev.launchFirmware (d : Dev) (f : Nat) : Dev :=
  let tb := imgBytes (d.fw.slotBytes f 1)
  let pb := imgBytes (d.fw.slotBytes f 2)
  let act := ((List.range 4).find? (bitOf d.fw.roots ·)).getD 0
  { d with
    fw := { d.fw with
      booted := f, pattern := imgOf pb
      mThimble := sha3Word tb, mPattern := sha3Word pb
      rootImg := ((List.range 4).filter (bitOf d.fw.roots ·)).map (fun s => (s, imgOf tb))
      cutImg := ((List.range 4).filter (bitOf d.fw.roots ·)).map (fun s => (s, imgOf pb)) },
    cutter := { d.cutter with
      st := (List.range 4).map (fun s => (s, if bitOf d.fw.roots s then (if s = act then 0 else 1) else 3)),
      active := some act, lastActive := act, lastHb := d.now } }

/-- A boot that fails (16 R484): YK_STATUS.MODE stays 0. -/
def Dev.bootFails (d : Dev) (ra rb : Nat) : Dev :=
  let d := d.evTh 0x8003 [ra, rb]
  { d with
    fw := { d.fw with booting := false },
    cutter := { d.cutter with st := (List.range 4).map (fun s => (s, if bitOf d.fw.roots s then 2 else 3)) } }

/-- The start of a boot: its number, a new challenge and the roots that pass their ROM test. -/
def Dev.bootStart (d : Dev) (env : BootEnv) (warm : Bool) : Dev :=
  { d with fw := { d.fw with
      bootCount := d.fw.bootCount + 1, warm := warm, booting := true, bootAt := d.now
      challenge := d.fw.challenge + 1, roots := env.rootOk, preferred := d.fw.prefer, upd := none } }

/-- LOG_STARTED, and the roots that drop out (16 R485; 17 R556). The stage in event 0x8005 is the step of R483
(log 16). -/
def Dev.bootRoots (d : Dev) (env : BootEnv) : Dev :=
  let d1 := d.evTh 0x0001 [boolN d.fw.warm, d.fw.bootCount, d.fw.stepping]
  let d2 := ((List.range 4).filter fun s => !bitOf env.rootOk s).foldl (fun d s => d.evTh 0x8005 [s, 1]) d1
  let d3 := ((List.range 4).filter fun s => bitOf env.rootOk s && !bitOf env.identityOk s).foldl
    (fun d s => d.evTh 0x8006 [s]) d2
  { d3 with fw := { d3.fw with roots := env.rootOk &&& env.identityOk } }

/-- The set that boots: the preferred flash's, or the other's after event 0x8002 (16 R484). -/
def Dev.bootSets (d : Dev) : Dev :=
  let p := d.fw.preferred
  let a := d.checkSet p
  if a.2 = 0 ∧ d.fw.roots ≠ 0 then a.1.launchFirmware p
  else
    let b := if a.2 = 0 then a else (a.1.evTh 0x8002 [p, (1 - p : Nat), 0x8001]).checkSet (1 - p)
    if b.2 = 0 ∧ d.fw.roots ≠ 0 then b.1.launchFirmware (1 - p)
    else if p = 0 then b.1.bootFails a.2 b.2 else b.1.bootFails b.2 a.2

/-- A physical cluster that test retired: a spare is no spare, and the logical cluster of another has the lowest spare. A table
that says so already stays as it is (01 R24, R39). -/
def Bolt.testRetired (b : Bolt) (p : Nat) : Bolt :=
  if b.spares.contains p then { b with spares := b.spares.filter (· != p) }
  else match (List.range 16).find? fun k => b.phys k == p with
    | some k => { b with remap := put b.remap k (b.spares.headD p), spares := b.spares.drop 1 }
    | none => b

/-- A physical channel that test retired (11 R321). -/
def Spool.testRetired (s : Spool) (ph : Nat) : Spool :=
  if (s.chan ph).role = 3 then s
  else
    let l := s.logical ph
    let s := s.updChan ph fun c => { c with role := 3 }
    match l, s.spares with
    | some l, t :: _ => { (s.updChan t fun c => { c with role := 0 }) with remap := put s.remap l t }
    | _, _ => s

/-- The tables as the fuses and the retirement record give them (01 R39; log 66). -/
def Dev.loadFuses (d : Dev) : Dev :=
  let d := d.fw.testClusters.foldl (fun d p => d.updBolt (p / 18) fun b => b.testRetired (p % 18)) d
  d.fw.testChans.foldl (fun d c => d.updSpool c.1 fun s => s.testRetired c.2) d

/-- The steps of a boot before the suites (16 R483 to R485). -/
def Dev.boot (d : Dev) (env : BootEnv) (warm : Bool) : Dev := ((d.loadFuses.bootStart env warm).bootRoots env).bootSets

/-! ### Resets -/

/-- The role of a channel after a reset. An original that its Darning left offline is an idle spare, and one that was to be
retired is retired (log 67). -/
def Spool.roleAfter (s : Spool) (ph role : Nat) : Nat :=
  match s.offline.find? (·.1 == ph) with
  | some x => if x.2 then 3 else 1
  | none => if role = 2 then 1 else if role = 4 then 0 else role

/-- What every reset leaves of a Spool: the remap, the retired channels, and the counts since manufacture (11 R321, R352;
01 R31). -/
def Spool.afterReset (s : Spool) : Spool :=
  { Spool.init with
    remap := s.remap
    chans := s.chans.map fun e =>
      (e.1, { Chan.init (s.roleAfter e.1 e.2.role) with
                retrains := e.2.retrains, darnings := e.2.darnings, lanes := e.2.lanes }) }

/-- The channels that a reset retires, their retirement having been under way (log 67). -/
def Dev.retiredAtReset (d : Dev) : List (Nat × Nat) :=
  d.spools.flatMap fun e => (e.2.offline.filter (·.2)).map fun x => (e.1, x.1)

/-- What outlasts every reset: the fuses and the flash, boot count, retirement record and health, the remap tables, the
pins with their own supply, and what has left the device. The Tape's reference is the lowest-numbered Selvage with a clock
(02 R51). -/
def Dev.persistent (d : Dev) : Dev :=
  { Dev.init with
    fw := { FwSt.init with
      bootCount := d.fw.bootCount, stepping := d.fw.stepping, identityHash := d.fw.identityHash, fwKeys := d.fw.fwKeys
      fwRevoked := d.fw.fwRevoked, authKeys := d.fw.authKeys, authRevoked := d.fw.authRevoked
      svnThimble := d.fw.svnThimble, svnPattern := d.fw.svnPattern, flash := d.fw.flash, challenge := d.fw.challenge
      signs := d.fw.signs, testClusters := d.fw.testClusters, testChans := d.fw.testChans }
    health := { HealthSt.init with
      hours := d.health.hours, faults := d.health.faults, retired := d.health.retired
      retiredChans := d.health.retiredChans ++ d.retiredAtReset }
    bolts := d.bolts
    spools := d.spools.map fun e => (e.1, e.2.afterReset)
    power := { PowerSt.init with vaux := d.power.vaux, clocksLost := d.power.clocksLost }
    tape := { TapeSt.init with ref := ((List.range 4).find? fun s => !bitOf d.power.clocksLost s).getD 0 }
    pins := d.pins
    tx := d.tx
    out := d.out }

/-- PWR_GOOD low: the device is held in reset, the boot flash and fuses as they are, and the SPI pins released (16 R480; 18 R539). -/
def Dev.coldReset (d : Dev) : Dev := { d.persistent with pins := { d.pins with driven := false } }

/-- Ends the diagnostic state: event 0x800E, then 0xD008 with the counts since it began, and every CR_ field 0
(16 R498; 17 R521). Reason 0 expiry, 1 command, 2 reset. -/
def Dev.endDiag (d : Dev) (reason : Nat) : Dev :=
  if !d.diag then d
  else
    let d := d.evTh 0x800E [reason]
    let c := (List.range 7).map fun k => ((getD d.cr.counts (k + 16) 0 : Nat) : Int)
    let d := d.ev 0xD008 (dieSelvage 0) none ((reason : Int) :: c)
    { d with fw := { d.fw with diagEnd := none }, cr := .init }

/-- Bastes whose protection a warm reset lifts (15 R452). -/
def Dev.bastesAtReset (d : Dev) : Dev :=
  ((d.bastes.filter fun e => 1 ≤ e.2.st && e.2.st ≤ 3).map (·.1)).foldl (fun d i => d.abandonBaste i 2) d

/-- A warm reset (15 R442; 16 R487; 17 R509; 18 R539) and the boot that follows. Records not drained are lost. -/
def Dev.warmReset (d : Dev) (env : BootEnv) : Dev :=
  let d := (d.endDiag 2).bastesAtReset
  let p := d.persistent
  let lost := if d.mb.drained < d.mb.head then some (d.mb.drained, d.mb.head - 1) else none
  let p := { p with
    regions := d.regions
    fab := { p.fab with deviceId := d.fab.deviceId }
    containReset := d.containReset
    bastes := d.bastes.filter fun e => 4 ≤ e.2.st
    spools := p.spools.map fun (e : Nat × Spool) => (e.1, { e.2 with marks := (d.spool e.1).marks })
    pace := { p.pace with vcore := d.pace.vcore }
    power := { p.power with pwrGood := d.power.pwrGood, railSince := d.power.railSince, railBad := d.power.railBad,
                             thermtrip := d.power.thermtrip }
    mb := { p.mb with
      head := d.mb.head, drained := d.mb.head, region := d.mb.region, resetLost := lost } }
  let p := d.regions.foldl (fun p r => p.takeFrames r.units r.spool) p
  p.boot env true

end Sys2Proof.Machine
end

