-- ==== Sys2Proof/Machine/Handles.lean ====
section
/-! DEFINITION. Placing and releasing buffer handles: bank groups, the shadow region, the spill ladder and initial content
(06 R177 to R190). -/

namespace Sys2Proof.Machine

/-! ### The shadow region (06 R182) -/

/-- The shadow region of a core in banks of 64 KiB: the largest that a loaded image declares for it, or 16 without one. -/
def Dev.shadowUnits (d : Dev) (core : Nat) : Nat :=
  let l := (List.range 8).filterMap fun n => (((d.ctx n).coreMap core).map (·.shadow))
  if l.isEmpty then 16 else maxN l

/-! ### Placement in scratchpad (06 R181) -/

def Handle.nb (h : Handle) : Nat := 2 ^ h.log2nb

/-- The handle occupies lines of the bank. -/
def Handle.inBank (h : Handle) (b : Nat) : Bool := !h.spilled && h.firstBank ≤ b && b < h.firstBank + h.nb

/-- First line and number of lines that a handle takes in each of its banks. -/
def Handle.window (h : Handle) : Nat × Nat := (h.bankOff, h.lines / h.nb)

/-- Windows taken in any bank of a group. -/
def Core.taken (c : Core) (first nb : Nat) : List (Nat × Nat) :=
  (c.handles.filter fun e => (span first nb).any (e.2.inBank ·)).map (·.2.window)

def clashes (o n : Nat) (w : Nat × Nat) : Bool := o < w.1 + w.2 && w.1 < o + n

/-- The lowest line at which `n` lines are free in every bank of a group: 0, or the end of a window. -/
def Core.lowestIn (c : Core) (first nb n : Nat) : Option Nat :=
  let t := c.taken first nb
  let ok := (0 :: t.map fun w => w.1 + w.2).filter fun o => o + n ≤ 1024 && !t.any (clashes o n ·)
  match ok with
  | [] => none
  | o :: r => some (r.foldl min o)

/-- First bank and line of the first group with a window, outside the shadow region. -/
def Core.place (c : Core) (shadow log2nb size : Nat) : Option (Nat × Nat) :=
  let nb := 2 ^ log2nb
  let n := size / (64 * nb)
  if size = 0 ∨ size % (64 * nb) ≠ 0 ∨ 2097152 < size then none
  else ((List.range (32 / nb)).filter fun g => g * nb + nb ≤ 32 - shadow).findSome? fun g =>
    (c.lowestIn (g * nb) nb n).map fun o => (g * nb, o)

/-! ### The spill ladder (06 R189) -/

/-- A handle to place, from a handle list entry or an HMAP record (06 R180). -/
structure Want where
  handle : Nat
  zero : Bool
  spillOk : Bool
  spillOnly : Bool
  spillMax : Nat
  log2nb : Nat
  size : Nat
  backing : Nat
deriving DecidableEq, Repr

/-- 2 MiB units of a backing. -/
def backingUnits (size : Nat) : Nat := ceilDiv size unit2M

/-- Spools to try at a level: the home Spool, then the others in number order. -/
def spoolsAt (core level : Nat) : List Nat :=
  let m := homeSpool (boltOf core)
  if level = 2 then [m] else if level = 3 then (List.range 8).filter (· != m) else []

/-- Level and backing of a spilled handle: the first level up to SPILL_MAX with room. -/
def Dev.spillTo (d : Dev) (core : Nat) (w : Want) : Option (Nat × Nat) :=
  if !w.spillOk || w.size = 0 || 4194304 < w.size then none
  else ([2, 3, 4, 5].filter (· ≤ w.spillMax)).findSome? fun level =>
    if level ≤ 3 then
      ((spoolsAt core level).find? fun m => 8 * backingUnits w.size ≤ (d.spool m).free).map fun m =>
        (level, backingAddr m core w.handle)
    else if w.backing = 0 then none
    else if level = 4 then
      (if (d.remoteOf w.backing w.size).isSome then some (4, w.backing) else none)
    else if inCompanion w.backing w.size && d.granted w.backing w.size false
        && d.granted w.backing w.size true then some (5, w.backing)
    else none

/-- The deepest level tried, for event 0xE801. -/
def Want.deepest (w : Want) : Nat :=
  if !w.spillOk then 1 else if w.backing = 0 then min 3 w.spillMax else w.spillMax

/-- The entry that a placement makes; none when no level has room. -/
def Dev.findPlace (d : Dev) (core ctx : Nat) (w : Want) (listed : Bool) : Option Handle :=
  let h : Handle := { ctx := ctx, spilled := false, level := 1, log2nb := w.log2nb, firstBank := 0, bankOff := 0,
                      lines := w.size / 64, zero := w.zero, users := 0, backing := 0, listed := listed
                      valid := !listed, patched := [] }
  match (if w.spillOnly then none else (d.core core).place (d.shadowUnits core) w.log2nb w.size) with
  | some (b, o) => some { h with firstBank := b, bankOff := o }
  | none => (d.spillTo core w).map fun x => { h with spilled := true, level := x.1, backing := x.2 }

/-- Enters a placed handle in the table and takes its backing; event 0xE803 when it spilled. -/
def Dev.enterHandle (d : Dev) (core n : Nat) (h : Handle) : Dev :=
  let d := d.updCore core fun c => c.setHandle n h
  if !h.spilled then d
  else
    let d := if h.level ≤ 3 then d.takeFrames (backingUnits (h.lines * 64)) (some (backingSpool h.backing)) else d
    d.ev 0xE803 (boltOf core) (some h.ctx) [d.coreSlot core, n, h.level]

/-- Removes a handle and gives its backing back (06 R184). -/
def Dev.dropHandle (d : Dev) (core n : Nat) : Dev :=
  match (d.core core).placed n with
  | none => d
  | some h =>
    let d := d.updCore core fun c => c.delHandle n
    if h.spilled && h.level ≤ 3 then d.giveFrames (backingUnits (h.lines * 64)) (some (backingSpool h.backing)) else d

/-! ### Lines of a handle (06 R177) and initial content (06 R186) -/

/-- Scratchpad address of a byte of an unspilled handle. -/
def Handle.scr (h : Handle) (core a : Nat) : Nat :=
  let l := a / 64
  scrAddr core (h.firstBank + l % h.nb) (h.bankOff + l / h.nb) + a % 64

/-- The scratchpad ranges of a handle, one per bank: address and bytes. -/
def Handle.ranges (h : Handle) (core : Nat) : List (Nat × Nat) :=
  (List.range h.nb).map fun b => (scrAddr core (h.firstBank + b) h.bankOff, h.lines / h.nb * 64)

/-- The content of a handle that becomes valid: zeros with ZERO set, else undefined. -/
def Store.initHandle (s : Store) (core : Nat) (h : Handle) : Store :=
  if h.spilled then (if h.zero then s.zeroMem h.backing (h.lines * 64) else s.undefMem h.backing (h.lines * 64))
  else (h.ranges core).foldl (fun s r => if h.zero then s.zeroScr r.1 r.2 else s.undefScr r.1 r.2) s

/-- Whole lines of a remote range wait to go out as writes of up to six lines (12 R375). -/
def Dev.queueWrites (d : Dev) (ctx : Nat) (act : Option Act) (core a n : Nat) : Dev :=
  let dev := ((d.remoteOf a n).map (·.dev)).getD 0xFFFF
  let reqs := (pieces 6 (linesOf a n)).map fun p =>
    ({ kind := 1, tag := 0, dev := dev, addr := (p.head?.getD (a / 64)) * 64, len := 64 * p.length, act := act, ctx := ctx
       port := some core } : RemoteReq)
  { d with fab := { d.fab with waitWr := d.fab.waitWr ++ reqs } }

/-- The zeros of a level-4 backing go out as writes (06 R186). -/
def Dev.queueZeros (d : Dev) (ctx : Nat) (act : Option Act) (core : Nat) (h : Handle) : Dev :=
  if h.spilled && h.level == 4 && h.zero then d.queueWrites ctx act core h.backing (h.lines * 64) else d

/-! ### Users (06 R178) -/

def Dev.updUsers (d : Dev) (core n : Nat) (f : Nat → Nat) : Dev :=
  match (d.core core).handle n with
  | none => d
  | some h => d.updCore core fun c => c.setHandle n { h with users := f h.users }

/-- Every handle of a context that `p` selects, by core and number. -/
def Dev.handlesOf (d : Dev) (ctx : Nat) (p : Handle → Bool) : List (Nat × Nat) :=
  d.cores.flatMap fun e => ((e.2.handles.filter fun x => x.2.ctx == ctx && p x.2).map fun x => (e.1, x.1))

/-- The placed handles of a context become valid, or stay placed only, and have no users. -/
def Dev.validate (d : Dev) (ctx : Nat) (valid : Bool) : Dev :=
  { d with cores := d.cores.map fun e => (e.1, { e.2 with handles := e.2.handles.map fun x =>
      if x.2.ctx = ctx then (x.1, { x.2 with valid := valid, users := 0 }) else x }) }

/-- At the end of a run: handles that HMAP created are released, and handle list handles stay placed (06 R186, R187). -/
def Dev.endHandles (d : Dev) (ctx : Nat) : Dev :=
  ((d.handlesOf ctx (!·.listed)).foldl (fun d x => d.dropHandle x.1 x.2) d).validate ctx false

/-! ### Bank power (06 R187) -/

/-- A bank is powered while a valid handle maps it or the shadow region includes it. -/
def Dev.bankPowered (d : Dev) (core bank : Nat) : Bool :=
  decide (32 - d.shadowUnits core ≤ bank) || (d.core core).handles.any fun e => e.2.valid && e.2.inBank bank

/-- The banks of handles that stopped being valid lose their content where nothing keeps them powered. -/
def Box.losePower (b : Box) (hs : List (Nat × Handle)) : Box :=
  hs.foldl (fun b x => ((List.range 32).filter x.2.inBank).foldl (fun b k =>
    if b.dev.bankPowered x.1 k then b else b.onS fun s => s.lostScr (scrAddr x.1 k 0) 65536) b) b

/-- The valid handles that `p` selects, with their cores. -/
def Dev.validHandles (d : Dev) (p : Nat → Nat → Handle → Bool) : List (Nat × Handle) :=
  d.cores.flatMap fun e => (e.2.handles.filter fun x => x.2.valid && p e.1 x.1 x.2).map fun x => (e.1, x.2)

end Sys2Proof.Machine
end

