-- ==== Sys2Proof/Machine/Retire.lean ====
section
/-! DEFINITION. Service advice, and the remap of a logical cluster to a spare that passed its suites (01 R28 to R31;
06 R188; 15 R444 to R447, R472). -/

namespace Sys2Proof.Machine

/-! ### Service advice (15 R472) -/

def EngQ.any (t : Tbl EngQ) : Bool := t.any (·.2.disabled)

/-- The conditions of ADVICE bits 0 to 4. -/
def Dev.adviceConds (d : Dev) : List Bool :=
  [(List.range 24).any fun b => (d.bolt b).spares.isEmpty,
   (List.range 8).any fun m => (d.spool m).spares.isEmpty,
   (List.range 8).any fun m => (d.spool m).chans.any fun e => e.2.role == 4,
   (d.ready || d.bare) && decide (((d.cutter.st.filter fun e => e.2 ≤ 1).length) < 2),
   EngQ.any d.gmes || EngQ.any d.presses || EngQ.any d.engs || !d.fab.unitsDown.isEmpty]

/-- ADVICE as its conditions stand; bit 5 stays set. Each newly set bit raises event 0x700D. -/
def Dev.refreshAdvice (d : Dev) : Dev :=
  let new := packFields ((d.adviceConds.zip (List.range 5)).map fun x => (boolN x.1, x.2)) + (if bitOf d.health.advice 5 then 32 else 0)
  let fresh := (List.range 6).filter fun i => new.testBit i && !bitOf d.health.advice i
  let d := { d with health := { d.health with advice := BitVec.ofNat 6 new } }
  fresh.foldl (fun (d : Dev) (i : Nat) => d.evFw 0x700D none [(new : Int), (i : Int)]) d

/-! ### Clusters due for retirement (15 R444 to R446) -/

/-- An image uses a logical cluster of a Bolt. -/
def Ctx.usesCluster (c : Ctx) (bolt k : Nat) : Bool :=
  c.img.any fun i => (i.clusterMap.getD bolt 0).testBit k

/-- Live contexts that use a logical cluster. -/
def Dev.usersOf (d : Dev) (bolt k : Nat) : List Nat := d.liveCtxs.filter fun n => (d.ctx n).usesCluster bolt k

/-- The spare that a due cluster's suites run on: the lowest that no other due cluster takes (log 18). -/
def Dev.candidate (d : Dev) (r : RetireDue) : Option Nat :=
  let before := d.retireDue.takeWhile fun x => !(x.bolt == r.bolt && x.k == r.k)
  let taken := before.filterMap fun x => if x.bolt = r.bolt then x.spare else none
  let open' := (d.bolt r.bolt).spares.filter fun p => !taken.contains p
  open'[(before.filter fun x => x.bolt == r.bolt && x.spare.isNone).length]?

/-- Strikes of the 16 cores of a cluster are cleared, its banks count anew, its Hem entries are invalid. -/
def Dev.freshCluster (d : Dev) (bolt k : Nat) : Dev :=
  let cl := 16 * bolt + k
  { d with
    cores := d.cores.map fun e => if clusterOf e.1 = cl then (e.1, { e.2 with strikes := [], bankErr := [] }) else e
    hems := d.hems.map fun e => if e.1 = cl then (e.1, { e.2 with ents := [] }) else e }

/-- The valid handles of the cores of a cluster. -/
def Dev.clusterHandles (d : Dev) (cl : Nat) : List (Nat × Handle) := d.validHandles fun core _ _ => clusterOf core == cl

/-- The scratchpads of the new physical cluster start powered down (06 R188). -/
def Store.freshScr (s : Store) (cl : Nat) : Store := s.lostScr (scrAddr (16 * cl) 0 0) (16 * 2097152)

/-- Remaps one due cluster to the spare that passed and re-creates its handles (01 R28; 06 R188; 15 R446). -/
def Box.remap (b : Box) (r : RetireDue) (spare : Nat) : Box :=
  let d := b.dev
  let cl := 16 * r.bolt + r.k
  let old := (d.bolt r.bolt).phys r.k
  let hs := d.clusterHandles cl
  let since := (d.usersOf r.bolt r.k).filterMap fun n => ((d.ctx n).rhold).map (·.since)
  let d := (d.freshCluster r.bolt r.k).updBolt r.bolt fun x =>
    { x with remap := put x.remap r.k spare, spares := x.spares.filter (· != spare) }
  let d := { d with
    retireDue := d.retireDue.filter fun x => !(x.bolt == r.bolt && x.k == r.k)
    health := { d.health with retired := d.health.retired ++ [18 * r.bolt + old] } }
  let ctxs := (List.range 8).filter fun n => hs.any fun h => h.2.ctx == n
  let d := ctxs.foldl (fun d n => d.evFw 0xE809 (some n) [cl, 18 * r.bolt + old, 18 * r.bolt + spare]) d
  let d := d.evFw 0x7006 none [r.bolt, r.k, old, spare, r.trigger, d.now - since.foldl min d.now]
  { store := hs.foldl (fun s h => s.initHandle h.1 h.2) (b.store.freshScr cl)
    dev := hs.foldl (fun d h => d.queueZeros h.2.ctx none h.1 h.2) d.refreshAdvice }

/-- The remap may take place: a spare passed, no schedule load is in progress, and every using context is held (01 R28). -/
def Dev.mayRemap (d : Dev) (r : RetireDue) : Bool :=
  r.spare.isSome && !d.loading && (d.usersOf r.bolt r.k).all (fun n => (d.ctx n).rhold.isSome)

/-- Some due cluster with an approved spare still needs the context held. -/
def Dev.holdWanted (d : Dev) (n : Nat) : Bool :=
  d.retireDue.any fun r => r.spare.isSome && (d.ctx n).usesCluster r.bolt r.k

/-- Releases the contexts that no due cluster needs any more; what they launch is late with cause 8 (15 R446). -/
def Dev.releaseHeld (d : Dev) : Dev :=
  (List.range 8).foldl (fun d n =>
    match (d.ctx n).rhold with
    | some h => if d.holdWanted n then d else (d.updCtx n fun c => { c with rhold := none }).markReleased n h.knot 8
    | none => d) d

/-- Performs every remap that may take place, then releases the contexts that no due cluster needs any more. -/
def Box.tryRetire (b : Box) : Box :=
  let b := (b.dev.retireDue.filter b.dev.mayRemap).foldl (fun b r => b.remap r (r.spare.getD 0)) b
  b.onD Dev.releaseHeld

/-- May a context be held at its step boundary for a retirement (15 R446 stages 2 and 3)? No using context may be without
a STEP_END Knot; while a schedule load is in progress the retirement waits (01 R28). -/
def Dev.holdNow (d : Dev) (n : Nat) : Bool :=
  !d.loading && d.retireDue.any fun r => r.spare.isSome && (d.ctx n).usesCluster r.bolt r.k
    && (d.usersOf r.bolt r.k).all fun m => (d.ctx m).img.any fun i => i.knots.any (·.stepEnd)

end Sys2Proof.Machine
end

