-- ==== Sys2Proof/Machine/Tensors.lean ====
section
/-! DEFINITION. Tensor descriptors: their fields, element addresses, ranges, aliasing and distribution (07 R194 to R206),
and reading and writing elements through them. -/

namespace Sys2Proof.Machine

abbrev Desc := BitVec 512

/-! ### Fields (07 R196, R204) -/

def dBase (d : Desc) : Nat := fld d 0 52
def dFmt (d : Desc) : Nat := fld d 52 5
def dPlanar (d : Desc) : Bool := bitOf d 57
def dRank (d : Desc) : Nat := fld d 58 3
def dWrite (d : Desc) : Bool := bitOf d 61
def dStrict (d : Desc) : Bool := bitOf d 62
def dExact (d : Desc) : Bool := bitOf d 63
def dSize (d : Desc) (i : Nat) : Nat := fld d (64 + 32 * i) 32
def dStride (d : Desc) (i : Nat) : Int := sext 32 (fld d (256 + 32 * i) 32)
def dXdim (d : Desc) : Nat := fld d 448 3
def dYdim (d : Desc) : Nat := fld d 451 3
def dNx (d : Desc) : Nat := fld d 454 14
def dCx (d : Desc) : Nat := fld d 468 13
def dNy (d : Desc) : Nat := fld d 481 14
def dCy (d : Desc) : Nat := fld d 495 13
def dShardRes (d : Desc) : Nat := fld d 508 4

def dDims (d : Desc) : List Nat := List.range (dRank d)
def dSizes (d : Desc) : List Nat := (dDims d).map (dSize d)
def prod (l : List Nat) : Nat := l.foldl (· * ·) 1
/-- Elements of the tensor. -/
def dCount (d : Desc) : Nat := prod (dSizes d)
def dEmpty (d : Desc) : Bool := dCount d == 0
/-- Bytes per element of a format that is not planar (07 R198). -/
def dEb (d : Desc) : Nat := fmtBits (dFmt d) / 8

/-! ### Coordinates and addresses (07 R198, R199, R205) -/

/-- Coordinates of a linear index, dimension 0 first. -/
def coordsOf : List Nat → Nat → List Nat
  | [], _ => []
  | s :: t, lin => lin % s :: coordsOf t (lin / s)

/-- Linear index of coordinates. -/
def linOf : List Nat → List Nat → Nat
  | s :: t, c :: u => c + s * linOf t u
  | _, _ => 0

/-- Strides of a dense tensor: 1, SIZE0, SIZE0 x SIZE1, ... -/
def denseStrides : List Nat → Nat → List Int
  | [], _ => []
  | s :: t, p => (p : Int) :: denseStrides t (p * s)

def dDense (d : Desc) : Bool := (dDims d).map (dStride d) == denseStrides (dSizes d) 1

/-- Global size of a dimension (07 R205). -/
def dGlobal (d : Desc) (i : Nat) : Nat :=
  dSize d i * (if dXdim d = i then dNx d else 1) * (if dYdim d = i then dNy d else 1)

/-- This device's shard number along a dimension. -/
def dShardNo (d : Desc) (i : Nat) : Nat :=
  if dXdim d = i ∧ dYdim d = i then dCx d * dNy d + dCy d
  else if dXdim d = i then dCx d else if dYdim d = i then dCy d else 0

/-- Global linear index of a local element. -/
def dGlobalIndex (d : Desc) (lin : Nat) : Nat :=
  let c := coordsOf (dSizes d) lin
  linOf ((dDims d).map (dGlobal d)) ((c.zip (dDims d)).map fun x => dShardNo d x.2 * dSize d x.2 + x.1)

def dDistributed (d : Desc) : Bool := dXdim d != 7 || dYdim d != 7

/-! ### Byte range and aliasing (07 R200, R202) -/

/-- Extent below and above the base, in elements. -/
def dExtent (d : Desc) : Int × Int :=
  (dDims d).foldl (fun a i =>
    let t : Int := ((dSize d i : Int) - 1) * dStride d i
    if t < 0 then (a.1 + t, a.2) else (a.1, a.2 + t)) (0, 0)

/-- First and last byte of a non-empty descriptor. -/
def dRange (d : Desc) : Int × Int :=
  if dPlanar d then (dBase d, (dBase d : Int) + fmtBits (dFmt d) * planeSize (dCount d) - 1)
  else ((dBase d : Int) + (dExtent d).1 * dEb d, (dBase d : Int) + ((dExtent d).2 + 1) * dEb d - 1)

/-- Byte ranges of two descriptors overlap. -/
def dOverlap (a b : Desc) : Bool :=
  !dEmpty a && !dEmpty b && decide ((dRange a).1 ≤ (dRange b).2) && decide ((dRange b).1 ≤ (dRange a).2)

/-- Inserts a dimension by |stride|, after equal ones. -/
def insStride (x : Nat × Nat) : List (Nat × Nat) → List (Nat × Nat)
  | [] => [x]
  | y :: t => if x.1 < y.1 then x :: y :: t else y :: insStride x t

/-- The alias loop of 07 R202 over (|stride|, size), ascending. -/
def aliasLoop : List (Nat × Nat) → Nat → Bool
  | [], _ => false
  | (st, sz) :: t, reach => if st ≤ reach then true else aliasLoop t (reach + (sz - 1) * st)

def dAliases (d : Desc) : Bool :=
  aliasLoop (((dDims d).filter fun i => 1 < dSize d i).foldl
    (fun l i => insStride ((dStride d i).natAbs, dSize d i) l) []) 0

/-! ### Table lookups (07 R194, R195) and forerunner addresses (07 R225 to R227) -/

/-- A tensor as an action reaches it: through a native descriptor, or a forerunner-form one that the page table
translates. -/
structure Tens where
  d : Desc
  fr : Bool
deriving DecidableEq, Repr

def Tens.ofDesc (d : Desc) : Tens := ⟨d, false⟩

def Dev.native (d : Dev) (i : Nat) : Option Desc :=
  match get? d.descs i with
  | some (.native x) => some x
  | _ => none

/-- A forerunner-form descriptor is never distributed (07 R225): its sharding word, which is 0, stands for no axis. -/
def unsharded (x : Desc) : Desc := x ||| (63#512 <<< 448)

def Dev.tens (d : Dev) (i : Nat) : Option Tens :=
  match get? d.descs i with
  | some (.native x) => some ⟨x, false⟩
  | some (.forerunner x) => some ⟨unsharded x, true⟩
  | _ => none

/-- Device address of a byte of a tensor. -/
def Dev.xlate (d : Dev) (t : Tens) (a : Nat) : Nat :=
  if t.fr then (get? d.compat (a / 2097152)).elim 0 fun p => p.target + a % 2097152 else a

/-- Base address in the descriptor's own address space. -/
def Tens.base (t : Tens) : Nat := if t.fr then dBase t.d % 2 ^ 40 else dBase t.d

/-- Address of an element that is not planar, in the descriptor's own address space. -/
def Tens.elAddr (t : Tens) (lin : Nat) : Int :=
  (t.base : Int) + (dEb t.d : Int) *
    (((coordsOf (dSizes t.d) lin).zip ((dDims t.d).map (dStride t.d))).foldl (fun (a : Int) x => a + (x.1 : Int) * x.2) 0)

/-- The bit positions that a read of the top `p` planes reads; 0 stands for all of them (03 R105). -/
def topBits (f p : Nat) : List Nat := if p = 0 ∨ fmtBits f ≤ p then List.range (fmtBits f) else span (fmtBits f - p) p

/-- The bytes that hold element `lin`, of its top `p` planes. -/
def Tens.addrsTop (t : Tens) (p lin : Nat) : List Int :=
  if dPlanar t.d then (topBits (dFmt t.d) p).map fun k =>
    ((t.base + planeByte (dFmt t.d) (dCount t.d) lin k : Nat) : Int)
  else (List.range (dEb t.d)).map fun (i : Nat) => t.elAddr lin + i

/-- The bytes that hold element `lin`. -/
def Tens.addrs (t : Tens) (lin : Nat) : List Int := t.addrsTop 0 lin

/-- Why a forerunner address cannot be accessed: 0 range, 1 unmapped, 2 write; 3 and 4: a read or write outside the
companion grants (14 R407). -/
def Dev.pageFault (d : Dev) (write : Bool) (a : Int) : Option Nat :=
  if a < 0 ∨ 2 ^ 40 ≤ a then some 0
  else match get? d.compat (a.toNat / 2097152) with
    | none => some 1
    | some p =>
      let y := p.target + a.toNat % 2097152
      if write && !p.wr then some 2 else if !write && !p.rd then some 1
      else if inCompanion y 1 && !d.granted y 1 write then some (if write then 4 else 3) else none

/-- The first byte of some in a forerunner-form tensor whose access faults: address and reason. -/
def Dev.bytesFault (d : Dev) (t : Tens) (write : Bool) (l : List Int) : Option (Int × Nat) :=
  if !t.fr then none else l.findSome? fun a => (d.pageFault write a).map fun r => (a, r)

/-- The first access to elements of a tensor that faults; a read names the planes that it reads. -/
def Dev.tFault (d : Dev) (t : Tens) (write : Bool) (lins : List Nat) (planes : Nat := 0) : Option (Int × Nat) :=
  if !t.fr then none else lins.findSome? fun l => d.bytesFault t write (t.addrsTop planes l)

/-! ### Elements in memory -/

/-- A byte of a tensor, by its address in the descriptor's own address space. -/
def Box.tByte (b : Box) (t : Tens) (a : Nat) : PB := ((b.store.rdMem (b.dev.xlate t a) 1).head?).getD (0, false)

/-- Element `lin` of a tensor: code and poison. -/
def Box.tRead (b : Box) (t : Tens) (lin : Nat) : Nat × Bool :=
  if dPlanar t.d then readEl (fun o => b.tByte t (t.base + o)) (dFmt t.d) (dCount t.d) lin true
  else
    let l := (t.addrs lin).map fun a => b.tByte t a.toNat
    (leNat (bytesOf l), anyBad l)

/-- An element read from the top `p` planes with a fill (03 R105, R106). -/
def Box.tReadTop (b : Box) (t : Tens) (p : Nat) (mid : Bool) (lin : Nat) : Nat × Bool :=
  if p = 0 || !dPlanar t.d then b.tRead t lin else readTop (fun o => b.tByte t (t.base + o)) (dFmt t.d) (dCount t.d) p mid lin

/-- Element `lin` as binary32. -/
def Box.tVal (b : Box) (t : Tens) (lin : Nat) : Elem :=
  let e := b.tRead t lin
  ⟨toB32 (dFmt t.d) e.1, e.2⟩

/-- Bytes to write, by address. -/
abbrev Overlay := Tbl PB

/-- Sets bit `i` of the byte at `a`; `old` is what stands there. -/
def setBit (o : Overlay) (a i : Nat) (old : Byte) (v : Nat) (bad : Bool) : Overlay :=
  let x := getD o a (old, false)
  let cleared := x.1.toNat - (if x.1.toNat / 2 ^ i % 2 = 1 then 2 ^ i else 0)
  put o a (BitVec.ofNat 8 (cleared + v % 2 * 2 ^ i), x.2 || bad)

/-- Adds an element to the bytes to write: all its planes, or its bytes. -/
def Box.tPut (b : Box) (o : Overlay) (t : Tens) (lin v : Nat) (bad : Bool) : Overlay :=
  if dPlanar t.d then
    (List.range (fmtBits (dFmt t.d))).foldl (fun o k =>
      let a := b.dev.xlate t (t.base + planeByte (dFmt t.d) (dCount t.d) lin k)
      setBit o a (lin % 8) (b.store.mem.byte a) (v / 2 ^ k) bad) o
  else
    ((t.addrs lin).zip (leBytes (dEb t.d) v)).foldl (fun o x => put o (b.dev.xlate t x.1.toNat) (x.2, bad)) o

/-- Places, in a plane of n elements, of its padding bits: byte and bit (03 R104). -/
def padBits (n : Nat) : List (Nat × Nat) :=
  (span n (8 * planeSize n - n)).map fun i => (i / 8, i % 8)

/-- The padding bits of every plane, written as 0 with the last element. -/
def Box.tPad (b : Box) (o : Overlay) (t : Tens) : Overlay :=
  (List.range (fmtBits (dFmt t.d))).foldl (fun o k => (padBits (dCount t.d)).foldl (fun o p =>
    let a := b.dev.xlate t (t.base + k * planeSize (dCount t.d) + p.1)
    setBit o a p.2 (b.store.mem.byte a) 0 false) o) o

/-- The bytes to write for elements of a tensor: linear index, code, poison. -/
def Box.tOverlay (b : Box) (t : Tens) (els : List (Nat × Nat × Bool)) : Overlay :=
  let o := els.foldl (fun o e => b.tPut o t e.1 e.2.1 e.2.2) []
  if dPlanar t.d && els.any (fun e => e.1 + 1 == dCount t.d) then b.tPad o t else o

/-- Runs of consecutive addresses. -/
def runsOf : Overlay → List (Nat × List PB)
  | [] => []
  | (a, b) :: t =>
    match runsOf t with
    | [] => [(a, [b])]
    | (a', l) :: r => if a' = a + 1 then (a, b :: l) :: r else (a, [b]) :: (a', l) :: r

/-- Writes collected bytes, each run of addresses as one write. -/
def Box.wrOverlay (b : Box) (o : Overlay) : Box := (runsOf o).foldl (fun b r => b.wrDev r.1 r.2) b

/-- Writes elements of a tensor: linear index, code, poison. -/
def Box.tWrite (b : Box) (t : Tens) (els : List (Nat × Nat × Bool)) : Box := b.wrOverlay (b.tOverlay t els)

end Sys2Proof.Machine
end

