-- ==== Sys2Proof/Machine/Runs.lean ====
section
/-! DEFINITION. The life of a run: counted conditions and summaries (05 R558), changes of the context state (17 R556),
failing collectives (12 R391), stops and ends (05 R168, R174, R561; 04 R136; 08 R232; 09 R290), and the observation of
poison (15 R438 to R441). -/

namespace Sys2Proof.Machine

/-! ### Counted conditions (03 R108; 07 R220; 08 R263; 09 R297; 10 R319) -/

/-- The five groups of counts of a context, each in the payload order of its summary event. -/
inductive CountKind where
  | arith | idx | sparse | press | route
deriving DecidableEq, Repr

def Counts.of (c : Counts) : CountKind → Tbl Nat
  | .arith => c.arith
  | .idx => c.idx
  | .sparse => c.sparse
  | .press => c.press
  | .route => c.route

def Counts.set (c : Counts) (t : Tbl Nat) : CountKind → Counts
  | .arith => { c with arith := t }
  | .idx => { c with idx := t }
  | .sparse => { c with sparse := t }
  | .press => { c with press := t }
  | .route => { c with route := t }

/-- Adds to a count, which saturates. -/
def Counts.add (c : Counts) (k : CountKind) (i n : Nat) : Counts := c.set (put (c.of k) i (satAdd 32 (getD (c.of k) i 0) n)) k

def Dev.count (d : Dev) (ctx : Nat) (k : CountKind) (i n : Nat) : Dev :=
  d.updCtx ctx fun c => { c with counts := c.counts.add k i n }

/-- Raises an event at its first occurrence in the training step for a core or engine (05 R558). -/
def Dev.first (d : Dev) (ctx code die : Nat) (eng : Int) (slots : List Int) : Dev :=
  let key := (code, eng.toNat)
  if (d.ctx ctx).firsts.contains key then d
  else (d.updCtx ctx fun c => { c with firsts := key :: c.firsts }).ev code die (some ctx) slots

/-- A counted condition: one more, with its event at the first occurrence. -/
def Dev.condition (d : Dev) (ctx : Nat) (k : CountKind) (i code die : Nat) (eng : Int) (slots : List Int) : Dev :=
  (d.count ctx k i 1).first ctx code die eng slots

/-- An arithmetic condition of 03 R109: `code` 0x3001 to 0x3005, with the operation or the destination format. The manual does not
say what its item "instruction or command address" holds: here the instruction's number in its block (log 76). -/
def Dev.arith (d : Dev) (ctx code die : Nat) (eng : Int) (index op fmt : Nat) : Dev :=
  d.condition ctx .arith (code - 0x3001) code die eng
    (eng :: (index : Int) :: (if code = 0x3003 then [] else [if code = 0x3001 then (op : Int) else (fmt : Int)]))

/-! ### Summaries (05 R558) -/

/-- The Selvage that holds the context's STEP_END Knot (01 R36), Selvage 0 without one: it reports the summaries. -/
def Ctx.stepEnd (c : Ctx) : Option Nat := c.img.bind fun i => (i.knots.find? (·.stepEnd)).map (·.id)
def Ctx.die (c : Ctx) : Nat := c.stepEnd.elim (dieSelvage 0) dieKnot

def Dev.summary (d : Dev) (n code : Nat) (k : CountKind) (len : Nat) : Dev :=
  let c := d.ctx n
  let l := (List.range len).map fun i => getD (c.counts.of k) i 0
  if l.all (· == 0) then d else d.ev code c.die (some n) ((c.step : Int) :: l.map fun (x : Nat) => (x : Int))

/-- Misses / audited as a binary32 value, 0 without an audit. -/
def ChalkLayer.missRate (l : ChalkLayer) : W32 := if l.aud = 0 then 0 else B32.div (B32.ofInt l.miss) (B32.ofInt l.aud)

/-- The estimated lost count, rounded to the nearest integer (08 R262). -/
def ChalkLayer.lost (l : ChalkLayer) : Nat := if l.aud = 0 then 0 else (2 * l.miss * l.unaud + l.aud) / (2 * l.aud)

/-- Event 0xA00A for every layer that calls for it (08 R262). -/
def Dev.chalkSummary (d : Dev) (n : Nat) : Dev :=
  let c := d.ctx n
  (c.chalk.filter fun e => e.2.aud != 0 || e.2.flag).foldl (fun d e =>
    d.ev 0xA00A c.die (some n) [c.step, e.1, e.2.sumP, e.2.aud, e.2.miss, e.2.missRate.toNat, e.2.lost, boolN e.2.flag]) d

def ChalkLayer.reset (l : ChalkLayer) : ChalkLayer := { l with sumP := 0, aud := 0, miss := 0, unaud := 0, flag := false, acting := false, eff := [] }

/-- A summary point: the summaries in the order of R558, then the counts and first occurrences start again. -/
def Dev.summaries (d : Dev) (n : Nat) : Dev :=
  let d := (((d.summary n 0x200C .idx 3).summary n 0x3006 .arith 5).summary n 0xA007 .sparse 9).chalkSummary n
  let d := (d.summary n 0xB005 .route 7).summary n 0xC006 .press 6
  d.updCtx n fun c => { c with counts := .zero, firsts := [], chalk := c.chalk.map fun e => (e.1, e.2.reset) }

/-! ### Changes of the context state (05 R173; 17 R556) -/

def CtxState.num : CtxState → Nat
  | .empty => 0
  | .loaded => 1
  | .running => 2
  | .stopping => 3

/-- Changes the state; event 0x0002 except in bare mode. Leaving RUNNING abandons a Baste that is PENDING (15 R452). -/
def Dev.setSt (d : Dev) (n : Nat) (st : CtxState) (opc : Nat) : Dev :=
  let old := (d.ctx n).st
  if old = st then d
  else
    let d := d.updCtx n fun c => { c with st := st }
    let d := if d.bare then d else d.evFw 0x0002 (some n) [old.num, st.num, opc]
    if old = .running then
      ((d.bastes.filter fun e => e.2.st == 1 && e.2.ctx == n).map (·.1)).foldl (fun d i => d.abandonBaste i 1) d
    else d

/-! ### Collective plans and failing instances (12 R379, R391) -/

def Plan.op (p : Plan) : Nat := fld p.hdr 0 8
def Plan.redop (p : Plan) : Nat := fld p.hdr 8 8
def Plan.fmt (p : Plan) : Nat := fld p.hdr 16 8
def Plan.algo (p : Plan) : Nat := fld p.hdr 24 8
def Plan.nmemb (p : Plan) : Nat := fld p.hdr 32 16
def Plan.self (p : Plan) : Nat := fld p.hdr 48 16
def Plan.nr (p : Plan) : Nat := fld p.hdr 64 16
def Plan.root (p : Plan) : Nat := fld p.hdr 80 16
def Plan.epoch (p : Plan) : Nat := fld p.hdr 96 16
def Plan.flags (p : Plan) : Nat := fld p.hdr 112 8
def Plan.level (p : Plan) : Nat := fld p.hdr 120 8
/-- TIMEOUT in ns. -/
def Plan.timeout (p : Plan) : Nat := fld p.hdr 128 32 * 1000
/-- Device ID of a member. -/
def Plan.dev (p : Plan) (i : Nat) : Nat := (p.members[i]?).elim 0xFFFF (·.1)
/-- DEST of a member (OP 6). -/
def Plan.dest (p : Plan) (i : Nat) : Nat := (p.members[i]?).elim 0 (·.2)

/-- First element and length of segment s of n elements over P members. -/
def segment (s n p : Nat) : Nat × Nat := (s * n / p, (s + 1) * n / p - s * n / p)

/-- Elements of DD that an instance writes on this device: first and number. -/
def Plan.written (p : Plan) (n ddstart : Nat) : Nat × Nat :=
  if p.op = 2 then (ddstart, (segment p.self n p.nmemb).2)
  else if p.op = 3 ∨ p.op = 4 then (ddstart, n * p.nmemb)
  else (ddstart, n)

/-- Makes elements of a dense tensor undefined (log 2). -/
def Box.undefEls (b : Box) (t : Desc) (first len : Nat) : Box :=
  if dPlanar t then
    let n := b.store.free
    let b := b.tWrite (.ofDesc t) ((span first len).map fun i => (i, (Config.freeByte n i).toNat % 2 ^ fmtBits (dFmt t), false))
    b.onS fun s => { s with free := s.free + 1 }
  else b.onS fun s => s.undefMem (dBase t + first * dEb t) (len * dEb t)

/-- An instance ends without success: event 0x500B, DD undefined where it writes, its reduction unit free, and, unless an
ABORT caused it, ABORT to every other member. -/
def Box.failColl (b : Box) (i : CollInst) (status reporter : Nat) (abort : Bool) : Box :=
  let p := getD b.dev.fab.plans i.plan ⟨0, 0, [], 0⟩
  let others := (List.range p.nmemb).filter (· != p.self)
  let d := if abort then others.foldl (fun d m => d.sendCtrl (p.dev m) i.plan i.inst 3 status 0) b.dev else b.dev
  let d := d.ev 0x500B (dieSelvage 0) (some i.ctx) [i.plan, i.inst, status, reporter]
  let d := { d with
    fab := { d.fab with insts := d.fab.insts.filter fun x => !(x.plan == i.plan && x.inst == i.inst) }
    health := if 1 ≤ status ∧ status ≤ 3 then { d.health with faults := d.health.faults + 1 } else d.health }
  match d.native i.dd with
  | some t => let w := p.written i.n i.ddstart; (b.withDev d).undefEls t w.1 w.2
  | none => b.withDev d

/-- Fails every instance of a context with one status, as this member reports it. -/
def Box.failColls (b : Box) (ctx status : Nat) : Box :=
  (b.dev.fab.insts.filter (·.ctx == ctx)).foldl (fun b i =>
    b.failColl i status (getD b.dev.fab.plans i.plan ⟨0, 0, [], 0⟩).self true) b

/-! ### Discarding work (04 R136; 08 R232; 09 R290; 15 R434) -/

/-- The core without the array work of a context: its commands, groups, entries, and shadow work of it. -/
def Core.dropArrays (c : Core) (ctx : Nat) : Core :=
  let gone := c.arrq.filter (·.ctx == ctx)
  let mine := fun (st : Str) (id : Nat) => gone.any fun x => x.st == st && x.id == id
  let hit := fun (b : Bank) => b.grp.any fun g => mine g.st g.id
  let c1 := if c.feeds.any fun f => mine f.1 f.2.1 then
      { c with feeds := none, bob := [], bobFill := [], wq := [], wqFill := 0, held := [] } else c
  { c1 with
    arrq := c.arrq.filter (·.ctx != ctx)
    bankA := if hit c.bankA then .init else c.bankA
    bankB := if hit c.bankB then .init else c.bankB
    shadow := if c.shadow.any (·.ctx == some ctx) then none else c.shadow
    verdicts := c.verdicts.filter fun v => !mine v.st v.id }

/-- A stream without the launched actions and the next action of a context. -/
def StreamSt.drop (s : StreamSt) (ctx : Nat) : StreamSt :=
  { s with acts := s.acts.filter (·.ctx != ctx)
           nxt := if s.ctx = some ctx then none else s.nxt
           wait := if s.ctx = some ctx then none else s.wait }

def Core.dropCtx (c : Core) (ctx : Nat) : Core :=
  let c := c.dropArrays ctx
  { c with sf := c.sf.drop ctx, sb := c.sb.drop ctx, su := c.su.drop ctx }

/-- Does an action, launched or still next, belong to a context? -/
def Dev.actIn (d : Dev) (ctx : Nat) (a : Act) : Bool :=
  (d.action a).elim ((d.stream a.cs).ctx == some ctx) (·.ctx == ctx)

def dropQ (p : Act → Bool) (t : Tbl EngQ) : Tbl EngQ := t.map fun e => (e.1, { e.2 with q := e.2.q.filter fun x => !p x.a })

/-- Discards a context's work in flight in every engine. -/
def Dev.discard (d : Dev) (ctx : Nat) : Dev :=
  let mine := d.actIn ctx
  { d with
    gmes := dropQ mine d.gmes
    presses := dropQ mine d.presses
    ahead := d.ahead.filter fun x => !mine x.act
    bounce := d.bounce.filter fun e => !mine e.2
    hems := d.hems.map fun e => (e.1, { e.2 with q := e.2.q.filter fun x => !mine x.a })
    arrivals := d.arrivals.filter fun x => match x.src with
      | .act a => !mine a
      | .remote _ _ _ => true
    fab := { d.fab with remote := d.fab.remote.filter (·.ctx != ctx), waitWr := d.fab.waitWr.filter (·.ctx != ctx) }
    cores := d.cores.map fun e => (e.1, e.2.dropCtx ctx) }

/-! ### Descriptors that actions name (07 R195, R208) -/

/-- Byte and index of every descriptor field of a record that names an entry of the table. -/
def namedDescs (r : BitVec 256) : List (Nat × Nat) :=
  let o := fld r 0 8
  let l := if o = 0x5A ∨ o = 0x5B then [2, 16] else if o = 0x60 then [8, 10, 12, 14] else if o = 0x61 then [4, 6, 8, 10]
    else if o = 0x68 then [4, 6] else if o = 0x69 then [6, 8, 10, 12, 14, 16, 18] else []
  (l.map fun b => (b, fld r (8 * b) 16)).filter fun x => x.2 != 0xFFFF

/-- Table entries that a record's fields reach, the members of a pair among them. -/
def Dev.reachedDescs (d : Dev) (r : BitVec 256) : List Nat :=
  (namedDescs r).flatMap fun x => match get? d.descs x.2 with
    | some (.pair p) => [x.2, fld p 16 16, fld p 32 16]
    | _ => [x.2]

/-- Every launched action that has not completed. -/
def Dev.allActs (d : Dev) : List Action := d.cores.flatMap fun e => strs.flatMap fun st => (e.2.stream st).acts

/-- Entries that DESC_DESTROY named become empty once no launched action reaches them; a command whose whole range is
empty completes. -/
def Dev.settleDying (d : Dev) : Dev :=
  if d.dying.isEmpty && d.opens.isEmpty then d
  else
    let used := d.allActs.flatMap fun a => d.reachedDescs a.desc
    let gone := d.dying.filter fun i => !used.contains i
    let d := { d with descs := d.descs.filter (fun e => !gone.contains e.1), dying := d.dying.filter used.contains }
    d.endOpens (fun o => match o.kind with
      | .destroy f n => (span f n).all fun i => !has d.descs i
      | _ => false) 0 0

/-! ### The end of a run (05 R168, R561) -/

/-- How a run ends. -/
inductive Ending where
  | ended
  | stopped (mode : Nat)
  | aborted
  | fault (ev : Nat)
deriving DecidableEq, Repr

def Ending.status : Ending → Nat
  | .fault _ => 1
  | _ => 0

def Ending.event : Ending → Nat
  | .ended => 0xE014
  | .stopped _ => 0xE016
  | .aborted => 0xE013
  | .fault _ => 0xF002

/-- The event that the end of the run raises: none for ABORT, whose event was raised at the instruction. -/
def Dev.note (d : Dev) (n : Nat) : Ending → Dev
  | .ended => d.ev 0xE014 (d.ctx n).die (some n) [(d.ctx n).step]
  | .stopped m => d.ev 0xE016 (d.ctx n).die (some n) [(d.ctx n).step, m]
  | .aborted => d
  | .fault e => d.ev 0xF002 (d.ctx n).die (some n) [e, (d.ctx n).step]

/-- Unbinds the streams of a context; commands that were still next leave their queues. -/
def Dev.unbind (d : Dev) (n : Nat) : Dev :=
  let f := fun (s : StreamSt) => if s.ctx = some n then { s with ctx := none, nxt := none, wait := none } else s
  let mine := d.actIn n
  { d with
    gmes := dropQ mine d.gmes
    presses := dropQ mine d.presses
    cores := d.cores.map fun e => (e.1, { e.2 with sf := f e.2.sf, sb := f e.2.sb, su := f e.2.su }) }

/-- The last context left RUNNING and STOPPING: Idle, VCORE 0.650 V (18 R533). While no Cutter is
active VCORE keeps its set point (02 R68; 14 R430). -/
def Dev.idleIfLast (d : Dev) : Dev :=
  if !d.liveCtxs.isEmpty then d
  else
    let d := { d with pace := { d.pace with vcore := if d.vcoreHeld then d.pace.vcore else 650, saturated := false } }
    if d.bare then d else d.evFw 0x6001 none [0, 1, 1]

/-- Ends the run of a context: summaries, the event of the end, release of handles, LOADED, completions. -/
def Dev.finishRun (d : Dev) (n : Nat) (how : Ending) (opc : Nat) : Dev :=
  let d := ((d.summaries n).note n how)
  let d := (d.endHandles n).unbind n
  let d := d.setSt n .loaded opc
  let c := d.ctx n
  let d := d.setCtx n { c with stop := none, stopFault := none, runCmd := none, stopCmds := [], hold := none, rhold := none,
                               pauseWanted := none, poisonSeen := false }
  let d := d.idleIfLast
  let d := match c.runCmd with
    | some k => d.complete k how.status how.event 0 (BitVec.ofNat 64 (limN 32 c.step * 2 ^ 32))
    | none => d
  c.stopCmds.foldl (fun d k => d.complete k 0 0) d

/-- The end of a run, after which the banks of its handles have no power unless others keep them (06 R187). -/
def Box.finishRun (b : Box) (n : Nat) (how : Ending) (opc : Nat) : Box :=
  let hs := b.dev.validHandles fun _ _ h => h.ctx == n
  (b.onD fun d => d.finishRun n how opc).losePower hs

/-- Stops a context at once: its collectives fail, its work in flight is discarded, and the run ends (05 R174). -/
def Box.stopNow (b : Box) (n : Nat) (how : Ending) (opc : Nat := 0) : Box :=
  if !(b.dev.ctx n).live then b
  else
    let b := b.onD fun d => d.setSt n .stopping opc
    let b := b.failColls n 6
    (((b.onD fun d => d.discard n).finishRun n how opc).onD Dev.settleDying).tryRetire

/-- A fault stops a context at once (05 R561). -/
def Box.faultStop (b : Box) (n ev : Nat) : Box := b.stopNow n (.fault ev)

/-- A stop at the next step boundary; at once when the image has no STEP_END Knot (05 R174). `fault` names the event
of a stop on a fault (02 R73; 15 R447). -/
def Box.stopAtBoundary (b : Box) (n : Nat) (fault : Option Nat) (opc : Nat := 0) : Box :=
  let c := b.dev.ctx n
  if !c.live then b
  else if c.stepEnd.isNone then b.stopNow n (fault.elim (.stopped 1) .fault) opc
  else
    let b := b.onD fun d => d.updCtx n fun c =>
      { c with stop := if c.stop.isSome then c.stop else some 0
               stopFault := if c.stopFault.isSome then c.stopFault else fault }
    b.onD fun d => d.setSt n .stopping opc

/-! ### Poison (15 R438 to R441) -/

/-- A work-losing fault (15 R471). -/
def Dev.damage (d : Dev) : Dev := { d with health := { d.health with faults := d.health.faults + 1 } }

/-- Roots that pass in the boot after a containment reset (log 9). -/
def Dev.rootEnv (d : Dev) : BootEnv :=
  let t := (Config.rootTest (d.fw.bootCount + 1)).toNat
  { rootOk := BitVec.ofNat 4 t, identityOk := BitVec.ofNat 4 (t / 16) }

/-- Poisoned data reaches observation point `point`, consumed by a context on `eng`. -/
def Box.observe (b : Box) (ctx point die : Nat) (eng : Int) (addr : Nat) : Box :=
  let c := b.dev.ctx ctx
  if !c.live || c.poisonSeen then b
  else if b.dev.containReset then
    let b := b.onD fun d =>
      let d := (d.ev 0xF003 die (some ctx) [point, addr]).damage.mbDrainAll
      ({ d with yoke := { d.yoke with mode := 0 } }).setDevirq 0
    b.flushMsgs.onD fun d => d.warmReset d.rootEnv
  else
    let b := b.onD fun d =>
      ((d.ev 0xF001 die (some ctx) [point, eng, addr]).damage).updCtx ctx fun c => { c with poisonSeen := true }
    b.faultStop ctx 0xF001

/-- Observations one after another. -/
def Box.observeIf (b : Box) (bad : Bool) (ctx point die : Nat) (eng : Int) (addr : Nat) : Box :=
  if bad then b.observe ctx point die eng addr else b

end Sys2Proof.Machine
end

