-- ==== Sys2Proof/Machine/Steps.lean ====
section
/-! DEFINITION. What the completion of a Knot does: slip points, step boundaries, take points, holds, rotations, and the
clusters that become due (02 R58 to R73; 05 R166, R174; 09 R286, R295; 10 R314 to R316; 11 R337; 15 R444 to R447, R453,
R468). -/

namespace Sys2Proof.Machine

/-! ### Clusters due for retirement (15 R444, R445, R447) -/

/-- No spare is left for a due cluster: it leaves service, the contexts that use it stop, event 0x7007. -/
def Box.noSpare (b : Box) (r : RetireDue) : Box :=
  let users := b.dev.usersOf r.bolt r.k
  let phys := (b.dev.bolt r.bolt).phys r.k
  let b := b.onD fun d =>
    let d := { d with
      retireDue := d.retireDue.filter fun x => !(x.bolt == r.bolt && x.k == r.k)
      health := { d.health with retired := d.health.retired ++ [18 * r.bolt + phys]
                                advice := d.health.advice ||| 32 } }
    let d := d.updBolt r.bolt fun x => { x with out := x.out ++ [r.k] }
    let d := d.evFw 0x7007 none (([r.bolt, r.k, phys, r.trigger] ++ users.take 4).map fun (n : Nat) => (n : Int))
    let d := users.foldl (fun d _ => d.damage) d
    let all := d.health.advice.toNat
    if bitOf b.dev.health.advice 5 then d.refreshAdvice else (d.evFw 0x700D none [all, 5]).refreshAdvice
  users.foldl (fun b n => b.stopAtBoundary n (some 0x7007)) b

/-- Due clusters without a candidate spare. -/
def Box.settleDue (b : Box) : Box :=
  (b.dev.retireDue.filter fun r => r.spare.isNone && (b.dev.candidate r).isNone).foldl Box.noSpare b

/-- A logical cluster becomes due: trigger 0 resolved strikes, 1 unresolved strikes, 2 corrected-error thresholds,
3 uncorrectable lines, 4 suite, 5 TEST_RUN (log 19). -/
def Box.due (b : Box) (bolt k trigger : Nat) : Box :=
  if (b.dev.bolt bolt).out.contains k || b.dev.retireDue.any (fun x => x.bolt == bolt && x.k == k) then b
  else (b.onD fun d => { d with retireDue := d.retireDue ++ [⟨bolt, k, trigger, none⟩] }).settleDue

/-- Strikes of a core within the window. -/
def Dev.strikesIn (d : Dev) (core : Nat) (unresolved : Bool) : Nat :=
  ((d.core core).strikes.filter fun s => s.unresolved == unresolved && d.now < s.tape + d.shadow.window * 3600000000000).length

/-- The strike limits of 15 R444 on the cluster of a core. -/
def Box.checkStrikes (b : Box) (core : Nat) : Box :=
  if b.dev.shadow.strikeLimit ≤ b.dev.strikesIn core false then b.due (boltOf core) (core / 16 % 16) 0
  else if b.dev.shadow.unresLimit ≤ b.dev.strikesIn core true then b.due (boltOf core) (core / 16 % 16) 1
  else b

/-- Records a strike against a logical core and applies the limits. -/
def Box.strike (b : Box) (core : Nat) (unresolved : Bool) : Box :=
  (b.onD fun d => d.updCore core fun c => { c with strikes := c.strikes ++ [⟨d.now, unresolved⟩] }).checkStrikes core

/-! ### Slip (02 R71, R73) -/

/-- The slip computation of a slip point with absorb allowance `a` ns. -/
def Box.slipPoint (b : Box) (n k a : Nat) : Box :=
  let c := b.dev.ctx n
  let i := ceilTo 4 c.inc
  let new := c.slip + i - a
  let b := b.onD fun d =>
    let d := d.updCtx n fun c => { c with slip := new, inc := 0 }
    if new = c.slip then d else d.ev 0x9002 (dieKnot k) (some n) [k, i, a, new]
  let limit := (c.img.map (·.slipLimit)).getD 0 * 4
  if limit < new ∧ c.stopFault ≠ some 0x9004 then
    (b.onD fun d => d.ev 0x9004 (dieKnot k) (some n) [new, limit]).stopAtBoundary n (some 0x9004)
  else b

/-! ### Sequence slots (10 R314 to R316) -/

def SeqAssignment.lens (s : SeqSt) (a : SeqAssignment) : List Nat := (span a.first a.count).map fun q => (getD s.slots q ⟨0, 0, 0⟩).len

/-- Writes a shape-word slot with STEP and VALID (10 R311). -/
def Ctx.writeShape (c : Ctx) (slot v : Nat) : Ctx :=
  let x : Shape :=
    { value := BitVec.ofNat 32 v, step := BitVec.ofNat 16 c.step, valid := true, poison := false, clamped := false }
  { c with shapes := put c.shapes slot x }

def Dev.writeShape (d : Dev) (n slot v : Nat) : Dev := d.updCtx n fun c => c.writeShape slot v

/-- A mirror that may be written: a native UI32 descriptor of RANK 1, dense, writable, long enough (10 R316, R318). -/
def mirrorOk (t : Desc) (count : Nat) : Bool :=
  dFmt t == 0x11 && dRank t == 1 && dDense t && dWrite t && count ≤ dSize t 0

/-- The mirror and the shape words of one assignment. -/
def Box.publish (b : Box) (a : SeqAssignment) : Box :=
  let lens := a.lens b.dev.seq
  let b := match a.mirror with
    | none => b
    | some m =>
      match b.dev.native m with
      | some t =>
        if mirrorOk t a.count then b.tWrite (.ofDesc t) ((List.range a.count).zip (lens.map fun v => (v, false)))
        else b.onD fun d => d.ev 0xB007 (d.ctx a.ctx).die (some a.ctx) [a.first, m]
      | none => b.onD fun d => d.ev 0xB007 (d.ctx a.ctx).die (some a.ctx) [a.first, m]
  b.onD fun d =>
    let d := match a.total with
      | some t => d.writeShape a.ctx t (sumN lens)
      | none => d
    match a.base with
    | some s => ((List.range a.count).zip lens).foldl (fun d x => d.writeShape a.ctx (s + x.1) x.2) d
    | none => d

/-- Takes the oldest stage, if there is one, and publishes every assignment of the context, at a step boundary and when SCHED_RUN
is accepted. At a boundary an empty queue raises event 0xB006. -/
def Box.takeStage (b : Box) (n : Nat) (boundary : Bool) : Box :=
  let c := b.dev.ctx n
  let assigns := b.dev.seq.assigns.filter (·.ctx == n)
  let b := match c.stages with
    | [] => if boundary then b.onD fun d => d.ev 0xB006 c.die (some n) [c.step] else b
    | st :: rest => b.onD fun d =>
        let d := d.updCtx n fun c => { c with stages := rest }
        { d with seq := { d.seq with slots := st.foldl (fun t e => put t e.slot ⟨e.len, c.step, e.tag⟩) d.seq.slots } }
  assigns.foldl Box.publish b

/-! ### Take points (15 R453) -/

def rangeGranules (r : Nat × Nat) : List Nat := span (r.1 / granule) r.2

/-- Puts a pending Baste's protection in force: event 0xC800, BASTE_TAKE completes. -/
def Dev.protectBaste (d : Dev) (id : Nat) : Dev :=
  let x := d.baste id
  let gs := x.ranges.flatMap rangeGranules
  let x := { x with st := if x.auto.isSome then 3 else 2, step := (d.ctx x.ctx).step, tape := d.now, prot := gs, delay := d.freeDelay 0x453 10000
                    dest := x.auto, drainStart := d.now, done := [], poison := [], drained := 0, phase := 0, cur := none, dataOff := 0 }
  let d := d.setBaste id x
  let d := d.evFw 0xC800 (some x.ctx) [id, x.step, gs.length, x.delay]
  d.endOpens (fun o => match o.kind with | .baste i => i == id && o.cmd.opc == 0x0701 | _ => false) 0 0

/-! ### Rotation (15 R468) -/

/-- STANDBY Cutters in rank order: ascending from the Cutter after the active one, with wrap (15 R464). -/
def Dev.standbys (d : Dev) : List Nat :=
  ((List.range 3).map fun r => (d.cutterNo + 1 + r) % 4).filter fun s => getD d.cutter.st s 2 == 1

/-- The lowest-numbered RUNNING context (15 R468). -/
def Dev.lowestRunning (d : Dev) : Option Nat := d.runningCtxs.head?

/-- A standby becomes ACTIVE: its image is the active Pattern image, which Thimble measures (16 R491, R493). -/
def Dev.becomeActive (d : Dev) (s : Nat) : Dev :=
  let img := getD d.fw.cutImg s .none
  { d with
    cutter := { d.cutter with st := put d.cutter.st s 0, active := some s, lastActive := s, lastHb := d.now, claim := none }
    fw := { d.fw with pattern := img, mPattern := img.meas } }

/-- The image that a Pattern update wants on every Cutter: the new one, or after a failure the old one. -/
def Update.target (u : Update) : FwImg := if u.fail.isSome then u.old else u.new

/-- Thimble restarts a Cutter with an image: it is OUT until its self-test ends (15 R466). -/
def Dev.restartCutter (d : Dev) (s : Nat) (img : FwImg) : Dev :=
  { d with
    cutter := { d.cutter with st := put d.cutter.st s 2 }
    fw := { d.fw with cutImg := put d.fw.cutImg s img } }

/-- The next step of a Pattern update: it waits for a Cutter that restarts with the wanted image; else it restarts the next
standby in rank order that lacks it, or, once the rank-1 standby has it and the active Cutter lacks it, asks for the
rotation (16 R491, R493). -/
def Dev.updateStep (d : Dev) : Dev :=
  match d.fw.upd with
  | none => d
  | some u =>
    let img := fun s => getD d.fw.cutImg s .none
    if u.thimble || (List.range 4).any (fun s => getD d.cutter.st s 3 == 2 && img s == u.target) then d
    else if d.fw.pattern = u.target then (d.standbys.find? fun s => img s != u.target).elim d fun s => d.restartCutter s u.target
    else match d.standbys with
      | [] => d
      | s :: _ =>
        if img s = u.target then { d with cutter := { d.cutter with rotDue := some 0 } } else d.restartCutter s u.target

/-- The rank-1 standby takes the baton and the old active Cutter becomes the last standby; event 0x7004 with the reason:
0 command, 1 period. Without a standby nothing changes. -/
def Dev.rotate (d : Dev) (reason : Nat) : Dev :=
  match d.cutter.active, d.standbys with
  | some a, s :: _ =>
    let d := { d with cutter := { d.cutter with st := put d.cutter.st a 1, lastRot := d.now, rotDue := none } }
    ((d.becomeActive s).evFw 0x7004 none [a, s, reason]).updateStep
  | _, _ => d

/-! ### The step boundary (05 R166) -/

/-- P1 and P2 after a step boundary, for a slot of non-zero KIND (09 R286). -/
def OSlot.step (o : OSlot) : OSlot :=
  if fld o.e 0 8 = 0 then o
  else { o with p1 := B32.mul o.p1 (BitVec.ofNat 32 (fld o.e 64 32)), p2 := B32.mul o.p2 (BitVec.ofNat 32 (fld o.e 96 32)) }

/-- A slot entry placed while RUNNING: RESET_P reloads P1 and P2 (09 R292). -/
def OSlot.place (o : OSlot) (e : BitVec 512) (reset : Bool) : OSlot :=
  if reset then ⟨e, BitVec.ofNat 32 (fld e 288 32), BitVec.ofNat 32 (fld e 320 32)⟩ else { o with e := e }

/-- A Chalk configuration payload on the layers it names (08 R264, R265). -/
def Ctx.chalkApply (c : Ctx) (p : BitVec 384) : Ctx :=
  { c with chalk := (span (fld p 16 16) (fld p 32 16)).foldl (fun t l => upd t l .init fun x =>
      { x with al := fld p 48 4, fb := bitOf p 56, missLimit := BitVec.ofNat 32 (fld p 64 32)
               eps := BitVec.ofNat 32 (fld p 96 32), minSample := fld p 128 32 }) c.chalk }

/-- P1 and P2, then the configuration that waits for the boundary (09 R286, R295; 08 R265). -/
def Ctx.stepConfig (c : Ctx) : Ctx :=
  let slots := c.slots.map fun e => (e.1, e.2.step)
  let slots := c.slotPend.foldl (fun t e => upd t e.1 ⟨0, 0, 0⟩ fun o => o.place e.2 (bitOf e.2 12)) slots
  let progs := c.progPend.foldl (fun t e => put t e.1 e.2) c.progs
  let c := { c with slots := slots, slotPend := [], progs := progs, progPend := [] }
  { (c.chalkPend.foldl Ctx.chalkApply c) with chalkPend := [] }

/-- A completion of the STEP_END Knot `k` of context `n`, whose completed generation is `g`. -/
def Box.boundary (b : Box) (n k : Nat) (g : W16) : Box :=
  let rotate := b.dev.lowestRunning == some n
  let running := (b.dev.ctx n).st == .running
  let b := b.onD fun d =>
    let d := (d.summaries n).updCtx n fun c =>
      { c with step := c.step + 1, stepTapes := lastN 16 (c.stepTapes ++ [d.now]) }
    d.updCtx n Ctx.stepConfig
  let b := b.takeStage n true
  let b := b.onD fun d =>
    let pend := if running then (d.bastes.filter fun e => e.2.st == 1 && e.2.ctx == n).map (·.1) else []
    let d := pend.foldl Dev.protectBaste d
    let c := d.ctx n
    let d := if c.stepLimit ≠ 0 ∧ c.stepLimit ≤ c.step ∧ c.stop.isNone then
      (d.updCtx n fun c => { c with stop := some 0 }).setSt n .stopping 0 else d
    if (d.ctx n).stop = some 0 then d.updCtx n fun c => { c with stop := some 2 }
    else if (d.ctx n).stop.isNone && d.holdNow n then
      d.updCtx n fun c => { c with rhold := some { knot := k, gen := g, since := d.now, spool := 0 } }
    else d
  let b := b.tryRetire
  if rotate then b.onD fun d => (d.cutter.rotDue).elim d d.rotate else b

/-! ### Knots (02 R58 to R60) -/

/-- A collective of the context is in progress (11 R337). -/
def Dev.collActive (d : Dev) (n : Nat) : Bool := d.fab.insts.any (·.ctx == n)

/-- The hold of an ordered pause at a barrier completion (11 R337). -/
def Dev.pauseHold (d : Dev) (n k : Nat) (g : W16) : Dev :=
  match (d.ctx n).pauseWanted with
  | some m =>
    if d.collActive n || (d.ctx n).stop == some 2 || (d.ctx n).st == .loaded then d
    else
      let d := d.updCtx n fun c => { c with pauseWanted := none, hold := some ⟨k, g, d.now, m⟩ }
      d.ev 0x400C (dieKnot k) (some n) [k, m]
  | none => d

/-- One completion of a barrier Knot of a live context: slip point, then the step boundary, then the pause. The launched actions
of a context whose stop took effect may complete its STEP_END Knot again, which is a step boundary as well (05 R166, R558).
DESIGN CHOICE (log 62): a slip limit that is exceeded at the slip point of a STEP_END completion stops the schedule at that same
completion; 05 R174 lets this one or the next one serve. -/
def Box.barrier (b : Box) (n k : Nat) (g : W16) : Box :=
  let c := b.dev.ctx n
  if !c.live then b
  else
    let a := ((c.knotDecl k).map (·.absorb)).getD 0 * 4
    let b := b.slipPoint n k a
    let b := if c.stepEnd = some k ∧ (b.dev.ctx n).live then b.boundary n k g else b
    b.onD fun d => d.pauseHold n k g

/-- Completions of a barrier Knot one after another, while it is held by the same run. -/
def Box.barriers (b : Box) (n k : Nat) : Nat → Box
  | 0 => b
  | m + 1 =>
    match get? b.dev.knots k with
    | none => b
    | some x =>
      let y := { x with count := x.count - x.target, gen := x.gen + 1 }
      let b := b.onD fun d => { d with knots := put d.knots k y }
      (b.barrier n k x.gen).barriers n k m

/-- Applies an arrival to a held Knot (02 R58). -/
def Box.arrive (b : Box) (k amount : Nat) : Box :=
  match get? b.dev.knots k with
  | none => b
  | some x =>
    let sum := x.count + amount
    let n := if x.target = 0 then 0 else sum / x.target
    if x.barrier then
      (b.onD fun d => { d with knots := put d.knots k ({ x with count := sum }) }).barriers x.owner k n
    else
      let y := { x with count := sum - n * x.target, gen := x.gen + BitVec.ofNat 16 n }
      b.onD fun d => { d with knots := put d.knots k y }

/-- GEN as the waiters of a Knot see it: while they are held, the generation that completed at the hold point. -/
def Dev.genSeen (d : Dev) (k : Nat) : W16 :=
  match get? d.knots k with
  | none => 0
  | some x =>
    let c := d.ctx x.owner
    match c.hold, c.rhold with
    | some h, _ => if h.knot = k then h.gen else (c.rhold.elim x.gen fun r => if r.knot = k then r.gen else x.gen)
    | none, some r => if r.knot = k then r.gen else x.gen
    | none, none => x.gen

/-- A wait on generation `g` is released (05 R161). -/
def Dev.released (d : Dev) (k : Nat) (g : W16) : Bool :=
  let x := (d.genSeen k - g).toNat
  1 ≤ x && x ≤ 32767

end Sys2Proof.Machine
end

