-- ==== Sys2Proof/Machine/Operands.lean ====
section
/-! DEFINITION. Operand forms of the core instructions: scalars private and shared, the second operand, the operand of a
Knot operation, loop counters, count fields of records and shape words (05 R146, R150, R156, R158, R159), and when an
instruction is presented to its stream (05 R163, R174). -/

namespace Sys2Proof.Machine

/-! ### Scalars (05 R146) -/

/-- s0 to s23 are the stream's own, s24 to s31 the core's. -/
def Core.sreg (c : Core) (st : Str) (n : Nat) : W32 := if n < 24 then getD (c.stream st).s n 0 else getD c.shared n 0

/-- The streams' order of writes in one update step: B, F, U (05 R147). -/
def strRank : Str → Nat
  | .B => 0
  | .F => 1
  | .U => 2

/-- An access of a stream to the core's shared scalars reaches an update step (00 R562): with `same` the one that the last
access of another stream reached, else the next one. A stream's second access always reaches the next one, since a stream
sees its own writes in program order. -/
def Core.reach (c : Core) (st : Str) (same : Bool) : Core :=
  if same && !c.cyc.streams.contains st then { c with cyc := { c.cyc with streams := c.cyc.streams ++ [st] } }
  else { c with cyc := ⟨c.cyc.no + 1, [st], [], []⟩ }

/-- What an instruction reads: a shared scalar as it stood before the writes of the present update step (05 R147). -/
def Core.seen (c : Core) (st : Str) (n : Nat) : W32 :=
  if n < 24 then c.sreg st n else (get? c.cyc.before n).getD (c.sreg st n)

/-- A write to a shared scalar in the present update step: a write of a later stream in the order B, F, U stands. -/
def Core.putShared (c : Core) (st : Str) (n : Nat) (v : W32) : Core :=
  let y := { c.cyc with before := if has c.cyc.before n then c.cyc.before else put c.cyc.before n (getD c.shared n 0) }
  if (get? c.cyc.rank n).any (strRank st < ·) then { c with cyc := y }
  else { c with shared := put c.shared n v, cyc := { y with rank := put y.rank n (strRank st) } }

def Core.setSreg (c : Core) (st : Str) (n : Nat) (v : W32) : Core :=
  if n < 24 then c.setStream st { c.stream st with s := put (c.stream st).s n v } else c.putShared st n v

def Dev.reach (d : Dev) (cs : CS) (same : Bool) : Dev := d.updCore cs.core fun c => c.reach cs.st same
def Dev.seen (d : Dev) (cs : CS) (n : Nat) : W32 := (d.core cs.core).seen cs.st n

def Dev.sreg (d : Dev) (cs : CS) (n : Nat) : W32 := (d.core cs.core).sreg cs.st n
def Dev.setSreg (d : Dev) (cs : CS) (n : Nat) (v : W32) : Dev := d.updCore cs.core fun c => c.setSreg cs.st n v

def StreamSt.lcr (s : StreamSt) (n : Nat) : W32 := getD s.lc n 0
def StreamSt.setLcr (s : StreamSt) (n : Nat) (v : W32) : StreamSt := { s with lc := put s.lc n v }

/-! ### Operands (05 R150) -/

/-- The second operand of a format S instruction: IMM sign-extended with IS, else s[SB]. -/
def Dev.secondOp (d : Dev) (cs : CS) (w : W64) : W32 :=
  if Insn.is w then BitVec.ofInt 32 (Insn.simm w) else d.seen cs (Insn.sb w)

/-- The operand of a Knot operation: IMM, or s[SA] + IMM with RS. -/
def Dev.knotOperand (d : Dev) (cs : CS) (w : W64) : W32 :=
  BitVec.ofNat 32 (Insn.kimm w) + (if Insn.krs w then d.seen cs (Insn.ksa w) else 0)

/-! ### Issue (05 R152, R163, R168, R174) -/

/-- The instruction at the program counter of a bound stream. -/
def Dev.insnAt (d : Dev) (s : StreamSt) (n : Nat) : Option W64 := ((d.ctx n).block s.block).bind fun b => b.insns[s.pc]?

/-- The streams of a context issue: it is live, has not reached a stop, and the Tape has reached its run base (log 51). -/
def Dev.issuing (d : Dev) (n : Nat) : Bool :=
  let c := d.ctx n
  c.live && c.stop != some 2 && decide (c.runBase ≤ d.now)

/-- The stream may issue: its context does, it has not ended, and no earlier action is still next. -/
def Dev.mayIssue (d : Dev) (s : StreamSt) (n : Nat) : Bool := d.issuing n && !s.ended && s.nxt.isNone

/-- An instruction word of opcode `o` is what the stream presents: for a stream bound to a context, the word at its
program counter while it may issue. A stream that no context uses takes any word (log 20). -/
def Dev.presented (d : Dev) (cs : CS) (w : W64) (o : Nat) : Bool :=
  let s := d.stream cs
  Insn.opc w == o && match s.ctx with
    | none => !s.ended && s.nxt.isNone
    | some n => d.mayIssue s n && d.insnAt s n == some w

/-- What the end of a wait leaves for the action that follows: an upstream action was late, unless a hold released the
stream (02 R69). -/
def StreamSt.waited (s : StreamSt) : Nat × Nat :=
  match s.wait with
  | some w => if s.lateBy.2 = 0 then (if w.knot then 5 else 4, 1) else s.lateBy
  | none => s.lateBy

def StreamSt.next (s : StreamSt) : StreamSt := { s with pc := s.pc + 1, wait := none, lateBy := s.waited }
def StreamSt.jump (s : StreamSt) (i : Int) : StreamSt :=
  { s with pc := ((s.pc : Int) + i).toNat, wait := none, lateBy := s.waited }

/-- The stream moves to the next instruction. -/
def Dev.advance (d : Dev) (cs : CS) : Dev := d.updStream cs StreamSt.next

/-- A non-action instruction of opcode `o`: nothing when it is not presented, only the move to the next instruction when
its guard fails, else its effect `f`. -/
def Dev.issue (d : Dev) (cs : CS) (w : W64) (o : Nat) (f : Dev → Dev) : Dev :=
  if d.presented cs w o then (if (d.stream cs).guard w then f d else d.advance cs) else d

/-- The stream waits on a Knot or a shape word, from now on when it did not wait on it already: a wait on another item is a
wait of its own (05 R167). -/
def Dev.waitOn (d : Dev) (cs : CS) (knot : Bool) (item : Nat) : Dev :=
  d.updStream cs fun s => { s with wait :=
    if (s.wait.any fun x => x.knot == knot && x.item == item) = true then s.wait else some ⟨d.now, knot, item, false⟩ }

/-- An instruction that accesses scalars: its access reaches an update step of the core's shared scalars. -/
def Dev.issueS (d : Dev) (cs : CS) (w : W64) (same : Bool) (o : Nat) (f : Dev → Dev) : Dev :=
  d.issue cs w o fun d => f (d.reach cs same)

/-- s[SD] ← s[SA] op second operand. -/
def Dev.alu (d : Dev) (cs : CS) (w : W64) (same : Bool) (o : Nat) (f : W32 → W32 → W32) : Dev :=
  d.issueS cs w same o fun d => (d.setSreg cs (Insn.sd w) (f (d.seen cs (Insn.sa w)) (d.secondOp cs w))).advance cs

/-- s[SD] ← v. -/
def Dev.load (d : Dev) (cs : CS) (w : W64) (same : Bool) (o : Nat) (v : Dev → W32) : Dev :=
  d.issueS cs w same o fun d => (d.setSreg cs (Insn.sd w) (v d)).advance cs

/-- p[SD[2:0]] ← s[SA] cond second operand. -/
def Dev.compare (d : Dev) (cs : CS) (w : W64) (same : Bool) (o : Nat) (f : W32 → W32 → Bool) : Dev :=
  d.issueS cs w same o fun d =>
    (d.updStream cs fun s => s.setPred (Insn.sd w % 8) (f (d.seen cs (Insn.sa w)) (d.secondOp cs w))).advance cs

/-- p[SD[2:0]] from predicates SA[2:0] and SB[2:0]. -/
def Dev.predOp (d : Dev) (cs : CS) (w : W64) (o : Nat) (f : Bool → Bool → Bool) : Dev :=
  d.issue cs w o fun d => (d.updStream cs fun s =>
    s.setPred (Insn.sd w % 8) (f (s.pred (Insn.sa w % 8)) (s.pred (Insn.sb w % 8)))).advance cs

/-! ### Shape words (05 R158) -/

def Ctx.shape (c : Ctx) (slot : Nat) : Shape := getD c.shapes slot ⟨0, 0, false, false, false⟩

/-- The slot was written in the present training step. -/
def Ctx.shapeReady (c : Ctx) (slot : Nat) : Bool :=
  (c.shape slot).valid && (c.shape slot).step == BitVec.ofNat 16 c.step

/-- The declared maximum of a slot. -/
def Ctx.shapeMax (c : Ctx) (slot : Nat) : Option Nat := c.img.bind fun i => (i.shapes.find? (·.1 == slot)).map (·.2)

/-- The value that a reader of a ready slot gets: clamped to the declared maximum; 0 when the slot is poisoned. -/
def Ctx.shapeValue (c : Ctx) (slot : Nat) : W32 :=
  let v := (c.shape slot).value
  if (c.shape slot).poison then 0
  else match c.shapeMax slot with
    | some m => if m < v.toNat then BitVec.ofNat 32 m else v
    | none => v

/-- What a read of a ready slot leaves: event 0xE011 at the first read that clamps a write, and the observation of
poison. -/
def Box.touchShape (b : Box) (n slot die : Nat) (eng : Int) : Box :=
  let c := b.dev.ctx n
  let x := c.shape slot
  if x.poison then b.observe n 3 die eng slot
  else match c.shapeMax slot with
    | none => b
    | some m =>
      if m < x.value.toNat ∧ !x.clamped then
        b.onD fun d => (d.updCtx n fun c => { c with shapes := put c.shapes slot { x with clamped := true } }).ev 0xE011 die
          (some n) [slot, x.value.toNat, m]
      else b

end Sys2Proof.Machine
end

