-- ==== Sys2Proof/Machine/HandleIO.lean ====
section
/-! DEFINITION. Reading and writing buffers through handles, writes of engines to device memory, and the remote requests
of level-4 backings (06 R177, R185, R189, R190; 12 R374, R375; 15 R438), and the frame of every engine's work on a launched
action. -/

namespace Sys2Proof.Machine

/-! ### Fields of a launched action's record (05 R155) -/

/-- `n` bytes of a record from byte `o`. -/
def recN (r : BitVec 256) (o n : Nat) : Nat := fld r (8 * o) (8 * n)

/-- The engine's identity for records and its die: a core (17 R505). -/
def Dev.eng (d : Dev) (cs : CS) : Int := d.coreSlot cs.core

/-! ### Writes of an engine to device memory (15 R438) -/

/-- Bytes cut at multiples of 64: address and bytes of each piece. -/
def lineCuts (a : Nat) (l : List PB) : List (Nat × List PB) :=
  (linesOf a l.length).map fun ln =>
    let lo := max a (ln * 64)
    (lo, (l.drop (lo - a)).take (ln * 64 + 64 - lo))

/-- Poisoned lines that go to companion memory are written as 0. -/
def scrubCompanion (a : Nat) (l : List PB) : List PB :=
  if inCompanion a l.length then
    (lineCuts a l).flatMap fun c => if anyBad c.2 then c.2.map (fun _ => (0, false)) else c.2
  else l

/-- An engine's write for a context: a poisoned line that reaches companion memory is an observation point. -/
def Box.engWrite (b : Box) (ctx die : Nat) (eng : Int) (a : Nat) (l : List PB) : Box :=
  (b.wrDev a (scrubCompanion a l)).observeIf (inCompanion a l.length && anyBad l) ctx 5 die eng a

/-- Collected bytes, written by an engine run by run. -/
def Box.engOverlay (b : Box) (ctx die : Nat) (eng : Int) (o : Overlay) : Box :=
  (runsOf o).foldl (fun b r => b.engWrite ctx die eng r.1 r.2) b

/-- Elements of a tensor, written by an engine: linear index, code, poison. -/
def Box.engPut (b : Box) (ctx die : Nat) (eng : Int) (t : Tens) (els : List (Nat × Nat × Bool)) : Box :=
  b.engOverlay ctx die eng (b.tOverlay t els)

/-! ### Remote requests (12 R374, R375) -/

def Dev.outstanding (d : Dev) (kind : Nat) : Nat := (d.fab.remote.filter (·.kind == kind)).length

/-- The lowest free tag of a kind; writes of engines and of Baste drains share their tags. -/
def Dev.freeTag (d : Dev) (kind : Nat) : Option Nat :=
  (List.range 512).find? fun t =>
    !d.fab.remote.any fun r => (r.kind == kind || (kind == 1 && r.kind == 3)) && r.tag == t

/-- Requests of a Baste's drain carry 16 + its ID in place of a context. -/
def RemoteReq.ofDrain (r : RemoteReq) (id : Nat) : Bool := r.kind == 3 && r.ctx == 16 + id

/-- A drain stops: the Baste is PROTECTED again with the granules that are not drained, event 0xC802 names the granule by
its index in the image, all ones for the tables (15 R460). -/
def Dev.failDrain (d : Dev) (id status : Nat) : Dev :=
  let x := d.baste id
  if x.st ≠ 3 then d
  else
    let i := if x.phase = 0 then x.done.length else 0xFFFFFFFF
    let d := d.setBaste id { x with st := 2, auto := none, dest := none, phase := 0, cur := none, done := [], poison := [] }
    let d := { d with fab := { d.fab with
      remote := d.fab.remote.filter fun r => !r.ofDrain id, waitWr := d.fab.waitWr.filter fun r => !r.ofDrain id } }
    let d := d.evFw 0xC802 none [id, i, status]
    d.endOpens (fun o => match o.kind with | .baste j => j == id && o.cmd.opc == 0x0702 | _ => false) 1 0xC802

/-- A failed remote write or read: event 0x500E, and its context stops at once; a failed write of a drain ends the drain. -/
def Box.remoteFailed (b : Box) (r : RemoteReq) (status : Nat) : Box :=
  if r.kind = 3 then b.onD fun d => d.failDrain (r.ctx - 16) status else
  let m := b.dev.remoteOf r.addr r.len
  let target := m.elim r.addr fun m => m.target + (r.addr - m.base)
  (b.onD fun d => d.ev 0x500E (dieSelvage 0) (some r.ctx) [r.dev, target, status]).faultStop r.ctx 0x500E

/-- The packet of a remote request; a write carries the lines as they stand. -/
def Box.remotePacket (b : Box) (r : RemoteReq) : Packet :=
  let m := b.dev.remoteOf r.addr r.len
  let target := m.elim r.addr fun m => m.target + (r.addr - m.base)
  let flow := r.act.elim 0 fun a => (a.cs.core : Nat) % 256
  if r.kind = 0 then
    mkPacket r.dev b.dev.myId 1 0 flow (packFields [(limN 52 target, 0), (limN 3 (r.len / 64), 52), (limN 9 r.tag, 55)]) 0 []
  else
    let ls := (List.range (r.len / 64)).map fun i => b.store.rdMem (r.addr + 64 * i) 64
    mkPacket r.dev b.dev.myId 3 0 flow (packFields [(limN 52 target, 0), (limN 9 r.tag, 52)])
      (packFields ((ls.zip (List.range 6)).map fun x => (boolN (anyBad x.1), x.2))) (ls.map fun l => lineOf (bytesOf l))

/-- Sends one request with a tag; an unreachable one has status 3. -/
def Box.sendRemote (b : Box) (r : RemoteReq) (tag : Nat) : Box :=
  let r := { r with tag := tag }
  let x := b.dev.sendRouted (b.remotePacket r)
  if x.2 then b.withDev { x.1 with fab := { x.1.fab with remote := x.1.fab.remote ++ [r] } }
  else (b.withDev x.1).remoteFailed r 3

/-- Lines that a core's spill port has requested and not received. -/
def Dev.portLines (d : Dev) (core : Nat) : Nat :=
  sumN ((d.fab.remote.filter fun r => r.port == some core).map fun r => r.len / 64)

/-- The port takes the request: at most 16 lines are outstanding (06 R190). -/
def Dev.portRoom (d : Dev) (r : RemoteReq) : Bool := r.port.all fun c => decide (d.portLines c + r.len / 64 ≤ 16)

/-- The waiting write that goes out next: the first one whose port has room, in the order of each port. -/
def Dev.nextWrite (d : Dev) : Option RemoteReq :=
  d.fab.waitWr.find? fun r => d.portRoom r && (d.fab.waitWr.takeWhile (· != r)).all fun y => y.port != r.port

/-- Sends waiting remote writes while tags are free and the ports take them; `fuel` bounds their number. -/
def Box.pumpWrites (b : Box) : Nat → Box
  | 0 => b
  | n + 1 =>
    match b.dev.nextWrite, b.dev.freeTag 1 with
    | some r, some tag =>
      ((b.onD fun d => { d with fab := { d.fab with waitWr := d.fab.waitWr.erase r } }).sendRemote r tag).pumpWrites n
    | _, _ => b

/-- Sends what waits and may go. -/
def Box.pumpAll (b : Box) : Box := b.pumpWrites b.dev.fab.waitWr.length

/-- Whole lines of a remote range go out as writes of up to six lines. -/
def Box.remoteWrite (b : Box) (ctx : Nat) (act : Option Act) (core a n : Nat) : Box :=
  (b.onD fun d => d.queueWrites ctx act core a n).pumpAll

/-! ### Handles -/

def Store.hRead (s : Store) (core : Nat) (h : Handle) (off len : Nat) : List PB :=
  if h.spilled then s.rdMem (h.backing + off) len
  else (span off len).map fun a =>
    let x := h.scr core a
    (s.scratch.byte x, s.scratchPoison.contains (x / 64))

/-- Bytes of a handle of a core; zeros when the handle is not valid. -/
def Box.hBytes (b : Box) (core h off len : Nat) : List PB :=
  match (b.dev.core core).handle h with
  | some x => b.store.hRead core x off len
  | none => clean (zeros len)

/-- Writes bytes to a handle of a core for a context. -/
def Box.hWrite (b : Box) (ctx : Nat) (act : Act) (core h off : Nat) (l : List PB) : Box :=
  match (b.dev.core core).handle h with
  | none => b
  | some x =>
    if !x.spilled then
      b.onS fun s => (lineCuts off l).foldl (fun s c => s.wrScr (x.scr core c.1) c.2) s
    else if x.level = 4 then
      (b.onS fun s => s.wrMem (x.backing + off) l).remoteWrite ctx (some act) core (x.backing + off) l.length
    else b.engWrite ctx (boltOf core) (b.dev.coreSlot core) (x.backing + off) l

/-- A handle that becomes valid gets its initial content; zeros of a level-4 backing go out as writes (06 R186). -/
def Box.fillHandle (b : Box) (ctx : Nat) (act : Option Act) (core : Nat) (h : Handle) : Box :=
  ((b.onS fun s => s.initHandle core h).onD fun d => d.queueZeros ctx act core h).pumpAll

/-! ### Elements of a handle (03 R104, R105, R563) -/

/-- Elements of a handle as the operand of an action stands there: format, offset in bytes, number; planar formats in
planes over the number. -/
def Box.hEls (b : Box) (core h f off n : Nat) : List (Nat × Bool) :=
  let l := b.hBytes core h off (storageBytes f n (fmtPlanar f))
  (List.range n).map fun i => readEl (fun k => l.getD k (0, false)) f n i (fmtPlanar f)

/-- The same as binary32 values with poison. -/
def Box.hVals (b : Box) (core h f off n : Nat) : List (W32 × Bool) := (b.hEls core h f off n).map fun e => (toB32 f e.1, e.2)

/-- Writes whole elements, codes with poison, to a handle. -/
def Box.hPutEls (b : Box) (ctx : Nat) (act : Act) (core h f off : Nat) (els : List (Nat × Bool)) : Box :=
  b.hWrite ctx act core h off (layEls f (fmtPlanar f) els)

/-! ### The work of an engine on a launched action -/

/-- A range of a handle that an action uses: core, handle, byte offset, bytes. -/
structure Rng where
  core : Nat
  h : Nat
  off : Nat
  len : Nat
deriving DecidableEq, Repr

/-- Lines of level-4 backings that an action reads. -/
def Dev.farLines (d : Dev) (l : List Rng) : List Nat :=
  l.flatMap fun r => match (d.core r.core).handle r.h with
    | some x => if x.spilled && x.level == 4 then linesOf (x.backing + r.off) r.len else []
    | none => []

/-- Requests lines for an action while tags are free and its core's spill port takes them. -/
def Box.requestLines (b : Box) (a : Act) (ctx : Nat) (lines : List Nat) : Nat → Box
  | 0 => b
  | n + 1 =>
    match b.dev.action a, b.dev.freeTag 0 with
    | some x, some tag =>
      match (lines.drop x.fetched).take 1 with
      | [] => b
      | ln :: _ =>
        let dev := ((b.dev.remoteOf (ln * 64) 64).map (·.dev)).getD 0xFFFF
        let r : RemoteReq := { kind := 0, tag := tag, dev := dev, addr := ln * 64, len := 64, act := some a, ctx := ctx
                               port := some (a.cs.core : Nat) }
        if !b.dev.portRoom r then b else
        ((b.onD fun d => d.updAction a fun x => { x with fetched := x.fetched + 1 }).sendRemote r tag).requestLines a ctx lines n
    | _, _ => b

/-- An action reads or writes companion memory: a handle of level 5, or a descriptor that reaches the companion window. -/
def Dev.usesCompanion (d : Dev) (a : Act) (x : Action) : Bool :=
  (x.reads ++ x.writes).any (fun h => ((d.core a.cs.core).handle h).any fun y => y.spilled && y.level == 5)
    || (d.reachedDescs x.desc).any fun i => match get? d.descs i with
      | some (.native t) => !dEmpty t && decide ((companionBase : Int) ≤ (dRange t).2)
      | some (.forerunner _) => d.compat.any fun e => companionBase ≤ e.2.target
      | _ => false

/-- The number of elements that an action covers is 0: it touches no tensor. -/
def Action.moves (x : Action) : Bool :=
  let o := Insn.opc x.w
  !((o == 0x5A || o == 0x5B || o == 0x60 || o == 0x69) && x.n1 == 0)

/-- A tensor of the action that lies outside the companion grants, or in one without the permission that it needs: its
first byte, and whether writing is refused. -/
def Dev.ungranted (d : Dev) (x : Action) : Option (Int × Bool) :=
  if !x.moves then none
  else (d.reachedDescs x.desc).findSome? fun i => (d.native i).bind fun t =>
    let a := (dRange t).1.toNat
    let n := ((dRange t).2 - (dRange t).1 + 1).toNat
    if dEmpty t || !inCompanion a n then none
    else if !d.granted a n false then some (a, false)
    else if dWrite t && !d.granted a n true then some (a, true) else none

/-- A handle that an action names is still being zeroed: writes of zeros to its level-4 backing are open, for an HMAP or for the
device itself (06 R186). -/
def Dev.zeroing (d : Dev) (a : Act) (x : Action) : Bool :=
  (x.reads ++ x.writes).any fun h => ((d.core a.cs.core).handle h).any fun y => y.spilled && y.level == 4 && y.zero
    && (d.fab.remote ++ d.fab.waitWr).any fun r => r.kind == 1 && decide (y.backing ≤ r.addr ∧ r.addr < y.backing + 64 * y.lines)
      && r.act.all fun z => (d.action z).any fun w => Insn.opc w.w == 0x38

/-- The engine turns to a launched action that `sel` selects and whose work is not done: first its handles
are zeroed and the lines of level-4 backings that it reads arrive; then `f` acts. While the Yoke is down an access to companion memory waits (14 R405). An
access outside the companion grants stops the context with event 0x1007 (14 R407). -/
def Box.gate (b : Box) (a : Act) (sel : Action → Bool) (reads : Dev → Action → List Rng) (f : Box → Action → Box) : Box :=
  match b.dev.action a with
  | none => b
  | some x =>
    if b.dev.zeroing a x then b.pumpAll
    else if x.done || !sel x || (b.dev.yoke.down.isSome && b.dev.usesCompanion a x) then b
    else
      let far := b.dev.farLines (reads b.dev x)
      if x.fetched < far.length then b.requestLines a x.ctx far (far.length - x.fetched)
      else if b.dev.fab.remote.any fun r => r.kind == 0 && r.act == some a then b
      else match b.dev.ungranted x with
        | some e => (b.onD fun d => d.oncePerSec 0x1007 fun d =>
            d.ev 0x1007 (boltOf a.cs.core) (some x.ctx) [e.1, boolN e.2, d.coreSlot a.cs.core]).faultStop x.ctx 0x1007
        | none => f b x

/-- The engine does the whole work of an action at once; the action then waits only for its completion. -/
def Box.work (b : Box) (a : Act) (sel : Action → Bool) (reads : Dev → Action → List Rng) (f : Box → Action → Box) : Box :=
  b.gate a sel reads fun b x => (f b x).onD fun d => d.actDone a

/-- Selection by opcode. -/
def isOp (o : Nat) (x : Action) : Bool := Insn.opc x.w == o

/-- The parameters of stochastic rounding of an action (03 R95): the image's seed, its training step, a key. -/
def Dev.rnd (d : Dev) (x : Action) (stoch : Bool) (key : Nat) : Rnd :=
  if stoch then .stoch (((d.ctx x.ctx).img.map (·.seed)).getD 0) (BitVec.ofNat 32 x.step) (BitVec.ofNat 32 key) else .even

/-- Raises arithmetic conditions of an action on its core. -/
def Dev.ariths (d : Dev) (x : Action) (core op fmt : Nat) (codes : List Nat) : Dev :=
  codes.foldl (fun d c => d.arith x.ctx c (boltOf core) (d.coreSlot core) x.index op fmt) d

end Sys2Proof.Machine
end

