-- ==== Sys2Proof/Machine/Fabric.lean ====
section
/-! DEFINITION. Packets that reach the device: the checks at their destination, forwarding, remote memory and remote Knots,
lateness notices, the choice of the Tape's reference and the loss of a device (12 R364 to R377, R394; 02 R75, R76). -/

namespace Sys2Proof.Machine

/-! ### Checks at the destination (12 R369, R373) -/

/-- Reserved bits of WORD are 0, and its fields are in their ranges, by type. -/
def wordOk (t w n : Nat) : Bool :=
  if t = 1 then n == 0 && 1 ≤ w / 2 ^ 52 % 8 && w / 2 ^ 52 % 8 ≤ 6
  else if t = 2 ∨ t = 4 ∨ t = 6 then w < 2 ^ 12 && (t == 2 || n == 0)
  else if t = 3 then w < 2 ^ 61 && 1 ≤ n
  else if t = 5 then w < 2 ^ 55 && n == 0
  else if t = 8 then 1 ≤ n
  else if t = 9 then w < 2 ^ 22 && n == 1
  else if t = 0x10 then w < 2 && n == 1
  else if t = 0x11 then w < 8 && 1 ≤ w && w ≤ 4 && n == 1
  else w < 2 ^ 48 && n == 0

/-- Why a packet is dropped at its destination (log 15): 0 type, 1 virtual channel, 2 reserved field. -/
def packetFault (k : Packet) : Option Nat :=
  match typeVc k.type with
  | none => some 0
  | some vc =>
    if k.vc ≠ vc then some 1
    else if fld k.hdr 43 5 ≠ 0 ∨ fld k.hdr 54 2 ≠ 0 ∨ 6 < k.nlines ∨ k.lines.length ≠ k.nlines ∨ (k.sr ∧ fld k.route 64 64 ≠ 0)
        ∨ !wordOk k.type k.word k.nlines then some 2
    else none

def routeHops (k : Packet) : Nat := fld k.route 0 8
def routeNext (k : Packet) : Nat := fld k.route 8 8
def routeSeam (k : Packet) (h : Nat) : Nat := fld k.route (16 + 6 * h) 6

/-- This device is named by DST, or the packet is for the partner itself. -/
def Dev.isMine (d : Dev) (k : Packet) : Bool := k.dst == 0xFFFF || (k.dst == d.myId && d.myId != 0xFFFF)

/-- The packet ends its way here. -/
def Dev.delivers (d : Dev) (k : Packet) : Bool := if k.sr then routeNext k == routeHops k && d.isMine k else d.isMine k

/-! ### Answers to this device's requests (12 R375, R376) -/

/-- The open request that an answer with a tag is for: status 3 may come from a device on the way (R364, R368). -/
def Dev.remoteReq (d : Dev) (kinds : List Nat) (tag dev status : Nat) : Option RemoteReq :=
  d.fab.remote.find? fun r => kinds.contains r.kind && r.tag == tag && (r.dev == dev || status == 3)

def Dev.dropReq (d : Dev) (r : RemoteReq) : Dev :=
  { d with fab := { d.fab with remote := d.fab.remote.filter (· != r) } }

/-- A read arrives: its lines take the place of the local copy (log 28); a failed read poisons every line. The spill port has room
for waiting writes. -/
def Box.readDone (b : Box) (r : RemoteReq) (status : Nat) (data : List PB) : Box :=
  let b := b.onD fun d => d.dropReq r
  let b := if status = 0 then b.onS fun s => s.wrMem r.addr (data.take r.len)
    else (b.onS fun s => (linesOf r.addr r.len).foldl (fun s ln => s.poisonMem ln) s).remoteFailed r status
  b.pumpAll

/-- A write is acknowledged; the next one that waits goes out. -/
def Box.writeDone (b : Box) (r : RemoteReq) (status : Nat) : Box :=
  let b := b.onD fun d => d.dropReq r
  let b := if status = 0 then b else b.remoteFailed r status
  b.pumpAll

/-- A remote Knot arrival is acknowledged: its KARR is done, or event 0x5014 stops the context. -/
def Box.knotDone (b : Box) (r : RemoteReq) (status : Nat) : Box :=
  let b := b.onD fun d => d.dropReq r
  if status = 0 then b.onD fun d => r.act.elim d d.actDone
  else (b.onD fun d => d.ev 0x5014 (dieSelvage 0) (some r.ctx) [r.dev, r.addr, status]).faultStop r.ctx 0x5014

/-- A request ends with a status, by its kind. -/
def Box.endReq (b : Box) (r : RemoteReq) (status : Nat) : Box :=
  if r.kind = 0 then b.readDone r status []
  else if r.kind = 2 then b.knotDone r status
  else b.writeDone r status

def ansTag (k : Packet) : Nat := k.word % 512
def ansStatus (k : Packet) : Nat := k.word / 512 % 8

/-! ### Answers and forwarding (12 R368, R369, R371) -/

def tagOf (k : Packet) : Nat :=
  if k.type = 1 then k.word / 2 ^ 55 else if k.type = 3 then k.word / 2 ^ 52 % 512 else k.word / 2 ^ 46 % 512

/-- The answer to a request: read response, write or Knot acknowledgement with a status. -/
def Dev.answer (d : Dev) (k : Packet) (status lpoison : Nat) (lines : List (BitVec 512)) : Dev :=
  let t := if k.type = 1 then 2 else if k.type = 3 then 4 else 6
  (d.sendRouted (mkPacket k.src d.myId t 1 k.flow (packFields [(limN 9 (tagOf k), 0), (limN 3 status, 9)]) lpoison lines)).1

/-- Kinds of open request that a packet of a type makes. -/
def requestKinds (t : Nat) : List Nat := if t = 1 then [0] else if t = 3 then [1, 3] else [2]

/-- A request that is lost or cannot be sent on: at its source it completes with status 3, else the source is answered. -/
def Box.statusThree (b : Box) (k : Packet) : Box :=
  if k.src = b.dev.myId then (b.dev.remoteReq (requestKinds k.type) (tagOf k) k.dst 3).elim b fun r => b.endReq r 3
  else b.onD fun d => d.answer k 3 0 []

/-- A packet that cannot be sent on: dropped with event 0x500F; a request gets status 3. -/
def Box.noWay (b : Box) (src : Option Nat) (k : Packet) : Box :=
  let b := b.onD fun d => d.cannotSend src k
  if typeIsRequest k.type then b.statusThree k else b

/-- Sends a transit packet on. Without a device ID or with forwarding disabled it is dropped (reason 4). -/
def Box.forward (b : Box) (src : Option Nat) (p : Nat) (k : Packet) : Box :=
  if b.dev.myId = 0xFFFF ∨ !b.dev.fab.forwarding then b.onD fun d => (d.giveBack src k).dropPacket p k 4
  else if k.sr then
    if routeNext k < routeHops k ∧ routeHops k ≤ 8 then
      let out := routeSeam k (routeNext k)
      if (b.dev.seam out).up then b.onD fun d => d.handFrom src out { k with route := k.route + BitVec.ofNat 128 256 }
      else b.noWay src k
    else b.onD fun d => (d.giveBack src k).dropPacket p k 3
  else match b.dev.routeFor k.dst k.src k.flow with
    | some out => b.onD fun d => d.handFrom src out k
    | none => b.noWay src k

/-- A packet arrives on a Seam that is up: forwarded, dropped with its reason, or handed to `f`. `src` is the Seam whose buffer
holds it. -/
def Box.onPacketIn (b : Box) (src : Option Nat) (p : Nat) (k : Packet) (f : Box → Box) : Box :=
  if !(b.dev.seam p).up then b
  else if !b.dev.delivers k then
    (if k.sr && routeNext k == routeHops k then b.onD fun d => (d.giveBack src k).dropPacket p k 3 else b.forward src p k)
  else
    let b := b.onD fun d => d.giveBack src k
    match packetFault k with
    | some r => b.onD fun d => d.dropPacket p k r
    | none => f b

def Box.onPacket (b : Box) (p : Nat) (k : Packet) (f : Box → Box) : Box := b.onPacketIn none p k f

/-- The same for a command of one packet type: another type arrives by its own command. -/
def Box.packetOf (b : Box) (t : Nat) (p : Nat) (k : Packet) (f : Box → Box) : Box :=
  if k.type = t then b.onPacket p k f else b

/-- PACKET_FORWARD: a transit packet, or one of an undefined type. -/
def execPacketForward (p : Fin 64) (k : Packet) (s : State) : Res :=
  s.on fun b => if b.dev.delivers k && (typeVc k.type).isSome then b else b.onPacket p k id

/-! ### Remote requests served here (12 R374 to R376) -/

def ExportWin.covers (w : ExportWin) (a n : Nat) : Bool := w.base ≤ a && a + n ≤ w.base + w.units * unit2M
def ExportWin.admits (w : ExportWin) (src : Nat) (write : Bool) : Bool :=
  w.lo ≤ src && src ≤ w.hi && (if write then w.wr else w.rd)

/-- Status of a request for a range: 0, 1 no export window, 2 permission. -/
def Dev.exportStatus (d : Dev) (a n src : Nat) (write : Bool) : Nat :=
  let ws := d.exports.filter fun e => e.2.covers a n
  if ws.isEmpty then 1 else if ws.any fun e => e.2.admits src write then 0 else 2

def Dev.denied (d : Dev) (p : Nat) (k : Packet) (a status : Nat) : Dev :=
  (d.ev 0x500E (dieSeam p) none [k.src, a, status]).answer k status 0 []

/-- Lines of memory with their poison bits. -/
def Store.linesAt (s : Store) (a n : Nat) : List (BitVec 512) × Nat :=
  let ls := (List.range n).map fun i => s.rdMem (a + 64 * i) 64
  (ls.map fun l => lineOf (bytesOf l), packFields ((ls.zip (List.range 6)).map fun x => (boolN (anyBad x.1), x.2)))

/-- The bytes of a packet's lines with their poison. -/
def packetBytes (k : Packet) : List PB :=
  (k.lines.zip (List.range 6)).flatMap fun x => (lineBytes x.1).map fun y => (y, k.lpoison.testBit x.2)

def Box.serveRead (b : Box) (p : Nat) (k : Packet) : Box :=
  let a := k.word % 2 ^ 52
  let n := k.word / 2 ^ 52 % 8
  let st := b.dev.exportStatus a (64 * n) k.src false
  if st ≠ 0 then b.onD fun d => d.denied p k a st
  else let l := b.store.linesAt a n; b.onD fun d => d.answer k 0 l.2 l.1

def Box.serveWrite (b : Box) (p : Nat) (k : Packet) : Box :=
  let a := k.word % 2 ^ 52
  let st := b.dev.exportStatus a (64 * k.nlines) k.src true
  if st ≠ 0 then b.onD fun d => d.denied p k a st
  else (b.wrDev a (scrubCompanion a (packetBytes k))).onD fun d => d.answer k 0 0 []

/-- A Knot held by a RUNNING context takes an arrival from a partner. -/
def Dev.knotServed (d : Dev) (k : Nat) : Bool := (get? d.knots k).any fun x => (d.ctx x.owner).st == .running

def Dev.serveKnot (d : Dev) (p : Nat) (k : Packet) : Dev :=
  let id := k.word % 2 ^ 14
  if d.knotServed id then
    { d with arrivals := d.arrivals ++ [⟨id, k.word / 2 ^ 14 % 2 ^ 32, .remote p k.src (tagOf k + 512 * k.flow)⟩] }
  else d.answer k 4 0 []

/-- A remote request in Hold starts the exit and waits for it (18 R535); it waits while its Spool is in Trip (11 R339). -/
def Box.inService (b : Box) (a n : Nat) (f : Box → Box) : Box :=
  if b.dev.power.hold && !inCompanion a 64 then b.onD fun d => d.wakeFor 2 a
  else if b.dev.tripHolds a n then b else f b

def execRdReq (p : Fin 64) (k : Packet) (s : State) : Res :=
  s.on fun b => b.packetOf 1 p k fun b => b.inService (k.word % 2 ^ 52) (64 * (k.word / 2 ^ 52 % 8)) fun b => b.serveRead p k

def execWr (p : Fin 64) (k : Packet) (s : State) : Res :=
  s.on fun b => b.packetOf 3 p k fun b => b.inService (k.word % 2 ^ 52) (64 * k.nlines) fun b => b.serveWrite p k

def execKnotArr (p : Fin 64) (k : Packet) (s : State) : Res :=
  s.on fun b => b.packetOf 5 p k fun b => b.onD fun d => d.serveKnot p k

/-! ### Answers (12 R375, R376) -/

def execRdResp (p : Fin 64) (k : Packet) (s : State) : Res :=
  s.on fun b => b.packetOf 2 p k fun b =>
    (b.dev.remoteReq [0] (ansTag k) k.src (ansStatus k)).elim b fun r => b.readDone r (ansStatus k) (packetBytes k)

def execWrAck (p : Fin 64) (k : Packet) (s : State) : Res :=
  s.on fun b => b.packetOf 4 p k fun b =>
    (b.dev.remoteReq [1, 3] (ansTag k) k.src (ansStatus k)).elim b fun r => b.endReq r (ansStatus k)

def execKnotAck (p : Fin 64) (k : Packet) (s : State) : Res :=
  s.on fun b => b.packetOf 6 p k fun b =>
    (b.dev.remoteReq [2] (ansTag k) k.src (ansStatus k)).elim b fun r => b.endReq r (ansStatus k)

/-! ### Lateness notices (02 R75, R76; 12 R394) -/

def Dev.plan (d : Dev) (i : Nat) : Option Plan := get? d.fab.plans i

/-- A collective that a lateness notice may name: plan and instance, with DS and DD. -/
structure Near where
  plan : Nat
  inst : Nat
  ds : Nat
  dd : Nat
deriving DecidableEq, Repr

/-- Collectives in progress, and the next instance of a plan that a stream is about to launch. -/
def Dev.nearColls (d : Dev) : List Near :=
  (d.fab.insts.map fun i => ⟨i.plan, i.inst, i.ds, i.dd⟩) ++ d.cores.flatMap fun e => strs.filterMap fun st =>
    let s := e.2.stream st
    match s.nxt, s.ctx with
    | some x, some n =>
      if Insn.opc x.w = 0x68 then
        (((d.ctx n).block s.block).bind fun b => b.recs[Insn.ridx x.w - 1]?).bind fun r =>
          (d.plan (fld r 16 16)).map fun p => ⟨fld r 16 16, p.launched % 64, fld r 32 16, fld r 48 16⟩
      else none
    | _, _ => none

/-- A delay on a Seam affects the collectives with a member that this device reaches over it, or that is its partner (R75). -/
def Dev.viaSeam (d : Dev) (p : Nat) (x : Near) : Bool :=
  (d.plan x.plan).any fun q => q.members.any fun m => m.1 != d.myId && ((d.seam p).partner.toNat == m.1 || (d.routeSeams m.1).contains p)

/-- A delay of channels affects the collectives whose DS or DD lies on one of them (R75). -/
def Dev.onChannels (d : Dev) (hit : Nat × Nat → Bool) (x : Near) : Bool :=
  [x.ds, x.dd].any fun i => (d.native i).any fun t =>
    !dEmpty t && (d.chansOf (dRange t).1.toNat ((dRange t).2 - (dRange t).1 + 1).toNat).any hit

/-- The entries that a member gets, four to a packet. -/
def lateEntry (plan inst cause ns : Nat) : List Byte := leBytes 2 plan ++ leBytes 1 inst ++ leBytes 1 cause ++ leBytes 4 ns

def Dev.sendLateTo (d : Dev) (dst cause ns : Nat) (l : List (Nat × Nat)) : Dev :=
  (pieces 4 l).foldl (fun d c =>
    (d.sendRouted (mkPacket dst d.myId 0x11 3 0 c.length 0
      [lineOf (padTo 64 (c.flatMap fun x => lateEntry x.1 x.2 cause ns))])).1) d

/-- A lateness notice of this device to every other member of the near collectives that a delay affects, and event 0x900C. -/
def Dev.lateNotice (d : Dev) (die cause ns : Nat) (hit : Near → Bool) : Dev :=
  let l := (d.nearColls.filter hit).map fun x => (x.plan, x.inst)
  let members := (l.flatMap fun x => (d.plan x.1).elim [] fun p => p.members.map (·.1)).eraseDups.filter (· != d.myId)
  let d := members.foldl (fun d m =>
    d.sendLateTo m cause ns (l.filter fun x => (d.plan x.1).any fun p => p.members.any (·.1 == m))) d
  let ids := (l.take 4).map fun x => collId x.1 x.2 (((d.plan x.1).map (·.ctx)).getD 0)
  d.ev 0x900C die none (ids ++ [(ns : Int), (cause : Int)])

/-- Extends an instance in progress, or holds the extension for one that has not launched. DESIGN CHOICE (log 61): an entry that
names an instance which has completed is held for the next instance of that number, since R394 does not tell the two apart. -/
def Dev.extend (d : Dev) (plan inst ns : Nat) : Dev :=
  if d.fab.insts.any fun i => i.plan == plan && i.inst == inst then
    { d with fab := { d.fab with insts := d.fab.insts.map fun i =>
        if i.plan = plan ∧ i.inst = inst then { i with deadline := i.deadline + ns } else i } }
  else { d with fab := { d.fab with heldLate := d.fab.heldLate ++ [(plan, inst, ns)] } }

/-- A received notice: entries of plans that the device holds, and event 0x900D. DESIGN CHOICE (log 61): its one announced lateness
is the largest of the packet's entries, the discarded ones among them; R76 speaks of one amount. -/
def Dev.takeNotice (d : Dev) (p : Nat) (k : Packet) : Dev :=
  let y := (k.lines.head?).elim [] lineBytes
  let es := (List.range (k.word % 8)).map fun i => (leAt y (16 * i) 2, leAt y (16 * i + 2) 1, leAt y (16 * i + 4) 4)
  let held := es.filter fun e => (d.plan e.1).isSome
  let d := held.foldl (fun d e => d.extend e.1 e.2.1 e.2.2) d
  let d := { d with fab := { d.fab with
    noticed := (held.filterMap fun (e : Nat × Nat × Nat) => (d.plan e.1).map Plan.ctx).foldl addSet d.fab.noticed } }
  let ids := held.map fun e => collId e.1 e.2.1 (((d.plan e.1).map (·.ctx)).getD 0)
  d.ev 0x900D (dieSeam p) none ((k.src : Int) :: ids ++ [((maxN (es.map (·.2.2)) : Nat) : Int)])

def execLateNotice (p : Fin 64) (k : Packet) (s : State) : Res :=
  s.on fun b => b.packetOf 0x11 p k fun b => b.onD fun d => d.takeNotice p k

/-! ### The Tape's reference in the fabric (12 R377) -/

/-- A device is reachable: this one, a partner, or one with a routing entry that has a Seam up. -/
def Dev.reachable (d : Dev) (dev : Nat) : Bool :=
  dev == d.myId || !(d.routeSeams dev).isEmpty || d.seamsUp.any fun p => (d.seam p).partner.toNat == dev

/-- The current reference: the first listed device that is reachable. -/
def Dev.tapeRef (d : Dev) : Option Nat := d.fab.refs.find? fun x => x != 0xFFFF && d.reachable x

/-- The distance to the reference that the partner on a Seam advertises; the reference itself is at 0. A partner that has no way
to the reference advertises 0xFFFF, which names no distance (log 60). -/
def Dev.advertised (d : Dev) (p ref : Nat) : Option Nat :=
  if (d.seam p).partner.toNat = ref then some 0
  else (get? d.fab.dist p).bind fun x => if x.1 = ref ∧ x.2 < 0xFFFF then some x.2 else none

/-- The Seam of the smallest distance; ties go to the lower partner ID, then to the lower Seam number. -/
def Dev.bestUpstream (d : Dev) (ref : Nat) : Option (Nat × Nat) :=
  (d.seamsUp.filterMap fun p => (d.advertised p ref).map fun x => (p, x)).foldl (fun best c =>
    match best with
    | none => some c
    | some b =>
      let pb := (d.seam b.1).partner.toNat
      let pc := (d.seam c.1).partner.toNat
      if c.2 < b.2 ∨ (c.2 = b.2 ∧ pc < pb) then some c else best) none

/-- Chooses reference, upstream and distance; event 0x5013 at a change of upstream. With the fabric source the correction that
follows the loss or the change of an upstream is a slew; the first upstream replaces none (02 R56). -/
def Dev.chooseUpstream (d : Dev) : Dev :=
  let old := d.fab.upstream
  let ref := d.tapeRef.getD 0xFFFF
  let up := if ref = 0xFFFF ∨ ref = d.myId then none else d.bestUpstream ref
  let dist := if ref = d.myId then 0 else up.elim 0xFFFF fun x => min 0xFFFF (x.2 + 1)
  let d := { d with fab := { d.fab with refId := ref, upstream := up.map (·.1), distance := if ref = 0xFFFF then 0 else dist } }
  if old = up.map (·.1) then d
  else
    let d := { d with tape := { d.tape with slewNext := d.tape.slewNext || (old.isSome && d.tape.source == 2) } }
    d.ev 0x5013 (dieSeam ((up.map (·.1)).getD (old.getD 0))) none
      [((old.getD 0xFFFF : Nat) : Int), (((up.map (·.1)).getD 0xFFFF : Nat) : Int), ref, d.fab.distance]

/-! ### The loss of a device (12 R365, R366) -/

/-- A flood packet on every Seam that is up but one. -/
def Dev.flood (d : Dev) (but : Option Nat) (k : Packet) : Dev :=
  (d.seamsUp.filter fun p => some p != but).foldl (fun d p => d.handPacket p k) d

def lossPacket (src lost declaring seq : Nat) : Packet :=
  mkPacket 0xFFFF src 0x12 3 0 (packFields [(limN 16 lost, 0), (limN 16 declaring, 16), (limN 16 seq, 32)]) 0 []

/-- Fails the instances that `sel` selects with a status; their contexts stop. -/
def Box.failWhere (b : Box) (status : Nat) (sel : Plan → CollInst → Bool) : Box :=
  (b.dev.fab.insts.filter fun i => (b.dev.plan i.plan).any fun p => sel p i).foldl (fun b i =>
    if b.dev.fab.insts.any (fun x => x.plan == i.plan && x.inst == i.inst) then
      (b.failColl i status ((b.dev.plan i.plan).elim 0 Plan.self) true).faultStop i.ctx 0x500B
    else b) b

/-- What every device does about a lost one: its routing entry, collectives, requests, and the Tape's reference. -/
def Box.actOnLoss (b : Box) (lost : Nat) : Box :=
  let b := b.onD fun d =>
    ({ d with fab := { d.fab with routes := del d.fab.routes lost, lost := addSet d.fab.lost lost } }).chooseUpstream
  let b := b.failWhere 1 fun p _ => p.members.any (·.1 == lost)
  (b.dev.fab.remote.filter (·.dev == lost)).foldl (fun b r => if b.dev.fab.remote.contains r then b.endReq r 3 else b) b

/-- Every Seam to a partner is down: event 0x5006 and a LOSS_NOTICE. -/
def Box.partnerLost (b : Box) (partner : Nat) : Box :=
  let b := (b.onD fun d => d.ev 0x5006 (dieSelvage 0) none [partner]).actOnLoss partner
  b.onD fun d =>
    let q := d.fab.seq
    let d := { d with fab := { d.fab with seq := (q + 1) % 65536, seen := (partner, q) :: d.fab.seen } }
    d.flood none (lossPacket d.myId partner d.myId q)

/-- A LOSS_NOTICE that was not seen before is acted on and forwarded (12 R365). -/
def Box.takeLoss (b : Box) (p : Nat) (k : Packet) : Box :=
  let lost := k.word % 65536
  let q := k.word / 2 ^ 32 % 65536
  if b.dev.fab.seen.contains (lost, q) then b
  else
    let b := b.onD fun d => { d with fab := { d.fab with seen := (lost, q) :: d.fab.seen } }
    let b := b.onD fun d => d.ev 0x5007 (dieSeam p) none [lost, k.word / 65536 % 65536, q]
    (b.actOnLoss lost).onD fun d => d.flood (some p) (lossPacket d.myId lost (k.word / 65536 % 65536) q)

def execLossNotice (p : Fin 64) (k : Packet) (s : State) : Res :=
  s.on fun b => b.packetOf 0x12 p k fun b => b.takeLoss p k

end Sys2Proof.Machine
end

