-- ==== Sys2Proof/Machine/Scratch.lean ====
section
/-! DEFINITION. What the scratchpad code reports on a read (06 R191, R192; 15 R445). -/

namespace Sys2Proof.Machine

/-- Raises event 0xE807 for a bank with its count and the threshold flag. -/
def Dev.scrEvent (d : Dev) (core bank : Nat) (ctx : Option Nat) (above : Bool) : Dev :=
  let e := getD (d.core core).bankErr bank ⟨[], false, 0⟩
  d.ev 0xE807 (boltOf core) ctx [(core : Int), d.physOf core, bank, e.total, boolN above]

/-- Threshold or uncorrectable events of a physical cluster in the last 24 hours. -/
def Dev.scrRecent (d : Dev) (phys : Nat) (unc : Bool) : Nat :=
  (d.health.scratchLog.filter fun x => x.2.1 == phys && x.2.2 == unc && d.now < x.1 + 86400000000000).length

/-- Notes such an event; the second within 24 hours makes the cluster due (trigger 2 or 3). -/
def Box.scrNote (b : Box) (core : Nat) (unc : Bool) : Box :=
  let p := b.dev.physOf core
  let b := b.onD fun d => { d with health := { d.health with scratchLog := d.health.scratchLog ++ [(d.now, p, unc)] } }
  if 2 ≤ b.dev.scrRecent p unc then b.due (boltOf core) (core / 16 % 16) (if unc then 3 else 2) else b

/-- One more corrected error of a bank. -/
def BankErr.more (e : BankErr) (now : Nat) : BankErr :=
  let log := (e.log.filter fun t => now < t + 3600000000000) ++ [now]
  { log := log, above := 64 < log.length, total := satAdd 32 e.total 1 }

/-- A corrected error on a read: event 0xE807 at the first of a bank in the training step of the context, or, for a read on behalf
of no context, in the second; and once when the count of the last hour rises above 64. -/
def Box.scrCorrected (b : Box) (core bank : Nat) (ctx : Option Nat) : Box :=
  let old := getD (b.dev.core core).bankErr bank ⟨[], false, 0⟩
  let new := old.more b.dev.now
  let was := old.above && 64 < (old.log.filter fun t => b.dev.now < t + 3600000000000).length
  let b := b.onD fun d => d.updCore core fun c => { c with bankErr := put c.bankErr bank new }
  let key := (0xE807, core * 32 + bank)
  let b := b.onD fun d => match ctx with
    | some n =>
      if (d.ctx n).firsts.contains key then d
      else (d.updCtx n fun c => { c with firsts := key :: c.firsts }).scrEvent core bank ctx false
    | none => d.oncePerSec (0xE807 * 262144 + key.2) fun d => d.scrEvent core bank none false
  if new.above && !was then (b.onD fun d => d.scrEvent core bank ctx true).scrNote core false else b

/-- An uncorrectable error: the line is poisoned, event 0xE808. -/
def Box.scrUncorrectable (b : Box) (core bank line : Nat) (ctx : Option Nat) : Box :=
  let b := b.onS fun s => s.poisonScr (scrAddr core bank line / 64)
  (b.onD fun d => d.ev 0xE808 (boltOf core) ctx [(core : Int), d.physOf core, bank, line]).scrNote core true

/-- What the code reports on one read of a core's scratchpad, for a context or on behalf of none. -/
def Box.scrRead (b : Box) (core : Nat) (ctx : Option Nat) : ScrEcc → Box
  | .ok => b
  | .corrected bank => b.scrCorrected core bank ctx
  | .uncorrectable bank line => b.scrUncorrectable core bank line ctx

/-- The bank of a report. -/
def bankOf : ScrEcc → Option Nat
  | .ok => none
  | .corrected bank => some bank
  | .uncorrectable bank _ => some bank

/-- What the code reports on the reads of several lines; reports of banks that are not read do not happen. -/
def Box.scrReads (b : Box) (core : Nat) (ctx : Option Nat) (reads : Nat → Bool) (l : List ScrEcc) : Box :=
  (l.filter fun e => (bankOf e).any reads).foldl (fun b e => b.scrRead core ctx e) b

end Sys2Proof.Machine
end

