-- ==== Sys2Proof/Machine/Arrays.lean ====
section
/-! DEFINITION. The array group of a core: operands and their feeds, the products of a step, accumulation groups, drain, and
the queues that feed them (03 R97 to R101; 04 R110 to R136; 05 R156; 08 R247, R254, R255; 15 R443). -/

namespace Sys2Proof.Machine

/-! ### What the code reports on the reads of an action (06 R191, R192) -/

/-- An action reads the bank through a handle of its core. -/
def Dev.actReads (d : Dev) (core : Nat) (l : List Rng) (bank : Nat) : Bool :=
  l.any fun r => r.core == core && r.len != 0 && ((d.core core).handle r.h).any (·.inBank bank)

/-- The work of an action that reads its core's scratchpad: `ecc` is what the code meets on the lines it reads. -/
def Box.workRead (b : Box) (a : Act) (ecc : List ScrEcc) (sel : Action → Bool) (reads : Dev → Action → List Rng)
    (f : Box → Action → Box) : Box :=
  b.work a sel reads fun b x =>
    f (b.scrReads a.cs.core (some x.ctx) (b.dev.actReads a.cs.core (reads b.dev x)) ecc) x

/-! ### The parameters of an array command (04 R114; 05 R156; 08 R254) -/

/-- An array command: ARR itself, or one of the two commands of a CHALK. -/
structure ArrOp where
  m : Nat
  n : Nat
  k : Nat
  af : Nat
  afeed : Nat
  wf : Nat
  wfeed : Bool
  df : Nat
  stoch : Bool
  init : Bool
  comp : Nat
  passd : Nat
  form : Nat
  taps : Nat
  key : Nat
  ha : Nat
  hb : Nat
  hc : Nat
  hd : Nat
  ao : Nat
  wo : Nat
  dof : Nat
  io : Nat
deriving DecidableEq, Repr

/-- ARR (05 R156). -/
def arrParams (x : Action) : ArrOp :=
  let r := x.desc
  { m := x.n0, n := x.n1, k := x.n2
    af := fld r 16 5, afeed := fld r 21 2, wf := fld r 24 5, wfeed := bitOf r 29, df := fld r 32 5, stoch := bitOf r 37
    init := bitOf r 38, comp := fld r 40 2, passd := fld r 42 3, form := fld r 48 3, taps := fld r 56 8
    key := recN r 20 4, ha := Insn.ha x.w, hb := Insn.hb x.w, hc := Insn.hc x.w, hd := Insn.hd x.w
    ao := 64 * recN r 24 2, wo := 64 * recN r 26 2, dof := 64 * recN r 28 2, io := 64 * recN r 30 2 }

/-! ### CHALK's record (08 R254) -/

def chalkLayerOf (r : BitVec 256) : Nat := recN r 2 1
def chalkAccum (r : BitVec 256) : Bool := bitOf r 24
def chalkK (r : BitVec 256) : Nat := recN r 8 4
def chalkRk (r : BitVec 256) : Nat := recN r 12 4
def chalkF (r : BitVec 256) : Nat := recN r 16 4
def chalkThresh (r : BitVec 256) : W32 := BitVec.ofNat 32 (recN r 20 4)

/-- CHALK's first command, Z = X · A into HC in KF8. No field says in which of KF8 and KF16 HA holds X: it is left free
(log 24). -/
def chalkFirst (x : Action) : ArrOp :=
  { m := x.n0, n := chalkRk x.desc, k := chalkK x.desc
    af := if Config.chalkX16 x.desc then 1 else 2, afeed := 0, wf := 3, wfeed := false, df := 2, stoch := false, init := false, comp := 0, passd := 0, form := 0
    taps := 0, key := 0, ha := Insn.ha x.w, hb := Insn.hb x.w, hc := 0, hd := Insn.hc x.w
    ao := 64 * recN x.desc 24 2, wo := 0, dof := 0, io := 0 }

/-- CHALK's second command, S = Z · B in binary32, which only the mask is formed from. -/
def chalkSecond (x : Action) : ArrOp :=
  { m := x.n0, n := chalkF x.desc, k := chalkRk x.desc
    af := 2, afeed := 0, wf := 3, wfeed := false, df := 0, stoch := false, init := false, comp := 0, passd := 0, form := 0
    taps := 0, key := 0, ha := Insn.hc x.w, hb := Insn.hb x.w, hc := 0, hd := Insn.hd x.w
    ao := 0, wo := 64 * recN x.desc 26 2, dof := 0, io := 0 }

/-- The parameters of a part of a launched action: 0 ARR, 1 and 2 the commands of a CHALK. -/
def arrOpOf (x : Action) (part : Nat) : ArrOp :=
  if part = 0 then arrParams x else if part = 1 then chalkFirst x else chalkSecond x

namespace ArrOp

/-- Elements per group and kept per group of an N:M form (08 R237). -/
def formM (o : ArrOp) : Nat := if o.form ≤ 3 then 4 else 8
def formN (o : ArrOp) : Nat := if o.form = 1 ∨ o.form = 4 then 1 else if o.form = 2 ∨ o.form = 5 then 2 else 4
/-- Width of a position code (08 R239). -/
def codeW (o : ArrOp) : Nat := if o.formM = 4 then 2 else 3
/-- Groups along the inner length. -/
def groups (o : ArrOp) : Nat := ceilDiv o.k o.formM

/-- The inner window w of 04 R112. -/
def w (o : ArrOp) : Nat := if o.wf = 3 ∧ o.af ≠ 1 then 8 else 4
/-- The window of the command: doubled with an N:M operand (04 R127). -/
def nm (o : ArrOp) : Bool := o.comp == 1 || o.comp == 2
def wEff (o : ArrOp) : Nat := if o.nm then 2 * o.w else o.w
/-- The combination includes KF16, whose windows take two steps (04 R112). -/
def kf16 (o : ArrOp) : Bool := o.af == 1 || o.wf == 1
/-- Products of a cell row per step: w, or half of it with KF16 (04 R111, R112, R127). -/
def perStep (o : ArrOp) : Nat := if o.kf16 then o.w / 2 else o.w
/-- The steps of a window whose products run over the operand `drive`: two with KF16, times ⌈2N / M⌉ when the kept elements
of a compressed row or column exceed w (04 R112, R127). -/
def stepsOf (o : ArrOp) (drive : List Entry) : Nat :=
  (if o.kf16 then 2 else 1) * (if o.nm && drive.any (o.w < ·.length) then ceilDiv (2 * o.formN) o.formM else 1)
/-- What a step takes of the operand that its products run over. -/
def slice (o : ArrOp) (sub : Nat) (drive : List Entry) : List Entry :=
  drive.map fun l => (l.drop (sub * o.perStep)).take o.perStep
def windows (o : ArrOp) : Nat := ceilDiv o.k o.wEff

/-- Blocks of 16 rows and of 32 columns; accumulation groups (04 R115). -/
def mBlocks (o : ArrOp) : Nat := ceilDiv o.m 16
def nBlocks (o : ArrOp) : Nat := ceilDiv o.n 32
def total (o : ArrOp) : Nat := o.mBlocks * o.nBlocks
/-- Rows and columns of a group below the edges (04 R116). -/
def rowsIn (o : ArrOp) (mb : Nat) : Nat := min 16 (o.m - 16 * mb)
def colsIn (o : ArrOp) (nb : Nat) : Nat := min 32 (o.n - 32 * nb)
/-- Column quads that hold a column below N. -/
def quads (o : ArrOp) (nb : Nat) : Nat := ceilDiv (o.colsIn nb) 4
/-- The number of a group's first window in the whole command, in the order of R115, and of the window past the last. -/
def firstWin (o : ArrOp) (mb nb : Nat) : Nat := (mb * o.nBlocks + nb) * o.windows
def allWins (o : ArrOp) : Nat := o.total * o.windows
/-- Row block, column block and window of a window's number in the command. -/
def mbOf (o : ArrOp) (gw : Nat) : Nat := gw / o.windows / o.nBlocks
def nbOf (o : ArrOp) (gw : Nat) : Nat := gw / o.windows % o.nBlocks

/-- Positions that a pass-mode activation operand holds (04 R120; log 23). -/
def positions (o : ArrOp) : Nat := if o.afeed = 2 then o.m + o.passd * (o.taps - 1) else o.m
/-- Inner elements of one position: K over the taps in pass mode. -/
def channels (o : ArrOp) : Nat := if o.afeed = 2 then o.k / max 1 o.taps else o.k

/-- Elements that the dense storage of the activation operand holds. -/
def aCount (o : ArrOp) : Nat := o.positions * o.channels
/-- Linear index of activation element (m, k) in its storage (04 R120, R124; 05 R156). -/
def aIndex (o : ArrOp) (m k : Nat) : Nat :=
  if o.afeed = 1 then k * o.m + m
  else if o.afeed = 2 then
    (m + o.passd * (k / o.w % max 1 o.taps)) * o.channels + k / (max 1 o.taps * o.w) * o.w + k % o.w
  else m * o.k + k
/-- Linear index of weight element (k, n) in its storage. -/
def wIndex (o : ArrOp) (k n : Nat) : Nat := if o.wfeed then n * o.k + k else k * o.n + n

/-- Elements and side bytes of an N:M operand of `rows` rows in a handle (08 R246; log 22). -/
def keptCount (o : ArrOp) (rows : Nat) : Nat := rows * o.groups * o.formN
def sideOff (o : ArrOp) (f rows : Nat) : Nat := ceilTo 64 (storageBytes f (o.keptCount rows) (fmtPlanar f))

/-- Bytes of each operand from its offset. -/
def aBytes (o : ArrOp) : Nat :=
  if o.k = 0 then 0
  else if o.comp = 2 then o.sideOff o.af o.m + 2 * (o.m * o.groups)
  else if o.comp = 3 then ceilTo 64 (storageBytes o.af o.aCount (fmtPlanar o.af)) + o.m * ceilDiv o.k 8
  else storageBytes o.af o.aCount (fmtPlanar o.af)
def wBytes (o : ArrOp) : Nat :=
  if o.k = 0 then 0
  else if o.comp = 1 then o.sideOff o.wf o.n + 2 * (o.n * o.groups)
  else storageBytes o.wf (o.k * o.n) (fmtPlanar o.wf)
def dBytes (o : ArrOp) : Nat := storageBytes o.df (o.m * o.n) (fmtPlanar o.df)
def iBytes (o : ArrOp) : Nat := if o.init then 4 * (o.m * o.n) else 0

/-- Ranges that a command reads and writes; none when M or N is 0 (04 R117; 06 R185). -/
def reads (o : ArrOp) (core : Nat) : List Rng :=
  if o.m = 0 ∨ o.n = 0 then []
  else [⟨core, o.ha, o.ao, o.aBytes⟩, ⟨core, o.hb, o.wo, o.wBytes⟩] ++ (if o.init then [⟨core, o.hc, o.io, o.iBytes⟩] else [])
def writes (o : ArrOp) (core : Nat) : List Rng := if o.m = 0 ∨ o.n = 0 then [] else [⟨core, o.hd, o.dof, o.dBytes⟩]

/-! ### What a record must keep to (03 R101; 04 R114, R121, R125, R126; 05 R156; 08 R237) -/

def combos : List (Nat × Nat) := [(1, 1), (1, 2), (2, 1), (2, 2), (3, 2), (3, 3)]

def formsOk (o : ArrOp) : Bool :=
  combos.contains (o.wf, o.af) && o.df ≤ 3 && o.afeed ≤ 2 && !(o.afeed == 1 && o.af == 3)
    && (o.form != 0) == (o.comp == 1 || o.comp == 2) && o.form ≤ 6
    && !((o.comp == 2 || o.comp == 3) && o.afeed != 0) && !(o.comp == 1 && o.wfeed)
    && (if o.afeed = 2 then 1 ≤ o.passd && o.passd ≤ 4 && 1 ≤ o.taps else o.passd == 0 && o.taps == 0)

/-- In pass feed, K is a multiple of TAPS x w. -/
def kOk (o : ArrOp) : Bool := !(o.afeed == 2) || o.k % (o.taps * o.w) == 0

end ArrOp

/-! ### One element of a handle -/

/-- Element i of n in a buffer of a handle: code and poison. -/
def Box.hEl (b : Box) (core h f off n i : Nat) : Nat × Bool :=
  readEl (fun a => ((b.hBytes core h (off + a) 1).head?).getD (0, false)) f n i (fmtPlanar f)

def Box.hElem (b : Box) (core h f off n i : Nat) : Elem :=
  let e := b.hEl core h f off n i
  ⟨toB32 f e.1, e.2⟩

/-- The byte at an offset of a handle. -/
def Box.hByte (b : Box) (core h a : Nat) : Byte := (((b.hBytes core h a 1).head?).getD (0, false)).1

/-- Adds an element of a handle's buffer to the bytes to write; offsets in the handle. -/
def Box.hPut (b : Box) (core h f off n : Nat) (o : Overlay) (i v : Nat) (bad : Bool) : Overlay :=
  if fmtPlanar f then
    (List.range (fmtBits f)).foldl (fun o k =>
      let a := off + planeByte f n i k
      setBit o a (i % 8) (b.hByte core h a) (v / 2 ^ k) bad) o
  else
    let w := fmtBits f / 8
    ((span (off + i * w) w).zip (leBytes w v)).foldl (fun o x => put o x.1 (x.2, bad)) o

/-- The padding bits of every plane of a buffer, written as 0 with the last element (03 R104). -/
def Box.hPad (b : Box) (core h f off n : Nat) (o : Overlay) : Overlay :=
  (List.range (fmtBits f)).foldl (fun o k => (padBits n).foldl (fun o p =>
    let a := off + k * planeSize n + p.1
    setBit o a p.2 (b.hByte core h a) 0 false) o) o

/-- Writes elements of a buffer: index, code, poison. -/
def Box.hWriteEls (b : Box) (ctx : Nat) (act : Act) (core h f off n : Nat) (els : List (Nat × Nat × Bool)) : Box :=
  let o := els.foldl (fun o e => b.hPut core h f off n o e.1 e.2.1 e.2.2) []
  let o := if fmtPlanar f && els.any (fun e => e.1 + 1 == n) then b.hPad core h f off n o else o
  (runsOf o).foldl (fun b r => b.hWrite ctx act core h r.1 r.2) b

/-! ### Entries and tiles (04 R122, R124, R127 to R129) -/

/-- The side word of group g of row r of an N:M operand at offset `off`, and its poison. -/
def Box.sideWord (b : Box) (o : ArrOp) (core h f off rows r g : Nat) : Nat × Bool :=
  let l := b.hBytes core h (off + o.sideOff f rows + 2 * (r * o.groups + g)) 2
  (leNat (bytesOf l), anyBad l)

/-- Kept elements of row r in a compressed window: inner index and element, slots in order. A poisoned side word poisons
the slots of its group. -/
def Box.keptIn (b : Box) (o : ArrOp) (core h f off rows r win : Nat) : Entry :=
  let per := o.wEff / o.formM
  (span (win * per) per).flatMap fun g =>
    if o.groups ≤ g then [] else
      let sw := b.sideWord o core h f off rows r g
      (List.range (min o.formN (sw.1 % 8))).map fun s =>
        let e := b.hElem core h f off (o.keptCount rows) ((r * o.groups + g) * o.formN + s)
        (o.formM * g + sw.1 / 2 ^ (3 + o.codeW * s) % 2 ^ o.codeW, { e with poison := e.poison || sw.2 })

/-- Inner indices of a dense window below K. -/
def ArrOp.inner (o : ArrOp) (win : Nat) : List Nat := (span (win * o.wEff) o.wEff).filter (· < o.k)

/-- The bitmap byte of row m's group of 8 inner indices, and its poison. -/
def Box.bitmapByte (b : Box) (o : ArrOp) (core m g : Nat) : Nat × Bool :=
  let at' := o.ao + ceilTo 64 (storageBytes o.af o.aCount (fmtPlanar o.af))
  match b.hBytes core o.ha (at' + m * ceilDiv o.k 8 + g) 1 with
  | x :: _ => (x.1.toNat, x.2)
  | [] => (0, false)

/-- The activation entry of row m (of the command) for a window; nothing beyond the edges. -/
def Box.actEntry (b : Box) (o : ArrOp) (core m win : Nat) : Entry :=
  if o.positions ≤ m then []
  else if o.comp = 2 then b.keptIn o core o.ha o.af o.ao o.m m win
  else (o.inner win).filterMap fun k =>
    let i := o.aIndex m k
    if o.aCount ≤ i then none
    else
      let e := b.hElem core o.ha o.af o.ao o.aCount i
      if o.comp = 3 then
        let y := b.bitmapByte o core m (k / 8)
        some (k, ⟨if y.1.testBit (k % 8) then e.v else 0, e.poison || y.2⟩)
      else some (k, e)

/-- The weights of column n (of the command) for a window. -/
def Box.wColumn (b : Box) (o : ArrOp) (core n win : Nat) : Entry :=
  if o.n ≤ n then []
  else if o.comp = 1 then b.keptIn o core o.hb o.wf o.wo o.n n win
  else (o.inner win).map fun k => (k, b.hElem core o.hb o.wf o.wo (o.k * o.n) (o.wIndex k n))

/-- The tile of a column quad. -/
def Box.wTile (b : Box) (o : ArrOp) (core nb quad win : Nat) : List Entry :=
  (List.range 4).map fun j => b.wColumn o core (32 * nb + 4 * quad + j) win

/-- All bitmap-8 groups of the window are zero and clean in every row below M (04 R129, R130). -/
def Box.skips (b : Box) (o : ArrOp) (core mb win : Nat) : Bool :=
  o.comp == 3 && (span (16 * mb) (o.rowsIn mb)).all fun m =>
    (span (win * o.wEff / 8) (ceilDiv o.wEff 8)).all fun g =>
      let y := b.bitmapByte o core m g
      (ceilDiv o.k 8 ≤ g || (y.1 == 0 && !y.2))
        && (o.inner win).all fun k => !(b.hElem core o.ha o.af o.ao o.aCount (o.aIndex m k)).poison

/-! ### Arithmetic (03 R97, R98; 04 R111, R130) -/

/-- A magnitude below 2^-126 becomes zero of its sign. -/
def flush (w : W32) : W32 := if B32.isTiny w then B32.zero (B32.neg w) else w

/-- One product added: the accumulator, and the conditions that it raises when nothing is poisoned. -/
def mac (acc x w : Elem) : Elem × List Nat :=
  let p := B32.mul x.v w.v
  let s := B32.add acc.v (flush p)
  let bad := acc.poison || x.poison || w.poison
  (⟨flush s, bad⟩, if bad then [] else opConds [x.v, w.v] p ++ opConds [acc.v, flush p] s)

/-- The products of one cell row: the kept elements of the compressed operand, or all, in order. A position code that selects
an inner index at or beyond K selects zero (R128). -/
def cellRow (byRow kept : Bool) (acc : Elem) (act col : Entry) : Elem × List Nat :=
  (if byRow then act else col).foldl (fun (s : Elem × List Nat) e =>
    match get? (if byRow then col else act) e.1 with
    | none => if kept then let r := mac s.1 e.2 ⟨0, false⟩; (r.1, s.2 ++ r.2) else s
    | some y => let r := mac s.1 e.2 y; (r.1, s.2 ++ r.2)) (acc, [])

/-- One step of the group on a bank's accumulators, and the conditions. -/
def stepBank (acc : Tbl Elem) (x : StepIn) : Tbl Elem × List Nat :=
  (List.range 16).foldl (fun (s : Tbl Elem × List Nat) i =>
    (List.range 4).foldl (fun (s : Tbl Elem × List Nat) j =>
      let a := x.ents.getD i []
      let c := x.tile.getD j []
      if a.isEmpty || c.isEmpty then s
      else
        let at' := i * 32 + 4 * x.quad + j
        let r := cellRow x.byRow x.kept (getD s.1 at' ⟨0, false⟩) a c
        (put s.1 at' r.1, s.2 ++ r.2)) s) (acc, [])

/-- Faults of the arrays: accumulators whose bits change (log 9). -/
def upset (acc : Tbl Elem) (err : List (Nat × W32)) : Tbl Elem :=
  err.foldl (fun t e => match get? t e.1 with
    | some x => put t e.1 { x with v := x.v ^^^ e.2 }
    | none => t) acc

/-- Position codes at or beyond K in a step's compressed operand (08 R247). -/
def beyond (o : ArrOp) (l : List Entry) : List Nat := (l.flatMap fun e => (e.filter fun x => o.k ≤ x.1).map (·.1))

/-- Initial accumulators of a group: +0, or Y0 (04 R113, R119). -/
def Box.initAcc (b : Box) (o : ArrOp) (core mb nb : Nat) : Tbl Elem :=
  (List.range (o.rowsIn mb)).flatMap fun i => (List.range (o.colsIn nb)).map fun j =>
    (i * 32 + j,
      if o.init then
        let e := b.hElem core o.hc 0 o.io (o.m * o.n) ((16 * mb + i) * o.n + 32 * nb + j)
        { e with v := flush e.v }
      else ⟨0, false⟩)

end Sys2Proof.Machine
end

