-- ==== Sys2Proof/Machine/Groups.lean ====
section
/-! DEFINITION. Array commands as accumulation groups on the two banks: start, fills, steps, drain, completion, and the end of
a CHALK's commands (04 R113 to R123, R134, R135, R140, R142; 08 R247, R255). -/

namespace Sys2Proof.Machine

/-! ### Commands and groups of a core -/

def ArrCmd.total (c : ArrCmd) : Nat := ceilDiv c.m 16 * ceilDiv c.n 32
def ArrCmd.nBlocks (c : ArrCmd) : Nat := ceilDiv c.n 32
def ArrCmd.act (c : ArrCmd) (core : Nat) : Act := ⟨mkCS core c.st, c.id⟩

/-- Tie order of streams: B, F, U (04 R135). -/
def Str.rank : Str → Nat
  | .B => 0
  | .F => 1
  | .U => 2

def ArrCmd.before (a b : ArrCmd) : Bool := a.e < b.e || (a.e == b.e && Str.rank a.st < Str.rank b.st)

/-- The command whose group starts next: earliest E, then stream B, F, U. -/
def Core.nextCmd (c : Core) : Option ArrCmd :=
  (c.arrq.filter fun x => x.next < x.total).foldl (fun m x => match m with
    | none => some x
    | some y => some (if x.before y then x else y)) none

def Core.findCmd (c : Core) (st : Str) (id : Nat) : Option ArrCmd := c.arrq.find? fun x => x.st == st && x.id == id
def Core.updCmd (c : Core) (st : Str) (id : Nat) (f : ArrCmd → ArrCmd) : Core :=
  { c with arrq := c.arrq.map fun x => if x.st == st && x.id == id then f x else x }

/-- The bank with a group that still takes steps: false A, true B. -/
def Core.stepping (c : Core) : Option Bool :=
  if c.bankA.grp.any (!·.ended) then some false else if c.bankB.grp.any (!·.ended) then some true else none

def Core.bank (c : Core) (side : Bool) : Bank := if side then c.bankB else c.bankA
def Core.setBank (c : Core) (side : Bool) (x : Bank) : Core := if side then { c with bankB := x } else { c with bankA := x }

/-- No group takes steps and the next bank is free. -/
def Core.canStart (c : Core) : Bool := c.stepping.isNone && (c.bank c.nextB).grp.isNone

/-- The core a number of Bolts further round, of the same cluster and place (04 R138). -/
def aside (core bolts : Nat) : Nat := (core / 256 + bolts) % 24 * 256 + core % 256
def partnerOf (core : Nat) : Nat := aside core 12
def refereeOf (core : Nat) : Nat := aside core 6

/-- The partner whose shadow group waits for this core as its referee. -/
def Dev.refereeWork (d : Dev) (core : Nat) : Option Nat :=
  let p := aside core 6
  if (d.core p).shadow.any fun s => s.stage == 3 && refereeOf s.primary == core then some p else none

/-- Shadow work that goes before the core's own groups (04 R135). -/
def Dev.shadowReady (d : Dev) (core : Nat) : Bool :=
  (d.core core).shadow.any (·.stage == 1) || (d.refereeWork core).isSome

/-! ### Entering a command (04 R117, R135; 08 R255) -/

def Core.enqueue (c : Core) (x : Action) (st : Str) (part : Nat) : Core :=
  let o := arrOpOf x part
  let cmd : ArrCmd :=
    { st := st, id := x.id, ctx := x.ctx, e := x.e.getD x.launch, chalk := part, m := o.m, n := o.n, k := o.k, next := 0
      drained := 0, verdicts := 0, hits := [] }
  { c with arrq := c.arrq ++ [cmd] }

/-- The range of X, A, B, Z and the mask of a CHALK (08 R254). -/
def chalkReads (core : Nat) (x : Action) : List Rng :=
  if x.n0 = 0 then []
  else ((chalkFirst x).reads core) ++ [⟨core, Insn.hb x.w, 64 * recN x.desc 26 2, (chalkSecond x).wBytes⟩]
def chalkWrites (core : Nat) (x : Action) : List Rng :=
  [⟨core, Insn.hd x.w, 0, planeSize (chalkF x.desc)⟩] ++ (if x.n0 = 0 then [] else (chalkFirst x).writes core)

/-- Writes CHALK's mask: bit and poison of each neuron, ORed into HD with ACCUM. -/
def Box.maskWrite (b : Box) (core : Nat) (a : Act) (x : Action) (bit : Nat → Bool × Bool) : Box :=
  let f := chalkF x.desc
  let hd := Insn.hd x.w
  let old := if chalkAccum x.desc then b.hEls core hd 0xE 0 f else []
  b.hPutEls x.ctx a core hd 0xE 0 ((List.range f).map fun i =>
    let y := bit i
    let z := old.getD i (0, false)
    (max (boolN y.1) z.1, y.2 || z.2))

/-- Mask bits from the hits of the drained groups. -/
def hitBit (cmd : ArrCmd) (f : Nat) : Bool × Bool :=
  (List.range (ceilDiv cmd.m 16)).foldl (fun (r : Bool × Bool) mb =>
    let h := getD cmd.hits (mb * cmd.nBlocks + f / 32) (0, 0)
    (r.1 || h.1.testBit (f % 32), r.2 || h.2.testBit (f % 32))) (false, false)

/-! ### Completion (04 R118, R142) -/

/-- A command whose groups have all drained, with no verdict outstanding, is complete; the second command of a CHALK then
begins, or its mask is written. -/
def Box.finishCmd (b : Box) (core : Nat) (st : Str) (id : Nat) : Box :=
  let a : Act := ⟨mkCS core st, id⟩
  match (b.dev.core core).findCmd st id, b.dev.action a with
  | some cmd, some x =>
    if cmd.drained = cmd.total ∧ cmd.verdicts = 0 then
      let b := b.onD fun d => d.updCore core fun c => { c with arrq := c.arrq.filter fun y => !(y.st == st && y.id == id) }
      if cmd.chalk = 1 then b.onD fun d => d.updCore core fun c => c.enqueue x st 2
      else
        let b := if cmd.chalk = 2 then b.maskWrite core a x (hitBit cmd) else b
        b.onD fun d => d.actDone a
    else b
  | _, _ => b

/-! ### Sampling (04 R140) -/

/-- Bytes of a group's entries and initial values in a shadow region; a kept element comes with its position code (R122). -/
def ArrOp.shadowBytes (o : ArrOp) (mb nb : Nat) : Nat :=
  let side := fun (f lines : Nat) (nm bm : Bool) =>
    if nm then ceilDiv (lines * o.groups * o.formN * (fmtBits f + o.codeW)) 8
    else ceilDiv (lines * o.k * fmtBits f) 8 + (if bm then lines * ceilDiv o.k 8 else 0)
  side o.af (o.rowsIn mb) (o.comp == 2) (o.comp == 3) + side o.wf (o.colsIn nb) (o.comp == 1) false
    + (if o.init then 4 * (o.rowsIn mb * o.colsIn nb) else 0)

def Dev.shadowCount (d : Dev) (i : Nat) : Dev := { d with shadow := { d.shadow with
  counts := put d.shadow.counts i (satAdd 64 (getD d.shadow.counts i 0) 1) } }

/-- A range of a handle holds what a PATCH wrote last. -/
def Core.patchedAt (c : Core) (h off len : Nat) : Bool :=
  (c.handle h).any fun x => x.patched.any fun r => r.1 < off + len && off < r.1 + r.2

/-- A patch pass: initial values are loaded, and an operand is what a PATCH wrote (08 R251; log 71). -/
def ArrOp.patchPass (o : ArrOp) (c : Core) : Bool :=
  o.init && (c.patchedAt o.ha o.ao o.aBytes || c.patchedAt o.hb o.wo o.wBytes)

/-- Why a selected group is not sampled: the count of R448 that it adds to; none when it is sampled. -/
def Dev.sampleSkip (d : Dev) (o : ArrOp) (core mb nb : Nat) (acc : Tbl Elem) : Option Nat :=
  if o.patchPass (d.core core) then some 6
  else if acc.any (·.2.poison) then some 7
  else if min (d.shadowUnits (partnerOf core)) (d.shadowUnits (refereeOf core)) * 65536 < o.shadowBytes mb nb then some 4
  else if (d.core (partnerOf core)).shadow.isSome then some 5
  else none

/-- Ends the sample of the group in progress because it read poisoned data: it counts as skipped, not as sampled. -/
def Dev.unsample (d : Dev) (core : Nat) (side : Bool) (g : Grp) : Dev :=
  let d := d.shadowCount 7
  let d := { d with shadow := { d.shadow with counts := put d.shadow.counts 0 (getD d.shadow.counts 0 0 - 1) } }
  let d := d.updCore (partnerOf core) fun c => { c with shadow := none }
  d.updCore core fun c =>
    (c.setBank side { c.bank side with grp := some { g with sampled := false } }).updCmd g.st g.id fun x =>
      { x with verdicts := x.verdicts - 1 }

/-! ### The start of a group (04 R115, R135, R141) -/

/-- A group that ended hands its values to the partner when it is sampled. -/
def Dev.endGroup (d : Dev) (core : Nat) (side : Bool) (g : Grp) (acc : Tbl Elem) : Dev :=
  let d := d.updCore core fun c => { c.setBank side ⟨some { g with ended := true }, acc⟩ with lastGroup := d.now }
  if g.sampled then d.updCore (partnerOf core) fun c =>
    { c with shadow := c.shadow.map fun s => { s with pv := acc, stage := 1, endTape := d.now } }
  else d

/-- What the partner's shadow region holds when a sampled group starts. -/
def newShadow (core : Nat) (cmd : ArrCmd) (mb nb : Nat) (acc : Tbl Elem) : Shadow :=
  { primary := core, st := cmd.st, id := cmd.id, ctx := some cmd.ctx, chalk := cmd.chalk, mb := mb, nb := nb, idle := false
    init := acc, steps := [], pv := [], qv := [], rv := [], stage := 0, endTape := 0 }

/-- The queues at the start of a group: as they stand when they feed its command already, else empty from the group's first
window on. -/
def Core.feedFrom (c : Core) (cmd : Str × Nat × Nat) (gw : Nat) : Core :=
  if c.feeds = some cmd then c
  else { c with feeds := some cmd, bob := [], bobFill := (List.range 16).map fun r => (r, gw), wq := [], wqFill := 8 * gw }

def Box.startGroup (b : Box) (core : Nat) (cmd : ArrCmd) (x : Action) (sample : Bool) : Box :=
  let o := arrOpOf x cmd.chalk
  let mb := cmd.next / cmd.nBlocks
  let nb := cmd.next % cmd.nBlocks
  let acc := b.initAcc o core mb nb
  let sel := sample && b.dev.shadow.rate != 0
  let skip := b.dev.sampleSkip o core mb nb acc
  let yes := sel && skip.isNone
  let g : Grp := { st := cmd.st, id := cmd.id, chalk := cmd.chalk, mb := mb, nb := nb, win := 0, quad := 0, sub := 0
                   sampled := yes, ended := false }
  b.onD fun d =>
    let side := (d.core core).nextB
    let d := if yes then d.shadowCount 0 else if sel then d.shadowCount (skip.getD 4) else d
    let d := d.updCore core fun c =>
      let c := (c.setBank side ⟨some g, acc⟩).updCmd cmd.st cmd.id fun x =>
        { x with next := x.next + 1, verdicts := x.verdicts + boolN yes }
      { c.feedFrom (cmd.st, cmd.id, cmd.chalk) (o.firstWin mb nb) with nextB := !side, held := [], lastGroup := d.now }
    let d := if yes then d.updCore (partnerOf core) fun c => { c with shadow := some (newShadow core cmd mb nb acc) } else d
    if o.k = 0 then d.endGroup core side g acc else d

/-- The next group starts; `ecc` is what the code meets on the lines of its initial values. -/
def execAccumGroupStart (core : Fin 6144) (sample : Bool) (s : State) (ecc : List ScrEcc := []) : Res :=
  s.on fun b =>
    let c := b.dev.core core
    if !c.canStart || b.dev.shadowReady core then b
    else match c.nextCmd with
      | none => b
      | some cmd => match b.dev.action (cmd.act core) with
        | none => b
        | some x =>
          let o := arrOpOf x cmd.chalk
          (b.scrReads core (some x.ctx) (b.dev.actReads core (if o.init then [⟨core, o.hc, o.io, o.iBytes⟩] else [])) ecc).startGroup
            core cmd x sample

/-! ### Fills (04 R122, R123) -/

/-- In pass mode a row below 16 - d takes the entry of row r + d, but at the first tap (04 R120). -/
def ArrOp.shifts (o : ArrOp) (r win : Nat) : Bool :=
  o.afeed == 2 && o.comp == 0 && r + o.passd < 16 && win % max 1 o.taps != 0

/-- A row reads an entry for a window of the command. -/
def ArrOp.fetches (o : ArrOp) (r gw : Nat) : Bool := 16 * o.mbOf gw + r < o.positions && !o.shifts r (gw % o.windows)

/-- The first window at or after `gw` for which a row reads an entry: one of the next TAPS, in the command. -/
def ArrOp.nextFetch (o : ArrOp) (r gw : Nat) : Option Nat :=
  (span gw (min (max 1 o.taps) (o.allWins - gw))).find? (o.fetches r)

/-- The tile that follows one in the order of R115. -/
def ArrOp.nextTile (o : ArrOp) (t : Nat) : Nat :=
  if t % 8 + 1 < o.quads (o.nbOf (t / 8)) then t + 1 else 8 * (t / 8 + 1)

/-- The Bobbins that one read serves: one, or with a transposing feed all that read their column at this window (R124). -/
def Core.readGroup (c : Core) (o : ArrOp) (unit gw : Nat) : List Nat :=
  if o.afeed = 1 then (List.range 16).filter fun r => o.nextFetch r (getD c.bobFill r 0) == some gw else [unit]

/-- The next read of a Bobbin or of the weight queue: while it has a free entry and its command has entries left (R122). -/
def Core.fill (c : Core) (o : ArrOp) (unit : Nat) : Option Core :=
  if unit < 16 then
    (o.nextFetch unit (getD c.bobFill unit 0)).bind fun gw =>
      let rows := c.readGroup o unit gw
      if rows.any fun r => decide (32 ≤ (getD c.bob r []).length) then none
      else some (rows.foldl (fun (c : Core) r =>
        { c with bob := put c.bob r (getD c.bob r [] ++ [gw]), bobFill := put c.bobFill r (gw + 1) }) c)
  else if 32 ≤ c.wq.length ∨ o.allWins ≤ c.wqFill / 8 then none
  else some { c with wq := c.wq ++ [c.wqFill], wqFill := o.nextTile c.wqFill }

/-- The command that the Bobbins and the weight queue fetch for. -/
def Dev.feeding (d : Dev) (core : Nat) : Option (Action × ArrOp) :=
  (d.core core).feeds.bind fun f =>
    if ((d.core core).findCmd f.1 f.2.1).any (·.chalk == f.2.2) then
      (d.action ⟨mkCS core f.1, f.2.1⟩).map fun x => (x, arrOpOf x f.2.2)
    else none

/-- The group in progress on a core: its bank, group, action and parameters. -/
def Dev.inProgress (d : Dev) (core : Nat) : Option (Bool × Grp × Action × ArrOp) :=
  match (d.core core).stepping with
  | none => none
  | some side => match ((d.core core).bank side).grp with
    | none => none
    | some g => (d.action ⟨mkCS core g.st, g.id⟩).map fun x => (side, g, x, arrOpOf x g.chalk)

def execBobbinFill (core : Fin 6144) (unit : Fin 17) (ecc : ScrEcc) (s : State) : Res :=
  s.on fun b => match b.dev.feeding core with
    | none => b
    | some (x, o) => match (b.dev.core core).fill o unit with
      | none => b
      | some c => (b.onD fun d => (d.setCore core c).creaseHs (boltOf core) 1).scrRead core (some x.ctx) ecc

/-! ### Steps (04 R111, R115, R123, R129) -/

/-- The entries of a window of the command stand in the Bobbins of the rows that read them. -/
def Core.entriesReady (c : Core) (o : ArrOp) (gw : Nat) : Bool :=
  (List.range 16).all fun r => !o.fetches r gw || (getD c.bob r []).head? == some gw

/-- Takes the entries of a window out of the Bobbins. -/
def Core.popEntries (c : Core) (gw : Nat) : Core := { c with bob := updAll c.bob fun _ q => q.filter (· != gw) }

/-- The entries that the 16 rows hold for a window. -/
def Box.heldFor (b : Box) (o : ArrOp) (core : Nat) (g : Grp) (win : Nat) : List Entry :=
  let old := (b.dev.core core).held
  (List.range 16).map fun r =>
    if o.shifts r win then (old.getD (r + o.passd) []).map fun e => (e.1 + o.w, e.2)
    else b.actEntry o core (16 * g.mb + r) win

/-- Skips windows of zero groups from the group's window on (04 R129): what is left of the core's queues, and the window
reached. -/
def Box.skipFrom (b : Box) (o : ArrOp) (core : Nat) (g : Grp) (c : Core) (win : Nat) : Nat → Core × Nat
  | 0 => (c, win)
  | n + 1 =>
    let gw := o.firstWin g.mb g.nb + win
    if win < o.windows && b.skips o core g.mb win && c.entriesReady o gw then
      let c := { c.popEntries gw with wq := c.wq.filter fun t => t / 8 != gw, wqFill := max c.wqFill (8 * (gw + 1)) }
      b.skipFrom o core g c (win + 1) n
    else (c, win)

/-- Counts position codes beyond K, with event 0xA006 (08 R247). -/
def Dev.countBeyond (d : Dev) (core : Nat) (x : Action) (o : ArrOp) (l : List Nat) : Dev :=
  l.foldl (fun (d : Dev) (k : Nat) => d.condition x.ctx .sparse 4 0xA006 (boltOf core) (d.coreSlot core)
    [d.coreSlot core, x.index, o.k, k]) d

/-- One step at window `win` and the group's quad, when its entries and its tile are there; the last step of the quad's
window takes the tile out of the queue. -/
def Box.stepAt (b : Box) (core : Nat) (side : Bool) (g : Grp) (x : Action) (o : ArrOp) (win : Nat)
    (err : List (Nat × W32)) : Box :=
  let c := b.dev.core core
  let gw := o.firstWin g.mb g.nb + win
  let first := g.quad == 0 && g.sub == 0
  if !(c.wq.head? == some (8 * gw + g.quad) && (!first || c.entriesReady o gw)) then b
  else
    let held := if first then b.heldFor o core g win else c.held
    let ents := (List.range 16).map fun r => if r < o.rowsIn g.mb then held.getD r [] else []
    let tile := b.wTile o core g.nb g.quad win
    let byRow := o.comp == 2
    let inp : StepIn := { quad := g.quad, byRow := byRow, kept := o.nm
                          ents := if byRow then o.slice g.sub ents else ents
                          tile := if byRow then tile else o.slice g.sub tile }
    let r := stepBank (c.bank side).acc inp
    let acc := upset r.1 err
    let through := o.stepsOf (if byRow then ents else tile) ≤ g.sub + 1
    let last := through ∧ g.quad + 1 = o.quads g.nb
    let g' := { g with win := if last then win + 1 else win
                       quad := if last then 0 else if through then g.quad + 1 else g.quad
                       sub := if through then 0 else g.sub + 1 }
    let bad := (ents ++ tile).any fun l => l.any (·.2.poison)
    b.onD fun d =>
      let d := d.setCore core
        (({ c.popEntries gw with wq := if through then c.wq.drop 1 else c.wq, held := held }).setBank side ⟨some g', acc⟩)
      let d := (d.creaseHs (boltOf core) 0).ariths x core (Insn.opc x.w) o.df r.2
      let d := if o.comp = 1 ∧ g.sub = 0 then d.countBeyond core x o (beyond o tile)
        else if o.comp = 2 ∧ first then d.countBeyond core x o (beyond o ents) else d
      let d := if o.comp = 3 ∧ first then d.count x.ctx .sparse 7 1 else d
      let d := if !g.sampled then d
        else if bad then d.unsample core side g'
        else d.updCore (partnerOf core) fun c =>
          { c with shadow := c.shadow.map fun s => { s with steps := s.steps ++ [inp] } }
      if last ∧ win + 1 = o.windows then d.endGroup core side { g' with sampled := g.sampled && !bad } acc else d

def execArrayStep (core : Fin 6144) (err : List (Nat × W32)) (s : State) : Res :=
  s.on fun b => match b.dev.inProgress core with
    | none => b
    | some (side, g, x, o) =>
      if g.quad ≠ 0 ∨ g.sub ≠ 0 then b.stepAt core side g x o g.win err
      else
        let c := b.dev.core core
        let r := b.skipFrom o core g c g.win o.windows
        let g' := { g with win := r.2 }
        let b := b.onD fun d =>
          (d.setCore core (r.1.setBank side { r.1.bank side with grp := some g' })).count x.ctx .sparse 8 (r.2 - g.win)
        if r.2 = o.windows then b.onD fun d => d.endGroup core side g' (c.bank side).acc
        else b.stepAt core side g' x o r.2 err

/-! ### Drain (04 R117, R118, R130) -/

/-- Accumulators of a group with their element of the M x N result. -/
def grpEls (o : ArrOp) (mb nb : Nat) (acc : Tbl Elem) : List (Nat × Elem) :=
  acc.map fun e => ((16 * mb + e.1 / 32) * o.n + 32 * nb + e.1 % 32, e.2)

/-- Writes the values of a group to the destination, converted. -/
def Box.writeGroup (b : Box) (core : Nat) (a : Act) (x : Action) (o : ArrOp) (mb nb : Nat) (acc : Tbl Elem) : Box :=
  b.hWriteEls x.ctx a core o.hd o.df o.dof (o.m * o.n) ((grpEls o mb nb acc).map fun e =>
    (e.1, ofB32 o.df (b.dev.rnd x o.stoch o.key) e.1 e.2.v, e.2.poison))

/-- Conditions of the conversions of a drain. -/
def Box.drainConds (b : Box) (x : Action) (o : ArrOp) (mb nb : Nat) (acc : Tbl Elem) : List Nat :=
  (grpEls o mb nb acc).flatMap fun e =>
    if e.2.poison then [] else convConds o.df (b.dev.rnd x o.stoch o.key) e.1 e.2.v

/-- Mask bits and poison of a group's columns: S > THRESH or NaN in some row (08 R255). -/
def groupHits (thr : W32) (acc : Tbl Elem) : Nat × Nat :=
  (bitsNat ((List.range 32).map fun j => boolN (acc.any fun e =>
      e.1 % 32 == j && (B32.lt thr e.2.v || B32.isNan e.2.v))),
   bitsNat ((List.range 32).map fun j => boolN (acc.any fun e => e.1 % 32 == j && e.2.poison)))

/-- What the drained values of a group leave: the destination's elements, or the hits of a CHALK. -/
def Box.deliver (b : Box) (core : Nat) (x : Action) (st : Str) (part mb nb : Nat) (acc : Tbl Elem) : Box :=
  let o := arrOpOf x part
  if part = 2 then b.onD fun d => d.updCore core fun c => c.updCmd st x.id fun y =>
    { y with hits := put y.hits (mb * o.nBlocks + nb) (groupHits (chalkThresh x.desc) acc) }
  else b.writeGroup core ⟨mkCS core st, x.id⟩ x o mb nb acc

/-- The bank that drains next, in order of group completion (04 R134). -/
def Core.draining (c : Core) : Option Bool :=
  let ready := fun side => (c.bank side).grp.any (·.ended)
  if ready c.nextB then some c.nextB else if ready (!c.nextB) then some (!c.nextB) else none

def Box.drainBank (b : Box) (core : Nat) (side : Bool) (g : Grp) (x : Action) : Box :=
  let acc := ((b.dev.core core).bank side).acc
  let o := arrOpOf x g.chalk
  let conds := if g.chalk = 2 then [] else b.drainConds x o g.mb g.nb acc
  let b := b.deliver core x g.st g.chalk g.mb g.nb acc
  let b := b.onD fun d =>
    (d.ariths x core (Insn.opc x.w) o.df conds).updCore core fun c =>
      (c.setBank side .init).updCmd g.st g.id fun y => { y with drained := y.drained + 1 }
  b.finishCmd core g.st g.id

def execGroupDrain (core : Fin 6144) (s : State) : Res :=
  s.on fun b => match (b.dev.core core).draining with
    | none => b
    | some side => match ((b.dev.core core).bank side).grp with
      | none => b
      | some g => match b.dev.action ⟨mkCS core g.st, g.id⟩ with
        | none => b
        | some x => b.drainBank core side g x

/-! ### ARR and CHALK -/

/-- Enters a launched array command; M or N of 0 completes at once. -/
def Box.arrEnter (b : Box) (a : Act) (x : Action) : Box :=
  let o := arrParams x
  if ((b.dev.core a.cs.core).findCmd a.cs.st a.id).isSome then b
  else if o.m = 0 ∨ o.n = 0 then b.onD fun d => d.actDone a
  else b.onD fun d => d.updCore a.cs.core fun c => c.enqueue x a.cs.st 0

def execArr (a : Act) (s : State) : Res :=
  s.on fun b => b.gate a (isOp 0x50) (fun _ x => (arrParams x).reads a.cs.core) fun b x => b.arrEnter a x

/-- Enters a launched CHALK; with the layer's fallback flag at launch the mask is all ones, with M = 0 all zeros. -/
def Box.chalkEnter (b : Box) (a : Act) (x : Action) : Box :=
  let core : Nat := a.cs.core
  if ((b.dev.core core).findCmd a.cs.st a.id).isSome then b
  else if x.val = 1 then (b.maskWrite core a x fun _ => (true, false)).onD fun d => d.actDone a
  else if x.n0 = 0 then (b.maskWrite core a x fun _ => (false, false)).onD fun d => d.actDone a
  else b.onD fun d => d.updCore core fun c => c.enqueue x a.cs.st 1

def execChalk (a : Act) (s : State) : Res :=
  s.on fun b => b.gate a (isOp 0x51) (fun _ x => chalkReads a.cs.core x) fun b x => b.chalkEnter a x

end Sys2Proof.Machine
end

