-- ==== Sys2Proof/Machine/Movers.lean ====
section
/-! DEFINITION. COPY and XFER between handles, and LOAD and STORE between handles and tensors without compression (05 R156,
R157; 07 R211 to R213, R227). -/

namespace Sys2Proof.Machine

/-! ### COPY and XFER (05 R156, R157) -/

def cpAo (r : BitVec 256) : Nat := 64 * recN r 12 2
def cpDo (r : BitVec 256) : Nat := 64 * recN r 14 2

/-- The core whose handle HD receives the data. -/
def cpDest (core : Nat) (x : Action) : Nat := if isOp 0x59 x then x.n1 else core

def copyReads (core : Nat) (x : Action) : List Rng := if x.n0 = 0 then [] else [⟨core, Insn.ha x.w, cpAo x.desc, x.n0⟩]
def copyWrites (core : Nat) (x : Action) : List Rng :=
  if x.n0 = 0 then [] else [⟨cpDest core x, Insn.hd x.w, cpDo x.desc, x.n0⟩]

/-- The bytes move with their poison; a BYTES of 0 moves nothing. -/
def Box.copyRun (b : Box) (a : Act) (x : Action) : Box :=
  if x.n0 = 0 then b
  else b.hWrite x.ctx a (cpDest a.cs.core x) (Insn.hd x.w) (cpDo x.desc)
    (b.hBytes a.cs.core (Insn.ha x.w) (cpAo x.desc) x.n0)

def execCopy (a : Act) (s : State) (ecc : List ScrEcc := []) : Res :=
  s.on fun b => b.workRead a ecc (isOp 0x58) (fun _ x => copyReads a.cs.core x) fun b x => b.copyRun a x

def execXfer (a : Act) (s : State) (ecc : List ScrEcc := []) : Res :=
  s.on fun b => b.workRead a ecc (isOp 0x59) (fun _ x => copyReads a.cs.core x) fun b x => b.copyRun a x

/-! ### The LOAD and STORE record (07 R211) -/

def lsDesc (r : BitVec 256) : Nat := recN r 2 2
def lsHf (r : BitVec 256) : Nat := fld r 32 5
def lsRnd (r : BitVec 256) : Bool := bitOf r 37
def lsPlanes (r : BitVec 256) : Nat := fld r 40 4
def lsMid (r : BitVec 256) : Bool := bitOf r 44
def lsComp (r : BitVec 256) : Nat := fld r 48 2
def lsForm (r : BitVec 256) : Nat := fld r 50 3
def lsSide (r : BitVec 256) : Nat := recN r 16 2
def lsHo (r : BitVec 256) : Nat := 64 * recN r 18 2
def lsKey (r : BitVec 256) : Nat := recN r 20 4

/-- Elements of a slice per index of its outermost dimension. -/
def slicePer (d : Desc) : Nat := prod ((List.range (dRank d - 1)).map (dSize d))
/-- Elements of the slice of an action: START is n0, COUNT is n1. -/
def sliceCount (d : Desc) (x : Action) : Nat := x.n1 * slicePer d
/-- Their linear indices. -/
def sliceLins (d : Desc) (x : Action) : List Nat := span (x.n0 * slicePer d) (sliceCount d x)

/-! ### A translation that fails (07 R227) -/

/-- The core that issued a launched action. -/
def Dev.coreOf (d : Dev) (x : Action) : Nat :=
  (d.cores.find? fun e => strs.any fun st => (e.2.stream st).acts.any fun y => y.id == x.id && y.ctx == x.ctx && y.w == x.w
    && y.launch == x.launch).elim 0 (·.1)

/-- Event 0x200D, or 0x1007 for an access outside the companion grants; the context stops at once. -/
def Box.compatFault (b : Box) (x : Action) (die idx : Nat) (f : Int × Nat) : Box :=
  if f.2 ≤ 2 then (b.onD fun d => d.ev 0x200D die (some x.ctx) [idx, f.1, f.2]).faultStop x.ctx 0x200D
  else
    let y := (get? b.dev.compat (f.1.toNat / 2097152)).elim 0 fun p => p.target + f.1.toNat % 2097152
    (b.onD fun d => d.oncePerSec 0x1007 fun d => d.ev 0x1007 die (some x.ctx) [y, f.2 - 3, d.coreSlot (d.coreOf x)]).faultStop
      x.ctx 0x1007

/-! ### LOAD and STORE (07 R212, R213) -/

/-- Elements of a slice in the handle's format, with the conditions of the conversions. -/
def Box.loadEls (b : Box) (t : Tens) (x : Action) : List ((Nat × Bool) × List Nat) :=
  let r := x.desc
  let rnd := b.dev.rnd x (lsRnd r) (lsKey r)
  let f := lsHf r
  ((List.range (sliceCount t.d x)).zip (sliceLins t.d x)).map fun e =>
    let v := b.tReadTop t (lsPlanes r) (lsMid r) e.2
    let y := toB32 (dFmt t.d) v.1
    let idx := handleIndex f (lsHo r / 64) e.1
    ((ofB32 f rnd idx y, v.2), if v.2 then [] else convConds f rnd idx y)

def Box.loadPlain (b : Box) (a : Act) (x : Action) (t : Tens) : Box :=
  let core : Nat := a.cs.core
  let r := x.desc
  match b.dev.tFault t false (sliceLins t.d x) (lsPlanes r) with
  | some f => b.compatFault x (boltOf core) (lsDesc r) f
  | none =>
    let els := b.loadEls t x
    let b := b.hPutEls x.ctx a core (Insn.hd x.w) (lsHf r) (lsHo r) (els.map (·.1))
    b.onD fun d => d.ariths x core 0x5A (lsHf r) (els.flatMap (·.2))

/-- Elements of a handle in the descriptor's format: linear index, code, poison, and the conditions. -/
def Box.storeEls (b : Box) (core : Nat) (t : Tens) (x : Action) : List ((Nat × Nat × Bool) × List Nat) :=
  let r := x.desc
  let rnd := b.dev.rnd x (lsRnd r) (lsKey r)
  let f := dFmt t.d
  ((b.hVals core (Insn.ha x.w) (lsHf r) (lsHo r) (sliceCount t.d x)).zip (sliceLins t.d x)).map fun e =>
    let idx := dGlobalIndex t.d e.2
    ((e.2, ofB32 f rnd idx e.1.1, e.1.2), if e.1.2 then [] else convConds f rnd idx e.1.1)

def Box.storePlain (b : Box) (a : Act) (x : Action) (t : Tens) : Box :=
  let core : Nat := a.cs.core
  let r := x.desc
  match b.dev.tFault t true (sliceLins t.d x) with
  | some f => b.compatFault x (boltOf core) (lsDesc r) f
  | none =>
    let els := b.storeEls core t x
    let b := b.onD fun d => d.ariths x core 0x5B (dFmt t.d) (els.flatMap (·.2))
    b.engPut x.ctx (boltOf core) (b.dev.coreSlot core) t (els.map (·.1))

end Sys2Proof.Machine
end

