-- ==== Sys2Proof/Machine/Compress.lean ====
section
/-! DEFINITION. Compressed forms in memory: N:M groups with side words and overflow list, bitmap-8 segments; the LOAD that a
GME carries and the STORE that a Serger compresses (07 R214; 08 R234, R237 to R250). -/

namespace Sys2Proof.Machine

/-! ### Elements one after another from a descriptor's base -/

/-- Element i of n elements that stand one after another, or in planes, from `at'`; of planes, the top `p` with a fill. -/
def Box.lRead (b : Box) (t : Tens) (at' n p : Nat) (mid : Bool) (i : Nat) : Nat × Bool :=
  if dPlanar t.d then readTop (fun o => b.tByte t (at' + o)) (dFmt t.d) n p mid i
  else readEl (fun o => b.tByte t (at' + o)) (dFmt t.d) n i false

/-- The bytes that hold such an element. -/
def Tens.lAddrs (t : Tens) (at' n p i : Nat) : List Int :=
  if dPlanar t.d then (topBits (dFmt t.d) p).map fun k => ((at' + planeByte (dFmt t.d) n i k : Nat) : Int)
  else (span (at' + i * dEb t.d) (dEb t.d)).map fun a => (a : Int)

/-- The padding bits of n elements in planes, written as 0 (03 R104). -/
def Box.lPad (b : Box) (t : Tens) (at' n : Nat) (o : Overlay) : Overlay :=
  (List.range (fmtBits (dFmt t.d))).foldl (fun o k => (padBits n).foldl (fun o p =>
    let a := b.dev.xlate t (at' + k * planeSize n + p.1)
    setBit o a p.2 (b.store.mem.byte a) 0 false) o) o

def Box.lPut (b : Box) (t : Tens) (at' n : Nat) (o : Overlay) (i v : Nat) (bad : Bool) : Overlay :=
  if dPlanar t.d then
    (List.range (fmtBits (dFmt t.d))).foldl (fun o k =>
      let a := b.dev.xlate t (at' + planeByte (dFmt t.d) n i k)
      setBit o a (i % 8) (b.store.mem.byte a) (v / 2 ^ k) bad) o
  else
    ((span (at' + i * dEb t.d) (dEb t.d)).zip (leBytes (dEb t.d) v)).foldl (fun o x => put o (b.dev.xlate t x.1) (x.2, bad)) o

/-! ### Geometry (08 R237 to R239, R244, R248) -/

/-- A compressed tensor: its data, N:M form, side base and side bytes. -/
structure Comp where
  t : Tens
  form : Nat
  side : Nat
  sideLen : Nat

namespace Comp

def m (c : Comp) : Nat := if c.form ≤ 3 then 4 else 8
def n (c : Comp) : Nat := if c.form = 1 ∨ c.form = 4 then 1 else if c.form = 2 ∨ c.form = 5 then 2 else 4
def codeW (c : Comp) : Nat := if c.m = 4 then 2 else 3
/-- Inner length SIZE0, and rows. -/
def inner (c : Comp) : Nat := dSize c.t.d 0
def rows (c : Comp) : Nat := prod ((span 1 (dRank c.t.d - 1)).map (dSize c.t.d))
/-- Groups of a row, and compressed elements of the tensor. -/
def g (c : Comp) : Nat := ceilDiv c.inner c.m
def kept (c : Comp) : Nat := c.rows * c.g * c.n
/-- Bytes of side words per row. -/
def rs (c : Comp) : Nat := ceilTo 64 (2 * c.g)
def wordAt (c : Comp) (r g : Nat) : Nat := c.side + c.rs * r + 2 * g
/-- The overflow list: header, and how many entries fit. -/
def listAt (c : Comp) : Nat := c.side + c.rs * c.rows
def capacity (c : Comp) : Nat := (c.sideLen - c.rs * c.rows - 64) / 16
/-- Bytes per row, segments per row and side line of bitmap-8. -/
def rb (c : Comp) : Nat := ceilTo 16 (ceilDiv (c.inner * fmtBits (dFmt c.t.d)) 8)
def sg (c : Comp) : Nat := ceilDiv c.inner 256
def lineAt (c : Comp) (r s : Nat) : Nat := c.side + 64 * (r * c.sg + s)
def rowAt (c : Comp) (r : Nat) : Nat := c.t.base + r * c.rb
/-- Bytes of `k` packed elements. -/
def packed (c : Comp) (k : Nat) : Nat :=
  if dPlanar c.t.d then fmtBits (dFmt c.t.d) * ceilDiv k 8 else k * dEb c.t.d

/-- Bytes of the top `p` planes of `k` packed elements. -/
def packedTop (c : Comp) (p k : Nat) : Nat :=
  if dPlanar c.t.d then (topBits (dFmt c.t.d) p).length * ceilDiv k 8 else k * dEb c.t.d

/-- Rows of a slice, and the inner indices it takes of each: all of them, unless the tensor has RANK 1 (log 26). -/
def sliceRows (c : Comp) (x : Action) : List Nat :=
  if dRank c.t.d = 1 then [0]
  else
    let per := prod ((span 1 (dRank c.t.d - 2)).map (dSize c.t.d))
    span (x.n0 * per) (x.n1 * per)
def sliceLo (c : Comp) (x : Action) : Nat := if dRank c.t.d = 1 then x.n0 else 0
def sliceLen (c : Comp) (x : Action) : Nat := if dRank c.t.d = 1 then x.n1 else c.inner
/-- Groups that the slice touches. -/
def sliceGroups (c : Comp) (x : Action) : List Nat :=
  span (c.sliceLo x / c.m) (ceilDiv (c.sliceLo x + c.sliceLen x) c.m - c.sliceLo x / c.m)

/-- Bytes of the handle that the slice takes (08 R246, R250). -/
def handleBytes (c : Comp) (x : Action) (f : Nat) (bitmap : Bool) : Nat :=
  let r := (c.sliceRows x).length
  if bitmap then ceilTo 64 (hBytesN f (r * c.sliceLen x)) + r * ceilDiv (c.sliceLen x) 8
  else
    let g := (c.sliceGroups x).length
    ceilTo 64 (hBytesN f (r * g * c.n)) + 2 * (r * g)
where
  hBytesN (f n : Nat) : Nat := storageBytes f n (fmtPlanar f)

end Comp

/-- The compressed tensor that a LOAD or STORE record names. -/
def Dev.comp (d : Dev) (r : BitVec 256) : Option Comp :=
  match d.tens (lsDesc r), d.native (lsSide r) with
  | some t, some s => some ⟨t, lsForm r, dBase s, dCount s⟩
  | _, _ => none

/-- GME or Serger of an action: Spool and number; the key is 16 x Spool + number. -/
def unitSpool (key : Nat) : Nat := key / 16
def unitNo (key : Nat) : Nat := key % 16
def gmeOf (key : Nat) : Int := gmeSlot (unitSpool key) (unitNo key)
def sergerOf (key : Nat) : Int := sergerSlot (unitSpool key) (unitNo key)
def unitDie (key : Nat) : Nat := dieSpool (unitSpool key)

/-- Conditions raised on a GME or Serger. -/
def Dev.unitConds (d : Dev) (x : Action) (eng : Int) (fmt : Nat) (codes : List Nat) : Dev :=
  codes.foldl (fun d c => d.arith x.ctx c (unitDie x.unit) eng x.index (Insn.opc x.w) fmt) d

/-! ### Side words (08 R239, R240) -/

def wordCount (w : Nat) : Nat := w % 8
def wordCode (c : Comp) (w s : Nat) : Nat := w / 2 ^ (3 + c.codeW * s) % 2 ^ c.codeW
def ascending : List Nat → Bool
  | a :: b :: t => a < b && ascending (b :: t)
  | _ => true

/-- What is wrong with a side word: 0 count, 1 order, 2 reserved. -/
def wordFault (c : Comp) (w : Nat) : Option Nat :=
  if c.n < wordCount w then some 0
  else if !ascending ((List.range (wordCount w)).map (wordCode c w)) then some 1
  else if w / 2 ^ (3 + c.codeW * c.n) != 0 then some 2
  else none

/-- The side word of a group: positions of its slots. -/
def wordOf (c : Comp) (codes : List Nat) : Nat :=
  codes.length + ((List.range codes.length).zip codes).foldl (fun a e => a + e.2 * 2 ^ (3 + c.codeW * e.1)) 0

/-! ### A group or segment that is malformed (08 R246) -/

/-- The content of a range of a handle becomes undefined. -/
def Box.undefHandle (b : Box) (core h off len : Nat) : Box :=
  match (b.dev.core core).handle h with
  | none => b
  | some x =>
    if x.spilled then b.onS fun s => s.undefMem (x.backing + off) len
    else b.onS fun s => (linesOf off len).foldl (fun s ln =>
      let lo := max off (ln * 64)
      s.undefScr (x.scr core lo) (min (ln * 64 + 64) (off + len) - lo)) s

/-- A malformed group or segment that is counted: event 0xA004 at the first. -/
def Dev.malformed (d : Dev) (x : Action) (r g kind : Nat) : Dev :=
  d.condition x.ctx .sparse 3 0xA004 (unitDie x.unit) (gmeOf x.unit) [gmeOf x.unit, lsDesc x.desc, r, g, kind]

/-- A fault of a LOAD on a malformed group with STRICT: event 0xA005, the handle's range undefined, the context stops. -/
def Box.groupFault (b : Box) (core : Nat) (x : Action) (len r g kind : Nat) : Box :=
  let b := b.onD fun d => d.ev 0xA005 (unitDie x.unit) (some x.ctx) [gmeOf x.unit, lsDesc x.desc, r, g, kind]
  (b.undefHandle core (Insn.hd x.w) (lsHo x.desc) len).faultStop x.ctx 0xA005

/-! ### LOAD in N:M form (08 R246) -/

/-- A group as a LOAD finds it: slot codes with poison, side word with poison, and what is wrong with it. -/
structure GroupIn where
  r : Nat
  g : Nat
  slots : List (Nat × Bool)
  word : Nat
  bad : Bool
  wrong : Option Nat

def Box.groupIn (b : Box) (c : Comp) (p : Nat) (mid : Bool) (r g : Nat) : GroupIn :=
  let l := b.store.rdMem (c.wordAt r g) 2
  let w := leNat (bytesOf l)
  let bad := anyBad l
  { r := r, g := g, word := w, bad := bad, wrong := if bad then none else wordFault c w
    slots := (List.range c.n).map fun s =>
      let e := b.lRead c.t c.t.base c.kept p mid ((r * c.g + g) * c.n + s)
      (e.1, e.2 || bad) }

/-- The group as it goes to the handle: a malformed one as zeros. -/
def GroupIn.clean (g : GroupIn) : GroupIn :=
  if g.wrong.isSome then { g with slots := g.slots.map fun _ => (0, false), word := 0 } else g

/-- Writes the slots, then from the next 64-byte boundary the side words. -/
def Box.loadGroups (b : Box) (a : Act) (x : Action) (c : Comp) (gs : List GroupIn) : Box :=
  let core : Nat := a.cs.core
  let r := x.desc
  let f := lsHf r
  let rnd := b.dev.rnd x (lsRnd r) (lsKey r)
  let src := gs.flatMap (·.slots)
  let vals := ((List.range src.length).zip src).map fun e =>
    let y := toB32 (dFmt c.t.d) e.2.1
    let idx := handleIndex f (lsHo r / 64) e.1
    ((ofB32 f rnd idx y, e.2.2), if e.2.2 then [] else convConds f rnd idx y)
  let b := b.hPutEls x.ctx a core (Insn.hd x.w) f (lsHo r) (vals.map (·.1))
  let b := b.hWrite x.ctx a core (Insn.hd x.w) (lsHo r + ceilTo 64 (storageBytes f src.length (fmtPlanar f)))
    (gs.flatMap fun g => (leBytes 2 g.word).map fun y => (y, g.bad))
  b.onD fun d => d.unitConds x (gmeOf x.unit) f (vals.flatMap (·.2))

def Box.loadNM (b : Box) (a : Act) (x : Action) (c : Comp) : Box :=
  let gs := (c.sliceRows x).flatMap fun r => (c.sliceGroups x).map fun g =>
    b.groupIn c (lsPlanes x.desc) (lsMid x.desc) r g
  match (if dStrict c.t.d then gs.find? (·.wrong.isSome) else none) with
  | some g => b.groupFault a.cs.core x (c.handleBytes x (lsHf x.desc) false) g.r g.g (g.wrong.getD 0)
  | none =>
    let b := b.onD fun d => gs.foldl (fun d g => g.wrong.elim d fun k => d.malformed x g.r g.g k) d
    b.loadGroups a x c (gs.map GroupIn.clean)

/-! ### LOAD in bitmap-8 form (08 R248 to R250) -/

/-- A segment as a LOAD finds it. -/
structure SegIn where
  r : Nat
  s : Nat
  bits : Nat
  els : List (Nat × Bool)
  bad : Bool
  wrong : Option Nat
  /-- The bytes of packed data that the LOAD reads. -/
  addrs : List Int

/-- Elements of segment s of a row. -/
def Comp.segLen (c : Comp) (s : Nat) : Nat := min 256 (c.inner - 256 * s)

/-- Packed element i of k at an address of the row region; of planes, the top `p` with a fill. -/
def Box.packedEl (b : Box) (c : Comp) (p : Nat) (mid : Bool) (at' k i : Nat) : Nat × Bool :=
  let f := dFmt c.t.d
  if dPlanar c.t.d then
    let v := (topBits f p).foldl (fun (a : Nat × Bool) j =>
      let x := b.tByte c.t (at' + (fmtBits f - 1 - j) * ceilDiv k 8 + i / 8)
      (a.1 + (x.1.toNat / 2 ^ (i % 8) % 2) * 2 ^ j, a.2 || x.2)) (0, false)
    (if p = 0 then v.1 else fillPlanes f p mid v.1, v.2)
  else
    let l := (span (at' + i * dEb c.t.d) (dEb c.t.d)).map (b.tByte c.t)
    (leNat (bytesOf l), anyBad l)

def Box.segIn (b : Box) (c : Comp) (p : Nat) (mid : Bool) (r s : Nat) : SegIn :=
  let l := b.store.rdMem (c.lineAt r s) 64
  let y := bytesOf l
  let bad := anyBad l
  let bits := leAt y 0 32
  let off := leAt y 32 4
  let nnz := leAt y 36 2
  let pos := (List.range (c.segLen s)).filter bits.testBit
  let ones := ((List.range 256).filter bits.testBit).length
  let wrong : Option Nat :=
    if bad then none
    else if nnz ≠ ones ∨ pos.length ≠ ones then some 3
    else if leAt y 38 26 ≠ 0 then some 2
    else if c.rb < 16 * off + ceilTo 16 (c.packed nnz) then some 4
    else none
  { r := r, s := s, bits := bits, bad := bad, wrong := wrong
    addrs := if wrong.isSome then [] else (span (c.rowAt r + 16 * off) (c.packedTop p nnz)).map fun a => (a : Int)
    els := (List.range (c.segLen s)).map fun k =>
      if bits.testBit k then
        let e := b.packedEl c p mid (c.rowAt r + 16 * off) nnz ((pos.takeWhile (· < k)).length)
        (e.1, e.2 || bad)
      else (0, bad) }

def SegIn.clean (g : SegIn) : SegIn :=
  if g.wrong.isSome then { g with els := g.els.map fun _ => (0, false), bits := 0 } else g

/-- Bitmap bytes of a row's slice. -/
def bitmapOf (l : List (Bool × Bool)) : List PB :=
  (pieces 8 l).map fun q => (BitVec.ofNat 8 (bitsNat (q.map fun e => boolN e.1)), q.any (·.2))

/-- Writes the dense rows, then from the next 64-byte boundary the bitmap bytes. -/
def Box.loadSegs (b : Box) (a : Act) (x : Action) (c : Comp) (rows : List (List SegIn)) : Box :=
  let core : Nat := a.cs.core
  let r := x.desc
  let f := lsHf r
  let rnd := b.dev.rnd x (lsRnd r) (lsKey r)
  let cut := fun {α : Type} (l : List α) => (l.drop (c.sliceLo x)).take (c.sliceLen x)
  let src := rows.flatMap fun segs => cut (segs.flatMap (·.els))
  let vals := ((List.range src.length).zip src).map fun e =>
    let y := toB32 (dFmt c.t.d) e.2.1
    let idx := handleIndex f (lsHo r / 64) e.1
    ((ofB32 f rnd idx y, e.2.2), if e.2.2 then [] else convConds f rnd idx y)
  let maps := rows.flatMap fun segs =>
    bitmapOf (cut (segs.flatMap fun g => (List.range (c.segLen g.s)).map fun p => (g.bits.testBit p, g.bad)))
  let b := b.hPutEls x.ctx a core (Insn.hd x.w) f (lsHo r) (vals.map (·.1))
  let b := b.hWrite x.ctx a core (Insn.hd x.w) (lsHo r + ceilTo 64 (storageBytes f src.length (fmtPlanar f))) maps
  b.onD fun d => d.unitConds x (gmeOf x.unit) f (vals.flatMap (·.2))

/-- The segments of a slice, row by row. -/
def Box.segsIn (b : Box) (x : Action) (c : Comp) : List (List SegIn) :=
  (c.sliceRows x).map fun r => (List.range c.sg).map fun s => b.segIn c (lsPlanes x.desc) (lsMid x.desc) r s

def Box.loadBitmap (b : Box) (a : Act) (x : Action) (c : Comp) : Box :=
  let rows := b.segsIn x c
  let all := rows.flatMap id
  match (if dStrict c.t.d then all.find? (·.wrong.isSome) else none) with
  | some g => b.groupFault a.cs.core x (c.handleBytes x (lsHf x.desc) true) g.r g.s (g.wrong.getD 0)
  | none =>
    let b := b.onD fun d => all.foldl (fun d g => g.wrong.elim d fun k => d.malformed x g.r g.s k) d
    b.loadSegs a x c (rows.map fun l => l.map SegIn.clean)

/-! ### STORE through a Serger (08 R234, R241 to R245, R249) -/

/-- The exponent field of a KF code is 0: the Serger takes the element as zero. -/
def sergerZero (f v : Nat) : Bool :=
  if f = 1 then v / 128 % 256 == 0 else if f = 2 then v / 2 % 64 == 0 else v % 8 == 0

/-- An element of a row: inner index, code, poison. -/
abbrev RowEl := Nat × Nat × Bool

/-- Rank of a magnitude: NaN above infinity above every finite value. -/
def magRank (f v : Nat) : Nat := B32.mag (toB32 f v)

/-- The k elements of largest magnitude, equal ones by lower position. -/
def largest (f : Nat) (l : List RowEl) : Nat → List RowEl
  | 0 => []
  | k + 1 =>
    let prev := largest f l k
    let open' := l.filter fun e => !(prev.any fun y => y.1 == e.1)
    match open' with
    | [] => prev
    | y :: t => prev ++ [t.foldl (fun m e => if magRank f m.2.1 < magRank f e.2.1 then e else m) y]

/-- Which non-zeros of a group are kept, in ascending position, and which are surplus. -/
def keepOf (c : Comp) (nz : List RowEl) : List RowEl × List RowEl :=
  if nz.length ≤ c.n then (nz, [])
  else if dExact c.t.d then (nz.take c.n, nz.drop c.n)
  else
    let k := largest (dFmt c.t.d) nz c.n
    (nz.filter fun e => k.any fun y => y.1 == e.1, nz.filter fun e => !(k.any fun y => y.1 == e.1))

/-- Appends a surplus element to the overflow list, or counts it as lost and sets FULL (08 R243 to R245). -/
def Box.listSurplus (b : Box) (x : Action) (c : Comp) (r : Nat) (e : RowEl) : Box × Bool :=
  let die := unitDie x.unit
  let m := unitSpool x.unit
  let used := leNat (bytesOf (b.store.rdMem c.listAt 8))
  if used < c.capacity then
    let ent := leBytes 4 r ++ leBytes 4 e.1 ++ leBytes 4 (toB32 (dFmt c.t.d) e.2.1).toNat ++ zeros 4
    let b := b.wrDev (c.listAt + 64 + 16 * used) (ent.map fun y => (y, e.2.2))
    let b := b.wrClean c.listAt (leBytes 8 (used + 1))
    (b.onD fun d => d.condition x.ctx .sparse 1 0xA002 die (sergerOf x.unit) [m, sergerOf x.unit, lsDesc x.desc, r, e.1],
      false)
  else
    let fl := ((b.store.rdMem (c.listAt + 16) 1).head?).getD (0, false)
    let b := b.wrClean (c.listAt + 16) [fl.1 ||| 1]
    if dStrict c.t.d then (b.onD fun d => d.count x.ctx .sparse 2 1, true)
    else (b.onD fun d => d.condition x.ctx .sparse 2 0xA003 die (sergerOf x.unit)
      [m, sergerOf x.unit, lsSide x.desc, c.capacity], false)

/-- A lost entry with STRICT: event 0xA005, the rows of the store undefined, the context stops (08 R245; kind 5). -/
def Box.storeFault (b : Box) (x : Action) (c : Comp) (r g : Nat) : Box :=
  let b := b.onD fun d => d.ev 0xA005 (unitDie x.unit) (some x.ctx) [sergerOf x.unit, lsDesc x.desc, r, g, 5]
  let rows := c.sliceRows x
  let n := b.store.free
  let els := (rows.flatMap fun r => span (r * c.g * c.n) (c.g * c.n)).map fun i =>
    (i, (Config.freeByte n i).toNat + 256 * (Config.freeByte n (i + 2 ^ 64)).toNat)
  let o := els.foldl (fun o e => b.lPut c.t c.t.base c.kept o e.1 (e.2 % 2 ^ fmtBits (dFmt c.t.d)) false) []
  let b := (b.wrOverlay o).onS fun s => { s with free := s.free + 1 }
  let b := b.onS fun s => rows.foldl (fun s r => s.undefMem (c.wordAt r 0) (2 * c.g)) s
  b.faultStop x.ctx 0xA005

/-- One group of a store: its slots and side word, prune counts and overflow entries; whether an entry was lost with
STRICT. -/
def Box.storeGroup (b : Box) (x : Action) (c : Comp) (r g : Nat) (row : List RowEl) : Box × Bool :=
  let f := dFmt c.t.d
  let mine := row.filter fun e => e.1 / c.m == g
  let nz := mine.filter fun e => !sergerZero f e.2.1
  let bad := mine.any (·.2.2)
  let k := keepOf c nz
  let slots := (List.range c.n).map fun s => (k.1[s]?).elim 0 (·.2.1)
  let o := ((List.range c.n).zip slots).foldl (fun o e =>
    b.lPut c.t c.t.base c.kept o ((r * c.g + g) * c.n + e.1) e.2 bad) []
  let o := if dPlanar c.t.d ∧ (r * c.g + g + 1) * c.n = c.kept then b.lPad c.t c.t.base c.kept o else o
  let b := b.engOverlay x.ctx (unitDie x.unit) (sergerOf x.unit) o
  let b := b.engWrite x.ctx (unitDie x.unit) (sergerOf x.unit) (c.wordAt r g)
    ((leBytes 2 (wordOf c (k.1.map fun e => e.1 % c.m))).map fun y => (y, bad))
  if dExact c.t.d then k.2.foldl (fun y e => if y.2 then y else y.1.listSurplus x c r e) (b, false)
  else (b.onD fun d => k.2.foldl (fun d _ => d.condition x.ctx .sparse 0 0xA001 (unitDie x.unit) (sergerOf x.unit)
    [unitSpool x.unit, sergerOf x.unit, lsDesc x.desc, r, g]) d, false)

/-- The elements of the slice's rows in the descriptor's format, by row, with the conditions of the conversions. -/
def Box.storeRows (b : Box) (core : Nat) (x : Action) (c : Comp) : List (Nat × List RowEl) × List Nat :=
  let r := x.desc
  let rows := c.sliceRows x
  let f := dFmt c.t.d
  let rnd := b.dev.rnd x (lsRnd r) (lsKey r)
  let vals := b.hVals core (Insn.ha x.w) (lsHf r) (lsHo r) (rows.length * c.sliceLen x)
  let out := ((List.range rows.length).zip rows).map fun e =>
    (e.2, ((List.range (c.sliceLen x)).zip ((vals.drop (e.1 * c.sliceLen x)).take (c.sliceLen x))).map fun y =>
      let i := c.sliceLo x + y.1
      let idx := dGlobalIndex c.t.d (e.2 * c.inner + i)
      ((i, ofB32 f rnd idx y.2.1, y.2.2), if y.2.2 then [] else convConds f rnd idx y.2.1))
  (out.map fun e => (e.1, e.2.map (·.1)), out.flatMap fun e => e.2.flatMap (·.2))

/-- Groups one after another until an entry is lost with STRICT. -/
def Box.storeGroups (b : Box) (x : Action) (c : Comp) : List (Nat × Nat × List RowEl) → Box
  | [] => b
  | (r, g, row) :: t =>
    let y := b.storeGroup x c r g row
    if y.2 then y.1.storeFault x c r g else y.1.storeGroups x c t

def Box.storeNM (b : Box) (core : Nat) (x : Action) (c : Comp) : Box :=
  let y := b.storeRows core x c
  let b := b.onD fun d => d.unitConds x (sergerOf x.unit) (dFmt c.t.d) y.2
  b.storeGroups x c (y.1.flatMap fun e => (c.sliceGroups x).map fun g => (e.1, g, e.2))

/-- Packed bytes of a segment's non-zeros, padded to a multiple of 16. -/
def packedBytes (c : Comp) (l : List Nat) : List Byte :=
  let f := dFmt c.t.d
  let raw :=
    if dPlanar c.t.d then
      (List.range (fmtBits f)).flatMap fun j => (pieces 8 l).map fun q =>
        BitVec.ofNat 8 (bitsNat (q.map fun v => v / 2 ^ (fmtBits f - 1 - j) % 2))
    else l.flatMap fun v => leBytes (dEb c.t.d) v
  padTo (ceilTo 16 raw.length) raw

/-- The segments of a row from segment `s` on: side line and packed data, each after the padded end of the one before. -/
def Box.storeSegs (b : Box) (x : Action) (c : Comp) (r : Nat) (row : List RowEl) (s off : Nat) : Nat → Box
  | 0 => b
  | k + 1 =>
    let f := dFmt c.t.d
    let mine := row.filter fun e => e.1 / 256 == s
    let nz := mine.filter fun e => !sergerZero f e.2.1
    let bad := mine.any (·.2.2)
    let data := packedBytes c (nz.map (·.2.1))
    let bits := nz.foldl (fun a e => a + 2 ^ (e.1 % 256)) 0
    let line := leBytes 32 bits ++ leBytes 4 off ++ leBytes 2 nz.length ++ zeros 26
    let eng := sergerOf x.unit
    let b := b.engWrite x.ctx (unitDie x.unit) eng (c.lineAt r s) (line.map fun y => (y, bad))
    let o := ((span (c.rowAt r + 16 * off) data.length).zip data).foldl (fun o e => put o (b.dev.xlate c.t e.1) (e.2, bad)) []
    (b.engOverlay x.ctx (unitDie x.unit) eng o).storeSegs x c r row (s + 1) (off + data.length / 16) k

def Box.storeBitmap (b : Box) (core : Nat) (x : Action) (c : Comp) : Box :=
  let y := b.storeRows core x c
  let b := b.onD fun d => d.unitConds x (sergerOf x.unit) (dFmt c.t.d) y.2
  y.1.foldl (fun b e => b.storeSegs x c e.1 e.2 0 0 c.sg) b

/-! ### LOAD and STORE -/

/-- The data area of a compressed tensor. -/
def Comp.area (c : Comp) (bitmap : Bool) : Nat :=
  if bitmap then c.rows * c.rb else storageBytes (dFmt c.t.d) c.kept (dPlanar c.t.d)

/-- The bytes of the slots of a slice's groups in N:M form, of their top `p` planes. -/
def Comp.slotAddrs (c : Comp) (x : Action) (p : Nat) : List Int :=
  (c.sliceRows x).flatMap fun r => (c.sliceGroups x).flatMap fun g => (span ((r * c.g + g) * c.n) c.n).flatMap
    (c.t.lAddrs c.t.base c.kept p)

/-- The bytes of packed data that a STORE in bitmap-8 form writes for a row: its segments' data one after another. -/
def Comp.packedAddrs (c : Comp) (r : Nat) (row : List RowEl) : List Int :=
  (span (c.rowAt r) (sumN ((List.range c.sg).map fun s =>
    (packedBytes c ((row.filter fun e => e.1 / 256 == s && !sergerZero (dFmt c.t.d) e.2.1).map (·.2.1))).length))).map
      fun a => (a : Int)

/-- The bytes of the tensor that a compressed LOAD reads or STORE writes. -/
def Box.compAddrs (b : Box) (core : Nat) (x : Action) (c : Comp) (write : Bool) : List Int :=
  if lsComp x.desc = 1 then c.slotAddrs x (if write then 0 else lsPlanes x.desc)
  else if write then ((b.storeRows core x c).1).flatMap fun e => c.packedAddrs e.1 e.2
  else (b.segsIn x c).flatMap fun l => l.flatMap (·.addrs)

/-- Bytes of the handle that an action's slice takes. -/
def Dev.lsBytes (d : Dev) (x : Action) : Nat :=
  let r := x.desc
  if x.n1 = 0 then 0
  else if lsComp r = 0 then (d.tens (lsDesc r)).elim 0 fun t => storageBytes (lsHf r) (sliceCount t.d x) (fmtPlanar (lsHf r))
  else match d.comp r with
    | none => 0
    | some c =>
      if isOp 0x5A x then c.handleBytes x (lsHf r) (lsComp r == 2)
      else storageBytes (lsHf r) ((c.sliceRows x).length * c.sliceLen x) (fmtPlanar (lsHf r))

def Dev.lsReads (d : Dev) (core : Nat) (x : Action) : List Rng :=
  if isOp 0x5B x then [⟨core, Insn.ha x.w, lsHo x.desc, d.lsBytes x⟩] else []
def Dev.lsWrites (d : Dev) (core : Nat) (x : Action) : List Rng :=
  if isOp 0x5A x then [⟨core, Insn.hd x.w, lsHo x.desc, d.lsBytes x⟩] else []

/-- First launched entry of an engine's queue (08 R231). -/
def EngQ.turn (q : EngQ) (a : Act) : Bool := (q.q.find? (·.launched)).any (·.a == a)
def EngQ.leave (q : EngQ) (a : Act) : EngQ := { q with q := q.q.filter (·.a != a) }

def Dev.gmeTurn (d : Dev) (a : Act) (key : Nat) : Bool := (getD d.gmes key .init).turn a
/-- A command leaves its queue; what ran ahead for it is used or discarded (02 R78). -/
def Dev.gmeLeave (d : Dev) (a : Act) (key : Nat) : Dev :=
  { d with gmes := upd d.gmes key .init fun q => q.leave a, ahead := d.ahead.filter (·.act != a) }

/-- A compressed LOAD is the GME's turn; others need no engine. -/
def Dev.loadTurn (d : Dev) (a : Act) (x : Action) : Bool := lsComp x.desc == 0 || d.gmeTurn a x.unit

def Box.loadRun (b : Box) (a : Act) (x : Action) : Box :=
  let r := x.desc
  let done := fun (b : Box) => if lsComp r = 0 then b else b.onD fun d => d.gmeLeave a x.unit
  if x.n1 = 0 then done b
  else if lsComp r = 0 then
    match b.dev.tens (lsDesc r) with
    | some t => b.loadPlain a x t
    | none => b
  else match b.dev.comp r with
    | none => b
    | some c =>
      match b.dev.bytesFault c.t false (b.compAddrs a.cs.core x c false) with
      | some f => b.compatFault x (unitDie x.unit) (lsDesc r) f
      | none => done (if lsComp r = 1 then b.loadNM a x c else b.loadBitmap a x c)

def execLoad (a : Act) (s : State) : Res :=
  s.on fun b => b.work a (fun x => isOp 0x5A x && b.dev.loadTurn a x) (fun _ _ => []) fun b x => b.loadRun a x

def Box.storeRun (b : Box) (a : Act) (x : Action) : Box :=
  let r := x.desc
  if x.n1 = 0 then b
  else if lsComp r = 0 then
    match b.dev.tens (lsDesc r) with
    | some t => b.storePlain a x t
    | none => b
  else match b.dev.comp r with
    | none => b
    | some c =>
      match b.dev.bytesFault c.t true (b.compAddrs a.cs.core x c true) with
      | some f => b.compatFault x (unitDie x.unit) (lsDesc r) f
      | none => if lsComp r = 1 then b.storeNM a.cs.core x c else b.storeBitmap a.cs.core x c

def execStore (a : Act) (s : State) (ecc : List ScrEcc := []) : Res :=
  s.on fun b => b.workRead a ecc (isOp 0x5B) (fun d x => d.lsReads a.cs.core x) fun b x => b.storeRun a x

end Sys2Proof.Machine
end

