-- ==== Sys2Proof/Machine/Duplicate.lean ====
section
/-! DEFINITION. Duplicate execution: shadow groups, verdicts, abandoned samples and idle checks (04 R138 to R145; 15 R443,
R444, R448, R449). -/

namespace Sys2Proof.Machine

/-- A shadow group run from its region: the accumulators at its end. -/
def Shadow.run (s : Shadow) (err : List (Nat × W32)) : Tbl Elem :=
  upset (s.steps.foldl (fun acc x => (stepBank acc x).1) s.init) err

/-- The 32 bits of every value below the edges. -/
def valuesOf (t : Tbl Elem) : List (Nat × W32) := t.map fun e => (e.1, e.2.v)

/-! ### The partner's and the referee's run (04 R141, R143) -/

/-- Runs the shadow work of a core whose array group can start a group: its own shadow group first, else the group it
referees. -/
def Dev.runShadow (d : Dev) (core : Nat) (err : List (Nat × W32)) : Dev :=
  let c := d.core core
  if !c.canStart then d
  else match c.shadow.filter (·.stage == 1) with
    | some s => d.setCore core { c with shadow := some { s with qv := s.run err, stage := 2 }, lastGroup := d.now }
    | none => match d.refereeWork core with
      | none => d
      | some p =>
        let d := d.updCore core fun c => { c with lastGroup := d.now }
        d.updCore p fun c => { c with shadow := c.shadow.map fun s => { s with rv := s.run err, stage := 4 } }

/-- The shadow work that `runShadow` runs. -/
def Dev.shadowSource (d : Dev) (core : Nat) : Option Shadow :=
  if !(d.core core).canStart then none
  else match (d.core core).shadow.filter (·.stage == 1) with
    | some s => some s
    | none => (d.refereeWork core).bind fun p => (d.core p).shadow

/-- The banks of a core's shadow region: the uppermost ones (06 R181). -/
def Dev.shadowBank (d : Dev) (core bank : Nat) : Bool := decide (32 - d.shadowUnits core ≤ bank ∧ bank < 32)

/-- The shadow work starts; `ecc` is what the code meets on the lines of the shadow region. -/
def execShadowGroupStart (core : Fin 6144) (err : List (Nat × W32)) (s : State) (ecc : List ScrEcc := []) : Res :=
  s.on fun b => match b.dev.shadowSource core with
    | none => b
    | some x => (b.scrReads core x.ctx (b.dev.shadowBank core) ecc).onD fun d => d.runShadow core err

/-! ### Verdicts (04 R143; 15 R444, R448) -/

/-- Adds a sampled group's outcome to the counts of R448; idle checks are counted when they run (log 25). -/
def Dev.verdictCount (d : Dev) (s : Shadow) (i : Nat) : Dev := if s.idle then d else d.shadowCount i

/-- The verdict leaves for the primary and the region is free. -/
def Dev.sendVerdict (d : Dev) (core : Nat) (s : Shadow) (kind : Nat) (vals : Tbl Elem) : Dev :=
  let msg : VerdictMsg := { st := s.st, id := s.id, chalk := s.chalk, mb := s.mb, nb := s.nb, idle := s.idle, kind := kind
                            vals := vals }
  let d := d.updCore core fun c => { c with shadow := none }
  d.updCore s.primary fun c => { c with verdicts := c.verdicts ++ [msg] }

/-- A strike against a core, with event 0x7005: verdict 1 primary wins, 2 partner wins, 3 no majority. -/
def Box.strikeFor (b : Box) (die : Nat) (s : Shadow) (core verdict : Nat) : Box :=
  let b := b.onD fun d => d.updCore core fun c => { c with strikes := c.strikes ++ [⟨d.now, verdict == 3⟩] }
  (b.onD fun d => d.ev 0x7005 die s.ctx
    [(core : Int), d.physOf core, verdict, boolN s.idle, d.strikesIn core (verdict == 3)]).checkStrikes core

/-- The vote of the partner `core` on its shadow group. -/
def Box.vote (b : Box) (core : Nat) (s : Shadow) : Box :=
  let die := boltOf core
  if s.stage = 2 then
    if valuesOf s.pv = valuesOf s.qv then b.onD fun d => (d.verdictCount s 1).sendVerdict core s 0 []
    else b.onD fun d => d.updCore core fun c => { c with shadow := some { s with stage := 3 } }
  else if s.stage = 4 then
    if valuesOf s.rv = valuesOf s.pv then
      (b.onD fun d => (d.verdictCount s 2).sendVerdict core s 1 []).strikeFor die s core 1
    else if valuesOf s.rv = valuesOf s.qv then
      (b.onD fun d => (d.verdictCount s 2).sendVerdict core s 2 s.qv).strikeFor die s s.primary 2
    else
      (((b.onD fun d => (d.verdictCount s 3).sendVerdict core s 3 []).strikeFor die s s.primary 3).strikeFor die s core 3).strikeFor
        die s (refereeOf s.primary) 3
  else b

def execVerdict (core : Fin 6144) (s : State) : Res :=
  s.on fun b => (b.dev.core core).shadow.elim b fun x => b.vote core x

/-! ### The primary (04 R142, R144) -/

/-- The elements of a group in the destination become poisoned; their codes stay. -/
def Box.poisonGroup (b : Box) (core : Nat) (a : Act) (x : Action) (o : ArrOp) (mb nb : Nat) : Box :=
  let idx := (List.range (o.rowsIn mb)).flatMap fun i => (List.range (o.colsIn nb)).map fun j =>
    (16 * mb + i) * o.n + 32 * nb + j
  b.hWriteEls x.ctx a core o.hd o.df o.dof (o.m * o.n) (idx.map fun i =>
    (i, (b.hEl core o.hd o.df o.dof (o.m * o.n) i).1, true))

/-- All mask bits of a group poisoned. -/
def Dev.poisonHits (d : Dev) (core : Nat) (v : VerdictMsg) (o : ArrOp) : Dev :=
  d.updCore core fun c => c.updCmd v.st v.id fun y =>
    { y with hits := put y.hits (v.mb * o.nBlocks + v.nb) ((getD y.hits (v.mb * o.nBlocks + v.nb) (0, 0)).1, 2 ^ 32 - 1) }

/-- The output after a verdict: re-drained from the partner's values, written poisoned, or as it stands. -/
def Box.settleVerdict (b : Box) (core : Nat) (x : Action) (v : VerdictMsg) : Box :=
  let o := arrOpOf x v.chalk
  if v.kind = 2 then b.deliver core x v.st v.chalk v.mb v.nb v.vals
  else if v.kind = 3 then
    (if v.chalk = 2 then b.onD fun d => d.poisonHits core v o
     else b.poisonGroup core ⟨mkCS core v.st, x.id⟩ x o v.mb v.nb)
  else b

def Grp.isOf (g : Grp) (v : VerdictMsg) : Bool :=
  g.st == v.st && g.id == v.id && g.chalk == v.chalk && g.mb == v.mb && g.nb == v.nb

/-- One sample less is outstanding for a command. -/
def Box.closeSample (b : Box) (core : Nat) (st : Str) (id : Nat) : Box :=
  (b.onD fun d => d.updCore core fun c => c.updCmd st id fun y => { y with verdicts := y.verdicts - 1 }).finishCmd core st id

/-- The first verdict that reached the primary takes effect once the group has drained. -/
def Box.receiveVerdict (b : Box) (core : Nat) : Box :=
  match (b.dev.core core).verdicts with
  | [] => b
  | v :: rest =>
    let c := b.dev.core core
    let drop := b.onD fun d => d.updCore core fun c => { c with verdicts := rest }
    if v.idle then drop
    else if c.bankA.grp.any (·.isOf v) || c.bankB.grp.any (·.isOf v) then b
    else match b.dev.action ⟨mkCS core v.st, v.id⟩ with
      | none => drop
      | some x => (drop.settleVerdict core x v).closeSample core v.st v.id

def execVerdictReceive (core : Fin 6144) (s : State) : Res := s.on fun b => b.receiveVerdict core

/-- No verdict within 1 ms of the end of the group: the sample is abandoned and counted (04 R145). -/
def Box.abandonSample (b : Box) (core : Nat) : Box :=
  let p := partnerOf core
  match (b.dev.core p).shadow with
  | none => b
  | some s =>
    if s.primary ≠ core ∨ s.stage = 0 ∨ b.dev.now < s.endTape + 1000000 then b
    else
      let b := b.onD fun d => (d.shadowCount 8).updCore p fun c => { c with shadow := none }
      if s.idle then b else b.closeSample core s.st s.id

def execSampleAbandon (core : Fin 6144) (s : State) : Res := s.on fun b => b.abandonSample core

/-! ### Idle checks (15 R449) -/

/-- A random operand of R307's construction from `r`: sign r[31], exponent 127 - r[30:28], mantissa r[27:5]. -/
def randB32 (r : W32) : W32 := B32.ofMag (bitOf r 31) ((127 - fld r 28 3) * 2 ^ 23 + fld r 5 23)

def idleEl (seed : W64) (counter i : Nat) : Elem :=
  let r := srBits seed (BitVec.ofNat 32 counter) 0x1D1E0000 (BitVec.ofNat 64 i)
  ⟨toB32 2 (ofB32 2 .even 0 (randB32 r)), false⟩

/-- The steps of a 16 x 32 group over K = 256 in KF8 on random operands: 64 windows of 8 column quads. -/
def idleSteps (seed : W64) (counter : Nat) : List StepIn :=
  (List.range 64).flatMap fun win => (List.range 8).map fun q =>
    { quad := q, byRow := false, kept := false
      ents := (List.range 16).map fun i => (span (4 * win) 4).map fun k => (k, idleEl seed counter (i * 256 + k))
      tile := (List.range 4).map fun j =>
        (span (4 * win) 4).map fun k => (k, idleEl seed counter (4096 + k * 32 + 4 * q + j)) }

def zeroAcc : Tbl Elem := (List.range 512).map fun i => (i, ⟨0, false⟩)

/-- May an idle check start: enabled, nothing in the array group for 2 µs, the partner's region free, and no check of its
own in the last interval. -/
def Dev.mayIdleCheck (d : Dev) (core : Nat) : Bool :=
  let c := d.core core
  d.shadow.idle && c.canStart && c.nextCmd.isNone && !d.shadowReady core && c.lastGroup + 2000 ≤ d.now
    && (d.core (partnerOf core)).shadow.isNone
    && c.lastIdle.all fun t => t + 1000 * d.shadow.interval ≤ d.now

def Dev.idleCheck (d : Dev) (core : Nat) (err : List (Nat × W32)) : Dev :=
  if !d.mayIdleCheck core then d
  else
    let c := d.core core
    let s : Shadow :=
      { primary := core, st := .F, id := 0, ctx := none, chalk := 0, mb := 0, nb := 0, idle := true, init := zeroAcc
        steps := idleSteps d.shadow.seed c.idleCount, pv := [], qv := [], rv := [], stage := 1, endTape := d.now }
    let d := (d.shadowCount 9).updCore core fun c => { c with idleCount := c.idleCount + 1, lastIdle := some d.now, lastGroup := d.now }
    d.updCore (partnerOf core) fun c => { c with shadow := some { s with pv := s.run err } }

def execIdleCheck (core : Fin 6144) (err : List (Nat × W32)) (s : State) : Res := s.onDev fun d => d.idleCheck core err

/-! ### The summary (15 R448) -/

/-- Every 60 s: event 0x700B with the counts of the past interval, which start again. -/
def Dev.shadowSum (d : Dev) : Dev :=
  if !(d.ready || d.bare) || d.now < d.shadow.sinceTape + 60000000000 then d
  else
    let d := d.evFw 0x700B none ((List.range 10).map fun i => ((getD d.shadow.counts i 0 : Nat) : Int))
    { d with shadow := { d.shadow with counts := [], sinceTape := d.now } }

def execShadowSummary (s : State) : Res := s.onDev Dev.shadowSum

end Sys2Proof.Machine
end

