-- ==== Sys2Proof/Machine/Gme.lean ====
section
/-! DEFINITION. The gather-and-merge engines: gather, scatter, permuting copy, ragged sequences, row fetch, patch, list
clearing and audits (07 R216 to R224, R228; 08 R230 to R236, R245, R251 to R253, R256 to R261). -/

namespace Sys2Proof.Machine

/-! ### The GREQ record (08 R235); a launched action's n0 is START, n1 COUNT -/

def gqOp (r : BitVec 256) : Nat := recN r 1 1
def gqMode (r : BitVec 256) : Nat := fld r 24 2
def gqToh (r : BitVec 256) : Bool := bitOf r 26
def gqRnd (r : BitVec 256) : Bool := bitOf r 27
def gqAll (r : BitVec 256) : Bool := bitOf r 28
def gqFixed (r : BitVec 256) : Bool := bitOf r 29
def gqTarget (r : BitVec 256) : Nat := recN r 4 1
def gqG (r : BitVec 256) : Nat := fld r 40 3
def gqHf (r : BitVec 256) : Nat := fld r 48 5
def gqLayer (r : BitVec 256) : Nat := recN r 7 1
def gqDs (r : BitVec 256) : Nat := recN r 8 2
def gqDi (r : BitVec 256) : Nat := recN r 10 2
def gqDd (r : BitVec 256) : Nat := recN r 12 2
def gqDx (r : BitVec 256) : Nat := recN r 14 2
def gqSlot (r : BitVec 256) : Nat := recN r 24 2
def gqHo (r : BitVec 256) : Nat := 64 * recN r 26 2
def gqKey (r : BitVec 256) : Nat := recN r 28 4

/-- No descriptor, no slot. -/
def none16 : Nat := 0xFFFF

/-! ### Engine helpers -/

/-- Shape-word write of an engine for an action: the writer's training step (10 R311). -/
def Dev.actShape (d : Dev) (x : Action) (slot v : Nat) (bad : Bool) : Dev :=
  if slot = none16 then d
  else
    let w : Shape :=
      { value := BitVec.ofNat 32 v, step := BitVec.ofNat 16 x.step, valid := true, poison := bad, clamped := false }
    d.updCtx x.ctx fun c => { c with shapes := put c.shapes slot w }

/-- The first forerunner translation that fails among accesses: descriptor index, tensor, write, elements. -/
def Dev.gFault (d : Dev) (l : List (Nat × Tens × Bool × List Nat)) : Option (Nat × Int × Nat) :=
  l.findSome? fun e => (d.tFault e.2.1 e.2.2.1 e.2.2.2).map fun f => (e.1, f)

/-! ### The coalescing cache (08 R233) -/

/-- A line read takes the first place in its set of 16 ways; the one used least recently leaves. -/
def useLine (sets : Tbl (List Nat)) (line : Nat) : Tbl (List Nat) :=
  upd sets (Config.cacheSet line).toNat [] fun l => (line :: l.filter (· != line)).take 16

/-- The lines that hold elements of a tensor. -/
def Dev.linesRead (d : Dev) (t : Tens) (lins : List Nat) : List Nat :=
  (lins.flatMap fun i => (t.addrs i).map fun a => d.xlate t a.toNat / 64).eraseDups

/-- The lines that a command reads stand in the cache of its GME. -/
def Box.cached (b : Box) (x : Action) (l : List (Tens × List Nat)) : Box :=
  b.onD fun d => { d with caches := upd d.caches x.unit [] fun s => (l.flatMap fun e => d.linesRead e.1 e.2).foldl useLine s }

/-- Goes on when every access can be translated, else the fault of 07 R227. -/
def Box.guarded (b : Box) (x : Action) (l : List (Nat × Tens × Bool × List Nat)) (f : Box → Box) : Box :=
  match b.dev.gFault l with
  | some e => b.compatFault x (unitDie x.unit) e.1 e.2
  | none => f (b.cached x ((l.filter fun e => !e.2.2.1).map fun e => (e.2.1, e.2.2.2)))

/-- Element e of n of the undefined content number `n`. -/
def freeCode (n i bits : Nat) : Nat := leNat ((span (4 * i) 4).map (Config.freeByte n)) % 2 ^ bits

/-- Elements of a tensor become undefined (log 2); those of a page that may not be written stay as they are. -/
def Box.undefLins (b : Box) (t : Tens) (lins : List Nat) : Box :=
  let n := b.store.free
  let lins := lins.filter fun l => (b.dev.tFault t true [l]).isNone
  (b.tWrite t (lins.map fun l => (l, freeCode n l (fmtBits (dFmt t.d)), false))).onS fun s => { s with free := s.free + 1 }

/-- A converted element for a tensor: linear index, code, poison, and the conditions when it is clean. -/
def cvtEl (t : Tens) (rnd : Rnd) (lin : Nat) (v : Elem) : (Nat × Nat × Bool) × List Nat :=
  let f := dFmt t.d
  let idx := dGlobalIndex t.d lin
  ((lin, ofB32 f rnd idx v.v, v.poison), if v.poison then [] else convConds f rnd idx v.v)

/-- Writes converted elements for an engine of a Spool die and raises their conditions. -/
def Box.putCvt (b : Box) (x : Action) (t : Tens) (l : List ((Nat × Nat × Bool) × List Nat)) : Box :=
  let b := b.onD fun d => d.unitConds x (gmeOf x.unit) (dFmt t.d) (l.flatMap (·.2))
  b.engPut x.ctx (unitDie x.unit) (gmeOf x.unit) t (l.map (·.1))

/-- Writes codes for an engine of a Spool die. -/
def Box.putCodes (b : Box) (x : Action) (t : Tens) (l : List (Nat × Nat × Bool)) : Box :=
  b.engPut x.ctx (unitDie x.unit) (gmeOf x.unit) t l

/-- The same into the handle of the action, from an offset, with the index of 03 R563. -/
def Box.putHandle (b : Box) (a : Act) (x : Action) (rnd : Rnd) (l : List Elem) : Box :=
  let f := gqHf x.desc
  let ho := gqHo x.desc
  let els := ((List.range l.length).zip l).map fun e =>
    let idx := handleIndex f (ho / 64) e.1
    ((ofB32 f rnd idx e.2.v, e.2.poison), if e.2.poison then [] else convConds f rnd idx e.2.v)
  let b := b.onD fun d => d.unitConds x (gmeOf x.unit) f (els.flatMap (·.2))
  b.hPutEls x.ctx a a.cs.core (Insn.hd x.w) f ho (els.map (·.1))

/-- One entry of the index operand of a GME command is poisoned: observation point 4. -/
def Box.badIndex (b : Box) (x : Action) (t : Tens) (lin : Nat) : Box :=
  b.observe x.ctx 4 (unitDie x.unit) (gmeOf x.unit) (b.dev.xlate t (((t.addrs lin).head?).getD 0).toNat)

/-- A record names a tensor that is empty: its command completes at once and touches no memory (07 R197). -/
def Dev.namesEmpty (d : Dev) (r : BitVec 256) : Bool := (namedDescs r).any fun e => (d.tens e.2).any fun t => dEmpty t.d

/-- A GME command of operation `op`: when its turn comes it leaves the queue and does its work. -/
def Box.greq (b : Box) (a : Act) (op : Nat) (sel : Action → Bool) (f : Box → Action → Box) : Box :=
  b.work a (fun x => isOp 0x60 x && gqOp x.desc == op && sel x && b.dev.gmeTurn a x.unit) (fun _ _ => []) fun b x =>
    let b := b.onD fun d => d.gmeLeave a x.unit
    if b.dev.namesEmpty x.desc then b else f b x

/-! ### Rows along a dimension (07 R218; 08 R236) -/

/-- Elements that share a coordinate along g. -/
def rowLen (sizes : List Nat) (g : Nat) : Nat := prod (sizes.eraseIdx g)

/-- Linear index of element e, in ascending order of the other coordinates, of the row with coordinate j along g. -/
def rowLin (sizes : List Nat) (g j e : Nat) : Nat :=
  let low := prod (sizes.take g)
  e % low + low * (j + sizes.getD g 0 * (e / low))

def rowLins (sizes : List Nat) (g j : Nat) : List Nat := (List.range (rowLen sizes g)).map (rowLin sizes g j)

/-- The value of an index code. -/
def idxVal (f v : Nat) : Int := codeInt f v

/-- The local coordinate along g that an index selects, or why it is invalid: 0 negative, 1 beyond, 2 remote. -/
def selects (d : Desc) (g : Nat) (v : Int) : Except Nat Nat :=
  if v < 0 then .error 0
  else if (dGlobal d g : Int) ≤ v then .error 1
  else
    let lo := dShardNo d g * dSize d g
    if lo ≤ v.toNat ∧ v.toNat < lo + dSize d g then .ok (v.toNat - lo) else .error 2

/-- An entry of an index operand: its number, value, poison, and what it selects. -/
structure IdxEnt where
  j : Nat
  v : Int
  bad : Bool
  sel : Except Nat Nat

def Box.idxEnts (b : Box) (x : Action) (ti tsel : Tens) (g : Nat) : List IdxEnt :=
  (span x.n0 x.n1).map fun j =>
    let e := b.tRead ti j
    let v := idxVal (dFmt ti.d) e.1
    { j := j, v := v, bad := e.2, sel := selects tsel.d g v }

/-- Why a clean entry is invalid. -/
def IdxEnt.kind (e : IdxEnt) : Option Nat :=
  if e.bad then none else match e.sel with
    | .error k => some k
    | .ok _ => none

def Dev.idxSkip (d : Dev) (x : Action) (e : IdxEnt) : Dev :=
  match e.kind with
  | none => d
  | some k => d.condition x.ctx .idx k 0x200A (unitDie x.unit) (gmeOf x.unit) [gmeOf x.unit, x.index, e.j, e.v, k]

/-- Event 0x200B for an invalid entry; the context stops (07 R221). -/
def Box.idxFault (b : Box) (x : Action) (e : IdxEnt) : Box :=
  (b.onD fun d => d.ev 0x200B (unitDie x.unit) (some x.ctx) [gmeOf x.unit, x.index, e.j, e.v, e.kind.getD 0]).faultStop
    x.ctx 0x200B

/-! ### GATHER (07 R218 to R222, R224; 08 R236) -/

/-- The values that entry `e` gathers: its source row, +0 for a skipped entry; a poisoned entry poisons them. -/
def Box.gatherRow (b : Box) (ts : Tens) (g : Nat) (e : IdxEnt) : List Elem :=
  if e.bad then (rowLins (dSizes ts.d) g 0).map fun _ => ⟨0, true⟩
  else match e.sel with
    | .ok k => (rowLins (dSizes ts.d) g k).map (b.tVal ts)
    | .error _ => (rowLins (dSizes ts.d) g 0).map fun _ => ⟨0, false⟩

/-- Source elements that entries select. -/
def selectedLins (t : Tens) (g : Nat) (es : List IdxEnt) : List Nat :=
  es.flatMap fun e => match e.sel with
    | .ok k => if e.bad then [] else rowLins (dSizes t.d) g k
    | .error _ => []

/-- A skipped row holds +0, which no conversion changes or reports. -/
def Box.gatherOut (b : Box) (a : Act) (x : Action) (ts : Tens) (td : Option Tens) (es : List IdxEnt) : Box :=
  let r := x.desc
  let g := gqG r
  let rnd := b.dev.rnd x (gqRnd r) (gqKey r)
  match td with
  | none => b.putHandle a x rnd (es.flatMap (b.gatherRow ts g))
  | some t => b.putCvt x t (es.flatMap fun e =>
      ((rowLins (dSizes t.d) g e.j).zip (b.gatherRow ts g e)).map fun v => cvtEl t rnd v.1 v.2)

/-- The rows that a gather would have written become undefined. -/
def Box.gatherLost (b : Box) (a : Act) (x : Action) (ts : Tens) (td : Option Tens) (es : List IdxEnt) : Box :=
  let r := x.desc
  match td with
  | none => b.undefHandle a.cs.core (Insn.hd x.w) (gqHo r)
      (storageBytes (gqHf r) (es.length * rowLen (dSizes ts.d) (gqG r)) (fmtPlanar (gqHf r)))
  | some t => b.undefLins t (es.flatMap fun e => rowLins (dSizes t.d) (gqG r) e.j)

def Box.gatherRun (b : Box) (a : Act) (x : Action) : Box :=
  let r := x.desc
  let td := if gqToh r then none else b.dev.tens (gqDd r)
  match b.dev.tens (gqDs r), b.dev.tens (gqDi r) with
  | some ts, some ti =>
    b.guarded x [(gqDi r, ti, false, span x.n0 x.n1)] fun b =>
      let es := b.idxEnts x ti ts (gqG r)
      match (if dStrict ti.d then es.find? (·.kind.isSome) else none) with
      | some e => (b.gatherLost a x ts td es).idxFault x e
      | none =>
        let out := td.elim [] fun t => [(gqDd r, t, true, es.flatMap fun e => rowLins (dSizes t.d) (gqG r) e.j)]
        b.guarded x ((gqDs r, ts, false, selectedLins ts (gqG r) es) :: out) fun b =>
          (b.onD fun d => es.foldl (fun d e => d.idxSkip x e) d).gatherOut a x ts td es
  | _, _ => b

def execGather (a : Act) (s : State) : Res :=
  s.on fun b => b.greq a 1 (fun _ => true) fun b x => if x.n1 = 0 then b else b.gatherRun a x

/-! ### SCATTER (07 R218 to R221, R223, R224) -/

/-- One addition of an add mode: the element, a contribution; to binary32 or, through binary32, to KF16. -/
def addTo (t : Tens) (lin : Nat) (old v : Elem) : (Nat × Nat × Bool) × List Nat :=
  cvtEl t .even lin ⟨B32.add old.v v.v, old.poison || v.poison⟩

/-- Adds contributions to elements one after another, each an indivisible read-modify-write (07 R223). -/
def Box.addEls (b : Box) (x : Action) (t : Tens) (l : List (Nat × Elem)) : Box :=
  l.foldl (fun b e => b.putCvt x t [addTo t e.1 (b.tVal t e.1) e.2]) b

def Box.scatterOut (b : Box) (x : Action) (ts td : Tens) (es : List IdxEnt) : Box :=
  let r := x.desc
  let g := gqG r
  let rnd := b.dev.rnd x (gqRnd r) (gqKey r)
  let els := es.flatMap fun e => match e.sel with
    | .ok k => if e.bad then [] else (rowLins (dSizes td.d) g k).zip ((rowLins (dSizes ts.d) g e.j).map (b.tVal ts))
    | .error _ => []
  if gqMode r = 0 then b.putCvt x td (els.map fun e => cvtEl td rnd e.1 e.2) else b.addEls x td els

def Box.scatterRun (b : Box) (x : Action) : Box :=
  let r := x.desc
  match b.dev.tens (gqDs r), b.dev.tens (gqDi r), b.dev.tens (gqDd r) with
  | some ts, some ti, some td =>
    b.guarded x [(gqDi r, ti, false, span x.n0 x.n1)] fun b =>
      let es := b.idxEnts x ti td (gqG r)
      let hit := selectedLins td (gqG r) es
      match (if dStrict ti.d then es.find? (·.kind.isSome) else none) with
      | some e => (b.undefLins td hit).idxFault x e
      | none =>
        b.guarded x [(gqDs r, ts, false, es.flatMap fun e => rowLins (dSizes ts.d) (gqG r) e.j), (gqDd r, td, true, hit)] fun b =>
          let b := (b.onD fun d => es.foldl (fun d e => d.idxSkip x e) d).scatterOut x ts td es
          match es.find? (·.bad) with
          | some e => b.badIndex x ti e.j
          | none => b
  | _, _, _ => b

def execScatter (a : Act) (s : State) : Res :=
  s.on fun b => b.greq a 2 (fun _ => true) fun b x => if x.n1 = 0 then b else b.scatterRun x

/-! ### Permuting copy (07 R215 to R217, R228) -/

def permOf (p : BitVec 128) (d : Nat) : Nat := fld p (48 + 3 * d) 3

/-- What a copy takes: source and destination with their indices, permutation, rounding and key. -/
structure CopyJob where
  si : Nat
  di : Nat
  ts : Tens
  td : Tens
  perm : List Nat
  rnd : Bool
  key : Nat

/-- Every order of a list's elements. -/
def orders : List Nat → List (List Nat)
  | [] => [[]]
  | x :: t => (orders t).flatMap fun l => (List.range (l.length + 1)).map fun i => l.take i ++ x :: l.drop i

/-- Permutations under which the sizes of destination and source agree. -/
def fitPerms (s d : Desc) : List (List Nat) :=
  if dRank s ≠ dRank d then []
  else (orders (dDims d)).filter fun p => dSizes d == p.map (dSize s)

/-- The copy that a GREQ COPY names: through a pair, or, of a forerunner image, from DS to DD (log 33). -/
def Dev.copyJob (d : Dev) (r : BitVec 256) : Option CopyJob :=
  match get? d.descs (gqDs r) with
  | some (.pair p) =>
    match d.native (fld p 16 16), d.native (fld p 32 16) with
    | some s, some t =>
      some ⟨fld p 16 16, fld p 32 16, .ofDesc s, .ofDesc t, (dDims t).map (permOf p), bitOf p 72, fld p 96 32⟩
    | _, _ => none
  | some (.forerunner _) =>
    match d.tens (gqDs r), d.tens (gqDd r) with
    | some s, some t =>
      let l := fitPerms s.d t.d
      (l[Config.compatPerm s.d t.d % max 1 l.length]?).map fun p => ⟨gqDs r, gqDd r, s, t, p, gqRnd r, gqKey r⟩
    | _, _ => none
  | _ => none

/-- Source element of a destination element. -/
def CopyJob.source (c : CopyJob) (lin : Nat) : Nat :=
  let dc := coordsOf (dSizes c.td.d) lin
  let sc := (dDims c.ts.d).map fun i => ((c.perm.zip dc).find? (·.1 == i)).elim 0 (·.2)
  linOf (dSizes c.ts.d) sc

/-- The device addresses of a byte range of a forerunner tensor, page by page: first address and bytes; pages that are not
mapped have none. -/
def Dev.pieces (d : Dev) (t : Tens) : List (Nat × Nat) :=
  let lo := if t.fr then (dRange t.d).1.toNat % 2 ^ 40 else (dRange t.d).1.toNat
  let hi := lo + ((dRange t.d).2 - (dRange t.d).1).toNat
  if dEmpty t.d then []
  else if !t.fr then [(lo, hi + 1 - lo)]
  else (span (lo / 2097152) (hi / 2097152 - lo / 2097152 + 1)).filterMap fun q =>
    let a := max lo (q * 2097152)
    (get? d.compat q).map fun p => (p.target + a % 2097152, min hi (q * 2097152 + 2097151) + 1 - a)

def common (a b : Nat × Nat) : Nat := min (a.1 + a.2) (b.1 + b.2) - max a.1 b.1

/-- Adds a piece to pieces that do not touch each other, in ascending order, and joins those that it touches. -/
def joinPiece (x : Nat × Nat) : List (Nat × Nat) → List (Nat × Nat)
  | [] => [x]
  | y :: t =>
    if x.1 + x.2 < y.1 then x :: y :: t
    else if y.1 + y.2 < x.1 then y :: joinPiece x t
    else joinPiece (min x.1 y.1, max (x.1 + x.2) (y.1 + y.2) - min x.1 y.1) t

/-- The bytes of some pieces, each of them once. -/
def unionOf (l : List (Nat × Nat)) : List (Nat × Nat) := l.foldl (fun m x => joinPiece x m) []

/-- Bytes in which the translated ranges of a copy overlap. -/
def Dev.copyOverlap (d : Dev) (c : CopyJob) : Nat :=
  sumN ((unionOf (d.pieces c.ts)).flatMap fun a => (unionOf (d.pieces c.td)).map (common a))

/-- Some byte of a source element lies in the destination's ranges. -/
def Dev.inOverlap (d : Dev) (c : CopyJob) (lin : Nat) : Bool :=
  (c.ts.addrs lin).any fun a => (d.pieces c.td).any fun p => let y := d.xlate c.ts a.toNat; p.1 ≤ y && y < p.1 + p.2

def Box.copyPerm (b : Box) (x : Action) (c : CopyJob) : Box :=
  let n := dCount c.td.d
  let rnd := b.dev.rnd x c.rnd c.key
  let big := c.ts.fr && decide (4194304 < b.dev.copyOverlap c)
  let out := (List.range n).map fun l => (cvtEl c.td rnd l (b.tVal c.ts (c.source l)), big && b.dev.inOverlap c (c.source l))
  let b := if big then b.onD fun d => d.ev 0x200E (unitDie x.unit) (some x.ctx) [c.si, c.di, d.copyOverlap c] else b
  let lost := (out.filter (·.2)).map (·.1.1.1)
  let b := b.putCvt x c.td ((out.filter fun e => !e.2).map (·.1))
  if lost.isEmpty then b else b.undefLins c.td lost

def Box.copyPairRun (b : Box) (x : Action) : Box :=
  match b.dev.copyJob x.desc with
  | none => b
  | some c =>
    let n := dCount c.td.d
    b.guarded x [(c.si, c.ts, false, List.range n), (c.di, c.td, true, List.range n)] fun b => b.copyPerm x c

/-- The copy needs a bounce buffer: its ranges overlap, and by no more than one holds. -/
def Dev.needsBounce (d : Dev) (x : Action) : Bool :=
  (d.copyJob x.desc).any fun c => decide (0 < d.copyOverlap c ∧ d.copyOverlap c ≤ 4194304)

/-- The lowest Serger of the GME's Spool whose buffer is free (log 74). -/
def Dev.freeBounce (d : Dev) (unit : Nat) : Option Nat :=
  (span (unitSpool unit * 16) 16).find? fun k => !(getD d.engs k .init).disabled && !has d.bounce k

/-- A copy that needs a bounce buffer waits for a Serger whose buffer is free and holds it to its completion (07 R217; 08
R234). -/
def execGreqCopy (a : Act) (s : State) : Res :=
  s.on fun b => b.greq a 3 (fun x => !b.dev.needsBounce x || (b.dev.freeBounce x.unit).isSome) fun b x =>
    let b := if b.dev.needsBounce x then (b.dev.freeBounce x.unit).elim b fun k =>
        b.onD fun d => { d with bounce := put d.bounce k a } else b
    b.copyPairRun x

/-! ### PACK and UNPACK (08 R252, R253) -/

/-- Sizes of a ragged command: width, maximum length, capacity. -/
structure Ragged where
  w : Nat
  lmax : Nat
  cap : Nat

/-- Element (i, t, q) of the padded tensor and (i, row) of the packed one. -/
def Ragged.padded (g : Ragged) (q t i : Nat) : Nat := i + g.w * (t + g.lmax * q)
def Ragged.packed (g : Ragged) (row i : Nat) : Nat := i + g.w * row

/-- A slot of a PACK: its number, stored length, offset, and whether they are poisoned. -/
structure PackSlot where
  q : Nat
  len : Nat
  off : Nat
  bad : Bool

/-- The slots of a PACK in order, from a running offset. -/
def packSlots (g : Ragged) : List (Nat × Nat × Bool) → Nat → Bool → List PackSlot
  | [], _, _ => []
  | (q, len, bad) :: t, off, was =>
    ⟨q, len, off, bad || was⟩ :: packSlots g t (off + min len g.lmax) (bad || was)

/-- A clamp (count 5) or truncated rows (count 6), with event 0xA008 at the first. -/
def Dev.packNote (d : Dev) (x : Action) (i n q len limit : Nat) : Dev :=
  if n = 0 then d
  else (d.count x.ctx .sparse i n).first x.ctx 0xA008 (unitDie x.unit) (gmeOf x.unit) [gmeOf x.unit, q, len, limit]

/-- Rows of a slot that lie at or beyond the capacity. -/
def rowsBeyond (off n cap : Nat) : Nat := n - (cap - off)

def Box.packRun (b : Box) (x : Action) : Box :=
  let r := x.desc
  match b.dev.tens (gqDs r), b.dev.tens (gqDi r), b.dev.tens (gqDd r), b.dev.tens (gqDx r) with
  | some ts, some ti, some td, some tx =>
    let g : Ragged := ⟨dSize ts.d 0, dSize ts.d 1, dSize td.d 1⟩
    let qs := span x.n0 x.n1
    b.guarded x [(gqDi r, ti, false, qs), (gqDx r, tx, true, qs)] fun b =>
      let sl := packSlots g (qs.map fun q => let e := b.tRead ti q; (q, e.1, e.2)) 0 false
      let rows := sl.flatMap fun s => ((List.range (min s.len g.lmax)).filter fun t => s.off + t < g.cap).map fun t => (s, t)
      let moves := rows.flatMap fun e => (List.range g.w).map fun i =>
        (g.packed (e.1.off + e.2) i, g.padded e.1.q e.2 i, e.1.bad)
      b.guarded x [(gqDs r, ts, false, moves.map (·.2.1)), (gqDd r, td, true, moves.map (·.1))] fun b =>
        let rnd := b.dev.rnd x (gqRnd r) (gqKey r)
        let out := moves.map fun m => let v := b.tVal ts m.2.1; cvtEl td rnd m.1 ⟨v.v, v.poison || m.2.2⟩
        let b := b.onD fun d => sl.foldl (fun d s =>
          (d.packNote x 5 (if g.lmax < s.len then 1 else 0) s.q s.len g.lmax).packNote x 6
            (rowsBeyond s.off (min s.len g.lmax) g.cap) s.q s.len g.cap) d
        let b := (b.putCodes x tx (sl.map fun s => (s.q, s.off % 2 ^ 32, s.bad))).putCvt x td out
        let total := sumN (sl.map fun s => min s.len g.lmax)
        b.onD fun d => d.actShape x (gqSlot r) (min total g.cap) (sl.any (·.bad))
  | _, _, _, _ => b

def execPack (a : Act) (s : State) : Res :=
  s.on fun b => b.greq a 4 (fun _ => true) fun b x => if x.n1 = 0 then b else b.packRun x

/-- A row of the padded tensor: slot and row, the packed row it takes, poison of its length or offset. -/
def Box.unpackRows (b : Box) (g : Ragged) (ti tx : Tens) (q : Nat) : List (Nat × Option Nat × Bool) :=
  let len := b.tRead ti q
  let off := b.tRead tx q
  (List.range g.lmax).map fun t =>
    (t, if t < min len.1 g.lmax ∧ off.1 + t < g.cap then some (off.1 + t) else none, len.2 || off.2)

def Box.unpackRun (b : Box) (x : Action) : Box :=
  let r := x.desc
  match b.dev.tens (gqDs r), b.dev.tens (gqDi r), b.dev.tens (gqDd r), b.dev.tens (gqDx r) with
  | some ts, some ti, some td, some tx =>
    let g : Ragged := ⟨dSize td.d 0, dSize td.d 1, dSize ts.d 1⟩
    let qs := span x.n0 x.n1
    b.guarded x [(gqDi r, ti, false, qs), (gqDx r, tx, false, qs)] fun b =>
      let rows := qs.flatMap fun q => (b.unpackRows g ti tx q).map fun e => (q, e)
      let srcs := rows.flatMap fun e => e.2.2.1.elim [] fun p => (List.range g.w).map (g.packed p)
      let dsts := rows.flatMap fun e => (List.range g.w).map (g.padded e.1 e.2.1)
      b.guarded x [(gqDs r, ts, false, srcs), (gqDd r, td, true, dsts)] fun b =>
        let rnd := b.dev.rnd x (gqRnd r) (gqKey r)
        let out := rows.flatMap fun e => (List.range g.w).map fun i =>
          let v : Elem := e.2.2.1.elim ⟨0, false⟩ fun p => b.tVal ts (g.packed p i)
          cvtEl td rnd (g.padded e.1 e.2.1 i) ⟨v.v, v.poison || e.2.2.2⟩
        let b := b.onD fun d => qs.foldl (fun d q =>
          let len := (b.tRead ti q).1
          d.packNote x 6 (rowsBeyond (b.tRead tx q).1 (min len g.lmax) g.cap) q len g.cap) d
        b.putCvt x td out
  | _, _, _, _ => b

def execUnpack (a : Act) (s : State) : Res :=
  s.on fun b => b.greq a 5 (fun _ => true) fun b x => if x.n1 = 0 then b else b.unpackRun x

/-! ### Chalk layers and ROWFETCH (08 R256 to R258) -/

def Ctx.layer (c : Ctx) (y : Nat) : ChalkLayer := getD c.chalk y .init
def Dev.updLayer (d : Dev) (n y : Nat) (f : ChalkLayer → ChalkLayer) : Dev :=
  d.updCtx n fun c => { c with chalk := upd c.chalk y .init f }

/-- A mask bit of neuron f: the union over dimension 1, and its poison. -/
def Box.maskBit (b : Box) (t : Tens) (f : Nat) : Bool × Bool :=
  let n := if dRank t.d = 1 then 1 else dSize t.d 1
  let l := (List.range n).map fun i => b.tRead t (f + dSize t.d 0 * i)
  (l.any (·.1 == 1), l.any (·.2))

/-- Neuron f is selected for audit in training step `step` of layer y, given that it is predicted inactive (08 R256). -/
def auditPick (seed : W64) (step y al f : Nat) : Bool :=
  (srBits seed (BitVec.ofNat 32 step) (BitVec.ofNat 32 (0xC4A10000 + y)) (BitVec.ofNat 64 f)).toNat < 2 ^ (32 - al)

/-- Predicted-active and audited neurons of a ROWFETCH, and whether a mask bit was poisoned (log 35). -/
def Box.fetchList (b : Box) (x : Action) (ti : Tens) : List Nat × List Nat × Bool :=
  let r := x.desc
  let fs := span x.n0 x.n1
  if !gqFixed r && x.val == 1 then (fs, [], false)
  else
    let bits := fs.map fun f => (f, b.maskBit ti f)
    let act := (bits.filter (·.2.1)).map (·.1)
    let seed := ((b.dev.ctx x.ctx).img.map (·.seed)).getD 0
    let al := ((b.dev.ctx x.ctx).layer (gqLayer r)).al
    let aud := if gqFixed r then [] else
      (bits.filter fun e => !e.2.1 && auditPick seed x.step (gqLayer r) al e.1).map (·.1)
    (act, aud, bits.any (·.2.2))

def Box.rowfetchRun (b : Box) (a : Act) (x : Action) : Box :=
  let r := x.desc
  match b.dev.tens (gqDs r), b.dev.tens (gqDi r), b.dev.tens (gqDx r) with
  | some ts, some ti, some tx =>
    let n := if dRank ti.d = 1 then 1 else dSize ti.d 1
    b.guarded x [(gqDi r, ti, false, (List.range n).flatMap fun i => (span x.n0 x.n1).map fun f => f + dSize ti.d 0 * i)] fun b =>
      let l := b.fetchList x ti
      let fs := l.1 ++ l.2.1
      let src := fs.flatMap (rowLins (dSizes ts.d) (gqG r))
      b.guarded x [(gqDs r, ts, false, src), (gqDx r, tx, true, List.range fs.length)] fun b =>
        let rnd := b.dev.rnd x (gqRnd r) (gqKey r)
        let rows := src.map fun i => let v := b.tVal ts i; (⟨v.v, v.poison || l.2.2⟩ : Elem)
        let b := b.putCodes x tx (((List.range fs.length).zip fs).map fun e => (e.1, e.2, l.2.2))
        let b := b.putHandle a x rnd rows
        b.onD fun d =>
          let d := if gqFixed r then d else d.updLayer x.ctx (gqLayer r) fun y => { y with sumP := satAdd 32 y.sumP l.1.length }
          if gqSlot r = none16 then d
          else (d.actShape x (gqSlot r) l.1.length l.2.2).actShape x (gqSlot r + 1) l.2.1.length l.2.2
  | _, _, _ => b

def execRowfetch (a : Act) (s : State) : Res :=
  s.on fun b => b.greq a 8 (fun _ => true) fun b x => if x.n1 = 0 then b else b.rowfetchRun a x

/-! ### PATCH and LISTCLR (08 R244, R245, R251) -/

/-- The records of an image that name side descriptor `ds` in N:M form (log 34). -/
def Image.sideRecs (i : Image) (ds : Nat) : List (BitVec 256) :=
  i.blocks.flatMap fun b => b.recs.filter fun r =>
    (recN r 0 1 == 0x5A || recN r 0 1 == 0x5B) && lsComp r == 1 && lsSide r == ds

/-- Where the overflow list of a side descriptor lies, and how many entries fit: after the code area of the tensor that
some record of the image stores through it, else at a place the manual does not give (log 34). -/
def Dev.overflowList (d : Dev) (x : Action) (ds : Nat) (side : Desc) : Nat × Nat :=
  let recs := ((d.ctx x.ctx).img.map (·.sideRecs ds)).getD []
  match recs.findSome? d.comp with
  | some c => (c.listAt, c.capacity)
  | none =>
    let o := 64 * (Config.listPlace ds % max 1 (dCount side / 64))
    (dBase side + o, (dCount side - o - 64) / 16)

/-- An overflow entry: row, inner index, value, poison. -/
def Box.overflowEnts (b : Box) (at' cap : Nat) : List (Nat × Nat × Elem) :=
  let n := min cap (leNat (bytesOf (b.store.rdMem at' 8)))
  (List.range n).map fun i =>
    let l := b.store.rdMem (at' + 64 + 16 * i) 16
    let y := bytesOf l
    (leAt y 0 4, leAt y 4 4, ⟨BitVec.ofNat 32 (leAt y 8 4), anyBad l⟩)

/-- The element of a patch operand: its last entry, or +0. -/
def patchEl (es : List (Nat × Nat × Elem)) (r i : Nat) : Option Elem :=
  (es.filter fun e => e.1 == r && e.2.1 == i).getLast?.map (·.2.2)

def Box.patchRun (b : Box) (a : Act) (x : Action) : Box :=
  let r := x.desc
  match b.dev.native (gqDs r), b.dev.tens (gqDd r) with
  | some side, some td =>
    let w := dSize td.d 0
    let f := gqHf r
    let rnd := b.dev.rnd x (gqRnd r) (gqKey r)
    let at' := b.dev.overflowList x (gqDs r) side
    let es := b.overflowEnts at'.1 at'.2
    let b := b.onD fun d => { d with caches := upd d.caches x.unit [] fun s =>
      (linesOf at'.1 (64 + 16 * es.length)).foldl useLine s }
    let rows := (span x.n0 x.n1).map fun row => (List.range w).map (patchEl es row)
    let b := b.putHandle a x rnd (rows.flatMap fun l => l.map fun e => e.getD ⟨0, false⟩)
    let maps := ((List.range rows.length).zip rows).flatMap fun l =>
      bitmapOf (((List.range w).zip l.2).map fun e => e.2.elim (false, false) fun v =>
        (!B32.isZero (toB32 f (ofB32 f rnd (handleIndex f (gqHo r / 64) (l.1 * w + e.1)) v.v)), v.poison))
    b.hWrite x.ctx a a.cs.core (Insn.hd x.w) (gqHo r + ceilTo 64 (storageBytes f (x.n1 * w) (fmtPlanar f))) maps
  | _, _ => b

def execPatch (a : Act) (s : State) : Res :=
  s.on fun b => b.greq a 9 (fun _ => true) fun b x => if x.n1 = 0 then b else b.patchRun a x

/-- ENTRIES 0, CAPACITY, FULL cleared. -/
def Box.listclrRun (b : Box) (x : Action) : Box :=
  match b.dev.native (gqDs x.desc) with
  | none => b
  | some side =>
    let at' := b.dev.overflowList x (gqDs x.desc) side
    let fl := ((b.store.rdMem (at'.1 + 16) 1).head?).getD (0, false)
    b.engWrite x.ctx (unitDie x.unit) (gmeOf x.unit) at'.1
      ((clean (leBytes 8 0 ++ leBytes 8 at'.2)) ++ [(fl.1 &&& 0xFE, fl.2)])

def execListclr (a : Act) (s : State) : Res :=
  s.on fun b => b.greq a 0xA (fun _ => true) fun b x => b.listclrRun x

/-! ### AUDIT (08 R259 to R261); n0 is M, n1 and n2 are P and A -/

def auLayer (r : BitVec 256) : Nat := recN r 2 1
def auTarget (r : BitVec 256) : Nat := recN r 3 1
def auDv (r : BitVec 256) : Nat := recN r 4 2
def auDl (r : BitVec 256) : Nat := recN r 6 2
def auDp (r : BitVec 256) : Nat := recN r 8 2
def auDe (r : BitVec 256) : Nat := recN r 10 2
def auSlot (r : BitVec 256) : Nat := recN r 16 2

/-- A value of an audited neuron makes it a miss. -/
def auditHit (eps : W32) (v : Elem) : Bool := v.poison || B32.isNan v.v || B32.lt eps (B32.abs v.v)

/-- misses / audited exceeds a limit, exactly. -/
def exceeds (miss aud : Nat) (limit : W32) : Bool :=
  match B32.val limit with
  | .fin false m e => if 0 ≤ e then m * 2 ^ e.toNat * aud < miss else m * aud < miss * 2 ^ (-e).toNat
  | .fin true _ _ => true
  | _ => false

/-- The counts of a layer after an audit, and the fallback of 08 R261, which acts once the AUDIT has completed. -/
def Dev.auditCount (d : Dev) (act : Act) (x : Action) (miss unaud : Nat) : Dev :=
  let y := auLayer x.desc
  let d := d.updLayer x.ctx y fun l =>
    { l with aud := satAdd 32 l.aud x.n2, miss := satAdd 32 l.miss miss, unaud := satAdd 32 l.unaud unaud }
  let l := (d.ctx x.ctx).layer y
  if l.fb && decide (l.minSample ≤ l.aud) && exceeds l.miss l.aud l.missLimit then
    ((d.updLayer x.ctx y fun l => { l with flag := true }).updAction act fun x => { x with val := 1 }).ev 0xA009 (unitDie x.unit) (some x.ctx)
      [y, l.aud, l.miss, l.missLimit.toNat]
  else d

def Box.auditRun (b : Box) (act : Act) (x : Action) : Box :=
  let r := x.desc
  match b.dev.tens (auDv r), b.dev.tens (auDl r), b.dev.tens (auDp r), b.dev.tens (auDe r) with
  | some tv, some tl, some tp, some te =>
    let f := dSize tp.d 0
    let vs := (List.range x.n0).flatMap fun m => (List.range x.n2).map fun a => a + dSize tv.d 0 * m
    b.guarded x [(auDv r, tv, false, vs), (auDl r, tl, false, span x.n1 x.n2), (auDp r, tp, false, List.range (dCount tp.d)),
                 (auDe r, te, true, List.range f)] fun b =>
      let eps := ((b.dev.ctx x.ctx).layer (auLayer r)).eps
      let missA := (List.range x.n2).filter fun a =>
        (List.range x.n0).any fun m => auditHit eps (b.tVal tv (a + dSize tv.d 0 * m))
      let missF := missA.map fun a => (b.tRead tl (x.n1 + a)).1
      let out := (List.range f).map fun i =>
        let p := b.maskBit tp i
        if missF.contains i then (i, 1, false) else (i, boolN p.1, p.2)
      let eff := (out.filter (·.2.1 == 1)).map (·.1)
      (b.putCodes x te out).onD fun d => (d.updLayer x.ctx (auLayer r) fun l => { l with eff := eff }).auditCount act x
        missA.length (f - x.n1 - x.n2)
  | _, _, _, _ => b

def execAudit (a : Act) (s : State) : Res :=
  s.on fun b => b.work a (fun x => isOp 0x61 x && b.dev.gmeTurn a x.unit) (fun _ _ => []) fun b x =>
    let b := b.onD fun d => d.gmeLeave a x.unit
    if b.dev.namesEmpty x.desc then b else b.auditRun a x

end Sys2Proof.Machine
end

