-- ==== Sys2Proof/Machine/Actions.lean ====
section
/-! DEFINITION. The small actions of a stream: TWAIT, SWST, HMAP, HFREE and the Knot operations, and the arrival at a Knot
(02 R58, R59; 05 R158, R159, R161; 06 R180 to R186; 10 R311; 12 R376). -/

namespace Sys2Proof.Machine

/-! ### TWAIT and SWST (05 R159; 10 R311) -/

def execTwait (a : Act) (s : State) : Res := s.on fun b => b.work a (isOp 0x08) (fun _ _ => []) fun b _ => b

/-- Shape word IMM[11:0] takes s[SA], read when the action became next, with STEP and VALID set. -/
def execSwst (a : Act) (s : State) : Res :=
  s.on fun b => b.work a (isOp 0x31) (fun _ _ => []) fun b x =>
    b.onD fun d => d.writeShape x.ctx (Insn.imm x.w % 4096) x.val.toNat

/-! ### HMAP and HFREE (06 R180, R183, R184) -/

/-- What an HMAP asks for: SIZE is n0. -/
def wantOf (x : Action) : Want :=
  let f := recN x.desc 2 1
  { handle := Insn.hd x.w, zero := f.testBit 0, spillOk := f.testBit 1, spillOnly := f.testBit 2, spillMax := f / 8 % 8
    log2nb := recN x.desc 3 1 % 8, size := x.n0, backing := recN x.desc 8 8 % 2 ^ 52 }

/-- Places the handle, the HMAP being its first user; a handle that is valid or has no place stops the context. Zeroing reads the
banks on behalf of no context (R191). -/
def Box.hmap (b : Box) (a : Act) (ecc : List ScrEcc) (x : Action) : Box :=
  let core : Nat := a.cs.core
  let h := Insn.hd x.w
  let ids : List Int := [b.dev.coreSlot core, a.cs.st.num, h]
  if ((b.dev.core core).handle h).isSome then
    (b.onD fun d => d.ev 0xE805 (boltOf core) (some x.ctx) ids).faultStop x.ctx 0xE805
  else match b.dev.findPlace core x.ctx (wantOf x) false with
    | none => (b.onD fun d => d.ev 0xE804 (boltOf core) (some x.ctx) (ids ++ [(x.n0 : Int)])).faultStop x.ctx 0xE804
    | some y =>
      let b := if y.zero then b.scrReads core none y.inBank ecc else b
      let b := b.fillHandle x.ctx (some a) core y
      b.onD fun d => d.enterHandle core h { y with users := 1 }

/-- Of HMAPs of one handle that two streams of a core issued in the same cycle, those take effect first that come first in the order
B, F, U (R183). -/
def Dev.hmapTurn (d : Dev) (a : Act) (x : Action) : Bool :=
  strs.all fun st => !(strRank st < strRank a.cs.st) || ((d.core a.cs.core).stream st).acts.all fun y =>
    y.done || !isOp 0x38 y || Insn.hd y.w != Insn.hd x.w || y.cyc != x.cyc

def execHmap (a : Act) (s : State) (ecc : List ScrEcc := []) : Res :=
  s.on fun b => b.work a (fun x => isOp 0x38 x && b.dev.hmapTurn a x) (fun _ _ => []) fun b x => b.hmap a ecc x

/-- No launched action but the HFREE uses the handle. -/
def Dev.unused (d : Dev) (core h : Nat) : Bool := ((d.core core).handle h).all (·.users == 0)

def execHfree (a : Act) (s : State) : Res :=
  s.on fun b => b.work a (fun x => isOp 0x39 x && b.dev.unused a.cs.core (Insn.hd x.w)) (fun _ _ => [])
    fun b x =>
      let hs := b.dev.validHandles fun c h _ => c == (a.cs.core : Nat) && h == Insn.hd x.w
      (b.onD fun d => d.dropHandle a.cs.core (Insn.hd x.w)).losePower hs

/-! ### KARR and KARRW (05 R161; 12 R376) -/

/-- An arrival on its way to the Selvage that holds the Knot. -/
def Dev.sendArrival (d : Dev) (k amount : Nat) (src : ArrSrc) : Dev :=
  { d with arrivals := d.arrivals ++ [⟨k, amount, src⟩] }

/-- An action may write remote memory: a handle of level 4, or a writable tensor in a mapped range (12 R374). -/
def Dev.writesRemote (d : Dev) (core : Nat) (x : Action) : Bool :=
  x.writes.any (fun h => ((d.core core).handle h).any fun y => y.spilled && y.level == 4)
    || (d.reachedDescs x.desc).any fun i => (d.tens i).any fun t => dWrite t.d && (d.pieces t).any fun p =>
      d.remotes.any fun r => decide (r.base < p.1 + p.2 ∧ p.1 < r.base + r.units * unit2M)

/-- A remote write of the stream, earlier than the action, is not acknowledged, or has still to be made by an action that is in
progress (12 R376). -/
def Dev.writesOut (d : Dev) (a : Act) : Bool :=
  (d.fab.remote ++ d.fab.waitWr).any (fun r => r.kind == 1 && r.act.any fun y => y.cs == a.cs)
    || (d.stream a.cs).acts.any fun y => y.id < a.id && !y.done && d.writesRemote a.cs.core y

/-- The request of a remote KARR. -/
def karrReq (a : Act) (x : Action) (tag : Nat) : RemoteReq :=
  { kind := 2, tag := tag, dev := x.dev, addr := Insn.kid x.w, len := x.val.toNat, act := some a, ctx := x.ctx, port := none }

def karrPacket (d : Dev) (a : Act) (r : RemoteReq) : Packet :=
  mkPacket r.dev d.myId 5 0 ((a.cs.core : Nat) % 256)
    (packFields [(limN 14 r.addr, 0), (limN 32 r.len, 14), (limN 9 r.tag, 46)]) 0 []

/-- A remote arrival leaves once the stream's earlier remote writes are acknowledged; one to this device itself reaches
its own Knot; an unreachable one ends with status 3. -/
def Box.karrRemote (b : Box) (a : Act) (x : Action) : Box :=
  match b.dev.writesOut a, b.dev.freeTag 2 with
  | false, some tag =>
    let r := karrReq a x tag
    let hold := fun (b : Box) => b.onD fun d => { d with fab := { d.fab with remote := d.fab.remote ++ [r] } }
    let b := b.onD fun d => d.actDone a
    if x.dev = b.dev.myId then
      let b := hold b
      if b.dev.knotServed r.addr then b.onD fun d => d.sendArrival r.addr r.len (.remote 64 b.dev.myId (tag + 512 * ((a.cs.core : Nat) % 256)))
      else b.knotDone r 4
    else
      let y := b.dev.sendRouted (karrPacket b.dev a r)
      if y.2 then hold (b.withDev y.1) else (b.withDev y.1).knotDone r 3
  | _, _ => b

def execKarr (a : Act) (s : State) : Res :=
  s.on fun b => b.gate a (isOp 0x40) (fun _ _ => []) fun b x =>
    if Insn.krmt x.w then b.karrRemote a x
    else b.onD fun d => (d.sendArrival (Insn.kid x.w) x.val.toNat (.act a)).actDone a

def execKarrw (a : Act) (s : State) : Res :=
  s.on fun b => b.work a (isOp 0x42) (fun _ _ => []) fun b x =>
    b.onD fun d => d.sendArrival (Insn.kid x.w) x.val.toNat (.act a)

/-! ### The arrival at the Selvage (02 R58, R59) -/

/-- The generation that the Knot holds before the arrival goes to the action and to special register 6 of its stream
(05 R161). -/
def Dev.observeGen (d : Dev) (a : Act) (g : W16) : Dev :=
  (d.updStream a.cs fun s => { s with gen := g }).updAction a fun x => { x with gen := some g, since := d.now }

/-- The answer to an arrival from a partner: status 0, or 4 when no running context holds the Knot any more. -/
def Box.ackKnot (b : Box) (seam dev tag status : Nat) : Box :=
  if seam = 64 then
    match b.dev.remoteReq [2] (tag % 512) dev status with
    | some r => b.knotDone r status
    | none => b
  else b.onD fun d =>
    (d.sendRouted (mkPacket dev d.myId 6 1 (tag / 512) (packFields [(limN 9 (tag % 512), 0), (limN 3 status, 9)]) 0 [])).1

/-- The engine that an arrival comes from: its core, or the Seam that brought it (log 65). -/
def Dev.arrivalEngine (d : Dev) : ArrSrc → Nat × Nat
  | .act a => (0, (a.cs.core : Nat))
  | .remote seam dev tag =>
    if seam = 64 then (0, ((d.remoteReq [2] (tag % 512) dev 0).bind (·.act)).elim 0 fun a => (a.cs.core : Nat)) else (1, seam)

/-- Arrival number `i` is the next one of its engine to its Selvage: those of one engine reach a die in the order of issue
(01 R43). -/
def Dev.arrivalNext (d : Dev) (i : Nat) (x : Arrival) : Bool :=
  !(d.arrivals.take i).any fun y =>
    dieKnot y.knot == dieKnot x.knot && d.arrivalEngine y.src == d.arrivalEngine x.src

/-- Applies arrival number `i` of those on their way (02 R59: the device chooses the order of arrivals that come together). -/
def Box.knotArrive (b : Box) (i : Nat) : Box :=
  match (b.dev.arrivals[i]?).filter (b.dev.arrivalNext i) with
  | none => b
  | some x =>
    let b := b.onD fun d => { d with arrivals := d.arrivals.eraseIdx i }
    match x.src with
    | .act a =>
      let g := (get? b.dev.knots x.knot).elim 0 (·.gen)
      (b.onD fun d => d.observeGen a g).arrive x.knot x.amount
    | .remote seam dev tag =>
      if b.dev.knotServed x.knot then (b.ackKnot seam dev tag 0).arrive x.knot x.amount
      else b.ackKnot seam dev tag 4

def execKnotArrive (i : Nat) (s : State) : Res := s.on fun b => b.knotArrive i

end Sys2Proof.Machine
end

