-- ==== Sys2Proof/Machine/Catalogue.lean ====
section
/-! DEFINITION. The catalogue of ICI commands: assigned opcodes, who may send them, the reserved bytes and fields of their
payloads, the context that a payload names, and the events of fields out of range (14 R419 to R426, R559; 04 to 18, payload
tables). -/

namespace Sys2Proof.Machine

/-! ### Payload fields -/

/-- `n` bytes of a payload, from byte `o`. -/
def pay (p : BitVec 384) (o n : Nat) : Nat := fld p (8 * o) (8 * n)
/-- `len` bits of a payload from bit `lo` of byte `o`. -/
def payBits (p : BitVec 384) (o lo len : Nat) : Nat := fld p (8 * o + lo) len

/-! ### Opcodes (14 R426) -/

/-- The bytes of each command's payload that hold a field, as first byte and length: none for an unassigned opcode. -/
def usedBytes (opc : Nat) : Option (List (Nat × Nat)) :=
  if opc = 0x0101 then some [(0, 3), (8, 28)]
  else if opc = 0x0102 then some [(0, 1)]
  else if opc = 0x0103 then some [(0, 1), (8, 8)]
  else if opc = 0x0104 then some []
  else if opc = 0x0105 then some [(8, 8)]
  else if opc = 0x0106 then some [(0, 13)]
  else if opc = 0x0107 then some [(0, 8)]
  else if opc = 0x0201 then some [(0, 13)]
  else if opc = 0x0202 then some [(0, 4)]
  else if opc = 0x0203 then some [(0, 2), (8, 8)]
  else if opc = 0x0204 then some [(0, 10), (12, 4)]
  else if opc = 0x0205 then some [(0, 17)]
  else if opc = 0x0206 then some [(0, 8)]
  else if opc = 0x0301 then some [(0, 13)]
  else if opc = 0x0302 then some [(0, 1), (8, 12)]
  else if opc = 0x0303 then some [(0, 2)]
  else if opc = 0x0304 ∨ opc = 0x0305 then some [(0, 1)]
  else if opc = 0x0401 then some [(0, 14)]
  else if opc = 0x0402 then some [(0, 8)]
  else if opc = 0x0403 then some [(8, 8)]
  else if opc = 0x0404 then some [(0, 3)]
  else if opc = 0x0405 then some [(0, 2)]
  else if opc = 0x0406 then some [(0, 4), (8, 8)]
  else if opc = 0x0407 then some [(0, 1), (8, 8)]
  else if opc = 0x0501 then some [(0, 3)]
  else if opc = 0x0502 then some [(0, 4), (8, 8)]
  else if opc = 0x0503 then some [(0, 4)]
  else if opc = 0x0504 then some [(0, 2), (8, 8)]
  else if opc = 0x0505 then some [(0, 15), (16, 8)]
  else if opc = 0x0506 then some [(0, 18)]
  else if opc = 0x0507 then some [(0, 8)]
  else if opc = 0x0508 then some [(0, 3), (4, 12)]
  else if opc = 0x0509 then some [(0, 4)]
  else if opc = 0x050A then some [(0, 1), (2, 2)]
  else if opc = 0x050B then some [(8, 8)]
  else if opc = 0x0601 then some [(0, 1)]
  else if opc = 0x0602 then some [(0, 4)]
  else if opc = 0x0603 ∨ opc = 0x0604 then some [(8, 8)]
  else if opc = 0x0701 then some [(0, 3), (4, 32)]
  else if opc = 0x0702 then some [(0, 1), (8, 8)]
  else if opc = 0x0703 then some [(0, 17)]
  else if opc = 0x0704 then some [(0, 1)]
  else if opc = 0x0705 then some [(0, 1), (8, 8)]
  else if opc = 0x0706 then some [(0, 1)]
  else if opc = 0x0707 then some [(0, 6), (8, 16)]
  else if opc = 0x0708 then some [(0, 1), (2, 2)]
  else if opc = 0x0709 then some [(8, 8)]
  else if opc = 0x0801 then some [(0, 1), (8, 16)]
  else if opc = 0x0802 then some [(8, 12)]
  else if opc = 0x0803 ∨ opc = 0x0804 then some [(0, 13)]
  else if opc = 0x0805 then some [(0, 15)]
  else if opc = 0x0806 then some [(0, 12)]
  else if opc = 0x0807 then some [(8, 8)]
  else if opc = 0x0901 then some [(0, 1), (2, 2), (8, 8)]
  else if opc = 0x0902 ∨ opc = 0x0903 then some [(0, 12), (16, 8)]
  else if opc = 0x0904 then some [(0, 8)]
  else if opc = 0x0905 then some [(0, 1), (2, 2), (8, 8)]
  else if opc = 0x0A01 ∨ opc = 0x0A03 then some [(0, 3), (8, 8)]
  else if opc = 0x0A02 then some [(0, 2), (8, 8)]
  else if opc = 0x0A04 then some [(0, 1), (8, 8)]
  else if opc = 0x0B01 then some [(0, 14)]
  else if opc = 0x0B02 then some [(0, 4)]
  else if opc = 0x0B03 then some [(0, 1), (4, 2), (8, 8)]
  else if opc = 0x0B04 then some [(0, 1), (2, 2), (8, 8)]
  else if opc = 0x0B05 then some [(0, 1), (8, 8)]
  else if opc = 0x0C01 then some [(0, 1), (2, 18)]
  else if opc = 0x0C02 then some [(0, 1), (2, 4), (8, 8)]
  else if opc = 0x0C03 then some [(0, 1), (8, 8)]
  else none

/-- The first reserved payload byte that is not 0 (14 R419, R559). -/
def reservedByte (opc : Nat) (p : BitVec 384) : Option Nat :=
  (List.range 48).find? fun i =>
    pay p i 1 != 0 && !((usedBytes opc).getD []).any fun u => u.1 ≤ i && i < u.1 + u.2

/-- Reserved fields within listed bytes, of the groups whose rule refuses a reserved field that is not 0 (11 R351; 12 R397;
17 R524), and of groups 1 and 2, where the byte then holds a value that its table does not allow (14 R559; log 53); in the
other groups such a field is ignored (00 R10): byte, lowest bit, bits. -/
def spareFields (opc : Nat) : List (Nat × Nat × Nat) :=
  if opc = 0x0101 then [(0, 3, 5), (1, 4, 4), (2, 1, 7)]
  else if opc = 0x0102 then [(0, 3, 5)]
  else if opc = 0x0103 then [(0, 4, 4)]
  else if opc = 0x0106 then [(12, 2, 6)]
  else if opc = 0x0201 then [(12, 1, 7)]
  else if opc = 0x0204 then [(8, 2, 6), (9, 1, 7)]
  else if opc = 0x0205 then [(16, 2, 6)]
  else if opc = 0x0401 then [(12, 2, 6), (13, 3, 5)]
  else if opc = 0x0404 ∨ opc = 0x0405 ∨ opc = 0x0406 ∨ opc = 0x0407 ∨ opc = 0x050A then [(0, 3, 5)]
  else if opc = 0x0501 then [(2, 1, 7)]
  else if opc = 0x0503 then [(2, 4, 4), (3, 1, 7)]
  else if opc = 0x0505 then [(14, 2, 6)]
  else if opc = 0x0506 then [(16, 2, 6)]
  else if opc = 0x0508 then [(2, 3, 5)]
  else if opc = 0x0904 then [(4, 7, 25)]
  else []

/-- Commands that only the management queue accepts (14 R425, R426). -/
def mgmtOnly (opc : Nat) : Bool :=
  [0x0101, 0x0102, 0x0106, 0x0107, 0x0205, 0x0206, 0x0404, 0x0405, 0x0406, 0x0407, 0x0501, 0x0502, 0x0503, 0x0505, 0x0506,
   0x0507, 0x0601, 0x0602, 0x0706, 0x0707, 0x0708, 0x0803, 0x0804, 0x0805, 0x0806, 0x0901, 0x0903, 0x0904].contains opc

/-- The event of a payload field out of range (14 R559). -/
def groupEvent (opc : Nat) : Nat :=
  let g := opc / 256
  if g = 1 then 0x1009 else if g = 2 then 0x2011 else if g = 3 then 0xE00E else if g = 4 then 0x4013
  else if g = 5 then 0x5012 else if g = 6 then 0x600A
  else if g = 7 then (if opc ≤ 0x0705 then 0xC806 else 0x700E)
  else if g = 8 then 0x8010 else if g = 9 then 0xD005 else if g = 10 then 0xC008 else if g = 11 then 0xB008
  else 0xA00B

/-! ### Contexts that a payload names (14 R425; 15 R473; 16 R499) -/

/-- Byte of the payload whose bits [2:0] name a context. -/
def ctxByte (opc : Nat) : Option Nat :=
  if opc = 0x0301 then some 12
  else if opc = 0x0508 then some 2
  else if [0x0101, 0x0102, 0x0302, 0x0303, 0x0304, 0x0305, 0x050A, 0x0701, 0x0A01, 0x0A02, 0x0A03, 0x0A04, 0x0B01, 0x0B02,
    0x0B03, 0x0B05, 0x0C01, 0x0C02, 0x0C03].contains opc then some 0
  else none

/-- The contexts that a command names: in its context field, by its plans, by a Baste ID that is taken, in its mask. -/
def Dev.ctxsNamed (d : Dev) (opc : Nat) (p : BitVec 384) : List Nat :=
  ((ctxByte opc).map fun b => payBits p b 0 3).toList
  ++ (if opc = 0x0509 then
        (d.fab.plans.filter fun e => pay p 0 2 ≤ e.1 && e.1 < pay p 0 2 + pay p 2 2).map (·.2.ctx) else [])
  ++ (if opc = 0x0701 ∨ opc = 0x0702 ∨ opc = 0x0704 ∨ opc = 0x0705 then
        let x := d.baste (payBits p (if opc = 0x0701 then 1 else 0) 0 4)
        if x.st = 0 then [] else [x.ctx] else [])
  ++ (if opc = 0x0801 then (List.range 8).filter fun n => bitOf p n else [])

/-! ### The checks of acceptance (14 R422) -/

/-- What a check of R422 answers: status, event and what follows queue, opcode and tag in its payload. -/
abbrev Refused := Nat × Nat × List Int

/-- The checks on opcode, reserved payload bytes and queue permission. -/
def Dev.refuses (d : Dev) (q opc : Nat) (p : BitVec 384) : Option Refused :=
  match usedBytes opc with
  | none => some (2, 0x1001, [])
  | some _ =>
    match reservedByte opc p with
    | some i => some (3, 0x1002, [16 + (i : Int)])
    | none =>
      if q = 8 then none
      else
        let other := (d.ctxsNamed opc p).find? (· != q)
        if mgmtOnly opc || other.isSome then
          some (4, 0x1003, [((other.orElse fun _ => (d.ctxsNamed opc p).head?).getD 0xFFFF : Nat)])
        else none

/-- Completes a command that a check of R422 refuses: nothing else changes. -/
def Dev.refuse (d : Dev) (c : Pend) (r : Refused) : Dev :=
  (d.evFw r.2.1 none ([(c.q : Int), (c.opc : Int), (c.tag.toNat : Int)] ++ r.2.2)).complete c r.1 r.2.1

end Sys2Proof.Machine
end

