-- ==== Sys2Proof/Machine/Queues.lean ====
section
/-! DEFINITION. The command queues: doorbells and completion heads, enabling the management queue, fetching, acceptance and
writing completions (14 R413 to R423; 18 R535). -/

namespace Sys2Proof.Machine

/-! ### Errors (14 R416) -/

/-- A queue enters ERROR: kind 0 doorbell bits, 1 doorbell overrun, 2 completion head, 3 ring access, 4 enable. -/
def Box.queueError (b : Box) (q kind : Nat) : Box :=
  (b.onD fun d => ((d.updQueue q fun x => { x with error := true }).setDevirq 1).ev 0x1004 (dieSelvage 0) none [q, kind]).flushMsgs

/-- Entries between two indices of a ring. -/
def Queue.dist (x : Queue) (a b : Nat) : Nat := (b + x.size - a % x.size) % x.size

/-! ### Doorbells (14 R416, R430) -/

/-- Why a doorbell value is invalid: 0 a reserved index bit, 1 more entries than the ring has free. -/
def Queue.tailFault (x : Queue) (v : Nat) : Option Nat :=
  if x.size ≤ v then some 0
  else if x.size - 1 - x.dist x.head x.tail < x.dist x.tail v then some 1
  else none

/-- QUEUE_DOORBELL: ignored while the queue is disabled or in ERROR; in bare mode it only updates TAIL. -/
def Box.doorbell (b : Box) (q v : Nat) : Box :=
  let x := b.dev.queue q
  if !x.enable || x.error then b
  else match x.tailFault v with
    | none => b.onD fun d => d.updQueue q fun x => { x with tail := v }
    | some k => if b.dev.bare then b else b.queueError q k

def execQueueDoorbell (q : Fin 9) (v : W32) (s : State) : Res := s.on fun b => b.doorbell q v.toNat

/-- CQHEAD_WRITE: a value with a reserved bit, or one that passes CQTAIL, is invalid. -/
def Box.cqHeadWrite (b : Box) (q v : Nat) : Box :=
  let x := b.dev.queue q
  if x.error then b
  else if x.size ≤ v ∨ x.dist x.cqHead x.cqTail < x.dist x.cqHead v then b.queueError q 2
  else b.onD fun d => d.updQueue q fun x => { x with cqHead := v }

def execCqheadWrite (q : Fin 9) (v : W32) (s : State) : Res := s.on fun b => b.cqHeadWrite q v.toNat

/-! ### The control register of the management queue (14 R413) -/

/-- The rings of a queue may be enabled: LOG2SIZE 4 to 12, bases aligned, rings whole in a region or the companion
window. -/
def Dev.ringsOk (d : Dev) (sq cq log2 : Nat) : Bool :=
  decide (4 ≤ log2 ∧ log2 ≤ 12) && sq % 64 == 0 && cq % 64 == 0
    && d.addressable sq (64 * 2 ^ log2) && d.addressable cq (32 * 2 ^ log2)

/-- An enabled queue with indices 0, PHASE 1 and ERROR clear. -/
def Queue.enabled (x : Queue) : Queue :=
  { x with enable := true, error := false, tail := 0, head := 0, cqHead := 0, cqTail := 0, phase := true }

/-- The size and interrupt fields that a write of YK_QCTRL_8 sets. -/
def Queue.ctrlFields (x : Queue) (v : W32) : Queue :=
  { x with log2 := if x.enable then x.log2 else fld v 0 4, irqAll := bitOf v 5 }

/-- A write with ENABLE 1: checks and enables a disabled queue. -/
def Box.mgmtEnable (b : Box) (v : W32) : Box :=
  if !bitOf v 4 then b
  else
    let was := (b.dev.queue 8).enable
    let b := b.onD fun d => d.updQueue 8 fun x => x.ctrlFields v
    let x := b.dev.queue 8
    if was then b
    else if b.dev.ringsOk x.sqBase x.cqBase x.log2 then b.onD fun d => d.updQueue 8 Queue.enabled
    else b.queueError 8 4

def execMgmtQueueEnable (v : W32) (s : State) : Res := s.on fun b => b.mgmtEnable v

/-- A write with ENABLE 0: fetching stops; what was fetched is still accepted and completed. -/
def Dev.mgmtDisable (d : Dev) (v : W32) : Dev :=
  if bitOf v 4 then d else d.updQueue 8 fun x => { (x.ctrlFields v) with enable := false }

def execMgmtQueueDisable (v : W32) (s : State) : Res := s.onDev fun d => d.mgmtDisable v

/-! ### Fetching (14 R414, R415) -/

/-- Completions written and not yet consumed. -/
def Queue.unread (x : Queue) : Nat := x.dist x.cqHead x.cqTail

/-- A QUEUE_DELETE of the queue is in progress (14 R428). -/
def Dev.deleting (d : Dev) (q : Nat) : Bool := d.opens.any fun o => o.kind == .queueDelete q

/-- The limits of R415; entries fetched and not yet accepted count with INFLIGHT. -/
def Dev.fetchRoom (d : Dev) (q : Nat) : Bool :=
  let x := d.queue q
  let n := d.inflight q + x.fetched.length + 1
  decide (n + x.unread < x.size - 1) && decide (n ≤ 255)

/-- A ring in Spool memory, which Hold does not serve. -/
def Dev.heldRing (d : Dev) (a n : Nat) : Bool := d.power.hold && !inCompanion a n

/-- ENTRY_FETCH. A ring in a Spool in Trip waits (11 R339). -/
def Box.fetchEntry (b : Box) (q : Nat) : Box :=
  let d := b.dev
  let x := d.queue q
  let a := x.sqBase + 64 * x.head
  if !d.serving || !x.enable || x.error || d.yoke.down.isSome || x.head == x.tail || d.deleting q || !d.fetchRoom q then b
  else if d.heldRing a 64 then b.onD fun d => d.wakeFor 0 0
  else if d.tripHolds a 64 then b
  else
    let l := b.store.rdMem a 64
    if anyBad l || !d.addressable a 64 then b.queueError q 3
    else b.onD fun d => d.updQueue q fun x =>
      { x with head := (x.head + 1) % x.size, fetched := x.fetched ++ [BitVec.ofNat 512 (leNat (bytesOf l))] }

def execEntryFetch (q : Fin 9) (s : State) : Res := s.on fun b => b.fetchEntry q

/-! ### Acceptance (14 R422) -/

def entryOpc (e : BitVec 512) : Nat := fld e 0 16
def entryFence (e : BitVec 512) : Bool := bitOf e 16
def entryDeadline (e : BitVec 512) : Nat := fld e 64 64
def entryPay (e : BitVec 512) : BitVec 384 := BitVec.ofNat 384 (fld e 128 384)

def entryPend (q : Nat) (e : BitVec 512) : Pend :=
  ⟨q, entryOpc e, BitVec.ofNat 32 (fld e 32 32), bitOf e 17⟩

/-- The checks in the order of R422. -/
def Dev.entryRefused (d : Dev) (q : Nat) (e : BitVec 512) : Option Refused :=
  let r := d.refuses q (entryOpc e) (entryPay e)
  if r.any (·.1 == 2) then r
  else if fld e 18 6 ≠ 0 then some (3, 0x1002, [2])
  else if fld e 24 8 ≠ 0 then some (3, 0x1002, [3])
  else match r with
    | some x => some x
    | none =>
      if entryDeadline e ≠ 0 ∧ entryDeadline e < d.now then some (6, 0x1006, [entryDeadline e, d.now]) else none

/-- A further SCHED_LOAD for a context whose load is in progress waits, and what is behind it in its queue waits with it
(05 R173). -/
def Dev.loadWaits (d : Dev) (opc : Nat) (p : BitVec 384) : Bool := opc == 0x0301 && d.loadingCtx (payBits p 12 0 3)

/-- The head of a queue's fetched entries, unless FENCE or a load in progress holds it back. -/
def Dev.acceptable (d : Dev) (q : Nat) : Option (BitVec 512) :=
  match (d.queue q).fetched with
  | [] => none
  | e :: _ => if (entryFence e && d.inflight q != 0) || d.loadWaits (entryOpc e) (entryPay e) then none else some e

/-- The queue that is served next: the management queue first, else the context queues in rotation. -/
def Dev.nextQueue (d : Dev) : Option Nat :=
  (8 :: (List.range 8).map fun i => (d.yoke.lastServed + 1 + i) % 8).find? fun q => (d.acceptable q).isSome

/-- Some accepted command has not made its checks; a SCHED_LOAD works on while later commands are accepted (14 R423). -/
def Dev.accepting (d : Dev) : Bool := (List.range 9).any fun q => (d.queue q).accepted.any fun e => entryOpc e != 0x0301

/-- COMMAND_ACCEPT: takes one fetched command and checks it; a command that passes stands in `accepted` until its own row
performs it, and nothing is accepted before, unless what stands there is a SCHED_LOAD. -/
def Dev.acceptNext (d : Dev) : Dev :=
  if !d.serving || d.accepting then d
  else match d.nextQueue with
    | none => d
    | some q =>
      match d.acceptable q with
      | none => d
      | some e =>
        let bad := d.entryRefused q e
        let d := if q = 8 then d else { d with yoke := { d.yoke with lastServed := q } }
        let d := d.updQueue q fun x => { x with fetched := x.fetched.drop 1 }
        match bad with
        | some r => d.refuse (entryPend q e) r
        | none => d.updQueue q fun x => { x with accepted := x.accepted ++ [e] }

def execCommandAccept (s : State) : Res := s.onDev Dev.acceptNext

/-! ### Completions (14 R417 to R421) -/

/-- The 32 bytes of a completion entry. -/
def completionBytes (x : Queue) (c : Completion) (now : Nat) : List Byte :=
  leBytes 2 c.cmd.opc ++ leBytes 1 c.status ++ leBytes 1 (boolN x.phase) ++ leBytes 4 c.cmd.tag.toNat ++ leBytes 2 c.event
    ++ leBytes 2 x.head ++ leBytes 4 c.detail.toNat ++ leBytes 8 c.result.toNat ++ leBytes 8 now

/-- CQTAIL moves on; PHASE inverts when it wraps. -/
def Queue.advanceCq (x : Queue) : Queue :=
  let t := (x.cqTail + 1) % x.size
  { x with cqTail := t, phase := if t = 0 then !x.phase else x.phase, due := x.due.drop 1 }

/-- The interrupt message of a completion. -/
def Dev.queueIrq (d : Dev) (q : Nat) (c : Completion) : Dev :=
  let x := d.queue q
  let a := x.irqAddr.toNat / 4 * 4
  if (c.cmd.irq || x.irqAll) && a != 0 then { d with yoke := { d.yoke with msgs := d.yoke.msgs ++ [(a, x.irqData)] } } else d

/-- A queue has nothing fetched, accepted or in flight. -/
def Dev.queueEmpty (d : Dev) (q : Nat) : Bool := (d.queue q).fetched.isEmpty && d.inflight q == 0

/-- QUEUE_DELETE commands whose queue has emptied: the queue is disabled, its ERROR cleared, and the command completes. -/
def Dev.settleDeletes (d : Dev) : Dev :=
  let gone := (List.range 8).filter fun q => d.deleting q && d.queueEmpty q
  gone.foldl (fun d q =>
    (d.updQueue q fun x => { x with enable := false, error := false }).endOpens (fun o => o.kind == .queueDelete q) 0 0) d

/-- COMPLETION_WRITE: the oldest completion that is due on a queue. -/
def Box.writeCompletion (b : Box) (q : Nat) : Box :=
  let d := b.dev
  let x := d.queue q
  match x.due with
  | [] => b
  | c :: _ =>
    let a := x.cqBase + 32 * x.cqTail
    if !d.ready || d.cutter.active.isNone || d.yoke.down.isSome then b
    else if d.heldRing a 32 then b.onD fun d => d.wakeFor 3 c.cmd.opc
    else if d.tripHolds a 32 then b
    else
      let b := b.wrClean a (completionBytes x c d.now)
      (b.onD fun d => ((d.updQueue q Queue.advanceCq).queueIrq q c).settleDeletes).flushMsgs

def execCompletionWrite (q : Fin 9) (s : State) : Res := s.on fun b => b.writeCompletion q

end Sys2Proof.Machine
end

