-- ==== Sys2Proof/Machine/Ici.lean ====
section
/-! DEFINITION. What every ICI command shares: its acceptance, waiting for the exit from Hold, completing, failing with its
group's event, and the checks of addresses that it reads or writes (14 R407, R420 to R425, R559; 15 R438; 18 R535). -/

namespace Sys2Proof.Machine

/-! ### Outcomes (14 R420, R421) -/

/-- The command takes its full effect. -/
def Dev.okCmd (d : Dev) (k : Pend) (detail : W32 := 0) (result : W64 := 0) : Dev := d.complete k 0 0 detail result

/-- The command fails with an event of its chapter. -/
def Dev.failCmd (d : Dev) (k : Pend) (ev : Nat) (ctx : Option Nat) (slots : List Int) (detail : W32 := 0) : Dev :=
  (d.evFw ev ctx slots).complete k 1 ev detail

/-- A payload field out of range: the event of the group, with the opcode and the field (14 R559); event 0xC008 carries an
entry index before the field, 0 for a field of the payload itself (log 48). -/
def Dev.badField (d : Dev) (k : Pend) (ctx : Option Nat) (byte : Int) : Dev :=
  d.failCmd k (groupEvent k.opc) ctx (if k.opc / 256 = 10 then [(k.opc : Int), 0, byte] else [(k.opc : Int), byte])

def Box.ok (b : Box) (k : Pend) (detail : W32 := 0) (result : W64 := 0) : Box := b.onD fun d => d.okCmd k detail result
def Box.fail (b : Box) (k : Pend) (ev : Nat) (ctx : Option Nat) (slots : List Int) (detail : W32 := 0) : Box :=
  b.onD fun d => d.failCmd k ev ctx slots detail
def Box.bad (b : Box) (k : Pend) (ctx : Option Nat) (byte : Int) : Box := b.onD fun d => d.badField k ctx byte

/-- The first check that fails, of pairs of a condition and the byte of its field. -/
def firstField (l : List (Bool × Nat)) : Option Nat := (l.find? fun x => !x.1).map (·.2)

/-- Range checks of payload fields, then `f`. -/
def Box.fields (b : Box) (k : Pend) (ctx : Option Nat) (l : List (Bool × Nat)) (f : Box → Box) : Box :=
  match firstField l with
  | some byte => b.bad k ctx byte
  | none => f b

/-! ### Addresses (14 R407, R559; 15 R438) -/

/-- Event 0x1007 for a command: address, read 0 or write 1, opcode. -/
def Dev.deniedCmd (d : Dev) (k : Pend) (a : Nat) (write : Bool) : Dev :=
  (d.oncePerSec 0x1007 fun d => d.evFw 0x1007 none [a, boolN write, k.opc]).complete k 1 0x1007

/-- Checks the address in the field at `byte`, with `n` bytes that the command reads or writes there. -/
def Box.withAddr (b : Box) (k : Pend) (ctx : Option Nat) (byte a n align : Nat) (write : Bool) (f : Box → Box) : Box :=
  if a % align ≠ 0 ∨ (n ≠ 0 ∧ !b.dev.addressable a n) then b.bad k ctx byte
  else if n ≠ 0 ∧ inCompanion a n ∧ !b.dev.granted a n write then b.onD fun d => d.deniedCmd k a write
  else f b

/-- The address of the first poisoned line of bytes read from `a`. -/
def firstPoison (a : Nat) (l : List PB) : Nat := a + (l.takeWhile fun x => !x.2).length

/-- Event 0xF005: a command's payload data read poisoned. -/
def Dev.poisonedCmd (d : Dev) (k : Pend) (a : Nat) : Dev := d.failCmd k 0xF005 none [k.q, k.opc, k.tag.toNat, a]

/-- Reads payload data of a command from memory. -/
def Box.withData (b : Box) (k : Pend) (a n : Nat) (f : List Byte → Box → Box) : Box :=
  let l := b.store.rdMem a n
  if anyBad l then b.onD fun d => d.poisonedCmd k (firstPoison a l / 64 * 64) else f (bytesOf l) b

/-- Writes a result and completes. -/
def Box.giveBytes (b : Box) (k : Pend) (ctx : Option Nat) (byte a : Nat) (l : Dev → List Byte) : Box :=
  b.withAddr k ctx byte a (l b.dev).length 64 true fun b => (b.wrClean a (l b.dev)).ok k

/-! ### Acceptance and Hold -/

/-- The 64 bytes of a command entry. -/
def iciEntry (opc : Nat) (c : Ici) : BitVec 512 :=
  BitVec.ofNat 512 (opc + boolN c.irq * 2 ^ 17 + c.tag.toNat * 2 ^ 32 + c.p.toNat * 2 ^ 128)

/-- The entry spells the command. -/
def spells (opc : Nat) (c : Ici) (e : BitVec 512) : Bool :=
  entryOpc e == opc && fld e 32 32 == c.tag.toNat && bitOf e 17 == c.irq && entryPay e == c.p

/-- The command stands among the accepted entries of its queue. -/
def Dev.isAccepted (d : Dev) (opc : Nat) (c : Ici) : Bool := (d.queue c.q.val).accepted.any (spells opc c)

def Dev.takeAccepted (d : Dev) (opc : Nat) (c : Ici) : Dev :=
  d.updQueue c.q.val fun x => { x with accepted := x.accepted.eraseP (spells opc c) }

def Ici.pend (opc : Nat) (c : Ici) : Pend := ⟨c.q.val, opc, c.tag, c.irq⟩

/-- The address lies in Spool memory. -/
def inSpools (a : Nat) : Bool := decide (a < companionBase)

/-- What a command reads or writes in memory at the addresses that its payload names: address and bytes. -/
def iciSpans (opc : Nat) (p : BitVec 384) : List (Nat × Nat) :=
  let a := pay p 0 8
  let c := pay p 8 8
  if opc = 0x0201 then [(a, 64 * pay p 10 2)]
  else if opc = 0x0301 ∨ (0x0803 ≤ opc ∧ opc ≤ 0x0805) then [(a, pay p 8 4)]
  else if opc = 0x0806 ∨ opc = 0x0903 then [(a, 7296)]
  else if opc = 0x0703 then [(a, 262144)]
  else if opc = 0x0801 then [(c, 64), (pay p 16 8, 5504)]
  else if opc = 0x0902 then [(pay p 16 8, 512 * pay p 8 4)]
  else if opc = 0x0502 then [(c, 4 * pay p 2 2)]
  else if opc = 0x0508 then [(c, pay p 4 4)]
  else if opc = 0x0701 ∨ opc = 0x0B03 then [(c, 16 * pay p 4 2)]
  else if opc = 0x0901 then [(c, 160 * pay p 2 2)]
  else if opc = 0x0A01 ∨ opc = 0x0A03 then [(c, 64 * pay p 2 1)]
  else if opc = 0x0A02 then [(c, 192)]
  else if opc = 0x0802 then [(c, 61440)]
  else if opc = 0x0407 then [(c, 1088)]
  else if opc = 0x0504 then [(c, 32 * pay p 1 1)]
  else if opc = 0x0604 ∨ opc = 0x0807 then [(c, 128)]
  else if opc = 0x0B04 then [(c, 32 * pay p 2 2)]
  else if opc = 0x0C02 then [(c, 32 * pay p 4 2)]
  else if [0x0103, 0x0105, 0x0203, 0x0403, 0x0406, 0x050B, 0x0603, 0x0705, 0x0709, 0x0905, 0x0A04, 0x0B05, 0x0C03].contains opc then
    [(c, 64)]
  else []

/-- Accesses of a command wait for a Spool: one in Trip that its data, its result, its zeroing or its test needs (11 R339), or a
channel in the stall of a retrain in place that it tests (11 R345). -/
def Dev.spoolWaits (d : Dev) (opc : Nat) (p : BitVec 384) : Bool :=
  (iciSpans opc p).any (fun s => d.tripHolds s.1 s.2)
    || (opc == 0x0401 && bitOf p 97 && (List.range 8).any fun m =>
          (d.spool m).tripped && (!bitOf p 96 || payBits p 13 0 3 == m))
    || (opc == 0x0406 && (let s := d.spool (payBits p 0 0 3)
          s.tripped || (s.logical (pay p 1 1)).any s.stalls))

/-- Performs an accepted command; `needs` says whether its effect needs Spool memory or a cluster, for which a command
waits in Hold; it also waits for a Spool that serves no access. A command that is not yet accepted is accepted first, if its queue serves it, every command accepted before
it has made its checks and changes (07 R194; 14 R422), and no load of its context is in progress (05 R173). -/
def Box.ici (b : Box) (opc : Nat) (c : Ici) (needs : Bool) (f : Pend → Box → Box) : Box :=
  let d := b.dev
  let k := Ici.pend opc c
  let was := d.isAccepted opc c
  let x := d.queue c.q.val
  if !d.serving || !(was || (x.enable && !x.error && !d.accepting && !d.loadWaits opc c.p)) then b
  else match (if was then none else d.refuses c.q.val opc c.p) with
    | some r => b.onD fun d => d.refuse k r
    | none =>
      if (d.power.hold && needs) || d.spoolWaits opc c.p then b.onD fun d =>
        let d := if d.power.hold && needs then d.wakeFor 0 opc else d
        if was then d else d.updQueue c.q.val fun x => { x with accepted := x.accepted ++ [iciEntry opc c] }
      else
        let b := b.onD fun d => d.takeAccepted opc c
        match (spareFields opc).find? fun s => payBits c.p s.1 s.2.1 s.2.2 != 0 with
        | some s => b.bad k none (fieldItem s.1 s.2.1)
        | none => f k b

/-- A command as a next state. -/
def State.ici (s : State) (opc : Nat) (c : Ici) (needs : Bool) (f : Pend → Box → Box) : Res :=
  s.on fun b => b.ici opc c needs f

end Sys2Proof.Machine
end

