-- ==== Sys2Proof/Machine/Admin.lean ====
section
/-! DEFINITION. Queue administration, group 0x01 (14 R427, R428). -/

namespace Sys2Proof.Machine

/-! ### QUEUE_CREATE, QUEUE_DELETE, QUEUE_QUERY -/

def qcSq (p : BitVec 384) : Nat := pay p 8 8
def qcCq (p : BitVec 384) : Nat := pay p 16 8
def qcLog2 (p : BitVec 384) : Nat := payBits p 1 0 4

/-- The queue that QUEUE_CREATE enables. -/
def createdQueue (x : Queue) (p : BitVec 384) : Queue :=
  { x.enabled with
    sqBase := qcSq p, cqBase := qcCq p, log2 := qcLog2 p, irqAll := bitOf p 16
    irqAddr := BitVec.ofNat 64 (pay p 24 8), irqData := BitVec.ofNat 32 (pay p 32 4) }

def Box.queueCreate (k : Pend) (p : BitVec 384) (b : Box) : Box :=
  let n := payBits p 0 0 3
  let log2 := qcLog2 p
  b.fields k none
    [(!(b.dev.queue n).enable, 0), (decide (4 ≤ log2 ∧ log2 ≤ 12), 1),
     (qcSq p % 64 == 0 && b.dev.addressable (qcSq p) (64 * 2 ^ log2), 8),
     (qcCq p % 64 == 0 && b.dev.addressable (qcCq p) (32 * 2 ^ log2), 16), (pay p 24 8 % 4 == 0, 24)]
    fun b => b.onD fun d => (d.updQueue n fun x => createdQueue x p).okCmd k

def execQueueCreate (c : Ici) (s : State) : Res := s.ici 0x0101 c false fun k b => b.queueCreate k c.p

/-- QUEUE_DELETE: completes when every fetched command of the queue has completed and written its completion. -/
def Box.queueDelete (k : Pend) (p : BitVec 384) (b : Box) : Box :=
  let n := payBits p 0 0 3
  b.fields k none [(!(b.dev.ctx n).live, 0)] fun b => b.onD fun d =>
    if (d.queue n).enable then ({ d with opens := d.opens ++ [(⟨k, .queueDelete n⟩ : OpenCmd)] }).settleDeletes else d.okCmd k

def execQueueDelete (c : Ici) (s : State) : Res := s.ici 0x0102 c false fun k b => b.queueDelete k c.p

/-- The 64 bytes of a queue's register block. -/
def Dev.queueBlock (d : Dev) (q : Nat) : List Byte :=
  leBytes 8 (d.rdQueue q 0x00) ++ leBytes 8 (d.rdQueue q 0x08) ++ leBytes 4 (d.rdQueue q 0x10) ++ leBytes 4 (d.rdQueue q 0x14)
    ++ leBytes 4 (d.rdQueue q 0x18) ++ leBytes 4 (d.rdQueue q 0x1C) ++ leBytes 4 (d.rdQueue q 0x20)
    ++ leBytes 4 (d.rdQueue q 0x24) ++ leBytes 8 (d.rdQueue q 0x28) ++ leBytes 4 (d.rdQueue q 0x30) ++ zeros 12

def execQueueQuery (c : Ici) (s : State) : Res :=
  s.ici 0x0103 c (inSpools (pay c.p 8 8)) fun k b =>
    b.fields k none [(decide (payBits c.p 0 0 4 ≤ 8), 0)] fun b =>
      b.giveBytes k none 8 (pay c.p 8 8) fun d => d.queueBlock (payBits c.p 0 0 4)

/-! ### NOP, DEVICE_INFO -/

def execIciNop (c : Ici) (s : State) : Res := s.ici 0x0104 c false fun k b => b.ok k

/-- Lowest and highest Seam protocol level of the running Pattern (12 R395). -/
def Dev.levels (d : Dev) : Nat × Nat := (d.fw.pattern.level - 2, d.fw.pattern.level)

def Dev.infoBytes (d : Dev) : List Byte :=
  leBytes 8 d.rdYkId ++ leBytes 8 d.rdSpares ++ leBytes 1 d.levels.1 ++ leBytes 1 d.levels.2 ++ leBytes 1 (d.rdYkStatus / 4 % 4)
    ++ zeros 5 ++ ((List.range 8).flatMap fun n => leBytes 1 (d.ctx n).st.num) ++ zeros 32

def execDeviceInfo (c : Ici) (s : State) : Res :=
  s.ici 0x0105 c (inSpools (pay c.p 8 8)) fun k b => b.giveBytes k none 8 (pay c.p 8 8) Dev.infoBytes

/-! ### COMPANION_MAP, COMPANION_UNMAP -/

def Grant.overlaps (g : Grant) (a n : Nat) : Bool := g.base < a + n && a < g.base + g.units * 4096

def Box.companionMap (k : Pend) (p : BitVec 384) (b : Box) : Box :=
  let a := pay p 0 8
  let n := pay p 8 4
  b.fields k none
    [(a % 4096 == 0 && inCompanion a 0, 0), (decide (1 ≤ n ∧ n ≤ 2 ^ 28), 8), (inCompanion a (n * 4096), 0), (payBits p 12 0 2 != 0, 12),
     (!(b.dev.grants.any fun g => g.overlaps a (n * 4096)), 0), (decide (b.dev.grants.length < 1024), 0)]
    fun b => b.onD fun d => ({ d with grants := d.grants ++ [(⟨a, n, bitOf p 96, bitOf p 97⟩ : Grant)] }).okCmd k

def execCompanionMap (c : Ici) (s : State) : Res := s.ici 0x0106 c false fun k b => b.companionMap k c.p

/-- Byte ranges that lie in memory because of valid native descriptors, and of the rings of enabled queues. -/
def Dev.descTouches (d : Dev) (a n : Nat) : Bool :=
  d.descs.any fun e => match e.2 with
    | .native t => !dEmpty t && decide ((dRange t).1 < ((a + n : Nat) : Int)) && decide ((a : Int) ≤ (dRange t).2)
    | _ => false
def Dev.ringTouches (d : Dev) (a n : Nat) : Bool :=
  d.queues.any fun e => e.2.enable &&
    ((e.2.sqBase < a + n && a < e.2.sqBase + 64 * e.2.size) || (e.2.cqBase < a + n && a < e.2.cqBase + 32 * e.2.size))
def Dev.spillTouches (d : Dev) (a n : Nat) : Bool :=
  d.cores.any fun e => e.2.handles.any fun h =>
    h.2.spilled && h.2.backing < a + n && a < h.2.backing + h.2.lines * 64

/-- COMPANION_UNMAP: the grant that the base names, unless something lies in it. -/
def Box.companionUnmap (k : Pend) (p : BitVec 384) (b : Box) : Box :=
  let a := pay p 0 8
  match b.dev.grants.find? (·.base == a) with
  | none => b.bad k none 0
  | some g =>
    let n := g.units * 4096
    if b.dev.descTouches a n || b.dev.ringTouches a n || b.dev.spillTouches a n then b.bad k none 0
    else b.onD fun d => ({ d with grants := d.grants.filter (·.base != a) }).okCmd k

def execCompanionUnmap (c : Ici) (s : State) : Res := s.ici 0x0107 c false fun k b => b.companionUnmap k c.p

end Sys2Proof.Machine
end

