-- ==== Sys2Proof/Machine/Collectives.lean ====
section
/-! DEFINITION. Collective instances: launch checks, the ring, two-dimensional ring and direct algorithms, reduction,
completion over the tree, and failing (12 R379 to R393; 02 R74). -/

namespace Sys2Proof.Machine

/-! ### The COLL record (12 R380); a launched action's n0 is COUNT, val the instance -/

def clPlan (r : BitVec 256) : Nat := recN r 2 2
def clDs (r : BitVec 256) : Nat := recN r 4 2
def clDd (r : BitVec 256) : Nat := recN r 6 2
def clDstart (r : BitVec 256) : Nat := recN r 12 4
def clDdstart (r : BitVec 256) : Nat := recN r 16 4

/-- Bits per element, and elements of a chunk of 384 bytes (12 R382; log 29). -/
def Plan.bits (p : Plan) : Nat := fmtBits p.fmt
def Plan.perChunk (p : Plan) : Nat := 3072 / max 1 p.bits

/-- Chunks of a piece of `len` elements. -/
def Plan.chunks (p : Plan) (len : Nat) : Nat := ceilDiv len p.perChunk

def reductionOf (r : Nat) : Int := reductionSlot r
def reductionDie (r : Nat) : Nat := dieSelvage (r / 8)

/-! ### What an instance sends and receives (12 R384 to R386) -/

/-- A pass around a ring: its first round, number of positions, this member's position, the neighbours, the elements it
covers, and whether it gathers complete segments or reduces partial ones. -/
structure Leg where
  base : Nat
  size : Nat
  pos : Nat
  next : Nat
  prev : Nat
  first : Nat
  len : Nat
  gather : Bool

/-- Segment s of a leg: first element and length. -/
def Leg.seg (l : Leg) (s : Nat) : Nat × Nat := (l.first + (segment s l.len l.size).1, (segment s l.len l.size).2)

/-- A ring over all members. -/
def Plan.ring (p : Plan) (base n : Nat) (gather : Bool) : Leg :=
  let m := p.nmemb
  ⟨base, m, p.self, (p.self + 1) % m, (p.self + m - 1) % m, 0, n, gather⟩

/-- A ring over the row group, and over the column group, of a two-dimensional plan. -/
def Plan.rowRing (p : Plan) (base n : Nat) (gather : Bool) : Leg :=
  let r := p.self / p.nr * p.nr
  let c := p.self % p.nr
  ⟨base, p.nr, c, r + (c + 1) % p.nr, r + (c + p.nr - 1) % p.nr, 0, n, gather⟩
def Plan.colRing (p : Plan) (base n : Nat) (gather : Bool) : Leg :=
  let h := p.nmemb / p.nr
  let c := p.self % p.nr
  let i := p.self / p.nr
  let s := segment c n p.nr
  ⟨base, h, i, (i + 1) % h * p.nr + c, (i + h - 1) % h * p.nr + c, s.1, s.2, gather⟩

/-- The legs of an instance of n elements. -/
def Plan.legs (p : Plan) (n : Nat) : List Leg :=
  let m := p.nmemb
  if p.op = 1 then
    if p.algo = 1 then
      let h := m / p.nr
      [p.rowRing 0 n false, p.colRing (p.nr - 1) n false, p.colRing (p.nr - 1 + (h - 1)) n true,
       p.rowRing (p.nr - 1 + 2 * (h - 1)) n true]
    else [p.ring 0 n false, p.ring (m - 1) n true]
  else if p.op = 2 then [p.ring 0 n false]
  else if p.op = 3 then [p.ring 0 (n * m) true]
  else []

/-- Where the elements of a piece come from when this member sends it: a leg at a round of it, its own DS, or what it
received in a round from a member. -/
inductive Origin where
  | leg (i r : Nat)
  | own
  | hop (src round : Nat)

/-- A piece that this member sends. -/
structure SendPiece where
  dst : Nat
  round : Nat
  first : Nat
  len : Nat
  origin : Origin

/-- A piece that this member receives; `leg`: the leg that combines it, none when it is complete. -/
structure RecvPiece where
  src : Nat
  round : Nat
  first : Nat
  len : Nat
  leg : Option Nat

/-- Sends and receives of leg number `i`. -/
def Leg.sends (l : Leg) (i : Nat) : List SendPiece :=
  (List.range (l.size - 1)).map fun r =>
    let s := l.seg ((l.pos + 2 * l.size - r - (if l.gather then 0 else 1)) % l.size)
    ⟨l.next, l.base + r, s.1, s.2, .leg i r⟩
def Leg.recvs (l : Leg) (i : Nat) : List RecvPiece :=
  (List.range (l.size - 1)).map fun r =>
    let s := l.seg ((l.pos + 2 * l.size - r - (if l.gather then 1 else 2)) % l.size)
    ⟨l.prev, l.base + r, s.1, s.2, if l.gather then none else some i⟩

/-- The member whose DEST is a member (OP 6). -/
def Plan.giver (p : Plan) (m : Nat) : Nat := ((List.range p.nmemb).find? fun i => p.dest i == m).getD m

/-- Distance of this member from the root of a broadcast, in ascending member index. -/
def Plan.hopNo (p : Plan) : Nat := (p.self + p.nmemb - p.root) % max 1 p.nmemb

def Plan.others (p : Plan) : List Nat := (List.range p.nmemb).filter (· != p.self)

def Plan.sends (p : Plan) (n : Nat) : List SendPiece :=
  let m := p.nmemb
  if p.op ≤ 3 then ((List.range (p.legs n).length).zip (p.legs n)).flatMap fun l => l.2.sends l.1
  else if p.op = 4 then p.others.map fun j => ⟨j, 0, j * n, n, .own⟩
  else if p.op = 5 then
    (if p.algo = 2 then (if p.self = p.root then p.others.map fun j => ⟨j, 0, 0, n, .own⟩ else [])
     else if p.hopNo + 1 < m then
      [⟨(p.self + 1) % m, p.hopNo, 0, n, if p.hopNo = 0 then .own else .hop ((p.self + m - 1) % m) (p.hopNo - 1)⟩] else [])
  else if p.dest p.self = p.self then [] else [⟨p.dest p.self, 0, 0, n, .own⟩]

def Plan.recvs (p : Plan) (n : Nat) : List RecvPiece :=
  let m := p.nmemb
  if p.op ≤ 3 then ((List.range (p.legs n).length).zip (p.legs n)).flatMap fun l => l.2.recvs l.1
  else if p.op = 4 then p.others.map fun j => ⟨j, 0, j * n, n, none⟩
  else if p.op = 5 then
    (if p.self = p.root then []
     else if p.algo = 2 then [⟨p.root, 0, 0, n, none⟩] else [⟨(p.self + m - 1) % m, p.hopNo - 1, 0, n, none⟩])
  else if p.giver p.self = p.self then [] else [⟨p.giver p.self, 0, 0, n, none⟩]

/-- Elements that this member writes from its own data alone: first and number. -/
def Plan.local (p : Plan) (n : Nat) : Nat × Nat :=
  if p.op ≤ 2 then (0, if p.nmemb = 1 then n else 0)
  else if p.op = 3 ∨ p.op = 4 then (p.self * n, n)
  else if p.op = 5 then (0, if p.self = p.root then n else 0)
  else (0, if p.dest p.self = p.self then n else 0)

/-! ### Chunks -/

/-- Number of a chunk within an instance: member, round, chunk. -/
def chunkKey (member round chunk : Nat) : Nat := member * 2 ^ 40 + round * 2 ^ 20 + chunk

/-- Elements of chunk c of a piece. -/
def pieceEls (p : Plan) (first len c : Nat) : List Nat :=
  span (first + c * p.perChunk) (min p.perChunk (len - c * p.perChunk))

/-- The element as a packet's bits: packed one after another (log 29). -/
def packBits (bits : Nat) (l : List Nat) : Nat := ((List.range l.length).zip l).foldl (fun a e => a + e.2 * 2 ^ (bits * e.1)) 0

/-- Lines of a chunk, and the poison bits of lines that hold a poisoned element. -/
def chunkLines (p : Plan) (els : List Elem) : List (BitVec 512) × Nat :=
  let n := ceilDiv (els.length * p.bits) 512
  let w := packBits p.bits (els.map fun e => e.v.toNat % 2 ^ p.bits)
  let bad := fun i => ((List.range els.length).zip els).any fun e => e.2.poison && e.1 * p.bits / 512 == i
  ((List.range n).map fun i => BitVec.ofNat 512 (w / 2 ^ (512 * i)), packFields ((List.range n).map fun i => (boolN (bad i), i)))

/-- The elements of a chunk; those of a poisoned line are poisoned. -/
def linesEls (p : Plan) (lines : List (BitVec 512)) (lpoison n : Nat) : List Elem :=
  let w := ((List.range lines.length).zip lines).foldl (fun a e => a + e.2.toNat * 2 ^ (512 * e.1)) 0
  (List.range n).map fun i =>
    ⟨BitVec.ofNat 32 (w / 2 ^ (p.bits * i) % 2 ^ p.bits), lpoison.testBit (i * p.bits / 512)⟩

/-! ### Values (12 R387, R388) -/

/-- Combines two elements of the plan's format. -/
def Plan.combine (p : Plan) (a b : Elem) : Elem :=
  let x := toB32 p.fmt a.v.toNat
  let y := toB32 p.fmt b.v.toNat
  let r := if p.redop = 1 then B32.add x y else if p.redop = 2 then B32.maxV x y else B32.minV x y
  ⟨BitVec.ofNat 32 (ofB32 p.fmt .even 0 r), a.poison || b.poison⟩

/-- The conditions of a combination: a KF16 sum that its conversion takes to infinity (03 R109). -/
def Plan.combineConds (p : Plan) (a b : Elem) : List Nat :=
  if p.redop = 1 ∧ !(a.poison || b.poison) then
    convConds p.fmt .even 0 (B32.add (toB32 p.fmt a.v.toNat) (toB32 p.fmt b.v.toNat))
  else []

/-- The own element e: of DS, where an all-gather's block starts at the member's own. -/
def Box.ownEl (b : Box) (p : Plan) (i : CollInst) (e : Nat) : Option Elem :=
  (b.dev.native i.ds).map fun t =>
    let k := if p.op = 3 then e - p.self * i.n else e
    let y := b.tRead (.ofDesc t) (i.dstart + k)
    ⟨BitVec.ofNat 32 y.1, y.2⟩

/-- An element received from a member in a round. -/
def CollInst.got (i : CollInst) (p : Plan) (src round first e : Nat) : Option Elem :=
  let k := e - first
  (get? i.parts (chunkKey src round (k / p.perChunk))).bind fun l => l[k % p.perChunk]?

def inSeg (s : Nat × Nat) (e : Nat) : Bool := s.1 ≤ e && e < s.1 + s.2

/-- What a leg leaves for element e at this member; `l` are the legs from that one back to the first. A completed element is
kept, since its write may have replaced the member's own data. -/
def Box.legResult (b : Box) (p : Plan) (i : CollInst) : List Leg → Nat → Option Elem
  | [], e => b.ownEl p i e
  | l :: t, e =>
    if l.size ≤ 1 then b.legResult p i t e
    else if l.gather then
      if inSeg (l.seg l.pos) e then b.legResult p i t e
      else (List.range (l.size - 1)).findSome? fun r =>
        let s := l.seg ((l.pos + 2 * l.size - r - 1) % l.size)
        if inSeg s e then i.got p l.prev (l.base + r) s.1 e else none
    else if has i.results e then get? i.results e
    else
      match i.got p l.prev (l.base + l.size - 2) (l.seg l.pos).1 e, b.legResult p i t e with
      | some x, some y => some (p.combine x y)
      | _, _ => none

/-- The conditions of the combinations that `legResult` makes. -/
def Box.legConds (b : Box) (p : Plan) (i : CollInst) : List Leg → Nat → List Nat
  | [], _ => []
  | l :: t, e =>
    if l.size ≤ 1 then b.legConds p i t e
    else if l.gather then []
    else
      match i.got p l.prev (l.base + l.size - 2) (l.seg l.pos).1 e, b.legResult p i t e with
      | some x, some y => p.combineConds x y ++ b.legConds p i t e
      | _, _ => []

/-- The element that a leg sends in its round r. -/
def Box.legSend (b : Box) (p : Plan) (i : CollInst) (l : Leg) (t : List Leg) (r first e : Nat) : Option Elem :=
  if r = 0 then b.legResult p i t e
  else if l.gather then i.got p l.prev (l.base + r - 1) first e
  else match i.got p l.prev (l.base + r - 1) first e, b.legResult p i t e with
    | some x, some y => some (p.combine x y)
    | _, _ => none

/-- The conditions of what a reducing leg combines for its round r. -/
def Box.sendConds (b : Box) (p : Plan) (i : CollInst) (s : SendPiece) (e : Nat) : List Nat :=
  match s.origin with
  | .leg k r =>
    (((p.legs i.n)[k]?).filter (!·.gather)).elim [] fun l =>
      let t := ((p.legs i.n).take k).reverse
      (if r = 0 then [] else
        match i.got p l.prev (l.base + r - 1) s.first e, b.legResult p i t e with
        | some x, some y => p.combineConds x y
        | _, _ => []) ++ b.legConds p i t e
  | _ => []

/-- The element that a piece sends, once it is known. -/
def Box.sendEl (b : Box) (p : Plan) (i : CollInst) (s : SendPiece) (e : Nat) : Option Elem :=
  match s.origin with
  | .own => b.ownEl p i e
  | .hop src round => i.got p src round s.first e
  | .leg k r =>
    match (p.legs i.n)[k]? with
    | some l => b.legSend p i l ((p.legs i.n).take k).reverse r s.first e
    | none => none

/-- The last leg that reduces, whose last round completes a segment. -/
def Plan.lastReduce (p : Plan) (n : Nat) : Option Nat :=
  ((List.range (p.legs n).length).filter fun k => ((p.legs n)[k]?).any fun l => !l.gather).getLast?

/-- A received piece is written to DD: a complete one, or the last of the last reducing leg. -/
def Plan.writes (p : Plan) (n : Nat) (r : RecvPiece) : Bool :=
  match r.leg with
  | none => true
  | some k => p.lastReduce n == some k && ((p.legs n)[k]?).any fun l => r.round == l.base + l.size - 2

/-- The element that a received piece writes, once it is known. -/
def Box.writeEl (b : Box) (p : Plan) (i : CollInst) (r : RecvPiece) (e : Nat) : Option Elem :=
  match r.leg with
  | none => i.got p r.src r.round r.first e
  | some k => b.legResult p i ((p.legs i.n).take (k + 1)).reverse e

/-- Element of DD for element e of the instance. -/
def Plan.ddEl (p : Plan) (i : CollInst) (e : Nat) : Nat :=
  if p.op = 2 then i.ddstart + (e - (segment p.self i.n p.nmemb).1) else i.ddstart + e

/-! ### Progress -/

def Dev.coll (d : Dev) (plan inst : Nat) : Option CollInst := d.fab.insts.find? fun i => i.plan == plan && i.inst == inst
def Dev.updColl (d : Dev) (plan inst : Nat) (f : CollInst → CollInst) : Dev :=
  { d with fab := { d.fab with insts := d.fab.insts.map fun i => if i.plan = plan ∧ i.inst = inst then f i else i } }

/-- Every element, when all are known. -/
def allKnown (l : List (Option Elem)) : Option (List Elem) := if l.all (·.isSome) then some (l.filterMap id) else none

/-- Sends one chunk. -/
def Dev.sendChunk (d : Dev) (p : Plan) (i : CollInst) (s : SendPiece) (c : Nat) (els : List Elem) : Dev :=
  let l := chunkLines p els
  let w := packFields [(limN 10 i.plan, 0), (limN 6 i.inst, 10), (limN 16 p.epoch, 16), (limN 14 s.round, 32), (limN 18 c, 46)]
  let d := d.updColl i.plan i.inst fun x => { x with sent := chunkKey s.dst s.round c :: x.sent }
  (d.sendRouted (mkPacket (p.dev s.dst) d.myId 8 2 0 w l.2 l.1)).1

/-- Conditions that an instance's reduction unit raises. -/
def Dev.collConds (d : Dev) (p : Plan) (i : CollInst) (codes : List Nat) : Dev :=
  codes.foldl (fun d c => d.arith i.ctx c (reductionDie i.unit) (reductionOf i.unit)
    ((d.action i.act).elim 0 (·.index)) 0x68 p.fmt) d

/-- Sends every chunk whose elements are known and whose destination is ready (12 R389). -/
def Box.collSend (b : Box) (p : Plan) (plan inst : Nat) : Box :=
  match b.dev.coll plan inst with
  | none => b
  | some i =>
    ((p.sends i.n).filter fun s => i.ready.contains s.dst).foldl (fun b s =>
      (List.range (p.chunks s.len)).foldl (fun b c =>
        if i.sent.contains (chunkKey s.dst s.round c) then b
        else match allKnown ((pieceEls p s.first s.len c).map (b.sendEl p i s)) with
          | some els =>
            let conds := (pieceEls p s.first s.len c).flatMap (b.sendConds p i s)
            b.onD fun d => (d.sendChunk p i s c els).collConds p i conds
          | none => b) b) b

/-- Writes elements of DD, zeros and NaNs as R85 and R86 of 03 have them; a poisoned line written is observation point 2. -/
def Box.collPut (b : Box) (p : Plan) (i : CollInst) (es : List Nat) (els : List Elem) : Box :=
  match b.dev.native i.dd with
  | none => b
  | some t =>
    let t := Tens.ofDesc t
    let l := (es.zip els).map fun x => (p.ddEl i x.1, cleanCode p.fmt x.2.v.toNat, x.2.poison)
    let b := b.engPut i.ctx (reductionDie i.unit) (reductionOf i.unit) t l
    match l.find? (·.2.2) with
    | some x => b.observe i.ctx 2 (reductionDie i.unit) (reductionOf i.unit) (((t.addrs x.1).head?).getD 0).toNat
    | none => b

/-- Writes every received chunk whose elements are known. -/
def Box.collWrite (b : Box) (p : Plan) (plan inst : Nat) : Box :=
  match b.dev.coll plan inst with
  | none => b
  | some i =>
    ((p.recvs i.n).filter (p.writes i.n)).foldl (fun b r =>
      (List.range (p.chunks r.len)).foldl (fun b c =>
        let k := chunkKey r.src r.round c
        if i.wrote.contains k || !has i.parts k || (b.dev.coll plan inst).isNone then b
        else match allKnown ((pieceEls p r.first r.len c).map (b.writeEl p i r)) with
          | some els =>
            let es := pieceEls p r.first r.len c
            let conds := r.leg.elim [] fun k => es.flatMap (b.legConds p i ((p.legs i.n).take (k + 1)).reverse)
            let b := b.onD fun d => (d.updColl plan inst fun x => { x with
              wrote := k :: x.wrote
              results := if r.leg.isSome then (es.zip els).foldl (fun t y => put t y.1 y.2) x.results else x.results }).collConds
                p i conds
            b.collPut p i es els
          | none => b) b) b

def sumChunks (p : Plan) (l : List RecvPiece) : Nat := sumN (l.map fun r => p.chunks r.len)

/-- The children of a member in the completion tree. -/
def Plan.children (p : Plan) (i : Nat) : List Nat := [2 * i + 1, 2 * i + 2].filter (· < p.nmemb)

/-- This member's part of the instance is finished (12 R390). -/
def CollInst.finished (i : CollInst) (p : Plan) : Bool :=
  i.parts.length == sumChunks p (p.recvs i.n)
    && i.wrote.length == sumChunks p ((p.recvs i.n).filter (p.writes i.n))
    && (p.children p.self).all i.dones.contains

/-- RELEASE: passed on to the children; the instance completes; the slip point of 02 R74. -/
def Box.collRelease (b : Box) (p : Plan) (i : CollInst) (slip : Nat) : Box :=
  let b := b.onD fun d => (p.children p.self).foldl (fun d m => d.sendCtrl (p.dev m) i.plan i.inst 2 0 slip) d
  let old := (b.dev.ctx i.ctx).slip
  let b := b.onD fun d =>
    let d := { d with fab := { d.fab with insts := d.fab.insts.filter fun x => !(x.plan == i.plan && x.inst == i.inst) } }
    let d := (d.actDone i.act).updCtx i.ctx fun c => { c with slip := slip, inc := 0 }
    if slip = old then d
    else d.ev 0x9003 (reductionDie i.unit) (some i.ctx) [collId i.plan i.inst i.ctx, old, slip]
  let limit := ((b.dev.ctx i.ctx).img.map (·.slipLimit)).getD 0 * 4
  if limit < slip ∧ (b.dev.ctx i.ctx).stopFault ≠ some 0x9004 then
    (b.onD fun d => d.ev 0x9004 (reductionDie i.unit) (some i.ctx) [slip, limit]).stopAtBoundary i.ctx (some 0x9004)
  else b

/-- DONE goes to the parent, or RELEASE starts at member 0, once this member has finished. -/
def Box.collDoneCheck (b : Box) (p : Plan) (plan inst : Nat) : Box :=
  match b.dev.coll plan inst with
  | none => b
  | some i =>
    if i.sentDone || !i.finished p then b
    else
      let b := b.onD fun d => d.updColl plan inst fun x => { x with sentDone := true }
      if p.self = 0 then b.collRelease p i i.slipMax
      else b.onD fun d => d.sendCtrl (p.dev ((p.self - 1) / 2)) plan inst 1 0 i.slipMax

/-- All that an instance can do now. -/
def Box.collAdvance (b : Box) (plan inst : Nat) : Box :=
  match b.dev.plan plan with
  | none => b
  | some p => (((b.collSend p plan inst).collWrite p plan inst).collSend p plan inst).collDoneCheck p plan inst

/-! ### Failing (12 R391) -/

/-- An instance fails and its context stops. -/
def Box.collFail (b : Box) (i : CollInst) (status reporter : Nat) (abort : Bool) : Box :=
  (b.failColl i status reporter abort).faultStop i.ctx 0x500B

/-! ### Launch (12 R381, R383, R389, R392) -/

/-- Elements of DS that an instance reads, from DSTART. -/
def Plan.readLen (p : Plan) (n : Nat) : Nat :=
  if p.op = 4 then n * p.nmemb else if p.op = 5 ∧ p.self ≠ p.root then 0 else n

/-- The largest piece of a round. -/
def Plan.largest (p : Plan) (n : Nat) : Nat :=
  if p.op ≤ 2 then
    maxN ((List.range (if p.algo = 1 then p.nr else p.nmemb)).map fun s =>
      (segment s n (if p.algo = 1 then p.nr else p.nmemb)).2)
  else n

/-- A tensor of the plan's format that holds a range. -/
def collTens (p : Plan) (t : Desc) (first len : Nat) : Bool :=
  dDense t && dFmt t == p.fmt && decide (first + len ≤ dCount t)

def Dev.collBinds (d : Dev) (p : Plan) (r : BitVec 256) (n : Nat) : Bool :=
  (p.readLen n == 0 || (d.native (clDs r)).any fun t => collTens p t (clDstart r) (p.readLen n))
    && ((d.native (clDd r)).any fun t => dWrite t && collTens p t (clDdstart r) (p.written n (clDdstart r)).2)
    && (clDs r != clDd r || p.op == 1) && decide (p.chunks (p.largest n) ≤ 262144)

/-- Levels that the running Pattern supports (12 R395). -/
def Dev.levelOk (d : Dev) (l : Nat) : Bool := d.fw.pattern.level - 2 ≤ l && l ≤ d.fw.pattern.level

/-- Status of the launch checks: 0, 4 epoch, 7 binding, 5 level. -/
def Dev.collCheck (d : Dev) (p : Plan) (ctx : Nat) (r : BitVec 256) (n : Nat) : Nat :=
  if (p.op = 1 ∨ p.op = 2) ∧ p.epoch ≠ (d.ctx ctx).epoch then 4
  else if !d.collBinds p r n then 7
  else if !d.levelOk p.level then 5
  else 0

/-- The lowest free reduction unit. -/
def Dev.freeUnit (d : Dev) : Option Nat :=
  (List.range 32).find? fun r => !d.fab.unitsDown.contains r && !d.fab.insts.any (·.unit == r)

/-- Extensions and READYs that came before the launch. -/
def Dev.earlyNs (d : Dev) (plan inst : Nat) : Nat :=
  sumN ((d.fab.heldLate.filter fun e => e.1 == plan && e.2.1 == inst).map (·.2.2))
def Dev.earlyReadies (d : Dev) (plan inst : Nat) : List Nat :=
  (d.fab.earlyReady.filter fun e => e.1 == plan && e.2.1 == inst).map (·.2.2)

def Dev.clearEarly (d : Dev) (plan inst : Nat) : Dev :=
  { d with fab := { d.fab with
      heldLate := d.fab.heldLate.filter fun e => !(e.1 == plan && e.2.1 == inst)
      earlyReady := d.fab.earlyReady.filter fun e => !(e.1 == plan && e.2.1 == inst) } }

/-- The instance that an action launches. -/
def Dev.newColl (d : Dev) (p : Plan) (a : Act) (x : Action) (unit : Nat) : CollInst :=
  let r := x.desc
  let c := d.ctx x.ctx
  { plan := clPlan r, inst := x.val.toNat, ctx := x.ctx, act := a, unit := unit, ds := clDs r, dd := clDd r, n := x.n0
    dstart := clDstart r, ddstart := clDdstart r
    deadline := x.launch + p.timeout + d.earlyNs (clPlan r) x.val.toNat
    ready := d.earlyReadies (clPlan r) x.val.toNat
    parts := [], results := [], sent := [], wrote := [], dones := [], slipMax := c.slip + ceilTo 4 c.inc, sentDone := false }

/-- READY to every member that will send to this one. -/
def Dev.sendReadies (d : Dev) (p : Plan) (i : CollInst) : Dev :=
  (((p.recvs i.n).filter fun r => r.len != 0).map (·.src)).eraseDups.foldl (fun d m => d.sendCtrl (p.dev m) i.plan i.inst 0 0 0) d

/-- The instance begins: READYs, its own elements, what it can send. -/
def Box.collBegin (b : Box) (p : Plan) (i : CollInst) : Box :=
  let b := b.onD fun d => ((d.clearEarly i.plan i.inst).sendReadies p i)
  let b := b.onD fun d => { d with fab := { d.fab with insts := d.fab.insts ++ [i] } }
  let l := p.local i.n
  let es := span l.1 l.2
  let b := match allKnown (es.map (b.ownEl p i)) with
    | some els => if es.isEmpty then b else b.collPut p i es els
    | none => b
  b.collAdvance i.plan i.inst

/-- A failed launch check: events 0x500D and 0x500B, the context stops; DD is undefined where its binding holds. -/
def Box.collReject (b : Box) (p : Plan) (i : CollInst) (status : Nat) : Box :=
  let b := if status = 4 then b.onD fun d => d.ev 0x500D (reductionDie i.unit) (some i.ctx)
      [i.plan, i.inst, p.epoch, (d.ctx i.ctx).epoch] else b
  b.collFail (if status = 7 then { i with dd := 0xFFFF } else i) status p.self true

def Box.collRun (b : Box) (a : Act) (x : Action) : Box :=
  match b.dev.plan (clPlan x.desc), b.dev.freeUnit with
  | some p, some u =>
    let i := b.dev.newColl p a x u
    let st := b.dev.collCheck p x.ctx x.desc x.n0
    if st = 0 then b.collBegin p i else b.collReject p i st
  | _, _ => b

/-- COLL: a launched action begins its instance, once. A count of 0 completes at once. DESIGN CHOICE (log 63): such a COLL exchanges
nothing and is no slip point; R380 and 02 R74 do not say whether it is one. -/
def execColl (a : Act) (s : State) : Res :=
  s.on fun b => b.gate a (isOp 0x68) (fun _ _ => []) fun b x =>
    if x.n0 = 0 then b.onD fun d => d.actDone a
    else if (b.dev.coll (clPlan x.desc) x.val.toNat).isSome then b
    else b.collRun a x

/-! ### Packets of collectives -/

/-- Member index of a packet's source. -/
def Plan.member (p : Plan) (dev : Nat) : Option Nat := (List.range p.nmemb).find? fun i => p.dev i == dev

/-- A data packet of another epoch: dropped, and the instance fails (12 R392). -/
def Box.wrongEpoch (b : Box) (p : Plan) (i : CollInst) (e : Nat) : Box :=
  (b.onD fun d => d.ev 0x500D (reductionDie i.unit) (some i.ctx) [i.plan, i.inst, p.epoch, e]).collFail i 4 p.self true

/-- A chunk that a receive of the instance expects is kept, and the instance goes on. -/
def Box.takeChunk (b : Box) (p : Plan) (i : CollInst) (k : Packet) (src : Nat) : Box :=
  let round := k.word / 2 ^ 32 % 2 ^ 14
  let c := k.word / 2 ^ 46
  match (p.recvs i.n).find? fun r => r.src == src && r.round == round && decide (c < p.chunks r.len) with
  | none => b
  | some r =>
    let els := linesEls p k.lines k.lpoison (pieceEls p r.first r.len c).length
    (b.onD fun d => d.updColl i.plan i.inst fun x => { x with parts := put x.parts (chunkKey src round c) els }).collAdvance
      i.plan i.inst

def collOf (k : Packet) : Nat × Nat := (k.word % 1024, k.word / 1024 % 64)

/-- A packet of an instance in progress from one of its members. -/
def Box.onColl (b : Box) (k : Packet) (f : Plan → CollInst → Nat → Box) : Box :=
  match b.dev.plan (collOf k).1, b.dev.coll (collOf k).1 (collOf k).2 with
  | some p, some i => (p.member k.src).elim b fun m => f p i m
  | _, _ => b

def Box.takeCollData (b : Box) (k : Packet) : Box :=
  b.onColl k fun q i m =>
    if k.word / 65536 % 65536 ≠ q.epoch then b.wrongEpoch q i (k.word / 65536 % 65536) else b.takeChunk q i k m

def execCollData (p : Fin 64) (k : Packet) (s : State) : Res :=
  s.on fun b => b.packetOf 8 p k fun b => b.takeCollData k

/-- A control packet of one kind: READY 0, DONE 1, RELEASE 2, ABORT 3. -/
def Box.ctrlOf (b : Box) (kind : Nat) (p : Nat) (k : Packet) (f : Box → Box) : Box :=
  if k.word / 65536 % 4 = kind then b.packetOf 9 p k f else b

def ctrlSlip (k : Packet) : Nat := (k.lines.head?).elim 0 fun l => leAt (lineBytes l) 0 8

/-- A COLL of the instance has launched and not begun. -/
def Dev.collLaunched (d : Dev) (plan inst : Nat) : Bool :=
  d.cores.any fun e => strs.any fun st => (e.2.stream st).acts.any fun x =>
    Insn.opc x.w == 0x68 && !x.done && x.n0 != 0 && clPlan x.desc == plan && x.val.toNat == inst

/-- READY for an instance that has not begun: kept for up to four beyond the current one; one more fails the current
instance with status 8 (12 R389). -/
def Box.earlyReady (b : Box) (p : Plan) (plan inst m : Nat) : Box :=
  let ahead := (inst + 64 - p.launched % 64) % 64
  if ahead < 4 ∨ b.dev.collLaunched plan inst then b.onD fun d => { d with fab := { d.fab with earlyReady := d.fab.earlyReady ++ [(plan, inst, m)] } }
  else if ahead < 32 then
    (b.dev.coll plan ((p.launched + 63) % 64)).elim b fun i => b.collFail i 8 p.self true
  else b

def Box.takeReady (b : Box) (k : Packet) : Box :=
  let c := collOf k
  match b.dev.plan c.1 with
  | none => b
  | some p =>
    match p.member k.src with
    | none => b
    | some m =>
      match b.dev.coll c.1 c.2 with
      | some _ => (b.onD fun d => d.updColl c.1 c.2 fun x => { x with ready := addSet x.ready m }).collAdvance c.1 c.2
      | none => b.earlyReady p c.1 c.2 m

def execCollReady (p : Fin 64) (k : Packet) (s : State) : Res := s.on fun b => b.ctrlOf 0 p k fun b => b.takeReady k

/-- DONE from a child of the tree. -/
def Box.takeDone (b : Box) (k : Packet) : Box :=
  b.onColl k fun q i m =>
    if !(q.children q.self).contains m then b
    else (b.onD fun d => d.updColl i.plan i.inst fun x =>
      { x with dones := addSet x.dones m, slipMax := max x.slipMax (ctrlSlip k) }).collDoneCheck q i.plan i.inst

/-- RELEASE from the parent. -/
def Box.takeRelease (b : Box) (k : Packet) : Box :=
  b.onColl k fun q i m => if q.self ≠ 0 ∧ m = (q.self - 1) / 2 then b.collRelease q i (ctrlSlip k) else b

def Box.takeAbort (b : Box) (k : Packet) : Box :=
  b.onColl k fun _ i m => b.collFail i (k.word / 2 ^ 18 % 16) m false

def execCollDone (p : Fin 64) (k : Packet) (s : State) : Res := s.on fun b => b.ctrlOf 1 p k fun b => b.takeDone k

def execCollRelease (p : Fin 64) (k : Packet) (s : State) : Res := s.on fun b => b.ctrlOf 2 p k fun b => b.takeRelease k

def execCollAbort (p : Fin 64) (k : Packet) (s : State) : Res := s.on fun b => b.ctrlOf 3 p k fun b => b.takeAbort k

/-- A control packet by its kind (12 R373). -/
def Box.takeCollCtrl (b : Box) (k : Packet) : Box :=
  let kind := k.word / 65536 % 4
  if kind = 0 then b.takeReady k else if kind = 1 then b.takeDone k else if kind = 2 then b.takeRelease k else b.takeAbort k

/-- The timer of an instance expires before RELEASE (12 R391). -/
def execCollTimeout (plan : Fin 1024) (inst : Fin 64) (s : State) : Res :=
  s.on fun b =>
    match b.dev.plan plan, b.dev.coll plan inst with
    | some p, some i => if i.deadline ≤ b.dev.now then b.collFail i 2 p.self true else b
    | _, _ => b

end Sys2Proof.Machine
end

