-- ==== Sys2Proof/Machine/Experts.lean ====
section
/-! DEFINITION. DISPATCH in assign and replay mode and COMBINE, on the GMEs (10 R302 to R310). -/

namespace Sys2Proof.Machine

/-- Sizes of an expert command: row width, capacity, experts, choices per token. -/
structure Moe where
  w : Nat
  c : Nat
  e : Nat
  k : Nat

/-- The map entry of a choice that was not placed (10 R303). -/
def mapNone : Nat := 0xFFFFFFFF

/-- Elements of a row of tokens, or of a slot of the expert buffer taken as one dimension. -/
def Moe.row (g : Moe) (n : Nat) : List Nat := (List.range g.w).map fun i => i + g.w * n

/-- The undefined contents that a fault leaves (10 R304). -/
def Box.undefMany (b : Box) (l : List (Tens × List Nat)) : Box := l.foldl (fun b e => b.undefLins e.1 e.2) b

/-- A row of a tensor as values; with `whole`, one poisoned element poisons the row. -/
def Box.rowVals (b : Box) (t : Tens) (lins : List Nat) (bad : Bool) : List Elem :=
  let l := lins.map (b.tVal t)
  let p := bad || l.any (·.poison)
  l.map fun v => ⟨v.v, p⟩

/-! ### Invalid values (10 R304, R309) -/

/-- An expert value (kind 0) or map entry (kind 1) is skipped and counted: event 0xB003 at the first. -/
def Dev.expertSkip (d : Dev) (x : Action) (t j v kind : Nat) : Dev :=
  d.condition x.ctx .route 5 0xB003 (unitDie x.unit) (gmeOf x.unit) [unitSpool x.unit, gmeOf x.unit, t, j, v, kind]

/-- The first invalid value with STRICT: event 0xB004, the context stops. -/
def Box.expertFault (b : Box) (x : Action) (t j v kind : Nat) : Box :=
  (b.onD fun d => d.ev 0xB004 (unitDie x.unit) (some x.ctx) [unitSpool x.unit, gmeOf x.unit, t, j, v, kind]).faultStop
    x.ctx 0xB004

/-! ### Assign mode (10 R303 to R307) -/

/-- The expert that a route value names, when it is valid. -/
def expertOf (v : W32) (e : Nat) : Option Nat :=
  let i := B32.toInt v
  if B32.isFinite v && (B32.isZero v || B32.ofInt i == v) && decide (0 ≤ i ∧ i < e) then some i.toNat else none

/-- -1: routed nowhere. -/
def isNowhere (v : W32) : Bool := v == B32.ofInt (-1)

/-- What becomes of a choice: 0 routed nowhere, 1 poisoned, 2 invalid, 3 expert full, 4 placed in `slot`. -/
structure Choice where
  t : Nat
  j : Nat
  v : W32
  what : Nat
  expert : Nat
  slot : Nat

/-- The choices in order, with the fill of each expert. -/
def assign (g : Moe) : List (Nat × Nat × Elem) → Tbl Nat → List Choice → List Choice × Tbl Nat
  | [], fill, out => (out, fill)
  | (j, t, v) :: l, fill, out =>
    if v.poison then assign g l fill (out ++ [⟨t, j, v.v, 1, 0, 0⟩])
    else if isNowhere v.v then assign g l fill (out ++ [⟨t, j, v.v, 0, 0, 0⟩])
    else match expertOf v.v g.e with
      | none => assign g l fill (out ++ [⟨t, j, v.v, 2, 0, 0⟩])
      | some e =>
        let n := getD fill e 0
        if n = g.c then assign g l fill (out ++ [⟨t, j, v.v, 3, e, 0⟩])
        else assign g l (put fill e (n + 1)) (out ++ [⟨t, j, v.v, 4, e, e * g.c + n⟩])

/-- Idle slots of the buffer, by expert and slot. -/
def idleSlots (g : Moe) (fill : Tbl Nat) : List Nat :=
  (List.range g.e).flatMap fun e => (span (getD fill e 0) (g.c - getD fill e 0)).map fun s => e * g.c + s

/-- Element i of the check row of a slot (10 R307). -/
def checkEl (seed : W64) (step key slot w i : Nat) : W32 :=
  randB32 (srBits seed (BitVec.ofNat 32 step) (~~~ (BitVec.ofNat 32 key)) (BitVec.ofNat 64 (slot * w + i)))

/-- The counts and events of a choice. -/
def Dev.choiceNote (d : Dev) (x : Action) (c : Choice) : Dev :=
  if c.what = 2 then d.expertSkip x c.t c.j c.v.toNat 0
  else if c.what = 3 then d.condition x.ctx .route 3 0xB002 (unitDie x.unit) (gmeOf x.unit)
    [unitSpool x.unit, gmeOf x.unit, c.expert, c.t, c.j]
  else if c.what = 4 then d.count x.ctx .route 2 1
  else d

/-- Tokens whose every choice was left, some of them for another reason than routing nowhere. -/
def tokensLost (cs : List Choice) (ts : List Nat) : Nat :=
  (ts.filter fun t => (cs.filter (·.t == t)).all (·.what != 4) && (cs.filter (·.t == t)).any (·.what != 0)).length

def Box.dispatchWrite (b : Box) (x : Action) (g : Moe) (ts td tm : Tens) (cs : List Choice) (fill : Tbl Nat) : Box :=
  let r := x.desc
  let rnd := b.dev.rnd x (gqRnd r) (gqKey r)
  let seed := ((b.dev.ctx x.ctx).img.map (·.seed)).getD 0
  let idle := idleSlots g fill
  let rows := (cs.filter (·.what == 4)).flatMap fun c =>
    ((g.row c.slot).zip (b.rowVals ts (g.row c.t) false)).map fun e => cvtEl td rnd e.1 e.2
  let checks := idle.flatMap fun s => (List.range g.w).map fun i =>
    cvtEl td .even (i + g.w * s) ⟨checkEl seed x.step (gqKey r) s g.w i, false⟩
  let b := b.onD fun d => (cs.foldl (fun d c => d.choiceNote x c) d).count x.ctx .route 6 idle.length
  let b := b.onD fun d => d.count x.ctx .route 4 (tokensLost cs (span x.n0 x.n1))
  let b := b.putCodes x tm (cs.map fun c => (c.j + g.k * c.t, if c.what = 4 then c.slot else mapNone, false))
  let b := (b.putCvt x td rows).putCvt x td checks
  if gqSlot r = none16 then b
  else b.onD fun d =>
    ((List.range g.e).foldl (fun d e => d.actShape x (gqSlot r + e) (getD fill e 0) false) d).actShape x (gqSlot r + g.e)
      (cs.filter (·.what == 3)).length false

/-- The route values of a range: all first choices before any second. -/
def Box.routeVals (b : Box) (tr : Tens) (g : Moe) (ts : List Nat) : List (Nat × Nat × Elem) :=
  (List.range g.k).flatMap fun j => ts.map fun t => (j, t, b.tVal tr (2 * j + 2 * g.k * t))

def Box.dispatchRun (b : Box) (x : Action) : Box :=
  let r := x.desc
  match b.dev.tens (gqDs r), b.dev.tens (gqDi r), b.dev.tens (gqDd r), b.dev.tens (gqDx r) with
  | some ts, some tr, some td, some tm =>
    let g : Moe := ⟨dSize ts.d 0, dSize td.d 1, dSize td.d 2, dSize tm.d 0⟩
    let toks := span x.n0 x.n1
    let b := b.cached x [(tr, toks.flatMap fun t => (List.range g.k).map fun j => 2 * j + 2 * g.k * t), (ts, toks.flatMap g.row)]
    let y := assign g (b.routeVals tr g (span x.n0 x.n1)) [] []
    match (if dStrict tr.d then y.1.find? (·.what == 2) else none) with
    | some c =>
      let b := b.undefMany [(td, List.range (dCount td.d)), (tm, (span x.n0 x.n1).flatMap fun t => span (g.k * t) g.k)]
      let n := b.store.free
      let b := b.onD fun d => (if gqSlot r = none16 then [] else List.range (g.e + 1)).foldl (fun d i =>
        d.actShape x (gqSlot r + i) (freeCode n i 32) false) d
      (b.onS fun s => { s with free := s.free + 1 }).expertFault x c.t c.j c.v.toNat 0
    | none =>
      let b := b.dispatchWrite x g ts td tm y.1 y.2
      match y.1.find? (·.what == 1) with
      | some c => b.badIndex x tr (2 * c.j + 2 * g.k * c.t)
      | none => b
  | _, _, _, _ => b

/-- The combine map of a command may be written: assign mode (10 R302). -/
def Dev.assigns (d : Dev) (x : Action) : Bool := (d.tens (gqDx x.desc)).any fun t => dWrite t.d

def execDispatch (a : Act) (s : State) : Res :=
  s.on fun b => b.greq a 6 b.dev.assigns fun b x => if x.n1 = 0 then b else b.dispatchRun x

/-! ### The combine map read (10 R308 to R310) -/

/-- An entry of the map: token, choice, value, and whether it was read poisoned. -/
structure MapEnt where
  t : Nat
  j : Nat
  m : Nat
  bad : Bool

def Box.mapEnts (b : Box) (tm : Tens) (g : Moe) (ts : List Nat) : List MapEnt :=
  ts.flatMap fun t => (List.range g.k).map fun j =>
    let e := b.tRead tm (j + g.k * t)
    ⟨t, j, e.1, e.2⟩

def MapEnt.invalid (e : MapEnt) (g : Moe) : Bool := !e.bad && e.m != mapNone && decide (g.e * g.c ≤ e.m)
def MapEnt.valid (e : MapEnt) (g : Moe) : Bool := !e.bad && decide (e.m < g.e * g.c)

/-- The weight of a choice; 1.0 without DI. -/
def Box.weight (b : Box) (tr : Option Tens) (g : Moe) (t j : Nat) : Elem :=
  tr.elim ⟨0x3F800000, false⟩ fun w => b.tVal w (2 * j + 1 + 2 * g.k * t)

/-- The route tensor that a record names, none for 0xFFFF. -/
def Dev.routeTens (d : Dev) (r : BitVec 256) : Option Tens := if gqDi r = none16 then none else d.tens (gqDi r)

/-- A command over map entries: invalid and poisoned ones first, then `f`; `lost` lists what a fault leaves undefined. -/
def Box.overMap (b : Box) (x : Action) (g : Moe) (tm : Tens) (lost : List (Tens × List Nat)) (f : Box → List MapEnt → Box) : Box :=
  let b := b.cached x [(tm, (span x.n0 x.n1).flatMap fun t => span (g.k * t) g.k)]
  let es := b.mapEnts tm g (span x.n0 x.n1)
  match (if dStrict tm.d then es.find? (·.invalid g) else none) with
  | some e => (b.undefMany lost).expertFault x e.t e.j e.m 1
  | none =>
    let b := b.onD fun d => (es.filter (·.invalid g)).foldl (fun d e => d.expertSkip x e.t e.j e.m 1) d
    let b := f b es
    match es.find? (·.bad) with
    | some e => b.badIndex x tm (e.j + g.k * e.t)
    | none => b

/-! ### Replay mode (10 R310) -/

/-- The slot of an entry takes the weighted token row. -/
def Box.replayRow (b : Box) (g : Moe) (rnd : Rnd) (ts td : Tens) (tr : Option Tens) (e : MapEnt) :
    List ((Nat × Nat × Bool) × List Nat) :=
  let w := b.weight tr g e.t e.j
  ((g.row e.m).zip (b.rowVals ts (g.row e.t) w.poison)).map fun v =>
    cvtEl td rnd v.1 ⟨B32.mul w.v v.2.v, v.2.poison⟩

def Box.replayRun (b : Box) (x : Action) : Box :=
  let r := x.desc
  match b.dev.tens (gqDs r), b.dev.tens (gqDd r), b.dev.tens (gqDx r) with
  | some ts, some td, some tm =>
    let g : Moe := ⟨dSize ts.d 0, dSize td.d 1, dSize td.d 2, dSize tm.d 0⟩
    b.overMap x g tm [(td, List.range (dCount td.d))] fun b es =>
      let b := b.cached x [(ts, (es.filter (·.valid g)).flatMap fun e => g.row e.t)]
      let rnd := b.dev.rnd x (gqRnd r) (gqKey r)
      let named := es.filter (·.valid g)
      let idle := (List.range (g.e * g.c)).filter fun m => !named.any (·.m == m)
      let rows := named.flatMap (b.replayRow g rnd ts td (b.dev.routeTens r))
      (b.putCodes x td (idle.flatMap fun m => (g.row m).map fun i => (i, 0, false))).putCvt x td rows
  | _, _, _ => b

def execDispatchReplay (a : Act) (s : State) : Res :=
  s.on fun b => b.greq a 6 (fun x => !b.dev.assigns x) fun b x => if x.n1 = 0 then b else b.replayRun x

/-! ### COMBINE (10 R308, R309) -/

/-- The accumulated row of a token: fused multiply-adds in ascending choice; poison of a weight or row poisons it. -/
def Box.combineAcc (b : Box) (g : Moe) (ts : Tens) (tr : Option Tens) (es : List MapEnt) : List Elem :=
  es.foldl (fun acc e =>
    let w := b.weight tr g e.t e.j
    (acc.zip (b.rowVals ts (g.row e.m) w.poison)).map fun v => ⟨B32.fma w.v v.2.v v.1.v, v.1.poison || v.2.poison⟩)
    (List.replicate g.w ⟨0, false⟩)

def Box.combineRun (b : Box) (x : Action) : Box :=
  let r := x.desc
  match b.dev.tens (gqDs r), b.dev.tens (gqDd r), b.dev.tens (gqDx r) with
  | some ts, some td, some tm =>
    let g : Moe := ⟨dSize ts.d 0, dSize ts.d 1, dSize ts.d 2, dSize tm.d 0⟩
    let toks := span x.n0 x.n1
    b.overMap x g tm [(td, toks.flatMap g.row)] fun b es =>
      let b := b.cached x [(ts, (es.filter (·.valid g)).flatMap fun e => g.row e.m)]
      let rnd := b.dev.rnd x (gqRnd r) (gqKey r)
      let rows := toks.flatMap fun t =>
        (g.row t).zip (b.combineAcc g ts (b.dev.routeTens r) (es.filter fun e => e.t == t && e.valid g))
      if gqMode r = 0 then b.putCvt x td (rows.map fun e => cvtEl td rnd e.1 e.2) else b.addEls x td rows
  | _, _, _ => b

def execCombine (a : Act) (s : State) : Res :=
  s.on fun b => b.greq a 7 (fun _ => true) fun b x => if x.n1 = 0 then b else b.combineRun x

end Sys2Proof.Machine
end

