-- ==== Sys2Proof/Machine/Vector.lean ====
section
/-! DEFINITION. The vector unit: element-wise operations, reductions, comparison and selection (03 R89; 04 R131, R132, R135;
05 R156, R162), and the router selection TOPK (10 R299 to R301). -/

namespace Sys2Proof.Machine

/-! ### The VEC record (05 R156) -/

def vVop (r : BitVec 256) : Nat := recN r 1 1
def vMasked (r : BitVec 256) : Bool := bitOf r 18
def vAf (r : BitVec 256) : Nat := fld r 24 5
def vBf (r : BitVec 256) : Nat := fld r 32 5
def vDf (r : BitVec 256) : Nat := fld r 40 5
def vRnd (r : BitVec 256) : Bool := bitOf r 45
def vScalar (r : BitVec 256) : W32 := BitVec.ofNat 32 (recN r 12 4)
def vKey (r : BitVec 256) : Nat := recN r 16 4
def vAo (r : BitVec 256) : Nat := 64 * recN r 20 2
def vBo (r : BitVec 256) : Nat := 64 * recN r 22 2
def vDo (r : BitVec 256) : Nat := 64 * recN r 24 2
def vMo (r : BitVec 256) : Nat := 64 * recN r 26 2
def vAux (r : BitVec 256) : Nat := recN r 28 4

/-- Operations with a second source. -/
def vUsesB (vop : Nat) : Bool := (1 ≤ vop && vop ≤ 5) || vop == 7 || vop == 8 || vop == 0x12 || vop == 0x13
def vReduces (vop : Nat) : Bool := vop == 0x10 || vop == 0x11
/-- Elements of the destination: one for a reduction, but the planes of a planar format are laid out for COUNT (R162). -/
def vOut (vop f n : Nat) : Nat := if vReduces vop && !fmtPlanar f then 1 else n

/-! ### TOPK's AUX (10 R299) -/

def tkE (r : BitVec 256) : Nat := vAux r % 512
def tkK (r : BitVec 256) : Nat := vAux r / 512 % 16
def tkGate (r : BitVec 256) : Nat := vAux r / 8192 % 4
def tkRenorm (r : BitVec 256) : Bool := (vAux r).testBit 15
def tkBias (r : BitVec 256) : Bool := (vAux r).testBit 16

/-! ### Ranges (06 R185) -/

def hBytesOf (f n : Nat) : Nat := storageBytes f n (fmtPlanar f)

def vecReads (core : Nat) (x : Action) : List Rng :=
  let r := x.desc
  let n := x.n0
  let vop := vVop r
  if n = 0 then []
  else if vop = 0x14 then
    [⟨core, Insn.ha x.w, vAo r, 4 * (n * tkE r)⟩] ++ (if tkBias r then [⟨core, Insn.hb x.w, vBo r, 4 * tkE r⟩] else [])
      ++ (if vMasked r then [⟨core, Insn.hc x.w, vMo r, hBytesOf 0xE n⟩] else [])
  else
    (if vop = 0x15 then [] else [⟨core, Insn.ha x.w, vAo r, hBytesOf (vAf r) n⟩])
      ++ (if vUsesB vop then [⟨core, Insn.hb x.w, vBo r, hBytesOf (vBf r) n⟩] else [])
      ++ (if vMasked r || vop == 0x13 then [⟨core, Insn.hc x.w, vMo r, hBytesOf 0xE n⟩] else [])
      ++ (if vop = 4 then [⟨core, Insn.hd x.w, vDo r, hBytesOf (vDf r) n⟩] else [])

def vecWrites (core : Nat) (x : Action) : List Rng :=
  let r := x.desc
  let n := x.n0
  if n = 0 then []
  else if vVop r = 0x14 then [⟨core, Insn.hd x.w, vDo r, 8 * (n * tkK r)⟩]
  else [⟨core, Insn.hd x.w, vDo r, hBytesOf (vDf r) (vOut (vVop r) (vDf r) n)⟩]

/-! ### Element-wise results (05 R162): the value, and the operands of the operation for the conditions of 03 R109 -/

def vecEl (vop : Nat) (s a b d : W32) (i : Nat) : W32 × List W32 :=
  if vop = 0x01 then (B32.add a b, [a, b])
  else if vop = 0x02 then (B32.sub a b, [a, b])
  else if vop = 0x03 then (B32.mul a b, [a, b])
  else if vop = 0x04 then (B32.fma a b d, [a, b, d])
  else if vop = 0x05 then (B32.div a b, [a, b])
  else if vop = 0x06 then (B32.sqrt a, [a])
  else if vop = 0x07 then (B32.minV a b, [a, b])
  else if vop = 0x08 then (B32.maxV a b, [a, b])
  else if vop = 0x09 then (B32.abs a, [a])
  else if vop = 0x0A then (B32.flip a, [a])
  else if vop = 0x0B then (B32.add a s, [a, s])
  else if vop = 0x0C then (B32.mul a s, [a, s])
  else if vop = 0x0D then (B32.exp a, [a])
  else if vop = 0x0E then (B32.log a, [a])
  else if vop = 0x15 then (B32.add (B32.ofInt i) s, [s])
  else (a, [a])

/-! ### Reductions (04 R132) -/

/-- One level of the pairwise tree. -/
def pairUp {α : Type} (f : α → α → α) : List α → List α
  | a :: b :: t => f a b :: pairUp f t
  | l => l

/-- The tree over a power of two of values. -/
def treeOf {α : Type} (f : α → α → α) (z : α) : Nat → List α → α
  | 0, l => (l.head?).getD z
  | n + 1, l => treeOf f z n (pairUp f l)

/-- Vectors of 64 lanes with missing lanes `z`, each by the tree, their results combined in ascending vector order. -/
def reduce {α : Type} (f : α → α → α) (z : α) (l : List α) : α :=
  match (pieces 64 l).map fun v => treeOf f z 6 (v ++ List.replicate (64 - v.length) z) with
  | [] => z
  | x :: t => t.foldl f x

/-- A value with the conditions that its computation raised. -/
abbrev Tr := W32 × List Nat

def trAdd (a b : Tr) : Tr := let r := B32.add a.1 b.1; (r, a.2 ++ b.2 ++ opConds [a.1, b.1] r)
def trSub (a b : Tr) : Tr := let r := B32.sub a.1 b.1; (r, a.2 ++ b.2 ++ opConds [a.1, b.1] r)
def trMul (a b : Tr) : Tr := let r := B32.mul a.1 b.1; (r, a.2 ++ b.2 ++ opConds [a.1, b.1] r)
def trDiv (a b : Tr) : Tr := let r := B32.div a.1 b.1; (r, a.2 ++ b.2 ++ opConds [a.1, b.1] r)
def trMax (a b : Tr) : Tr := (B32.maxV a.1 b.1, a.2 ++ b.2)
def trExp (a : Tr) : Tr := let r := B32.exp a.1; (r, a.2 ++ opConds [a.1] r)
def tr (v : W32) : Tr := (v, [])

def sumTree (l : List Tr) : Tr := reduce trAdd (tr 0) l
def maxTree (l : List Tr) : Tr := reduce trMax (tr (B32.inf true)) l

/-! ### One vector instruction -/

/-- The mask of an instruction: bit and poison of each element; all ones without one. -/
def Box.vecMask (b : Box) (core : Nat) (x : Action) : List (Nat × Bool) :=
  if vMasked x.desc || vVop x.desc == 0x13 then b.hEls core (Insn.hc x.w) 0xE (vMo x.desc) x.n0
  else List.replicate x.n0 (1, false)

/-- What a lane writes: its element, code, poison and conditions. -/
structure LaneOut where
  i : Nat
  code : Nat
  bad : Bool
  conds : List Nat

/-- The result of one enabled lane. -/
def laneOut (r : BitVec 256) (rnd : Rnd) (i : Nat) (m : Nat × Bool) (a b d : W32 × Bool) : LaneOut :=
  let vop := vVop r
  if vop = 0x12 then ⟨i, boolN (B32.lt b.1 a.1), a.2 || b.2 || m.2, []⟩
  else
    let v := if vop = 0x13 then (if m.1 = 1 then a else b) else a
    let x := vecEl vop (vScalar r) v.1 b.1 d.1 i
    let bad := m.2 || v.2 || (vUsesB vop && vop != 0x13 && b.2) || (vop == 4 && d.2)
    let idx := handleIndex (vDf r) (vDo r / 64) i
    ⟨i, ofB32 (vDf r) rnd idx x.1, bad,
      if bad then [] else (if vop = 0x0F ∨ vop = 0x13 then [] else opConds x.2 x.1) ++ convConds (vDf r) rnd idx x.1⟩

/-- Element-wise: a lane that MASKED disables writes nothing. -/
def Box.vecLanes (b : Box) (core : Nat) (x : Action) : List LaneOut :=
  let r := x.desc
  let n := x.n0
  let vop := vVop r
  let z := List.replicate n ((0 : W32), false)
  let as := if vop = 0x15 then z else b.hVals core (Insn.ha x.w) (vAf r) (vAo r) n
  let bs := if vUsesB vop then b.hVals core (Insn.hb x.w) (vBf r) (vBo r) n else z
  let ds := if vop = 4 then b.hVals core (Insn.hd x.w) (vDf r) (vDo r) n else z
  let rnd := b.dev.rnd x (vRnd r) (vKey r)
  (((List.range n).zip (b.vecMask core x)).zip (as.zip (bs.zip ds))).filterMap fun e =>
    let m := e.1.2
    if vMasked r && m.1 == 0 && !m.2 then none else some (laneOut r rnd e.1.1 m e.2.1 e.2.2.1 e.2.2.2)

/-- REDSUM and REDMAX: one element. -/
def Box.vecReduce (b : Box) (core : Nat) (x : Action) : LaneOut :=
  let r := x.desc
  let sum := vVop r == 0x10
  let l := (b.hVals core (Insn.ha x.w) (vAf r) (vAo r) x.n0).zip (b.vecMask core x)
  let off := fun (m : Nat × Bool) => vMasked r && m.1 == 0 && !m.2
  let vals := l.map fun e => tr (if off e.2 then (if sum then 0 else B32.inf true) else e.1.1)
  let v := if sum then sumTree vals else maxTree vals
  let bad := l.any fun e => !off e.2 && (e.1.2 || e.2.2)
  let rnd := b.dev.rnd x (vRnd r) (vKey r)
  let idx := handleIndex (vDf r) (vDo r / 64) 0
  ⟨0, ofB32 (vDf r) rnd idx v.1, bad, if bad then [] else v.2 ++ convConds (vDf r) rnd idx v.1⟩

/-- The vector unit chooses by earliest E, then stream B, F, U (04 R135): the action is the first of the core's. -/
def Dev.vecTurn (d : Dev) (a : Act) (x : Action) : Bool :=
  let key := fun (st : Str) (y : Action) => (y.e.getD y.launch, Str.rank st)
  let k := key a.cs.st x
  strs.all fun st => ((d.core a.cs.core).stream st).acts.all fun y =>
    y.done || !isOp 0x52 y || (st == a.cs.st && a.id ≤ y.id)
      || decide (k.1 < (key st y).1) || (k.1 == (key st y).1 && decide (k.2 ≤ (key st y).2))

/-- The effect of a vector instruction but TOPK. -/
def Box.vecRun (b : Box) (a : Act) (x : Action) : Box :=
  let core : Nat := a.cs.core
  let r := x.desc
  let n := x.n0
  if n = 0 then b
  else
    let outs := if vReduces (vVop r) then [b.vecReduce core x] else b.vecLanes core x
    let b := b.hWriteEls x.ctx a core (Insn.hd x.w) (vDf r) (vDo r) (vOut (vVop r) (vDf r) n) (outs.map fun o => (o.i, o.code, o.bad))
    b.onD fun d => (d.creaseHs (boltOf core) 2).ariths x core (0x52 + 256 * vVop r) (vDf r) (outs.flatMap (·.conds))

/-- A vector instruction of one operation. -/
def State.vec (s : State) (a : Act) (ecc : List ScrEcc) (vop : Nat) : Res :=
  s.on fun b => b.workRead a ecc (fun x => isOp 0x52 x && vVop x.desc == vop && b.dev.vecTurn a x) (fun _ x => vecReads a.cs.core x)
    fun b x => b.vecRun a x

def execVecAdd (a : Act) (s : State) (ecc : List ScrEcc := []) : Res := s.vec a ecc 0x01
def execVecSub (a : Act) (s : State) (ecc : List ScrEcc := []) : Res := s.vec a ecc 0x02
def execVecMul (a : Act) (s : State) (ecc : List ScrEcc := []) : Res := s.vec a ecc 0x03
def execVecFma (a : Act) (s : State) (ecc : List ScrEcc := []) : Res := s.vec a ecc 0x04
def execVecDiv (a : Act) (s : State) (ecc : List ScrEcc := []) : Res := s.vec a ecc 0x05
def execVecSqrt (a : Act) (s : State) (ecc : List ScrEcc := []) : Res := s.vec a ecc 0x06
def execVecMin (a : Act) (s : State) (ecc : List ScrEcc := []) : Res := s.vec a ecc 0x07
def execVecMax (a : Act) (s : State) (ecc : List ScrEcc := []) : Res := s.vec a ecc 0x08
def execVecAbs (a : Act) (s : State) (ecc : List ScrEcc := []) : Res := s.vec a ecc 0x09
def execVecNeg (a : Act) (s : State) (ecc : List ScrEcc := []) : Res := s.vec a ecc 0x0A
def execVecAdds (a : Act) (s : State) (ecc : List ScrEcc := []) : Res := s.vec a ecc 0x0B
def execVecMuls (a : Act) (s : State) (ecc : List ScrEcc := []) : Res := s.vec a ecc 0x0C
def execVecExp (a : Act) (s : State) (ecc : List ScrEcc := []) : Res := s.vec a ecc 0x0D
def execVecLog (a : Act) (s : State) (ecc : List ScrEcc := []) : Res := s.vec a ecc 0x0E
def execVecCvt (a : Act) (s : State) (ecc : List ScrEcc := []) : Res := s.vec a ecc 0x0F
def execVecRedsum (a : Act) (s : State) (ecc : List ScrEcc := []) : Res := s.vec a ecc 0x10
def execVecRedmax (a : Act) (s : State) (ecc : List ScrEcc := []) : Res := s.vec a ecc 0x11
def execVecCmpgt (a : Act) (s : State) (ecc : List ScrEcc := []) : Res := s.vec a ecc 0x12
def execVecSel (a : Act) (s : State) (ecc : List ScrEcc := []) : Res := s.vec a ecc 0x13
def execVecIota (a : Act) (s : State) (ecc : List ScrEcc := []) : Res := s.vec a ecc 0x15

/-! ### TOPK (10 R300, R301) -/

/-- The expert of largest q among those not taken; equal q go to the lower e. -/
def pickBest (q : List W32) (taken : List Nat) : Nat :=
  (List.range q.length).foldl (fun best e =>
    if taken.contains e then best
    else if taken.contains best || best == q.length || B32.lt (q.getD best 0) (q.getD e 0) then e else best) q.length

def pickK (q : List W32) : Nat → List Nat → List Nat
  | 0, l => l
  | n + 1, l => pickK q n (l ++ [pickBest q l])

/-- A token's route: nowhere, nowhere because of a NaN, or expert and weight of each choice with the conditions met. -/
inductive Route where
  | none (conds : List Nat)
  | nan (conds : List Nat)
  | some (choices : List (Nat × W32)) (conds : List Nat)

/-- Adds in ascending order. -/
def sumAsc : List Tr → Tr
  | [] => tr 0
  | x :: t => t.foldl trAdd x

/-- exp(v - mx). -/
def expBelow (mx v : W32) : Tr := trExp (trSub (tr v) (tr mx))

/-- Divides values by one divisor. -/
def divAll (l : List W32) (z : W32) : List Tr := l.map fun v => trDiv (tr v) (tr z)

def vals (l : List Tr) : List W32 := l.map (·.1)
def conds (l : List Tr) : List Nat := l.flatMap (·.2)

/-- The weights of the selected experts before RENORM, and the conditions. -/
def tkWeights (r : BitVec 256) (s : List W32) (es : List Nat) : List W32 × List Nat :=
  let sel := es.map fun e => s.getD e 0
  if tkGate r = 0 then
    let mx := (maxTree (s.map tr)).1
    let z := sumTree (s.map (expBelow mx))
    let w := divAll (vals (sel.map (expBelow mx))) z.1
    (vals w, z.2 ++ conds w)
  else if tkGate r = 1 then
    let z := sumAsc (sel.map (expBelow (sel.headD 0)))
    let w := divAll (vals (sel.map (expBelow (sel.headD 0)))) z.1
    (vals w, z.2 ++ conds w)
  else
    let w := sel.map fun v => trDiv (tr 0x3F800000) (trAdd (tr 0x3F800000) (trExp (tr (B32.flip v))))
    (vals w, conds w)

/-- RENORM: the weights divided by their sum. -/
def tkRenormed (r : BitVec 256) (w : List W32 × List Nat) : List W32 × List Nat :=
  if tkRenorm r then
    let u := sumAsc (w.1.map tr)
    let y := divAll w.1 u.1
    (vals y, w.2 ++ u.2 ++ conds y)
  else w

/-- The route of one token from its scores and the biases. -/
def tkRoute (r : BitVec 256) (score bias : List W32) (on : Bool) : Route :=
  let s := score.map fun v => trMul (tr (vScalar r)) (tr v)
  let q := if tkBias r then (s.zip bias).map fun x => trAdd (tr x.1.1) (tr x.2) else (vals s).map tr
  if !on then .none (conds s ++ conds q)
  else if (s ++ q).any fun v => B32.isNan v.1 then .nan (conds s ++ conds q)
  else
    let es := pickK (vals q) (tkK r) []
    let w := tkRenormed r (tkWeights r (vals s) es)
    .some (es.zip w.1) (conds s ++ conds q ++ w.2)

/-- The 2 k elements of a token. -/
def routeEls (k : Nat) (bad : Bool) : Route → List (Nat × Bool)
  | .some l _ => l.flatMap fun x => [((B32.ofInt x.1).toNat, bad), (x.2.toNat, bad)]
  | _ => (List.range k).flatMap fun _ => [((B32.ofInt (-1)).toNat, bad), (0, bad)]

/-- Counts and events of one token: tokens that get a route, NaN tokens with event 0xB001, conditions of the arithmetic. -/
def Dev.routeNotes (d : Dev) (core : Nat) (x : Action) (t : Nat) (bad : Bool) : Route → Dev
  | .none c => if bad then d else d.ariths x core (0x52 + 256 * 0x14) 0 c
  | .nan c => if bad then d else
      (d.condition x.ctx .route 1 0xB001 (boltOf core) (d.coreSlot core) [d.coreSlot core, x.index, t]).ariths x core
        (0x52 + 256 * 0x14) 0 c
  | .some _ c => if bad then d else (d.count x.ctx .route 0 1).ariths x core (0x52 + 256 * 0x14) 0 c

def Box.topkRun (b : Box) (a : Act) (x : Action) : Box :=
  let core : Nat := a.cs.core
  let r := x.desc
  let n := x.n0
  let e := tkE r
  if n = 0 then b
  else
    let scores := b.hVals core (Insn.ha x.w) 0 (vAo r) (n * e)
    let bias := if tkBias r then b.hVals core (Insn.hb x.w) 0 (vBo r) e else []
    let mask := b.vecMask core x
    let toks := (List.range n).map fun t =>
      let row := (scores.drop (t * e)).take e
      let m := mask.getD t (1, false)
      (t, m.2 || row.any (·.2) || bias.any (·.2),
        tkRoute r (row.map (·.1)) (bias.map (·.1)) (m.1 == 1 || m.2))
    let b := b.hPutEls x.ctx a core (Insn.hd x.w) 0 (vDo r) (toks.flatMap fun t => routeEls (tkK r) t.2.1 t.2.2)
    b.onD fun d => toks.foldl (fun d t => d.routeNotes core x t.1 t.2.1 t.2.2) (d.creaseHs (boltOf core) 2)

def execTopk (a : Act) (s : State) (ecc : List ScrEcc := []) : Res :=
  s.on fun b => b.workRead a ecc (fun x => isOp 0x52 x && vVop x.desc == 0x14 && b.dev.vecTurn a x) (fun _ x => vecReads a.cs.core x)
    fun b x => b.topkRun a x

end Sys2Proof.Machine
end

