-- ==== Sys2Proof/Machine/Hems.lean ====
section
/-! DEFINITION. The Hem of a cluster: soft-maximum and normalisation, forward and backward, with its side memory
(09 R271 to R278). -/

namespace Sys2Proof.Machine

/-! ### The record (09 R272) -/

def hemOp (r : BitVec 256) : Nat := recN r 2 1
def hemMasked (r : BitVec 256) : Bool := bitOf r 24
def hemAffine (r : BitVec 256) : Bool := bitOf r 25
def hemRnd (r : BitVec 256) : Bool := bitOf r 26
def hemPgrad (r : BitVec 256) : Bool := bitOf r 27
def hemXf (r : BitVec 256) : Nat := fld r 32 5
def hemYf (r : BitVec 256) : Nat := fld r 40 5
def hemDxf (r : BitVec 256) : Nat := fld r 48 5
def hemN (r : BitVec 256) : Nat := recN r 12 2
def hemSoff (r : BitVec 256) : Nat := recN r 14 2
def hemParam (r : BitVec 256) : W32 := BitVec.ofNat 32 (recN r 16 4)
def hemKey (r : BitVec 256) : Nat := recN r 20 4
def hemXo (r : BitVec 256) : Nat := 64 * recN r 24 2
def hemYo (r : BitVec 256) : Nat := 64 * recN r 26 2
def hemGo (r : BitVec 256) : Nat := 64 * recN r 28 2
def hemDgo (r : BitVec 256) : Nat := 64 * recN r 30 2

/-- Vectors of N elements at GOFF and at DGOFF: one, or two for LAYERNORM. -/
def hemPairs (r : BitVec 256) : Nat := if hemOp r = 2 then 2 else 1

def hemReads (core : Nat) (x : Action) : List Rng :=
  let r := x.desc
  let mn := x.n0 * hemN r
  if x.n0 = 0 then []
  else [⟨core, Insn.ha x.w, hemXo r, hBytesOf (hemXf r) mn⟩]
    ++ (if isOp 0x54 x then [⟨core, Insn.hb x.w, hemYo r, hBytesOf (hemYf r) mn⟩] else [])
    ++ (if hemMasked r then [⟨core, Insn.hc x.w, hemGo r, hBytesOf 0xE mn⟩] else [])
    ++ (if hemAffine r then
          [⟨core, Insn.hc x.w, hemGo r, 4 * hemN r * (if isOp 0x54 x then 1 else hemPairs r)⟩] else [])
    ++ (if hemPgrad r then [⟨core, Insn.hc x.w, hemDgo r, 4 * hemN r * hemPairs r⟩] else [])

def hemWrites (core : Nat) (x : Action) : List Rng :=
  let r := x.desc
  let mn := x.n0 * hemN r
  if x.n0 = 0 then []
  else if isOp 0x53 x then [⟨core, Insn.hd x.w, hemYo r, hBytesOf (hemYf r) mn⟩]
  else [⟨core, Insn.hd x.w, 0, hBytesOf (hemDxf r) mn⟩]
    ++ (if hemPgrad r then [⟨core, Insn.hc x.w, hemDgo r, 4 * hemN r * hemPairs r⟩] else [])

/-! ### Row arithmetic (09 R276, R277) -/

/-- Element-wise operations on values, with the conditions met. -/
def mapT (f : Tr → Tr) (l : List W32) : List Tr := l.map fun a => f (tr a)
def zipT (f : Tr → Tr → Tr) (a b : List W32) : List Tr := (a.zip b).map fun x => f (tr x.1) (tr x.2)
def trFma (a b c : W32) : Tr := let r := B32.fma a b c; (r, opConds [a, b, c] r)
def trSqrt (a : Tr) : Tr := let r := B32.sqrt a.1; (r, a.2 ++ opConds [a.1] r)

/-- The result of a row: outputs, statistics a and b, and the conditions. -/
structure HemRow where
  out : List W32
  a : W32
  b : W32
  conds : List Nat

/-- s[i]: the scaled input, -infinity where the mask drops it. -/
def hemScores (param : W32) (keep : List Bool) (x : List W32) : List Tr :=
  (x.zip keep).map fun e => if e.2 then trMul (tr param) (tr e.1) else tr (B32.inf true)

def softmaxF (param : W32) (keep : List Bool) (x : List W32) : HemRow :=
  let s := hemScores param keep x
  let mx := (maxTree ((vals s).map tr)).1
  if mx = B32.inf true then ⟨x.map fun _ => 0, mx, 0, conds s⟩
  else
    let e := (vals s).map (expBelow mx)
    let sm := sumTree e
    let y := divAll (vals e) sm.1
    ⟨vals y, mx, sm.1, conds s ++ sm.2 ++ conds y⟩

/-- A sum over a row divided by the row length. -/
def meanOf (n : W32) (l : List Tr) : Tr := trDiv (sumTree l) (tr n)

def layernormF (param : W32) (g bt : Option (List W32)) (x : List W32) : HemRow :=
  let n := B32.ofInt x.length
  let mu := meanOf n (x.map tr)
  let d := mapT (fun v => trSub v (tr mu.1)) x
  let var := meanOf n (zipT trMul (vals d) (vals d))
  let iv := trDiv (tr 0x3F800000) (trSqrt (trAdd (tr var.1) (tr param)))
  let h := mapT (fun v => trMul v (tr iv.1)) (vals d)
  let y := match g, bt with
    | some g, some bt => ((vals h).zip (g.zip bt)).map fun e => trFma e.1 e.2.1 e.2.2
    | _, _ => (vals h).map tr
  ⟨vals y, mu.1, iv.1, mu.2 ++ conds d ++ var.2 ++ iv.2 ++ conds h ++ conds y⟩

def rmsnormF (param : W32) (g : Option (List W32)) (x : List W32) : HemRow :=
  let ms := meanOf (B32.ofInt x.length) (zipT trMul x x)
  let iv := trDiv (tr 0x3F800000) (trSqrt (trAdd (tr ms.1) (tr param)))
  let h := mapT (fun v => trMul v (tr iv.1)) x
  let y := match g with
    | some g => zipT trMul (vals h) g
    | none => (vals h).map tr
  ⟨vals y, 0, iv.1, ms.2 ++ iv.2 ++ conds h ++ conds y⟩

/-- The backward result of a row: dx, and what dγ and dβ add. -/
structure HemBack where
  dx : List W32
  dg : List W32
  db : List W32
  conds : List Nat

def softmaxB (param a b : W32) (keep : List Bool) (x dy : List W32) : HemBack :=
  if a = B32.inf true then ⟨x.map fun _ => 0, [], [], []⟩
  else
    let s := hemScores param keep x
    let e := (vals s).map (expBelow a)
    let y := divAll (vals e) b
    let dot := sumTree (zipT trMul dy (vals y))
    let t := ((dy.zip (vals y)).zip keep).map fun v =>
      if v.2 then trMul (tr param) (trMul (tr v.1.2) (trSub (tr v.1.1) (tr dot.1))) else tr 0
    ⟨vals t, [], [], conds s ++ conds e ++ conds y ++ dot.2 ++ conds t⟩

/-- dh: dy, times γ with AFFINE. -/
def hemDh (g : Option (List W32)) (dy : List W32) : List Tr :=
  match g with
  | some g => zipT trMul dy g
  | none => dy.map tr

def layernormB (a b : W32) (g : Option (List W32)) (pgrad : Bool) (x dy : List W32) : HemBack :=
  let n := B32.ofInt x.length
  let xh := mapT (fun v => trMul (trSub v (tr a)) (tr b)) x
  let dh := hemDh g dy
  let ma := meanOf n ((vals dh).map tr)
  let mb := meanOf n (zipT trMul (vals dh) (vals xh))
  let dx := ((vals dh).zip (vals xh)).map fun v =>
    trMul (tr b) (trSub (trSub (tr v.1) (tr ma.1)) (trMul (tr v.2) (tr mb.1)))
  let dg := if pgrad then zipT trMul dy (vals xh) else []
  ⟨vals dx, vals dg, if pgrad then dy else [], conds xh ++ conds dh ++ ma.2 ++ mb.2 ++ conds dx ++ conds dg⟩

def rmsnormB (b : W32) (g : Option (List W32)) (pgrad : Bool) (x dy : List W32) : HemBack :=
  let xh := mapT (fun v => trMul v (tr b)) x
  let dh := hemDh g dy
  let mb := meanOf (B32.ofInt x.length) (zipT trMul (vals dh) (vals xh))
  let dx := ((vals dh).zip (vals xh)).map fun v => trMul (tr b) (trSub (tr v.1) (trMul (tr v.2) (tr mb.1)))
  let dg := if pgrad then zipT trMul dy (vals xh) else []
  ⟨vals dx, vals dg, [], conds xh ++ conds dh ++ mb.2 ++ conds dx ++ conds dg⟩

/-! ### Operands of a row -/

def vbs (l : List (W32 × Bool)) : List W32 := l.map (·.1)
def anyP (l : List (W32 × Bool)) : Bool := l.any (·.2)

/-- Row `row` of a buffer of M rows of N elements. -/
def rowOf {α : Type} (n row : Nat) (l : List α) : List α := (l.drop (row * n)).take n

/-- What a Hem command reads before it starts: x, dy, mask bits, γ and β. -/
structure HemIn where
  x : List (W32 × Bool)
  dy : List (W32 × Bool)
  mask : List (Nat × Bool)
  g : List (W32 × Bool)
  bt : List (W32 × Bool)

def Box.hemIn (b : Box) (core : Nat) (x : Action) : HemIn :=
  let r := x.desc
  let n := hemN r
  let mn := x.n0 * n
  { x := b.hVals core (Insn.ha x.w) (hemXf r) (hemXo r) mn
    dy := if isOp 0x54 x then b.hVals core (Insn.hb x.w) (hemYf r) (hemYo r) mn else []
    mask := if hemMasked r then b.hEls core (Insn.hc x.w) 0xE (hemGo r) mn else List.replicate mn (1, false)
    g := if hemAffine r then b.hVals core (Insn.hc x.w) 0 (hemGo r) n else []
    bt := if hemAffine r && hemOp r == 2 then b.hVals core (Insn.hc x.w) 0 (hemGo r + 4 * n) n else [] }

def optG (r : BitVec 256) (l : List (W32 × Bool)) : Option (List W32) := if hemAffine r then some (vbs l) else none

/-- One row of HEMF, and whether it is poisoned. -/
def hemRowF (r : BitVec 256) (i : HemIn) (row : Nat) : HemRow × Bool :=
  let n := hemN r
  let x := rowOf n row i.x
  let m := rowOf n row i.mask
  (if hemOp r = 1 then softmaxF (hemParam r) (m.map (·.1 == 1)) (vbs x)
   else if hemOp r = 2 then layernormF (hemParam r) (optG r i.g) (optG r i.bt) (vbs x)
   else rmsnormF (hemParam r) (optG r i.g) (vbs x),
   anyP x || m.any (·.2) || anyP i.g || anyP i.bt)

def hemRowB (r : BitVec 256) (i : HemIn) (row : Nat) (e : HemEntry) : HemBack × Bool :=
  let n := hemN r
  let x := rowOf n row i.x
  let dy := rowOf n row i.dy
  let m := rowOf n row i.mask
  (if hemOp r = 1 then softmaxB (hemParam r) e.a e.b (m.map (·.1 == 1)) (vbs x) (vbs dy)
   else if hemOp r = 2 then layernormB e.a e.b (optG r i.g) (hemPgrad r) (vbs x) (vbs dy)
   else rmsnormB e.b (optG r i.g) (hemPgrad r) (vbs x) (vbs dy),
   anyP x || anyP dy || m.any (·.2) || anyP i.g || e.poison)

/-- Conditions of an action raised on a Hem. -/
def Dev.hemConds (d : Dev) (cl : Nat) (x : Action) (fmt : Nat) (codes : List Nat) : Dev :=
  codes.foldl (fun d c => d.arith x.ctx c (cl / 16) (d.hemSlot cl) x.index (Insn.opc x.w) fmt) d

/-- The converted elements of a row from element `first` on, with the conditions when it is clean. -/
def hemCodes (f off : Nat) (rnd : Rnd) (first : Nat) (bad : Bool) (l : List W32) : List (Nat × Nat × Bool) × List Nat :=
  let e := (List.range l.length).zip l
  (e.map fun v => (first + v.1, ofB32 f rnd (handleIndex f off (first + v.1)) v.2, bad),
   if bad then [] else e.flatMap fun v => convConds f rnd (handleIndex f off (first + v.1)) v.2)

/-! ### HEMF -/

def Box.hemfRow (a : Act) (x : Action) (i : HemIn) (b : Box) (row : Nat) : Box :=
  let core : Nat := a.cs.core
  let cl := clusterOf core
  let r := x.desc
  let y := hemRowF r i row
  let c := hemCodes (hemYf r) (hemYo r / 64) (b.dev.rnd x (hemRnd r) (hemKey r)) (row * hemN r) y.2 y.1.out
  let b := b.onD fun d =>
    (d.hemConds cl x (hemYf r) ((if y.2 then [] else y.1.conds) ++ c.2)).updHem cl fun h =>
      { h with ents := put h.ents (hemSoff r + row) ⟨y.1.a, y.1.b, x.ctx, y.2⟩ }
  b.hWriteEls x.ctx a core (Insn.hd x.w) (hemYf r) (hemYo r) (x.n0 * hemN r) c.1

/-- The action is at the head of its Hem's queue (09 R271). -/
def Dev.hemTurn (d : Dev) (a : Act) : Bool := ((d.hem (clusterOf a.cs.core)).q.head?).any (·.a == a)

/-- A finished command leaves the queue. -/
def Dev.hemLeave (d : Dev) (a : Act) : Dev := d.updHem (clusterOf a.cs.core) fun h => { h with q := h.q.filter (·.a != a) }

def Box.hemfRun (b : Box) (a : Act) (x : Action) : Box :=
  let i := b.hemIn a.cs.core x
  ((List.range x.n0).foldl (Box.hemfRow a x i) (b.onD fun d => d.creaseHs (boltOf a.cs.core) 3)).onD fun d => d.hemLeave a

def execHemf (a : Act) (s : State) (ecc : List ScrEcc := []) : Res :=
  s.on fun b => b.workRead a ecc (fun x => isOp 0x53 x && b.dev.hemTurn a) (fun _ x => hemReads a.cs.core x) fun b x => b.hemfRun a x

/-! ### HEMB -/

/-- The dγ or dβ vector at an offset in HC takes the additions of a row. -/
def Box.hemAccum (b : Box) (a : Act) (x : Action) (off : Nat) (add : List W32) (bad : Bool) : Box :=
  if add.isEmpty then b
  else
    let core : Nat := a.cs.core
    let old := b.hVals core (Insn.hc x.w) 0 off add.length
    let new := (old.zip add).map fun v => (trAdd (tr v.1.1) (tr v.2), v.1.2 || bad)
    let b := b.onD fun d => d.hemConds (clusterOf core) x 0 (new.flatMap fun v => if v.2 then [] else v.1.2)
    b.hPutEls x.ctx a core (Insn.hc x.w) 0 off (new.map fun v => (v.1.1.toNat, v.2))

/-- One row of HEMB. Its dx lies in HD from byte 0 (09 R272): the index of its rounding counts from offset 0, although 03 R563
lists DYOFF, which R272 makes the offset of the source dy (log 77). -/
def Box.hembRow (a : Act) (x : Action) (i : HemIn) (b : Box) (row : Nat) : Box :=
  let core : Nat := a.cs.core
  let cl := clusterOf core
  let r := x.desc
  match get? (b.dev.hem cl).ents (hemSoff r + row) with
  | none => b
  | some e =>
    let y := hemRowB r i row e
    let c := hemCodes (hemDxf r) 0 (b.dev.rnd x (hemRnd r) (hemKey r)) (row * hemN r) y.2 y.1.dx
    let b := b.onD fun d => d.hemConds cl x (hemDxf r) ((if y.2 then [] else y.1.conds) ++ c.2)
    let b := b.hWriteEls x.ctx a core (Insn.hd x.w) (hemDxf r) 0 (x.n0 * hemN r) c.1
    (b.hemAccum a x (hemDgo r) y.1.dg y.2).hemAccum a x (hemDgo r + 4 * hemN r) y.1.db y.2

/-- The first row whose entry is invalid or was written by another context. -/
def Dev.hemMissing (d : Dev) (cl : Nat) (x : Action) : Option Nat :=
  (List.range x.n0).find? fun row => !((get? (d.hem cl).ents (hemSoff x.desc + row)).any (·.ctx == x.ctx))

/-- Event 0xC007 for a row without its statistics; the context stops (09 R275). -/
def Box.hemFault (b : Box) (cl : Nat) (x : Action) (row : Nat) : Box :=
  let idx := hemSoff x.desc + row
  let w : Int := (get? (b.dev.hem cl).ents idx).elim (-1) fun e => (e.ctx : Int)
  (b.onD fun d => d.ev 0xC007 (cl / 16) (some x.ctx) [b.dev.hemSlot cl, idx, w]).faultStop x.ctx 0xC007

def Box.hembRun (b : Box) (a : Act) (x : Action) : Box :=
  let cl := clusterOf a.cs.core
  let i := b.hemIn a.cs.core x
  let miss := b.dev.hemMissing cl x
  let b := (List.range (miss.getD x.n0)).foldl (Box.hembRow a x i) (b.onD fun d => d.creaseHs (boltOf a.cs.core) 3)
  match miss with
  | some row => b.hemFault cl x row
  | none => b.onD fun d => d.hemLeave a

def execHemb (a : Act) (s : State) (ecc : List ScrEcc := []) : Res :=
  s.on fun b => b.workRead a ecc (fun x => isOp 0x54 x && b.dev.hemTurn a) (fun _ x => hemReads a.cs.core x) fun b x => b.hembRun a x

end Sys2Proof.Machine
end

