-- ==== Sys2Proof/Machine/Press.lean ====
section
/-! DEFINITION. The Press: optimiser updates over element ranges and the norm phase of clipping (09 R279 to R293). -/

namespace Sys2Proof.Machine

/-! ### The PRESS record (09 R280); a launched action's n0 is START, n1 COUNT -/

def prOslot (r : BitVec 256) : Nat := recN r 2 1
def prNorm (r : BitVec 256) : Bool := bitOf r 24
def prRnd (r : BitVec 256) : Bool := bitOf r 25
def prClip (r : BitVec 256) : Bool := bitOf r 26
def prTarget (r : BitVec 256) : Nat := recN r 4 1
def prNidx (r : BitVec 256) : Nat := recN r 5 1
def prDp (r : BitVec 256) : Nat := recN r 6 2
def prDg (r : BitVec 256) : Nat := recN r 8 2
def prDm (r : BitVec 256) : Nat := recN r 10 2
def prDv (r : BitVec 256) : Nat := recN r 12 2
def prDl (r : BitVec 256) : Nat := recN r 14 2
def prDf (r : BitVec 256) : Nat := recN r 16 2
def prDn (r : BitVec 256) : Nat := recN r 18 2
def prKey (r : BitVec 256) : Nat := recN r 28 4

/-- Press of an action: the key is 8 x Spool + number. -/
def prSpool (key : Nat) : Nat := key / 8
def pressOf (key : Nat) : Int := pressSlot (prSpool key) (key % 8)
def pressDie (key : Nat) : Nat := dieSpool (prSpool key)

/-! ### What a PRESS read at launch (09 R286, R288, R295) -/

/-- Word i of the slot entry, word i of the program entry. -/
def slotWord (e : BitVec 512) (i : Nat) : W32 := BitVec.ofNat 32 (fld e (32 * i) 32)
def progWord (e : BitVec 1536) (i : Nat) : W32 := BitVec.ofNat 32 (fld e (32 * i) 32)

/-- The learning rate in force at training step s. -/
def Box.pressLr (b : Box) (e : BitVec 512) (step : Nat) : W32 :=
  match b.dev.native (fld e 352 16) with
  | some t => if fld e 352 16 = none16 then slotWord e 1
    else B32.mul (slotWord e 1) (b.tVal (.ofDesc t) (min step (dSize t 0 - 1))).v
  | none => slotWord e 1

/-- The conditions of the arithmetic that an update-phase command does at launch: LR × LRT, sqrt(N), MAXNORM / n (03 R109). -/
def Box.pressLaunchConds (b : Box) (e : BitVec 512) (step : Nat) (r : BitVec 256) (n1 : Nat) : List Nat :=
  if prNorm r ∨ n1 = 0 then [] else
    let lr := if fld e 352 16 = none16 then [] else
      (b.dev.native (fld e 352 16)).elim [] fun t =>
        let y := (b.tVal (.ofDesc t) (min step (dSize t 0 - 1))).v
        opConds [slotWord e 1, y] (B32.mul (slotWord e 1) y)
    let nv : Elem := if prClip r then (b.dev.native (prDn r)).elim ⟨0, false⟩ fun t => b.tVal (.ofDesc t) (prNidx r) else ⟨0, false⟩
    let n := B32.sqrt nv.v
    let max := slotWord e 8
    lr ++ (if !prClip r ∨ nv.poison ∨ !B32.isFinite nv.v then [] else
      opConds [nv.v] n ++ (if B32.lt max n then opConds [max, n] (B32.div max n) else []))

/-- The values that a PRESS takes at launch. -/
def Box.pressCfg (b : Box) (n step : Nat) (r : BitVec 256) : List W32 :=
  let o := getD (b.dev.ctx n).slots (prOslot r) ⟨0, 0, 0⟩
  let p := getD (b.dev.ctx n).progs (fld o.e 16 8) 0
  let nv : Elem := if prClip r && !prNorm r then
    (b.dev.native (prDn r)).elim ⟨0, false⟩ fun t => b.tVal (.ofDesc t) (prNidx r) else ⟨0, false⟩
  [nv.v, BitVec.ofNat 32 (boolN nv.poison), b.pressLr o.e step, o.p1, o.p2]
    ++ (List.range 16).map (slotWord o.e) ++ (List.range 48).map (progWord p)

structure PressCfg where
  norm : Elem
  lr : W32
  p1 : W32
  p2 : W32
  kind : Nat
  nesterov : Bool
  decoupled : Bool
  bias : Bool
  apply : Bool
  beta1 : W32
  beta2 : W32
  eps : W32
  wd : W32
  damp : W32
  gscale : W32
  maxnorm : W32
  prog : List W32

def Action.press (x : Action) : PressCfg :=
  let w := fun i => x.cfg.getD i 0
  { norm := ⟨w 0, w 1 == 1⟩, lr := w 2, p1 := w 3, p2 := w 4
    kind := fld (w 5) 0 8, nesterov := bitOf (w 5) 8, decoupled := bitOf (w 5) 9, bias := bitOf (w 5) 10
    apply := bitOf (w 5) 11, beta1 := w 7, beta2 := w 8, eps := w 9, wd := w 10, damp := w 11, gscale := w 12
    maxnorm := w 13, prog := x.cfg.drop 21 }

/-! ### Updates of one element (09 R283 to R285, R293) -/

/-- A value with the conditions met: event code, operation item, format. -/
abbrev Pc := W32 × List (Nat × Nat)

def pc (v : W32) : Pc := (v, [])
def pOp (op : Nat) (ins : List Pc) (out : W32) : Pc :=
  (out, ins.flatMap (·.2) ++ (opConds (ins.map (·.1)) out).map fun c => (c, op))

/-- The operation item of event 0x3001 for a built-in update. -/
def press0 : Nat := 0x69

def pAdd (a b : Pc) : Pc := pOp press0 [a, b] (B32.add a.1 b.1)
def pSub (a b : Pc) : Pc := pOp press0 [a, b] (B32.sub a.1 b.1)
def pMul (a b : Pc) : Pc := pOp press0 [a, b] (B32.mul a.1 b.1)
def pDiv (a b : Pc) : Pc := pOp press0 [a, b] (B32.div a.1 b.1)
def pFma (a b c : Pc) : Pc := pOp press0 [a, b, c] (B32.fma a.1 b.1 c.1)
def pSqrt (a : Pc) : Pc := pOp press0 [a] (B32.sqrt a.1)

/-- Parameter, moments and the conditions of an update. -/
structure PressEl where
  p : W32
  m : W32
  v : W32
  conds : List (Nat × Nat)

def oneB : Pc := pc 0x3F800000

def sgd (c : PressCfg) (p m v : W32) (g : Pc) : PressEl :=
  let g := if c.decoupled then g else pFma (pc c.wd) (pc p) g
  let m' := pFma (pc c.beta1) (pc m) (pMul (pSub oneB (pc c.damp)) g)
  let u := if c.nesterov then pFma (pc c.beta1) (pc m'.1) (pc g.1) else pc m'.1
  let u := if c.decoupled then pFma (pc c.wd) (pc p) u else u
  let p' := pFma (pc (B32.flip c.lr)) u (pc p)
  ⟨p'.1, m'.1, v, m'.2 ++ p'.2⟩

def adam (c : PressCfg) (p m v : W32) (g : Pc) : PressEl :=
  let g := if c.decoupled then g else pFma (pc c.wd) (pc p) g
  let m' := pFma (pc c.beta1) (pc m) (pMul (pSub oneB (pc c.beta1)) g)
  let v' := pFma (pc c.beta2) (pc v) (pMul (pSub oneB (pc c.beta2)) (pMul (pc g.1) (pc g.1)))
  let mh := if c.bias then pDiv (pc m'.1) (pSub oneB (pc c.p1)) else pc m'.1
  let vh := if c.bias then pDiv (pc v'.1) (pSub oneB (pc c.p2)) else pc v'.1
  let u := pDiv mh (pAdd (pSqrt vh) (pc c.eps))
  let u := if c.decoupled then pFma (pc c.wd) (pc p) u else u
  let p' := pFma (pc (B32.flip c.lr)) u (pc p)
  ⟨p'.1, m'.1, v'.1, m'.2 ++ v'.2 ++ p'.2⟩

/-- The result of a program operation on its three operands. -/
def progOp (op : Nat) (a b c : W32) : W32 :=
  if op = 0x01 then B32.add a b
  else if op = 0x02 then B32.sub a b
  else if op = 0x03 then B32.mul a b
  else if op = 0x04 then B32.div a b
  else if op = 0x05 then B32.fma a b c
  else if op = 0x06 then B32.sqrt a
  else if op = 0x07 then B32.minV a b
  else if op = 0x08 then B32.maxV a b
  else if op = 0x09 then B32.abs a
  else if op = 0x0A then B32.flip a
  else if op = 0x0B then
    (if B32.isNan a then B32.nan else if B32.isZero a then 0 else if B32.neg a then B32.ofInt (-1) else B32.ofInt 1)
  else if op = 0x0C then (if B32.lt 0 a then b else c)
  else if op = 0x0E then B32.exp a
  else if op = 0x0F then B32.log a
  else a

/-- Operands that an operation computes from, for its conditions; those that only choose or copy raise none. -/
def progIns (op : Nat) (a b c : W32) : List W32 :=
  if op = 0x05 then [a, b, c] else if op ≤ 0x04 then [a, b] else [a]

def progComputes (op : Nat) : Bool := (1 ≤ op && op ≤ 6) || op == 0x0E || op == 0x0F

/-- One operation word over the registers. -/
def progStep (s : Tbl W32 × List (Nat × Nat)) (w : W32) : Tbl W32 × List (Nat × Nat) :=
  let op := fld w 0 8
  let a := getD s.1 (fld w 13 5) 0
  let b := getD s.1 (fld w 18 5) 0
  let c := getD s.1 (fld w 23 5) 0
  let r := progOp op a b c
  (put s.1 (fld w 8 5) r,
   s.2 ++ (if progComputes op then (opConds (progIns op a b c) r).map fun e => (e, press0 + 256 * op) else []))

/-- The registers at the start of each element. -/
def progRegs (c : PressCfg) (step : Nat) (p m v g : W32) : Tbl W32 :=
  let l := [p, g, m, v, B32.ofInt (step + 1), 0, 0, 0, c.lr, c.beta1, c.beta2, c.eps, c.wd, c.damp, c.p1, c.p2]
  (List.range 24).zip (l ++ (c.prog.drop 32).take 8)

def program (c : PressCfg) (step : Nat) (p m v g : W32) : PressEl :=
  let n := fld (c.prog.getD 40 0) 0 8
  let s := (c.prog.take n).foldl progStep (progRegs c step p m v g, [])
  ⟨getD s.1 0 0, getD s.1 2 0, getD s.1 3 0, s.2⟩

/-- The update of a slot kind. -/
def pressUpdate (c : PressCfg) (step : Nat) (p m v : W32) (g : Pc) : PressEl :=
  if c.kind = 1 then sgd c p m v g
  else if c.kind = 2 then adam c p m v g
  else let y := program c step p m v g.1; { y with conds := g.2 ++ y.conds }

/-! ### Tensors of a command -/

/-- A named tensor, none for 0xFFFF. -/
def Dev.named (d : Dev) (i : Nat) : Option Tens := if i = none16 then none else (d.native i).map Tens.ofDesc

def Box.optVal (b : Box) (t : Option Tens) (e : Nat) : Elem := t.elim ⟨0, false⟩ fun t => b.tVal t e

/-- A frozen element of the range (09 R283). -/
def Box.frozen (b : Box) (r : BitVec 256) (e : Nat) : Bool := (b.dev.named (prDf r)).any fun t => (b.tRead t e).1 == 1

def Dev.pressConds (d : Dev) (x : Action) (fmt : Nat) (l : List (Nat × Nat)) : Dev :=
  l.foldl (fun d c => d.arith x.ctx c.1 (pressDie x.unit) (pressOf x.unit) x.index c.2 fmt) d

def Box.pressPut (b : Box) (x : Action) (t : Option Tens) (e : Nat) (v : W32) : Box :=
  t.elim b fun t => b.engPut x.ctx (pressDie x.unit) (pressOf x.unit) t [(e, cleanCode 0 v.toNat, false)]

/-- The low-precision copy of an element. -/
def Box.pressCopy (b : Box) (x : Action) (e : Nat) (p : W32) : Box :=
  (b.dev.named (prDl x.desc)).elim b fun t =>
    let c := cvtEl t (b.dev.rnd x (prRnd x.desc) (prKey x.desc)) e ⟨p, false⟩
    let b := b.onD fun d => d.pressConds x (dFmt t.d) (c.2.map fun y => (y, press0))
    b.engPut x.ctx (pressDie x.unit) (pressOf x.unit) t [c.1]

/-! ### The update phase (09 R283, R288) -/

/-- The clip factor: 1 without CLIP, none when the norm is not finite. The root of a negative norm is NaN, which does not
exceed MAXNORM. -/
def clipOf (r : BitVec 256) (c : PressCfg) : Option W32 :=
  if !prClip r then some 0x3F800000
  else if !B32.isFinite c.norm.v then none
  else
    let n := B32.sqrt c.norm.v
    if B32.lt c.maxnorm n then some (B32.div c.maxnorm n) else some 0x3F800000

/-- The address of the first poisoned operand of an element. -/
def Box.pressBad (b : Box) (r : BitVec 256) (e : Nat) : Option Nat :=
  ([prDp r, prDg r, prDm r, prDv r].filterMap b.dev.named).findSome? fun t =>
    if (b.tVal t e).poison then some (((t.addrs e).head?).getD 0).toNat else none

/-- One element of the update phase. -/
def Box.pressEl (x : Action) (c : PressCfg) (k : W32) (b : Box) (e : Nat) : Box :=
  let r := x.desc
  if b.frozen r e then b.onD fun d => d.count x.ctx .press 1 1
  else match b.pressBad r e with
    | some addr => (b.onD fun d => d.count x.ctx .press 3 1).observe x.ctx 0 (pressDie x.unit) (pressOf x.unit) addr
    | none =>
      let g := pMul (pc (b.optVal (b.dev.named (prDg r)) e).v) (pc c.gscale)
      let g := if prClip r then pMul g (pc k) else g
      if !B32.isFinite g.1 && !c.apply then
        b.onD fun d => (d.pressConds x 0 g.2).condition x.ctx .press 2 0xC004 (pressDie x.unit) (pressOf x.unit)
          [prSpool x.unit, pressOf x.unit, prDp r, e]
      else
        let y := pressUpdate c x.step (b.optVal (b.dev.named (prDp r)) e).v (b.optVal (b.dev.named (prDm r)) e).v
          (b.optVal (b.dev.named (prDv r)) e).v g
        let b := b.onD fun d => (d.count x.ctx .press 0 1).pressConds x 0 y.conds
        let b := ((b.pressPut x (b.dev.named (prDp r)) e y.p).pressPut x (b.dev.named (prDm r)) e y.m).pressPut x
          (b.dev.named (prDv r)) e y.v
        b.pressCopy x e y.p

/-- Elements in order, until a stop discards the command (09 R290). -/
def Box.pressEls (b : Box) (a : Act) (x : Action) (c : PressCfg) (k : W32) : List Nat → Box
  | [] => b
  | e :: t => if (b.dev.action a).isNone then b else (Box.pressEl x c k b e).pressEls a x c k t

def Dev.pressTurn (d : Dev) (a : Act) (key : Nat) : Bool := (getD d.presses key .init).turn a
def Dev.pressLeave (d : Dev) (a : Act) (key : Nat) : Dev :=
  { d with presses := upd d.presses key .init fun q => q.leave a, ahead := d.ahead.filter (·.act != a) }

def Box.pressUpdateRun (b : Box) (a : Act) (x : Action) : Box :=
  let r := x.desc
  let c := x.press
  if prClip r && c.norm.poison then
    b.observe x.ctx 1 (pressDie x.unit) (pressOf x.unit)
      (((b.dev.named (prDn r)).elim 0 fun t => (((t.addrs (prNidx r)).head?).getD 0).toNat))
  else match clipOf r c with
    | none => b.onD fun d => d.condition x.ctx .press 4 0xC005 (pressDie x.unit) (pressOf x.unit)
        [prSpool x.unit, pressOf x.unit, prDn r, prNidx r, c.norm.v.toNat]
    | some k =>
      let b := if B32.lt k 0x3F800000 then b.onD fun d => d.count x.ctx .press 5 1 else b
      b.pressEls a x c k (span x.n0 x.n1)

def execPressUpdate (a : Act) (s : State) : Res :=
  s.on fun b => b.work a (fun x => isOp 0x69 x && !prNorm x.desc && b.dev.pressTurn a x.unit) (fun _ _ => []) fun b x =>
    let b := b.onD fun d => d.pressLeave a x.unit
    if x.n1 = 0 then b else b.pressUpdateRun a x

/-! ### The norm phase (09 R287) -/

/-- Element numbers of a range by 64-byte line of a binary32 tensor: line and, by lane, the element. -/
def linesOfEls (t : Tens) (es : List Nat) : Tbl (Tbl Nat) :=
  es.foldl (fun m e =>
    let a := ((t.addrs e).head?.getD 0).toNat
    upd m (a / 64) [] fun l => put l (a % 64 / 4) e) []

/-- The sum of squares of a line: missing lanes as +0, by the pairwise tree. -/
def Box.normLine (b : Box) (t : Tens) (gscale : W32) (lanes : Tbl Nat) : Pc :=
  treeOf pAdd (pc 0) 4 ((List.range 16).map fun i => match get? lanes i with
    | none => pc 0
    | some e => let y := pMul (pc (b.tVal t e).v) (pc gscale); pOp press0 [y, y] (B32.mul y.1 y.1))

/-- The sum over the lines in ascending order. -/
def Box.normSum (b : Box) (t : Tens) (gscale : W32) (es : List Nat) : Pc :=
  match (linesOfEls t es).map fun l => b.normLine t gscale l.2 with
  | [] => pc 0
  | y :: l => l.foldl pAdd y

def Box.pressNormRun (b : Box) (x : Action) : Box :=
  let r := x.desc
  match b.dev.named (prDg r), b.dev.named (prDn r) with
  | some tg, some tn =>
    let open' := (span x.n0 x.n1).filter fun e => !b.frozen r e
    let bad := open'.any fun e => (b.tVal tg e).poison
    let s := b.normSum tg x.press.gscale (open'.filter fun e => !(b.tVal tg e).poison)
    let old := b.tVal tn (prNidx r)
    let y := pAdd (pc old.v) s
    let b := b.onD fun d => d.pressConds x 0 y.2
    b.engPut x.ctx (pressDie x.unit) (pressOf x.unit) tn [(prNidx r, y.1.toNat, old.poison || bad)]
  | _, _ => b

def execPressNorm (a : Act) (s : State) : Res :=
  s.on fun b => b.work a (fun x => isOp 0x69 x && prNorm x.desc && b.dev.pressTurn a x.unit) (fun _ _ => []) fun b x =>
    let b := b.onD fun d => d.pressLeave a x.unit
    if x.n1 = 0 then b else b.pressNormRun x

end Sys2Proof.Machine
end

