-- ==== Sys2Proof/Machine/Records.lean ====
section
/-! DEFINITION. The records of engine commands: count fields and their sources, fields that must be 0, contents that the load
and the launch check, the handles that an instruction names and the ranges that an action uses (05 R151, R155 to R157;
06 R180, R185; 07 R211 to R214; 08 R235, R236, R254, R259; 09 R272, R280; 10 R299, R302; 12 R380). -/

namespace Sys2Proof.Machine

/-! ### Count fields (05 R156) -/

/-- A count field: byte and lowest bit of its selector, and its first byte. -/
structure CountField where
  sb : Nat
  sbit : Nat
  at' : Nat

/-- The count fields of a record by its kind, in the order n0, n1, n2 of a launched action. -/
def countFields (o : Nat) : List CountField :=
  if o = 0x38 then [⟨1, 0, 4⟩]
  else if o = 0x50 then [⟨1, 0, 8⟩, ⟨1, 2, 12⟩, ⟨1, 4, 16⟩]
  else if o = 0x51 then [⟨1, 0, 4⟩]
  else if o = 0x52 then [⟨2, 0, 8⟩]
  else if o = 0x53 ∨ o = 0x54 then [⟨1, 0, 8⟩]
  else if o = 0x58 then [⟨1, 0, 4⟩]
  else if o = 0x59 then [⟨1, 0, 4⟩, ⟨1, 2, 8⟩]
  else if o = 0x5A ∨ o = 0x5B then [⟨1, 0, 8⟩, ⟨1, 2, 12⟩]
  else if o = 0x60 then [⟨2, 2, 16⟩, ⟨2, 0, 20⟩]
  else if o = 0x61 then [⟨1, 0, 12⟩]
  else if o = 0x68 then [⟨1, 0, 8⟩]
  else if o = 0x69 then [⟨1, 0, 20⟩, ⟨1, 2, 24⟩]
  else []

/-- The count fields that a record uses: with ALL, a GREQ ignores its START and COUNT (08 R236; log 72). -/
def recCounts (r : BitVec 256) : List CountField :=
  if recN r 0 1 = 0x60 ∧ gqAll r then [] else countFields (recN r 0 1)

/-- Source of a count field: 0 immediate, 1 scalar, 2 shape word, 3 reserved. -/
def CountField.src (c : CountField) (r : BitVec 256) : Nat := fld r (8 * c.sb + c.sbit) 2
def CountField.val (c : CountField) (r : BitVec 256) : Nat := recN r c.at' 4

/-- Shape words that the count fields of a record take their values from. -/
def countSlots (r : BitVec 256) : List Nat :=
  ((recCounts r).filter fun c => c.src r == 2).map fun c => c.val r % 4096

/-- The value of count field `i` when the record alone gives it. -/
def immCount (r : BitVec 256) (i : Nat) : Option Nat :=
  match (recCounts r)[i]? with
  | some c => if c.src r = 0 then some (c.val r) else none
  | none => none

/-! ### Fields (17 R504) -/

/-- A field of a record: byte, lowest bit in it, bits. -/
abbrev FieldAt := Nat × Nat × Nat

def fieldVal (r : BitVec 256) (f : FieldAt) : Nat := fld r (8 * f.1 + f.2.1) f.2.2

def whenB {α : Type} (c : Bool) (l : List α) : List α := if c then l else []

/-- Bits of a count field above a register or slot number. -/
def countSpare (r : BitVec 256) : List FieldAt :=
  (recCounts r).flatMap fun c =>
    if c.src r = 1 then [(c.at', 5, 27)] else if c.src r = 2 then [(c.at' + 1, 4, 20)] else []

/-- A VEC operation reads source A; it uses SCALAR. -/
def vUsesA (vop : Nat) : Bool := vop != 0x15
def vUsesScalar (vop : Nat) : Bool := vop == 0x0B || vop == 0x0C || vop == 0x14 || vop == 0x15
def vUsesMask (r : BitVec 256) : Bool := vMasked r || vVop r == 0x13

/-- GREQ operations that take a handle, a dimension, a scatter mode, rounding. -/
def gqTakesHandle (op : Nat) : Bool := op == 1 || op == 8 || op == 9
def gqTakesDim (op : Nat) : Bool := op == 1 || op == 2 || op == 8

/-- The operation that a VEC or GREQ record holds is assigned; of another, no rule says which fields it uses (log 52). -/
def opKnown (r : BitVec 256) : Bool :=
  let o := recN r 0 1
  if o = 0x52 then decide (1 ≤ vVop r ∧ vVop r ≤ 0x15) else if o = 0x60 then decide (1 ≤ gqOp r ∧ gqOp r ≤ 10) else true

/-- A descriptor field holds a table index, or 0xFFFF for none (07 R194, R195). -/
def descNamed (v : Nat) : Bool := decide (v < 32768)
def descNone (v : Nat) : Bool := v == none16
def descEither (v : Nat) : Bool := descNamed v || descNone v

/-- Reserved fields of a record, and fields that its operation and options do not use: each must be 0 (05 R151). -/
def unusedFields (r : BitVec 256) : List FieldAt :=
  let o := recN r 0 1
  countSpare r ++
  (if o = 0x38 then [(1, 2, 6), (2, 6, 2), (3, 3, 5), (16, 0, 128)]
  else if o = 0x39 then [(1, 0, 248)]
  else if o = 0x50 then
    [(1, 6, 2), (2, 7, 1), (3, 6, 2), (4, 7, 1), (5, 5, 3), (6, 3, 5)]
      ++ whenB (!bitOf r 37) [(20, 0, 32)] ++ whenB (!bitOf r 38) [(30, 0, 16)]
      ++ whenB (fld r 21 2 != 2) [(5, 2, 3), (7, 0, 8)]
  else if o = 0x51 then [(1, 2, 6), (3, 1, 7), (28, 0, 32)]
  else if o = 0x52 then
    [(2, 3, 5), (3, 5, 3), (4, 5, 3), (5, 6, 2), (6, 0, 16)]
      ++ whenB (vVop r == 0x14) [(30, 1, 15)]
      ++ whenB (opKnown r && vVop r != 0x14)
          (whenB (!vUsesA (vVop r)) [(3, 0, 5), (20, 0, 16)] ++ whenB (!vUsesB (vVop r)) [(4, 0, 5), (22, 0, 16)]
            ++ whenB (vVop r == 0x12) [(5, 5, 1)] ++ whenB (!vRnd r) [(16, 0, 32)] ++ whenB (!vUsesScalar (vVop r)) [(12, 0, 32)]
            ++ [(28, 0, 32)])
      ++ whenB (opKnown r && !vUsesMask r) [(26, 0, 16)]
  else if o = 0x53 ∨ o = 0x54 then
    [(1, 2, 6), (3, 4, 4), (4, 5, 3), (5, 5, 3), (6, 5, 3), (7, 0, 8)]
      ++ whenB (o == 0x53) [(6, 0, 5)] ++ whenB (!hemRnd r) [(20, 0, 32)]
      ++ whenB (!hemMasked r && !hemAffine r) [(28, 0, 16)] ++ whenB (!hemPgrad r) [(30, 0, 16)]
  else if o = 0x58 ∨ o = 0x59 then
    [(1, 4, 4), (2, 0, 16), (16, 0, 128)] ++ whenB (o == 0x58) [(1, 2, 2), (8, 0, 32)]
  else if o = 0x5A ∨ o = 0x5B then
    [(1, 4, 4), (4, 6, 2), (5, 5, 3), (6, 5, 3), (7, 0, 8), (24, 0, 64)] ++ whenB (!lsRnd r) [(20, 0, 32)]
      ++ whenB (o == 0x5B) [(5, 0, 5)] ++ whenB (lsPlanes r == 0) [(5, 4, 1)] ++ whenB (lsComp r != 1) [(6, 2, 3)]
  else if o = 0x60 then
    let op := gqOp r
    [(2, 4, 4), (3, 6, 2), (5, 3, 5), (6, 5, 3)] ++ whenB (bitOf r 39) [(4, 0, 7)]
      ++ whenB (opKnown r) (whenB (op != 2 && op != 7) [(3, 0, 2)] ++ whenB (!gqTakesHandle op) [(3, 2, 1)] ++ whenB (op != 8) [(3, 5, 1), (7, 0, 8)]
      ++ whenB (op == 10 || (op == 3 && descNone (gqDd r))) [(3, 3, 1), (28, 0, 32)]
      ++ whenB (op == 3 || op == 10) [(2, 0, 4), (3, 4, 1), (16, 0, 64)]
      ++ whenB (!gqTakesDim op) [(5, 0, 3)] ++ whenB (!gqToh r) [(6, 0, 5), (26, 0, 16)]
      ++ whenB (!gqRnd r && op != 6) [(28, 0, 32)])
  else if o = 0x61 then [(1, 2, 6), (18, 0, 112)] ++ whenB (bitOf r 31) [(3, 0, 7)]
  else if o = 0x68 then [(1, 2, 6), (20, 0, 96)]
  else if o = 0x69 then
    [(1, 4, 4), (3, 3, 5), (4, 3, 1)] ++ whenB (bitOf r 39) [(4, 0, 7)] ++ whenB (prNorm r) [(3, 1, 2)]
      ++ whenB (!prRnd r) [(28, 0, 32)] ++ whenB (prDn r == none16) [(5, 0, 8)]
  else [])

/-- The first field that must be 0 and is not. -/
def unusedSet (r : BitVec 256) : Option FieldAt := (unusedFields r).find? fun f => fieldVal r f != 0

/-! ### Contents (05 R155 to R157) -/

/-- The first check that fails: byte and bit of its field. -/
def firstBad (l : List (Bool × Nat × Nat)) : Option (Nat × Nat) := (l.find? fun x => !x.1).map (·.2)

def b32NonNeg (w : W32) : Bool := B32.isFinite w && (B32.isZero w || !B32.neg w)

/-- ARR (03 R101; 04 R114, R121, R125, R126; 08 R237). -/
def arrBad (o : ArrOp) : List (Bool × Nat × Nat) :=
  [(ArrOp.combos.contains (o.wf, o.af), 2, 0), (decide (o.df ≤ 3), 4, 0), (decide (o.afeed ≤ 2), 2, 5),
   (!(o.afeed == 1 && o.af == 3), 2, 5), (!((o.comp == 2 || o.comp == 3) && o.afeed != 0), 2, 5),
   (!(o.comp == 1 && o.wfeed), 3, 5), (!(o.afeed == 2 && o.wfeed), 3, 5),
   ((o.form != 0) == (o.comp == 1 || o.comp == 2) && decide (o.form ≤ 6), 6, 0),
   (o.afeed != 2 || decide (1 ≤ o.passd ∧ o.passd ≤ 4), 5, 2), (o.afeed != 2 || decide (1 ≤ o.taps), 7, 0)]

/-- CHALK (08 R254). -/
def chalkBad (r : BitVec 256) : List (Bool × Nat × Nat) :=
  [(chalkK r % 8 == 0, 8, 0), (decide (8 ≤ chalkRk r ∧ chalkRk r ≤ 4096) && chalkRk r % 8 == 0, 12, 0),
   (decide (1 ≤ chalkF r ∧ chalkF r ≤ 1048576), 16, 0)]

/-- VEC (05 R162) and its use by TOPK (10 R299). -/
def vecBad (r : BitVec 256) : List (Bool × Nat × Nat) :=
  let v := vVop r
  [(decide (1 ≤ v ∧ v ≤ 0x15), 1, 0), (!(v == 0x13 && vMasked r), 2, 2)] ++
  (if v = 0x14 then
    [(vAf r == 0, 3, 0), (vBf r == 0, 4, 0), (tkBias r || recN r 22 2 == 0, 22, 0), (vDf r == 0, 5, 0), (!vRnd r, 5, 5),
     (vKey r == 0, 16, 0), (B32.isFinite (vScalar r) && B32.lt 0 (vScalar r), 12, 0),
     (decide (1 ≤ tkE r ∧ tkE r ≤ 256), 28, 0), (decide (1 ≤ tkK r ∧ tkK r ≤ 8 ∧ tkK r ≤ tkE r), 29, 1),
     (tkGate r != 3, 29, 5), (!(tkRenorm r && tkGate r == 1), 29, 7)]
  else
    [(!vUsesA v || fmtValid (vAf r), 3, 0), (!vUsesB v || fmtValid (vBf r), 4, 0), (fmtValid (vDf r), 5, 0),
     (!(v == 0x12 && vDf r != 0xE), 5, 0)])

/-- HEMF and HEMB (09 R272, R273). -/
def hemBad (r : BitVec 256) : List (Bool × Nat × Nat) :=
  let b := recN r 0 1 == 0x54
  [(decide (1 ≤ hemOp r ∧ hemOp r ≤ 3), 2, 0), (!(hemMasked r && hemOp r != 1), 3, 0), (!(hemAffine r && hemOp r == 1), 3, 1),
   (!(hemPgrad r && !(b && hemAffine r)), 3, 3), (decide (hemXf r ≤ 2), 4, 0), (decide (hemYf r ≤ 2), 5, 0),
   (decide (hemDxf r ≤ 2), 6, 0), (decide (1 ≤ hemN r), 12, 0), (decide (hemSoff r < 32768), 14, 0),
   (if hemOp r = 1 then B32.isFinite (hemParam r) else b32NonNeg (hemParam r), 16, 0)]

/-- The flags of a handle to place, of an HMAP record or a handle list entry (06 R180): byte of FLAGS, of LOG2NB, of
BACKING. -/
def placeBad (flags log2nb backing fb lb bb : Nat) : List (Bool × Nat × Nat) :=
  let ok := flags.testBit 1
  let mx := flags / 8 % 8
  [(!(flags.testBit 2 && !ok), fb, 2), (if ok then decide (2 ≤ mx ∧ mx ≤ 5) else mx == 0, fb, 3),
   (decide (log2nb ≤ 5), lb, 0),
   (backing == 0 || (backing % 64 == 0 && decide (backing < 2 ^ 52) && ok && decide (4 ≤ mx)), bb, 0)]

/-- A SIZE that may be placed. -/
def sizeOk (flags log2nb size : Nat) : Bool :=
  size != 0 && size % (64 * 2 ^ log2nb) == 0 && decide (size ≤ (if flags.testBit 1 then 4194304 else 2097152))

/-- LOAD and STORE (07 R211, R213, R214). -/
def lsBad (r : BitVec 256) : List (Bool × Nat × Nat) :=
  [(descNamed (lsDesc r), 2, 0), (fmtValid (lsHf r), 4, 0), (decide (lsPlanes r ≤ 8), 5, 0), (lsComp r != 3, 6, 0),
   (!(lsComp r == 1) || decide (1 ≤ lsForm r ∧ lsForm r ≤ 6), 6, 2),
   (lsComp r == 0 || recN r 0 1 == 0x5B || fmtKF (lsHf r), 4, 0),
   (if lsComp r = 0 then descNone (lsSide r) else descNamed (lsSide r), 16, 0)]

/-- What each operand field of a GREQ must hold, by operation: 0 none, 1 a descriptor, 2 either. -/
def gqNeeds (r : BitVec 256) : Nat × Nat × Nat :=
  let op := gqOp r
  if op = 1 then (1, if gqToh r then 0 else 1, 0)
  else if op = 2 then (1, 1, 0)
  else if op = 3 then (0, 2, 0)
  else if op = 4 ∨ op = 5 then (1, 1, 1)
  else if op = 6 ∨ op = 7 then (2, 1, 1)
  else if op = 8 then (1, 0, 1)
  else if op = 9 then (0, 1, 0)
  else (0, 0, 0)

def descNeed (need v : Nat) : Bool := if need = 0 then descNone v else if need = 1 then descNamed v else descEither v

/-- GREQ (08 R235, R236; 10 R302). -/
def gqBad (r : BitVec 256) : List (Bool × Nat × Nat) :=
  let op := gqOp r
  let n := gqNeeds r
  [(decide (1 ≤ op ∧ op ≤ 10), 1, 0), (gqMode r != 3, 3, 0), (!(op == 8 || op == 9) || gqToh r, 3, 2), (decide (gqG r ≤ 5), 5, 0),
   (!gqToh r || fmtValid (gqHf r), 6, 0), (descNamed (gqDs r), 8, 0), (descNeed n.1 (gqDi r), 10, 0),
   (descNeed n.2.1 (gqDd r), 12, 0), (descNeed n.2.2 (gqDx r), 14, 0),
   (descNone (gqSlot r) || ((op == 4 || op == 6 || op == 8) && decide (gqSlot r < 4096)), 24, 0)]

/-- AUDIT (08 R259) and COLL (12 R380). -/
def audBad (r : BitVec 256) : List (Bool × Nat × Nat) :=
  [(descNamed (auDv r), 4, 0), (descNamed (auDl r), 6, 0), (descNamed (auDp r), 8, 0), (descNamed (auDe r), 10, 0),
   (decide (auSlot r + 1 < 4096), 16, 0)]
def collBad (r : BitVec 256) : List (Bool × Nat × Nat) :=
  [(decide (clPlan r < 1024), 2, 0), (descEither (clDs r), 4, 0), (descNamed (clDd r), 6, 0)]

/-- PRESS (09 R280). -/
def pressBad (r : BitVec 256) : List (Bool × Nat × Nat) :=
  [(decide (prOslot r < 64), 2, 0), (descNamed (prDp r), 6, 0), (descNamed (prDg r), 8, 0), (descEither (prDm r), 10, 0),
   (descEither (prDv r), 12, 0), (descEither (prDl r), 14, 0), (descEither (prDf r), 16, 0), (descEither (prDn r), 18, 0)]

/-- The record of an ARR as parameters; counts do not matter here. -/
def arrOfRec (r : BitVec 256) : ArrOp :=
  arrParams { id := 0, w := 0, index := 0, desc := r, e := none, launch := 0, tack := 0, n0 := 0, n1 := 0, n2 := 0, val := 0
              dev := 0, unit := 0, ctx := 0, step := 0, reads := [], writes := [], done := false, gen := none, since := 0
              raised := false, fetched := 0, cfg := [], input := 0, cause := 0, cyc := 0 }

/-- The contents that do not depend on a count. -/
def contentBad (r : BitVec 256) : Option (Nat × Nat) :=
  let o := recN r 0 1
  let srcs := (recCounts r).map fun c => (c.src r != 3, c.sb, c.sbit)
  firstBad (srcs ++
    (if o = 0x38 then placeBad (recN r 2 1) (recN r 3 1) (recN r 8 8) 2 3 8
    else if o = 0x50 then arrBad (arrOfRec r)
    else if o = 0x51 then chalkBad r
    else if o = 0x52 then vecBad r
    else if o = 0x53 ∨ o = 0x54 then hemBad r
    else if o = 0x5A ∨ o = 0x5B then lsBad r
    else if o = 0x60 then gqBad r
    else if o = 0x61 then audBad r
    else if o = 0x68 then collBad r
    else if o = 0x69 then pressBad r
    else [(o == 0x39 || o == 0x58 || o == 0x59, 0, 0)]))

/-- The rules on a count alone: the field and value that break one. `n` gives the counts that are known. -/
def countBad (r : BitVec 256) (n : Nat → Option Nat) : Option (Nat × Nat × Nat) :=
  let o := recN r 0 1
  let bad := fun (c : Bool) (i at' : Nat) => if c then none else some (at', 0, (n i).getD 0)
  if o = 0x38 then bad ((n 0).all (sizeOk (recN r 2 1) (recN r 3 1))) 0 4
  else if o = 0x50 then bad ((n 2).all fun k => ArrOp.kOk { arrOfRec r with k := k }) 2 16
  else if o = 0x53 ∨ o = 0x54 then bad ((n 0).all fun m => decide (hemSoff r + m ≤ 32768)) 0 8
  else if o = 0x58 ∨ o = 0x59 then bad ((n 0).all fun v => v % 64 == 0 && decide (v ≤ 2097152)) 0 4
  else none

/-- A COPY between overlapping ranges of one handle (05 R157). -/
def copyClash (r : BitVec 256) (w : W64) (bytes : Nat) : Bool :=
  Insn.opc w == 0x58 && Insn.ha w == Insn.hd w && bytes != 0
    && decide (cpAo r < cpDo r + bytes) && decide (cpDo r < cpAo r + bytes)

/-! ### Handles that an instruction names (05 R150; 06 R179, R185) -/

/-- Fields HA, HB, HC, HD that an engine command uses. -/
def handleUse (w : W64) (r : BitVec 256) : Bool × Bool × Bool × Bool :=
  let o := Insn.opc w
  if o = 0x38 ∨ o = 0x39 ∨ o = 0x5A then (false, false, false, true)
  else if o = 0x50 then (true, true, bitOf r 38, true)
  else if o = 0x51 then (true, true, true, true)
  else if o = 0x52 then (vUsesA (vVop r), vUsesB (vVop r) || (vVop r == 0x14 && tkBias r), vUsesMask r, true)
  else if o = 0x53 then (true, false, hemMasked r || hemAffine r, true)
  else if o = 0x54 then (true, true, hemMasked r || hemAffine r, true)
  else if o = 0x58 ∨ o = 0x59 then (true, false, false, true)
  else if o = 0x5B then (true, false, false, false)
  else if o = 0x60 then (false, false, false, gqToh r)
  else (false, false, false, false)

/-- Unused handle fields are 0 (05 R151). -/
def handlesZero (w : W64) (r : BitVec 256) : Bool :=
  let u := handleUse w r
  (u.1 || Insn.ha w == 0) && (u.2.1 || Insn.hb w == 0) && (u.2.2.1 || Insn.hc w == 0) && (u.2.2.2 || Insn.hd w == 0)

/-- Handle numbers that an instruction names. -/
def namedHandles (w : W64) (r : BitVec 256) : List Nat :=
  let u := handleUse w r
  whenB u.1 [Insn.ha w] ++ whenB u.2.1 [Insn.hb w] ++ whenB u.2.2.1 [Insn.hc w] ++ whenB u.2.2.2 [Insn.hd w]

/-- Handles of the issuing core that an action reads and writes (05 R157, R164). -/
def hReads (w : W64) (r : BitVec 256) : List Nat :=
  let u := handleUse w r
  let o := Insn.opc w
  whenB u.1 [Insn.ha w] ++ whenB u.2.1 [Insn.hb w] ++ whenB (u.2.2.1 && o != 0x51) [Insn.hc w]
    ++ whenB ((o == 0x52 && vVop r == 4) || (o == 0x51 && chalkAccum r)) [Insn.hd w]
def hWrites (w : W64) (r : BitVec 256) : List Nat :=
  let u := handleUse w r
  let o := Insn.opc w
  whenB (u.2.2.2 && o != 0x59) [Insn.hd w] ++ whenB (o == 0x51 || (o == 0x54 && hemPgrad r)) [Insn.hc w]

/-! ### Ranges of a launched action (06 R185) -/

/-- Bytes of the handle that a GREQ writes (08 R236, R251, R257). -/
def Dev.gqBytes (d : Dev) (x : Action) : Nat :=
  let r := x.desc
  let f := gqHf r
  let rows := fun (n : Nat) (g : Nat) => (d.tens (gqDs r)).elim 0 fun t => storageBytes f (n * rowLen (dSizes t.d) g) (fmtPlanar f)
  if gqOp r = 1 then rows x.n1 (gqG r)
  else if gqOp r = 8 then rows ((d.tens (gqDi r)).elim 0 fun t => dSize t.d 0) (gqG r)
  else if gqOp r = 9 then
    (d.tens (gqDd r)).elim 0 fun t =>
      ceilTo 64 (storageBytes f (x.n1 * dSize t.d 0) (fmtPlanar f)) + x.n1 * ceilDiv (dSize t.d 0) 8
  else 0

/-- The ranges that an action reads, by core and handle. -/
def Dev.readRanges (d : Dev) (core : Nat) (x : Action) : List Rng :=
  let o := Insn.opc x.w
  if o = 0x50 then (arrParams x).reads core
  else if o = 0x51 then chalkReads core x
  else if o = 0x52 then vecReads core x
  else if o = 0x53 ∨ o = 0x54 then hemReads core x
  else if o = 0x58 ∨ o = 0x59 then copyReads core x
  else if o = 0x5A ∨ o = 0x5B then d.lsReads core x
  else []

/-- The ranges that an action writes. -/
def Dev.writeRanges (d : Dev) (core : Nat) (x : Action) : List Rng :=
  let o := Insn.opc x.w
  if o = 0x50 then (arrParams x).writes core
  else if o = 0x51 then chalkWrites core x
  else if o = 0x52 then vecWrites core x
  else if o = 0x53 ∨ o = 0x54 then hemWrites core x
  else if o = 0x58 ∨ o = 0x59 then copyWrites core x
  else if o = 0x5A ∨ o = 0x5B then d.lsWrites core x
  else if o = 0x60 ∧ gqToh x.desc ∧ x.n1 ≠ 0 then [⟨core, Insn.hd x.w, gqHo x.desc, d.gqBytes x⟩]
  else []

/-- The ranges that an action reads and writes. -/
def Dev.ranges (d : Dev) (core : Nat) (x : Action) : List Rng := d.readRanges core x ++ d.writeRanges core x

/-- What a launched action writes holds a PATCH operand when it is a PATCH, and none otherwise (log 71). -/
def Dev.notePatch (d : Dev) (core : Nat) (x : Action) : Dev :=
  let patch := Insn.opc x.w == 0x60 && gqOp x.desc == 9
  (d.writeRanges core x).foldl (fun d r => d.updCore r.core fun c => (c.handle r.h).elim c fun h => c.setHandle r.h
    { h with patched := (h.patched.filter fun y => !(y.1 < r.off + r.len && r.off < y.1 + y.2)) ++ whenB patch [(r.off, r.len)] }) d

end Sys2Proof.Machine
end

