-- ==== Sys2Proof/Machine/Bindings.lean ====
section
/-! DEFINITION. What the descriptors that a record names must hold, and the limits that START and COUNT keep: the checks of
SCHED_RUN and of a launch (07 R195, R210, R212, R213, R215, R218; 08 R236, R237, R251 to R253, R257, R259; 09 R281, R282,
R291; 10 R302). -/

namespace Sys2Proof.Machine

/-! ### LOAD and STORE (07 R212 to R214; 08 R237) -/

def isStore (r : BitVec 256) : Bool := recN r 0 1 == 0x5B

/-- A side descriptor: native, RANK 1, KI8 unsigned, not planar, dense. -/
def sideOk (s : Desc) : Bool := dRank s == 1 && dFmt s == 8 && !dPlanar s && dDense s

/-- Side bytes that a compressed tensor needs; an exact store also needs the header of the overflow list. -/
def Comp.sideNeeds (c : Comp) (bitmap exact : Bool) : Nat :=
  if bitmap then 64 * c.rows * c.sg else c.rs * c.rows + (if exact then 64 else 0)

/-- A check of a descriptor that a field names: whether it holds, and the field's byte. -/
abbrev Need := Bool × Nat

/-- The rules of a compressed LOAD or STORE on its descriptors. -/
def Dev.compNeeds (d : Dev) (r : BitVec 256) (t : Tens) : List Need :=
  match d.native (lsSide r) with
  | none => [(false, 16)]
  | some s =>
    let c : Comp := ⟨t, lsForm r, dBase s, dCount s⟩
    let bm := lsComp r == 2
    [(dDense t.d && fmtKF (dFmt t.d) && decide (c.area bm ≤ storageBytes (dFmt t.d) (dCount t.d) (dPlanar t.d)), 2),
     (sideOk s && (!isStore r || dWrite s) && decide (c.sideNeeds bm (isStore r && dExact t.d) ≤ dCount s), 16)]

def Dev.lsNeeds (d : Dev) (r : BitVec 256) : List Need :=
  match d.tens (lsDesc r) with
  | none => [(false, 2)]
  | some t =>
    [(!isStore r || dWrite t.d, 2), (lsPlanes r == 0 || (dPlanar t.d && decide (lsPlanes r ≤ fmtBits (dFmt t.d))), 5)]
      ++ (if lsComp r = 0 then [] else d.compNeeds r t)

/-! ### GATHER and SCATTER (07 R218; 08 R236) -/

/-- The first dimension in which source, index and destination of a gather or scatter disagree. -/
def shapeClash (gather : Bool) (s i : Desc) (t : Option Desc) (g : Nat) : Option Nat :=
  if dRank i ≠ 1 ∨ dRank s ≤ g then some g
  else match t with
    | none => none
    | some t =>
      if dRank t ≠ dRank s then some g
      else match (dDims s).find? fun k => k != g && dSize s k != dSize t k with
        | some k => some k
        | none => if dSize i 0 = dSize (if gather then t else s) g then none else some g

/-- The disagreement of a GME record; none for an operation other than GATHER and SCATTER. -/
def Dev.gmeClash (d : Dev) (r : BitVec 256) : Option Nat :=
  if gqOp r ≠ 1 ∧ gqOp r ≠ 2 then none
  else
    let toh := gqOp r == 1 && gqToh r
    match d.tens (gqDs r), d.tens (gqDi r), d.tens (gqDd r) with
    | some s, some i, some t => shapeClash (gqOp r == 1) s.d i.d (if toh then none else some t.d) (gqG r)
    | some s, some i, none => if toh then shapeClash true s.d i.d none (gqG r) else some (gqG r)
    | _, _, _ => some (gqG r)

/-- An index tensor: RANK 1 in UI16, UI32 or SI32. -/
def indexOk (t : Option Tens) : Bool := t.any fun t => dRank t.d == 1 && (dFmt t.d == 0x10 || dFmt t.d == 0x11 || dFmt t.d == 0x12)
/-- A UI32 tensor of RANK 1 and size n. -/
def slotListOk (t : Option Tens) (n : Nat) (write : Bool) : Bool :=
  t.any fun t => dRank t.d == 1 && dFmt t.d == 0x11 && dSize t.d 0 == n && (!write || dWrite t.d)
/-- A UI32 tensor of RANK 1 with at least n entries. -/
def listOk (t : Option Tens) (n : Nat) (write : Bool) : Bool :=
  t.any fun t => dRank t.d == 1 && dFmt t.d == 0x11 && decide (n ≤ dSize t.d 0) && (!write || dWrite t.d)
def writeOk (t : Option Tens) : Bool := t.any fun t => dWrite t.d
/-- The destination of a scatter mode: add-binary32 into binary32, add-KF16 into KF16. -/
def modeOk (mode : Nat) (t : Option Tens) : Bool :=
  t.any fun t => dWrite t.d && (mode != 1 || dFmt t.d == 0) && (mode != 2 || dFmt t.d == 1)
def sizesAre (t : Option Tens) (l : List Nat) : Bool := t.any fun t => dSizes t.d == l
def rankIs (t : Option Tens) (n : Nat) : Bool := t.any fun t => dRank t.d == n
def sizeOf (t : Option Tens) (i : Nat) : Nat := t.elim 0 fun t => dSize t.d i

/-- A mask: KI1, unsigned or signed, of RANK 1 or 2. -/
def maskOk (t : Option Tens) : Bool :=
  t.any fun t => (dFmt t.d == 0xE || dFmt t.d == 0xF) && (dRank t.d == 1 || dRank t.d == 2)

/-! ### DISPATCH and COMBINE (10 R302) -/

def Dev.nativeT (d : Dev) (i : Nat) : Option Tens := (d.native i).map Tens.ofDesc
def denseT (t : Option Tens) : Bool := t.any fun t => dDense t.d

/-- The rules of R302: byte of the descriptor's field; the rule's number is its place in the list. -/
def Dev.moeNeeds (d : Dev) (r : BitVec 256) : List Need :=
  let disp := gqOp r == 6
  let ts := d.nativeT (gqDs r)
  let td := d.nativeT (gqDd r)
  let tx := d.nativeT (gqDx r)
  let ti := d.nativeT (gqDi r)
  let rows := if disp then ts else td
  let exps := if disp then td else ts
  let named := gqDi r != none16
  let assign := disp && writeOk tx
  let tS := sizeOf rows 1
  let k := sizeOf tx 0
  let eD := sizeOf exps 2
  [(denseT ts, 8), (denseT td, 12), (denseT tx, 14), (!named || denseT ti, 10),
   (rankIs rows 2, if disp then 8 else 12), (rankIs exps 3, if disp then 12 else 8),
   (sizeOf rows 0 == sizeOf exps 0, 12),
   (writeOk td, 12),
   (tx.any (fun t => dFmt t.d == 0x11) && sizesAre tx [k, tS], 14),
   (!named || (ti.any (fun t => dFmt t.d == 0) && sizesAre ti [2 * k, tS]), 10),
   (!assign || named, 10),
   (decide (1 ≤ eD ∧ eD ≤ 256) && decide (eD * sizeOf exps 1 < 2 ^ 31), if disp then 12 else 8),
   (gqSlot r == none16 || (assign && decide (gqSlot r + eD + 1 ≤ 4096)), 24),
   (disp || modeOk (gqMode r) td, 12)]

/-! ### The other GME operations (07 R215, R228; 08 R245, R251 to R253, R257, R259) -/

def Dev.gmeNeeds (d : Dev) (r : BitVec 256) : List Need :=
  let op := gqOp r
  let s := d.tens (gqDs r)
  let i := d.tens (gqDi r)
  let t := d.tens (gqDd r)
  let x := d.tens (gqDx r)
  if op = 1 then
    [(s.isSome, 8), (indexOk i, 10), (gqToh r || writeOk t, 12), ((d.gmeClash r).isNone, 10)]
  else if op = 2 then [(s.isSome, 8), (indexOk i, 10), (modeOk (gqMode r) t, 12), ((d.gmeClash r).isNone, 10)]
  else if op = 3 then [((d.copyJob r).any fun c => dWrite c.td.d, 8)]
  else if op = 4 ∨ op = 5 then
    let pad := if op = 4 then s else t
    let pk := if op = 4 then t else s
    let q := sizeOf pad 2
    [(rankIs pad 3, if op = 4 then 8 else 12), (rankIs pk 2 && sizeOf pk 0 == sizeOf pad 0, if op = 4 then 12 else 8),
     (slotListOk i q false, 10), (writeOk t, 12), (slotListOk x q (op == 4), 14)]
  else if op = 6 ∨ op = 7 then d.moeNeeds r
  else if op = 8 then
    let f := sizeOf i 0
    [(maskOk i, 10), (s.any (fun s => gqG r < dRank s.d) && decide (f ≤ sizeOf s (gqG r)), 8), (listOk x f true, 14)]
  else if op = 9 then [((d.native (gqDs r)).any sideOk, 8), (t.isSome, 12)]
  else [((d.native (gqDs r)).any fun s => sideOk s && dWrite s, 8)]

/-- AUDIT: M token rows, P predicted-active and A audited neurons. -/
def Dev.auditNeeds (d : Dev) (r : BitVec 256) (m p a : Nat) : List Need :=
  let v := d.tens (auDv r)
  let dp := d.tens (auDp r)
  let de := d.tens (auDe r)
  let f := sizeOf dp 0
  [(rankIs v 2 && decide (a ≤ sizeOf v 0) && decide (m ≤ sizeOf v 1), 4), (listOk (d.tens (auDl r)) (p + a) false, 6),
   (maskOk dp, 8), (maskOk de && rankIs de 1 && sizeOf de 0 == f && writeOk de, 10), (decide (p + a ≤ f), 16)]

/-! ### PRESS (09 R281, R282) -/

/-- The rules of R282 in its order: rule, field, whether it holds. -/
def Dev.pressNeeds (d : Dev) (r : BitVec 256) : List (Nat × Need) :=
  let nat := fun (i : Nat) (f : Desc → Bool) => i == none16 || (d.native i).any f
  let b32 := fun (i at' : Nat) => (0, (nat i fun t => dFmt t == 0, at'))
  let count := (d.native (prDp r)).elim 0 dCount
  let shape := [(prDp r, 6), (prDg r, 8), (prDm r, 10), (prDv r, 12), (prDl r, 14), (prDf r, 16)]
  let apart := fun (i : Nat) => nat i fun t => (d.native (prDg r)).any fun g => !dOverlap g t
  [(0, (descNamed (prDp r), 6)), (0, (descNamed (prDg r), 8)), b32 (prDp r) 6, b32 (prDg r) 8, b32 (prDm r) 10, b32 (prDv r) 12,
   b32 (prDn r) 18]
  ++ shape.map (fun e => (1, (nat e.1 dDense, e.2)))
  ++ shape.map (fun e => (2, (nat e.1 fun t => dCount t == count, e.2)))
  ++ ([(prDp r, 6), (prDm r, 10), (prDv r, 12), (prDl r, 14), (prDn r, 18)].map fun e => (3, (nat e.1 dWrite, e.2)))
  ++ [(4, (nat (prDl r) fun t => fmtKF (dFmt t), 14)), (5, (nat (prDf r) fun t => dFmt t == 0xE, 16)),
      (6, (nat (prDn r) fun t => prNidx r < dCount t, 5)),
      (7, (prNorm r || (descNamed (prDn r) == prClip r), 18)),
      (8, (!prNorm r || (descNamed (prDn r) && descNone (prDm r) && descNone (prDv r) && descNone (prDl r)), 18))]
  ++ ([(prDp r, 6), (prDm r, 10), (prDv r, 12), (prDl r, 14)].map fun e => (9, (apart e.1, e.2)))

/-! ### What a launch needs (07 R195) -/

/-- The first descriptor field that does not hold what the action needs. -/
def Dev.bindBad (d : Dev) (r : BitVec 256) (n0 n1 n2 : Nat) : Option Nat :=
  let o := recN r 0 1
  let l : List Need :=
    if o = 0x5A ∨ o = 0x5B then d.lsNeeds r
    else if o = 0x60 then d.gmeNeeds r
    else if o = 0x61 then d.auditNeeds r n0 n1 n2
    else if o = 0x69 then (d.pressNeeds r).map (·.2)
    else []
  (l.find? fun x => !x.1).map (·.2)

/-- The number of entries that START and COUNT of a record choose from; none where they choose nothing. -/
def Dev.operandSize (d : Dev) (r : BitVec 256) : Option Nat :=
  let o := recN r 0 1
  if o = 0x5A ∨ o = 0x5B then (d.tens (lsDesc r)).map fun t => dSize t.d (dRank t.d - 1)
  else if o = 0x69 then (d.native (prDp r)).map dCount
  else if o = 0x60 then
    let op := gqOp r
    if op = 1 ∨ op = 2 ∨ op = 4 ∨ op = 5 ∨ op = 8 then (d.tens (gqDi r)).map fun t => dSize t.d 0
    else if op = 6 then (d.tens (gqDs r)).map fun t => dSize t.d 1
    else if op = 7 then (d.tens (gqDd r)).map fun t => dSize t.d 1
    else if op = 9 then (d.tens (gqDd r)).map fun t => prod ((span 1 (dRank t.d - 1)).map (dSize t.d))
    else none
  else none

/-- The entries that an action covers: all of them, START 0, with ALL. -/
def Dev.entries (d : Dev) (r : BitVec 256) (start count : Nat) : Nat × Nat :=
  if recN r 0 1 = 0x60 ∧ gqAll r then (0, (d.operandSize r).getD 0) else (start, count)

/-- A planar tensor that a field may name. -/
def Dev.planarAt (d : Dev) (i : Nat) : Bool := (d.native i).any dPlanar

/-- Byte and value of the START or COUNT that breaks its limit (07 R212; 08 R236; 09 R281). -/
def Dev.limitBad (d : Dev) (r : BitVec 256) (start count : Nat) : Option (Nat × Nat) :=
  let o := recN r 0 1
  let at' := if o = 0x60 then (16, 20) else if o = 0x69 then (20, 24) else (8, 12)
  match d.operandSize r with
  | none => none
  | some n =>
    if count = 0 then none
    else if n < start + count then some (at'.1, start)
    else if o = 0x69 && (d.planarAt (prDl r) || d.planarAt (prDf r)) then
      (if start % 512 ≠ 0 then some (at'.1, start)
       else if count % 512 ≠ 0 ∧ start + count ≠ n then some (at'.2, count) else none)
    else none

/-- The same for a load, where the record alone shows that no tensor is that large. -/
def immLimit (r : BitVec 256) : Option (Nat × Nat) :=
  let o := recN r 0 1
  let at' := if o = 0x60 then (16, 20) else if o = 0x69 then (20, 24) else (8, 12)
  if o = 0x5A ∨ o = 0x5B ∨ (o = 0x60 ∧ gqOp r ≠ 3 ∧ gqOp r < 9) then
    match immCount r 0, immCount r 1 with
    | some s, some c => if 2 ^ 32 ≤ s + c ∧ c ≠ 0 then some (at'.1, s) else none
    | _, _ => none
  else none

/-! ### What SCHED_RUN checks (05 R173, R560) -/

/-- Records of an image: block, record index counted from 1 (05 R151), record. -/
def Image.records (i : Image) : List (Nat × Nat × BitVec 256) :=
  ((List.range i.blocks.length).zip i.blocks).flatMap fun b =>
    ((List.range b.2.recs.length).zip b.2.recs).map fun r => (b.1, r.1 + 1, r.2)

/-- The descriptors of a record that an image may name in either form; others are native by their own rules (08 R237, R251;
09 R282; 12 R381). -/
def formDescs (r : BitVec 256) : List Nat :=
  let o := recN r 0 1
  let side := fun (byte : Nat) => (o == 0x5A || o == 0x5B) && byte == 16 || o == 0x60 && (gqOp r == 9 || gqOp r == 10) && byte == 8
  if o = 0x68 ∨ o = 0x69 then [] else ((namedDescs r).filter fun x => !side x.1).map (·.2)

/-- A descriptor that a record names has the form that the image's major version asks for; an empty entry has none (R210). -/
def Dev.formOk (d : Dev) (major i : Nat) : Bool :=
  match get? d.descs i with
  | some (.forerunner _) => major == 1
  | some _ => major == 2
  | none => true

/-- A use entry and what its descriptor must be (R173, R210). -/
def Dev.useOk (d : Dev) (major : Nat) (u : DescUse) : Bool :=
  match get? d.descs u.idx with
  | some (.native t) => major == 2 && dFmt t == u.fmt && (!u.wr || dWrite t)
  | some (.forerunner t) => major == 1 && dFmt t == u.fmt && (!u.wr || dWrite t)
  | some (.pair p) =>
    major == 2 && (d.native (fld p 32 16)).any fun t => dFmt t == u.fmt && (!u.wr || dWrite t)
  | none => false

/-- The first use entry, descriptor of a record, or compressed LOAD or STORE, whose binding fails: descriptor and expected
format; 0 for a descriptor of the other form, of which the image gives no format. -/
def Dev.useBad (d : Dev) (i : Image) : Option (Nat × Nat) :=
  match i.descs.find? fun u => !d.useOk i.major u with
  | some u => some (u.idx, u.fmt)
  | none => i.records.findSome? fun x =>
      let r := x.2.2
      match (formDescs r).find? fun k => !d.formOk i.major k with
      | some k => some (k, 0)
      | none =>
      if (recN r 0 1 == 0x5A || recN r 0 1 == 0x5B) && lsComp r != 0 then
        match d.tens (lsDesc r) with
        | none => some (lsDesc r, lsHf r)
        | some t => ((d.compNeeds r t).find? fun n => !n.1).map fun n =>
            if n.2 = 16 then (lsSide r, 8) else (lsDesc r, dFmt t.d)
      else none

def isUpdate (r : BitVec 256) : Bool := recN r 0 1 == 0x69 && !prNorm r

/-- Two update-phase records that break R291; `load`: the same DP with different DG, else overlapping DPs. -/
def Dev.tied (d : Dev) (i : Image) (load : Bool) : Option ((Nat × BitVec 256) × (Nat × BitVec 256)) :=
  let l := (i.records.filter fun x => isUpdate x.2.2).map (·.2)
  l.findSome? fun a => (l.find? fun b =>
    if load then prDp a.2 == prDp b.2 && prDg a.2 != prDg b.2
    else prDp a.2 != prDp b.2 && (d.native (prDp a.2)).any fun s => (d.native (prDp b.2)).any (dOverlap s)).map fun b => (a, b)

/-- The payload of event 0xC001. -/
def tiedSlots (x : (Nat × BitVec 256) × (Nat × BitVec 256)) : List Int :=
  [x.1.1, x.2.1, prDp x.1.2, prDp x.2.2, prDg x.1.2, prDg x.2.2]

/-- The descriptor index in a field of a record. -/
def fieldDesc (r : BitVec 256) (byte : Nat) : Nat := recN r (byte / 2 * 2) 2

/-- The first PRESS record that breaks R282: payload of event 0xC002. -/
def Dev.pressBad (d : Dev) (i : Image) : Option (List Int) :=
  i.records.findSome? fun x =>
    if recN x.2.2 0 1 = 0x69 then ((d.pressNeeds x.2.2).find? fun n => !n.2.1).map fun n =>
      [(x.1 : Int), (x.2.1 : Int), (fieldDesc x.2.2 (if n.1 = 6 then 18 else n.2.2) : Nat), (n.1 : Int)]
    else none

/-- The first GATHER or SCATTER whose shapes disagree: payload of event 0x2010. -/
def Dev.shapeBad (d : Dev) (i : Image) : Option (List Int) :=
  i.records.findSome? fun x =>
    let r := x.2.2
    if recN r 0 1 = 0x60 then (d.gmeClash r).map fun g => [(x.1 : Int), (x.2.1 : Int), gqDs r, gqDi r, gqDd r, g] else none

/-- The first DISPATCH or COMBINE that breaks R302: payload of event 0xB009. -/
def Dev.moeBad (d : Dev) (i : Image) : Option (List Int) :=
  i.records.findSome? fun x =>
    let r := x.2.2
    if recN r 0 1 = 0x60 ∧ (gqOp r = 6 ∨ gqOp r = 7) then
      let l := d.moeNeeds r
      (((List.range l.length).zip l).find? fun n => !n.2.1).map fun n =>
        [(x.1 : Int), (x.2.1 : Int), (fieldDesc r (if n.2.2 = 24 then 12 else n.2.2) : Nat), (n.1 : Int)]
    else none

end Sys2Proof.Machine
end

