-- ==== Sys2Proof/Machine/Launch.lean ====
section
/-! DEFINITION. An action becomes next, is sent to its engine's queue, launches and completes; run-ahead; hung engines
(02 R62 to R64, R69 to R72, R77 to R79; 05 R152 to R157, R163, R164; 06 R178, R185; 08 R230, R231; 09 R271, R279, R295;
12 R381, R393; 15 R436, R437). -/

namespace Sys2Proof.Machine

/-! ### Tacks (05 R153) -/

/-- The Tack of a timed action in ns: 64-bit signed, a negative result taken as 0. -/
def tackNs (i : Image) (step : Nat) (s : StreamSt) (t : BitVec 128) : Nat :=
  let stride := if bitOf t 50 then sext 32 (fld t 64 32) * ((s.lcr (fld t 48 2)).toNat : Int) else 0
  let raw : Int := 4 * ((i.stepPeriod * step : Nat) : Int) + 4 * ((fld t 0 32 : Int) + stride)
  (BitVec.ofInt 64 raw).toInt.toNat

def slackNs (t : BitVec 128) : Nat := 4 * fld t 32 16

/-! ### Engines (08 R230, R235; 09 R279, R280; 15 R437) -/

/-- What serves an engine number of a Spool: itself, or the next working engine, in ascending number with wrap. -/
def serverOf (t : Tbl EngQ) (per key : Nat) : Nat :=
  let m := key / per
  (((List.range per).map fun i => m * per + (key + i) % per).find? fun k => !(getD t k .init).disabled).getD key

/-- Engine numbers of a Spool that an engine serves. -/
def served (t : Tbl EngQ) (per key : Nat) : Nat :=
  ((span (key / per * per) per).filter fun k => serverOf t per k == key).length

/-- The engines that a command may be sent to. -/
inductive Target where
  | none
  | gme (key : Nat)
  | press (key : Nat)
  | serger (key : Nat)
  | hem (cluster : Nat)
deriving DecidableEq, Repr

/-- A TARGET field: unit and Spool, or with HOME any of the home Spool, the device's choice. -/
def targetKey (t per home unit : Nat) : Nat :=
  if t.testBit 7 then home * per + unit % per else t / 16 % 8 * per + t % per

/-- The engine that an action of a core goes to; `unit` is the device's choice where it has one. -/
def Dev.target (d : Dev) (core : Nat) (w : W64) (r : BitVec 256) (unit : Nat) : Target :=
  let o := Insn.opc w
  let home := homeSpool (boltOf core)
  if o = 0x60 then .gme (serverOf d.gmes 16 (targetKey (gqTarget r) 16 home unit))
  else if o = 0x61 then .gme (serverOf d.gmes 16 (targetKey (auTarget r) 16 home unit))
  else if o = 0x5A ∧ lsComp r ≠ 0 then .gme (serverOf d.gmes 16 (home * 16 + unit))
  else if o = 0x5B ∧ lsComp r ≠ 0 then .serger (serverOf d.engs 16 (home * 16 + unit))
  else if o = 0x69 then .press (serverOf d.presses 8 (targetKey (prTarget r) 8 home unit))
  else if o = 0x53 ∨ o = 0x54 then .hem (clusterOf core)
  else .none

def Target.unit : Target → Nat
  | .gme k => k
  | .press k => k
  | .serger k => k
  | _ => 0

/-- The engine's queue has an entry for the command, or needs none. -/
def Dev.hasRoom (d : Dev) (a : Act) : Target → Bool
  | .gme k => (getD d.gmes k .init).q.any (·.a == a)
  | .press k => (getD d.presses k .init).q.any (·.a == a)
  | .hem k => (d.hem k).q.length < 32
  | _ => true

/-- Sends a command that became next to its engine while there is room; it waits there as pending. -/
def Dev.sendNext (d : Dev) (a : Act) : Target → Dev
  | .gme k =>
    if (getD d.gmes k .init).q.length < 64 * served d.gmes 16 k then
      { d with gmes := upd d.gmes k .init fun q => { q with q := q.q ++ [⟨a, false⟩] } } else d
  | .press k =>
    if (getD d.presses k .init).q.length < 64 * served d.presses 8 k then
      { d with presses := upd d.presses k .init fun q => { q with q := q.q ++ [⟨a, false⟩] } } else d
  | _ => d

/-- The launch reaches the engine: the entry follows the launched ones. -/
def launchIn (q : List QEnt) (a : Act) : List QEnt :=
  q.filter (·.launched) ++ [⟨a, true⟩] ++ q.filter fun x => !x.launched && x.a != a

def Dev.launchAt (d : Dev) (a : Act) : Target → Dev
  | .gme k => { d with gmes := upd d.gmes k .init fun q => { q with q := launchIn q.q a } }
  | .press k => { d with presses := upd d.presses k .init fun q => { q with q := launchIn q.q a } }
  | .hem k => d.updHem k fun h => { h with q := h.q ++ [⟨a, true⟩] }
  | _ => d

/-! ### Becoming next (05 R156, R163) -/

/-- Value of count field i as it stands when the action becomes next: the immediate, or the scalar. -/
def Dev.countNow (d : Dev) (cs : CS) (r : BitVec 256) (i : Nat) : Nat :=
  match (recCounts r)[i]? with
  | some c => if c.src r = 1 then (d.seen cs (c.val r % 32)).toNat else if c.src r = 0 then c.val r else 0
  | none => 0

/-- The action that becomes next: E, operands read now, and its engine. -/
def Dev.formNext (d : Dev) (cs : CS) (n : Nat) (w : W64) (r : BitVec 256) (tack : BitVec 128) (unit : Nat) : NextAct :=
  let c := d.ctx n
  let t := c.img.elim 0 fun i => tackNs i c.step (d.stream cs) tack
  { w := w, tack := t, e := if Insn.tidx w = 0 then none else some (c.runBase + t + c.slip)
    n0 := d.countNow cs r 0, n1 := d.countNow cs r 1, n2 := d.countNow cs r 2
    val := if Insn.opc w = 0x31 then d.seen cs (Insn.sa w) else if Insn.fmtOf (Insn.opc w) = .K then d.knotOperand cs w else 0
    dev := if Insn.krmt w ∧ Insn.opc w = 0x40 then (d.seen cs (Insn.ksb w)).toNat % 65536 else 0
    unit := (d.target cs.core w r unit).unit
    input := (d.stream cs).lateBy.1, cause := (d.stream cs).lateBy.2 }

/-- The number that the stream's next action takes. -/
def Dev.nextId (d : Dev) (cs : CS) : Act := ⟨cs, (d.stream cs).count⟩

/-! ### Readiness (05 R158, R164; 08 R231; 12 R381, R393) -/

/-- Shape words that a launch reads. -/
def launchSlots (r : BitVec 256) : List Nat :=
  countSlots r ++ (if recN r 0 1 = 0x61 then [auSlot r % 4096, (auSlot r + 1) % 4096] else [])

/-- No earlier action of the stream must complete first: one that writes what this one reads, or reads or writes what it
writes. -/
def StreamSt.clearOf (s : StreamSt) (sel : Action → Bool) (reads writes : List Nat) : Bool :=
  s.acts.all fun a =>
    !sel a || !(a.writes.any fun h => reads.contains h || writes.contains h) && !(a.reads.any writes.contains)
def StreamSt.clear (s : StreamSt) (reads writes : List Nat) : Bool := s.clearOf (fun _ => true) reads writes

/-- COLLs that launched and have not begun their instance. -/
def Dev.collsWaiting (d : Dev) : Nat :=
  (d.cores.flatMap fun e => strs.flatMap fun st => (e.2.stream st).acts.filter fun x =>
    Insn.opc x.w == 0x68 && !x.done && x.n0 != 0 && (d.coll (clPlan x.desc) x.val.toNat).isNone).length

def Plan.fence (p : Plan) : Bool := p.op == 6 && p.flags.testBit 0

/-- A COLL is ready: plan loaded and owned, a reduction unit free, and a fence met. -/
def Dev.collReady (d : Dev) (n : Nat) (r : BitVec 256) : Bool :=
  match d.plan (clPlan r) with
  | none => false
  | some p => p.ctx == n && decide (d.fab.insts.length + d.collsWaiting + d.fab.unitsDown.length < 32)
      && (!p.fence || d.fab.insts.all fun i => i.ctx != n || (d.plan i.plan).all fun q => q.epoch == p.epoch)

/-- The inputs of the next action other than its shape words are ready. -/
def Dev.inputsReady (d : Dev) (cs : CS) (n : Nat) (x : NextAct) (r : BitVec 256) : Bool :=
  (d.stream cs).clear (hReads x.w r) (hWrites x.w r)
    && d.hasRoom (d.nextId cs) (d.target cs.core x.w r x.unit) && (Insn.opc x.w != 0x68 || d.collReady n r)

/-- The input of the next action that is not ready: its number in `NextAct.input`, and the cause of the lateness that comes
of it (02 R69): 11 for a full queue and for a COLL without a free reduction unit, else 1. -/
def Dev.unready (d : Dev) (cs : CS) (n : Nat) (x : NextAct) (r : BitVec 256) : Option (Nat × Nat) :=
  if !(d.stream cs).clear (hReads x.w r) (hWrites x.w r) then
    some (if (d.stream cs).clearOf (fun a => Insn.opc a.w != 0x50 && Insn.opc a.w != 0x51) (hReads x.w r) (hWrites x.w r) then 6 else 1, 1)
  else if !d.hasRoom (d.nextId cs) (d.target cs.core x.w r x.unit) then some (2, 11)
  else if Insn.opc x.w == 0x68 && !d.collReady n r then
    some (3, if d.fab.insts.length + d.collsWaiting + d.fab.unitsDown.length < 32 then 1 else 11)
  else if (launchSlots r).any fun s => !(d.ctx n).shapeReady s then some (4, 1)
  else none

/-! ### Lateness (02 R69 to R71) -/

/-- A reason that a delaying block reports, in a state in which one may: error correction and refresh take time that the
model leaves out (log 11); 4 a Spool in Hot or Critical, 5 a Seam lane that retrains, 6 a retrain in place, 7 a step rate
below the pace or the fast limiter, 8 no Cutter ACTIVE, 9 an armed perturbation, 10 a lateness notice received (02 R69; 11
R335, R345; 14 R430; 17 R520; 18 R531; log 57). -/
def Dev.mayReport (d : Dev) (n cause : Nat) : Bool :=
  if cause = 2 ∨ cause = 3 then true
  else if cause = 4 then d.spools.any fun e => e.2.therm == 2 || e.2.therm == 3
  else if cause = 5 then d.seams.any fun e => e.2.retrain.isSome
  else if cause = 6 then d.spools.any fun e => e.2.inplace.any fun x => x.begun.isSome
  else if cause = 7 then d.pace.saturated || d.power.limiting
  else if cause = 8 then d.cutter.active.isNone
  else if cause = 9 then d.crArmed && d.crConfigured
  else if cause = 10 then d.fab.noticed.contains n
  else false

/-- The cause to record: what a delaying block reports of an upstream action, else the cause found. An action that waited for
an array command has cause 1 (04 R135). -/
def Dev.causeOf (d : Dev) (n input found report : Nat) : Nat :=
  if input ≠ 6 ∧ found ≤ 1 ∧ d.mayReport n report then report else found

/-- Records the lateness of a launch with its input and cause, and a slip event beyond the slack. -/
def Dev.lateness (d : Dev) (cs : CS) (n : Nat) (tack late slack input cause : Nat) : Dev :=
  let old := getD d.tape.late n 0
  let d := { d with tape := { d.tape with
    late := put d.tape.late n (BitVec.ofNat 32 (min (2 ^ 32 - 1) (max old.toNat late)))
    lateWas := put d.tape.lateWas n old
    lateWhy := if old.toNat < late then put d.tape.lateWhy n (cause, input) else d.tape.lateWhy } }
  if late ≤ slack then d
  else
    let d := d.updCtx n fun c => { c with inc := max c.inc (late - slack), slipEv := satAdd 16 c.slipEv 1 }
    d.ev 0x9001 (boltOf cs.core) (some n) [d.coreSlot cs.core, tack, late, slack, cause]

/-! ### The launch -/

/-- The counts of a launch: shape words read now; every entry with ALL; an AUDIT's P and A; a fallback flag, an instance. -/
def Dev.launchVals (d : Dev) (n : Nat) (x : NextAct) (r : BitVec 256) : NextAct :=
  let c := d.ctx n
  let fs := recCounts r
  let v := fun (i old : Nat) => match fs[i]? with
    | some f => if f.src r = 2 then (c.shapeValue (f.val r % 4096)).toNat else old
    | none => old
  let o := Insn.opc x.w
  let e := d.entries r (v 0 x.n0) (v 1 x.n1)
  let layer := if o = 0x51 then some (chalkLayerOf r) else if o = 0x60 ∧ gqOp r = 8 then some (gqLayer r) else none
  { x with
    n0 := e.1
    n1 := if o = 0x61 then (c.shapeValue (auSlot r % 4096)).toNat else e.2
    n2 := if o = 0x61 then (c.shapeValue ((auSlot r + 1) % 4096)).toNat else v 2 x.n2
    val := match layer with
      | some y => BitVec.ofNat 32 (boolN ((c.layer y).acting && (c.layer y).fb))
      | none => if o = 0x68 then BitVec.ofNat 32 (((d.plan (clPlan r)).map (·.launched)).getD 0 % 64) else x.val }

/-- The action as it launches at `l`. -/
def Dev.mkAction (d : Dev) (cs : CS) (n : Nat) (x : NextAct) (r : BitVec 256) (l : Nat) (cfg : List W32) : Action :=
  { id := (d.stream cs).count, w := x.w, index := (d.stream cs).pc, desc := r, e := x.e, launch := l, tack := x.tack
    n0 := x.n0, n1 := x.n1, n2 := x.n2, val := x.val, dev := x.dev, unit := x.unit, ctx := n, step := (d.ctx n).step
    reads := hReads x.w r, writes := hWrites x.w r, done := false, gen := none, since := l, raised := false, fetched := 0
    cfg := cfg, input := x.input, cause := x.cause, cyc := (d.core cs.core).cyc.no }

/-- Byte, bit and value of the field that a launch check refuses (05 R156; 07 R195; 05 R157). -/
def Dev.paramBad (d : Dev) (n : Nat) (x : NextAct) (r : BitVec 256) : Option (Nat × Nat × Nat) :=
  let o := Insn.opc x.w
  let at0 := fun (e : Nat × Nat) => (e.1, 0, e.2)
  let c := countBad r fun i => if i = 0 then some x.n0 else if i = 1 then some x.n1 else some x.n2
  let y := (namedDescs r).find? fun e => d.dying.contains e.2
  let b := d.bindBad r x.n0 x.n1 x.n2
  if c.isSome then c
  else if copyClash r x.w x.n0 then some (4, 0, x.n0)
  else if y.isSome then y.map at0
  else if b.isSome then b.map fun e => (e, 0, recN r e 2)
  else if (d.limitBad r x.n0 x.n1).isSome then (d.limitBad r x.n0 x.n1).map at0
  else if o = 0x59 ∧ ((d.ctx n).coreMap x.n1).isNone then some (8, 0, x.n1)
  else none

/-- Cores and numbers of the handles that an action names (05 R157; 06 R185); HMAP makes its own. -/
def handlesNamed (core : Nat) (x : Action) : List (Nat × Nat) :=
  if Insn.opc x.w = 0x38 then []
  else if Insn.opc x.w = 0x59 then [(core, Insn.ha x.w), (x.n1, Insn.hd x.w)]
  else ((namedHandles x.w x.desc).eraseDups).map fun h => (core, h)

/-- Handle and offset of the first access that R185 refuses. -/
def Dev.accessBad (d : Dev) (core : Nat) (x : Action) : Option (Nat × Nat) :=
  match (handlesNamed core x).find? fun e => !((d.core e.1).handle e.2).any (·.ctx == x.ctx) with
  | some e => some (e.2, 0)
  | none => ((d.ranges core x).find? fun r => !((d.core r.core).handle r.h).any fun y => r.off + r.len ≤ 64 * y.lines).map
      fun r => (r.h, r.off)

/-- Why a PRESS may not use its slot: 0 empty, 1 program, 2 table (09 R295). -/
def Dev.slotBad (d : Dev) (n : Nat) (r : BitVec 256) : Option Nat :=
  let e := (getD (d.ctx n).slots (prOslot r) ⟨0, 0, 0⟩).e
  let lrt := fld e 352 16
  if fld e 0 8 = 0 then some 0
  else if fld e 0 8 = 3 ∧ fld (getD (d.ctx n).progs (fld e 16 8) 0) 1280 8 = 0 then some 1
  else if lrt != none16 && !(d.native lrt).any (fun t => dFmt t == 0 && dRank t == 1 && 1 ≤ dSize t 0) then some 2
  else none

/-- The action enters the machine: the stream moves on, its handles have a user more, its engine has the command. -/
def Dev.enter (d : Dev) (cs : CS) (x : Action) (t : Target) : Dev :=
  let a : Act := ⟨cs, x.id⟩
  let d := if Insn.opc x.w = 0x39 then d
    else (handlesNamed cs.core x).foldl (fun d e => d.updUsers e.1 e.2 (· + 1)) d
  let d := (d.launchAt a t).notePatch cs.core x
  let d := if Insn.opc x.w ≠ 0x68 then d
    else match d.plan (clPlan x.desc) with
      | some p =>
        let d := if p.fence then d.updCtx x.ctx fun c => { c with epoch := p.epoch } else d
        { d with fab := { d.fab with plans := put d.fab.plans (clPlan x.desc) { p with launched := p.launched + 1 } } }
      | none => d
  d.updStream cs fun s =>
    { s with acts := s.acts ++ [x], count := s.count + 1, pc := s.pc + 1, nxt := none, wait := none, lateBy := (0, 0) }

/-- A PRESS that launches raises the conditions of the constants it computes once. -/
def Box.pressAtLaunch (b : Box) (x : Action) : Box :=
  let e := (getD (b.dev.ctx x.ctx).slots (prOslot x.desc) ⟨0, 0, 0⟩).e
  let l := b.pressLaunchConds e x.step x.desc x.n1
  b.onD fun d => d.pressConds x 0 (l.map fun c => (c, press0))

/-- Launch of the next action, whose inputs are ready, at grid point `l`. -/
def Box.launch (b : Box) (cs : CS) (n : Nat) (x : NextAct) (r : BitVec 256) (slack l : Nat) : Box :=
  let core : Nat := cs.core
  let die := boltOf core
  let b := b.onD fun d => (d.creaseTape false).1
  let b := b.onD fun d => x.e.elim d fun e => d.lateness cs n x.tack (l - e) slack x.input x.cause
  let b := (launchSlots r).foldl (fun b s => b.touchShape n s die (b.dev.coreSlot core)) b
  let ids : List Int := [b.dev.coreSlot core, cs.st.num, (b.dev.stream cs).pc]
  let stop := fun (code : Nat) (slots : List Int) => (b.onD fun d => d.ev code die (some n) slots).faultStop n code
  if !(b.dev.ctx n).live then b
  else
    let y := b.dev.launchVals n x r
    match b.dev.paramBad n y r with
    | some e => stop 0xE010 (ids ++ [fieldItem e.1 e.2.1, (e.2.2 : Int)])
    | none =>
      let cfg := if Insn.opc x.w = 0x69 then b.pressCfg n (b.dev.ctx n).step r else []
      let act := b.dev.mkAction cs n y r l cfg
      match b.dev.accessBad core act with
      | some e => stop 0xE806 (ids ++ [(e.1 : Int), (e.2 : Int)])
      | none =>
        match (if Insn.opc x.w = 0x69 then b.dev.slotBad n r else none) with
        | some e => stop 0xC003 [b.dev.coreSlot core, (b.dev.stream cs).pc, (prOslot r : Int), (e : Int)]
        | none =>
          let b := if Insn.opc x.w = 0x69 then b.pressAtLaunch act else b
          b.onD fun d => d.enter cs act (d.target core x.w r x.unit)

/-- Launches the next action when its inputs are ready and E is reached; a missing shape word makes the stream wait. Of an
action whose inputs are not ready, the one that is missing is kept with the cause of the lateness (02 R69). -/
def Box.tryLaunch (b : Box) (cs : CS) (n : Nat) (x : NextAct) (r : BitVec 256) (slack report : Nat) : Box :=
  let l := ceilTo 4 b.dev.now
  let b := (b.dev.unready cs n x r).elim b fun y => b.onD fun d =>
    d.updStream cs fun s => { s with nxt := some { x with input := y.1, cause := d.causeOf n y.1 y.2 report } }
  if (x.e.getD 0) ≤ l ∧ b.dev.inputsReady cs n x r then
    match (launchSlots r).find? fun s => !(b.dev.ctx n).shapeReady s with
    | some s => b.onD fun d => d.waitOn cs false s
    | none => b.launch cs n { x with cause := b.dev.causeOf n x.input x.cause report } r slack l
  else b

/-- What the stream presents is this action, with the record and Tack entry of its block: it may become next, or is. -/
def Dev.offers (d : Dev) (cs : CS) (n : Nat) (w : W64) (r : BitVec 256) (tack : BitVec 128) : Bool :=
  let s := d.stream cs
  let c := d.ctx n
  Insn.isAction (Insn.opc w) && d.issuing n && !s.ended && d.insnAt s n == some w
    && (match s.nxt with
        | some x => x.w == w
        | none => decide (s.acts.length < 16))
    && (c.block s.block).any fun blk =>
      (Insn.fmtOf (Insn.opc w) != .C || blk.recs[Insn.ridx w - 1]? == some r)
        && (Insn.tidx w == 0 || blk.tacks[Insn.tidx w - 1]? == some tack)

/-- ACTION_LAUNCH: the action becomes next when it is not, and launches when it can. Its operands are read in the update step
that `same` names; `report` is the reason that a delaying block reports. -/
def Box.actionLaunch (b : Box) (cs : CS) (w : W64) (rec : BitVec 256) (tack : BitVec 128) (same : Bool) (report unit : Nat) : Box :=
  match (b.dev.stream cs).ctx with
  | none => b
  | some n =>
    let r := if Insn.fmtOf (Insn.opc w) = .C then rec else 0
    if !b.dev.offers cs n w rec tack then b
    else if (b.dev.stream cs).nxt.isNone && !(b.dev.stream cs).guard w then b.onD fun d => d.advance cs
    else
      let b := b.onD fun d => d.reach cs same
      let x := ((b.dev.stream cs).nxt).getD (b.dev.formNext cs n w r tack unit)
      let a := b.dev.nextId cs
      let held := b.dev.hasRoom a (b.dev.target cs.core w r x.unit)
      let x := if held then x else { x with unit := (b.dev.target cs.core w r unit).unit }
      let b := b.onD fun d => d.updStream cs fun s => { s with nxt := some x }
      let b := b.onD fun d => if held then d else d.sendNext a (d.target cs.core w r x.unit)
      b.tryLaunch cs n x r (slackNs tack) report

def execActionLaunch (cs : CS) (w : W64) (rec : BitVec 256) (tack : BitVec 128) (report : Fin 12) (unit : Fin 16)
    (s : State) (same : Bool := false) : Res :=
  s.on fun b => b.actionLaunch cs w rec tack same report unit

/-! ### Completion (05 R163; 06 R178, R184) -/

/-- A remote request of the action has no answer yet. -/
def Dev.awaits (d : Dev) (a : Act) : Bool := (d.fab.remote ++ d.fab.waitWr).any fun r => r.act == some a

/-- The action's work is done and visible: an arrival was applied, a KARRW released, no remote request open. -/
def Dev.mayComplete (d : Dev) (a : Act) (x : Action) : Bool :=
  let o := Insn.opc x.w
  x.done && !d.awaits a && (!(o == 0x42 || (o == 0x40 && !Insn.krmt x.w)) || x.gen.isSome)
    && (o != 0x42 || x.gen.any (d.released (Insn.kid x.w)))

def Dev.actionComplete (d : Dev) (a : Act) : Dev :=
  match d.action a with
  | none => d
  | some x =>
    if !d.mayComplete a x then d
    else
      let hs := if Insn.opc x.w = 0x39 then [] else if Insn.opc x.w = 0x38 then [((a.cs.core : Nat), Insn.hd x.w)]
        else handlesNamed a.cs.core x
      let d := hs.foldl (fun d e => d.updUsers e.1 e.2 (· - 1)) d
      let d := if Insn.opc x.w = 0x61 ∧ x.val = 1 then
          d.updLayer x.ctx (auLayer x.desc) fun l => { l with acting := l.flag } else d
      let d := { d with bounce := d.bounce.filter (·.2 != a) }
      (d.updStream a.cs fun s => { s with acts := s.acts.filter (·.id != a.id) }).settleDying

def execActionComplete (a : Act) (s : State) : Res := s.onDev fun d => d.actionComplete a

/-! ### Hung engines (15 R436, R437) -/

/-- Contexts with launched work on an engine. -/
def Dev.hungCtxs (d : Dev) : Engine → List Nat
  | .arrayGroup c => ((d.core c).arrq.map (·.ctx)).eraseDups
  | .vector c => ((strs.flatMap fun st => ((d.core c).stream st).acts.filter fun x =>
      !x.done && (isOp 0x52 x || isOp 0x58 x || isOp 0x59 x)).map (·.ctx)).eraseDups
  | .hem k => (((d.hem k).q.filterMap fun e => d.action e.a).map (·.ctx)).eraseDups
  | .gme m g => ((((getD d.gmes (m * 16 + g) .init).q.filter (·.launched)).filterMap fun e => d.action e.a).map (·.ctx)).eraseDups
  | .press m g => ((((getD d.presses (m * 8 + g) .init).q.filter (·.launched)).filterMap fun e => d.action e.a).map (·.ctx)).eraseDups
  | .serger m g => ((d.allActs.filter fun x =>
      isOp 0x5B x && lsComp x.desc != 0 && !x.done && x.unit == (m : Nat) * 16 + g).map (·.ctx)
      ++ ((get? d.bounce (m * 16 + g)).bind d.action).toList.map (·.ctx)).eraseDups
  | .reduction r => ((d.fab.insts.filter (·.unit == (r : Nat))).map (·.ctx)).eraseDups

/-- Engine kind, die and number of an engine. -/
def hungIds : Engine → Nat × Nat × Nat
  | .arrayGroup c => (0, boltOf c, c)
  | .vector c => (0, boltOf c, c)
  | .hem k => (4, k / 16, k)
  | .gme m g => (1, dieSpool m, g)
  | .press m g => (2, dieSpool m, g)
  | .serger m g => (3, dieSpool m, g)
  | .reduction r => (5, dieSelvage (r / 8), r % 8)

/-- Number or logical core of event 0x7009: a core, or the Hem of a cluster, with its physical cluster (01 R26; log 64). -/
def Dev.hungItem (d : Dev) : Engine → Int
  | .arrayGroup c => d.coreSlot c
  | .vector c => d.coreSlot c
  | .hem k => d.hemSlot k
  | e => (hungIds e).2.2

/-- An engine of a Spool is disabled, and its server takes its queue. -/
def disableOf (t : Tbl EngQ) (per key : Nat) : Tbl EngQ × Nat :=
  let q := getD t key .init
  let t := put t key { q with disabled := true, q := [] }
  let k := serverOf t per key
  (upd t k .init fun x => { x with q := x.q ++ q.q }, k)

/-- A hang of an engine of a Spool, with the hangs of the last 24 hours: is it the second one of an engine in service? -/
def hangOf (t : Tbl EngQ) (key now : Nat) : Tbl EngQ × Bool :=
  let q := getD t key .init
  let recent := (q.hangs.filter fun h => now < h + 86400000000000) ++ [now]
  (put t key { q with hangs := recent }, decide (2 ≤ recent.length) && !q.disabled)

/-- Work of a disabled engine's queue goes by its server's number. -/
def Dev.moveUnits (d : Dev) (sel : Action → Bool) (key k : Nat) : Dev :=
  { d with cores := d.cores.map fun e => (e.1, strs.foldl (fun c st =>
      let s := c.stream st
      c.setStream st { s with acts := s.acts.map fun x => if sel x && x.unit == key then { x with unit := k } else x }) e.2) }

/-- Event 0x700A with the engine that serves from now on. -/
def Dev.disabled (d : Dev) (e : Engine) (sub : Nat) : Dev :=
  let i := hungIds e
  (d.ev 0x700A i.2.1 none [i.2.1, i.1, i.2.2, sub]).refreshAdvice

/-- Takes a base-die engine or a reduction unit out of service (15 R437); reduction units stand after the 128 Sergers in the
table of hangs. -/
def Dev.disableEngine (d : Dev) (e : Engine) : Dev :=
  match e with
  | .gme m g =>
    let x := disableOf d.gmes 16 (m * 16 + g)
    let d := { d with gmes := x.1 }
    (d.moveUnits (fun y => isOp 0x60 y || isOp 0x61 y || isOp 0x5A y) (m * 16 + g) x.2).disabled e (x.2 % 16)
  | .press m g =>
    let x := disableOf d.presses 8 (m * 8 + g)
    let d := { d with presses := x.1 }
    (d.moveUnits (isOp 0x69) (m * 8 + g) x.2).disabled e (x.2 % 8)
  | .serger m g =>
    let x := disableOf d.engs 16 (m * 16 + g)
    let d := { d with engs := x.1 }
    (d.moveUnits (isOp 0x5B) (m * 16 + g) x.2).disabled e (x.2 % 16)
  | .reduction r =>
    let d := { d with fab := { d.fab with unitsDown := addSet d.fab.unitsDown r } }
    d.disabled e ((d.freeUnit).getD 0xFFFF)
  | _ => d

def Dev.engineOut (d : Dev) (e : Engine) : Bool :=
  match e with
  | .gme m g => (getD d.gmes (m * 16 + g) .init).disabled
  | .press m g => (getD d.presses (m * 8 + g) .init).disabled
  | .serger m g => (getD d.engs (m * 16 + g) .init).disabled
  | .reduction r => d.fab.unitsDown.contains r
  | _ => true

/-- A hang is counted; the second one within 24 hours disables the engine. -/
def Dev.hangCount (d : Dev) (e : Engine) : Dev :=
  match e with
  | .gme m g =>
    let x := hangOf d.gmes (m * 16 + g) d.now
    let d := { d with gmes := x.1 }
    if x.2 then d.disableEngine e else d
  | .press m g =>
    let x := hangOf d.presses (m * 8 + g) d.now
    let d := { d with presses := x.1 }
    if x.2 then d.disableEngine e else d
  | .serger m g =>
    let x := hangOf d.engs (m * 16 + g) d.now
    let d := { d with engs := x.1 }
    if x.2 then d.disableEngine e else d
  | .reduction r =>
    let x := hangOf d.engs (128 + r) d.now
    let out := d.fab.unitsDown.contains r.val
    let d := { d with engs := x.1 }
    if x.2 && !out then d.disableEngine e else d
  | _ => d

/-- The core that a hang strikes. -/
def strikeCore : Engine → Option Nat
  | .arrayGroup c => some c
  | .vector c => some c
  | .hem k => some (16 * k)
  | _ => none

def Box.hang (b : Box) (e : Engine) : Box :=
  let ns := b.dev.hungCtxs e
  let i := hungIds e
  if ns.isEmpty then b
  else
    let b := b.onD fun d => ns.foldl (fun d _ => d.damage)
      (d.ev 0x7009 i.2.1 none ([(i.1 : Int), (i.2.1 : Int), d.hungItem e] ++ (ns.take 4).map fun (n : Nat) => (n : Int)))
    let b := ns.foldl (fun b n => b.faultStop n 0x7009) b
    let b := b.onD fun d => d.hangCount e
    (strikeCore e).elim b fun c => b.strike c false

def execEngineHang (e : Engine) (s : State) : Res := s.on fun b => b.hang e

end Sys2Proof.Machine
end

