-- ==== Sys2Proof/Machine/Clock.lean ====
section
/-! DEFINITION. The Tape and its sources, fabric alignment, and the pace guard (02 R51 to R57, R65 to R68; 04 R137; 12 R377,
R378; 17 R520; 18 R527, R530, R542, R546). -/

namespace Sys2Proof.Machine

/-- The die that reports on the Tape: the package reference (02 R51). -/
def Dev.tapeDie (d : Dev) : Nat := dieSelvage d.tape.ref

/-! ### Corrections (02 R52, R56) -/

/-- Corrects an offset of `est` ns, the source less the Tape: by a step when no schedule runs and steps are allowed, else
by slewing. The correction after a change of upstream slews (12 R377). -/
def Dev.correct (d : Dev) (est : Int) : Dev :=
  if est = 0 then { d with tape := { d.tape with offset := 0, slew := 0, slewNext := false } }
  else if d.liveCtxs.isEmpty && d.tape.stepAllow && !d.tape.slewNext then
    let old := d.tape.now
    let new := ((old : Int) + est).toNat
    let d := { d with tape := { d.tape with now := new, offset := 0, slew := 0 } }
    d.ev 0x9007 d.tapeDie none [old, new]
  else { d with tape := { d.tape with offset := est, slew := est, slewNext := false } }

/-- TP_CTRL_WRITE: a write of 3 leaves SOURCE; another source starts without an estimate, and its first correction is a step
where R56 lets it be one. A loss of PPS that was reported stays so until an edge is seen (R54). -/
def Dev.tpCtrl (d : Dev) (v : W32) : Dev :=
  let src := if fld v 0 2 = 3 then d.tape.source else fld v 0 2
  let t := { d.tape with ppsFalling := bitOf v 2, stepAllow := bitOf v 3 }
  let t := if t.ppsFalling = d.tape.ppsFalling then t else { t with lastPps := none, ppsSeen := false, ppsFrom := d.tape.now }
  if src = d.tape.source then { d with tape := t }
  else { d with tape := { t with
    source := src, offset := 0, slew := 0, slewNext := false, beyondSince := none, alignLost := false, ppsFrom := d.tape.now } }

def execTpCtrlWrite (v : W32) (s : State) : Res := s.onDev fun d => d.tpCtrl v

/-! ### PPS (02 R54; 18 R542) -/

/-- From a Tape value to the whole second that an edge is aligned to. DESIGN CHOICE (log 59): R54 does not say which one; the
nearest, and the next one at exactly 0.5 s. -/
def toSecond (now : Nat) : Int :=
  let r := now % 1000000000
  if r < 500000000 then -(r : Int) else 1000000000 - (r : Int)

/-- PPS_EDGE: an edge of the selected polarity, at least 0.5 s after the previous one. -/
def Dev.ppsEdge (d : Dev) (rising : Bool) : Dev :=
  if !d.power.pwrGood || rising == d.tape.ppsFalling || d.tape.lastPps.any (fun t => d.tape.now < t + 500000000) then d
  else
    let est := toSecond d.tape.now
    let d := { d with tape := { d.tape with lastPps := some d.tape.now, ppsSeen := true, ppsLost := false } }
    if d.tape.source = 1 then
      let d := d.correct est
      { d with tape := { d.tape with lastPps := some d.tape.now } }
    else d

def execPpsEdge (rising : Bool) (s : State) : Res := s.onDev fun d => d.ppsEdge rising

/-- Since when no selected edge has arrived: the last edge, and not before the source and its polarity were selected. -/
def TapeSt.ppsWait (t : TapeSt) : Nat := max t.ppsFrom (t.lastPps.getD 0)

/-- PPS_TIMEOUT: no edge for 1.5 s with the PPS source; once until an edge is seen. DESIGN CHOICE (log 59): the event's "Tape at
last edge" is 0 where no edge was ever seen, which R54 leaves open. -/
def execPpsTimeout (s : State) : Res :=
  s.onDev fun d =>
    if d.power.pwrGood && d.tape.source == 1 && !d.tape.ppsLost && d.tape.ppsWait + 1500000000 ≤ d.tape.now then
      ({ d with tape := { d.tape with ppsLost := true } }).ev 0x900A d.tapeDie none [(d.tape.lastPps.getD 0 : Nat)]
    else d

/-! ### The package reference (02 R51) -/

/-- A Selvage is working: its counter works and its clock runs. -/
def Dev.tapeWorks (d : Dev) (s : Nat) : Bool := bitOf d.tape.counterOk s && !bitOf d.power.clocksLost s

/-- The lowest-numbered working Selvage holds the reference, without a step. Event 0x900B when it takes over from one that no
longer works; where a lower one works again the reference returns to it without an event (log 58). -/
def Dev.electRef (d : Dev) : Dev :=
  let old := d.tape.ref
  match (List.range 4).find? d.tapeWorks with
  | some new =>
    if new = old then d
    else
      let e := { d with tape := { d.tape with ref := new } }
      if d.tapeWorks old then e else e.ev 0x900B (dieSelvage new) none [old, new]
  | none => d

/-- The reference counter fails. -/
def Dev.tapeFailover (d : Dev) : Dev :=
  ({ d with tape := { d.tape with counterOk := d.tape.counterOk &&& ~~~(BitVec.ofNat 4 (2 ^ d.tape.ref)) } }).electRef

def execTapeRefFailover (s : State) : Res := s.onDev fun d => if d.power.pwrGood then d.tapeFailover else d

/-! ### Fabric alignment (12 R377, R378) -/

def alignPacket (src kind t1 t2 t3 ref dist : Nat) : Packet :=
  mkPacket 0xFFFF src 0x10 3 0 kind 0 [lineOf (leBytes 8 t1 ++ leBytes 8 t2 ++ leBytes 8 t3 ++ leBytes 2 ref ++ leBytes 2 dist)]

/-- TAPE_ALIGN_TICK: a request to the upstream; a device that knows no upstream asks every Seam. -/
def Dev.alignTick (d : Dev) : Dev :=
  let ps := match d.fab.upstream with
    | some p => if (d.seam p).up then [p] else []
    | none => if d.fab.refs.isEmpty || d.tapeRef == some d.myId then [] else d.seamsUp
  if ps.isEmpty then d
  else
    let d := { d with fab := { d.fab with align := some d.tape.now } }
    ps.foldl (fun d p => d.handPacket p (alignPacket d.myId 0 d.tape.now 0 0 0 0)) d

def execTapeAlignTick (s : State) : Res := s.onDev Dev.alignTick

/-- A number in bytes of a packet's first line. -/
def lineN (k : Packet) (o n : Nat) : Nat := leAt (lineBytes (k.lines.headD 0)) o n

/-- A stamp of a response, with the jitter that Crease adds while ALIGN is armed. -/
def Dev.stamp (d : Dev) (jit : Int) : Dev × Nat :=
  let c := d.creaseTape true
  let a : Int := d.crAmplitude
  (c.1, if c.2 then ((d.tape.now : Int) + max (-a) (min a jit)).toNat else d.tape.now)

/-- TAPE_ALIGN_REQUEST: answered with T1, T2, T3, the reference and the distance. -/
def Dev.answerAlign (d : Dev) (p : Nat) (k : Packet) (jit2 jit3 : Int) : Dev :=
  let t2 := d.stamp jit2
  let t3 := t2.1.stamp jit3
  t3.1.handPacket p (alignPacket d.myId 1 (lineN k 0 8) t2.2 t3.2 d.fab.refId d.fab.distance)

def execTapeAlignRequest (p : Fin 64) (k : Packet) (jit2 jit3 : Int) (s : State) : Res :=
  s.on fun b => b.packetOf 0x10 p k fun b => if bitOf k.hdr 64 then b else b.onD fun d => d.answerAlign p k jit2 jit3

/-- The estimate of R378 from T1, T2, T3 and T4. -/
def alignEst (t1 t2 t3 t4 : Nat) : Int := Int.tdiv (((t2 : Int) - t1) - ((t4 : Int) - t3)) 2

/-- Whether the offset lies beyond ±20 ns, and since when; event 0x9009 when it returns (02 R55). -/
def Dev.offsetSeen (d : Dev) (est : Int) : Dev :=
  if 20 < est.natAbs then
    { d with tape := { d.tape with beyondSince := if d.tape.beyondSince.isSome then d.tape.beyondSince else some d.tape.now } }
  else
    let lost := d.tape.alignLost
    let d := { d with tape := { d.tape with beyondSince := none, alignLost := false } }
    if lost then d.ev 0x9009 d.tapeDie none [d.tape.source, est] else d

/-- TAPE_ALIGN_RESPONSE: what the partner advertises; from the upstream, the estimate and its correction, and whether the offset
that is left lies within ±20 ns. -/
def Dev.takeAlign (d : Dev) (p : Nat) (k : Packet) : Dev :=
  let t1 := lineN k 0 8
  let mine := d.fab.upstream == some p && d.fab.align == some t1
  let est := alignEst t1 (lineN k 8 8) (lineN k 16 8) d.tape.now
  let d := { d with fab := { d.fab with
    dist := put d.fab.dist p (lineN k 24 2, lineN k 26 2), align := if mine then none else d.fab.align } }
  let d := if mine && d.tape.source == 2 then let d := d.correct est; d.offsetSeen d.tape.offset else d
  d.chooseUpstream

def execTapeAlignResponse (p : Fin 64) (k : Packet) (s : State) : Res :=
  s.on fun b => b.packetOf 0x10 p k fun b => if bitOf k.hdr 64 then b.onD fun d => d.takeAlign p k else b

/-- TAPE_OFFSET_TIMEOUT: the estimated offset beyond ±20 ns for more than 1 ms (02 R55). -/
def execTapeOffsetTimeout (s : State) : Res :=
  s.onDev fun d =>
    if d.tape.source == 2 && !d.tape.alignLost && decide (20 < d.tape.offset.natAbs) && d.tape.beyondSince.any (fun t => t + 1000000 < d.tape.now) then
      ({ d with tape := { d.tape with alignLost := true } }).ev 0x9008 d.tapeDie none [d.tape.source, d.tape.offset]
    else d

/-! ### The pace guard (02 R65 to R68) -/

/-- Compiled pace of a class in M steps/s (01 R46). -/
def paceRate (cls : Nat) : Nat := if cls = 1 then 1800 else if cls = 2 then 2400 else 2700

/-- The highest set point at which package power stays within PLIMIT; `powerAt` holds the power in 0.1 W at each set
point from 600 mV on in steps of 5 mV. -/
def powerCeiling (powerAt : List Nat) (plimit : Nat) : Nat :=
  if powerAt.isEmpty then 850
  else min 850 (600 + 5 * ((powerAt.takeWhile (· ≤ 10 * plimit)).length - 1))

/-- The ceiling of R67: the lower of the VCORE maximum and the power limit, and the one that Throttle sets. -/
def Dev.vcoreCeiling (d : Dev) (powerAt : List Nat) : Nat :=
  min (powerCeiling powerAt d.power.plimit) (d.pace.ceiling.getD 850)

/-- One increment up below 1.03 times the compiled pace, one down above 1.06 times it, never above the ceiling. -/
def guardStep (vcore slowest pace ceil : Nat) : Nat :=
  let v := if 100 * slowest < 103 * pace then vcore + 5 else if 106 * pace < 100 * slowest then max 600 (vcore - 5) else vcore
  min v (max 600 ceil)

/-- Hottest junction of Bolts and Selvages in units of 0.125 °C. -/
def Dev.hottest (d : Dev) : Int := (d.power.bolts ++ d.power.selv).foldl (fun a w => max a w.toInt) (-32768)

/-- In Throttle, while the hottest junction is above 95 °C, the ceiling goes 5 mV below VCORE (18 R546). -/
def Dev.throttleCeiling (d : Dev) : Dev :=
  if d.power.jst = 1 ∧ 760 < d.hottest then { d with pace := { d.pace with ceiling := some (max 600 (d.pace.vcore - 5)) } } else d

/-- Events 0x9005 and 0x9006. -/
def Dev.saturation (d : Dev) (ceil : Nat) : Dev :=
  let cls := d.paceClass
  let r := d.slowestRate
  if !d.pace.saturated && ceil ≤ d.pace.vcore && r < paceRate cls then
    ({ d with pace := { d.pace with saturated := true } }).evFw 0x9005 none [cls, r, d.pace.vcore, d.power.avg1000]
  else if d.pace.saturated && paceRate cls ≤ r then
    ({ d with pace := { d.pace with saturated := false } }).evFw 0x9006 none [cls, r, d.pace.vcore]
  else d

/-- PACE_GUARD_TICK: the monitors of the 24 Bolts; the guard runs on the active Cutter. While no class is in force it holds VCORE
at the value of Idle, or in Hold at that of Hold (R65; 18 R533, R534). -/
def Dev.paceTick (d : Dev) (rates powerAt : List Nat) : Dev :=
  if !d.power.pwrGood then d
  else
    let d := { d with pace := { d.pace with rates := (List.range 24).zip rates } }
    if !d.serving then d
    else if d.paceClass = 0 then { d with pace := { d.pace with vcore := if d.power.hold then 600 else 650 } }
    else
      let d := d.throttleCeiling
      let ceil := d.vcoreCeiling powerAt
      let v := guardStep d.pace.vcore d.slowestRate (paceRate d.paceClass) ceil
      ({ d with pace := { d.pace with vcore := v } }).saturation ceil

def execPaceGuardTick (rates powerAt : List Nat) (s : State) : Res := s.onDev fun d => d.paceTick rates powerAt

end Sys2Proof.Machine
end

