-- ==== Sys2Proof/Machine/Patterns.lean ====
section
/-! DEFINITION. The test patterns of the Spool channels and what a test finds when it compares what it reads back
(11 R329, R347 to R349). -/

namespace Sys2Proof.Machine

/-! ### The patterns (11 R347) -/

/-- One bit further in the sequence x^31 + x^28 + 1; bit 0 of the register is the newest of the last 31 bits. -/
def prbsNext (r : BitVec 31) : BitVec 31 := BitVec.ofNat 31 (2 * r.toNat + boolN (bitOf r 30 != bitOf r 27))

/-- The next `n` bits of the sequence after a seed, the first one as bit 0 (log 68). -/
def prbsBits : Nat → BitVec 31 → Nat
  | 0, _ => 0
  | n + 1, r => boolN (bitOf (prbsNext r) 0) + 2 * prbsBits n (prbsNext r)

/-- The content of the 8-byte word at channel address `a`. -/
def patternWord (pattern a : Nat) : W64 :=
  let odd := (Config.dramRow a).toNat % 2 = 1
  if pattern = 0 then BitVec.ofNat 64 (prbsBits 64 (BitVec.ofNat 31 (a / 8 + 1)))
  else if pattern = 1 then BitVec.ofNat 64 (2 ^ (a / 8 % 64))
  else if pattern = 2 then ~~~BitVec.ofNat 64 (2 ^ (a / 8 % 64))
  else if pattern = 3 then (if odd then 0xAAAAAAAAAAAAAAAA else 0x5555555555555555)
  else if pattern = 4 then BitVec.ofNat 64 a
  else if odd then 0 else BitVec.allOnes 64

/-! ### Reading back and comparing -/

def bitsSet {n : Nat} (x : BitVec n) : Nat := ((List.range n).filter (bitOf x ·)).length

/-- The data bits in which a word read back differs from the pattern. -/
def wrongBits (t : TestRead) (pattern : Nat) : W64 := t.data ^^^ patternWord pattern t.addr

/-- The wrong bits of a word by lane: data lanes 0 to 63, check lanes 64 to 71. -/
def wrongLanes (t : TestRead) (pattern : Nat) : BitVec 72 := t.check ++ wrongBits t pattern

/-- The wrong 8-bit symbols of a word (11 R329). -/
def wrongSymbols (t : TestRead) (pattern : Nat) : Nat :=
  ((List.range 9).filter fun i => fld (wrongLanes t pattern) (8 * i) 8 != 0).length

/-- What a test finds. -/
structure TestObs where
  rawBits : Nat
  lanes : BitVec 72
  first : Option Nat
  corrected : Nat
  uncorrectable : Nat
deriving DecidableEq, Repr

def TestObs.none : TestObs := ⟨0, 0, Option.none, 0, 0⟩

/-- The comparison of the words read back, in the order of reading; a line whose words show up to three wrong symbols in one
pass is one that correction would have repaired. -/
def testFinds (pattern : Nat) (l : List TestRead) : TestObs :=
  let bad := l.filter fun t => wrongLanes t pattern != 0
  let ls := (bad.map fun t => (t.pass, t.addr / 64)).eraseDups
  let n := fun (x : Nat × Nat) => sumN ((bad.filter fun t => (t.pass, t.addr / 64) == x).map fun t => wrongSymbols t pattern)
  { rawBits := sumN (bad.map fun t => bitsSet (wrongLanes t pattern))
    lanes := bad.foldl (fun m t => m ||| wrongLanes t pattern) 0
    first := (bad.head?).map (·.addr)
    corrected := (ls.filter fun x => n x ≤ 3).length
    uncorrectable := (ls.filter fun x => 3 < n x).length }

end Sys2Proof.Machine
end

