-- ==== Sys2Proof/Machine/Spools.lean ====
section
/-! DEFINITION. The Spools at work: error correction and poison at the channel controllers, thermal states and the ordered
pause, Darning, retraining in place, retirement and spare tests (11 R329 to R349; 02 R75, R76). -/

namespace Sys2Proof.Machine

/-- The device has its rails and is not Off (18 R536, R539). -/
def Dev.powered (d : Dev) : Bool := d.power.pwrGood && !d.power.off

/-- An estimate that the manual does not give: free, a multiple of 4 ns (02 R75; log 36). `d.mb.head` moves on with every
event, so that each estimate is a new one. -/
def Dev.freeEst (d : Dev) (key : Nat) : Nat := (Config.freeWord d.mb.head key).toNat / 4 * 4

/-! ### Requests for channel maintenance (11 R340, R344 to R346) -/

/-- Ends the first command that waits for an action on a logical channel. -/
def Dev.endChan (d : Dev) (m l : Nat) (retire : Bool) (f : Dev → Pend → Dev) : Dev :=
  match d.opens.find? fun o => o.kind == .channel m l && (o.cmd.opc == 0x0405) == retire with
  | none => d
  | some o => f { d with opens := d.opens.erase o } o.cmd

/-- A channel enters the failing state (R346): reason 0 no spare for its retirement, 1 its retrain in place failed. -/
def Dev.failing (d : Dev) (m l reason : Nat) : Dev :=
  let ph := (d.spool m).phys l
  if ((d.spool m).chan ph).role = 4 then d
  else
    let d := d.updSpool m fun s => s.updChan ph fun c => { c with role := 4, failedAt := d.now, reason := reason }
    (d.ev 0x400A (dieSpool m) none [m, l, ph, reason]).refreshAdvice

/-- A retrain in place may be announced now (R345). -/
def Dev.inplaceOk (d : Dev) (m : Nat) (r : ChanReq) : Bool :=
  let s := d.spool m
  s.inplace.isNone && s.therm < 3 && !d.heldBy m && !s.darn.any (·.logical == r.logical)
    && (r.byCmd || (get? s.inplaceLast r.logical).all fun t => t + 600000000000 ≤ d.now)

/-- What becomes of a request: 0 it waits, 1 a Darning, 2 a retrain in place, 3 it cannot be met (R340, R344, R352). -/
def Dev.chanChoice (d : Dev) (m : Nat) (r : ChanReq) : Nat :=
  let s := d.spool m
  let spare := !s.spares.isEmpty
  let darnFree := s.darn.isNone && !s.inplace.any (·.logical == r.logical)
  if r.retire || r.mode == 1 then (if !spare then 3 else if darnFree then 1 else 0)
  else if r.mode == 0 && spare && darnFree then 1
  else if r.mode == 2 && s.darn.any (·.logical == r.logical) then 3
  else if d.inplaceOk m r then 2 else 0

/-- A Darning begins: the target is the lowest idle spare (log 37); event 0x4004 (R342). -/
def Dev.startDarning (d : Dev) (m : Nat) (r : ChanReq) : Dev :=
  let s := d.spool m
  let src := s.phys r.logical
  let tgt := s.spares.headD 0
  let x : Darn := { logical := r.logical, src := src, tgt := tgt, mark := 0, retire := r.retire, start := d.now
                    mode := r.mode, byCmd := r.byCmd }
  let s := { s with darn := some x }
  let s := s.updChan src fun c => { c with darnings := satAdd 16 c.darnings 1 }
  let s := s.updChan tgt fun c => { c with role := 2, darnings := satAdd 16 c.darnings 1 }
  ((d.setSpool m s).ev 0x4004 (dieSpool m) none [m, r.logical, src, tgt, boolN r.retire]).refreshAdvice

/-- The notice of a retrain in place: the stall begins between 100 µs and 200 µs later (R345), a free value (log 36). -/
def Dev.announceStall (d : Dev) (m : Nat) (r : ChanReq) : Dev :=
  let t := d.now + 100000 + (Config.freeWord d.mb.head 0x4007).toNat % 100001
  let d := d.updSpool m fun s => { s with inplace := some ⟨r.logical, t, none, r.byCmd⟩ }
  let d := d.lateNotice (dieSpool m) 6 (d.freeEst 6) (d.onChannels (· == (m, r.logical)))
  d.ev 0x4007 (dieSpool m) none [m, r.logical, (d.spool m).phys r.logical, t]

/-- A request that cannot be met: a command fails; a channel that needs retirement is failing. -/
def Dev.cannotMaintain (d : Dev) (m : Nat) (r : ChanReq) : Dev :=
  if r.byCmd then
    d.endChan m r.logical r.retire fun d k => d.failCmd k 0x4013 none [k.opc, if r.retire then 1 else 2]
  else if r.retire then d.failing m r.logical 0 else d

def Dev.tryStart (d : Dev) (m : Nat) (r : ChanReq) : Dev :=
  let rest := d.updSpool m fun s => { s with waiting := s.waiting.erase r }
  let c := d.chanChoice m r
  if c = 0 then d else if c = 1 then rest.startDarning m r else if c = 2 then rest.announceStall m r
  else rest.cannotMaintain m r

/-- Starts what can start, in order of arrival (R344). -/
def Dev.startNext (d : Dev) (m : Nat) : Dev := (d.spool m).waiting.foldl (fun d r => d.tryStart m r) d

def Dev.request (d : Dev) (m : Nat) (r : ChanReq) : Dev :=
  (d.updSpool m fun s => { s with waiting := s.waiting ++ [r] }).startNext m

/-- The action of a trigger waits or runs already. -/
def Spool.hasAction (s : Spool) (l : Nat) (retire : Bool) : Bool :=
  s.waiting.any (fun r => r.logical == l && r.retire == retire) || s.darn.any (fun x => x.logical == l && x.retire == retire)
    || (!retire && s.inplace.any (·.logical == l))

/-- A trigger of R340 other than a command: event 0x4003, then its action. A channel that is failing already, without a
spare, cannot be retired. -/
def Dev.trigger (d : Dev) (m l t v : Nat) (retire : Bool) : Dev :=
  let s := d.spool m
  if s.hasAction l retire || (retire && (s.chan (s.phys l)).role == 4 && s.spares.isEmpty) then d
  else (d.ev 0x4003 (dieSpool m) none [m, l, s.phys l, t, v]).request m ⟨l, retire, 0, false⟩

/-! ### Errors that the decoder meets (11 R329 to R333) -/

def Dev.correctedAt (d : Dev) (m ph addr symbols : Nat) : Dev :=
  let now := d.now
  let d := d.updSpool m fun s => s.updChan ph fun c =>
    { c with corr := satAdd 32 c.corr 1, lastErr := some addr
             corrLog := (c.corrLog.filter fun t => now < t + 3600000000000) ++ [now] }
  let log := ((d.spool m).chan ph).corrLog
  let l := (d.spool m).logical ph
  let d := d.oncePerSec (0x4001 * 1024 + 64 * m + ph) fun d =>
    d.ev 0x4001 (dieSpool m) none [m, (l.getD 0xFF : Nat), ph, addr, symbols, (log.filter fun t => now < t + 1000000000).length]
  match l with
  | some l => if 1000 < log.length then d.trigger m l 0 log.length false else d
  | none => d

/-- An uncorrectable line: event 0x4002 with the source: 0 demand, 1 scrub, 2 Darning, 3 run-ahead. -/
def Dev.uncorrectableAt (d : Dev) (m ph addr source : Nat) (ctx : Option Nat) : Dev :=
  let now := d.now
  let d := d.updSpool m fun s => s.updChan ph fun c =>
    { c with unc := satAdd 32 c.unc 1, lastErr := some addr
             uncLog := (c.uncLog.filter fun e => now < e.2 + 86400000000000) ++ [(addr, now)] }
  let n := (((d.spool m).chan ph).uncLog.map (·.1)).eraseDups.length
  let l := (d.spool m).logical ph
  let d := d.ev 0x4002 (dieSpool m) ctx [m, (l.getD 0xFF : Nat), ph, addr, source]
  match l with
  | some l => if 3 ≤ n then d.trigger m l 2 n true else d
  | none => d

/-- The logical channel whose lines a physical channel holds: its own, or that of the Darning it is the target of. -/
def Spool.holdsFor (s : Spool) (ph : Nat) : Option Nat :=
  match s.darn.filter (·.tgt == ph) with
  | some x => some x.logical
  | none => s.logical ph

/-- A region or a spill backing has this device line at channel address `addr` of a physical channel (log 38). -/
def Dev.holdsLine (d : Dev) (m ph addr line : Nat) : Bool :=
  (d.placeOf line).any fun p => p.spool == m && some p.chan == (d.spool m).holdsFor ph && p.addr / 64 == addr / 64

/-- The line that a channel reads has the poison mark: of a placed line the mark goes with the data, of another with its frame. -/
def Box.marked (b : Box) (m ph addr line : Nat) : Bool :=
  if b.dev.holdsLine m ph addr line then b.store.memPoison.contains (line / 64) else (b.dev.spool m).marks.contains (ph, addr / 64)

/-- The controller rewrites a line with the poison mark (R331). -/
def Box.markLine (b : Box) (m ph addr line : Nat) : Box :=
  if b.dev.holdsLine m ph addr line then b.onS fun s => s.poisonMem (line / 64)
  else b.onD fun d => d.updSpool m fun s => { s with marks := s.marks ++ [(ph, addr / 64)] }

/-- What the decoder meets on a line that a channel reads: counters, events, and the poison mark, in frames that hold data and in
free ones alike. A line marked already is read as poison, without a report (R331, R332). -/
def Box.decode (b : Box) (m ph addr line source : Nat) (ctx : Option Nat) (e : Ecc) : Box :=
  if b.marked m ph addr line then b
  else match e with
    | .ok => b
    | .corrected n => b.onD fun d => d.correctedAt m ph addr n
    | .uncorrectable => (b.markLine m ph addr line).onD fun d => d.uncorrectableAt m ph addr source ctx

/-- The lines on which the copier met an error (R342). -/
def Box.copyErrors (b : Box) (m ph : Nat) (errs : List (Nat × Nat × Ecc)) : Box :=
  errs.foldl (fun b e => b.decode m ph e.1 e.2.1 2 none e.2.2) b

/-- The Spool serves accesses: not in Trip, and not in the self-refresh of Hold (R339; 18 R534). -/
def Dev.serves (d : Dev) (m : Nat) : Bool := d.powered && !d.power.hold && (d.spool m).therm != 4

/-- The physical channel that serves a read of logical channel `l`: the target of a Darning below its watermark (R341). -/
def Spool.serving (s : Spool) (l addr : Nat) : Nat :=
  match s.darn with
  | some x => if x.logical = l ∧ addr < x.mark then x.tgt else s.phys l
  | none => s.phys l

/-! ### SPOOL_ACCESS (11 R329 to R331, R341, R344) -/

/-- The line after a write of the masked bytes; a merge into a poisoned line, and data that arrives poisoned, are
poisoned. -/
def mergedLine (old : List PB) (data : List Byte) (mask : BitVec 64) (bad : Bool) : List PB :=
  ((old.zip data).zip (List.range 64)).map fun x => (if bitOf mask x.2 then x.1.2 else x.1.1.1, bad)

/-- A Darning is abandoned: reason 0 a write to the target failed, 1 the target failed its checks. The target is retired,
and the request stands first again (R344). -/
def Dev.abandonDarning (d : Dev) (m reason : Nat) : Dev :=
  match (d.spool m).darn with
  | none => d
  | some x =>
    let d := d.updSpool m fun s =>
      { (s.updChan x.tgt fun c => { c with role := 3 }) with
          darn := none, waiting := ⟨x.logical, x.retire, x.mode, x.byCmd⟩ :: s.waiting }
    let d := { d with health := { d.health with retiredChans := d.health.retiredChans ++ [(m, x.tgt)] } }
    ((d.ev 0x4006 (dieSpool m) none [m, x.logical, x.src, x.tgt, x.mark, reason]).refreshAdvice).startNext m

/-- What a read of a line answers. -/
def Box.answerLine (b : Box) (l : List PB) : Box := b.onD fun d => { d with out := { value := 0, bytes := bytesOf l, err := anyBad l } }

/-- The channel address of an access: that of the line's place, or of the frame that the access names. -/
def Dev.accAddr (d : Dev) (x : SpoolAcc) : Nat := (d.placeOf x.line).elim x.addr Place.addr

/-- A write to a frame that no region and no backing holds: its poison mark is set by poisoned data, cleared by a whole clean line,
and else stays (R331). -/
def Dev.markFrame (d : Dev) (m ph addr : Nat) (whole bad : Bool) : Dev :=
  d.updSpool m fun s =>
    let rest := s.marks.filter (· != (ph, addr / 64))
    { s with marks := if bad || (!whole && s.marks.contains (ph, addr / 64)) then rest ++ [(ph, addr / 64)] else rest }

/-- The bytes of a write of one line, or the mark of a frame outside the regions. -/
def Box.writeLine (b : Box) (x : SpoolAcc) (w : BitVec 512) (m ph addr : Nat) (whole : Bool) : Box :=
  if (b.dev.placeOf x.line).isSome then
    let old := b.store.rdMem x.line 64
    b.wrDev x.line (mergedLine old (lineBytes w) x.mask (x.poison || (!whole && anyBad old)))
  else b.onD fun d => d.markFrame m ph addr whole x.poison

/-- A channel controller serves a read or a write of one line; a read answers the line, poisoned where it is marked. -/
def Box.serveLine (b : Box) (x : SpoolAcc) : Box :=
  let m := x.spool.val
  let l := x.chan.val
  let addr := b.dev.accAddr x
  let ph := (b.dev.spool m).serving l addr
  let ctx := x.ctx.map (·.val)
  match x.write with
  | none =>
    let b := (b.onD fun d => d.creaseMem m l).decode m ph addr x.line 0 ctx x.ecc
    b.answerLine ((b.store.rdMem x.line 64).map fun y => (y.1, b.marked m ph addr x.line))
  | some w =>
    let whole := x.mask == BitVec.allOnes 64
    let b := if whole then b else b.decode m ph addr x.line 0 ctx x.ecc
    let b := b.writeLine x w m ph addr whole
    match x.targetFails, (b.dev.spool m).darn with
    | some errs, some y => if y.logical = l then (b.copyErrors m y.src errs).onD fun d => d.abandonDarning m 0 else b
    | _, _ => b

/-- The access names its line rightly: the Spool and channel of a placed line, or a frame of the reserve, of an image or free. -/
def Dev.accNamed (d : Dev) (x : SpoolAcc) : Bool :=
  match d.channelOf x.line with
  | some c => c == (x.spool.val, x.chan.val)
  | none => inReserved x.line 64

/-- SPOOL_ACCESS: an access to a channel that stalls in a retrain in place waits (R345); a read already issued to a Spool in Trip
completes poisoned (R339). -/
def execSpoolAccess (x : SpoolAcc) (s : State) : Res :=
  s.on fun b =>
    if !b.dev.accNamed x then b
    else if b.dev.serves x.spool.val then (if (b.dev.spool x.spool.val).stalls x.chan.val then b else b.serveLine x)
    else if b.dev.powered && (b.dev.spool x.spool.val).tripped && x.write.isNone then
      b.answerLine ((b.store.rdMem x.line 64).map fun y => (y.1, true))
    else b

/-! ### PATROL_SCRUB (11 R332) -/

/-- PATROL_SCRUB of the line at channel address `addr`; `line` is the device line that the frame holds, if it holds one. -/
def execPatrolScrub (m : Fin 8) (ch : Fin 34) (addr line : Nat) (ecc : Ecc) (s : State) : Res :=
  s.on fun b =>
    let x := b.dev.spool m.val
    if b.dev.serves m.val && (x.chan ch.val).role != 3 && !(x.logical ch.val).any x.stalls then
      b.decode m.val ch.val addr line 1 none ecc
    else b

/-! ### Thermal states (11 R334 to R339): temperatures in units of 0.125 °C -/

/-- The highest state whose lower limit a temperature is above: 85, 95, 105, 115 °C. -/
def thermAbove (t : Int) : Nat := if 920 < t then 4 else if 840 < t then 3 else if 760 < t then 2 else if 680 < t then 1 else 0

/-- The state after a sample that is above no higher limit: Trip returns to Hot below 100 °C, the others to the state below
at less than 102, 92 and 82 °C. -/
def thermBelow (t : Int) : Nat → Nat
  | 0 => 0
  | 1 => if t < 656 then 0 else 1
  | 2 => if t < 656 then 0 else if t < 736 then 1 else 2
  | 3 => if t < 656 then 0 else if t < 736 then 1 else if t < 816 then 2 else 3
  | _ => if t < 800 then 2 else 4

def thermNext (old : Nat) (t : Int) : Nat := if old < thermAbove t then thermAbove t else thermBelow t old

/-- Some Spool is Critical. -/
def Dev.critical (d : Dev) : Bool := (List.range 8).any fun m => (d.spool m).therm == 3

/-- The lateness notice of a pause names every collective near (R337). -/
def Dev.pauseNotice (d : Dev) (m : Nat) : Dev := d.lateNotice (dieSpool m) 4 10000000 fun _ => true

/-- A pause is ordered for every running context that is not paused yet. -/
def Dev.orderPause (d : Dev) (m : Nat) : Dev :=
  d.runningCtxs.foldl (fun d n => d.updCtx n fun c =>
    if c.hold.isSome || c.pauseWanted.isSome then c else { c with pauseWanted := some m }) (d.pauseNotice m)

/-- The held waiters are released, event 0x400D; what they launch is late with cause 4 (R338). -/
def Dev.releasePause (d : Dev) : Dev :=
  (List.range 8).foldl (fun d n =>
    let d := match (d.ctx n).hold with
      | some h => (d.ev 0x400D (dieKnot h.knot) (some n) [h.knot, d.now - h.since]).markReleased n h.knot 4
      | none => d
    if (d.ctx n).hold.isSome || (d.ctx n).pauseWanted.isSome then
      d.updCtx n fun c => { c with hold := none, pauseWanted := none } else d) d

/-- Stops every running and stopping context because of one event (11 R339; 18 R546). -/
def Box.stopAll (b : Box) (ev : Nat) : Box :=
  b.dev.liveCtxs.foldl (fun b n => (b.onD fun d => d.damage).faultStop n ev) b

/-- What a change of thermal state does. -/
def Box.thermChange (b : Box) (m old new : Nat) : Box :=
  let t := (b.dev.spool m).temp.toInt
  let b := if new = 4 then
      (b.onD fun d => d.ev 0x400E (dieSpool m) none ([(m : Int), t] ++ (d.liveCtxs.take 4).map fun (n : Nat) => (n : Int))).stopAll 0x400E
    else if new = 3 ∧ old < 3 then b.onD fun d => d.orderPause m
    else if new = 2 ∧ old ≠ 2 then b.onD fun d => d.lateNotice (dieSpool m) 4 (d.freeEst 4) (d.onChannels (·.1 == m))
    else b
  if old = 3 ∧ !b.dev.critical then b.onD Dev.releasePause else b

/-- Above 125 °C a Spool asserts THERMTRIP_N (18 R546). -/
def Dev.spoolTrip (d : Dev) (m : Nat) (t : Int) : Dev :=
  if 1000 < t ∧ !d.power.thermtrip then
    let d := d.ev 0x6006 (dieSpool m) none [(dieSpool m : Nat), t]
    { d with power := { d.power with thermtrip := true } }
  else d

/-- SPOOL_THERMAL_SAMPLE. -/
def Box.thermSample (b : Box) (m : Nat) (temp : W16) (sensor : Nat) : Box :=
  let old := (b.dev.spool m).therm
  let new := thermNext old temp.toInt
  let b := b.onD fun d => d.updSpool m fun s => { s with temp := temp, sensor := sensor, therm := new }
  let b := if new = old then b
    else (b.onD fun d => d.ev 0x400B (dieSpool m) none [m, old, new, temp.toInt, sensor]).thermChange m old new
  b.onD fun d => (d.spoolTrip m temp.toInt).startNext m

def execSpoolThermalSample (m : Fin 8) (temp : W16) (sensor : Fin 9) (s : State) : Res :=
  s.on fun b => if b.dev.powered then b.thermSample m.val temp sensor.val else b

/-- PAUSE_NOTICE_REPEAT: while some Spool is Critical. -/
def execPauseNoticeRepeat (s : State) : Res :=
  s.onDev fun d => ((List.range 8).find? fun m => (d.spool m).therm == 3).elim d d.pauseNotice

/-! ### Darning (11 R341 to R344) -/

/-- The copier's watermark between commands: a line in every 3 ns, 2.25 GiB in about 120 ms; suspended in Hot, Critical
and Trip (R342; log 10). -/
def Spool.copyTick (s : Spool) : Spool :=
  match s.darn with
  | some x => if s.therm < 2 then { s with darn := some { x with mark := min 2415919104 (x.mark + 64) } } else s
  | none => s

/-- The remap changes, the original goes offline, event 0x4005; the command that asked for it completes (R343, R352). The target
has the poison marks that the copier wrote (R342). -/
def Dev.darningDone (d : Dev) (m : Nat) (x : Darn) : Dev :=
  let d := d.updSpool m fun s =>
    let s := (s.updChan x.src fun c => { c with role := 0 }).updChan x.tgt fun c => { c with role := 0 }
    { s with marks := s.marks.filter (·.1 != x.tgt) ++ (s.marks.filter (·.1 == x.src)).map fun e => (x.tgt, e.2)
             darn := none, remap := put s.remap x.logical x.tgt, offline := s.offline ++ [(x.src, x.retire)] }
  let d := (d.ev 0x4005 (dieSpool m) none [m, x.logical, x.src, x.tgt, (d.now - x.start) / 1000]).refreshAdvice
  let d := if x.byCmd then d.endChan m x.logical x.retire fun d k => d.okCmd k else d
  d.startNext m

/-- The channel address behind the last line of a channel (R333). -/
def chanEnd : Nat := 2415919104

/-- DARNING_DONE: with `ok` the watermark has reached the end of the channel (R343); without, the target fails its own checks
(R344). -/
def execDarningDone (m : Fin 8) (ok : Bool) (errs : List (Nat × Nat × Ecc)) (s : State) : Res :=
  s.on fun b =>
    let m := m.val
    match (b.dev.spool m).darn with
    | none => b
    | some x =>
      if !b.dev.serves m || 2 ≤ (b.dev.spool m).therm || (ok && x.mark != chanEnd) then b
      else
        let b := b.copyErrors m x.src errs
        if ok then b.onD fun d => d.darningDone m x else b.onD fun d => d.abandonDarning m 1

/-- A physical channel is retired, event 0x4009: reason 0 its retirement, 1 a retrain that failed, 2 a spare test (R343,
R349; log 37). -/
def Dev.retireChan (d : Dev) (m ph former reason : Nat) : Dev :=
  let d := d.updSpool m fun s => s.updChan ph fun c => { c with role := 3 }
  let d := { d with health := { d.health with retiredChans := d.health.retiredChans ++ [(m, ph)] } }
  (d.ev 0x4009 (dieSpool m) none [m, ph, former, reason]).refreshAdvice

/-- ORIGINAL_RETRAIN_DONE: retrain and PRBS pass of the original, `ok` when both succeed. -/
def Dev.originalDone (d : Dev) (m : Nat) (ok : Bool) : Dev :=
  match (d.spool m).offline with
  | [] => d
  | (ph, retire) :: rest =>
    let d := d.updSpool m fun s =>
      { (s.updChan ph fun c => { c with retrains := satAdd 16 c.retrains 1 }) with offline := rest }
    let d := if ok && !retire then (d.updSpool m fun s => s.updChan ph fun c => { c with role := 1 }).refreshAdvice
      else d.retireChan m ph 0 (if retire then 0 else 1)
    d.startNext m

def execOriginalRetrainDone (m : Fin 8) (ok : Bool) (s : State) : Res :=
  s.onDev fun d => if d.powered then d.originalDone m.val ok else d

/-! ### Retraining in place (11 R345, R346) -/

/-- RETRAIN_INPLACE_START: not before the announced time, not while the Spool is Critical or holds a pause. -/
def Dev.stallBegins (d : Dev) (m : Nat) : Dev :=
  match (d.spool m).inplace with
  | some x =>
    if x.begun.isSome || d.now < x.notice || 3 ≤ (d.spool m).therm || d.heldBy m then d
    else d.updSpool m fun s =>
      { s with inplace := some { x with begun := some d.now }, inplaceLast := put s.inplaceLast x.logical d.now }
  | none => d

def execRetrainInplaceStart (m : Fin 8) (s : State) : Res := s.onDev fun d => if d.powered then d.stallBegins m.val else d

/-- RETRAIN_INPLACE_DONE: event 0x4008, result 0 for success; the outcome for the channel and for the command. -/
def Dev.stallEnds (d : Dev) (m : Nat) (ok : Bool) : Dev :=
  match (d.spool m).inplace with
  | some x =>
    match x.begun with
    | none => d
    | some t =>
      let l := x.logical
      let ph := (d.spool m).phys l
      let d := d.updSpool m fun s =>
        { (s.updChan ph fun c => { c with retrains := satAdd 16 c.retrains 1, role := if ok then 0 else c.role }) with inplace := none }
      let d := d.ev 0x4008 (dieSpool m) none [m, l, ph, (d.now - t) / 1000, boolN (!ok)]
      let d := if ok then d.refreshAdvice else (d.failing m l 1).trigger m l 3 0 true
      let d := if x.byCmd then d.endChan m l false fun d k => d.okCmd k else d
      d.startNext m
  | none => d

def execRetrainInplaceDone (m : Fin 8) (ok : Bool) (s : State) : Res :=
  s.onDev fun d => if d.powered then d.stallEnds m.val ok else d

/-- CHANNEL_FAILING_REPEAT: event 0x400A once a day while the state lasts. -/
def Dev.failingRepeat (d : Dev) (m l : Nat) : Dev :=
  let ph := (d.spool m).phys l
  let c := (d.spool m).chan ph
  if c.role = 4 ∧ c.failedAt + 86400000000000 ≤ d.now then
    (d.updSpool m fun s => s.updChan ph fun c => { c with failedAt := d.now }).ev 0x400A (dieSpool m) none [m, l, ph, c.reason]
  else d

def execChannelFailingRepeat (m : Fin 8) (l : Fin 32) (s : State) : Res :=
  s.onDev fun d => if d.powered then d.failingRepeat m.val l.val else d

/-- LINK_MARGIN_LOW: trigger 1, with the margin reading. -/
def execLinkMarginLow (m : Fin 8) (l : Fin 32) (margin : Nat) (s : State) : Res :=
  s.onDev fun d => if d.powered && !d.power.hold then d.trigger m.val l.val 1 margin false else d

/-! ### Spare tests (11 R349) -/

/-- SPARE_CHANNEL_TEST: a PRBS31 pass reads back `reads`; where a lane shows an error for the first time, the spare is retrained and
tested again, which reads back `again`; a raw error in that test is a failure again. -/
def Dev.spareTest (d : Dev) (m ph : Nat) (reads again : List TestRead) : Dev :=
  let c := (d.spool m).chan ph
  if c.role ≠ 1 then d
  else
    let lanes := (testFinds 0 reads).lanes
    let second := testFinds 0 again
    let new := lanes &&& ~~~c.lanes != 0
    let d := d.updSpool m fun s => s.updChan ph fun c =>
      { c with lanes := c.lanes ||| lanes ||| (if new then second.lanes else 0)
               retrains := if new then satAdd 16 c.retrains 1 else c.retrains }
    if new && second.rawBits != 0 then d.retireChan m ph 1 2 else d

def execSpareChannelTest (m : Fin 8) (ph : Fin 34) (reads again : List TestRead) (s : State) : Res :=
  s.onDev fun d => if d.serves m.val then d.spareTest m.val ph.val reads again else d

end Sys2Proof.Machine
end

