-- ==== Sys2Proof/Machine/Ahead.lean ====
section
/-! DEFINITION. Run-ahead: what a GME, a Press or a stream's decode may read before the launch of the command it serves (02 R77
to R79; 08 R231, R258; 09 R279). -/

namespace Sys2Proof.Machine

/-- An engine's command, launched or still next: what run-ahead knows of it. -/
structure AheadCmd where
  a : Act
  w : W64
  r : BitVec 256
  e : Nat
  n0 : Nat
  n1 : Nat
  val : W32
  step : Nat
  ctx : Nat
  launched : Bool

/-- The command that an entry of an engine's queue names; an untimed one counts as due at once (log 75). -/
def Dev.aheadCmd (d : Dev) (q : QEnt) : Option AheadCmd :=
  match d.action q.a with
  | some x => some ⟨q.a, x.w, x.desc, x.e.getD 0, x.n0, x.n1, x.val, x.step, x.ctx, true⟩
  | none =>
    let s := d.stream q.a.cs
    match s.nxt, s.ctx with
    | some x, some n =>
      (((d.ctx n).block s.block).bind fun b => b.recs[Insn.ridx x.w - 1]?).map fun r =>
        ⟨q.a, x.w, r, x.e.getD 0, x.n0, x.n1, x.val, (d.ctx n).step, n, false⟩
    | _, _ => none

/-- The commands beyond the executing one: the launched ones in order of launch, then the pending ones by their E. -/
def Dev.beyondFirst (d : Dev) (q : EngQ) : List AheadCmd :=
  let l := q.q.filterMap d.aheadCmd
  ((l.filter (·.launched)).drop 1) ++ (l.filter (!·.launched)).mergeSort fun x y => decide (x.e ≤ y.e)

/-- The command of an engine's queue for which it may run ahead: one of the first `n` beyond the executing one. -/
def Dev.aheadFor (d : Dev) (t : Tbl EngQ) (n : Nat) (a : Act) : Option AheadCmd :=
  t.findSome? fun e => ((d.beyondFirst e.2).take n).find? (·.a == a)

/-- A line holds bytes of a tensor. -/
def Dev.inTens (d : Dev) (t : Tens) (line : Nat) : Bool :=
  (d.pieces t).any fun p => decide (p.1 / 64 ≤ line / 64 ∧ line / 64 ≤ (p.1 + p.2 - 1) / 64)

/-- A line holds elements of rows of a tensor. -/
def Dev.inRows (d : Dev) (t : Tens) (g : Nat) (rows : List Nat) (line : Nat) : Bool :=
  (d.linesRead t (rows.flatMap (rowLins (dSizes t.d) g))).contains (line / 64)

/-- The tensors whose lines a GME reads for a command: indices, masks and sources (08 R235, R259; 07 R213). -/
def Dev.gmeSources (d : Dev) (c : AheadCmd) : List Tens :=
  let r := c.r
  let o := Insn.opc c.w
  let l := fun (is : List Nat) => is.filterMap d.tens
  if o = 0x61 then l [auDv r, auDl r, auDp r]
  else if o = 0x5A then l [lsDesc r, lsSide r]
  else if o ≠ 0x60 ∨ gqOp r = 0xA then []
  else if gqOp r = 3 then ((d.copyJob r).map (·.ts)).toList
  else if gqOp r = 8 then l [gqDi r]
  else l [gqDs r, gqDi r] ++ (if gqOp r = 5 ∨ gqOp r = 7 then l [gqDx r] else (l [gqDx r]).filter fun t => gqOp r == 6 && !dWrite t.d)

/-- Rows of a ROWFETCH's source: of its list when it has launched, else of the layer's last effective mask (08 R258). -/
def Box.fetchAhead (b : Box) (c : AheadCmd) : List Nat :=
  if !c.launched then ((b.dev.ctx c.ctx).layer (gqLayer c.r)).eff
  else match b.dev.tens (gqDi c.r), b.dev.action c.a with
    | some ti, some x => let l := b.fetchList x ti; l.1 ++ l.2.1
    | _, _ => []

/-- A GME reads this line for this command. -/
def Box.gmeReads (b : Box) (c : AheadCmd) (line : Nat) : Bool :=
  (b.dev.gmeSources c).any (b.dev.inTens · line)
    || (Insn.opc c.w == 0x60 && gqOp c.r == 8 && (b.dev.tens (gqDs c.r)).any fun t => b.dev.inRows t (gqG c.r) (b.fetchAhead c) line)

/-- A Press reads this line for this command (09 R280). -/
def Dev.pressReads (d : Dev) (c : AheadCmd) (line : Nat) : Bool :=
  ([prDp c.r, prDg c.r, prDm c.r, prDv c.r, prDf c.r, prDn c.r].filterMap d.named).any (d.inTens · line)

/-- The fetch may be made: the engine may run ahead for the command, and the command reads the line. -/
def Box.mayRunAhead (b : Box) : AheadBy → Bool
  | .gme a line => (b.dev.aheadFor b.dev.gmes 4 a).any fun c => b.gmeReads c (line / 64 * 64)
  | .press a line => (b.dev.aheadFor b.dev.presses 2 a).any fun c => b.dev.pressReads c (line / 64 * 64)
  | .decode cs m _ _ => (b.dev.stream cs).ctx.isSome && !(b.dev.stream cs).ended && b.dev.serves m

/-- The line stands in a run-ahead buffer for its action. -/
def Dev.keepAhead (d : Dev) (line : Nat) (a : Act) : Dev :=
  if d.ahead.contains ⟨line, a⟩ then d else { d with ahead := d.ahead ++ [⟨line, a⟩] }

/-- A fetch of a line for an action; an error that it finds is the channel's, with source 3 and no context (02 R78). -/
def Box.fetchLine (b : Box) (line : Nat) (a : Act) (ecc : Ecc) : Box :=
  match b.dev.placeOf line with
  | some p =>
    let s := b.dev.spool p.spool
    if b.dev.serves p.spool && !s.stalls p.chan then
      (b.decode p.spool (s.serving p.chan p.addr) p.addr line 3 none ecc).onD fun d => d.keepAhead (line / 64) a
    else b
  | none =>
    if b.dev.powered && inCompanion line 64 && b.dev.granted line 64 false && b.dev.yoke.down.isNone then
      b.onD fun d => d.keepAhead (line / 64) a
    else b

/-- RUN_AHEAD_FETCH. A stream's decode reads a frame that holds its image: no line of a region. -/
def Box.runAhead (b : Box) (x : AheadBy) (ecc : Ecc) : Box :=
  if !b.mayRunAhead x then b
  else match x with
    | .gme a line => b.fetchLine (line / 64 * 64) a ecc
    | .press a line => b.fetchLine (line / 64 * 64) a ecc
    | .decode _ m ch addr =>
      let s := b.dev.spool m
      if s.stalls ch then b else b.decode m (s.serving ch addr) addr (2 ^ 52) 3 none ecc

def execRunAheadFetch (x : AheadBy) (ecc : Ecc) (s : State) : Res := s.on fun b => b.runAhead x ecc

end Sys2Proof.Machine
end

