-- ==== Sys2Proof/Machine/SpoolCmds.lean ====
section
/-! DEFINITION. The Spool maintenance commands, group 0x04 (11 R323 to R328, R347 to R352). -/

namespace Sys2Proof.Machine

/-! ### SPOOL_ALLOC (11 R323 to R327) -/

def RemoteMap.overlaps (r : RemoteMap) (a n : Nat) : Bool := r.base < a + n && a < r.base + r.units * unit2M
def Region.overlaps (r : Region) (a n : Nat) : Bool := r.base < a + n && a < r.base + r.len

/-- Why an allocation fails: 0 alignment, 1 overlap, 2 reserved window, 3 region count, 4 frames. -/
def Dev.allocFault (d : Dev) (a units : Nat) (spool : Option Nat) : Option Nat :=
  let n := units * unit2M
  if a % unit2M ≠ 0 then some 0
  else if d.regions.any (·.overlaps a n) || d.remotes.any (·.overlaps a n) || (companionBase < a + n && a < reservedBase) then some 1
  else if reservedBase < a + n then some 2
  else if 4096 ≤ d.regions.length then some 3
  else if !d.roomFor units spool then some 4
  else none

def Box.spoolAlloc (k : Pend) (p : BitVec 384) (b : Box) : Box :=
  let a := pay p 0 8
  let units := pay p 8 4
  let mode := payBits p 12 0 1
  let m := payBits p 13 0 3
  let spool := if mode = 1 then some m else none
  b.fields k none [(decide (1 ≤ units ∧ units ≤ 293888), 8), (mode == 1 || m == 0, 13)] fun b =>
    match b.dev.allocFault a units spool with
    | some why => b.fail k 0x4010 none [(a : Int), (units : Int), (mode : Int), (m : Int), (why : Int)]
    | none =>
      let b := b.onD fun d => { (d.takeFrames units spool) with regions := d.regions ++ [(⟨a, units, spool⟩ : Region)] }
      let b := b.onS fun s => if bitOf p 97 then s.zeroMem a (units * unit2M) else s.undefMem a (units * unit2M)
      b.ok k

def execSpoolAlloc (c : Ici) (s : State) : Res := s.ici 0x0401 c (bitOf c.p 97) fun k b => b.spoolAlloc k c.p

/-! ### SPOOL_FREE (11 R328) -/

/-- A Baste in progress names bytes of a range: its ranges, its pool or its destination. -/
def Dev.basteTouches (d : Dev) (a n : Nat) : Bool :=
  d.bastes.any fun e => (1 ≤ e.2.st && e.2.st ≤ 3) &&
    (e.2.ranges.any (fun r => r.1 < a + n && a < r.1 + r.2 * granule) || (a ≤ e.2.pool && e.2.pool < a + n)
      || e.2.dest.any (fun x => a ≤ x && x < a + n) || e.2.auto.any (fun x => a ≤ x && x < a + n))

def ExportWin.overlaps (w : ExportWin) (a n : Nat) : Bool := w.base < a + n && a < w.base + w.units * unit2M

/-- A SCHED_LOAD in progress reads its image from the range. -/
def Dev.loadReads (d : Dev) (a n : Nat) : Bool :=
  d.loads.any fun e => decide (fld e 128 64 < a + n ∧ a < fld e 128 64 + fld e 192 32)

/-- What uses a region: 0 descriptor, 1 forerunner page, 2 Baste, 3 queue ring, 4 schedule load, 5 export window. -/
def Dev.regionUse (d : Dev) (r : Region) : Option Nat :=
  let a := r.base
  let n := r.len
  if d.descTouches a n then some 0
  else if d.compat.any (fun e => a ≤ e.2.target && e.2.target < a + n) then some 1
  else if d.basteTouches a n then some 2
  else if d.ringTouches a n then some 3
  else if d.loadReads a n then some 4
  else if d.exports.any (fun e => e.2.overlaps a n) then some 5
  else none

def Box.spoolFree (k : Pend) (p : BitVec 384) (b : Box) : Box :=
  let a := pay p 0 8
  match b.dev.regions.find? (·.base == a) with
  | none => b.bad k none 0
  | some r =>
    match b.dev.regionUse r with
    | some u => b.fail k 0x4011 none [(a : Int), (u : Int)]
    | none => b.onD fun d =>
        ({ (d.giveFrames r.units r.spool) with regions := d.regions.filter (·.base != a) }).okCmd k

def execSpoolFree (c : Ici) (s : State) : Res := s.ici 0x0402 c false fun k b => b.spoolFree k c.p

/-! ### SPOOL_QUERY -/

def Dev.spoolInfo (d : Dev) : List Byte :=
  padTo 64 (((List.range 8).flatMap fun m => leBytes 4 (d.spool m).free) ++ leBytes 4 d.regions.length)

def execSpoolQuery (c : Ici) (s : State) : Res :=
  s.ici 0x0403 c (inSpools (pay c.p 8 8)) fun k b => b.giveBytes k none 8 (pay c.p 8 8) Dev.spoolInfo

/-! ### CHAN_RETRAIN, CHAN_RETIRE (11 R340, R352) -/

/-- The command waits for its action, or fails when its mode cannot be met: the field is byte `byte`. -/
def Box.chanCommand (b : Box) (k : Pend) (m : Nat) (r : ChanReq) (byte : Int) : Box :=
  if b.dev.chanChoice m r = 3 then b.bad k none byte
  else b.onD fun d =>
    ({ d with opens := d.opens ++ [(⟨k, .channel m r.logical⟩ : OpenCmd)] }).request m r

def Box.chanRetrain (k : Pend) (p : BitVec 384) (b : Box) : Box :=
  b.fields k none [(decide (pay p 1 1 < 32), 1), (decide (pay p 2 1 ≤ 2), 2)] fun b =>
    b.chanCommand k (payBits p 0 0 3) ⟨pay p 1 1, false, pay p 2 1, true⟩ 2

def execChanRetrain (c : Ici) (s : State) : Res := s.ici 0x0404 c true fun k b => b.chanRetrain k c.p

def Box.chanRetire (k : Pend) (p : BitVec 384) (b : Box) : Box :=
  b.fields k none [(decide (pay p 1 1 < 32), 1)] fun b =>
    b.chanCommand k (payBits p 0 0 3) ⟨pay p 1 1, true, 0, true⟩ 1

def execChanRetire (c : Ici) (s : State) : Res := s.ici 0x0405 c true fun k b => b.chanRetire k c.p

/-! ### CHAN_TEST (11 R347 to R349, R352) -/

/-- The channel's role lets no test run: it is retired, the source or target of a Darning, or offline after one. -/
def Spool.untestable (s : Spool) (ph : Nat) : Bool :=
  (s.chan ph).role == 3 || s.darn.any (fun x => x.src == ph || x.tgt == ph) || s.offline.any (·.1 == ph)

/-- Bytes that a test compares: the whole channel of a spare, the free frames of a channel in service. -/
def Spool.testBytes (s : Spool) (ph : Nat) : Nat := if (s.chan ph).role = 1 then 2415919104 else 8192 * s.free

/-- The status of a test that ran. -/
def testStatus (r : TestObs) : Nat := if r.uncorrectable ≠ 0 then 2 else if r.rawBits ≠ 0 then 1 else 0

def testRecord (pattern passes status bytes : Nat) (r : TestObs) : List Byte :=
  leBytes 1 pattern ++ leBytes 1 passes ++ leBytes 1 status ++ zeros 5 ++ leBytes 8 bytes ++ leBytes 8 (min (2 ^ 64 - 1) r.rawBits)
    ++ leBytes 9 r.lanes.toNat ++ zeros 7 ++ leBytes 8 (r.first.getD (2 ^ 64 - 1))
    ++ leBytes 4 (min (2 ^ 32 - 1) r.corrected) ++ leBytes 4 (min (2 ^ 32 - 1) r.uncorrectable) ++ zeros 8

/-- A channel in service, the source of a Darning too, is tested only when no context is RUNNING (R348). A test that does not run has
run no pass. -/
def Box.chanTest (k : Pend) (p : BitVec 384) (reads : List TestRead) (b : Box) : Box :=
  let m := payBits p 0 0 3
  let ph := pay p 1 1
  b.fields k none [(decide (ph < 34), 1), (decide (pay p 2 1 ≤ 5), 2), (decide (1 ≤ pay p 3 1), 3)] fun b =>
    let s := b.dev.spool m
    if (s.logical ph).isSome ∧ !b.dev.runningCtxs.isEmpty then b.bad k none 1
    else b.withAddr k none 8 (pay p 8 8) 64 64 true fun b =>
      let run := !s.untestable ph
      let r := if run then testFinds (pay p 2 1) (reads.filter (·.pass < pay p 3 1)) else TestObs.none
      let st := if run then testStatus r else 3
      let l := testRecord (pay p 2 1) (if run then pay p 3 1 else 0) st (if run then pay p 3 1 * s.testBytes ph else 0) r
      let b := b.onD fun d => d.updSpool m fun s => s.updChan ph fun c => { c with lanes := c.lanes ||| r.lanes }
      let b := b.onD fun d => d.ev 0x400F (dieSpool m) none [m, ph, pay p 2 1, st, r.rawBits]
      (b.wrClean (pay p 8 8) l).ok k

def execChanTest (c : Ici) (reads : List TestRead) (s : State) : Res := s.ici 0x0406 c true fun k b => b.chanTest k c.p reads

/-! ### CHAN_HEALTH (11 R352) -/

def Dev.healthRec (d : Dev) (m ph : Nat) : List Byte :=
  let c := (d.spool m).chan ph
  let l := if c.role = 0 ∨ c.role = 4 then ((d.spool m).logical ph).getD 0xFF else 0xFF
  let hour := (c.corrLog.filter fun t => d.now < t + 3600000000000).length
  let day := (c.uncLog.filter fun e => d.now < e.2 + 86400000000000).length
  leBytes 1 ph ++ leBytes 1 c.role ++ leBytes 1 l ++ zeros 1 ++ leBytes 4 c.corr ++ leBytes 4 c.unc
    ++ leBytes 2 (min 65535 hour) ++ leBytes 2 (min 65535 day) ++ leBytes 2 c.retrains ++ leBytes 2 c.darnings ++ zeros 4
    ++ leBytes 8 (c.lastErr.getD (2 ^ 64 - 1))

def execChanHealth (c : Ici) (s : State) : Res :=
  s.ici 0x0407 c (inSpools (pay c.p 8 8)) fun k b =>
    b.giveBytes k none 8 (pay c.p 8 8) fun d => (List.range 34).flatMap fun ph => d.healthRec (payBits c.p 0 0 3) ph

end Sys2Proof.Machine
end

