-- ==== Sys2Proof/Machine/Bastes.lean ====
section
/-! DEFINITION. Bastes: take, drain, restore, release, the suggested interval, and the image's layout (15 R452 to R463,
R470, R473). -/

namespace Sys2Proof.Machine

/-! ### BASTE_TAKE (15 R452, R453) -/

/-- Range list entries: base and granules; bytes 12 to 15 reserved. -/
def rangeEntries (l : List Byte) (n : Nat) : List (Nat × Nat) := (List.range n).map fun i => (leAt l (16 * i) 8, leAt l (16 * i + 8) 4)
def rangesSpare (l : List Byte) (n : Nat) : Bool := (List.range n).all fun i => leAt l (16 * i + 12) 4 == 0

def rangeLen (r : Nat × Nat) : Nat := r.2 * granule
def rangesMeet (a b : Nat × Nat) : Bool := a.1 < b.1 + rangeLen b && b.1 < a.1 + rangeLen a

/-- Bastes in PENDING, PROTECTED or DRAINING. -/
def Dev.openBastes (d : Dev) : List (Nat × Baste) := d.bastes.filter fun e => 1 ≤ e.2.st && e.2.st ≤ 3

/-- A range starts on a granule, has one at least and lies within one host region. -/
def Dev.rangeOk (d : Dev) (r : Nat × Nat) : Bool := r.1 % granule == 0 && 1 ≤ r.2 && (d.regionOf r.1 (rangeLen r)).isSome

/-- No two ranges overlap, and none meets a range of an open Baste. -/
def Dev.rangesOk (d : Dev) (rs : List (Nat × Nat)) : Bool :=
  rs.all d.rangeOk
    && (List.range rs.length).all (fun i => (rs.take i).all fun r => !rangesMeet r (rs.getD i (0, 0)))
    && rs.all fun r => !d.openBastes.any fun e => e.2.ranges.any fun x => rangesMeet x r

/-- The pool is the base of a region that holds no range and is the pool of no other open Baste. -/
def Dev.poolOk (d : Dev) (pool : Nat) (rs : List (Nat × Nat)) : Bool :=
  (d.regions.find? (·.base == pool)).any fun x =>
    !(rs ++ d.openBastes.flatMap fun e => e.2.ranges).any (fun r => x.base < r.1 + rangeLen r && r.1 < x.base + x.len)
      && !d.openBastes.any fun e => e.2.pool == pool

/-- Where the data of an image begins, from its ranges, granules and poisoned lines (R458). -/
def dataOffset (ranges granules poisoned : Nat) : Nat := ceilTo 4096 (256 + 16 * ranges + 64 * granules + 8 * poisoned)

/-- A destination with room: a REMOTE_MAP range with write, or a companion grant with write (R457; log 45). -/
def Dev.destOk (d : Dev) (a n : Nat) : Bool :=
  ((d.remoteOf a n).any (·.wr) && a % 64 == 0) || (inCompanion a n && d.granted a n true)

/-- Image bytes of a number of granules in a number of ranges. -/
def imageLen (ranges granules poisoned : Nat) : Nat := dataOffset ranges granules poisoned + granules * granule

def Box.basteTake (k : Pend) (p : BitVec 384) (b : Box) : Box :=
  let n := payBits p 0 0 3
  let id := payBits p 1 0 4
  let auto := payBits p 2 0 1 = 1
  let cnt := pay p 4 2
  let list := pay p 8 8
  let dest := pay p 24 8
  b.fields k none
    [((b.dev.ctx n).st != .stopping, 0), ((b.dev.baste id).st == 0 && decide (b.dev.openBastes.length < 4), 1),
     (decide (1 ≤ cnt ∧ cnt ≤ 256), 4), (decide (1 ≤ pay p 6 2 ∧ pay p 6 2 ≤ 8192), 6)] fun b =>
    b.withAddr k none 8 list (16 * cnt) 64 false fun b => b.withData k list (16 * cnt) fun l b =>
      let rs := rangeEntries l cnt
      let gs := sumN (rs.map (·.2))
      b.fields k none
        [(rangesSpare l cnt && b.dev.rangesOk rs, 8), (b.dev.poolOk (pay p 16 8) rs, 16),
         (if auto then b.dev.destOk dest (imageLen cnt gs 0) else dest == 0, 24)] fun b =>
        b.onD fun (d : Dev) =>
          let x := { Baste.init with
            st := 1, ctx := n, ranges := rs, pool := pay p 16 8, auto := if auto then some dest else none
            jobs := pay p 6 2, costFloor := pay p 32 4 }
          let d : Dev := { (d.setBaste id x) with opens := d.opens ++ [(⟨k, .baste id⟩ : OpenCmd)] }
          if (d.ctx n).st = .running then d else d.protectBaste id

def execBasteTake (c : Ici) (s : State) : Res := s.ici 0x0701 c true fun k b => b.basteTake k c.p

/-- BASTE_GRANULE_COPY: the tracker copies a protected granule for a write that waits. -/
def execBasteGranuleCopy (g : Nat) (s : State) : Res := s.on fun b => b.copyGranule g

/-! ### The image (15 R458, R459) -/

/-- Granules of a Baste in drain order that are still protected. -/
def Baste.left (x : Baste) : List Nat := (x.ranges.flatMap rangeGranules).filter fun g => x.prot.contains g

/-- Granules of the image that the present drain writes: those done, then those left. -/
def Baste.imageGranules (x : Baste) : List Nat := x.done.map (·.1) ++ x.left

/-- Runs of consecutive granules: first granule and number. -/
def granuleRuns : List Nat → List (Nat × Nat)
  | [] => []
  | g :: t => match granuleRuns t with
    | [] => [(g, 1)]
    | (h, n) :: r => if g + 1 = h then (g, n + 1) :: r else (g, 1) :: (h, n) :: r

/-- The ranges of the image: those of the Baste, of which a later drain covers what is left (R460; log 45). -/
def Baste.imageRanges (x : Baste) : List (Nat × Nat) :=
  let gs := x.imageGranules
  x.ranges.flatMap fun r => (granuleRuns ((rangeGranules r).filter gs.contains)).map fun y => (y.1 * granule, y.2)

/-- Where a granule is read: its slot in the pool, or in place (R457). -/
def Baste.source (x : Baste) (g : Nat) : Nat := (get? x.copied g).elim (g * granule) fun i => x.pool + i * granule

/-- Lines of a granule with poison, and its image bytes: poisoned lines are zeros (R459). -/
def Store.granuleLines (s : Store) (a : Nat) : List Nat := (List.range 4096).filter fun i => s.memPoison.contains (a / 64 + i)
def Store.granuleBytes (s : Store) (a : Nat) : List Byte :=
  (List.range 4096).flatMap fun i => if s.memPoison.contains (a / 64 + i) then zeros 64 else s.mem.read (a + 64 * i) 64

/-- Poisoned lines of every granule of the image, as they stand. -/
def Box.poisonCount (b : Box) (x : Baste) : Nat :=
  x.poison.length + sumN (x.left.map fun g => (b.store.granuleLines (x.source g)).length)

/-- The range table, digest table and poison list. -/
def Baste.tables (x : Baste) : List Byte :=
  (x.imageRanges.flatMap fun r => leBytes 8 r.1 ++ leBytes 4 r.2 ++ zeros 4)
    ++ (x.done.flatMap fun g => leBytes 64 g.2.toNat)
    ++ x.poison.flatMap fun e => leBytes 4 e.1 ++ leBytes 2 e.2 ++ zeros 2

/-- The 256 bytes of the header with a manifest. -/
def Dev.basteHeader (d : Dev) (id : Nat) (x : Baste) (manifest : Nat) : List Byte :=
  padTo 256 (asciiBytes "FVKBASTE" ++ leBytes 2 d.fw.pattern.level ++ leBytes 2 d.myId ++ leBytes 1 x.ctx ++ leBytes 1 id ++ zeros 2
    ++ leBytes 8 x.step ++ leBytes 8 x.tape ++ leBytes 4 x.imageRanges.length ++ leBytes 4 x.done.length
    ++ leBytes 4 x.poison.length ++ zeros 4 ++ leBytes 8 x.dataOff ++ leBytes 8 (x.dataOff + x.done.length * granule)
    ++ leBytes 64 manifest)

/-- The header with its MANIFEST. -/
def Dev.signedHeader (d : Dev) (id : Nat) (x : Baste) : List Byte :=
  d.basteHeader id x (sha3Word (d.basteHeader id x 0 ++ x.tables)).toNat

/-! ### Draining (15 R457, R460) -/

/-- Writes image bytes at the destination: companion memory directly; a REMOTE_MAP range by WR packets. -/
def Box.drainWrite (b : Box) (id a : Nat) (l : List Byte) : Box :=
  if inCompanion a l.length then b.wrClean a l
  else
    let dev := ((b.dev.remoteOf a l.length).map (·.dev)).getD 0xFFFF
    let reqs := (pieces 6 (linesOf a l.length)).map fun ls =>
      ({ kind := 3, tag := 0, dev := dev, addr := (ls.headD 0) * 64, len := 64 * ls.length, act := none, ctx := 16 + id, port := none } : RemoteReq)
    let b := (b.onS fun s => s.wrMem a (clean l)).onD fun d => { d with fab := { d.fab with waitWr := d.fab.waitWr ++ reqs } }
    b.pumpWrites reqs.length

/-- A write of the drain is not acknowledged yet. -/
def Dev.drainBusy (d : Dev) (id : Nat) : Bool := d.fab.remote.any (·.ofDrain id) || d.fab.waitWr.any (·.ofDrain id)

/-! ### The suggested interval (15 R463) -/

/-- The integer square root. -/
def isqrt (n : Nat) : Nat :=
  ((List.range 128).reverse).foldl (fun r i => if (r + 2 ^ i) * (r + 2 ^ i) ≤ n then r + 2 ^ i else r) 0

/-- C in ns. -/
def Baste.cost (x : Baste) : Nat := max (1000 * x.costFloor) (x.delay + x.copyWait)
/-- M in ns, rounded down. -/
def Dev.mtbf (d : Dev) (x : Baste) : Nat := (d.health.hours + 50000) * 3600000000000 / ((d.health.faults + 1) * x.jobs)

/-- The last 16 STEP_END completions of a context: time they span and intervals. -/
def Ctx.stepSpan (c : Ctx) : Nat × Nat := (c.stepTapes.getLastD 0 - c.stepTapes.headD 0, c.stepTapes.length - 1)

/-- ⌊T / D⌋ of exact quantities: the square root of 2 C M k² / S², with D = S / k. -/
def Dev.suggest (d : Dev) (x : Baste) (s k : Nat) : Nat :=
  max 1 (isqrt (2 * x.cost * (d.health.hours + 50000) * 3600000000000 * (k * k) / ((d.health.faults + 1) * x.jobs * (s * s))))

/-- After a DRAINED Baste: event 0xC807 at a change; without two completions there is no interval. -/
def Dev.interval (d : Dev) (x : Baste) : Dev :=
  let sp := (d.ctx x.ctx).stepSpan
  if sp.1 = 0 ∨ sp.2 = 0 then d
  else
    let v := min (2 ^ 32 - 1) (d.suggest x sp.1 sp.2)
    let old := d.health.interval
    let d := { d with health := { d.health with interval := v, stepUs := sp.1 / sp.2 / 1000 } }
    if v = old then d else d.evFw 0xC807 (some x.ctx) [v, x.cost, d.mtbf x, sp.1 / sp.2]

/-! ### BASTE_GRANULE_DRAINED: the drain moves on by one item -/

/-- What was written last is acknowledged: a granule loses its protection and its slot; the tables let the header follow; the
header makes the Baste DRAINED, event 0xC801. -/
def Box.drainAck (b : Box) (id : Nat) (x : Baste) : Box :=
  if x.phase = 0 then
    match x.cur with
    | some g =>
      let a := x.source g
      let i := x.done.length
      let x := { x with
        prot := x.prot.filter (· != g), copied := del x.copied g, drained := x.drained + 1, cur := none
        done := x.done ++ [(g, sha3Word (b.store.granuleBytes a))]
        poison := x.poison ++ (b.store.granuleLines a).map fun n => (i, n) }
      b.onD fun d => d.setBaste id { x with phase := if x.left.isEmpty then 1 else 0 }
    | none => b
  else if x.phase = 1 then b.onD fun d => d.setBaste id { x with phase := 2, cur := none }
  else b.onD fun d =>
    let d := d.setBaste id { x with st := 4, prot := [], copied := [], cur := none, phase := 0 }
    let d := d.evFw 0xC801 none [id, x.dest.getD 0, x.dataOff + x.done.length * granule, (d.now - x.drainStart) / 1000, x.copies, x.copyWait]
    let d := d.endOpens (fun o => match o.kind with | .baste j => j == id && o.cmd.opc == 0x0702 | _ => false) 0 0
    d.interval x

/-- Writes the next item. DATA_OFF is fixed at the start of the drain by the poisoned lines of that moment; an image whose
tables no longer fit fails (log 45). -/
def Box.drainNext (b : Box) (id : Nat) (x : Baste) : Box :=
  let dest := x.dest.getD 0
  let n := x.imageGranules.length
  let x := if x.phase = 0 ∧ x.done.isEmpty then
      { x with dataOff := dataOffset x.imageRanges.length n (b.poisonCount x) } else x
  if !b.dev.destOk dest (x.dataOff + n * granule) then b.onD fun d => d.failDrain id 2
  else if x.phase = 0 then
    match x.left with
    | g :: _ =>
      let b := b.onD fun d => d.setBaste id { x with cur := some g }
      b.drainWrite id (dest + x.dataOff + x.done.length * granule) (b.store.granuleBytes (x.source g))
    | [] => b.onD fun d => d.setBaste id { x with phase := 1 }
  else if x.phase = 1 then
    if x.dataOff < 256 + x.tables.length then b.onD fun d => d.failDrain id 2
    else (b.onD fun d => d.setBaste id { x with cur := some 0 }).drainWrite id (dest + 256) x.tables
  else (b.onD fun d => d.setBaste id { x with cur := some 0 }).drainWrite id dest (b.dev.signedHeader id x)

/-- One step of a drain. `fail`: the destination refused the last write with a status. A drain waits while a write is not
acknowledged, and while any Spool is in Trip. -/
def Box.drainStep (b : Box) (id : Nat) (fail : Option Nat) : Box :=
  let x := b.dev.baste id
  if x.st ≠ 3 ∨ b.dev.power.hold ∨ (List.range 8).any (fun m => (b.dev.spool m).therm == 4) then b
  else if x.cur.isSome then
    match fail with
    | some st => b.onD fun d => d.failDrain id st
    | none =>
      if b.dev.drainBusy id then b
      else
        let b := b.drainAck id x
        let y := b.dev.baste id
        if y.st = 3 then b.drainNext id y else b
  else b.drainNext id x

def execBasteGranuleDrained (id : Fin 16) (fail : Option (Fin 8)) (s : State) : Res :=
  s.on fun b => if b.dev.powered then b.drainStep id.val (fail.map (·.val)) else b

/-! ### BASTE_DRAIN, BASTE_RELEASE, BASTE_QUERY -/

def Box.basteDrain (k : Pend) (p : BitVec 384) (b : Box) : Box :=
  let id := payBits p 0 0 4
  let x := b.dev.baste id
  let n := x.left.length
  b.fields k none
    [(x.st == 2, 0), (b.dev.destOk (pay p 8 8) (imageLen x.imageRanges.length n (b.poisonCount x)), 8)]
    fun b => b.onD fun d =>
      let d := d.setBaste id { x with
        st := 3, dest := some (pay p 8 8), drainStart := d.now, done := [], poison := [], phase := 0, cur := none, dataOff := 0 }
      { d with opens := d.opens ++ [(⟨k, .baste id⟩ : OpenCmd)] }

def execBasteDrain (c : Ici) (s : State) : Res := s.ici 0x0702 c true fun k b => b.basteDrain k c.p

def execBasteRelease (c : Ici) (s : State) : Res :=
  s.ici 0x0704 c true fun k b => b.onD fun d =>
    let id := payBits c.p 0 0 4
    let st := (d.baste id).st
    let d := if 1 ≤ st ∧ st ≤ 3 then d.abandonBaste id 3 else d
    (d.setBaste id .init).okCmd k

/-- The 64 bytes of BASTE_QUERY; the places of its items are the model's (log 41). -/
def Dev.basteInfo (d : Dev) (id : Nat) : List Byte :=
  let x := d.baste id
  padTo 64 (leBytes 1 x.st ++ leBytes 1 x.ctx ++ zeros 6 ++ leBytes 8 x.step ++ leBytes 4 (sumN (x.ranges.map (·.2))) ++ leBytes 4 x.drained
    ++ leBytes 4 x.copies ++ zeros 4 ++ leBytes 8 x.copyWait ++ leBytes 8 x.delay ++ leBytes 4 d.health.interval)

def execBasteQuery (c : Ici) (s : State) : Res :=
  s.ici 0x0705 c (inSpools (pay c.p 8 8)) fun k b =>
    b.giveBytes k none 8 (pay c.p 8 8) fun d => d.basteInfo (payBits c.p 0 0 4)

/-! ### BASTE_RESTORE (15 R461, R470) -/

/-- The targets of an image's granules: range bases plus the relocation delta. -/
def restoreTargets (rs : List (Nat × Nat)) (delta : Int) : List Int :=
  rs.flatMap fun r => (List.range r.2).map fun i => (r.1 : Int) + (i * granule : Nat) + delta

/-- A target granule lies in a host region and is not protected. -/
def Dev.targetOk (d : Dev) (a : Int) : Bool :=
  decide (0 ≤ a) && a.toNat % granule == 0 && (d.regionOf a.toNat granule).isSome
    && !d.bastes.any fun e => (e.2.st == 2 || e.2.st == 3) && e.2.prot.contains (a.toNat / granule)

/-- The header and tables fit each other: counts, offsets and length. -/
def imageOk (h : List Byte) (t : List Byte) (rs : List (Nat × Nat)) : Bool :=
  let g := leAt h 36 4
  sumN (rs.map (·.2)) == g && leAt h 48 8 == dataOffset rs.length g (leAt h 40 4) && leAt h 56 8 == leAt h 48 8 + g * granule
    && t.length == 16 * rs.length + 64 * g + 8 * leAt h 40 4

/-- Restores granules from index `i` on: compares each digest and writes the granule; a mismatch leaves the rest
undefined. -/
def Box.restoreFrom (b : Box) (k : Pend) (a off digests : Nat) (t : List Byte) (verify : Bool) : List Int → Nat → Box × Bool
  | [], _ => (b, true)
  | x :: xs, i =>
    let l := bytesOf (b.store.rdMem (a + off + i * granule) granule)
    if sha3_512 l = (t.drop (digests + 64 * i)).take 64 then
      let b := if verify then b else b.wrClean x.toNat l
      b.restoreFrom k a off digests t verify xs (i + 1)
    else
      let b := if verify then b else (x :: xs).foldl (fun b y => b.onS fun s => s.undefMem y.toNat granule) b
      (b.fail k 0xC805 none [(a : Int), (i : Int)] (BitVec.ofNat 32 i), false)

/-- Poisoned lines of the image get the mark. -/
def Box.markPoison (b : Box) (targets : List Int) (l : List Byte) (n : Nat) : Box :=
  (List.range n).foldl (fun b e =>
    match targets[leAt l (8 * e) 4]? with
    | some x => b.onS fun s => s.poisonMem (x.toNat / 64 + leAt l (8 * e + 4) 2 % 4096)
    | none => b) b

/-- BASTE_RESTORE with the header and tables at hand. -/
def Box.restoreWith (b : Box) (k : Pend) (a : Nat) (delta : Int) (verify : Bool) (h t : List Byte) : Box :=
  let rs := rangeEntries t (leAt h 32 4)
  let g := leAt h 36 4
  let pois := leAt h 40 4
  let targets := restoreTargets rs delta
  let head := h.take 64 ++ zeros 64 ++ h.drop 128
  if sha3_512 (head ++ t) ≠ (h.drop 64).take 64 then b.fail k 0xC805 none [(a : Int), (0xFFFFFFFF : Int)] 0xFFFFFFFF
  else b.fields k none [(imageOk h t rs, 0), (targets.all b.dev.targetOk, 8)] fun b =>
    b.withAddr k none 0 a (leAt h 56 8) 1 false fun b =>
      let off := leAt h 48 8
      let bad := firstPoison (a + off) (b.store.rdMem (a + off) (g * granule))
      if bad < a + off + g * granule then b.onD fun d => d.poisonedCmd k (bad / 64 * 64)
      else
        let r := b.restoreFrom k a off (16 * rs.length) t verify targets 0
        if !r.2 then r.1
        else
          let b := if verify then r.1 else r.1.markPoison targets (t.drop (16 * rs.length + 64 * g)) pois
          (b.onD fun d => d.evFw 0xC804 none [a, leAt h 10 2, leAt h 16 8, g]).ok k 0 (BitVec.ofNat 64 (leAt h 16 8))

def Box.basteRestore (k : Pend) (p : BitVec 384) (b : Box) : Box :=
  let a := pay p 0 8
  let delta := (BitVec.ofNat 64 (pay p 8 8)).toInt
  b.fields k none [(b.dev.liveCtxs.isEmpty, 0), (delta % (granule : Int) == 0, 8)] fun b =>
    b.withAddr k none 0 a 256 1 false fun b => b.withData k a 256 fun h b =>
      let lvl := leAt h 8 2
      let n := 16 * leAt h 32 4 + 64 * leAt h 36 4 + 8 * leAt h 40 4
      b.fields k none [(h.take 8 == asciiBytes "FVKBASTE", 0), (b.dev.levels.1 ≤ lvl && lvl ≤ b.dev.levels.2, 0)] fun b =>
        b.withAddr k none 0 (a + 256) n 1 false fun b => b.withData k (a + 256) n fun t b =>
          b.restoreWith k a delta (payBits p 16 0 1 == 1) h t

def execBasteRestore (c : Ici) (s : State) : Res := s.ici 0x0703 c true fun k b => b.basteRestore k c.p

end Sys2Proof.Machine
end

