-- ==== Sys2Proof/Machine/Configs.lean ====
section
/-! DEFINITION. Configuration and query commands of groups 0x0A to 0x0C: Press slots and programs, sequence slots, Chalk
(09 R292 to R296; 10 R313 to R319; 08 R264 to R266). -/

namespace Sys2Proof.Machine

/-- Counts as 32-bit values in a 64-byte record. -/
def countBytes (t : Tbl Nat) (n : Nat) : List Byte := padTo 64 ((List.range n).flatMap fun i => leBytes 4 (getD t i 0))

/-! ### Press slots and programs (09 R292 to R295) -/

/-- Event 0xC008 for a field of an entry: context, opcode, entry index, field. -/
def Box.badEntry (b : Box) (k : Pend) (ctx : Nat) (i : Nat) (field : Int) : Box := b.fail k 0xC008 (some ctx) [k.opc, i, field]

def w32At (e : BitVec 512) (byte : Nat) : W32 := BitVec.ofNat 32 (fld e (8 * byte) 32)

/-- Neither NaN nor below zero; a zero of either sign is not negative. -/
def notNeg (w : W32) : Bool := !B32.isNan w && !B32.lt w 0
def finiteNotNeg (w : W32) : Bool := B32.isFinite w && notNeg w
/-- From 0 to 1. -/
def unitRange (w : W32) : Bool := notNeg w && !B32.lt 0x3F800000 w
/-- 0 ≤ w < 1. -/
def belowOne (w : W32) : Bool := notNeg w && B32.lt w 0x3F800000

/-- The first field of a slot entry that breaks R292. -/
def slotFault (e : BitVec 512) : Option Int :=
  let kind := fld e 0 8
  let checks : List (Bool × Int) :=
    [(decide (kind ≤ 3), 0), (fld e 13 3 == 0, fieldItem 1 5), (decide (if kind = 3 then fld e 16 8 ≤ 15 else fld e 16 8 = 0), 2),
     (fld e 24 8 == 0, 3), (finiteNotNeg (w32At e 4), 4), (belowOne (w32At e 8), 8), (belowOne (w32At e 12), 12),
     (finiteNotNeg (w32At e 16), 16), (finiteNotNeg (w32At e 20), 20), (unitRange (w32At e 24), 24), (B32.isFinite (w32At e 28), 28),
     (B32.isFinite (w32At e 32) && B32.lt 0 (w32At e 32), 32), (unitRange (w32At e 36), 36), (unitRange (w32At e 40), 40),
     (fld e 368 144 == 0, 46)]
  (checks.find? fun x => !x.1).map (·.2)

/-- Registers of a Press that an operation may write (09 R285). -/
def pressWritable (d : Nat) : Bool := d == 0 || d == 2 || d == 3 || (24 ≤ d && d ≤ 31)

/-- The first field of a program entry that breaks R293. -/
def progFault (e : BitVec 1536) : Option Int :=
  let n := fld e 1280 8
  let word := (List.range 32).find? fun i =>
    let w := fld e (32 * i) 32
    if i < n then !(1 ≤ w % 256 && w % 256 ≤ 15 && pressWritable (w / 256 % 32) && w / 2 ^ 28 == 0) else w != 0
  if n = 0 ∨ 32 < n then some 160
  else if fld e 1288 248 ≠ 0 then some 161
  else word.map fun i => ((4 * i : Nat) : Int)

/-- Commands that need a context in LOADED or RUNNING. -/
def Dev.settable (d : Dev) (n : Nat) : Bool := (d.ctx n).st == .loaded || (d.ctx n).st == .running

/-- In LOADED an entry takes effect at once, in RUNNING at the next step boundary. -/
def Ctx.setSlots (c : Ctx) (es : List (Nat × BitVec 512)) : Ctx :=
  if c.st = .running then { c with slotPend := c.slotPend ++ es }
  else { c with slots := es.foldl (fun t e => upd t e.1 ⟨0, 0, 0⟩ fun o => o.place e.2 false) c.slots }

def entry512 (l : List Byte) (i : Nat) : BitVec 512 := BitVec.ofNat 512 (leNat ((l.drop (64 * i)).take 64))

def Box.pressSlotSet (k : Pend) (p : BitVec 384) (b : Box) : Box :=
  let n := payBits p 0 0 3
  let first := pay p 1 1
  let cnt := pay p 2 1
  b.fields k (some n) [(b.dev.settable n, 0), (decide (cnt ≤ 64), 2), (decide (first + cnt ≤ 64), 2)] fun b =>
    if cnt = 0 then b.ok k
    else b.withAddr k (some n) 8 (pay p 8 8) (64 * cnt) 64 false fun b => b.withData k (pay p 8 8) (64 * cnt) fun l b =>
      let es := (List.range cnt).map fun i => (first + i, entry512 l i)
      match es.find? fun e => (slotFault e.2).isSome with
      | some e => b.badEntry k n (e.1 - first) ((slotFault e.2).getD 0)
      | none => b.onD fun d => (d.updCtx n fun c => c.setSlots es).okCmd k

def execPressSlotSet (c : Ici) (s : State) : Res :=
  s.ici 0x0A01 c (inSpools (pay c.p 8 8)) fun k b => b.pressSlotSet k c.p

def Ctx.setProg (c : Ctx) (i : Nat) (e : BitVec 1536) : Ctx :=
  if c.st = .running then { c with progPend := c.progPend ++ [(i, e)] } else { c with progs := put c.progs i e }

def Box.pressProgramSet (k : Pend) (p : BitVec 384) (b : Box) : Box :=
  let n := payBits p 0 0 3
  let i := pay p 1 1
  b.fields k (some n) [(b.dev.settable n, 0), (decide (i ≤ 15), 1)] fun b =>
    b.withAddr k (some n) 8 (pay p 8 8) 192 64 false fun b => b.withData k (pay p 8 8) 192 fun l b =>
      let e := BitVec.ofNat 1536 (leNat l)
      match progFault e with
      | some f => b.badEntry k n 0 f
      | none => b.onD fun d => (d.updCtx n fun c => c.setProg i e).okCmd k

def execPressProgramSet (c : Ici) (s : State) : Res :=
  s.ici 0x0A02 c (inSpools (pay c.p 8 8)) fun k b => b.pressProgramSet k c.p

/-- A slot entry with the current P1 and P2 in bytes 36 to 43 (09 R296). -/
def OSlot.bytes (o : OSlot) : List Byte :=
  let l := leBytes 64 o.e.toNat
  l.take 36 ++ leBytes 4 o.p1.toNat ++ leBytes 4 o.p2.toNat ++ l.drop 44

def Box.pressSlotQuery (k : Pend) (p : BitVec 384) (b : Box) : Box :=
  let n := payBits p 0 0 3
  let first := pay p 1 1
  let cnt := pay p 2 1
  b.fields k (some n) [((b.dev.ctx n).st != .empty, 0), (decide (cnt ≤ 64), 2), (decide (first + cnt ≤ 64), 2)] fun b =>
    if cnt = 0 then b.ok k
    else b.giveBytes k (some n) 8 (pay p 8 8) fun d =>
      (span first cnt).flatMap fun i => (getD (d.ctx n).slots i ⟨0, 0, 0⟩).bytes

def execPressSlotQuery (c : Ici) (s : State) : Res :=
  s.ici 0x0A03 c (inSpools (pay c.p 8 8)) fun k b => b.pressSlotQuery k c.p

def execPressCounts (c : Ici) (s : State) : Res :=
  s.ici 0x0A04 c (inSpools (pay c.p 8 8)) fun k b =>
    let n := payBits c.p 0 0 3
    b.fields k (some n) [((b.dev.ctx n).st != .empty, 0)] fun b =>
      b.giveBytes k (some n) 8 (pay c.p 8 8) fun d => countBytes (d.ctx n).counts.press 6

/-! ### Sequence slots (10 R313 to R318) -/

def SeqAssignment.holds (a : SeqAssignment) (q : Nat) : Bool := a.first ≤ q && q < a.first + a.count
def SeqSt.assigned (s : SeqSt) (q : Nat) : Option SeqAssignment := s.assigns.find? (·.holds q)

/-- 0xFFFF names none. -/
def named (v : Nat) : Option Nat := if v = 0xFFFF then none else some v

def Dev.mirrorFits (d : Dev) (v cnt : Nat) : Bool := v == 0xFFFF || (d.native v).any fun t => mirrorOk t cnt

/-- The lengths of an assignment's slots become 0. -/
def SeqSt.assign (s : SeqSt) (a : SeqAssignment) : SeqSt :=
  { assigns := s.assigns ++ [a], slots := (span a.first a.count).foldl (fun t q => put t q ⟨0, 0, 0⟩) s.slots }

def Box.seqAssign (k : Pend) (p : BitVec 384) (b : Box) : Box :=
  let n := payBits p 0 0 3
  let first := pay p 1 1
  let cnt := pay p 2 2
  let lmax := pay p 4 4
  let mir := pay p 8 2
  let tot := pay p 10 2
  let base := pay p 12 2
  b.fields k (some n) [((b.dev.ctx n).st == .loaded, 0), (decide (first + cnt ≤ 256), 2)] fun b =>
    if cnt = 0 then b.ok k
    else b.fields k (some n)
      [((span first cnt).all fun q => (b.dev.seq.assigned q).isNone, 1), (decide (1 ≤ lmax ∧ lmax < 2 ^ 31), 4),
       (b.dev.mirrorFits mir cnt, 8), (decide (tot ≤ 4095 ∨ tot = 0xFFFF), 10), (decide (base + cnt - 1 ≤ 4095 ∨ base = 0xFFFF), 12)]
      fun b => b.onD fun d =>
        let a : SeqAssignment := { ctx := n, first := first, count := cnt, lmax := lmax, mirror := named mir, total := named tot, base := named base }
        ({ d with seq := d.seq.assign a } : Dev).okCmd k

def execSeqAssign (c : Ici) (s : State) : Res := s.ici 0x0B01 c false fun k b => b.seqAssign k c.p

/-- The range covers exactly whole assignments of the context. -/
def SeqSt.coversWhole (s : SeqSt) (n first cnt : Nat) : Bool :=
  (span first cnt).all fun q => (s.assigned q).any fun a => a.ctx == n && first ≤ a.first && a.first + a.count ≤ first + cnt

def Box.seqRelease (k : Pend) (p : BitVec 384) (b : Box) : Box :=
  let n := payBits p 0 0 3
  let first := pay p 1 1
  let cnt := pay p 2 2
  let st := (b.dev.ctx n).st
  b.fields k (some n) [(st == .empty || st == .loaded, 0), (decide (first + cnt ≤ 256), 2)] fun b =>
    if cnt = 0 then b.ok k
    else b.fields k (some n) [(b.dev.seq.coversWhole n first cnt, 1)] fun b => b.onD fun d =>
      ({ d with seq := { d.seq with assigns := d.seq.assigns.filter fun a => !(first ≤ a.first && a.first < first + cnt) } } : Dev).okCmd k

def execSeqRelease (c : Ici) (s : State) : Res := s.ici 0x0B02 c false fun k b => b.seqRelease k c.p

/-- Stage entries and the first field of one that breaks R318, as byte offset within the entry; the reserved bytes of an entry
are ignored (00 R10). -/
def stageEntries (l : List Byte) (n : Nat) : List StageE :=
  (List.range n).map fun i => { slot := leAt l (16 * i) 1, len := leAt l (16 * i + 4) 4, tag := BitVec.ofNat 64 (leAt l (16 * i + 8) 8) }

def SeqSt.stageFault (s : SeqSt) (n : Nat) (es : List StageE) : Option Int :=
  (List.range es.length).findSome? fun i =>
    let e := es.getD i ⟨0, 0, 0⟩
    match (s.assigned e.slot).filter (·.ctx == n) with
      | none => some 0
      | some a => if (es.take i).any (·.slot == e.slot) then some 0 else if a.lmax < e.len then some 4 else none

def Box.seqStage (k : Pend) (p : BitVec 384) (b : Box) : Box :=
  let n := payBits p 0 0 3
  let cnt := pay p 4 2
  b.fields k (some n) [(b.dev.settable n, 0), (decide (cnt ≤ 256), 4)] fun b =>
    if cnt = 0 then b.ok k
    else b.fields k (some n) [(decide ((b.dev.ctx n).stages.length < 4), 0)] fun b =>
      b.withAddr k (some n) 8 (pay p 8 8) (16 * cnt) 64 false fun b => b.withData k (pay p 8 8) (16 * cnt) fun l b =>
        let es := stageEntries l cnt
        match b.dev.seq.stageFault n es with
        | some f => b.bad k (some n) f
        | none => b.onD fun d => (d.updCtx n fun c => { c with stages := c.stages ++ [es] }).okCmd k

def execSeqStage (c : Ici) (s : State) : Res :=
  s.ici 0x0B03 c (inSpools (pay c.p 8 8)) fun k b => b.seqStage k c.p

/-- A query entry of a sequence slot. -/
def Dev.seqEntry (d : Dev) (q : Nat) : List Byte :=
  match d.seq.assigned q with
  | none => padTo 32 (leBytes 1 q)
  | some a =>
    let x := getD d.seq.slots q ⟨0, 0, 0⟩
    padTo 32 (leBytes 1 q ++ leBytes 1 (a.ctx + 8) ++ leBytes 1 (d.ctx a.ctx).stages.length ++ zeros 1 ++ leBytes 4 x.len
      ++ leBytes 4 a.lmax ++ leBytes 4 x.step ++ leBytes 8 x.tag.toNat)

def Box.seqQuery (k : Pend) (p : BitVec 384) (b : Box) : Box :=
  let first := pay p 0 1
  let cnt := pay p 2 2
  b.fields k none [(decide (first + cnt ≤ 256), 2)] fun b =>
    if cnt = 0 then b.ok k else b.giveBytes k none 8 (pay p 8 8) fun d => (span first cnt).flatMap d.seqEntry

def execSeqQuery (c : Ici) (s : State) : Res :=
  s.ici 0x0B04 c (inSpools (pay c.p 8 8)) fun k b => b.seqQuery k c.p

def execRouteQuery (c : Ici) (s : State) : Res :=
  s.ici 0x0B05 c (inSpools (pay c.p 8 8)) fun k b =>
    let n := payBits c.p 0 0 3
    b.fields k (some n) [((b.dev.ctx n).st != .empty, 0)] fun b =>
      b.giveBytes k (some n) 8 (pay c.p 8 8) fun d => countBytes (d.ctx n).counts.route 7

/-! ### Chalk and sparsity (08 R264 to R266) -/

def Box.chalkConfig (k : Pend) (p : BitVec 384) (b : Box) : Box :=
  let n := payBits p 0 0 3
  let first := pay p 2 2
  let cnt := pay p 4 2
  b.fields k (some n) [(b.dev.settable n, 0), (decide (first + cnt ≤ 256), 4)] fun b =>
    if cnt = 0 then b.ok k
    else b.fields k (some n)
      [(decide (payBits p 6 0 4 ≤ 10), 6), (unitRange (BitVec.ofNat 32 (pay p 8 4)), 8), (notNeg (BitVec.ofNat 32 (pay p 12 4)), 12)]
      fun b => b.onD fun d => (d.updCtx n fun c =>
        if c.st = .running then { c with chalkPend := c.chalkPend ++ [p] } else c.chalkApply p).okCmd k

def execChalkConfig (c : Ici) (s : State) : Res := s.ici 0x0C01 c false fun k b => b.chalkConfig k c.p

/-- A query entry of a layer. -/
def Ctx.chalkEntry (c : Ctx) (i : Nat) : List Byte :=
  let l := getD c.chalk i .init
  padTo 32 (leBytes 4 l.sumP ++ leBytes 4 l.aud ++ leBytes 4 l.miss ++ leBytes 4 l.unaud ++ leBytes 4 (boolN l.flag) ++ leBytes 4 c.step)

def Box.chalkQuery (k : Pend) (p : BitVec 384) (b : Box) : Box :=
  let n := payBits p 0 0 3
  let first := pay p 2 2
  let cnt := pay p 4 2
  b.fields k (some n) [((b.dev.ctx n).st != .empty, 0), (decide (first + cnt ≤ 256), 4)] fun b =>
    if cnt = 0 then b.ok k
    else b.giveBytes k (some n) 8 (pay p 8 8) fun d => (span first cnt).flatMap fun i => (d.ctx n).chalkEntry i

def execChalkQuery (c : Ici) (s : State) : Res :=
  s.ici 0x0C02 c (inSpools (pay c.p 8 8)) fun k b => b.chalkQuery k c.p

def execSparseQuery (c : Ici) (s : State) : Res :=
  s.ici 0x0C03 c (inSpools (pay c.p 8 8)) fun k b =>
    let n := payBits c.p 0 0 3
    b.fields k (some n) [((b.dev.ctx n).st != .empty, 0)] fun b =>
      b.giveBytes k (some n) 8 (pay c.p 8 8) fun d => countBytes (d.ctx n).counts.sparse 9

end Sys2Proof.Machine
end

