-- ==== Sys2Proof/Machine/Control.lean ====
section
/-! DEFINITION. The control instructions: branches, STOP, ABORT, FENCE, SWLD and KWAIT, the watchdog and the end of a run
(05 R158, R159, R161, R165, R167, R168). -/

namespace Sys2Proof.Machine

def execJmp (cs : CS) (w : W64) (s : State) : Res :=
  s.onDev fun d => d.issue cs w 0x02 fun d => d.updStream cs fun s => s.jump (Insn.simm w)

/-- lc[SD[1:0]] += 1; the branch is taken while it is below s[SB], unsigned. -/
def execLoop (cs : CS) (w : W64) (s : State) (same : Bool := false) : Res :=
  s.onDev fun d => d.issueS cs w same 0x03 fun d =>
    let v := (d.stream cs).lcr (Insn.sd w % 4) + 1
    let d1 := d.updStream cs fun s => s.setLcr (Insn.sd w % 4) v
    if v.toNat < (d.seen cs (Insn.sb w)).toNat then d1.updStream cs fun s => s.jump (Insn.simm w) else d1.advance cs

def execStop (cs : CS) (w : W64) (s : State) : Res :=
  s.onDev fun d => d.issue cs w 0x06 fun d => d.updStream cs fun s => { s with ended := true, wait := none }

/-- Event 0xE013; the context stops as SCHED_STOP at once does. A stream that no context uses ends. -/
def Box.abort (b : Box) (cs : CS) (w : W64) : Box :=
  let n := (b.dev.stream cs).ctx
  let b := b.onD fun d => (d.updStream cs fun s => { s with ended := true }).ev 0xE013 (boltOf cs.core) n
    [b.dev.coreSlot cs.core, cs.st.num, Insn.imm w % 65536]
  n.elim b fun n => b.stopNow n .aborted

def execAbort (cs : CS) (w : W64) (s : State) : Res :=
  s.on fun b =>
    if b.dev.presented cs w 0x07 then
      (if (b.dev.stream cs).guard w then b.abort cs w else b.onD fun d => d.advance cs)
    else b

/-- FENCE completes when no earlier action of the stream is launched and incomplete. -/
def execFence (cs : CS) (w : W64) (s : State) : Res :=
  s.onDev fun d => d.issue cs w 0x09 fun d => if (d.stream cs).acts.isEmpty then d.advance cs else d

/-- SWLD of slot IMM[11:0]: waits until it is ready. -/
def Box.swld (b : Box) (cs : CS) (w : W64) (same : Bool) : Box :=
  let slot := Insn.imm w % 4096
  match (b.dev.stream cs).ctx with
  | none => b.onD fun d => d.waitOn cs false slot
  | some n =>
    let c := b.dev.ctx n
    if !c.shapeReady slot then b.onD fun d => d.waitOn cs false slot
    else
      let b := b.onD fun d => ((d.reach cs same).setSreg cs (Insn.sd w) (c.shapeValue slot)).advance cs
      b.touchShape n slot (boltOf cs.core) (b.dev.coreSlot cs.core)

def execSwld (cs : CS) (w : W64) (s : State) (same : Bool := false) : Res :=
  s.on fun b =>
    if b.dev.presented cs w 0x30 then
      (if (b.dev.stream cs).guard w then b.swld cs w same else b.onD fun d => d.advance cs)
    else b

def execKwait (cs : CS) (w : W64) (s : State) (same : Bool := false) : Res :=
  s.onDev fun d => d.issueS cs w same 0x41 fun d =>
    let g := (d.knotOperand cs w).setWidth 16
    if d.released (Insn.kid w) g then d.advance cs else d.waitOn cs true (Insn.kid w)

/-! ### The watchdog (05 R167) -/

/-- WATCHDOG of a context in ns; 0 disables the check. -/
def Dev.watchdog (d : Dev) (n : Nat) : Nat := ((d.ctx n).img.map (·.watchdog)).getD 0 * 1000

def Dev.expired (d : Dev) (n since : Nat) (raised : Bool) : Bool :=
  let x := d.watchdog n
  x != 0 && since + x < d.now && !raised

/-- The wait of the instruction that is next, and the waits of launched KARRWs, each reported once. -/
def Dev.watch (d : Dev) (cs : CS) : Dev :=
  let s := d.stream cs
  match s.ctx with
  | none => d
  | some n =>
    let slots := fun (pc item : Nat) => ([d.coreSlot cs.core, (cs.st.num : Int), (pc : Int), (item : Int)] : List Int)
    let d1 := match s.wait with
      | some x => if d.expired n x.since x.raised then
          (d.updStream cs fun s => { s with wait := some { x with raised := true } }).ev 0xE012 (boltOf cs.core) (some n)
            (slots s.pc x.item) else d
      | none => d
    let late := s.acts.filter fun a =>
      Insn.opc a.w == 0x42 && a.gen.isSome && !d.released (Insn.kid a.w) (a.gen.getD 0) && d.expired n a.since a.raised
    late.foldl (fun d a => (d.updAction ⟨cs, a.id⟩ fun a => { a with raised := true }).ev 0xE012 (boltOf cs.core) (some n)
      (slots a.index (Insn.kid a.w))) d1

def execStreamWatchdog (cs : CS) (s : State) : Res := s.onDev fun d => d.watch cs

/-! ### The end of a run (05 R168, R174) -/

/-- Every stream of the context has ended. -/
def Dev.allEnded (d : Dev) (n : Nat) : Bool :=
  (d.ctx n).streams.all fun x => let s := (d.core x.1).stream x.2.1; s.ctx == some n && s.ended && s.nxt.isNone

/-- How a context that has nothing left to do ends its run: at a stop that took effect, or with every stream ended. -/
def Dev.endingOf (d : Dev) (n : Nat) : Option Ending :=
  let c := d.ctx n
  if !c.live || !(d.actsOf n).isEmpty then none
  else if c.stop = some 2 then some (c.stopFault.elim (.stopped 0) .fault)
  else if d.allEnded n then some .ended
  else none

def execRunEnd (ctx : Fin 8) (s : State) : Res :=
  s.on fun b =>
    match b.dev.endingOf ctx with
    | none => b
    | some how =>
      (b.finishRun ctx how (if (b.dev.ctx ctx).stopCmds.isEmpty then 0 else 0x0303)).tryRetire

end Sys2Proof.Machine
end

