-- ==== Sys2Proof/Machine/Suites.lean ====
section
/-! DEFINITION. Known-answer suites: TEST_RUN, TEST_RESULT, the result records, and what a failure does (15 R445, R451;
17 R521 to R523). -/

namespace Sys2Proof.Machine

/-! ### Result records (17 R523) -/

def testKey (kind number : Nat) : Nat := kind * 65536 + number

/-- Bits of SUITES that apply to a target KIND. -/
def suitesOf (kind : Nat) : List Nat := if kind ≤ 1 then [0, 1, 2] else if kind = 2 then [3, 4, 5] else [6]

def suiteMask (l : List Nat) : Nat := sumN (l.map fun i => 2 ^ i)

/-- How a run of suites went: the first failing suite, the failing engine's number in its die, the failing case. -/
structure TestFault where
  suite : Nat
  engine : Nat
  case : Nat
deriving DecidableEq, Repr

/-- The 64 bytes of a result record; the duration is a free value (log 49). -/
def testBytes (kind number mask origin tape dur : Nat) (fault : Option TestFault) : List Byte :=
  padTo 64 (leBytes 1 kind ++ leBytes 1 (boolN fault.isSome) ++ leBytes 2 number ++ leBytes 4 mask
    ++ leBytes 1 (fault.elim 0xFF (·.suite)) ++ leBytes 1 origin ++ leBytes 2 (fault.elim 0xFFFF (·.engine))
    ++ leBytes 4 (fault.elim 0 (·.case)) ++ leBytes 8 tape ++ leBytes 4 dur)

/-- A target that was never tested. -/
def neverRun (kind number : Nat) : List Byte :=
  padTo 64 (leBytes 1 kind ++ leBytes 1 2 ++ leBytes 2 number ++ zeros 4 ++ leBytes 1 0xFF ++ zeros 1 ++ leBytes 2 0xFFFF)

/-- Duration, failing engine and failing case are free values (log 49). -/
def Dev.testDuration (d : Dev) : Nat := (Config.freeWord d.mb.head 0x5220).toNat
def Dev.testEngine (d : Dev) : Nat := (Config.freeWord d.mb.head 0x5221).toNat
def Dev.testCase (d : Dev) : Nat := (Config.freeWord d.mb.head 0x5222).toNat

def Dev.testRecord (d : Dev) (kind number mask origin : Nat) (fault : Option TestFault) : BitVec 512 :=
  BitVec.ofNat 512 (leNat (testBytes kind number mask origin d.now d.testDuration fault))

/-- Keeps the record of a run. -/
def Dev.keepTest (d : Dev) (kind number mask origin : Nat) (fault : Option TestFault) : Dev :=
  { d with tests := put d.tests (testKey kind number) (d.testRecord kind number mask origin fault) }

/-! ### Targets (17 R522) -/

/-- Bolt and logical cluster that a cluster target is in service as. -/
def Dev.targetCluster (d : Dev) (kind number : Nat) : Option (Nat × Nat) :=
  if kind = 0 then some (number / 16, number % 16)
  else
    let b := d.bolt (number / 18)
    ((List.range 16).find? fun k => b.phys k == number % 18 && !b.out.contains k).map fun k => (number / 18, k)

def targetCount (kind : Nat) : Nat := if kind = 0 then 384 else if kind = 1 then 432 else if kind = 2 then 8 else 4

/-- The condition of R522 on a target. -/
def Dev.targetFree (d : Dev) (kind number : Nat) : Bool :=
  if kind ≤ 1 then (d.targetCluster kind number).elim true fun t => (d.usersOf t.1 t.2).isEmpty else d.liveCtxs.isEmpty

/-- The engine that a failing suite of a base die or Selvage names. -/
def Dev.failedEngine (d : Dev) (number suite : Nat) : Option Engine :=
  let e := d.testEngine
  let m := Fin.ofNat 8 number
  if suite = 3 then some (if e / 16 % 2 = 0 then .gme m (Fin.ofNat 16 e) else .serger m (Fin.ofNat 16 e))
  else if suite = 4 then some (.press m (Fin.ofNat 8 e))
  else if suite = 6 then some (.reduction (Fin.ofNat 32 (number * 8 + e % 8)))
  else none

/-- The engine's number in its die, as the result record gives it. -/
def engineNumber : Option Engine → Nat → Nat
  | some e, _ => (hungIds e).2.2
  | none, n => n % 65536

/-- What a failure makes of its target: 0 its cluster becomes due, 1 its engine is disabled, 2 nothing. -/
def Dev.testAction (d : Dev) (kind number suite : Nat) : Nat :=
  if kind ≤ 1 then (if (d.targetCluster kind number).isSome then 0 else 2)
  else if (d.failedEngine number suite).isSome then 1 else 2

def Box.testFailed (b : Box) (kind number suite : Nat) : Box :=
  if kind ≤ 1 then (b.dev.targetCluster kind number).elim b fun t => b.due t.1 t.2 4
  else match b.dev.failedEngine number suite with
    | none => b
    | some e => if b.dev.engineOut e then b else b.onD fun d => d.disableEngine e

/-- The SCRATCH suite leaves every bank of a cluster powered down, which loses its content (06 R187). -/
def Store.scratchLost (s : Store) (cl : Nat) : Store := s.lostScr (scrAddr (16 * cl) 0 0) (16 * 2097152)

/-- Runs the suites of a target, keeps the record and raises event 0xD00A or 0xD00B. -/
def Box.runTest (b : Box) (k : Pend) (kind number mask : Nat) : Box :=
  let n := b.dev.mb.head
  let run := (suitesOf kind).filter fun i => mask.testBit i
  let b := match b.dev.targetCluster kind number with
    | some t => if kind ≤ 1 ∧ run.contains 2 then b.onS fun s => s.scratchLost (16 * t.1 + t.2) else b
    | none => b
  match run.find? fun i => !Config.suitePass n kind number i with
  | none => b.onD fun d =>
      ((d.keepTest kind number (suiteMask run) 0 none).evFw 0xD00A none [kind, number, suiteMask run, d.testDuration]).okCmd k 0 0
  | some i =>
    let d := b.dev
    let e := engineNumber (if kind = 2 ∨ kind = 3 then d.failedEngine number i else none) d.testEngine
    let f : TestFault := { suite := i, engine := e, case := d.testCase }
    let act := d.testAction kind number i
    let b := (b.onD fun d =>
      (d.keepTest kind number (suiteMask run) 0 (some f)).evFw 0xD00B none [kind, number, i, e, f.case, act])
    (b.testFailed kind number i).ok k 0 1

def Box.testRun (k : Pend) (p : BitVec 384) (b : Box) : Box :=
  let kind := pay p 0 1
  let act := pay p 1 1
  let number := pay p 2 2
  b.fields k none
    [(decide (kind ≤ 3), 0), (act == 0 || (act == 1 && kind == 0), 1), (decide (number < targetCount kind), 2),
     (b.dev.targetFree kind number, 2)] fun b =>
    if act = 1 then (b.due (number / 16) (number % 16) 5).ok k else b.runTest k kind number (pay p 4 4)

def execTestRun (c : Ici) (s : State) : Res := s.ici 0x0904 c true fun k b => b.testRun k c.p

def Dev.testInfo (d : Dev) (kind number : Nat) : List Byte :=
  (get? d.tests (testKey kind number)).elim (neverRun kind number) fun r => leBytes 64 r.toNat

def execTestResult (c : Ici) (s : State) : Res :=
  s.ici 0x0905 c (inSpools (pay c.p 8 8)) fun k b =>
    b.fields k none [(decide (pay c.p 0 1 ≤ 3), 0), (decide (pay c.p 2 2 < targetCount (pay c.p 0 1)), 2)] fun b =>
      b.giveBytes k none 8 (pay c.p 8 8) fun d => d.testInfo (pay c.p 0 1) (pay c.p 2 2)

/-! ### SPARE_SUITES_DONE (15 R446, R447) -/

/-- The candidate spare of a due cluster has run its suites: the cluster may be remapped to it, or the spare is retired
with event 0x700C and the next one is tried. -/
def Box.spareTested (b : Box) (bolt k : Nat) (ok : Bool) : Box :=
  let d := b.dev
  match d.retireDue.find? fun r => r.bolt == bolt && r.k == k && r.spare.isNone with
  | none => b
  | some r =>
    match d.candidate r with
    | none => b
    | some p =>
      if !d.serving then b
      else if d.power.hold then b.onD fun d => d.wakeFor 5 0
      else
        let phys := 18 * bolt + p
        let f : TestFault := { suite := d.testEngine % 3, engine := d.testEngine / 4 % 65536, case := d.testCase }
        let b := b.onD fun d => d.keepTest 1 phys 7 3 (if ok then none else some f)
        if ok then
          (b.onD fun d => { d with retireDue := d.retireDue.map fun x => if x = r then { x with spare := some p } else x }).tryRetire
        else
          (b.onD fun d =>
            let d := d.updBolt bolt fun x => { x with spares := x.spares.filter (· != p) }
            let d : Dev := { d with health := { d.health with retired := d.health.retired ++ [phys] } }
            (d.evFw 0x700C none [bolt, p]).refreshAdvice).settleDue

def execSpareSuitesDone (b : Fin 24) (k : Fin 16) (ok : Bool) (s : State) : Res := s.on fun x => x.spareTested b.val k.val ok

/-! ### The suites of a boot (15 R451; 16 R483) -/

/-- What failed at boot: kind 0 a logical cluster, 1 a physical spare cluster, 2 a GME, 3 a Serger, 4 a Press, 5 a
reduction unit, 6 the SHA3 engines of a Spool; with its device-wide number. -/
def bootEngine (f : Nat × Nat) : Option Engine :=
  if f.1 = 2 then some (.gme (Fin.ofNat 8 (f.2 / 16)) (Fin.ofNat 16 f.2))
  else if f.1 = 3 then some (.serger (Fin.ofNat 8 (f.2 / 16)) (Fin.ofNat 16 f.2))
  else if f.1 = 4 then some (.press (Fin.ofNat 8 (f.2 / 8)) (Fin.ofNat 8 f.2))
  else if f.1 = 5 then some (.reduction (Fin.ofNat 32 f.2))
  else none

/-- The target that a boot failure belongs to, and its suite. -/
def bootTarget (f : Nat × Nat) : Nat × Nat × Nat :=
  if f.1 ≤ 1 then (f.1, f.2, 0)
  else if f.1 = 2 ∨ f.1 = 3 then (2, f.2 / 16, 3)
  else if f.1 = 4 then (2, f.2 / 8, 4)
  else if f.1 = 5 then (3, f.2 / 8, 6)
  else (2, f.2, 5)

/-- The targets tested at boot: logical clusters in service, spares, base dies, Selvages, in the order of their keys. -/
def Dev.bootTargets (d : Dev) : List (Nat × Nat) :=
  ((List.range 384).filter fun c => !(d.bolt (c / 16)).out.contains (c % 16)).map (fun c => (0, c))
    ++ ((List.range 432).filter fun p => (d.bolt (p / 18)).spares.contains (p % 18)).map (fun p => (1, p))
    ++ (List.range 8).map (fun m => (2, m)) ++ (List.range 4).map fun s => (3, s)

def Dev.bootFault (d : Dev) (fails : List (Nat × Nat)) (t : Nat × Nat) : Option TestFault :=
  (fails.find? fun f => (bootTarget f).1 == t.1 && (bootTarget f).2.1 == t.2).map fun f =>
    { suite := if f.1 ≤ 1 then d.testEngine % 3 else (bootTarget f).2.2
      engine := engineNumber (bootEngine f) (d.testEngine / 4), case := d.testCase }

/-- The records of the suites that ran at boot. -/
def Dev.bootTests (d : Dev) (fails : List (Nat × Nat)) : Dev :=
  { d with tests := d.bootTargets.map fun t =>
      (testKey t.1 t.2, d.testRecord t.1 t.2 (suiteMask (suitesOf t.1)) 1 (d.bootFault fails t)) }

/-- What each failure at boot does: its cluster becomes due, its spare is retired, its engine is disabled. -/
def Box.bootFailed (b : Box) (f : Nat × Nat) : Box :=
  if f.1 = 0 then b.due (f.2 / 16) (f.2 % 16) 4
  else if f.1 = 1 then
    if (b.dev.bolt (f.2 / 18)).spares.contains (f.2 % 18) then
      (b.onD fun d =>
        let d := d.updBolt (f.2 / 18) fun x => { x with spares := x.spares.filter (· != f.2 % 18) }
        let d : Dev := { d with health := { d.health with retired := d.health.retired ++ [f.2] } }
        d.evFw 0x700C none [f.2 / 18, f.2 % 18]).settleDue
    else b
  else match bootEngine f with
    | none => b
    | some e => if b.dev.engineOut e then b else b.onD fun d => d.disableEngine e

end Sys2Proof.Machine
end

