-- ==== Sys2Proof/Machine/Updates.lean ====
section
/-! DEFINITION. Writing the boot flash, live updates of both firmwares, and authorisation tokens (16 R478, R479, R491 to
R498). -/

namespace Sys2Proof.Machine

/-! ### Writing the boot flash (16 R478, R479) -/

def slotBase (f kind : Nat) : Nat := flashBase f + (if kind = 1 then 0x10000 else 0x200000)

/-- A directory with its CRC. -/
def dirBytes (gen tlen plen : Nat) : List Byte :=
  let l := asciiBytes "FVKFLASH" ++ leBytes 8 gen ++ leBytes 4 tlen ++ leBytes 4 plen ++ zeros 36
  l ++ leBytes 4 (crc32c l)

def FwSt.putFlash (w : FwSt) (a : Nat) (l : List Byte) : FwSt := { w with flash := w.flash.write a l }

/-- An image in its slot, and its length in the directory; the CRC of a valid directory follows (log 46). -/
def FwSt.putImage (w : FwSt) (f kind : Nat) (l : List Byte) : FwSt :=
  let dir := w.dir f
  let tlen := if kind = 1 then l.length else leAt dir 16 4
  let plen := if kind = 1 then leAt dir 20 4 else l.length
  let dir' := if w.dirValid f then dirBytes (leAt dir 8 8) tlen plen
    else dir.take 16 ++ leBytes 4 tlen ++ leBytes 4 plen ++ dir.drop 24
  (w.putFlash (slotBase f kind) l).putFlash (flashBase f) dir'

/-- Makes a flash preferred: its directory gets a GEN one above the other flash's. -/
def FwSt.makePreferred (w : FwSt) (f : Nat) : FwSt :=
  let other := if w.dirValid (1 - f) then w.dirGen (1 - f) else 0
  w.putFlash (flashBase f) (dirBytes (other + 1) (leAt (w.dir f) 16 4) (leAt (w.dir f) 20 4))

/-- PERSIST: a set goes to the non-preferred flash, is read back, and that flash becomes preferred (16 R492). -/
def Dev.persistSet (d : Dev) (thimble pattern : FwImg) : Dev × Bool :=
  let f := 1 - d.fw.prefer
  let d := { d with fw := (d.fw.putImage f 1 thimble.bytes).putImage f 2 pattern.bytes }
  let r := d.checkSet f
  if r.2 = 0 then ({ r.1 with fw := r.1.fw.makePreferred f }, true) else (r.1, false)

/-- RAISE_SVN: the fused minimum of a kind rises to an image's SVN, event 0x800C. -/
def Dev.raiseSvn (d : Dev) (kind svn : Nat) : Dev :=
  let old := d.fw.svnMin kind
  let fw := if kind = 1 then { d.fw with svnThimble := max old svn } else { d.fw with svnPattern := max old svn }
  { d with fw := fw }.evTh 0x800C [kind, old, svn]

/-! ### The end of an update (16 R492, R493, R495) -/

/-- The roots that take part, from a Selvage upward with wrap. -/
def Dev.rootsFrom (d : Dev) (s : Nat) : List Nat := ((List.range 4).map fun i => (s + i) % 4).filter (bitOf d.fw.roots ·)

/-- The signing root: that of the active Cutter's Selvage, or the next while it restarts (16 R490). -/
def Dev.signRoot (d : Dev) : Nat :=
  ((d.rootsFrom d.cutterNo).find? fun s => (d.fw.upd.bind (·.root)) != some s).getD d.cutterNo

def Dev.thimbleImg (d : Dev) : FwImg := getD d.fw.rootImg d.signRoot .none

/-- A rotation that was deferred during the update becomes due (16 R492). -/
def Dev.heldRotation (d : Dev) : Dev :=
  match d.cutter.held with
  | none => d
  | some r =>
    let d := { d with cutter := { d.cutter with held := none, rotDue := some r } }
    if d.lowestRunning.isNone then d.rotate r else d

def isUpdateCmd (o : OpenCmd) : Bool := match o.kind with | .update => true | _ => false

/-- The update is over: its command completes. -/
def Dev.endUpdate (d : Dev) (status event : Nat) : Dev :=
  let d := { d with fw := { d.fw with upd := none }, cutter := { d.cutter with rotDue := none } }
  (d.endOpens isUpdateCmd status event).heldRotation

def Dev.updateSucceeds (d : Dev) (u : Update) : Dev :=
  let r := if u.persist then d.persistSet (if u.thimble then u.new else d.thimbleImg) (if u.thimble then d.fw.pattern else u.new)
    else (d, false)
  let d := r.1
  let done := boolN r.2
  let d :=
    if u.thimble then
      { d with fw := { d.fw with mThimble := u.new.meas } }.evTh 0x8009
        [u.old.version.toNat, u.new.version.toNat, u.new.svn, done]
    else d.evTh 0x8007 [u.old.version.toNat, u.new.version.toNat, u.new.level, u.new.svn, done]
  let d := if u.raiseSvn then d.raiseSvn (if u.thimble then 1 else 2) u.new.svn else d
  d.endUpdate 0 0

/-- Events 0x8008 and 0x800A: the step of the update and the reason (0 a takeover, 1 a self-test), and whether the old image
was restored (log 47). -/
def Dev.updateFails (d : Dev) (u : Update) (sel step reason : Nat) (rolled : Bool) : Dev :=
  if u.thimble then (d.evTh 0x800A [sel, step, reason, boolN rolled]).endUpdate 1 0x800A
  else (d.evTh 0x8008 [step, reason, boolN rolled]).endUpdate 1 0x8008

/-- Every Cutter or root that counts runs the wanted image. -/
def Dev.updateDone (d : Dev) (u : Update) : Bool :=
  if u.thimble then (List.range 4).all fun s => !bitOf d.fw.roots s || getD d.fw.rootImg s .none == u.target
  else d.fw.pattern == u.target && (List.range 4).all fun s => getD d.cutter.st s 3 == 3 || getD d.fw.cutImg s .none == u.target

/-- The next root in ascending order that lacks the wanted image restarts (16 R494, R495). -/
def Dev.rootStep (d : Dev) (u : Update) : Dev :=
  let s := (List.range 4).find? fun s => bitOf d.fw.roots s && getD d.fw.rootImg s .none != u.target
  { d with fw := { d.fw with upd := some { u with root := s } } }

/-- A Cutter that restarts with the wanted image. -/
def Dev.restarting (d : Dev) (u : Update) : Bool :=
  (List.range 4).any fun s => getD d.cutter.st s 3 == 2 && getD d.fw.cutImg s .none == u.target

/-- The update moves on as far as it can. -/
def Dev.advanceUpdate (d : Dev) : Dev :=
  match d.fw.upd with
  | none => d
  | some u =>
    let d := if u.thimble then d.rootStep u else d.updateStep
    let d := if !u.thimble && d.cutter.rotDue.isSome && d.lowestRunning.isNone then d.rotate 0 else d
    if d.updateDone u && (u.thimble || !d.restarting u) then
      match u.fail with
      | none => d.updateSucceeds u
      | some (s, step, reason) => d.updateFails u s step reason true
    else d

/-- The update fails: the old image is restored wherever the new one runs. -/
def Dev.rollBack (d : Dev) (sel step reason : Nat) : Dev :=
  match d.fw.upd with
  | none => d
  | some u =>
    if u.fail.isSome then d.advanceUpdate
    else { d with fw := { d.fw with upd := some { u with fail := some (sel, step, reason) } }
                  cutter := { d.cutter with rotDue := none } }.advanceUpdate

/-- The step of R491 that a Pattern update is in: 1 before the rotation, 3 after it. -/
def Dev.patternStep (d : Dev) (u : Update) : Nat := if d.fw.pattern = u.new then 3 else 1

/-- A Cutter leaves service, OUT (2) or RETIRED (3). -/
def Dev.cutterOut (d : Dev) (c st : Nat) : Dev :=
  let a := if d.cutter.active = some c then none else d.cutter.active
  let w := if d.cutter.claim = some c then none else d.cutter.claim
  { d with cutter := { d.cutter with st := put d.cutter.st c st, active := a, claim := w } }

/-- ROOT_RESTART_DONE: a restarted root has tested itself and compared its identity. A root that fails with the new image
returns to the old one; one that fails with the old image takes no further part (16 R485, R494, R495). -/
def Dev.rootBack (d : Dev) (c : Nat) (ok : Bool) : Dev :=
  match d.fw.upd with
  | none => d
  | some u =>
    if u.root ≠ some c then d
    else
      let d0 : Dev := { d with fw := { d.fw with upd := some { u with root := none } } }
      if ok then { d0 with fw := { d0.fw with rootImg := put d0.fw.rootImg c u.target } }.advanceUpdate
      else if u.fail.isNone then { d0 with fw := { d0.fw with rootImg := put d0.fw.rootImg c u.new } }.rollBack c 1 1
      else
        let d := (d0.evTh 0x8005 [c, 1]).cutterOut c 3
        { d with fw := { d.fw with roots := d.fw.roots &&& ~~~(BitVec.ofNat 4 (2 ^ c)) } }.advanceUpdate.refreshAdvice

def execRootRestartDone (c : Fin 4) (ok : Bool) (s : State) : Res := s.onDev fun d => d.rootBack c.val ok

/-! ### Authorisation tokens (16 R497) -/

/-- Why a token is rejected: 0 format, 1 key, 2 signature, 3 challenge. -/
def Dev.tokenFault (d : Dev) (l : List Byte) (purpose : Nat) : Option Nat :=
  let dur := leAt l 12 4
  let okDur := if purpose = 1 then decide (1 ≤ dur ∧ dur ≤ 86400) else dur == 0
  let pub := (l.drop 64).take 2592
  if !(l.take 8 == asciiBytes "FVKAUTHZ" && leAt l 8 1 == purpose && okDur && allZero l 9 3 && allZero l 48 16 && allZero l 7283 13)
    then some 0
  else if (keyIndex d.fw.authKeys d.fw.authRevoked pub).isNone then some 1
  else if !Config.mldsaVerify pub (l.take 64) ((l.drop 2656).take 4627) then some 2
  else if leAt l 16 32 ≠ (Config.challenge d.fw.challenge).toNat then some 3
  else none

/-- The number of the key that signed a token. -/
def Dev.tokenKey (d : Dev) (l : List Byte) : Nat := (keyIndex d.fw.authKeys d.fw.authRevoked ((l.drop 64).take 2592)).getD 0

/-- With an accepted token, draws a new challenge and goes on; a rejected one raises event 0x800F. -/
def Box.withToken (b : Box) (k : Pend) (a purpose : Nat) (f : List Byte → Nat → Box → Box) : Box :=
  b.withData k a 7296 fun l b =>
    match b.dev.tokenFault l purpose with
    | some r => b.onD fun d => (d.evTh 0x800F [leAt l 8 1, r]).complete k 1 0x800F
    | none =>
      let key := b.dev.tokenKey l
      f l key (b.onD fun d => { d with fw := { d.fw with challenge := d.fw.challenge + 1 } })

end Sys2Proof.Machine
end

