-- ==== Sys2Proof/Machine/Cutters.lean ====
section
/-! DEFINITION. The Cutters: heartbeat, claim, takeover, failure, rejoining, bare mode, rotation; containment, sampling and
health commands (15 R439, R443, R444, R464 to R473; 14 R423, R429, R430). -/

namespace Sys2Proof.Machine

/-- Pattern or bare mode: the device has reported ready. -/
def Dev.up (d : Dev) : Bool := (d.ready || d.bare) && d.powered

/-! ### Failure and self-test (15 R466) -/

/-- An event that the Thimble root of a Selvage reports. -/
def Dev.evRoot (d : Dev) (code s : Nat) (slots : List Int) : Dev := d.raise code (dieSelvage s) true none slots

/-- A Cutter fails: it is OUT, or RETIRED when it failed within the last 24 hours. -/
def Dev.cutterFails (d : Dev) (c : Nat) (ev : W16) : Dev :=
  let again := (get? d.cutter.failedAt c).any fun t => decide (d.now < t + 86400000000000)
  let d : Dev := { d with cutter := { d.cutter with failedAt := put d.cutter.failedAt c d.now, lastEv := ev } }
  let d := d.cutterOut c (if again then 3 else 2)
  if again then (d.evRoot 0x7002 c [c, 1]).advanceUpdate else d

def Dev.cutterState (d : Dev) (c : Nat) : Nat := getD d.cutter.st c 2

def execCutterFailure (c : Fin 4) (ev : W16) (s : State) : Res :=
  s.onDev fun d => if d.up && decide (d.cutterState c.val ≤ 1) then (d.cutterFails c.val ev).refreshAdvice else d

/-- A standby's rank (15 R464). -/
def Dev.rankOf (d : Dev) (c : Nat) : Nat := (c + 4 - d.cutterNo) % 4

/-- CUTTER_REJOIN: the self-test of a restarted Cutter ends. It waits while the root of its Selvage restarts (16 R494). -/
def Dev.rejoin (d : Dev) (c : Nat) (ok : Bool) : Dev :=
  if !d.up || d.cutterState c != 2 || !bitOf d.fw.roots c || (d.fw.upd.bind (·.root)) == some c then d
  else if ok then
    let d : Dev := { d with cutter := { d.cutter with st := put d.cutter.st c 1 } }
    ((d.evRoot 0x7003 c [c, d.rankOf c]).refreshAdvice).advanceUpdate
  else
    let d := ((d.cutterOut c 3).evRoot 0x7002 c [c, 0]).refreshAdvice
    match d.fw.upd with
    | some u =>
      if !u.thimble && u.fail.isNone && (getD d.fw.cutImg c .none) == u.new then d.rollBack c (d.patternStep u) 1
      else d.advanceUpdate
    | none => d

def execCutterRejoin (c : Fin 4) (ok : Bool) (s : State) : Res := s.onDev fun d => d.rejoin c.val ok

/-! ### The baton (15 R464, R465) -/

def execBatonHeartbeat (s : State) : Res :=
  s.onDev fun d => if d.up && d.cutter.active.isSome then { d with cutter := { d.cutter with lastHb := d.now } } else d

/-- BATON_CLAIM: a standby of rank r that has heard nothing for 2 + r ms takes the baton, unless it is taken. A Cutter that
is still ACTIVE has failed by its silence (log 50). -/
def Dev.claimBaton (d : Dev) (c : Nat) : Dev :=
  if !(d.ready && d.powered) || d.cutterState c != 1 || d.cutter.claim.isSome || d.now < d.cutter.lastHb + (2 + d.rankOf c) * 1000000
    then d
  else
    let d := match d.cutter.active with
      | some a => d.cutterFails a 0x7001
      | none => d
    { d with cutter := { d.cutter with claim := some c } }

def execBatonClaim (c : Fin 4) (s : State) : Res := s.onDev fun d => d.claimBaton c.val

/-- The commands of a queue that the failed Cutter held: accepted ones without a completion, then fetched ones; the
completion of a SCHED_RUN whose run goes on is not among them (14 R423). -/
def Dev.heldCmds (d : Dev) (q : Nat) : List Pend :=
  (d.opens.map (·.cmd) ++ d.ctxs.flatMap fun e => e.2.stopCmds).filter (·.q == q)
    ++ ((d.queue q).accepted ++ (d.queue q).fetched).map (entryPend q)

/-- DISCARDED completions of one queue, with event 0x1005. -/
def Dev.discardQueue (d : Dev) (q : Nat) : Dev :=
  let l := d.heldCmds q
  let d := d.updQueue q fun x => { x with accepted := [], fetched := [] }
  match l with
  | [] => d
  | k :: _ =>
    let d := d.evFw 0x1005 none [q, l.length, k.tag.toNat, ((l.getLast?).getD k).tag.toNat]
    l.foldl (fun d k => d.complete k 5 0x1005) d

def Dev.discardAll (d : Dev) : Dev :=
  let d := (List.range 9).foldl Dev.discardQueue d
  { d with opens := [], ctxs := d.ctxs.map fun e => (e.1, { e.2 with stopCmds := [] }) }

/-- What a takeover means for a Pattern update: a new ACTIVE Cutter with the old image ends it, with a rollback once the
new image was active (16 R493). -/
def Dev.takeoverUpdate (d : Dev) (c : Nat) (wasNew : Bool) : Dev :=
  match d.fw.upd with
  | some u =>
    if u.thimble || u.fail.isSome || d.fw.pattern == u.new then d.advanceUpdate
    else if wasNew then d.rollBack c 3 0 else d.updateFails u c 1 0 false
  | none => d

/-- CUTTER_TAKEOVER: the winner of the baton becomes ACTIVE. -/
def Dev.takeover (d : Dev) (c : Nat) : Dev :=
  if !(d.ready && d.powered) || d.cutter.claim != some c || d.cutter.active.isSome then d
  else
    let old := d.cutter.lastActive
    let quiet := (d.now - d.cutter.lastHb) / 1000
    let n := sumN ((List.range 9).map fun q => (d.heldCmds q).length)
    let wasNew := d.fw.upd.any fun u => d.fw.pattern == u.new
    let d := (d.becomeActive c).discardAll
    (d.evFw 0x7001 none [old, c, n, quiet]).takeoverUpdate c wasNew

def execCutterTakeover (c : Fin 4) (s : State) : Res := s.onDev fun d => d.takeover c.val

/-! ### Bare mode (14 R429, R430; 15 R467) -/

/-- No Cutter is ACTIVE 20 ms after the last heartbeat, or none is ACTIVE or STANDBY. -/
def Dev.noCutter (d : Dev) : Bool :=
  (d.cutter.active.isNone && decide (d.cutter.lastHb + 20000000 ≤ d.now)) || (List.range 4).all fun s => 2 ≤ d.cutterState s

def Dev.runningMask (d : Dev) : Nat := sumN (d.liveCtxs.map fun n => 2 ^ n)

def Dev.enterBare (d : Dev) : Dev :=
  let d : Dev := { d with yoke := { d.yoke with mode := 2, bareTape := d.now, bareCause := d.cutter.lastEv } }
  let d := (List.range 9).foldl (fun d q => d.updQueue q fun x => { x with halted := true }) d
  (d.setDevirq 0).ev 0x100D (dieSelvage 0) none [d.now, d.runningMask]

def execBareModeEntry (s : State) : Res :=
  s.on fun b => if b.dev.ready && b.dev.powered && b.dev.noCutter then (b.onD Dev.enterBare).flushMsgs else b

/-! ### Planned rotation (15 R468; 16 R492) -/

/-- A rotation falls due: at once when no context runs, else at the next step boundary; deferred during an update. -/
def Dev.requestRotation (d : Dev) (reason : Nat) : Dev :=
  if d.fw.upd.isSome then { d with cutter := { d.cutter with held := some reason } }
  else if d.lowestRunning.isNone then d.rotate reason
  else { d with cutter := { d.cutter with rotDue := some reason } }

def Dev.rotationDue (d : Dev) : Bool :=
  d.serving && d.powered && d.cutter.period != 0 && decide (d.cutter.lastRot + d.cutter.period * 3600000000000 ≤ d.now)
    && d.cutter.rotDue.isNone && d.cutter.held.isNone

def execCutterRotationPeriod (s : State) : Res := s.onDev fun d => if d.rotationDue then d.requestRotation 1 else d

def Box.cutterRotate (k : Pend) (p : BitVec 384) (b : Box) : Box :=
  let act := pay p 0 1
  b.fields k none [(decide (act ≤ 1), 0), (decide (pay p 2 2 ≤ 8760), 2)] fun b => b.onD fun d =>
    if act = 0 then (d.requestRotation 0).okCmd k
    else ({ d with cutter := { d.cutter with period := pay p 2 2 } } : Dev).okCmd k

def execCutterRotate (c : Ici) (s : State) : Res := s.ici 0x0708 c false fun k b => b.cutterRotate k c.p

/-! ### CONTAIN_CONFIG, SHADOW_CONFIG, HEALTH_QUERY (15 R439, R443, R444, R471, R473) -/

def execContainConfig (c : Ici) (s : State) : Res :=
  s.ici 0x0706 c false fun k b => b.onD fun d => ({ d with containReset := bitOf c.p 0 } : Dev).okCmd k

/-- The new configuration; the limits apply to the strikes that stand. -/
def Box.shadowConfig (k : Pend) (p : BitVec 384) (b : Box) : Box :=
  b.fields k none
    [(decide (pay p 0 1 ≤ 20), 0), (decide (1 ≤ pay p 2 2 ∧ pay p 2 2 ≤ 255), 2), (decide (1 ≤ pay p 4 2 ∧ pay p 4 2 ≤ 255), 4),
     (decide (1 ≤ pay p 8 4 ∧ pay p 8 4 ≤ 8760), 8), (decide (10 ≤ pay p 12 4 ∧ pay p 12 4 ≤ 1000000), 12)] fun b =>
    let b := b.onD fun d => { d with shadow := { d.shadow with
      rate := pay p 0 1, idle := bitOf p 8, strikeLimit := pay p 2 2, unresLimit := pay p 4 2, window := pay p 8 4
      interval := pay p 12 4, seed := BitVec.ofNat 64 (pay p 16 8) } }
    ((b.dev.cores.map (·.1)).foldl Box.checkStrikes b).ok k

def execShadowConfig (c : Ici) (s : State) : Res := s.ici 0x0707 c false fun k b => b.shadowConfig k c.p

def Dev.strikeCounts (d : Dev) : List Nat := d.cores.map fun e => d.strikesIn e.1 false + d.strikesIn e.1 true

def Dev.failingChans (d : Dev) : Nat :=
  sumN (d.spools.map fun e => (e.2.chans.filter fun c => c.2.role == 4).length)

/-- The health record. -/
def Dev.healthBytes (d : Dev) : List Byte :=
  let cut := sumN ((List.range 4).map fun s => d.cutterState s * 4 ^ s)
  padTo 64 (leBytes 4 d.health.hours ++ leBytes 4 d.health.faults ++ leBytes 8 d.rdSpares ++ leBytes 1 cut ++ zeros 1
    ++ leBytes 2 d.health.retired.length ++ leBytes 2 (d.strikeCounts.filter (· != 0)).length ++ leBytes 2 d.failingChans
    ++ leBytes 4 (sumN d.strikeCounts) ++ leBytes 4 d.health.advice.toNat ++ leBytes 4 d.health.interval ++ leBytes 4 d.health.stepUs
    ++ leBytes 8 d.now)

def execHealthQuery (c : Ici) (s : State) : Res :=
  s.ici 0x0709 c (inSpools (pay c.p 8 8)) fun k b => b.giveBytes k none 8 (pay c.p 8 8) Dev.healthBytes

end Sys2Proof.Machine
end

