-- ==== Sys2Proof/Machine/Descs.lean ====
section
/-! DEFINITION. Descriptor commands, group 0x02: creation checks, destruction, copy pairs, and the forerunner page table
(07 R194, R201 to R210, R215, R217, R225, R226). -/

namespace Sys2Proof.Machine

/-! ### Creation checks (07 R201, R202, R204, R225) -/

/-- What a creation check answers: event and what follows the index. -/
abbrev DescFault := Nat × List Int

/-- Bytes that must be 0: of sizes and strides at or above RANK, and the reserved bits of the sharding word. -/
def dReserved (x : Desc) : List (Nat × Nat) :=
  (if 1 ≤ dRank x ∧ dRank x ≤ 6 then
    ((span (dRank x) (6 - dRank x)).map fun i => (8 + 4 * i, dSize x i))
      ++ ((span (dRank x) (6 - dRank x)).map fun i => (32 + 4 * i, (dStride x i).natAbs)) else [])
  ++ [(63, dShardRes x)]

/-- In forerunner form the sharding word and BASE bits [51:40] are 0 too. -/
def frReserved (x : Desc) : List (Nat × Nat) :=
  [(5, fld x 40 8), (6, fld x 48 4)] ++ dReserved x ++ ((span 56 8).map fun i => (i, fld x (8 * i) 8))

def firstSet (l : List (Nat × Nat)) : Option Nat := (l.find? fun e => e.2 != 0).map (·.1)

/-- FMT, PLANAR and RANK (03 R102). -/
def dFormatOk (x : Desc) : Bool :=
  fmtValid (dFmt x) && (if dPlanar x then fmtMayPlanar (dFmt x) else !fmtPlanar (dFmt x))
    && decide (1 ≤ dRank x ∧ dRank x ≤ 6)

def dAligned (x : Desc) : Bool :=
  if dPlanar x then dBase x % 64 == 0 && dDense x else dBase x % dEb x == 0

/-- A byte range lies within one host region, or within one grant with read permission, and write permission if asked. -/
def Dev.placed (d : Dev) (first last : Int) (write : Bool) : Bool :=
  decide (0 ≤ first) && decide (last < 2 ^ 52) &&
    (let a := first.toNat
     let n := (last - first + 1).toNat
     (d.regionOf a n).isSome || (!write && d.granted a n false) || d.grants.any fun g => g.covers a n && g.rd && g.wr)

/-- Dimensions of size above 1 by rising |stride|, ties in rising order: |stride|, size, dimension. -/
def insByStride (x : Nat × Nat × Nat) : List (Nat × Nat × Nat) → List (Nat × Nat × Nat)
  | [] => [x]
  | y :: t => if x.1 < y.1 then x :: y :: t else y :: insByStride x t

/-- The dimension at which the alias loop of 07 R202 fails. -/
def aliasAt : List (Nat × Nat × Nat) → Nat → Option Nat
  | [], _ => none
  | (st, sz, i) :: t, reach => if st ≤ reach then some i else aliasAt t (reach + (sz - 1) * st)

def dAliasDim (x : Desc) : Option Nat :=
  aliasAt (((dDims x).filter fun i => 1 < dSize x i).foldl
    (fun l i => insByStride ((dStride x i).natAbs, dSize x i, i) l) []) 0

/-- One axis of the sharding word: DIM, count, coordinate, and the places of the three fields. -/
def axisFault (rank dim n c pd pn pc : Nat) : Option Int :=
  if dim = 7 then (if n ≠ 0 then some (fieldItem (pn / 8) (pn % 8)) else if c ≠ 0 then some (fieldItem (pc / 8) (pc % 8)) else none)
  else if rank ≤ dim then some (fieldItem (pd / 8) (pd % 8))
  else if n = 0 ∨ 8192 < n then some (fieldItem (pn / 8) (pn % 8))
  else if n ≤ c then some (fieldItem (pc / 8) (pc % 8))
  else none

/-- A partial product of the global sizes exceeds 2^64. -/
def productOver : List Nat → Nat → Bool
  | [], _ => false
  | s :: t, p => if 2 ^ 64 < p * s then true else productOver t (p * s)

/-- The field of the sharding word that breaks R204. -/
def shardFault (x : Desc) : Option Int :=
  match axisFault (dRank x) (dXdim x) (dNx x) (dCx x) 0 6 20 with
  | some f => some f
  | none =>
    match axisFault (dRank x) (dYdim x) (dNy x) (dCy x) 3 33 46 with
    | some f => some f
    | none =>
      if 8192 < (if dXdim x = 7 then 1 else dNx x) * (if dYdim x = 7 then 1 else dNy x) then some (fieldItem 0 6)
      else if productOver ((dDims x).map (dGlobal x)) 1 then some (fieldItem 0 0)
      else none

/-- The checks of R201 in its order. -/
def Dev.nativeFault (d : Dev) (x : Desc) : Option DescFault :=
  match firstSet (dReserved x) with
  | some o => some (0x200F, [o])
  | none =>
    if !dFormatOk x then some (0x2001, [dFmt x, boolN (dPlanar x), dRank x])
    else if !dAligned x then some (0x2003, [dBase x])
    else if !dEmpty x && !d.placed (dRange x).1 (dRange x).2 (dWrite x) then some (0x2002, [(dRange x).1, (dRange x).2])
    else match (if !dEmpty x && dWrite x then dAliasDim x else none) with
      | some i => some (0x2004, [i])
      | none => (shardFault x).map fun f => (0x2005, [f])

/-- The checks of R225. -/
def forerunnerFault (x : Desc) : Option DescFault :=
  match firstSet (frReserved x) with
  | some o => some (0x200F, [o])
  | none => if dFormatOk x then none else some (0x2001, [dFmt x, boolN (dPlanar x), dRank x])

/-! ### DESC_CREATE, DESC_DESTROY, DESC_QUERY -/

def tableSize : Nat := 32768

/-- The descriptors of an array. -/
def descArray (l : List Byte) (count : Nat) : List Desc := (List.range count).map fun i => BitVec.ofNat 512 (leAt l (64 * i) 64)

/-- Creates descriptors from index `first` on, or fails at the first that is not valid. -/
def Dev.createDescs (d : Dev) (k : Pend) (first : Nat) (form : Bool) (xs : List Desc) : Dev :=
  let l : List (Nat × Desc) := (span first xs.length).zip xs
  let bad : Option (Nat × DescFault) :=
    l.findSome? fun e => (if form then forerunnerFault e.2 else d.nativeFault e.2).map fun f => (e.1, f)
  match bad with
  | some (i, f) => d.failCmd k f.1 none ((i : Int) :: f.2) (BitVec.ofNat 32 i)
  | none =>
    ({ d with descs := l.foldl (fun (t : Tbl DescEntry) (e : Nat × Desc) => put t e.1 (if form then .forerunner e.2 else .native e.2)) d.descs }).okCmd k

def Box.descCreate (k : Pend) (p : BitVec 384) (b : Box) : Box :=
  let a := pay p 0 8
  let first := pay p 8 2
  let count := pay p 10 2
  b.fields k none [(decide (count ≤ 256), 10)] fun b =>
    b.withAddr k none 0 a (64 * count) 64 false fun b =>
      match (span first count).find? fun i => tableSize ≤ i || has b.dev.descs i with
      | some i => b.fail k 0x2006 none [i] (BitVec.ofNat 32 i)
      | none => b.withData k a (64 * count) fun l b => b.onD fun d => d.createDescs k first (bitOf p 96) (descArray l count)

def execDescCreate (c : Ici) (s : State) : Res :=
  s.ici 0x0201 c (inSpools (pay c.p 0 8) && pay c.p 10 2 != 0) fun k b => b.descCreate k c.p

/-- Who names an entry: a copy pair, or the use list of a RUNNING or STOPPING context. -/
def Dev.descUser (d : Dev) (i : Nat) : Option Nat :=
  match d.descs.find? fun e => match e.2 with | .pair p => fld p 16 16 == i || fld p 32 16 == i | _ => false with
  | some e => some e.1
  | none => d.liveCtxs.find? fun n => (d.ctx n).img.any fun m => m.descs.any (·.idx == i)

/-- DESC_DESTROY: the entries take no further launch and become empty when their launched actions have ended. -/
def Box.descDestroy (k : Pend) (p : BitVec 384) (b : Box) : Box :=
  let first := pay p 0 2
  let count := pay p 2 2
  b.fields k none [(decide (count ≤ tableSize ∧ first + count ≤ tableSize), 2)] fun b => b.onD fun d =>
    match (span first count).findSome? fun i => (d.descUser i).map fun u => (i, u) with
    | some (i, u) => d.failCmd k 0x2007 none [i, u]
    | none =>
      let named := (span first count).filter fun i => has d.descs i
      ({ d with dying := named.foldl addSet d.dying, opens := d.opens ++ [(⟨k, .destroy first count⟩ : OpenCmd)] }).settleDying

def execDescDestroy (c : Ici) (s : State) : Res := s.ici 0x0202 c false fun k b => b.descDestroy k c.p

/-- The 64 bytes of an entry, and its kind (07 R209). -/
def entryBytes : Option DescEntry → List Byte
  | none => zeros 64
  | some (.native x) => leBytes 64 x.toNat
  | some (.forerunner x) => leBytes 64 x.toNat
  | some (.pair p) => leBytes 16 p.toNat ++ zeros 48

def entryKind : Option DescEntry → Nat
  | none => 0
  | some (.native _) => 1
  | some (.forerunner _) => 2
  | some (.pair _) => 3

def execDescQuery (c : Ici) (s : State) : Res :=
  s.ici 0x0203 c (inSpools (pay c.p 8 8)) fun k b =>
    let i := pay c.p 0 2
    let a := pay c.p 8 8
    b.fields k none [(decide (i < tableSize), 0)] fun b =>
      b.withAddr k none 8 a 64 64 true fun b =>
        (b.wrClean a (entryBytes (get? b.dev.descs i))).ok k 0 (BitVec.ofNat 64 (entryKind (get? b.dev.descs i)))

/-! ### PAIR_CREATE (07 R215, R217) -/

/-- PERM field of a dimension. -/
def permAt (p : Nat) (i : Nat) : Nat := p / 2 ^ (3 * i) % 8

/-- The rules of R215 in its order: whether each holds. -/
def pairRules (s t : Desc) (perm : Nat) : List Bool :=
  let r := dRank t
  let l := (List.range r).map (permAt perm)
  [dWrite t, dRank s == r,
   (List.range r).all (fun i => l.contains i) && (span r (6 - r)).all fun i => permAt perm i == 0,
   (List.range r).all fun i => dSize t i == dSize s (permAt perm i), dEmpty s == dEmpty t]

/-- Bytes in which the ranges of two descriptors overlap. -/
def overlapBytes (s t : Desc) : Nat :=
  if dOverlap s t then (min (dRange s).2 (dRange t).2 - max (dRange s).1 (dRange t).1 + 1).toNat else 0

def Dev.pairCreate (d : Dev) (k : Pend) (p : BitVec 384) : Dev :=
  let i := pay p 0 2
  let si := pay p 2 2
  let di := pay p 4 2
  match firstField [(decide (i < tableSize), 0), (decide (si < tableSize), 2), (decide (di < tableSize), 4)] with
  | some byte => d.badField k none byte
  | none =>
    if has d.descs i then d.failCmd k 0x2006 none [i]
    else match d.native si, d.native di with
      | some s, some t =>
        match (((List.range 5).zip (pairRules s t (payBits p 6 0 18))).find? fun x => !x.2) with
        | some x => d.failCmd k 0x2008 none [i, x.1 + 1]
        | none =>
          if 4194304 < overlapBytes s t then d.failCmd k 0x2009 none [i, overlapBytes s t]
          else ({ d with descs := put d.descs i (.pair (BitVec.ofNat 128 (fld p 0 128))) }).okCmd k
      | _, _ => d.failCmd k 0x2008 none [i, 0]

def execPairCreate (c : Ici) (s : State) : Res := s.ici 0x0204 c false fun k b => b.onD fun d => d.pairCreate k c.p

/-! ### The forerunner page table (07 R226) -/

def compatPages : Nat := 524288

/-- Maps pages to consecutive 2 MiB ranges; nothing when one of them is not allowed. -/
def Dev.compatMap (d : Dev) (k : Pend) (p : BitVec 384) : Dev :=
  let first := pay p 0 4
  let count := pay p 4 4
  let a := pay p 8 8
  let wr := bitOf p 129
  let target := fun q => a + (q - first) * unit2M
  if a % unit2M ≠ 0 then d.badField k none 8
  else
    let here := span first (min count (compatPages - first))
    let bad := (here.find? fun q => !d.placed (target q) (target q + unit2M - 1) wr).orElse fun _ =>
      if compatPages < first + count ∧ count ≠ 0 then some (max first compatPages) else none
    match bad with
    | some q => d.failCmd k 0x2002 none [q, target q, target q + unit2M - 1]
    | none =>
      ({ d with compat := here.foldl (fun t q => put t q ⟨target q, bitOf p 128, wr⟩) d.compat }).okCmd k

def execCompatMap (c : Ici) (s : State) : Res := s.ici 0x0205 c false fun k b => b.onD fun d => d.compatMap k c.p

def execCompatUnmap (c : Ici) (s : State) : Res :=
  s.ici 0x0206 c false fun k b => b.onD fun d =>
    let first := pay c.p 0 4
    let n := pay c.p 4 4
    match firstField [(decide (first < compatPages), 0), (decide (first + n ≤ compatPages), 4)] with
    | some byte => d.badField k none byte
    | none => ({ d with compat := d.compat.filter fun e => !(first ≤ e.1 && e.1 < first + n) }).okCmd k

end Sys2Proof.Machine
end

