-- ==== Sys2Proof/Machine/Links.lean ====
section
/-! DEFINITION. Seams as links: bring-up, heartbeats, protocol levels, lanes that leave and retrain, replay, and what the
loss of a Seam does (12 R354 to R366, R395). -/

namespace Sys2Proof.Machine

/-! ### Control bodies (12 R357, R363, R395) -/

def popCount (v : BitVec 4) : Nat := ((List.range 4).filter fun i => bitOf v i).length
def Seam.width (s : Seam) : Nat := popCount s.active
def laneBit (lane : Nat) : BitVec 4 := BitVec.ofNat 4 (2 ^ lane)

/-- The protocol levels that the running Pattern supports (R395). -/
def Dev.lowLevel (d : Dev) : Nat := d.fw.pattern.level - 2
def Dev.highLevel (d : Dev) : Nat := d.fw.pattern.level

/-- The heartbeat body: CTYPE 1, Seam, device ID, levels, active lanes. -/
def Dev.heartbeatBody (d : Dev) (p : Nat) : List Byte :=
  leBytes 1 1 ++ leBytes 1 p ++ leBytes 2 d.myId ++ leBytes 1 d.lowLevel ++ leBytes 1 d.highLevel
    ++ leBytes 1 (d.seam p).active.toNat

def bodyBytes (v : BitVec 1920) : List Byte := leBytes 240 v.toNat

/-- A valid heartbeat body: CTYPE 1 and zeros after its fields. -/
def heartbeatOk (y : List Byte) : Bool := leAt y 0 1 == 1 && leAt y 1 1 < 64 && leAt y 6 1 < 16 && (y.drop 7).all (· == 0)

/-- Enabled and not up: training, or trying again (R356). -/
def Seam.training (s : Seam) : Bool := s.st == 1 || s.st == 3

/-- The Seam's reference clock runs (18 R541). -/
def Dev.seamClock (d : Dev) (p : Nat) : Bool := !bitOf d.power.clocksLost (p / 16)

/-- Sends a heartbeat, which also announces the width (R361). -/
def Dev.sendHeartbeat (d : Dev) (p : Nat) : Dev := d.sendFlit p 2 (d.heartbeatBody p)

/-- HEARTBEAT_SEND: every 10 µs, by a Seam that is up, and by one that is being brought up (R356, R363). -/
def execHeartbeatSend (p : Fin 64) (s : State) : Res :=
  s.onDev fun d =>
    let x := d.seam p.val
    if d.powered && (x.up || x.training && d.seamClock p.val) && x.hbSent + 10000 ≤ d.now then
      (d.sendHeartbeat p.val).updSeam p.val fun x => { x with hbSent := d.now }
    else d

/-! ### A Seam goes down (12 R364 to R366) -/

/-- A routing entry without a Seam. -/
def routeWithout (e : W32) (p : Nat) : W32 :=
  let n := fld e 24 3
  if 4 < n then e
  else
    let l := ((List.range n).map fun i => fld e (6 * i) 6).filter (· != p)
    BitVec.ofNat 32 (packFields ((l.zip (List.range 4)).map (fun x => (x.1, 6 * x.2)) ++ [(l.length, 24)]))

/-- Every routing entry loses the Seam. -/
def Dev.unroute (d : Dev) (p : Nat) : Dev :=
  { d with fab := { d.fab with routes := d.fab.routes.map fun e => (e.1, routeWithout e.2 p) } }

/-- A packet that had a flit in the replay buffer was lost: an instance of this device fails with status 3, a remote request
completes with status 3, whether the request was lost or its answer. -/
def Box.packetLost (b : Box) (k : Packet) : Box :=
  if k.type = 8 ∨ k.type = 9 then
    if k.src ≠ b.dev.myId then b
    else (b.dev.coll (k.word % 1024) (k.word / 1024 % 64)).elim b fun i => b.collFail i 3 (((b.dev.plan i.plan).map Plan.self).getD 0) true
  else if typeIsRequest k.type then b.statusThree k
  else if k.type = 2 ∨ k.type = 4 ∨ k.type = 6 then
    b.onD fun d => (d.sendRouted (mkPacket k.dst d.myId k.type 1 k.flow (packFields [(ansTag k, 0), (3, 9)]) 0 [])).1
  else b

/-- A packet that waited for the Seam takes another way; one for the partner itself has none. -/
def Box.reroute (b : Box) (e : Packet × Option Nat) : Box :=
  let k := e.1
  if k.dst = 0xFFFF ∨ k.sr then b.onD fun d => d.giveBack e.2 k
  else match b.dev.routeFor k.dst k.src k.flow with
    | some p => b.onD fun d => d.handFrom e.2 p k
    | none => b.noWay e.2 k

/-- The link as it stands when it is not up. What the Seam received whole stays in its buffer. -/
def Seam.downAs (s : Seam) (st now : Nat) : Seam :=
  { s with st := st, active := 0, failed := 0, retrain := none, laneq := [], retryAt := [], partner := 0xFFFF, pseam := 0
           level := 0, levelAt := none, txSeq := 0, rxSeq := 0, acked := 65535, replay := [], nak := false, wait := false, early := []
           credits := [], returns := [], units := [], waitq := [], flying := [], turns := [], ctl := (0, 0), tried := now, reported := true }

/-- A Seam leaves the up state. `reason`: 0 heartbeat, or the lost clock that stops it, 1 width; none when SEAM_CTRL or a
missing common level takes it down (log 39). -/
def Box.seamDown (b : Box) (p st : Nat) (reason : Option Nat) : Box :=
  let s := b.dev.seam p
  if !s.up then b
  else
    let partner := s.partner.toNat
    let b := b.onD fun d =>
      let d := (d.setSeam p (s.downAs st d.now)).unroute p
      reason.elim d fun r => d.ev 0x5005 (dieSeam p) none [p, partner, r]
    let b := (s.flying.map (·.2)).foldl Box.packetLost b
    let b := if partner ≠ 0xFFFF ∧ partner ≠ b.dev.myId ∧ (b.dev.seamsUp.all fun q => (b.dev.seam q).partner.toNat != partner)
      then b.partnerLost partner else b
    (s.waitq.foldl Box.reroute b).onD Dev.chooseUpstream

/-- HEARTBEAT_TIMEOUT: no valid heartbeat for 50 µs. -/
def execHeartbeatTimeout (p : Fin 64) (s : State) : Res :=
  s.on fun b =>
    let x := b.dev.seam p.val
    if b.dev.powered && x.up && x.lastHb + 50000 ≤ b.dev.now then b.seamDown p.val 3 (some 0) else b

/-! ### Protocol levels (12 R395) -/

/-- The highest level that both ends support. -/
def Dev.commonLevel (d : Dev) (lo hi : Nat) : Option Nat :=
  let l := min hi d.highLevel
  if max lo d.lowLevel ≤ l then some l else none

/-- Event 0x500A: own lowest and highest level, and the partner's. -/
def Dev.levelEvent (d : Dev) (p lo hi : Nat) : Dev :=
  d.ev 0x500A (dieSeam p) none [p, d.lowLevel, d.highLevel, lo, hi]

/-- The level takes effect when the data flit before the named SEQ has arrived. -/
def Dev.levelDue (d : Dev) (p : Nat) : Dev :=
  let s := d.seam p
  match s.levelAt with
  | some (q, l) =>
    if (s.rxSeq + 65536 - q) % 65536 < 32768 then
      let d := d.setSeam p { s with levelAt := none, level := l }
      if l = s.level then d else d.ev 0x5009 (dieSeam p) none [p, s.level, l]
    else d
  | none => d

/-- LEVEL_CONTROL: CTYPE 2 names a SEQ and the level. -/
def Dev.takeLevel (d : Dev) (p : Nat) (y : List Byte) : Dev :=
  let l := leAt y 3 1
  if leAt y 0 1 = 2 ∧ (d.seam p).up ∧ d.lowLevel ≤ l ∧ l ≤ d.highLevel then
    (d.updSeam p fun s => { s with levelAt := some (leAt y 1 2, l) }).levelDue p
  else d

def execLevelControl (p : Fin 64) (body : BitVec 1920) (s : State) : Res :=
  s.onDev fun d => if d.powered then d.takeLevel p.val (bodyBytes body) else d

/-- A level that the partner's heartbeat makes due: a level control flit that names the next SEQ. -/
def Dev.offerLevel (d : Dev) (p lo hi : Nat) : Dev :=
  match d.commonLevel lo hi with
  | some l => if l = (d.seam p).level then d else d.sendFlit p 2 (leBytes 1 2 ++ leBytes 2 (d.seam p).txSeq ++ leBytes 1 l)
  | none => d

/-! ### Heartbeats received (12 R363) -/

/-- The lanes that both ends use: one that the partner no longer lists leaves, one that it lists again returns. -/
def Seam.matchLanes (s : Seam) (mask : Nat) : Seam :=
  let busy := s.failed ||| (s.retrain.elim 0 fun r => laneBit r.1) ||| s.laneq.foldl (fun m r => m ||| laneBit r.1) 0
  { s with active := BitVec.ofNat 4 mask &&& (s.active ||| ~~~busy) }

/-- HEARTBEAT_RECEIVE: the Seam stays up; without a common level it goes down, event 0x500A. -/
def Box.takeHeartbeat (b : Box) (p : Nat) (y : List Byte) : Box :=
  let s := b.dev.seam p
  if !heartbeatOk y || !s.up then b
  else
    let lo := leAt y 4 1
    let hi := leAt y 5 1
    let s := { s with lastHb := b.dev.now, partner := BitVec.ofNat 16 (leAt y 2 2), pseam := leAt y 1 1 }
    let s := s.matchLanes (leAt y 6 1)
    let b := b.onD fun d => d.setSeam p s
    if s.width < 2 then b.seamDown p 3 (some 1)
    else if (b.dev.commonLevel lo hi).isNone then (b.onD fun d => d.levelEvent p lo hi).seamDown p 3 none
    else b.onD fun d => d.offerLevel p lo hi

def execHeartbeatReceive (p : Fin 64) (body : BitVec 1920) (s : State) : Res :=
  s.on fun b => if b.dev.powered then b.takeHeartbeat p.val (bodyBytes body) else b

/-! ### Bring-up (12 R356, R359) -/

/-- The link right after bring-up with the partner's heartbeat. -/
def Seam.upWith (s : Seam) (y : List Byte) (level now : Nat) : Seam :=
  let mask := BitVec.ofNat 4 (leAt y 6 1)
  { s with st := 2, active := mask, failed := ~~~mask, partner := BitVec.ofNat 16 (leAt y 2 2), pseam := leAt y 1 1, level := level
           retryAt := ((List.range 4).filter fun i => !bitOf mask i).map fun i => (i, now + 60000000000)
           retrain := none, laneq := [], levelAt := none, txSeq := 0, rxSeq := 0, acked := 65535, replay := [], nak := false
           wait := false, early := [], credits := bufferUnits, returns := [], units := [], waitq := [], flying := [], turns := []
           ctl := (0, 0), lastHb := now, hbSent := now
           ackSent := now, ackMoved := now, reported := false }

/-- SEAM_BRING_UP: training and alignment have ended, and the partner's first heartbeat body is at hand. Lanes that the
partner does not list have failed (log 40). -/
def Dev.bringUp (d : Dev) (p : Nat) (y : List Byte) : Dev :=
  let s := d.seam p
  let lo := leAt y 4 1
  let hi := leAt y 5 1
  if !s.training || !heartbeatOk y || !d.seamClock p || popCount (BitVec.ofNat 4 (leAt y 6 1)) < 2 then d
  else match d.commonLevel lo hi with
    | none => (d.setSeam p { s with st := 3 }).levelEvent p lo hi
    | some l =>
      let d := d.setSeam p (s.upWith y l d.now)
      let s := d.seam p
      (d.ev 0x5004 (dieSeam p) none [p, s.partner.toNat, s.pseam, s.width, l]).chooseUpstream

def execSeamBringUp (p : Fin 64) (body : BitVec 1920) (s : State) : Res :=
  s.onDev fun d => if d.powered then d.bringUp p.val (bodyBytes body) else d

/-- SEAM_BRINGUP_RETRY: bring-up did not end within 1 s; event 0x5005 once, reason 2, and the next attempt. -/
def execSeamBringupRetry (p : Fin 64) (s : State) : Res :=
  s.onDev fun d =>
    let p := p.val
    let x := d.seam p
    if d.powered && x.training && x.tried + 1000000000 ≤ d.now then
      let d := d.setSeam p { x with tried := d.now, reported := true }
      if x.reported then d else d.ev 0x5005 (dieSeam p) none [p, x.partner.toNat, 2]
    else d

/-! ### Lanes (12 R361, R362) -/

def laneTriggerNum : LaneTrigger → Nat
  | .crc => 0
  | .alignment => 1
  | .codewords => 2
  | .command => 3

/-- The lane carries traffic no more; with fewer than 2 lanes the Seam goes down. The heartbeat announces the width. -/
def Box.dropLane (b : Box) (p lane : Nat) : Box :=
  let b := b.onD fun d => d.updSeam p fun s => { s with active := s.active &&& ~~~laneBit lane }
  if (b.dev.seam p).width < 2 then b.seamDown p 3 (some 1) else b.onD fun d => d.sendHeartbeat p

/-- A lane starts retraining, event 0x5001 and the lateness notice of R75; the estimate is free (log 36). -/
def Dev.retrainLane (d : Dev) (p lane trigger : Nat) : Dev :=
  let d := d.updSeam p fun s => { s with retrain := some (lane, d.now), retrains := satAdd 32 s.retrains 1 }
  (d.ev 0x5001 (dieSeam p) none [p, lane, trigger]).lateNotice (dieSeam p) 5 (d.freeEst 5) (d.viaSeam p)

/-- The next lane of the queue, one at a time; a lane that SEAM_CTRL named leaves the link now. -/
def Box.nextLane (b : Box) (p : Nat) : Box :=
  let s := b.dev.seam p
  match s.laneq with
  | [] => b
  | (lane, t) :: rest =>
    if s.retrain.isSome || !s.up then b
    else
      let b := b.onD fun d => d.setSeam p { s with laneq := rest }
      let b := if bitOf s.active lane then b.dropLane p lane else b
      if (b.dev.seam p).up then b.onD fun d => d.retrainLane p lane t else b

/-- A lane waits for its turn to retrain. -/
def Box.queueLane (b : Box) (p lane trigger : Nat) : Box :=
  if (b.dev.seam p).laneq.any (·.1 == lane) || (b.dev.seam p).retrain.any (·.1 == lane) then b
  else (b.onD fun d => d.updSeam p fun s => { s with laneq := s.laneq ++ [(lane, trigger)] }).nextLane p

/-- Flits with a failed CRC that a lane carried within the last 1 ms. -/
def Dev.laneFails (d : Dev) (p lane : Nat) : Nat :=
  ((d.seam p).crcLog.filter fun e => e.1 == lane && d.now < e.2 + 1000000).length

/-- LANE_LEAVE: a lane passes a trigger of R361. The CRC trigger needs more than 16 failed flits within 1 ms; the command
trigger acts in SEAM_CTRL. -/
def Box.laneLeaves (b : Box) (p lane : Nat) (t : LaneTrigger) : Box :=
  let s := b.dev.seam p
  if !s.up || !bitOf s.active lane || t == .command || (t == .crc && b.dev.laneFails p lane ≤ 16) then b
  else
    let b := b.dropLane p lane
    if (b.dev.seam p).up then b.queueLane p lane (laneTriggerNum t) else b

def execLaneLeave (p : Fin 64) (lane : Fin 4) (t : LaneTrigger) (s : State) : Res :=
  s.on fun b => if b.dev.powered then b.laneLeaves p.val lane.val t else b

/-- A lane carries traffic again. -/
def Dev.laneReturns (d : Dev) (p lane : Nat) : Dev :=
  (d.updSeam p fun s => { s with active := s.active ||| laneBit lane, failed := s.failed &&& ~~~laneBit lane
                                 retryAt := del s.retryAt lane }).sendHeartbeat p

/-- LANE_RETRAIN_DONE, within 4 ms. -/
def Box.laneDone (b : Box) (p lane : Nat) : Box :=
  let s := b.dev.seam p
  match s.retrain with
  | some (l, t) =>
    if !s.up || l ≠ lane || t + 4000000 < b.dev.now then b
    else
      (b.onD fun d =>
        let d := (d.updSeam p fun s => { s with retrain := none }).laneReturns p lane
        d.ev 0x5002 (dieSeam p) none [p, lane, (d.now - t) / 1000]).nextLane p
  | none => b

def execLaneRetrainDone (p : Fin 64) (lane : Fin 4) (s : State) : Res :=
  s.on fun b => if b.dev.powered then b.laneDone p.val lane.val else b

/-- LANE_RETRAIN_TIMEOUT: the lane is marked failed. -/
def Box.laneFailed (b : Box) (p lane : Nat) : Box :=
  let s := b.dev.seam p
  match s.retrain with
  | some (l, t) =>
    if !s.up || l ≠ lane || b.dev.now < t + 4000000 then b
    else
      (b.onD fun d =>
        let d := d.updSeam p fun s =>
          { s with retrain := none, failed := s.failed ||| laneBit lane, retryAt := put s.retryAt lane (d.now + 60000000000) }
        d.ev 0x5003 (dieSeam p) none [p, lane, (d.seam p).width]).nextLane p
  | none => b

def execLaneRetrainTimeout (p : Fin 64) (lane : Fin 4) (s : State) : Res :=
  s.on fun b => if b.dev.powered then b.laneFailed p.val lane.val else b

/-- FAILED_LANE_RETRY: once every 60 s; one success returns the lane to service. -/
def execFailedLaneRetry (p : Fin 64) (lane : Fin 4) (ok : Bool) (s : State) : Res :=
  s.onDev fun d =>
    let x := d.seam p.val
    if d.powered && x.up && bitOf x.failed lane.val && getD x.retryAt lane.val 0 ≤ d.now then
      if ok then d.laneReturns p.val lane.val
      else d.updSeam p.val fun x => { x with retryAt := put x.retryAt lane.val (d.now + 60000000000) }
    else d

/-! ### Replay and acknowledgement (12 R358) -/

/-- Resends every unacknowledged data flit: one replay; event 0x5008 of a Seam above 64 within 1 ms. -/
def Dev.replayAll (d : Dev) (p : Nat) : Dev :=
  let now := d.now
  let d := d.updSeam p fun s =>
    { s with replays := satAdd 32 s.replays 1, ackMoved := now
             replayLog := (s.replayLog.filter fun t => now < t + 1000000) ++ [now] }
  let s := d.seam p
  let d := s.replay.foldl (fun d f => d.resend p f) d
  if 64 < s.replayLog.length ∧ p ≠ 64 then
    d.oncePerSec (0x5008 * 1024 + p) fun d => d.ev 0x5008 (dieSeam p) none [p, s.replayLog.length]
  else d

/-- REPLAY_TIMEOUT: ACK has not advanced for 3 µs while flits are outstanding. -/
def execReplayTimeout (p : Fin 65) (s : State) : Res :=
  s.onDev fun d =>
    let x := d.seam p.val
    if d.powered && d.linkUp p.val && !x.replay.isEmpty && x.ackMoved + 3000 ≤ d.now then d.replayAll p.val else d

/-- ACK_TIMER: packets that wait may start; an idle flit carries ACK, NAK and credit returns when no flit left for 100 ns. On the
Yoke the packets `out` are those that its transactions hand to the link, which the manual does not describe (14 R403; log 79). -/
def execAckTimer (p : Fin 65) (s : State) (out : List Packet := []) : Res :=
  s.onDev fun d =>
    if d.powered && d.linkUp p.val then
      let d := if p.val = 64 then out.foldl (fun d k => d.handPacket 64 k) d else d
      let d := d.startWaiting p.val
      if (d.seam p.val).ackSent + 100 ≤ d.now then d.sendFlit p.val 0 [] else d
    else d

end Sys2Proof.Machine
end

