-- ==== Sys2Proof/Machine/Flits.lean ====
section
/-! DEFINITION. Receiving flits: the check of CRC and sequence, acknowledgement, credits, and packets out of their units
(12 R357 to R360; 17 R519). -/

namespace Sys2Proof.Machine

/-! ### Packets that flits carry -/

/-- The jitter of a stamp, which Crease bounds: a free value (17 R520; log 36). -/
def Dev.freeJitter (d : Dev) (key : Nat) : Int := ((Config.freeWord d.mb.head key).toNat % 2001 : Nat) - (1000 : Int)

/-- What a packet does that arrives whole, by its type. -/
def Box.takePacket (b : Box) (p : Nat) (k : Packet) : Box :=
  if k.type = 1 then b.inService (k.word % 2 ^ 52) (64 * (k.word / 2 ^ 52 % 8)) fun b => b.serveRead p k
  else if k.type = 2 then (b.dev.remoteReq [0] (ansTag k) k.src (ansStatus k)).elim b fun r => b.readDone r (ansStatus k) (packetBytes k)
  else if k.type = 3 then b.inService (k.word % 2 ^ 52) (64 * k.nlines) fun b => b.serveWrite p k
  else if k.type = 4 then (b.dev.remoteReq [1, 3] (ansTag k) k.src (ansStatus k)).elim b fun r => b.endReq r (ansStatus k)
  else if k.type = 5 then b.onD fun d => d.serveKnot p k
  else if k.type = 6 then (b.dev.remoteReq [2] (ansTag k) k.src (ansStatus k)).elim b fun r => b.endReq r (ansStatus k)
  else if k.type = 8 then b.takeCollData k
  else if k.type = 9 then b.takeCollCtrl k
  else if k.type = 0x10 then
    b.onD fun d => if bitOf k.hdr 64 then d.takeAlign p k else d.answerAlign p k (d.freeJitter 2) (d.freeJitter 3)
  else if k.type = 0x11 then b.onD fun d => d.takeNotice p k
  else b.takeLoss p k

/-- Units of the packet that begins with a header unit. -/
def unitsOf (h : BitVec 128) : Nat := 1 + boolN (bitOf h 39) + 4 * fld h 40 3

def packetFrom (u : List (BitVec 128)) : Packet :=
  let h := u.headD 0
  let sr := bitOf h 39
  { hdr := h, route := if sr then (u.drop 1).headD 0 else 0
    lines := (pieces 4 (u.drop (if sr then 2 else 1))).map fun l => lineOf (l.flatMap fun x => leBytes 16 x.toNat) }

/-- A request that needs a Spool in Hold, or in Trip, waits in its buffer (11 R339; 18 R535). -/
def Dev.mustWait (d : Dev) (k : Packet) : Bool :=
  d.delivers k && (packetFault k).isNone && (k.type == 1 || k.type == 3) && !inCompanion (k.word % 2 ^ 52) 64
    && (d.power.hold || d.tripHolds (k.word % 2 ^ 52) (if k.type = 1 then 64 * (k.word / 2 ^ 52 % 8) else 64 * k.nlines))

/-- A whole packet has arrived. What crosses the Yoke is described by commands of its own: its units leave the buffer at once (14
R403; log 79). On a Seam a request that must wait stays in the buffer of virtual channel 0, with what comes behind it there. -/
def Box.packetIn (b : Box) (p : Nat) (k : Packet) : Box :=
  if p = 64 then b.onD fun d => d.giveBack (some p) k
  else if b.dev.delivers k && (k.vc == 0 && !(b.dev.seam p).held.isEmpty || b.dev.mustWait k) then
    b.onD fun d =>
      let d := d.updSeam p fun s => { s with held := s.held ++ [k] }
      if d.power.hold then d.wakeFor 2 (k.word % 2 ^ 52) else d
  else b.onPacketIn (some p) p k fun b => b.takePacket p k

/-- Takes the whole packets out of a Seam's units, in order. `fuel` bounds the units. -/
def Box.pumpUnits (b : Box) (p : Nat) : Nat → Box
  | 0 => b
  | n + 1 =>
    let s := b.dev.seam p
    match s.units with
    | [] => b
    | h :: t =>
      if h = 0 then (b.onD fun d => d.setSeam p { s with units := t }).pumpUnits p n
      else if s.units.length < unitsOf h then b
      else
        let k := packetFrom (s.units.take (unitsOf h))
        ((b.onD fun d => d.setSeam p { s with units := s.units.drop (unitsOf h) }).packetIn p k).pumpUnits p n

/-- Serves the packets that waited, in order. `fuel` bounds their number. -/
def Box.serveHeld (b : Box) (p : Nat) : Nat → Box
  | 0 => b
  | n + 1 =>
    match (b.dev.seam p).held with
    | [] => b
    | k :: t =>
      if b.dev.mustWait k then b
      else ((b.onD fun d => d.updSeam p fun s => { s with held := t }).onPacketIn (some p) p k fun b => b.takePacket p k).serveHeld p n

def Box.serveAllHeld (b : Box) (p : Nat) : Box := b.serveHeld p (b.dev.seam p).held.length

/-! ### Fields of a flit (12 R357) -/

def flSeq (f : BitVec 2048) : Nat := fld f 0 16
def flAck (f : BitVec 2048) : Nat := fld f 16 16
def flKind (f : BitVec 2048) : Nat := fld f 32 2
def flNak (f : BitVec 2048) : Bool := bitOf f 34
def flBody (f : BitVec 2048) : List Byte := leBytes 240 (fld f 96 1920)
def flUnits (f : BitVec 2048) : List (BitVec 128) := (List.range 15).map fun i => BitVec.ofNat 128 (fld f (96 + 128 * i) 128)
def flCrcOk (f : BitVec 2048) : Bool := crc32c (leBytes 252 (fld f 0 2016)) == fld f 2016 32

/-- `a` stands before `b` in the order modulo 65,536. -/
def seqAhead (a b : Nat) : Bool := a != b && (b + 65536 - a) % 65536 < 32768

/-! ### ACK, NAK and credits (12 R358, R359) -/

/-- ACK: the acknowledged flits leave the replay buffer. -/
def Seam.takeAck (s : Seam) (a now : Nat) : Seam :=
  let n := (a + 65536 - s.acked) % 65536
  if n = 0 ∨ s.replay.length < n then s
  else { s with acked := a, ackMoved := now, replay := s.replay.drop n
                flying := s.flying.filter fun e => !((a + 65536 - e.1) % 65536 < 32768) }

/-- One credit return. -/
def Dev.takeCredit (d : Dev) (p vc n : Nat) : Dev :=
  if n = 0 then d
  else
    (d.creaseCredit p vc).updSeam p fun s =>
      { s with credits := put s.credits vc (min (getD bufferUnits vc 0) (s.credit vc + n)) }

/-- The ACK and NAK of an intact flit. -/
def Dev.takeHeader (d : Dev) (p : Nat) (f : BitVec 2048) : Dev :=
  let d := d.updSeam p fun s => s.takeAck (flAck f) d.now
  if flNak f && !(d.seam p).replay.isEmpty then d.replayAll p else d

/-- The credit returns of a flit; of a data flit, when it is taken in order, since it is sent again otherwise. -/
def Dev.takeCredits (d : Dev) (p : Nat) (f : BitVec 2048) : Dev :=
  ((d.takeCredit p (fld f 40 2) (fld f 48 12)).takeCredit p (fld f 64 2) (fld f 80 12)).startWaiting p

/-- A failed flit or a gap: data flits are discarded until the missing one arrives, and the next flit carries NAK. -/
def Seam.gap (s : Seam) : Seam := { s with wait := true, nak := true, early := [] }

/-- The data flit that is due is taken. -/
def Box.acceptData (b : Box) (p : Nat) (f : BitVec 2048) : Box :=
  let s := b.dev.seam p
  let s := { s with rxSeq := (s.rxSeq + 1) % 65536, wait := false, units := s.units ++ flUnits f }
  (b.onD fun d => ((d.setSeam p s).takeCredits p f).levelDue p).pumpUnits p s.units.length

/-- The data flits that came early are taken as far as they go on from the last one; `fuel` bounds their number. -/
def Box.acceptEarly (b : Box) (p : Nat) : Nat → Box
  | 0 => b
  | n + 1 =>
    let s := b.dev.seam p
    match s.early.find? fun e => flKind e.2 == 1 && flSeq e.2 == s.rxSeq with
    | none => b
    | some e => ((b.onD fun d => d.setSeam p { s with early := s.early.erase e }).acceptData p e.2).acceptEarly p n

/-- A flit that names a later SEQ than the one that is due. A lane carries its flits in order: the flit that is due is missing
once every lane has brought a later one (DEDUCED, log 80). -/
def Dev.flitEarly (d : Dev) (p lane : Nat) (f : BitVec 2048) : Dev :=
  let s := d.seam p
  if s.wait then d
  else
    let l := s.early ++ [(lane, f)]
    d.setSeam p (if (d.lanesOf p).all fun i => l.any (·.1 == i) then s.gap else { s with early := l })

/-- A data flit in order is taken, with those behind it that came early; one that was taken before is dropped. -/
def Box.takeData (b : Box) (p lane : Nat) (f : BitVec 2048) : Box :=
  let s := b.dev.seam p
  if flSeq f = s.rxSeq then
    ((b.acceptData p f).acceptEarly p s.early.length).onD fun d => d.updSeam p fun s =>
      { s with early := s.early.filter fun e => seqAhead s.rxSeq (flSeq e.2) }
  else if seqAhead s.rxSeq (flSeq f) then b.onD fun d => d.flitEarly p lane f
  else b

/-- A control or idle flit, which names the SEQ of the next data flit. The Yoke has no control flits (14 R403). -/
def Box.takeOther (b : Box) (p lane : Nat) (f : BitVec 2048) : Box :=
  let b := b.onD fun d => d.takeCredits p f
  let b := if seqAhead (b.dev.seam p).rxSeq (flSeq f) then b.onD fun d => d.flitEarly p lane f else b
  if flKind f ≠ 2 ∨ p = 64 then b
  else if leAt (flBody f) 0 1 = 2 then b.onD fun d => d.takeLevel p (flBody f)
  else b.takeHeartbeat p (flBody f)

/-- Counts of a flit that is received: codewords since the flit before it, and its failed CRC with the lane. -/
def Seam.counted (s : Seam) (lane now corr unc : Nat) (bad : Bool) : Seam :=
  { s with fecCorr := satAdd 32 s.fecCorr corr, fecUnc := satAdd 32 s.fecUnc unc
           crcFail := if bad then satAdd 32 s.crcFail 1 else s.crcFail
           crcLog := if bad then (s.crcLog.filter fun e => now < e.2 + 1000000) ++ [(lane, now)] else s.crcLog }

/-- FLIT_RECEIVE on a lane of a link that is up; a Seam that is being brought up takes control flits, of which the heartbeat is
SEAM_BRING_UP's (R356). -/
def Box.takeFlit (b : Box) (p lane : Nat) (f : BitVec 2048) (corr unc : Nat) : Box :=
  let bad := !flCrcOk f
  if !(b.dev.linkUp p || (b.dev.seam p).training && b.dev.seamClock p) || !(b.dev.lanesOf p).contains lane then b
  else
    let b := b.onD fun d => d.updSeam p fun s => s.counted lane d.now corr unc bad
    if !b.dev.linkUp p then b
    else
      let b := if p = 64 then b.onD fun d => d.updSeam p fun s => { s with lastHb := d.now } else b
      if bad then b.onD fun d => d.updSeam p Seam.gap
      else
        let b := b.onD fun d => d.takeHeader p f
        let b := if flKind f = 1 then b.takeData p lane f else if flKind f = 3 then b else b.takeOther p lane f
        b.serveAllHeld p

def execFlitReceive (p : Fin 65) (lane : Fin 8) (flit : BitVec 2048) (corr unc : Nat) (s : State) : Res :=
  s.on fun b => if b.dev.powered then b.takeFlit p.val lane.val flit corr unc else b

end Sys2Proof.Machine
end

