-- ==== Sys2Proof/Machine/FabCmds.lean ====
section
/-! DEFINITION. The fabric commands, group 0x05 (12 R356, R367, R374, R377, R379, R392, R397). -/

namespace Sys2Proof.Machine

/-! ### FAB_CONFIG, ROUTE_SET -/

def execFabConfig (c : Ici) (s : State) : Res :=
  s.ici 0x0501 c false fun k b =>
    b.fields k none [(b.dev.runningCtxs.isEmpty, 0), (pay c.p 0 2 != 0xFFFF, 0)] fun b => b.onD fun d =>
      (({ d with fab := { d.fab with deviceId := BitVec.ofNat 16 (pay c.p 0 2), forwarding := bitOf c.p 16 } }).chooseUpstream).okCmd k

/-- A routing entry lists at most 4 Seams, and its reserved bits are 0 (R367). -/
def routeOk (e : W32) : Bool := fld e 24 3 ≤ 4 && fld e 27 5 == 0

/-- Entries from bytes, four bytes each. -/
def routeEntries (l : List Byte) (n : Nat) : List W32 := (List.range n).map fun i => BitVec.ofNat 32 (leAt l (4 * i) 4)

/-- Loads entries from destination `first` on; a device whose entry is rewritten is no longer held lost (R366). -/
def Dev.setRoutes (d : Dev) (first : Nat) (l : List W32) : Dev :=
  let t := ((span first l.length).zip l).foldl
    (fun (t : Tbl W32) (e : Nat × W32) => if e.2 = 0 then del t e.1 else put t e.1 e.2) d.fab.routes
  ({ d with fab := { d.fab with
      routes := t, lost := d.fab.lost.filter fun x => !(first ≤ x && x < first + l.length) } }).chooseUpstream

def Box.routeSet (k : Pend) (p : BitVec 384) (b : Box) : Box :=
  let first := pay p 0 2
  let n := pay p 2 2
  b.fields k none [(decide (first + n ≤ 65536), 2)] fun b =>
    b.withAddr k none 8 (pay p 8 8) (4 * n) 64 false fun b => b.withData k (pay p 8 8) (4 * n) fun l b =>
      let es := routeEntries l n
      if es.all routeOk then b.onD fun d => (d.setRoutes first es).okCmd k else b.bad k none 8

def execRouteSet (c : Ici) (s : State) : Res :=
  s.ici 0x0502 c (inSpools (pay c.p 8 8)) fun k b => b.routeSet k c.p

/-! ### SEAM_CTRL, SEAM_QUERY -/

/-- The lanes of a mask retrain, one after another; a lane leaves the link when its turn comes (R361). -/
def Box.retrainMask (b : Box) (p mask : Nat) : Box :=
  (List.range 4).foldl (fun b lane =>
    if mask.testBit lane && (b.dev.seam p).up && bitOf (b.dev.seam p).active lane then b.queueLane p lane 3 else b) b

/-- Enables a disabled Seam: it trains (R356). -/
def Dev.enableSeam (d : Dev) (p mode : Nat) : Dev :=
  d.updSeam p fun s => if s.st = 0 then { s with st := 1, mode := mode, tried := d.now, reported := false } else s

/-- Disables a Seam. -/
def Box.disableSeam (b : Box) (p : Nat) : Box :=
  let b := b.seamDown p 0 none
  b.onD fun d => d.updSeam p fun s => { s with st := 0 }

def Box.seamCtrl (k : Pend) (p : BitVec 384) (b : Box) : Box :=
  let q := pay p 0 1
  let act := pay p 1 1
  b.fields k none [(decide (q < 64), 0), (decide (act ≤ 3), 1)] fun b =>
    let b := if act = 0 then b.disableSeam q
      else if act = 1 then b.onD fun d => d.enableSeam q (payBits p 3 0 1)
      else if act = 2 then b.retrainMask q (payBits p 2 0 4)
      else b.onD fun d => d.updSeam q fun s => { s with pol := BitVec.ofNat 4 (payBits p 2 0 4) }
    b.ok k

def execSeamCtrl (c : Ici) (s : State) : Res := s.ici 0x0503 c false fun k b => b.seamCtrl k c.p

/-- The status record of a Seam, 32 bytes. -/
def Dev.seamRec (d : Dev) (p : Nat) : List Byte :=
  let s := d.seam p
  leBytes 1 p ++ leBytes 1 s.st ++ leBytes 1 s.width ++ leBytes 1 (s.active.toNat + 16 * s.failed.toNat) ++ leBytes 2 s.partner.toNat
    ++ leBytes 1 s.pseam ++ leBytes 1 s.level ++ leBytes 4 s.crcFail ++ leBytes 4 s.replays ++ leBytes 4 s.retrains
    ++ leBytes 4 s.fecCorr ++ leBytes 4 s.fecUnc ++ zeros 4

def execSeamQuery (c : Ici) (s : State) : Res :=
  s.ici 0x0504 c (inSpools (pay c.p 8 8)) fun k b =>
    let first := pay c.p 0 1
    let n := pay c.p 1 1
    b.fields k none [(decide (first < 64), 0), (decide (n ≤ 64 ∧ first + n ≤ 64), 1)] fun b =>
      b.giveBytes k none 8 (pay c.p 8 8) fun d => (span first n).flatMap d.seamRec

/-! ### REMOTE_MAP, EXPORT_SET (12 R374) -/

/-- A new range overlaps no region, no other remote range, and neither window at the top of the address space. -/
def Dev.remoteFits (d : Dev) (a units : Nat) : Bool :=
  let n := units * unit2M
  a + n ≤ companionBase && !(d.regions.any (·.overlaps a n)) && !(d.remotes.any fun r => r.base != a && r.overlaps a n)

def Box.remoteMap (k : Pend) (p : BitVec 384) (b : Box) : Box :=
  let a := pay p 0 8
  let units := pay p 8 4
  let target := pay p 16 8
  let dev := pay p 12 2
  let held := b.dev.remotes.any (·.base == a)
  if units = 0 then
    b.fields k none [(held, 0)] fun b => b.onD fun d => ({ d with remotes := d.remotes.filter (·.base != a) }).okCmd k
  else
    b.fields k none
      [(a % unit2M == 0 && b.dev.remoteFits a units, 0), (held || decide (b.dev.remotes.length < 64), 0),
       (dev != 0xFFFF && dev != b.dev.myId, 12), (target % unit2M == 0 && decide (target + units * unit2M ≤ 2 ^ 52), 16)]
      fun b => b.onD fun d =>
        ({ d with remotes := (d.remotes.filter fun (r : RemoteMap) => r.base != a) ++ [(⟨a, units, dev, bitOf p 112, bitOf p 113, target⟩ : RemoteMap)] }).okCmd k

def execRemoteMap (c : Ici) (s : State) : Res := s.ici 0x0505 c false fun k b => b.remoteMap k c.p

def Box.exportSet (k : Pend) (p : BitVec 384) (b : Box) : Box :=
  let a := pay p 0 8
  let units := pay p 8 4
  let w := pay p 17 1
  b.fields k none [(a % unit2M == 0 && decide (a + units * unit2M ≤ 2 ^ 52), 0), (decide (w < 64), 17)] fun b => b.onD fun d =>
    let x : ExportWin := ⟨a, units, pay p 12 2, pay p 14 2, bitOf p 128, bitOf p 129⟩
    ({ d with exports := if units = 0 then del d.exports w else put d.exports w x }).okCmd k

def execExportSet (c : Ici) (s : State) : Res := s.ici 0x0506 c false fun k b => b.exportSet k c.p

/-! ### TAPE_REF_SET -/

def execTapeRefSet (c : Ici) (s : State) : Res :=
  s.ici 0x0507 c false fun k b => b.onD fun d =>
    (({ d with fab := { d.fab with refs := (List.range 4).map fun i => pay c.p (2 * i) 2 } }).chooseUpstream).okCmd k

/-! ### COLL_PLAN_LOAD (12 R379) -/

/-- The algorithms that an operation allows. -/
def algosOf (op : Nat) : List Nat := if op = 1 then [0, 1] else if op = 2 ∨ op = 3 then [0] else if op = 5 then [0, 2] else [2]

/-- The row size of a two-dimensional ring. -/
def nrOk (nr n : Nat) : Bool := 2 ≤ nr && nr < n && n % nr == 0

def allBelow (l : List (Nat × Nat)) (n : Nat) : Bool := l.all fun m => m.2 < n

/-- The checks of a header, with the byte of the field: in ascending order of the fields. -/
def Plan.headerChecks (p : Plan) : List (Bool × Nat) :=
  let red := p.op == 1 || p.op == 2
  [(decide (1 ≤ p.op ∧ p.op ≤ 6), 0), (decide (p.redop ≤ 3) && (p.redop != 0) == red, 1),
   (if red then p.fmt == 0 || p.fmt == 1 else fmtValid p.fmt, 2), ((algosOf p.op).contains p.algo, 3),
   (decide (1 ≤ p.nmemb ∧ p.nmemb ≤ 8192), 4), (decide (p.self < p.nmemb), 6),
   (if p.algo = 1 then nrOk p.nr p.nmemb else p.nr == 0, 8),
   (if p.op = 5 then decide (p.root < p.nmemb) else p.root == 0, 10),
   (if p.op = 6 then decide (p.flags ≤ 1) else p.flags == 0, 14),
   (decide (1 ≤ fld p.hdr 128 32 ∧ fld p.hdr 128 32 ≤ 10000000), 16), (fld p.hdr 160 352 == 0, 20)]

/-- The first entry with a fault, as its index: an ID that is 0xFFFF or repeats an earlier one, entry SELF without this
device's ID, a DEST out of place, reserved bytes. -/
def Plan.entryFault (p : Plan) (me : Nat) (l : List Byte) : Option Nat :=
  (List.range p.nmemb).find? fun i =>
    let before := p.members.take i
    p.dev i == 0xFFFF || before.any (fun m => m.1 == p.dev i) || (i == p.self && p.dev i != me)
      || (if p.op = 6 then p.nmemb ≤ p.dest i || before.any (fun m => m.2 == p.dest i) else p.dest i != 0)
      || leAt l (64 + 8 * i + 4) 4 != 0

def planOf (ctx : Nat) (l : List Byte) : Plan :=
  let h : BitVec 512 := BitVec.ofNat 512 (leAt l 0 64)
  { ctx := ctx, hdr := h, launched := 0
    members := (List.range (fld h 32 16)).map fun i => (leAt l (64 + 8 * i) 2, leAt l (64 + 8 * i + 2) 2) }

/-- Entries of every plan but one. -/
def Dev.memberEntries (d : Dev) (but : Nat) : Nat := sumN ((d.fab.plans.filter fun e => e.1 != but).map fun e => e.2.members.length)

/-- The field that makes a plan invalid; a length that does not fit NMEMB, and too many entries in all, count as
NMEMB's. -/
def Dev.planFault (d : Dev) (idx : Nat) (p : Plan) (l : List Byte) : Option Nat :=
  match firstField p.headerChecks with
  | some f => some f
  | none =>
    if l.length ≠ 64 + 8 * p.nmemb ∨ 2 ^ 20 < d.memberEntries idx + p.nmemb then some 4
    else (p.entryFault d.myId l).map fun i => 64 + 8 * i

/-- A plan leaves the device: its early READYs and held extensions go with it. -/
def Dev.dropPlan (d : Dev) (i : Nat) : Dev :=
  { d with fab := { d.fab with
      plans := del d.fab.plans i, earlyReady := d.fab.earlyReady.filter (·.1 != i), heldLate := d.fab.heldLate.filter (·.1 != i) } }

/-- An instance of a plan is in progress. -/
def Dev.planBusy (d : Dev) (i : Nat) : Bool := d.fab.insts.any (·.plan == i)

def Box.planLoad (k : Pend) (p : BitVec 384) (b : Box) : Box :=
  let idx := pay p 0 2
  let n := payBits p 2 0 3
  let len := pay p 4 4
  let a := pay p 8 8
  b.fields k none [(decide (idx < 1024) && !b.dev.planBusy idx, 0), (decide (64 ≤ len ∧ len ≤ 64 + 8 * 65535), 4)] fun b =>
    b.withAddr k none 8 a len 1 false fun b => b.withData k a len fun l b =>
      let plan := planOf n l
      match b.dev.planFault idx plan l with
      | some f => b.fail k 0x5011 (some n) [(idx : Int), (f : Int)]
      | none => b.onD fun d =>
          let d := d.dropPlan idx
          ({ d with fab := { d.fab with plans := put d.fab.plans idx plan } }).okCmd k

def execCollPlanLoad (c : Ici) (s : State) : Res :=
  s.ici 0x0508 c (inSpools (pay c.p 8 8)) fun k b => b.planLoad k c.p

/-! ### COLL_PLAN_UNLOAD, COLL_EPOCH_SET, FAB_QUERY -/

def execCollPlanUnload (c : Ici) (s : State) : Res :=
  s.ici 0x0509 c false fun k b =>
    let first := pay c.p 0 2
    let n := pay c.p 2 2
    b.fields k none
      [(decide (first < 1024) && (span first (min n 1024)).all (fun i => !b.dev.planBusy i), 0), (decide (n ≤ 1024 ∧ first + n ≤ 1024), 2)]
      fun b => b.onD fun d => ((span first n).foldl Dev.dropPlan d).okCmd k

def execCollEpochSet (c : Ici) (s : State) : Res :=
  s.ici 0x050A c false fun k b =>
    let n := payBits c.p 0 0 3
    b.fields k none [((b.dev.ctx n).st == .loaded, 0)] fun b => b.onD fun d =>
      (d.updCtx n fun x => { x with epoch := pay c.p 2 2 }).okCmd k

/-- The 64 bytes of FAB_QUERY; the places of its items are the model's (log 41). -/
def Dev.fabBytes (d : Dev) : List Byte :=
  padTo 64 (leBytes 2 d.myId ++ leBytes 1 d.lowLevel ++ leBytes 1 d.highLevel ++ leBytes 2 d.fab.refId ++ leBytes 2 d.fab.distance
    ++ leBytes 1 (d.fab.upstream.getD 0xFF) ++ zeros 3 ++ leBytes 4 d.fab.dropped ++ leBytes 4 d.fab.unreachable)

def execFabQuery (c : Ici) (s : State) : Res :=
  s.ici 0x050B c (inSpools (pay c.p 8 8)) fun k b => b.giveBytes k none 8 (pay c.p 8 8) Dev.fabBytes

end Sys2Proof.Machine
end

