-- ==== Sys2Proof/Machine/Firmware.lean ====
section
/-! DEFINITION. The end of a boot, the diagnostic state, and the firmware commands of group 0x08 (16 R483 to R500). -/

namespace Sys2Proof.Machine

/-! ### DEVICE_REPORTS_READY (16 R483, R487; 17 R509) -/

/-- Event 0xD002 for the records that a warm reset lost. -/
def Dev.reportLost (d : Dev) : Dev :=
  match d.mb.resetLost with
  | none => d
  | some r => { d with mb := { d.mb with resetLost := none } }.evFw 0xD002 none [r.1, r.2, 1]

/-- The suites have run: MODE 1, MODE_CHANGED, event 0x8004, the records lost, and what failed. -/
def Box.reportReady (b : Box) (fails : List (Nat × Nat)) : Box :=
  let b := b.onD fun d =>
    let d := d.bootTests fails
    let d : Dev := { d with
      fw := { d.fw with booting := false }, yoke := { d.yoke with mode := 1 }
      cutter := { d.cutter with lastHb := d.now, lastRot := d.now } }
    let d := (d.setDevirq 0).evFw 0x8004 none [boolN d.fw.warm, (d.now - d.fw.bootAt) / 1000000, d.fw.booted, d.fw.bootCount]
    d.reportLost
  ((fails.foldl Box.bootFailed b).onD Dev.refreshAdvice).flushMsgs

def execDeviceReportsReady (fails : List (Nat × Nat)) (s : State) : Res :=
  s.on fun b =>
    if b.dev.powered && b.dev.fw.booting && b.dev.cutter.active.isSome && b.dev.yoke.mode == 0 then b.reportReady fails else b

/-! ### The diagnostic state (16 R498) -/

def execDiagExpiry (s : State) : Res :=
  s.onDev fun d => if d.fw.diagEnd.any fun t => decide (t ≤ d.now) then d.endDiag 0 else d

/-- DIAG_AUTHORISE: a token starts the diagnostic state or replaces its remaining time; address 0 ends it. -/
def Box.diagAuthorise (k : Pend) (p : BitVec 384) (b : Box) : Box :=
  let a := pay p 0 8
  let n := pay p 8 4
  b.fields k none [(n == (if a = 0 then 0 else 7296), 8)] fun b =>
    if a = 0 then b.onD fun d => (d.endDiag 1).okCmd k
    else b.withAddr k none 0 a 7296 64 false fun b => b.withToken k a 1 fun l key b => b.onD fun d =>
      let dur := leAt l 12 4
      let d : Dev := { d with fw := { d.fw with diagEnd := some (d.now + dur * 1000000000) } }
      (d.evTh 0x800D [dur, key]).okCmd k

def execDiagAuthorise (c : Ici) (s : State) : Res := s.ici 0x0806 c (inSpools (pay c.p 0 8)) fun k b => b.diagAuthorise k c.p

/-! ### ATTEST_REPORT (16 R490) -/

/-- Bytes 0 to 831 of the report. -/
def Dev.attestBody (d : Dev) (mask : Nat) (nonce : List Byte) : List Byte :=
  let t := d.thimbleImg
  let flags := packFields [(boolN d.diag, 0), (boolN (d.fw.booted != d.fw.preferred), 1), (boolN d.fw.upd.isSome, 2), (boolN d.fw.warm, 3)]
  padTo 832 (asciiBytes "FVKATTST" ++ leBytes 2 1 ++ leBytes 2 d.fab.deviceId.toNat ++ leBytes 2 0x2480 ++ leBytes 1 d.fw.stepping
    ++ leBytes 1 flags ++ leBytes 8 d.now ++ leBytes 2 t.svn ++ leBytes 2 d.fw.pattern.svn ++ leBytes 2 d.fw.pattern.level
    ++ leBytes 1 mask ++ zeros 1 ++ leBytes 4 d.fw.bootCount ++ zeros 12 ++ nonce ++ leBytes 64 t.meas.toNat
    ++ leBytes 64 d.fw.mPattern.toNat ++ leBytes 64 d.fw.identityHash.toNat
    ++ (List.range 8).flatMap fun n => leBytes 64 (if mask.testBit n then (getD d.fw.mSched n 0).toNat else 0))

/-- The 5,504 bytes with the signature of the signing root. -/
def Dev.attestReport (d : Dev) (mask : Nat) (nonce : List Byte) : List Byte :=
  let l := d.attestBody mask nonce
  padTo 5504 (l ++ leBytes 4627 (Config.identitySign d.fw.signs l).toNat)

def Box.attest (k : Pend) (p : BitVec 384) (b : Box) : Box :=
  let a := pay p 8 8
  let dst := pay p 16 8
  b.withAddr k none 8 a 64 64 false fun b => b.withAddr k none 16 dst 5504 64 true fun b =>
    b.withData k a 64 fun nonce b =>
      let l := b.dev.attestReport (pay p 0 1) nonce
      let b := b.wrClean dst l
      b.onD fun d => ({ d with fw := { d.fw with signs := d.fw.signs + 1 } } : Dev).okCmd k

def execAttestReport (c : Ici) (s : State) : Res :=
  s.ici 0x0801 c (inSpools (pay c.p 8 8) || inSpools (pay c.p 16 8)) fun k b => b.attest k c.p

/-! ### IDENTITY_CERT (16 R489, R500) -/

/-- Bytes of a chain of `n` certificates: each has its length in 4 bytes before it. -/
def chainLen (l : List Byte) : Nat → Nat → Nat
  | 0, o => o
  | n + 1, o => chainLen l n (o + 4 + leAt l o 4)

/-- The chain in the identity area of the flash booted from, at most the area. -/
def FwSt.chain (w : FwSt) : List Byte :=
  let area := w.flash.read (flashBase w.booted + 0x1000) 0xF000
  area.take (min 0xF000 (chainLen area (min 4096 (leAt area 0 4)) 4))

def Box.identityCert (k : Pend) (p : BitVec 384) (b : Box) : Box :=
  let l := b.dev.fw.chain
  b.fields k none [(decide (l.length ≤ pay p 16 4), 16)] fun b =>
    b.withAddr k none 8 (pay p 8 8) l.length 64 true fun b => (b.wrClean (pay p 8 8) l).ok k 0 (BitVec.ofNat 64 l.length)

def execIdentityCert (c : Ici) (s : State) : Res :=
  s.ici 0x0802 c (inSpools (pay c.p 8 8)) fun k b => b.identityCert k c.p

/-! ### PATTERN_UPDATE, THIMBLE_UPDATE (16 R491, R494) -/

/-- Verifies an image in memory; a rejected one raises event 0x8001. -/
def Box.withImage (b : Box) (k : Pend) (a n kind : Nat) (bad : Nat → Box → Box) (f : List Byte → Box → Box) : Box :=
  b.withAddr k none 0 a n 64 false fun b => b.withData k a n fun l b =>
    let r := b.dev.fw.imgReason l kind
    if r = 0 then f (imgBytes l) b else bad r (b.onD fun d => d.evTh 0x8001 [kind, a, r])

/-- An update may start: none is in progress, and two Cutters are ACTIVE or STANDBY. -/
def Dev.updateFree (d : Dev) : Bool :=
  d.fw.upd.isNone && decide (2 ≤ ((List.range 4).filter fun s => d.cutterState s ≤ 1).length)

/-- A Pattern image fits the running one: the same journal, a level within one (16 R491). -/
def fitsPattern (new old : FwImg) : Bool := new.journal == old.journal && new.level ≤ old.level + 1 && old.level ≤ new.level + 1

def Box.startUpdate (kind : Nat) (k : Pend) (p : BitVec 384) (b : Box) : Box :=
  b.fields k none [(b.dev.updateFree, 0)] fun b =>
    b.withImage k (pay p 0 8) (pay p 8 4) kind (fun _ b => b.bad k none 0) fun l b =>
      let new := imgOf l
      let old := if kind = 1 then b.dev.thimbleImg else b.dev.fw.pattern
      b.fields k none [(kind == 1 || fitsPattern new old, 0)] fun b => b.onD fun d =>
        let u : Update := { thimble := kind == 1, new := new, old := old, persist := bitOf p 96, raiseSvn := bitOf p 97, fail := none, root := none }
        let d : Dev := { d with
          opens := d.opens ++ [⟨k, .update⟩], fw := { d.fw with upd := some u }
          cutter := { d.cutter with held := d.cutter.rotDue, rotDue := none } }
        d.advanceUpdate

def execPatternUpdate (c : Ici) (s : State) : Res := s.ici 0x0803 c true fun k b => b.startUpdate 2 k c.p
def execThimbleUpdate (c : Ici) (s : State) : Res := s.ici 0x0804 c true fun k b => b.startUpdate 1 k c.p

/-! ### FLASH_WRITE (16 R496) -/

/-- Writes the slot, reads it back, and makes the flash preferred if asked and its set passes. -/
def Dev.flashWrite (d : Dev) (k : Pend) (f slot : Nat) (prefer : Bool) (l : List Byte) : Dev :=
  let d : Dev := { d with fw := d.fw.putImage f slot l }
  let r := d.fw.imgReason (d.fw.slotBytes f slot) slot
  if r ≠ 0 then (d.evTh 0x8001 [slot, f, slot, r]).complete k 1 0x8001
  else
    let c := if prefer then d.checkSet f else (d, 0)
    if c.2 ≠ 0 then c.1.complete k 1 0x8001
    else
      let d : Dev := if prefer then { c.1 with fw := c.1.fw.makePreferred f } else c.1
      (d.evTh 0x800B [f, slot, d.fw.dirGen f, boolN prefer]).okCmd k

def Box.flashCmd (k : Pend) (p : BitVec 384) (b : Box) : Box :=
  let f := payBits p 12 0 1
  let slot := pay p 13 1
  b.fields k none [(slot == 1 || slot == 2, 13), (f != b.dev.fw.prefer, 12), (b.dev.fw.upd.isNone, 0)] fun b =>
    b.withImage k (pay p 0 8) (pay p 8 4) slot (fun _ b => b.onD fun d => d.complete k 1 0x8001) fun l b => b.onD fun d =>
      d.flashWrite k f slot (bitOf p 112) l

def execFlashWrite (c : Ici) (s : State) : Res :=
  s.ici 0x0805 c (inSpools (pay c.p 0 8)) fun k b => b.flashCmd k c.p

/-! ### FW_QUERY (16 R500) -/

def Dev.fwInfo (d : Dev) : List Byte :=
  let w := d.fw
  let vers := (List.range 4).flatMap fun s => leBytes 4 (if bitOf w.roots s then (getD w.rootImg s .none).version.toNat else 0)
  let other := sumN (((List.range 4).filter fun s => d.cutterState s != 3 && getD w.cutImg s .none != w.pattern).map fun s => 2 ^ s)
  padTo 128 (vers ++ leBytes 4 w.pattern.version.toNat ++ leBytes 2 w.pattern.level ++ leBytes 1 other
    ++ leBytes 1 (w.upd.elim 0 fun u => if u.thimble then 2 else 1) ++ leBytes 2 w.svnThimble ++ leBytes 2 w.svnPattern
    ++ leBytes 2 d.thimbleImg.svn ++ leBytes 2 w.pattern.svn ++ leBytes 1 w.prefer ++ leBytes 1 w.booted
    ++ leBytes 1 (packFields [(boolN d.diag, 0), (boolN w.warm, 1)]) ++ zeros 1 ++ leBytes 4 w.bootCount
    ++ leBytes 8 (w.dirGen 0) ++ leBytes 8 (w.dirGen 1) ++ leBytes 4 (w.diagEnd.elim 0 fun t => (t - d.now) / 1000000000)
    ++ zeros 4 ++ leBytes 32 (Config.challenge w.challenge).toNat)

def execFwQuery (c : Ici) (s : State) : Res :=
  s.ici 0x0807 c (inSpools (pay c.p 8 8)) fun k b => b.giveBytes k none 8 (pay c.p 8 8) Dev.fwInfo

end Sys2Proof.Machine
end

