-- ==== Sys2Proof/Machine/Registers.lean ====
section
/-! DEFINITION. Accesses to the Yoke window: register writes with the handling of halves, registers that a read or write
changes, the BM_ and CR_ groups, and the aperture (00 R10 to R14; 02 R57; 14 R408 to R413, R431; 17 R512, R518). -/

namespace Sys2Proof.Machine

/-! ### Halves of 64-bit registers (00 R11) -/

/-- The value that a write applies to the 64-bit register at `off`, none for a held low half. -/
def Dev.halves (d : Dev) (off : Nat) (present : W64) (part : Part) (v : W64) : Dev × Option W64 :=
  let drop := { d with yoke := { d.yoke with lowHeld := del d.yoke.lowHeld off } }
  match part with
  | .whole => (drop, some v)
  | .low => ({ d with yoke := { d.yoke with lowHeld := put d.yoke.lowHeld off (BitVec.ofNat 32 v.toNat) } }, none)
  | .high =>
    let low := ((get? d.yoke.lowHeld off).map (·.toNat)).getD (fld present 0 32)
    (drop, some (BitVec.ofNat 64 (low + fld v 0 32 * 2 ^ 32)))

/-- Applies a write to a 64-bit register. -/
def Dev.write64 (d : Dev) (off : Nat) (present : W64) (part : Part) (v : W64) (set : Dev → W64 → Dev) : Dev :=
  let r := d.halves off present part v
  r.2.elim r.1 fun x => set r.1 x

/-- A word with the bits of a mask only. -/
def maskW (v : W64) (mask : Nat) : W64 := v &&& BitVec.ofNat 64 mask

/-! ### Registers without behaviour of their own (REGISTER_WRITE) -/

/-- Bits [51:6] and [51:21]. -/
def bits51 (lo : Nat) : Nat := 2 ^ 52 - 2 ^ lo

def Dev.setReg32 (d : Dev) (off : Nat) (v : W32) : Dev :=
  if off = 0x0014 then { d with yoke := { d.yoke with devirqEn := BitVec.ofNat 3 v.toNat } }
  else if off = 0x0020 then { d with yoke := { d.yoke with devirqData := v } }
  else if 0x0200 ≤ off ∧ off < 0x0440 ∧ (off - 0x0200) % 0x40 = 0x30 then
    d.updQueue ((off - 0x0200) / 0x40) fun x => { x with irqData := v }
  else d

def Dev.setReg64 (d : Dev) (off : Nat) (v : W64) : Dev :=
  if off = 0x0018 then { d with yoke := { d.yoke with devirqAddr := maskW v (2 ^ 64 - 4) } }
  else if off = 0x0400 then
    d.updQueue 8 fun x => if x.enable then x else { x with sqBase := (maskW v (bits51 6)).toNat }
  else if off = 0x0408 then
    d.updQueue 8 fun x => if x.enable then x else { x with cqBase := (maskW v (bits51 6)).toNat }
  else if 0x0200 ≤ off ∧ off < 0x0440 ∧ (off - 0x0200) % 0x40 = 0x28 then
    d.updQueue ((off - 0x0200) / 0x40) fun x => { x with irqAddr := maskW v (2 ^ 64 - 4) }
  else if 0x0600 ≤ off ∧ off < 0x0680 then
    { d with yoke := { d.yoke with aper := put d.yoke.aper ((off - 0x0600) / 8) (maskW v (bits51 21 + 3)) } }
  else d

/-- Registers whose writes are commands of their own. -/
def ownRow (off : Nat) : Bool := off == 0x1018 || (0x3000 ≤ off && off < 0x4000)

/-- A 32-bit write at an aligned offset: to a 32-bit register, or to a half of a 64-bit one. -/
def Dev.write32At (d : Dev) (off : Nat) (v : W32) : Dev :=
  let w : W64 := BitVec.ofNat 64 v.toNat
  let base := off / 8 * 8
  if regWidth off = some 32 then d.setReg32 off v
  else if regWidth base = some 64 ∧ !ownRow base then
    d.write64 base (BitVec.ofNat 64 (d.reg base)) (if off = base then .low else .high) w fun d x => d.setReg64 base x
  else d

/-- REGISTER_WRITE: an aligned access of 4 or 8 bytes; any other is ignored (00 R11 says so of a narrower one; of one that
is not aligned it is DESIGN CHOICE, log 56). Of a 64-bit access over two adjacent 32-bit registers the manual does not
speak: each half is written as a plain register, and a half whose register has a command of its own (YK_DEVIRQ, TP_CTRL,
YK_QTAIL_q, YK_QCTRL_q, BM_CTRL) is dropped (DESIGN CHOICE, log 56). -/
def Dev.registerWrite (d : Dev) (off bytes : Nat) (v : W64) : Dev :=
  if bytes = 4 ∧ off % 4 = 0 then d.write32At off (BitVec.ofNat 32 v.toNat)
  else if bytes = 8 ∧ off % 8 = 0 then
    if regWidth off = some 64 then
      if ownRow off then d else d.write64 off (BitVec.ofNat 64 (d.reg off)) .whole v fun d x => d.setReg64 off x
    else (d.setReg32 off (BitVec.ofNat 32 v.toNat)).setReg32 (off + 4) (BitVec.ofNat 32 (v.toNat / 2 ^ 32))
  else d

def execRegisterWrite (off : W16) (bytes : Nat) (v : W64) (s : State) : Res :=
  s.onDev fun d => d.registerWrite off.toNat bytes v

/-! ### What a read access returns (00 R11; 02 R57; 17 R512; 19 R555) -/

/-- Bytes at `o` of the window of MB_REC_0 to MB_REC_3, which shows the records from MB_SEL on. -/
def Dev.recRead (d : Dev) (o n : Nat) : Nat := leAt (d.recBytes (d.mb.sel + o / 512)) (o % 512) n

/-- What an aligned 32-bit read returns: a 32-bit register, a half of a 64-bit one, or 4 bytes of a record window. The
high half of TP_NOW is the one latched for the requester by its last read of the low half; before one, the present high
half (DESIGN CHOICE, log 56). -/
def Dev.read32 (d : Dev) (req off : Nat) : Nat :=
  let base := off / 8 * 8
  if 0x1800 ≤ off ∧ off < 0x2000 then d.recRead (off - 0x1800) 4
  else if regWidth off = some 32 then limN 32 (d.reg off)
  else if off = 0x0804 then ((get? d.tape.latch req).map (·.toNat)).getD (limN 32 (d.tape.now / 2 ^ 32))
  else if regWidth base = some 64 then limN 32 (d.reg base / 2 ^ (8 * (off - base)))
  else 0

/-- What a read access of `bytes` bytes at an offset returns to requester `req`, without what the read changes: a read
narrower than 32 bits returns 0. Of one that is not aligned, or of another width, the manual does not speak: a free value;
a 64-bit access over two 32-bit registers returns both (DESIGN CHOICE, log 56). -/
def Dev.readAccess (d : Dev) (req off bytes : Nat) : Nat :=
  if bytes = 4 ∧ off % 4 = 0 then d.read32 req off
  else if bytes = 8 ∧ off % 8 = 0 then
    if 0x1800 ≤ off ∧ off < 0x2000 then d.recRead (off - 0x1800) 8
    else if regWidth off = some 64 then limN 64 (d.reg off)
    else d.read32 req off + 2 ^ 32 * d.read32 req (off + 4)
  else if bytes < 4 then 0
  else (Config.freeWord d.mb.head off).toNat

/-! ### W1C, RC and latching accesses (00 R12 to R14; 02 R57) -/

def Dev.answerRead (d : Dev) (v : W64) : Dev := { d with out := { value := v, bytes := [], err := false } }

/-- YK_DEVIRQ_CLEAR: each 1 clears its bit. A bit that the device sets in the same update step ends set (00 R13). -/
def execYkDevirqClear (v : W32) (s : State) (same : Bool := false) : Res :=
  s.onDev fun d => { d with yoke := { d.yoke with
    devirq := (d.yoke.devirq &&& ~~~(BitVec.ofNat 3 v.toNat)) ||| (if same then d.yoke.devirqSet else 0)
    devirqSet := if same then d.yoke.devirqSet else 0 } }

/-- TP_NOW_LOW_READ: returns the low half and latches the high half for the requester. -/
def execTpNowLowRead (req : Nat) (s : State) : Res :=
  s.onDev fun d =>
    let d := d.answerRead (BitVec.ofNat 64 (d.readAccess req 0x0800 4))
    { d with tape := { d.tape with latch := put d.tape.latch req (BitVec.ofNat 32 (d.tape.now / 2 ^ 32)) } }

/-- TP_LATE_READ: returns and clears WORST. When the device updates the field in the same update step, the read returns
the value before the update, and the new value remains (00 R14; log 55). -/
def execTpLateRead (n : Fin 8) (s : State) (same : Bool := false) : Res :=
  s.onDev fun d =>
    match (if same then get? d.tape.lateWas n.val else none) with
    | some old => d.answerRead (BitVec.ofNat 64 old.toNat)
    | none =>
      let d := d.answerRead (BitVec.ofNat 64 (d.rdTpLate n.val))
      { d with tape := { d.tape with late := put d.tape.late n.val 0, lateWas := del d.tape.lateWas n.val } }

/-- MB_LOST_READ: returns and clears LOST; in the update step of an update it returns the value before it (00 R14). -/
def execMbLostRead (s : State) (same : Bool := false) : Res :=
  s.onDev fun d =>
    match (if same then d.mb.lostWas else none) with
    | some old => d.answerRead (BitVec.ofNat 64 (limN 32 old))
    | none =>
      let d := d.answerRead (BitVec.ofNat 64 (limN 32 d.mb.lost))
      { d with mb := { d.mb with lost := 0, lostWas := none } }

/-- MB_OVERRUN_CLEAR: a 1 in bit 2 clears OVERRUN, unless the device sets it in the same update step (00 R13). -/
def execMbOverrunClear (v : W32) (s : State) (same : Bool := false) : Res :=
  s.onDev fun d => { d with mb := { d.mb with
    overrun := (d.mb.overrun && !bitOf v 2) || (same && d.mb.overrunSet)
    overrunSet := same && d.mb.overrunSet } }

/-- MB_SEL_WRITE: selects the records that MB_REC_0 to MB_REC_3 show. -/
def execMbSelWrite (part : Part) (v : W64) (s : State) : Res :=
  s.onDev fun d => d.write64 0x1018 (BitVec.ofNat 64 d.mb.sel) part v fun d x => { d with mb := { d.mb with sel := x.toNat } }

/-! ### Bare-mode actions (14 R431, R432) -/

/-- A write of BM_CTRL that may act: in bare mode, with the key. -/
def Dev.bmKey (d : Dev) (v : W32) : Bool := d.bare && fld v 16 16 == 0xBA5E

/-- Event 0x100E: 0 drain at boundary, 1 drain at once, 2 Measure Book flush, 3 warm reset. -/
def Dev.bmEvent (d : Dev) (action : Nat) : Dev := d.ev 0x100E (dieSelvage 0) none [action]

def Box.bmDrain (b : Box) (action : Nat) : Box :=
  let b := b.onD fun d =>
    let d := d.bmEvent action
    { d with yoke := { d.yoke with draining := true } }
  b.dev.runningCtxs.foldl (fun b n => if action = 0 then b.stopAtBoundary n none else b.stopNow n (.stopped 1)) b

def execBmDrainAtBoundary (v : W32) (s : State) : Res :=
  s.on fun b => if b.dev.bmKey v && fld v 0 2 == 1 then b.bmDrain 0 else b

def execBmDrainAtOnce (v : W32) (s : State) : Res :=
  s.on fun b => if b.dev.bmKey v && fld v 0 2 == 2 then b.bmDrain 1 else b

/-- MB_FLUSH: the ring is written to its Spool region; MB_FLUSHED once that is done. In Hold the drainer waits for the exit,
which it starts (18 R535). -/
def execMbFlush (v : W32) (s : State) : Res :=
  s.onDev fun d =>
    if d.bmKey v && bitOf v 2 then
      let d := d.bmEvent 2
      if d.power.hold then { d with mb := { d.mb with flushed := false, flushing := true } }.wakeFor 4 0 else d.flushBook
    else d

/-- A warm reset resets the clusters: the scratchpads lose their content (16 R487; 06 R187). -/
def Box.warmReset (b : Box) (env : BootEnv) : Box :=
  (b.onS fun s => s.lostScr 0 (6144 * 2097152)).onD fun d => (d.bmEvent 3).warmReset env

/-- WARM_RESET. -/
def execWarmReset (v : W32) (env : BootEnv) (s : State) : Res :=
  s.on fun b => if b.dev.bmKey v && bitOf v 3 then b.warmReset env else b

/-! ### Crease registers (17 R518) -/

/-- Bits of a CR_ register that hold fields, and its width. -/
def crMask (off : Nat) : Option (Nat × Nat) :=
  if off = 0x3000 then some (1, 32)
  else if off = 0x3008 then some (2 ^ 64 - 1, 64)
  else if off = 0x3010 then some (2 ^ 28 - 1, 64)
  else if off = 0x3018 then some (2 ^ 24 - 1, 64)
  else if off = 0x3020 then some (2 ^ 28 - 1, 64)
  else if off = 0x3028 then some (2 ^ 30 - 1, 64)
  else if off = 0x3030 then some (2 ^ 12 - 1, 64)
  else none

/-- Gives a CR_ register a value; event 0xD006 when a field changes. -/
def Dev.crSet (d : Dev) (off : Nat) (v : W64) : Dev :=
  let old := getD d.cr.regs off 0
  if old = v then d
  else ({ d with cr := { d.cr with regs := put d.cr.regs off v } }).ev 0xD006 (dieSelvage 0) none [off, old.toNat, v.toNat]

/-- CREASE_WRITE: in the diagnostic state a write to a CR_ register; outside it the write is ignored and event 0xD009 is
raised at most once per second. -/
def Dev.creaseWrite (d : Dev) (off : Nat) (part : Part) (v : W64) : Dev :=
  if off < 0x3000 ∨ 0x4000 ≤ off then d
  else if !d.diag then d.oncePerSec 0xD009 fun d => d.ev 0xD009 (dieSelvage 0) none [off, 1]
  else
    match crMask off with
    | none => d
    | some (m, w) =>
      if w = 32 then d.crSet off (maskW v m)
      else d.write64 off (getD d.cr.regs off 0) part v fun d x => d.crSet off (maskW x m)

def execCreaseWrite (off : W16) (part : Part) (v : W64) (s : State) : Res :=
  s.onDev fun d => d.creaseWrite off.toNat part v

/-! ### The aperture (14 R408, R410) -/

def aperTarget (r : W64) : Nat := (maskW r (bits51 21)).toNat

/-- Why an access may not land: 0 disabled window, 1 no Spool region, 2 companion or reserved window, 3 write without
permission. -/
def Dev.aperFault (d : Dev) (r : W64) (a n : Nat) (write : Bool) : Option Nat :=
  if !bitOf r 0 then some 0
  else if companionBase ≤ a then some 2
  else if (d.regionOf a n).isNone then some 1
  else if write && !bitOf r 1 then some 3 else none

/-- Lines that the companion reads enter the directory; when it is full the earliest leaves. -/
def Dev.enterDirectory (d : Dev) (a n : Nat) : Dev :=
  let dir := (linesOf a n).foldl (fun t l => if t.contains l then t else t ++ [l]) d.yoke.directory
  { d with yoke := { d.yoke with directory := lastN 1048576 dir } }

def Dev.answerBytes (d : Dev) (l : List Byte) : Dev := { d with out := { value := 0, bytes := l, err := false } }

/-- APERTURE_ACCESS: a read without data, a write with. A read of poisoned data gets an error response and event 0xF004; in
Hold the access waits for the exit, which it starts; it waits while its Spool is in Trip (11 R339). -/
def Box.aperture (b : Box) (off n : Nat) (data : Option (List Byte)) : Box :=
  let d := b.dev
  let w := off / 2 ^ 36
  let r := getD d.yoke.aper w 0
  let a := aperTarget r + off % 2 ^ 36
  if d.yoke.down.isSome then b
  else match d.aperFault r a n data.isSome with
    | some why => b.onD fun d =>
        let d := d.oncePerSec 0x1008 fun d => d.ev 0x1008 (dieSelvage 0) none [off, w, why]
        if data.isSome then d else d.answerBytes (List.replicate n 0xFF)
    | none =>
      if d.power.hold then b.onD fun d => d.wakeFor 1 a
      else if d.tripHolds a n then b
      else match data with
        | some l =>
          let dir := d.yoke.directory
          (b.wrClean a l).onD fun d => { d with yoke := { d.yoke with directory := dir } }
        | none =>
          let l := b.store.rdMem a n
          if anyBad l then b.onD fun d =>
            ({ d with out := { value := 0, bytes := [], err := true } }).ev 0xF004 (dieSelvage 0) none [off, a]
          else b.onD fun d => (d.enterDirectory a n).answerBytes (bytesOf l)

def execApertureAccess (off : BitVec 40) (n : Nat) (data : Option (List Byte)) (s : State) : Res :=
  s.on fun b => b.aperture off.toNat n data

/-- COMPANION_WRITE: a companion write to its own memory; run-ahead buffers lose the lines it touches (R409). -/
def execCompanionWrite (a : Nat) (data : List Byte) (s : State) : Res :=
  s.on fun b =>
    let x := companionBase + a % 2 ^ 48
    let ls := linesOf x data.length
    { store := b.store.wrMem x (clean data)
      dev := { b.dev with
        ahead := b.dev.ahead.filter fun y => !ls.contains y.line
        caches := b.dev.caches.map fun g => (g.1, g.2.map fun e => (e.1, e.2.filter fun y => !ls.contains y)) } }

end Sys2Proof.Machine
end

