-- ==== Sys2Proof/Machine/Images.lean ====
section
/-! DEFINITION. Schedule images: reading the header and the sections, and the checks of SCHED_LOAD in their order (05 R149 to
R151, R155 to R161, R169 to R172; 06 R180, R182, R185; 09 R291). -/

namespace Sys2Proof.Machine

/-- What a failed check answers: event, payload after the context, and the byte offset of the offending item. -/
structure LoadFault where
  ev : Nat
  slots : List Int
  at' : Nat
deriving DecidableEq, Repr

/-- The first fault among checks made one after another. -/
def firstFault (l : List (Unit → Option LoadFault)) : Option LoadFault := l.findSome? fun f => f ()

/-! ### Sections (05 R169, R170) -/

/-- Sections in the order of OFFSETS: offset field, count field, bytes of an entry. -/
def sectionTable : List (Nat × Nat × Nat) := [(52, 20, 16), (56, 22, 32), (60, 24, 16), (64, 26, 8), (68, 28, 8)]

/-- Entries of section `i`: offset of each. -/
def entriesAt (l : List Byte) (i : Nat) : List Nat :=
  match sectionTable[i]? with
  | some s => (List.range (leAt l s.2.1 2)).map fun n => leAt l s.1 4 + n * s.2.2
  | none => []

/-- Where the parts of a block begin: instructions, Tack entries, records, handle list; and its end. -/
structure BlockAt where
  base : Nat
  len : Nat
  ni : Nat
  nt : Nat
  nr : Nat
  nh : Nat
deriving DecidableEq, Repr

def BlockAt.insn (b : BlockAt) (i : Nat) : Nat := b.base + 8 * i
def BlockAt.tack (b : BlockAt) (i : Nat) : Nat := b.base + 8 * b.ni + 16 * i
def BlockAt.record (b : BlockAt) (i : Nat) : Nat := b.base + 8 * b.ni + 16 * b.nt + 32 * i
def BlockAt.handle (b : BlockAt) (i : Nat) : Nat := b.base + 8 * b.ni + 16 * b.nt + 32 * b.nr + 16 * i
def BlockAt.need (b : BlockAt) : Nat := 8 * b.ni + 16 * b.nt + 32 * b.nr + 16 * b.nh

def blockAt (l : List Byte) (e : Nat) : BlockAt :=
  ⟨leAt l e 4, leAt l (e + 4) 4, leAt l (e + 8) 2, leAt l (e + 10) 2, leAt l (e + 12) 2, leAt l (e + 14) 2⟩

def blocksAt (l : List Byte) : List BlockAt := (entriesAt l 0).map (blockAt l)

def readBlock (l : List Byte) (b : BlockAt) : Block :=
  { insns := (List.range b.ni).map fun i => BitVec.ofNat 64 (leAt l (b.insn i) 8)
    tacks := (List.range b.nt).map fun i => BitVec.ofNat 128 (leAt l (b.tack i) 16)
    recs := (List.range b.nr).map fun i => BitVec.ofNat 256 (leAt l (b.record i) 32)
    hlist := (List.range b.nh).map fun i => BitVec.ofNat 128 (leAt l (b.handle i) 16)
    bytes := b.len }

def readCore (l : List Byte) (e : Nat) : CoreMapE :=
  { core := leAt l e 2, block := leAt l (e + 2) 2, entF := leAt l (e + 4) 2, entB := leAt l (e + 6) 2
    entU := leAt l (e + 8) 2, shadow := leAt l (e + 10) 1
    s := (List.range 5).map fun i => BitVec.ofNat 32 (leAt l (e + 12 + 4 * i) 4) }

def readKnot (l : List Byte) (e : Nat) : KnotDecl :=
  { id := leAt l e 2, barrier := leAt l (e + 2) 1 == 1, stepEnd := (leAt l (e + 3) 1).testBit 0
    target := leAt l (e + 4) 4, absorb := leAt l (e + 8) 2 }

def readUse (l : List Byte) (e : Nat) : DescUse :=
  { idx := leAt l e 2, rd := (leAt l (e + 2) 1).testBit 0, wr := (leAt l (e + 2) 1).testBit 1, fmt := leAt l (e + 3) 1 % 32 }

/-- The image that the bytes spell. -/
def readImage (l : List Byte) : Image :=
  { major := leAt l 10 2, length := leAt l 12 4, pace := leAt l 16 1, seed := BitVec.ofNat 64 (leAt l 32 8)
    stepPeriod := leAt l 40 4, slipLimit := leAt l 44 4, watchdog := leAt l 48 4
    blocks := (blocksAt l).map (readBlock l)
    cores := (entriesAt l 1).map (readCore l)
    knots := (entriesAt l 2).map (readKnot l)
    shapes := (entriesAt l 3).map fun e => (leAt l e 2, leAt l (e + 4) 4)
    descs := (entriesAt l 4).map (readUse l)
    clusterMap := (List.range 24).map fun b => leAt l (80 + 2 * b) 2
    owned := [] }

/-! ### 0xE001, 0xE002 (05 R171) -/

def headerFault (at' : Nat) : LoadFault := ⟨0xE001, [at', fieldItem at' 0], at'⟩

/-- The header's own fields, from its bytes and the command's length. -/
def headerBad (h : List Byte) (n : Nat) : Option LoadFault :=
  let len := leAt h 12 4
  if h.take 8 != asciiBytes "FVKSCHED" then some (headerFault 0)
  else if leAt h 10 2 ≠ 1 ∧ leAt h 10 2 ≠ 2 then some (headerFault 8)
  else if n < len ∨ len < 256 ∨ 2 ^ 30 < len then some (headerFault 12)
  else if leAt h 16 1 < 1 ∨ 3 < leAt h 16 1 then some (headerFault 16)
  else if leAt h 22 2 < 1 ∨ 6144 < leAt h 22 2 then some (headerFault 22)
  else (sectionTable.find? fun s => leAt h s.1 4 % 8 != 0 || len < leAt h s.1 4 + leAt h s.2.1 2 * s.2.2).map fun s => headerFault s.1

/-- Blocks and what their counts say lie inside the image. -/
def blocksBad (l : List Byte) : Option LoadFault :=
  (entriesAt l 0).findSome? fun e =>
    let b := blockAt l e
    if b.base % 8 ≠ 0 ∨ l.length < b.base + b.len then some (headerFault e)
    else if b.len < b.need then some (headerFault (e + 8)) else none

/-- The eight 64-bit words of a digest. -/
def words8 (v : BitVec 512) : List Int := (List.range 8).map fun i => ((fld v (64 * i) 64 : Nat) : Int)

def digestBad (l : List Byte) : Option LoadFault :=
  if (l.drop 128).take 64 == sha3_512 (l.drop 256) then none else some ⟨0xE002, words8 (sha3Word (l.drop 256)), 128⟩

/-! ### Walking the blocks -/

/-- Blocks by number, with their places. -/
def Image.blocksOf (i : Image) (l : List Byte) : List (Nat × BlockAt × Block) :=
  ((List.range i.blocks.length).zip ((blocksAt l).zip i.blocks))

def Block.insnsOf (b : Block) : List (Nat × W64) := (List.range b.insns.length).zip b.insns
def Block.recsOf (b : Block) : List (Nat × BitVec 256) := (List.range b.recs.length).zip b.recs

/-- The record that a format C instruction names. -/
def Block.recFor (b : Block) (w : W64) : Option (BitVec 256) :=
  if Insn.fmtOf (Insn.opc w) = .C then b.recs[Insn.ridx w - 1]? else none

/-- The first fault over instructions of every block. -/
def Image.eachInsn (i : Image) (l : List Byte) (f : Nat → BlockAt → Block → Nat → W64 → Option LoadFault) : Option LoadFault :=
  (i.blocksOf l).findSome? fun b => b.2.2.insnsOf.findSome? fun x => f b.1 b.2.1 b.2.2 x.1 x.2

def Image.eachRec (i : Image) (l : List Byte) (f : Nat → BlockAt → Nat → BitVec 256 → Option LoadFault) : Option LoadFault :=
  (i.blocksOf l).findSome? fun b => b.2.2.recsOf.findSome? fun x => f b.1 b.2.1 x.1 x.2

/-- A record of an assigned operation whose KIND is that of every instruction that names it: which fields another record
uses no rule says (log 52). -/
def Block.kindOk (b : Block) (k : Nat) (r : BitVec 256) : Bool :=
  opKnown r && b.insns.all fun w => Insn.fmtOf (Insn.opc w) != .C || Insn.ridx w != k + 1 || recN r 0 1 == Insn.opc w

/-- The first fault over the records whose fields are known. -/
def Image.eachKnownRec (i : Image) (l : List Byte) (f : BlockAt → Nat → BitVec 256 → Option LoadFault) : Option LoadFault :=
  (i.blocksOf l).findSome? fun b => b.2.2.recsOf.findSome? fun x => if b.2.2.kindOk x.1 x.2 then f b.2.1 x.1 x.2 else none

/-! ### 0xE003, 0xE004 -/

def Image.opcodeBad (i : Image) (l : List Byte) : Option LoadFault :=
  i.eachInsn l fun n at' _ k w =>
    if Insn.defined (Insn.opc w) then none else some ⟨0xE003, [n, k, Insn.opc w], at'.insn k⟩

def reservedFault (at' : Nat) : LoadFault := ⟨0xE004, [at'], at'⟩

/-- Bytes `o` to `o + n - 1` that must be 0. -/
def zeroBad (l : List Byte) (o n : Nat) : Option LoadFault :=
  ((span o n).find? fun a => leAt l a 1 != 0).map reservedFault

/-- Unused fields of an instruction word. -/
def insnZeros (b : Block) (w : W64) : Bool :=
  Insn.zerosCommon w && match Insn.fmtOf (Insn.opc w) with
    | .S => Insn.zerosS w
    | .K => Insn.zerosK w
    | .C => fld w 0 3 == 0 && (b.recFor w).all fun r => recN r 0 1 != Insn.opc w || !opKnown r || handlesZero w r

def tackZeros (t : BitVec 128) : Bool := fld t 51 13 == 0 && fld t 96 32 == 0

/-- Reserved fields of the header and the sections, and the rules on Knot kinds and STEP_END. -/
def Image.sectionZeros (i : Image) (l : List Byte) : Option LoadFault :=
  firstFault
    [fun _ => zeroBad l 17 3, fun _ => zeroBad l 30 2, fun _ => zeroBad l 72 8, fun _ => zeroBad l 192 64,
     fun _ => (entriesAt l 1).findSome? fun e => zeroBad l (e + 11) 1,
     fun _ => (entriesAt l 2).findSome? fun e =>
       if 1 < leAt l (e + 2) 1 then some (reservedFault (e + 2))
       else if 1 < leAt l (e + 3) 1 ∨ ((leAt l (e + 3) 1).testBit 0 ∧ leAt l (e + 2) 1 ≠ 1) then some (reservedFault (e + 3))
       else zeroBad l (e + 10) 6,
     fun _ => (((entriesAt l 2).filter fun e => (leAt l (e + 3) 1).testBit 0)[1]?).map fun e => reservedFault (e + 3),
     fun _ => (entriesAt l 3).findSome? fun e => zeroBad l (e + 2) 2,
     fun _ => (entriesAt l 4).findSome? fun e =>
       if 3 < leAt l (e + 2) 1 then some (reservedFault (e + 2))
       else if 31 < leAt l (e + 3) 1 then some (reservedFault (e + 3)) else zeroBad l (e + 4) 4,
     fun _ => i.eachInsn l fun _ at' b k w => if insnZeros b w then none else some (reservedFault (at'.insn k)),
     fun _ => (i.blocksOf l).findSome? fun b =>
       (((List.range b.2.2.tacks.length).zip b.2.2.tacks).find? fun t => !tackZeros t.2).map fun t => reservedFault (b.2.1.tack t.1),
     fun _ => i.eachRec l fun _ at' k r => (unusedSet r).map fun f => reservedFault (at'.record k + f.1)]

/-! ### 0xE005: index kinds in the order of R175 -/

def indexFault (at' kind : Nat) (value : Int) : LoadFault := ⟨0xE005, [at', kind, value], at'⟩

def Image.hasShape (i : Image) (slot : Nat) : Bool := i.shapes.any (·.1 == slot)
def Image.hasKnot (i : Image) (k : Nat) : Bool := i.knots.any (·.id == k)

/-- The indices that one instruction word holds. -/
def Image.insnIndex (i : Image) (at' : BlockAt) (k : Nat) (w : W64) : Option LoadFault :=
  let o := Insn.opc w
  let a := at'.insn k
  let t : Int := (k : Int) + Insn.simm w
  let slot := Insn.imm w % 4096
  if at'.nt < Insn.tidx w then some (indexFault a 0 (Insn.tidx w))
  else if Insn.fmtOf o = .C ∧ (Insn.ridx w = 0 ∨ at'.nr < Insn.ridx w) then some (indexFault a 1 (Insn.ridx w))
  else if (o = 0x02 ∨ o = 0x03) ∧ (t < 0 ∨ (at'.ni : Int) ≤ t) then some (indexFault a 2 t)
  else if Insn.fmtOf o = .K ∧ !Insn.krmt w ∧ !i.hasKnot (Insn.kid w) then some (indexFault a 6 (Insn.kid w))
  else if (o = 0x30 ∨ o = 0x31) ∧ !i.hasShape slot then some (indexFault a 7 slot)
  else none

/-- Shape-word slots that a record names. -/
def recSlots (r : BitVec 256) : List Nat :=
  let o := recN r 0 1
  countSlots r
    ++ (if o = 0x60 ∧ gqSlot r ≠ none16 then (if gqOp r = 8 then [gqSlot r, gqSlot r + 1] else [gqSlot r]) else [])
    ++ (if o = 0x61 then [auSlot r, auSlot r + 1] else [])

/-- Core map entries: block, logical core and entry instructions. -/
def Image.coreIndex (i : Image) (l : List Byte) (e : Nat) : Option LoadFault :=
  let c := readCore l e
  match i.blocks[c.block]? with
  | none => some (indexFault e 4 c.block)
  | some b =>
    if 6144 ≤ c.core then some (indexFault e 5 c.core)
    else (c.entries.find? fun x => b.insns.length ≤ x.2).map fun x => indexFault e 3 x.2

/-- The second of two entries of a section with one value. -/
def dupIn (es : List Nat) (v : Nat → Nat) (kind : Nat) : Option LoadFault :=
  (firstDup (es.map v)).bind fun x => ((es.filter fun e => v e == x)[1]?).map fun e => indexFault e kind x

/-- A block ends in an unguarded STOP, ABORT or JMP (05 R160). -/
def blockEnds (b : Block) : Bool :=
  match b.insns.getLast? with
  | some w => (Insn.opc w == 0x06 || Insn.opc w == 0x07 || Insn.opc w == 0x02) && !Insn.g w
  | none => false

def Image.indexBad (i : Image) (l : List Byte) : Option LoadFault :=
  firstFault
    [fun _ => i.eachInsn l fun _ at' _ k w => i.insnIndex at' k w,
     fun _ => i.eachKnownRec l fun at' k r =>
       ((recSlots r).find? fun s => !i.hasShape s).map fun s => indexFault (at'.record k) 7 s,
     fun _ => (entriesAt l 1).findSome? (i.coreIndex l),
     fun _ => ((entriesAt l 2).find? fun e => 16384 ≤ leAt l e 2).map fun e => indexFault e 6 (leAt l e 2),
     fun _ => ((entriesAt l 3).find? fun e => 4096 ≤ leAt l e 2).map fun e => indexFault e 7 (leAt l e 2),
     fun _ => ((entriesAt l 2).find? fun e => leAt l (e + 4) 4 == 0).map fun e => indexFault e 8 0,
     fun _ => dupIn (entriesAt l 2) (fun e => leAt l e 2) 9,
     fun _ => dupIn (entriesAt l 3) (fun e => leAt l e 2) 10,
     fun _ => dupIn (entriesAt l 1) (fun e => leAt l e 2) 11,
     fun _ => ((i.blocksOf l).find? fun b => !blockEnds b.2.2).map fun b =>
       indexFault (b.2.1.insn (b.2.1.ni - 1)) 12 ((b.2.2.insns.getLast?).elim 0 fun w => (Insn.opc w : Int))]

/-! ### 0xE006: record kinds, contents, and ranges of immediates -/

def recordFault (n : Nat) (at' : BlockAt) (k byte bit : Nat) : LoadFault := ⟨0xE006, [n, k + 1, fieldItem byte bit], at'.record k + byte⟩

/-- A launched action as the record alone gives it; none while a count is not an immediate. -/
def loadAction (w : W64) (r : BitVec 256) : Option Action :=
  let n := fun (i : Nat) => if i < (recCounts r).length then immCount r i else some 0
  match n 0, n 1, n 2 with
  | some a, some b, some c => some
      { id := 0, w := w, index := 0, desc := r, e := none, launch := 0, tack := 0, n0 := a, n1 := b, n2 := c, val := 0, dev := 0
        unit := 0, ctx := 0, step := 0, reads := [], writes := [], done := false, gen := none, since := 0, raised := false
        fetched := 0, cfg := [], input := 0, cause := 0, cyc := 0 }
  | _, _, _ => none

/-- Handle list entries of a block: number, FLAGS, LOG2NB, SIZE, BACKING. -/
def hlHandle (x : BitVec 128) : Nat := fld x 0 6
def hlFlags (x : BitVec 128) : Nat := fld x 8 8
def hlLog2 (x : BitVec 128) : Nat := fld x 16 8
def hlSize (x : BitVec 128) : Nat := fld x 32 32
def hlBacking (x : BitVec 128) : Nat := fld x 64 64

/-- Size of a handle of the block's handle list (06 R185). -/
def Block.listSize (b : Block) (h : Nat) : Option Nat := (b.hlist.find? fun x => hlHandle x == h).map hlSize

/-- The block that a range lies on: the own one, or that of the core that an XFER writes. -/
def Image.rangeBlock (i : Image) (b : Block) (core : Nat) : Option Block :=
  if core = 6144 then some b else (i.cores.find? (·.core == core)).bind fun e => i.blocks[e.block]?

/-- A range of immediates outside a handle list handle. -/
def rangeBad (d : Dev) (i : Image) (b : Block) (w : W64) (r : BitVec 256) : Bool :=
  let core := 6144
  let o := Insn.opc w
  (o == 0x50 || o == 0x51 || o == 0x52 || o == 0x53 || o == 0x54 || o == 0x58 || o == 0x59) && (loadAction w r).any fun x =>
    (d.ranges core x).any fun g => ((i.rangeBlock b g.core).bind fun y => y.listSize g.h).any fun n => decide (n < g.off + g.len)

def Image.recordBad (d : Dev) (i : Image) (l : List Byte) : Option LoadFault :=
  firstFault
    [fun _ => i.eachInsn l fun n at' b _ w => (b.recFor w).bind fun r =>
       if recN r 0 1 = Insn.opc w then none else some (recordFault n at' (Insn.ridx w - 1) 0 0),
     fun _ => i.eachRec l fun n at' k r =>
       match contentBad r with
       | some f => some (recordFault n at' k f.1 f.2)
       | none => match countBad r (immCount r) with
         | some f => some (recordFault n at' k f.1 f.2.1)
         | none => (immLimit r).map fun f => recordFault n at' k f.1 0,
     fun _ => i.eachInsn l fun n at' b _ w => (b.recFor w).bind fun r =>
       if (immCount r 0).any (copyClash r w) then some (recordFault n at' (Insn.ridx w - 1) 4 0)
       else if rangeBad d i b w r then some (recordFault n at' (Insn.ridx w - 1) 0 0) else none]

/-! ### 0xE007 to 0xE00A -/

/-- Bytes of instruction buffer that other contexts take on a core. -/
def Dev.codeUsed (d : Dev) (n core : Nat) : Nat :=
  sumN (((List.range 8).filter (· != n)).map fun m =>
    ((d.ctx m).coreMap core).elim 0 fun e => ((d.ctx m).block e.block).elim 0 (·.bytes))

def Image.sizeBad (d : Dev) (n : Nat) (i : Image) (l : List Byte) : Option LoadFault :=
  firstFault
    [fun _ => (((entriesAt l 0).zip ((List.range i.blocks.length).zip i.blocks)).find? fun x => 65536 < x.2.2.bytes).map fun x =>
       ⟨0xE007, [(i.cores.find? (·.block == x.2.1)).elim 0xFFFF fun c => d.coreSlot c.core, x.2.2.bytes, 65536], x.1 + 4⟩,
     fun _ => ((entriesAt l 1).zip i.cores).findSome? fun x =>
       let need := ((i.blocks[x.2.block]?).elim 0 (·.bytes))
       let used := d.codeUsed n x.2.core
       if 65536 < used + need then some ⟨0xE007, [d.coreSlot x.2.core, need, (65536 - used : Nat)], x.1⟩ else none]

/-- Handle numbers that an image names anywhere (06 R179). -/
def Image.handleNums (i : Image) : List Nat :=
  (i.blocks.flatMap fun b => b.hlist.map hlHandle ++ b.insns.flatMap fun w =>
    (b.recFor w).elim [] fun r => namedHandles w r).eraseDups

/-- Does another image hold a stream or a handle of this core map entry? -/
def Image.holdsOf (o : Image) (hs : List Nat) (e : CoreMapE) : Bool :=
  (o.cores.find? (·.core == e.core)).any fun x =>
    (x.entries.any fun a => e.entries.any fun b => a.1 == b.1) || o.handleNums.any hs.contains

def Image.conflictBad (d : Dev) (n : Nat) (i : Image) (l : List Byte) : Option LoadFault :=
  let others := ((List.range 8).filter (· != n)).filterMap fun m => ((d.ctx m).img).map fun o => (m, o)
  let hs := i.handleNums
  firstFault
    [fun _ => ((entriesAt l 1).zip i.cores).findSome? fun x =>
       (others.find? fun o => o.2.holdsOf hs x.2).map fun o => ⟨0xE008, [d.coreSlot x.2.core, o.1], x.1⟩,
     fun _ => ((entriesAt l 2).zip i.knots).findSome? fun x =>
       (others.find? fun o => o.2.hasKnot x.2.id).map fun o => ⟨0xE008, [x.2.id, o.1], x.1⟩]

/-- Logical clusters of a Bolt in service (01 R30). -/
def Dev.inService (d : Dev) (bolt : Nat) : Nat := (d.bolt bolt).out.foldl (fun m k => if m.testBit k then m - 2 ^ k else m) 65535

/-- The first Bolt whose mask names a cluster out of service. -/
def Dev.mapBad (d : Dev) (i : Image) : Option (List Int) :=
  ((List.range 24).find? fun b => (i.clusterMap.getD b 0) &&& d.inService b != i.clusterMap.getD b 0).map fun (b : Nat) =>
    ([b, i.clusterMap.getD b 0, d.inService b] : List Nat).map fun (x : Nat) => (x : Int)

def Image.clusterBad (d : Dev) (i : Image) : Option LoadFault :=
  (d.mapBad i).map fun s => ⟨0xE009, s, 80 + 2 * (s.headD 0).toNat⟩

/-- The shadow region is valid, and does not grow into banks of placed handles. -/
def Dev.shadowOk (d : Dev) (n : Nat) (e : CoreMapE) : Bool :=
  let others := ((List.range 8).filter (· != n)).filterMap fun m => ((d.ctx m).coreMap e.core).map (·.shadow)
  let u := max e.shadow (maxN others)
  decide (e.shadow ≤ 16) && (d.core e.core).handles.all fun h => h.2.spilled || decide (h.2.firstBank + h.2.nb ≤ 32 - u)

def Image.shadowBad (d : Dev) (n : Nat) (i : Image) (l : List Byte) : Option LoadFault :=
  (((entriesAt l 1).zip i.cores).find? fun x => !d.shadowOk n x.2).map fun x =>
    ⟨0xE00A, [d.coreSlot x.2.core, (x.2.shadow * 65536 : Nat)], x.1 + 10⟩

/-! ### Handle lists and tied weights (06 R180; 09 R291) -/

/-- Byte and bit of the first bad field of a handle list entry. -/
def listBad (x : BitVec 128) : Option (Nat × Nat) :=
  firstBad ([(fld x 6 2 == 0, 0, 6), (fld x 14 2 == 0, 1, 6), (fld x 19 5 == 0, 2, 3), (fld x 24 8 == 0, 3, 0)]
    ++ placeBad (hlFlags x) (hlLog2 x) (hlBacking x) 1 2 8 ++ [(sizeOk (hlFlags x) (hlLog2 x) (hlSize x), 4, 0)])

def handleFault (n : Nat) (at' : BlockAt) (k byte bit : Nat) : LoadFault := ⟨0xE802, [n, k, fieldItem byte bit], at'.handle k + byte⟩

def Image.listsBad (i : Image) (l : List Byte) : Option LoadFault :=
  (i.blocksOf l).findSome? fun b =>
    let hl := (List.range b.2.2.hlist.length).zip b.2.2.hlist
    match hl.findSome? fun x => (listBad x.2).map fun f => handleFault b.1 b.2.1 x.1 f.1 f.2 with
    | some f => some f
    | none => (firstDup (b.2.2.hlist.map hlHandle)).bind fun h =>
        ((hl.filter fun x => hlHandle x.2 == h)[1]?).map fun x => handleFault b.1 b.2.1 x.1 0 0

def Image.tiedBad (d : Dev) (i : Image) (l : List Byte) : Option LoadFault :=
  (d.tied i true).map fun t =>
    let at' := (i.blocksOf l).findSome? fun b => (b.2.2.recs[t.1.1]?).bind fun r => if r = t.1.2 then some (b.2.1.record t.1.1) else none
    ⟨0xC001, tiedSlots t, at'.getD 0⟩

/-! ### All checks (05 R171, R172) -/

/-- Free units of 2 MiB of a package-wide allocation (11 R323). -/
def Dev.freeUnits (d : Dev) : Nat := ((List.range 8).map fun m => (d.spool m).free).foldl min 293888

/-- The checks after the header, on an image whose header passed. -/
def Dev.loadBad (d : Dev) (n : Nat) (l : List Byte) : Option LoadFault :=
  let i := readImage l
  let units := ceilDiv i.length unit2M
  firstFault
    [fun _ => blocksBad l,
     fun _ => if d.freeUnits < units then some ⟨0xE00D, [units, d.freeUnits], 12⟩ else none,
     fun _ => digestBad l, fun _ => i.opcodeBad l, fun _ => i.sectionZeros l, fun _ => i.indexBad l, fun _ => i.recordBad d l,
     fun _ => i.sizeBad d n l, fun _ => i.conflictBad d n l, fun _ => i.clusterBad d, fun _ => i.shadowBad d n l,
     fun _ => i.listsBad l, fun _ => i.tiedBad d l]

end Sys2Proof.Machine
end

