-- ==== Sys2Proof/Machine/Scheds.lean ====
section
/-! DEFINITION. The schedule commands, group 0x03 (05 R148, R168, R171 to R174, R560, R561; 02 R58, R61; 06 R181, R186, R193;
09 R286; 18 R533, R546). -/

namespace Sys2Proof.Machine

/-! ### SCHED_LOAD (05 R171 to R173; 08 R265; 12 R392; 16 R476) -/

/-- A command outside the entries of R173's table. -/
def Box.badState (b : Box) (k : Pend) (n : Nat) : Box := b.fail k 0xE00B (some n) [(k.opc : Int), ((b.dev.ctx n).st.num : Int)]

/-- The Knots that an image declares, at COUNT 0 and GEN 0 (02 R58). -/
def Image.freshKnots (i : Image) (n : Nat) (t : Tbl Knot) : Tbl Knot :=
  i.knots.foldl (fun (t : Tbl Knot) (k : KnotDecl) => put t k.id ⟨0, k.target, 0, k.barrier, k.stepEnd, k.absorb, n⟩) t

/-- The context after a load that succeeded. -/
def Dev.loaded (d : Dev) (n : Nat) (l : List Byte) : Dev :=
  let i := readImage l
  let d := (d.takeFrames (ceilDiv i.length unit2M) none).setCtx n { Ctx.init with img := some { i with owned := i.handleNums } }
  let d := { d with
    knots := i.freshKnots n d.knots
    fw := { d.fw with mSched := put d.fw.mSched n (sha3Word l) } }
  d.setSt n .loaded 0x0301

def Box.loadFault (b : Box) (k : Pend) (n : Nat) (f : LoadFault) : Box := b.fail k f.ev (some n) f.slots (BitVec.ofNat 32 f.at')

def Box.schedLoad (k : Pend) (p : BitVec 384) (b : Box) : Box :=
  let a := pay p 0 8
  let len := pay p 8 4
  let n := payBits p 12 0 3
  if (b.dev.ctx n).st ≠ .empty then b.badState k n
  else b.withAddr k (some n) 0 a len 1 false fun b => b.withData k a (min len 256) fun h b =>
    match headerBad h len with
    | some f => b.loadFault k n f
    | none => b.withData k a (leAt h 12 4) fun l b =>
      match b.dev.loadBad n l with
      | some f => b.loadFault k n f
      | none => b.onD fun d => (d.loaded n l).okCmd k

/-- SCHED_LOAD ends after the commands that were accepted behind it have made their checks (14 R423); a retirement that
became due during the load follows it (01 R28). -/
def execSchedLoad (c : Ici) (s : State) : Res :=
  s.on fun b => if b.dev.accepting then b else (b.ici 0x0301 c true fun k b => b.schedLoad k c.p).tryRetire

/-! ### SCHED_RUN: the checks (05 R560) -/

/-- The hottest junction: temperature and die. -/
def Dev.hotDie (d : Dev) : Int × Nat :=
  let dies := (List.range 24).zip d.power.bolts ++ ((List.range 4).map dieSelvage).zip d.power.selv
  dies.foldl (fun (x : Int × Nat) e => if x.1 < e.2.toInt then (e.2.toInt, e.1) else x) (-32768, 0)

/-- Checks 2 to 9 in their order: event and payload after the context. -/
def Dev.runBad (d : Dev) (n base : Nat) : Option (Nat × List Int) :=
  match (d.ctx n).img with
  | none => none
  | some i =>
    if d.power.jst = 2 ∨ d.power.jst = 3 then some (0x6005, [d.hotDie.1, (d.hotDie.2 : Nat)])
    else if base % 4 ≠ 0 ∨ base < d.now + 100000 then some (0x900E, [(base : Nat), (d.now : Nat)])
    else match d.mapBad i with
      | some s => some (0xE009, s)
      | none => match d.useBad i with
        | some u => some (0xE00C, [(u.1 : Nat), (u.2 : Nat)])
        | none => match d.tied i false with
          | some t => some (0xC001, tiedSlots t)
          | none => match d.pressBad i with
            | some s => some (0xC002, s)
            | none => match d.shapeBad i with
              | some s => some (0x2010, s)
              | none => (d.moeBad i).map fun s => (0xB009, s)

/-! ### Handle lists (06 R181, R193) -/

def listWant (x : BitVec 128) : Want :=
  { handle := hlHandle x, zero := (hlFlags x).testBit 0, spillOk := (hlFlags x).testBit 1, spillOnly := (hlFlags x).testBit 2
    spillMax := hlFlags x / 8 % 8, log2nb := hlLog2 x, size := hlSize x, backing := hlBacking x }

/-- The handle list entries of an image, core by core in the order of the core map. -/
def Image.wants (i : Image) : List (Nat × Want) :=
  i.cores.flatMap fun e => ((i.blocks[e.block]?).elim [] (·.hlist)).map fun x => (e.core, listWant x)

/-- Places the handles that are not placed yet: the device, what was placed, and the entry that failed. -/
def Dev.placeAll (d : Dev) (n : Nat) : List (Nat × Want) → List (Nat × Nat) → Dev × List (Nat × Nat) × Option (Nat × Want)
  | [], done => (d, done, none)
  | (core, w) :: t, done =>
    if ((d.core core).placed w.handle).isSome then d.placeAll n t done
    else match d.findPlace core n w true with
      | some h => (d.enterHandle core w.handle h).placeAll n t (done ++ [(core, w.handle)])
      | none => (d, done, some (core, w))

/-! ### SCHED_RUN: acceptance (05 R148; 02 R58; 09 R286) -/

/-- The stream of a core map entry at the start of a run. -/
def startStream (n : Nat) (s : StreamSt) (e : CoreMapE) (entry : Nat) : StreamSt :=
  { StreamSt.init with
    ctx := some n, block := e.block, pc := entry, tapeHi := s.tapeHi, count := s.count
    s := ((List.range 5).zip e.s).foldl (fun t x => put t x.1 x.2) [] }

/-- The registers of a core at the start of a run. -/
def startCore (n : Nat) (c : Core) (e : CoreMapE) : Core :=
  let c := if e.entries.isEmpty then c else { c with shared := [], cyc := { CoreCyc.init with no := c.cyc.no } }
  e.entries.foldl (fun c x => c.setStream x.1 (startStream n (c.stream x.1) e x.2)) c

/-- Slots with P1 and P2 at their initial values. -/
def OSlot.start (o : OSlot) : OSlot := o.place o.e true

def Ctx.start (c : Ctx) (k : Pend) (base limit : Nat) : Ctx :=
  { c with
    runBase := base, step := 0, stepLimit := limit, slip := 0, inc := 0, slipEv := 0, stop := none, stopFault := none
    runCmd := some k, stopCmds := [], counts := .zero, firsts := [], shapes := []
    slots := c.slots.map fun e => (e.1, e.2.start)
    hold := none, rhold := none, pauseWanted := none, poisonSeen := false, stepTapes := [] }

/-- The set point of a pace class in mV (01 R46). -/
def classMv (cls : Nat) : Nat := if cls = 1 then 650 else if cls = 2 then 750 else if cls = 3 then 820 else 0

/-- The statistics entries of a cluster's Hem that a context wrote are valid no more (09 R274). -/
def Dev.dropStats (d : Dev) (n cl : Nat) : Dev := d.updHem cl fun h => { h with ents := h.ents.filter fun e => e.2.ctx != n }

/-- VCORE when a run is accepted in Idle or raises the pace class in force (18 R533). -/
def Dev.raiseVcore (d : Dev) (wasIdle : Bool) (oldClass : Nat) : Dev :=
  let cls := d.paceClass
  let d := if wasIdle ∨ oldClass < cls then { d with pace := { d.pace with vcore := max d.pace.vcore (classMv cls) } } else d
  if wasIdle then d.evFw 0x6001 none [1, 0, 0] else d

def Dev.startRun (d : Dev) (n : Nat) (k : Pend) (base limit : Nat) (i : Image) : Dev :=
  let idle := d.liveCtxs.isEmpty
  let cls := d.paceClass
  let d := i.cores.foldl (fun d e => (d.updCore e.core fun c => startCore n c e).dropStats n (clusterOf e.core)) d
  let d := { d with knots := i.freshKnots n d.knots }
  let d := d.updCtx n fun c => c.start k base limit
  (d.setSt n .running 0x0302).raiseVcore idle cls

/-- Every handle list handle of the context becomes valid at the start of its run and gets its content (06 R186, R187). -/
def Box.startHandles (b : Box) (n : Nat) : Box :=
  let b := b.onD fun d => d.validate n true
  (b.dev.validHandles fun _ _ h => h.ctx == n).foldl (fun b x => b.fillHandle n none x.1 x.2) b

def Box.schedRun (k : Pend) (p : BitVec 384) (b : Box) : Box :=
  let n := payBits p 0 0 3
  let base := pay p 8 8
  if (b.dev.ctx n).st ≠ .loaded then b.badState k n
  else match b.dev.runBad n base with
    | some e => b.fail k e.1 (some n) e.2
    | none => match (b.dev.ctx n).img with
      | none => b
      | some i =>
        let r := b.dev.placeAll n i.wants []
        match r.2.2 with
        | some w =>
          let d := r.2.1.foldl (fun d x => d.dropHandle x.1 x.2) r.1
          (b.withDev d).fail k 0xE801 (some n) [b.dev.coreSlot w.1, (w.2.handle : Nat), (w.2.size : Nat), (w.2.deepest : Nat)]
        | none => (((b.withDev r.1).startHandles n).onD fun d => d.startRun n k base (pay p 16 4) i).takeStage n false

def execSchedRun (c : Ici) (s : State) : Res := s.ici 0x0302 c true fun k b => b.schedRun k c.p

/-! ### SCHED_STOP (05 R173, R174) -/

def Box.schedStop (k : Pend) (p : BitVec 384) (b : Box) : Box :=
  let n := payBits p 0 0 3
  let mode := pay p 1 1
  b.fields k (some n) [(decide (mode ≤ 1), 1)] fun b =>
    if !(b.dev.ctx n).live then b.ok k
    else
      let pending := (b.dev.ctx n).st == .stopping
      let b := b.onD fun d => d.updCtx n fun c => { c with stopCmds := c.stopCmds ++ [k] }
      if mode = 1 then b.stopNow n (.stopped 1) k.opc
      else if pending then b else b.stopAtBoundary n none k.opc

def execSchedStop (c : Ici) (s : State) : Res := s.ici 0x0303 c false fun k b => b.schedStop k c.p

/-! ### SCHED_UNLOAD, SCHED_QUERY (05 R173; 10 R313; 16 R476) -/

/-- Frees everything that a loaded context holds. -/
def Dev.unload (d : Dev) (n : Nat) : Dev :=
  let c := d.ctx n
  let d := (d.handlesOf n fun _ => true).foldl (fun d x => d.dropHandle x.1 x.2) d
  let d := c.img.elim d fun i => d.giveFrames (ceilDiv i.length unit2M) none
  let gone := (d.seq.assigns.filter (·.ctx == n)).flatMap fun a => span a.first a.count
  let d := { d with
    knots := d.knots.filter fun e => e.2.owner != n
    seq := { slots := d.seq.slots.filter (fun e => !gone.contains e.1), assigns := d.seq.assigns.filter (·.ctx != n) }
    fw := { d.fw with mSched := del d.fw.mSched n } }
  let d := d.setSt n .empty 0x0304
  d.setCtx n .init

/-- A LOADED context has no valid handle, so that its banks have no power before. -/
def Box.schedUnload (k : Pend) (p : BitVec 384) (b : Box) : Box :=
  let n := payBits p 0 0 3
  match (b.dev.ctx n).st with
  | .empty => b.ok k
  | .loaded => b.onD fun d => (d.unload n).okCmd k
  | _ => b.badState k n

def execSchedUnload (c : Ici) (s : State) : Res := s.ici 0x0304 c false fun k b => b.schedUnload k c.p

/-- State, and the training-step number in bits [63:32]. -/
def schedInfo (x : Ctx) : W64 := BitVec.ofNat 64 (x.st.num + limN 32 x.step * 2 ^ 32)

def execSchedQuery (c : Ici) (s : State) : Res :=
  s.ici 0x0305 c false fun k b => b.ok k 0 (schedInfo (b.dev.ctx (payBits c.p 0 0 3)))

end Sys2Proof.Machine
end

