-- ==== Sys2Proof/Machine/YokeLink.lean ====
section
/-! DEFINITION. The Yoke as a link: lanes and width, silence, return, and engine accesses that wait for it (14 R404,
R405). -/

namespace Sys2Proof.Machine

/-- Healthy Yoke lanes. -/
def laneCount (v : BitVec 8) : Nat := ((List.range 8).filter fun i => bitOf v i).length

/-- The Yoke goes down: reason 0 lanes, 1 silence. -/
def Dev.yokeDown (d : Dev) (reason : Nat) : Dev :=
  if d.yoke.down.isSome then d
  else ({ d with yoke := { d.yoke with down := some d.now } }).ev 0x100B (dieSelvage 0) none [reason]

/-- A lane loss or a change of width: event 0x100A and YK_DEVIRQ.YOKE_WIDTH. -/
def Box.yokeWidth (b : Box) (lane old new : Nat) : Box :=
  (b.onD fun d => (d.setDevirq 2).ev 0x100A (dieSelvage 0) none [lane, old, new]).flushMsgs

/-- YOKE_LANE_LEAVE, on a trigger of 12 R361 other than SEAM_CTRL's: the Yoke runs on the largest allowed width that the healthy lanes form; below 4 it goes down. -/
def Box.yokeLaneLeave (b : Box) (lane : Nat) (t : LaneTrigger) : Box :=
  let y := b.dev.yoke
  if y.down.isSome || !bitOf y.healthy lane || t == .command || (t == .crc && b.dev.laneFails 64 lane ≤ 16) then b
  else
    let h := y.healthy &&& ~~~(BitVec.ofNat 8 (2 ^ lane))
    let w := yokeWidthOf (laneCount h)
    let b := b.onD fun d => { d with yoke := { d.yoke with healthy := h, width := w } }
    let b := b.yokeWidth lane y.width w
    if laneCount h < 4 then b.onD fun d => d.yokeDown 0 else b

def execYokeLaneLeave (lane : Fin 8) (t : LaneTrigger) (s : State) : Res :=
  s.on fun b => if b.dev.powered then b.yokeLaneLeave lane.val t else b

/-- YOKE_LANE_RETURN: a retrained lane is healthy again; a change of width is reported. -/
def Box.yokeLaneReturn (b : Box) (lane : Nat) : Box :=
  let y := b.dev.yoke
  if y.down.isSome || bitOf y.healthy lane then b
  else
    let h := y.healthy ||| BitVec.ofNat 8 (2 ^ lane)
    let w := yokeWidthOf (laneCount h)
    let b := b.onD fun d => { d with yoke := { d.yoke with healthy := h, width := w } }
    if w = y.width then b else b.yokeWidth lane y.width w

def execYokeLaneReturn (lane : Fin 8) (s : State) : Res :=
  s.on fun b => if b.dev.powered then b.yokeLaneReturn lane.val else b

/-- YOKE_SILENCE: no flit from the companion for 50 µs. -/
def execYokeSilence (s : State) : Res :=
  s.onDev fun d => if d.powered && (d.seam 64).lastHb + 50000 ≤ d.now then d.yokeDown 1 else d

/-- YOKE_LINK_RETURN with its healthy lanes, at least 4: the link starts anew (log 79), event 0x100C, and the waiting interrupt messages go out. A width
that changed is reported with the lowest lane that changed. -/
def Box.yokeReturns (b : Box) (lanes : BitVec 8) : Box :=
  let y := b.dev.yoke
  match y.down with
  | none => b
  | some t =>
    if laneCount lanes < 4 || bitOf b.dev.power.clocksLost 0 then b
    else
      let w := yokeWidthOf (laneCount lanes)
      let b := b.onD fun d => { d with yoke := { d.yoke with healthy := lanes, width := w, down := none } }
      let b := b.onD fun d => d.setSeam 64 { Seam.yoke with lastHb := d.now, ackSent := d.now, ackMoved := d.now }
      let b := b.onD fun d => d.ev 0x100C (dieSelvage 0) none [w, (d.now - t) / 1000]
      let lane := ((List.range 8).find? fun i => bitOf (lanes ^^^ y.healthy) i).getD 0
      if w = y.width then b.flushMsgs else b.yokeWidth lane y.width w

def execYokeLinkReturn (lanes : BitVec 8) (s : State) : Res :=
  s.on fun b => if b.dev.powered then b.yokeReturns lanes else b

/-- COMPANION_ACCESS_TIMEOUT: a launched action has waited 10 ms for companion memory; its context stops at once (R405).
What its read would have delivered poisoned, and its dropped write, go with the context's discarded work. -/
def execCompanionAccessTimeout (a : Act) (s : State) : Res :=
  s.on fun b =>
    match b.dev.action a, b.dev.yoke.down with
    | some x, some t =>
      if !x.done && b.dev.usesCompanion a x && max t x.launch + 10000000 ≤ b.dev.now then b.faultStop x.ctx 0x100B else b
    | _, _ => b

end Sys2Proof.Machine
end

