-- ==== Sys2Proof/Machine/Power.lean ====
section
/-! DEFINITION. Power, reset, clocks, rails, junction temperatures, Hold and Off, the sideband pins, and the commands of
group 0x06 (18 R526 to R553; 15 R471; 17 R556). -/

namespace Sys2Proof.Machine

/-! ### Reset and removal of power (18 R537 to R539) -/

/-- Spool memory and the scratchpads hold undefined content, and no line is poisoned; companion memory is not the
device's (R539; log 2). -/
def Store.coldContent (s : Store) : Store := (s.undefMem 0 companionBase).lostScr 0 (6144 * 2097152)

/-- PWR_GOOD_RISE: a cold boot (16 R483). -/
def Box.pwrRise (b : Box) (env : BootEnv) : Box :=
  if b.dev.power.pwrGood then b
  else (b.onS Store.coldContent).onD fun d =>
    ({ d.coldReset with
      power := { d.coldReset.power with pwrGood := true }, pins := { d.pins with driven := true } }).boot env false

def execPwrGoodRise (env : BootEnv) (s : State) : Res := s.on fun b => b.pwrRise env

/-- PWR_GOOD_FALL: the device is held in reset. -/
def execPwrGoodFall (s : State) : Res := s.onDev fun d => if d.power.pwrGood then d.coldReset else d

/-- POWER_REMOVED: what was written outlasts it; the sideband has no supply. -/
def Dev.unpowered (d : Dev) : Dev :=
  let d := d.coldReset
  { d with power := { d.power with vaux := none, clocksLost := 0 }, tape := .init, pins := .init }

def execPowerRemoved (s : State) : Res := s.onDev Dev.unpowered

/-- VAUX_IN_TOLERANCE: from here the 100 ms count after which the I3C target answers (R544; log 42). -/
def execVauxInTolerance (s : State) : Res :=
  s.onDev fun d => if d.power.vaux.isSome then d else { d with power := { d.power with vaux := some 0 } }

/-- HOUR_MARK: H is written and recorded (15 R471; 17 R556). -/
def execHourMark (s : State) : Res :=
  s.onDev fun d =>
    if !d.power.pwrGood then d
    else
      let h := satAdd 32 d.health.hours 1
      ({ d with health := { d.health with hours := h } }).evFw 0x0003 none [h, d.now]

/-! ### Clocks (18 R541) -/

/-- CLOCK_LOSS: REFCLK 0 to 3, 4 MGMTCLK. -/
def Box.clockLoss (b : Box) (c : Nat) : Box :=
  if bitOf b.dev.power.clocksLost c then b
  else
    let b := b.onD fun d =>
      ({ d with power := { d.power with clocksLost := d.power.clocksLost ||| BitVec.ofNat 5 (2 ^ c) } }).ev 0x6009
        (dieSelvage (if c < 4 then c else 0)) none [c, 0]
    if 4 ≤ c then b
    else
      let b := (span (16 * c) 16).foldl (fun b p => b.seamDown p 3 (some 0)) b
      b.onD fun d =>
        let d := if c = 0 then d.yokeDown 1 else d
        d.electRef

def execClockLoss (c : Fin 5) (s : State) : Res :=
  s.on fun b => if b.dev.power.pwrGood then b.clockLoss c.val else b

/-- CLOCK_RETURN: the Seams of the Selvage may come up again, and it may hold the reference again (02 R51). -/
def execClockReturn (c : Fin 5) (s : State) : Res :=
  s.onDev fun d =>
    if !bitOf d.power.clocksLost c.val then d
    else
      let d := { d with power := { d.power with clocksLost := d.power.clocksLost &&& ~~~(BitVec.ofNat 5 (2 ^ c.val)) } }
      if d.power.pwrGood then (d.ev 0x6009 (dieSelvage (if c.val < 4 then c.val else 0)) none [c.val, 1]).electRef
      else { d with tape := { d.tape with ref := ((List.range 4).find? d.tapeWorks).getD 0 } }

/-! ### Rails (18 R526, R529, R531) -/

/-- Nominal mV of a rail, the set point for VCORE, and the tolerance in percent: VCORE, VMEM, VLINK, VIO, VAUX. -/
def Dev.railNominal (d : Dev) (r : Nat) : Nat :=
  if r = 0 then d.pace.vcore else if r = 1 then 1100 else if r = 2 then 900 else if r = 3 then 800 else 1800
def railTolerance (r : Nat) : Nat := if r = 4 then 5 else 3

def Dev.railOut (d : Dev) (r : Nat) : Bool :=
  let n := d.railNominal r
  let v := d.power.mv.getD r n
  railTolerance r * n < 100 * (if v < n then n - v else v - n)

/-- One rail of a sample: how long it is out of tolerance, and event 0x6008 after more than 100 µs. -/
def Dev.checkRail (d : Dev) (r : Nat) : Dev :=
  if !d.railOut r then
    { d with power := { d.power with railSince := del d.power.railSince r, railBad := delSet d.power.railBad r } }
  else
    let t := getD d.power.railSince r d.now
    let d := { d with power := { d.power with railSince := put d.power.railSince r t } }
    if t + 100000 < d.now ∧ !d.power.railBad.contains r then
      ({ d with power := { d.power with railBad := addSet d.power.railBad r } }).ev 0x6008 (dieSelvage 0) none
        [r, d.power.mv.getD r 0, d.railNominal r]
    else d

/-- The fast limiter: above 105 % of PLIMIT an episode begins, event 0x6003 at most once per second; at or below PLIMIT it
ends. Power in units of 0.1 W. -/
def Dev.fastLimit (d : Dev) (avg100 : Nat) : Dev :=
  let p := d.power
  if !p.limiting && 1050 * p.plimit < 100 * avg100 then
    ({ d with power := { p with limiting := true, limits := satAdd 32 p.limits 1 } }).oncePerSec 0x6003 fun d =>
      d.ev 0x6003 (dieSelvage 0) none [avg100, p.plimit]
  else if p.limiting && avg100 ≤ 10 * p.plimit then { d with power := { p with limiting := false } }
  else d

/-- RAIL_SAMPLE: mV and power in 0.1 W of the five rails, and the averages of package power over 100 µs and 1 ms. ENERGY
counts 5 µJ, 0.1 W over 50 µs. -/
def Dev.railSample (d : Dev) (mv dw : List Nat) (avg100 avg1000 : Nat) : Dev :=
  let d := { d with power := { d.power with mv := mv, dw := dw, avg1000 := avg1000, energy := d.power.energy + sumN dw } }
  ((List.range 5).foldl Dev.checkRail d).fastLimit avg100

def execRailSample (mv dw : List Nat) (avg100 avg1000 : Nat) (s : State) : Res :=
  s.onDev fun d => if d.power.pwrGood then d.railSample mv dw avg100 avg1000 else d

/-! ### Junction temperatures (18 R546): units of 0.125 °C -/

def junctionAbove (t : Int) : Nat := if 960 < t then 3 else if 840 < t then 2 else if 760 < t then 1 else 0

def junctionBelow (t : Int) : Nat → Nat
  | 0 => 0
  | 1 => if t < 736 then 0 else 1
  | 2 => if t < 736 then 0 else if t < 800 then 1 else 2
  | _ => 3

def junctionNext (old : Nat) (t : Int) : Nat := if old < junctionAbove t then junctionAbove t else junctionBelow t old

/-- What a change of junction state does. A stop by Trip counts as a work-losing fault (15 R471). -/
def Box.junctionChange (b : Box) (old new : Nat) (t : Int) (die : Nat) : Box :=
  let b := b.onD fun d => d.ev 0x6004 die none [old, new, t, die]
  let b := if 2 ≤ new ∧ old < 2 then
      b.dev.liveCtxs.foldl (fun b n => (if new = 3 then b.onD fun d => d.damage else b).faultStop n 0x6004) b
    else b
  b.onD fun d =>
    let d := if new = 0 then { d with pace := { d.pace with ceiling := none } } else d
    if new = 3 then
      let d := d.ev 0x6006 die none [die, t]
      { d with power := { d.power with thermtrip := true } }
    else d

/-- JUNCTION_SAMPLE. -/
def Box.junctionSample (b : Box) (bolts selv : List W16) : Box :=
  let old := b.dev.power.jst
  let b := b.onD fun d => { d with power := { d.power with bolts := bolts, selv := selv, sampled := true } }
  let h := b.dev.hotDie
  let new := junctionNext old h.1
  let b := b.onD fun d => { d with power := { d.power with jst := new } }
  if new = old then b else b.junctionChange old new h.1 h.2

def execJunctionSample (bolts selv : List W16) (s : State) : Res :=
  s.on fun b => if b.dev.power.pwrGood then b.junctionSample bolts selv else b

/-- ALERT_N is asserted (R545). -/
def Dev.alertN (d : Dev) : Bool :=
  !d.power.railBad.isEmpty || d.power.jst != 0 || d.power.limiting || (List.range 8).any fun m => 2 ≤ (d.spool m).therm

/-! ### Hold and Off (18 R532 to R536) -/

/-- The power state: 0 Run, 1 Idle, 2 Hold. -/
def Dev.powerState (d : Dev) : Nat := if d.power.hold then 2 else if d.liveCtxs.isEmpty then 1 else 0

/-- The device leaves Hold for Idle: event 0x6001 with its cause, 0 command, 2 wake; VCORE goes to 0.650 V unless no Cutter is
active (02 R68); requests that waited in a Seam's buffer
are served. -/
def Box.leaveHold (b : Box) (cause : Nat) : Box :=
  let b := b.onD fun d =>
    { d with power := { d.power with hold := false, wake := none }
             pace := { d.pace with vcore := if d.vcoreHeld then d.pace.vcore else 650 } }
  let b := b.onD fun d => d.evFw 0x6001 none [2, 1, cause]
  (List.range 64).foldl Box.serveAllHeld b

/-- HOLD_EXIT: an operation that needs Spool memory or a cluster started the exit; event 0x6007. The operation is
performed when its command comes again; the drainer runs at once (log 43). -/
def execHoldExit (s : State) : Res :=
  s.on fun b =>
    match b.dev.power.hold, b.dev.power.wake with
    | true, some w =>
      let b := (b.onD fun d => d.evFw 0x6007 none [w.1, w.2]).leaveHold 2
      if b.dev.mb.flushing then b.onD Dev.flushBook else if w.1 = 4 then b.onD Dev.mbDrainAll else b
    | _, _ => b

/-- The conditions of R534 besides Idle. -/
def Dev.mayHold (d : Dev) : Bool :=
  d.liveCtxs.isEmpty && !(d.bastes.any fun e => 1 ≤ e.2.st && e.2.st ≤ 3)
    && (List.range 8).all fun m => (d.spool m).darn.isNone && (d.spool m).inplace.isNone && (d.spool m).therm < 3

/-- Scratchpads and Hem side memory lose their contents (06 R187; 09 R274); the Measure Book ring drains; VCORE 0.600 V. -/
def Box.enterHold (b : Box) : Box :=
  { store := b.store.lostScr 0 (6144 * 2097152)
    dev :=
      let d := b.dev.mbDrainAll
      let hems : Tbl Hem := d.hems.map fun (e : Nat × Hem) => (e.1, { e.2 with ents := [] })
      let d := { d with
        hems := hems
        power := { d.power with hold := true, wake := none }
        pace := { d.pace with vcore := 600 } }
      d.evFw 0x6001 none [1, 2, 0] }

/-- Off: what R31 and R471 keep is written; Spool contents are lost with the rails. -/
def Dev.enterOff (d : Dev) : Dev :=
  let old := d.powerState
  ({ d with power := { d.power with off := true } }).evFw 0x6001 none [old, 3, 0]

def Box.powerSet (k : Pend) (p : BitVec 384) (b : Box) : Box :=
  let st := pay p 0 1
  b.fields k none [(decide (1 ≤ st ∧ st ≤ 3), 0)] fun b =>
    if st = 1 then (if b.dev.power.hold then b.leaveHold 0 else b).ok k
    else if st = 2 ∧ b.dev.power.hold then b.ok k
    else if !b.dev.mayHold then b.bad k none 0
    else if st = 2 then b.enterHold.ok k
    else (b.onD Dev.enterOff).ok k

def execPowerStateSet (c : Ici) (s : State) : Res := s.ici 0x0601 c false fun k b => b.powerSet k c.p

/-! ### POWER_LIMIT_SET, POWER_QUERY, TELEMETRY_QUERY (18 R530, R552) -/

def execPowerLimitSet (c : Ici) (s : State) : Res :=
  s.ici 0x0602 c false fun k b =>
    let v := pay c.p 0 4
    b.fields k none [(decide (1200 ≤ v ∧ v ≤ 2900), 0)] fun b => b.onD fun d =>
      let old := d.power.plimit
      (({ d with power := { d.power with plimit := v } }).evFw 0x6002 none [old, v]).okCmd k

/-- A reading of the sensors, free before the first sample (log 9). -/
def Dev.reading (d : Dev) (l : List Nat) (i key : Nat) : Nat := (l[i]?).getD (Config.freeWord d.mb.head (key + i)).toNat

/-- The five words of RAILS, and POWER. -/
def Dev.railWords (d : Dev) : List Byte :=
  (List.range 5).flatMap fun r => leBytes 2 (d.reading d.power.mv r 0x6010) ++ leBytes 2 (d.reading d.power.dw r 0x6020)
def Dev.powerWord (d : Dev) : List Byte :=
  leBytes 4 (if d.power.mv.isEmpty then (Config.freeWord d.mb.head 0x6030).toNat else d.power.avg1000)

def Dev.powerRec (d : Dev) : List Byte :=
  leBytes 1 d.powerState ++ leBytes 1 d.power.jst ++ leBytes 2 d.pace.vcore ++ leBytes 2 d.power.plimit ++ zeros 2
    ++ d.powerWord ++ d.railWords ++ leBytes 4 d.power.limits ++ zeros 4 ++ leBytes 8 (d.power.energy / 200000) ++ zeros 16

def execPowerQuery (c : Ici) (s : State) : Res :=
  s.ici 0x0603 c (inSpools (pay c.p 8 8)) fun k b => b.giveBytes k none 8 (pay c.p 8 8) Dev.powerRec

/-- A junction temperature; one without a valid reading is 0x8000 (R544). -/
def tempBytes (l : List W16) (i : Nat) : List Byte := leBytes 2 ((l[i]?).getD 0x8000).toNat

/-- The die of the hottest junction, free before the first sample. -/
def Dev.hottestDie (d : Dev) : Nat :=
  if d.power.sampled then d.hotDie.2 else (Config.freeWord d.mb.head 0x6040).toNat % 256

def Dev.telemetry (d : Dev) : List Byte :=
  ((List.range 24).flatMap (tempBytes d.power.bolts)) ++ ((List.range 4).flatMap (tempBytes d.power.selv))
    ++ ((List.range 8).flatMap fun m => leBytes 2 (d.spool m).temp.toNat) ++ leBytes 1 d.power.jst ++ leBytes 1 d.hottestDie
    ++ zeros 2 ++ d.powerWord ++ d.railWords ++ zeros 28

def execTelemetryQuery (c : Ici) (s : State) : Res :=
  s.ici 0x0604 c (inSpools (pay c.p 8 8)) fun k b => b.giveBytes k none 8 (pay c.p 8 8) Dev.telemetry

/-! ### The sideband pins (18 R543, R544) -/

/-- The I3C target answers (18 R544). -/
def Dev.i3cUp (d : Dev) : Bool := d.power.vaux.any (100000000 ≤ ·)

/-- I3C_READ: the bytes of the telemetry record from an offset on; the target answers from 100 ms after VAUX is in tolerance. -/
def execI3cRead (off : BitVec 7) (s : State) : Res :=
  s.onDev fun d => if d.i3cUp then d.answerBytes (d.telemetry.drop off.toNat) else d

/-- I3C_SETDASA: the dynamic address for static address 0x4C. -/
def execI3cSetdasa (addr static : BitVec 7) (s : State) : Res :=
  s.onDev fun d => if d.i3cUp && static == 0x4C then { d with pins := { d.pins with i3c := some addr } } else d

/-- The TAP controller of IEEE 1149.1: the state after a rising edge of TCK (log 44). 15 Test-Logic-Reset, 12 Run-Test/Idle,
7 Select-DR, 6 Capture-DR, 2 Shift-DR, 1 Exit1-DR, 3 Pause-DR, 0 Exit2-DR, 5 Update-DR, 4 Select-IR, 14 Capture-IR, 10 Shift-IR,
9 Exit1-IR, 11 Pause-IR, 8 Exit2-IR, 13 Update-IR. -/
def tapNext (st : Nat) (tms : Bool) : Nat :=
  if st = 15 then (if tms then 15 else 12)
  else if st = 12 ∨ st = 5 ∨ st = 13 then (if tms then 7 else 12)
  else if st = 7 then (if tms then 4 else 6)
  else if st = 6 ∨ st = 2 then (if tms then 1 else 2)
  else if st = 1 then (if tms then 5 else 3)
  else if st = 3 then (if tms then 0 else 3)
  else if st = 0 then (if tms then 5 else 2)
  else if st = 4 then (if tms then 15 else 14)
  else if st = 14 ∨ st = 10 then (if tms then 9 else 10)
  else if st = 9 then (if tms then 13 else 11)
  else if st = 11 then (if tms then 8 else 11)
  else (if tms then 13 else 10)

/-- A rising edge: the registers capture or shift in the present state, then the controller moves on. -/
def PinSt.rise (p : PinSt) (tms tdi : Bool) : PinSt :=
  let p := if p.tap = 14 then { p with irShift := 1 }
    else if p.tap = 10 then { p with irShift := (p.irShift >>> 1) ||| (if tdi then 128 else 0) }
    else if p.tap = 6 then { p with bypass := false }
    else if p.tap = 2 then { p with bypass := tdi }
    else p
  { p with tap := tapNext p.tap tms }

/-- The BYPASS instruction, all ones, which Test-Logic-Reset loads. -/
def bypassIr : BitVec 8 := 255

/-- A falling edge: the instruction takes effect in Update-IR and BYPASS in Test-Logic-Reset; TDO follows the shift. `free`:
what another data register than the bypass bit shows. -/
def PinSt.fall (p : PinSt) (free : Bool) : PinSt :=
  let p := if p.tap = 13 then { p with ir := p.irShift } else if p.tap = 15 then { p with ir := bypassIr } else p
  if p.tap = 10 then { p with tdo := bitOf p.irShift 0 }
  else if p.tap = 2 then { p with tdo := if p.ir = bypassIr then p.bypass else free }
  else p

/-- An instruction other than BYPASS acts in the diagnostic state. -/
def Dev.privateJtag (d : Dev) (rising : Bool) : Bool := d.diag && !rising && d.pins.tap == 13 && d.pins.irShift != bypassIr

/-- JTAG_TCK_EDGE. TRST_N low resets the controller. A private instruction has an effect in the diagnostic state only, which
the manual does not give: refused. The content of a boundary-scan register is free (log 44). -/
def execJtagTckEdge (rising tms tdi trstN : Bool) (s : State) : Res :=
  if s.dev.power.vaux.isNone then .next s
  else if !trstN then s.onDev fun d => { d with pins := { d.pins with tap := 15, ir := bypassIr } }
  else if s.dev.privateJtag rising then .refused .jtagPrivate
  else if rising then s.onDev fun d => { d with pins := d.pins.rise tms tdi }
  else s.on fun b =>
    { store := { b.store with free := b.store.free + 1 }
      dev := { b.dev with pins := b.dev.pins.fall (bitOf (Config.freeByte b.store.free 0) 0) } }

end Sys2Proof.Machine
end

