-- ==== Sys2Proof/Machine/Recorder.lean ====
section
/-! DEFINITION. The recorder: draining, periodic triggers, the Crease summary, and MB_TRIGGER_SET, MB_QUERY and MB_CLEAR
(17 R507 to R518, R524). -/

namespace Sys2Proof.Machine

/-! ### Events of the recorder (17 R507, R516, R518) -/

/-- MB_DRAIN: the drainer copies what awaits draining. -/
def execMbDrain (s : State) : Res :=
  s.onDev fun d => if d.powered && decide (d.mb.drained < d.mb.head) then d.mbDrainer else d

/-- PERIODIC_TRIGGER: at a multiple of its PERIOD an enabled periodic trigger writes event 0xD001 with its snapshot. -/
def Dev.periodic (d : Dev) (t : Nat) : Dev :=
  match get? d.mb.trigs t with
  | none => d
  | some x =>
    if d.powered && trigEnabled x && trigPeriodic x && trigPeriod x != 0 && d.now % trigPeriod x == 0 then
      d.keep (d.form 0xD001 (dieSelvage 0) false none [] (some (t, x)))
    else d

def execPeriodicTrigger (t : Fin 256) (s : State) : Res := s.onDev fun d => d.periodic t.val

/-- CREASE_SUMMARY: every second while a perturbation is armed, event 0xD007 with the counts since the last one. -/
def Dev.creaseSummary (d : Dev) : Dev :=
  if d.crArmed && d.crConfigured && decide (d.cr.last + 1000000000 ≤ d.now) then
    let l := (List.range 7).map fun i => ((getD d.cr.counts i 0 : Nat) : Int)
    let d := d.ev 0xD007 (dieSelvage 0) none l
    { d with cr := { d.cr with last := d.now, counts := d.cr.counts.filter fun e => 7 ≤ e.1 } }
  else d

def execCreaseSummary (s : State) : Res := s.onDev Dev.creaseSummary

/-! ### MB_TRIGGER_SET (17 R513, R524) -/

/-- A register selector that R513 allows. -/
def selectorOk (v : Nat) : Bool :=
  let x := v % 2 ^ 28
  if v / 2 ^ 28 = 0 then
    decide (x < 65536) && x % 4 == 0 && (regWidth (x / 8 * 8) != some 64 || x % 8 == 0)
  else if v / 2 ^ 28 = 1 then decide (x < 2 ^ 19) && decide (x % 8192 < 6144)
  else if v / 2 ^ 28 = 2 then decide (x < 16384)
  else false

/-- The first field of a trigger entry that breaks R513, within the entry. -/
def trigFault (t : BitVec 1280) : Option Int :=
  let sels := (List.range 32).find? fun i =>
    if i < trigNreg t then !selectorOk (trigSel t i) else trigSel t i != 0
  if fld t 35 5 ≠ 0 then some (fieldItem 4 3)
  else if fld t 43 5 ≠ 0 then some (fieldItem 5 3)
  else if 32 < trigNreg t then some 6
  else if fld t 56 8 ≠ 0 then some 7
  else if !(if trigPeriodic t then trigPeriod t != 0 && trigPeriod t % 1000000 == 0 else trigPeriod t == 0) then some 8
  else if fld t 128 128 ≠ 0 then some 16
  else sels.map fun i => ((32 + 4 * i : Nat) : Int)

def trigOf (l : List Byte) (i : Nat) : BitVec 1280 := BitVec.ofNat 1280 (leNat ((l.drop (160 * i)).take 160))

/-- Loads the entries; event 0xD004 is raised before they act. -/
def Dev.setTriggers (d : Dev) (first n : Nat) (ts : List (Nat × BitVec 1280)) : Dev :=
  let m := ts.foldl (fun m e => put m e.1 e.2) d.mb.trigs
  let on := (m.filter fun e => trigEnabled e.2).length
  let d := d.evFw 0xD004 none [first, n, on]
  { d with mb := { d.mb with trigs := m } }

def Box.triggerSet (k : Pend) (p : BitVec 384) (b : Box) : Box :=
  let first := pay p 0 1
  let n := pay p 2 2
  let a := pay p 8 8
  b.fields k none [(decide (n ≤ 256), 2), (decide (first + n ≤ 256), 2)] fun b =>
    if n = 0 then b.ok k
    else b.withAddr k none 8 a (160 * n) 64 false fun b => b.withData k a (160 * n) fun l b =>
      let ts := (List.range n).map fun i => (first + i, trigOf l i)
      match ts.findSome? fun e => trigFault e.2 with
      | some byte => b.bad k none byte
      | none => b.onD fun d => (d.setTriggers first n ts).okCmd k

def execMbTriggerSet (c : Ici) (s : State) : Res :=
  s.ici 0x0901 c (inSpools (pay c.p 8 8)) fun k b => b.triggerSet k c.p

/-! ### MB_QUERY (17 R507, R524) -/

def Box.mbQuery (k : Pend) (p : BitVec 384) (b : Box) : Box :=
  let q := pay p 0 8
  let n := pay p 8 4
  let a := pay p 16 8
  b.fields k none [(decide (n ≤ 8192), 8)] fun b =>
    b.withAddr k none 16 a (512 * n) 64 true fun b =>
      let b := b.onD Dev.mbDrainAll
      let d := b.dev
      let recs := (span q n).map d.recBytes
      let held := ((span q n).filter fun i => (d.recAt i).isSome).length
      (b.wrClean a recs.flatten).ok k (BitVec.ofNat 32 held) (BitVec.ofNat 64 d.mb.head)

def execMbQuery (c : Ici) (s : State) : Res := s.ici 0x0902 c true fun k b => b.mbQuery k c.p

/-! ### MB_CLEAR (17 R517) -/

/-- Erases every record below a limit in the ring and in the Spool region; event 0xD003 takes the next SEQ. -/
def Dev.mbErase (d : Dev) (limit key : Nat) : Dev :=
  let lim := min limit d.mb.head
  let first := d.mbOldest
  let d : Dev := { d with mb := { d.mb with
    ring := d.mb.ring.filter fun r => lim ≤ r.seq
    region := d.mb.region.filter fun r => lim ≤ r.seq } }
  d.evTh 0xD003 [first, lim, key]

def Box.mbClear (k : Pend) (p : BitVec 384) (b : Box) : Box :=
  let a := pay p 0 8
  b.fields k none [(pay p 8 4 == 7296, 8)] fun b =>
    b.withAddr k none 0 a 7296 64 false fun b => b.withToken k a 2 fun _ key b => b.onD fun d =>
      (d.mbErase (pay p 16 8) key).okCmd k

def execMbClear (c : Ici) (s : State) : Res := s.ici 0x0903 c true fun k b => b.mbClear k c.p

end Sys2Proof.Machine
end

