-- ==== Sys2Proof/Machine/Scalar.lean ====
section
/-! DEFINITION. The scalar, comparison and predicate instructions, LI, LIH, GETS and the loop counter moves (05 R159,
R160). -/

namespace Sys2Proof.Machine

def shamt (b : W32) : Nat := b.toNat % 32
def minS (a b : W32) : W32 := if a.toInt < b.toInt then a else b
def maxS (a b : W32) : W32 := if a.toInt < b.toInt then b else a
def minU (a b : W32) : W32 := if a.toNat < b.toNat then a else b
def maxU (a b : W32) : W32 := if a.toNat < b.toNat then b else a

def execNop (cs : CS) (w : W64) (s : State) : Res := s.onDev fun d => d.issue cs w 0x01 fun d => d.advance cs

def execAdd (cs : CS) (w : W64) (s : State) (same : Bool := false) : Res := s.onDev fun d => d.alu cs w same 0x10 fun a b => a + b
def execSub (cs : CS) (w : W64) (s : State) (same : Bool := false) : Res := s.onDev fun d => d.alu cs w same 0x11 fun a b => a - b
def execMul (cs : CS) (w : W64) (s : State) (same : Bool := false) : Res := s.onDev fun d => d.alu cs w same 0x12 fun a b => a * b
def execAnd (cs : CS) (w : W64) (s : State) (same : Bool := false) : Res := s.onDev fun d => d.alu cs w same 0x13 fun a b => a &&& b
def execOr (cs : CS) (w : W64) (s : State) (same : Bool := false) : Res := s.onDev fun d => d.alu cs w same 0x14 fun a b => a ||| b
def execXor (cs : CS) (w : W64) (s : State) (same : Bool := false) : Res := s.onDev fun d => d.alu cs w same 0x15 fun a b => a ^^^ b
def execShl (cs : CS) (w : W64) (s : State) (same : Bool := false) : Res := s.onDev fun d => d.alu cs w same 0x16 fun a b => a <<< shamt b
def execShr (cs : CS) (w : W64) (s : State) (same : Bool := false) : Res := s.onDev fun d => d.alu cs w same 0x17 fun a b => a >>> shamt b
def execSar (cs : CS) (w : W64) (s : State) (same : Bool := false) : Res := s.onDev fun d => d.alu cs w same 0x18 fun a b => a.sshiftRight (shamt b)
def execMin (cs : CS) (w : W64) (s : State) (same : Bool := false) : Res := s.onDev fun d => d.alu cs w same 0x19 minS
def execMax (cs : CS) (w : W64) (s : State) (same : Bool := false) : Res := s.onDev fun d => d.alu cs w same 0x1A maxS
def execMinu (cs : CS) (w : W64) (s : State) (same : Bool := false) : Res := s.onDev fun d => d.alu cs w same 0x1B minU
def execMaxu (cs : CS) (w : W64) (s : State) (same : Bool := false) : Res := s.onDev fun d => d.alu cs w same 0x1C maxU

def execLi (cs : CS) (w : W64) (s : State) (same : Bool := false) : Res :=
  s.onDev fun d => d.load cs w same 0x1D fun _ => BitVec.ofInt 32 (Insn.simm w)

/-- IMM[15:0] above the low half of s[SD]. -/
def lihValue (old : W32) (w : W64) : W32 := BitVec.ofNat 32 (Insn.imm w % 65536 * 65536 + old.toNat % 65536)

def execLih (cs : CS) (w : W64) (s : State) (same : Bool := false) : Res :=
  s.onDev fun d => d.load cs w same 0x1E fun d => lihValue (d.seen cs (Insn.sd w)) w

/-! ### GETS (05 R160, R161) -/

/-- The special register of a code, for a stream. -/
def Dev.special (d : Dev) (cs : CS) (code : Nat) : W32 :=
  let st := d.stream cs
  let n := st.ctx.getD 0
  if code = 0 then BitVec.ofNat 32 cs.core
  else if code = 1 then BitVec.ofNat 32 n
  else if code = 2 then BitVec.ofNat 32 (d.ctx n).step
  else if code = 3 then BitVec.ofNat 32 d.now
  else if code = 4 then st.tapeHi
  else if code = 5 then BitVec.ofNat 32 (d.ctx n).slip
  else if code = 6 then st.gen.setWidth 32
  else if code = 7 then BitVec.ofNat 32 cs.st.num
  else if code = 8 then d.fab.deviceId.setWidth 32
  else 0

/-- A local Knot operation of the stream whose arrival has not been applied: code 6 waits for it (log 21). -/
def StreamSt.genPending (s : StreamSt) : Bool :=
  s.acts.any fun a => (Insn.opc a.w == 0x42 || (Insn.opc a.w == 0x40 && !Insn.krmt a.w)) && a.gen.isNone

/-- A read of code 3 latches the high half of the Tape. -/
def Dev.latchTape (d : Dev) (cs : CS) (code : Nat) : Dev :=
  if code = 3 then d.updStream cs fun s => { s with tapeHi := BitVec.ofNat 32 (d.now / 2 ^ 32) } else d

def execGets (cs : CS) (w : W64) (s : State) (same : Bool := false) : Res :=
  s.onDev fun d => d.issueS cs w same 0x1F fun d =>
    let code := Insn.imm w % 16
    if code = 6 ∧ (d.stream cs).genPending then d
    else ((d.latchTape cs code).setSreg cs (Insn.sd w) (d.special cs code)).advance cs

/-! ### Comparisons and predicates -/

def execCmpeq (cs : CS) (w : W64) (s : State) (same : Bool := false) : Res := s.onDev fun d => d.compare cs w same 0x20 condEq
def execCmpne (cs : CS) (w : W64) (s : State) (same : Bool := false) : Res := s.onDev fun d => d.compare cs w same 0x21 condNe
def execCmplt (cs : CS) (w : W64) (s : State) (same : Bool := false) : Res := s.onDev fun d => d.compare cs w same 0x22 condLt
def execCmpge (cs : CS) (w : W64) (s : State) (same : Bool := false) : Res := s.onDev fun d => d.compare cs w same 0x23 condGe
def execCmpltu (cs : CS) (w : W64) (s : State) (same : Bool := false) : Res := s.onDev fun d => d.compare cs w same 0x24 condLtu
def execCmpgeu (cs : CS) (w : W64) (s : State) (same : Bool := false) : Res := s.onDev fun d => d.compare cs w same 0x25 condGeu

def execPand (cs : CS) (w : W64) (s : State) : Res := s.onDev fun d => d.predOp cs w 0x26 fun a b => a && b
def execPor (cs : CS) (w : W64) (s : State) : Res := s.onDev fun d => d.predOp cs w 0x27 fun a b => a || b
def execPxor (cs : CS) (w : W64) (s : State) : Res := s.onDev fun d => d.predOp cs w 0x28 fun a b => a != b
def execPnot (cs : CS) (w : W64) (s : State) : Res := s.onDev fun d => d.predOp cs w 0x29 fun a _ => !a

def execPset (cs : CS) (w : W64) (s : State) : Res :=
  s.onDev fun d => d.issue cs w 0x2A fun d =>
    (d.updStream cs fun s => s.setPred (Insn.sd w % 8) (bitOf w 0)).advance cs

/-! ### Loop counters -/

def execSetlc (cs : CS) (w : W64) (s : State) (same : Bool := false) : Res :=
  s.onDev fun d => d.issueS cs w same 0x04 fun d =>
    let v := if Insn.is w then BitVec.ofNat 32 (Insn.imm w) else d.seen cs (Insn.sa w)
    (d.updStream cs fun s => s.setLcr (Insn.sd w % 4) v).advance cs

def execGetlc (cs : CS) (w : W64) (s : State) (same : Bool := false) : Res :=
  s.onDev fun d => d.load cs w same 0x05 fun d => (d.stream cs).lcr (Insn.sa w % 4)

end Sys2Proof.Machine
end

