-- ==== Sys2Proof/Machine/Dispatch.lean ====
section
/-! DEFINITION. One arm per command: a direct call of its meaning. -/

namespace Sys2Proof.Machine

def exec (i : Instr) (s : State) : Host.Outcome State Fault Refusal :=
  match i with
  | .nop cs w => Sys2Proof.Machine.execNop cs w s
  | .jmp cs w => Sys2Proof.Machine.execJmp cs w s
  | .loop cs w same => Sys2Proof.Machine.execLoop cs w s same
  | .setlc cs w same => Sys2Proof.Machine.execSetlc cs w s same
  | .getlc cs w same => Sys2Proof.Machine.execGetlc cs w s same
  | .stop cs w => Sys2Proof.Machine.execStop cs w s
  | .abort cs w => Sys2Proof.Machine.execAbort cs w s
  | .twait a => Sys2Proof.Machine.execTwait a s
  | .fence cs w => Sys2Proof.Machine.execFence cs w s
  | .add cs w same => Sys2Proof.Machine.execAdd cs w s same
  | .sub cs w same => Sys2Proof.Machine.execSub cs w s same
  | .mul cs w same => Sys2Proof.Machine.execMul cs w s same
  | .and cs w same => Sys2Proof.Machine.execAnd cs w s same
  | .or cs w same => Sys2Proof.Machine.execOr cs w s same
  | .xor cs w same => Sys2Proof.Machine.execXor cs w s same
  | .shl cs w same => Sys2Proof.Machine.execShl cs w s same
  | .shr cs w same => Sys2Proof.Machine.execShr cs w s same
  | .sar cs w same => Sys2Proof.Machine.execSar cs w s same
  | .min cs w same => Sys2Proof.Machine.execMin cs w s same
  | .max cs w same => Sys2Proof.Machine.execMax cs w s same
  | .minu cs w same => Sys2Proof.Machine.execMinu cs w s same
  | .maxu cs w same => Sys2Proof.Machine.execMaxu cs w s same
  | .li cs w same => Sys2Proof.Machine.execLi cs w s same
  | .lih cs w same => Sys2Proof.Machine.execLih cs w s same
  | .gets cs w same => Sys2Proof.Machine.execGets cs w s same
  | .cmpeq cs w same => Sys2Proof.Machine.execCmpeq cs w s same
  | .cmpne cs w same => Sys2Proof.Machine.execCmpne cs w s same
  | .cmplt cs w same => Sys2Proof.Machine.execCmplt cs w s same
  | .cmpge cs w same => Sys2Proof.Machine.execCmpge cs w s same
  | .cmpltu cs w same => Sys2Proof.Machine.execCmpltu cs w s same
  | .cmpgeu cs w same => Sys2Proof.Machine.execCmpgeu cs w s same
  | .pand cs w => Sys2Proof.Machine.execPand cs w s
  | .por cs w => Sys2Proof.Machine.execPor cs w s
  | .pxor cs w => Sys2Proof.Machine.execPxor cs w s
  | .pnot cs w => Sys2Proof.Machine.execPnot cs w s
  | .pset cs w => Sys2Proof.Machine.execPset cs w s
  | .swld cs w same => Sys2Proof.Machine.execSwld cs w s same
  | .swst a => Sys2Proof.Machine.execSwst a s
  | .hmap a ecc => Sys2Proof.Machine.execHmap a s ecc
  | .hfree a => Sys2Proof.Machine.execHfree a s
  | .karr a => Sys2Proof.Machine.execKarr a s
  | .kwait cs w same => Sys2Proof.Machine.execKwait cs w s same
  | .karrw a => Sys2Proof.Machine.execKarrw a s
  | .arr a => Sys2Proof.Machine.execArr a s
  | .chalk a => Sys2Proof.Machine.execChalk a s
  | .vecAdd a ecc => Sys2Proof.Machine.execVecAdd a s ecc
  | .vecSub a ecc => Sys2Proof.Machine.execVecSub a s ecc
  | .vecMul a ecc => Sys2Proof.Machine.execVecMul a s ecc
  | .vecFma a ecc => Sys2Proof.Machine.execVecFma a s ecc
  | .vecDiv a ecc => Sys2Proof.Machine.execVecDiv a s ecc
  | .vecSqrt a ecc => Sys2Proof.Machine.execVecSqrt a s ecc
  | .vecMin a ecc => Sys2Proof.Machine.execVecMin a s ecc
  | .vecMax a ecc => Sys2Proof.Machine.execVecMax a s ecc
  | .vecAbs a ecc => Sys2Proof.Machine.execVecAbs a s ecc
  | .vecNeg a ecc => Sys2Proof.Machine.execVecNeg a s ecc
  | .vecAdds a ecc => Sys2Proof.Machine.execVecAdds a s ecc
  | .vecMuls a ecc => Sys2Proof.Machine.execVecMuls a s ecc
  | .vecExp a ecc => Sys2Proof.Machine.execVecExp a s ecc
  | .vecLog a ecc => Sys2Proof.Machine.execVecLog a s ecc
  | .vecCvt a ecc => Sys2Proof.Machine.execVecCvt a s ecc
  | .vecRedsum a ecc => Sys2Proof.Machine.execVecRedsum a s ecc
  | .vecRedmax a ecc => Sys2Proof.Machine.execVecRedmax a s ecc
  | .vecCmpgt a ecc => Sys2Proof.Machine.execVecCmpgt a s ecc
  | .vecSel a ecc => Sys2Proof.Machine.execVecSel a s ecc
  | .topk a ecc => Sys2Proof.Machine.execTopk a s ecc
  | .vecIota a ecc => Sys2Proof.Machine.execVecIota a s ecc
  | .hemf a ecc => Sys2Proof.Machine.execHemf a s ecc
  | .hemb a ecc => Sys2Proof.Machine.execHemb a s ecc
  | .copy a ecc => Sys2Proof.Machine.execCopy a s ecc
  | .xfer a ecc => Sys2Proof.Machine.execXfer a s ecc
  | .load a => Sys2Proof.Machine.execLoad a s
  | .store a ecc => Sys2Proof.Machine.execStore a s ecc
  | .gather a => Sys2Proof.Machine.execGather a s
  | .scatter a => Sys2Proof.Machine.execScatter a s
  | .greqCopy a => Sys2Proof.Machine.execGreqCopy a s
  | .pack a => Sys2Proof.Machine.execPack a s
  | .unpack a => Sys2Proof.Machine.execUnpack a s
  | .dispatch a => Sys2Proof.Machine.execDispatch a s
  | .dispatchReplay a => Sys2Proof.Machine.execDispatchReplay a s
  | .combine a => Sys2Proof.Machine.execCombine a s
  | .rowfetch a => Sys2Proof.Machine.execRowfetch a s
  | .patch a => Sys2Proof.Machine.execPatch a s
  | .listclr a => Sys2Proof.Machine.execListclr a s
  | .audit a => Sys2Proof.Machine.execAudit a s
  | .coll a => Sys2Proof.Machine.execColl a s
  | .pressUpdate a => Sys2Proof.Machine.execPressUpdate a s
  | .pressNorm a => Sys2Proof.Machine.execPressNorm a s
  | .actionLaunch cs w rec tack report unit same => Sys2Proof.Machine.execActionLaunch cs w rec tack report unit s same
  | .actionComplete a => Sys2Proof.Machine.execActionComplete a s
  | .runAheadFetch b ecc => Sys2Proof.Machine.execRunAheadFetch b ecc s
  | .bobbinFill core unit ecc => Sys2Proof.Machine.execBobbinFill core unit ecc s
  | .accumGroupStart core sample ecc => Sys2Proof.Machine.execAccumGroupStart core sample s ecc
  | .arrayStep core err => Sys2Proof.Machine.execArrayStep core err s
  | .groupDrain core => Sys2Proof.Machine.execGroupDrain core s
  | .shadowGroupStart core err ecc => Sys2Proof.Machine.execShadowGroupStart core err s ecc
  | .verdict core => Sys2Proof.Machine.execVerdict core s
  | .verdictReceive core => Sys2Proof.Machine.execVerdictReceive core s
  | .sampleAbandon core => Sys2Proof.Machine.execSampleAbandon core s
  | .idleCheck core err => Sys2Proof.Machine.execIdleCheck core err s
  | .knotArrive n => Sys2Proof.Machine.execKnotArrive n s
  | .runEnd ctx => Sys2Proof.Machine.execRunEnd ctx s
  | .streamWatchdog cs => Sys2Proof.Machine.execStreamWatchdog cs s
  | .engineHang e => Sys2Proof.Machine.execEngineHang e s
  | .queueDoorbell q v => Sys2Proof.Machine.execQueueDoorbell q v s
  | .cqheadWrite q v => Sys2Proof.Machine.execCqheadWrite q v s
  | .mgmtQueueEnable v => Sys2Proof.Machine.execMgmtQueueEnable v s
  | .mgmtQueueDisable v => Sys2Proof.Machine.execMgmtQueueDisable v s
  | .entryFetch q => Sys2Proof.Machine.execEntryFetch q s
  | .commandAccept => Sys2Proof.Machine.execCommandAccept s
  | .completionWrite q => Sys2Proof.Machine.execCompletionWrite q s
  | .ykDevirqClear v same => Sys2Proof.Machine.execYkDevirqClear v s same
  | .tpCtrlWrite v => Sys2Proof.Machine.execTpCtrlWrite v s
  | .tpNowLowRead req => Sys2Proof.Machine.execTpNowLowRead req s
  | .tpLateRead n same => Sys2Proof.Machine.execTpLateRead n s same
  | .mbLostRead same => Sys2Proof.Machine.execMbLostRead s same
  | .mbOverrunClear v same => Sys2Proof.Machine.execMbOverrunClear v s same
  | .mbSelWrite part v => Sys2Proof.Machine.execMbSelWrite part v s
  | .bmDrainAtBoundary v => Sys2Proof.Machine.execBmDrainAtBoundary v s
  | .bmDrainAtOnce v => Sys2Proof.Machine.execBmDrainAtOnce v s
  | .mbFlush v => Sys2Proof.Machine.execMbFlush v s
  | .warmReset v env => Sys2Proof.Machine.execWarmReset v env s
  | .creaseWrite off part v => Sys2Proof.Machine.execCreaseWrite off part v s
  | .registerWrite off bytes v => Sys2Proof.Machine.execRegisterWrite off bytes v s
  | .apertureAccess off n data => Sys2Proof.Machine.execApertureAccess off n data s
  | .i3cRead off => Sys2Proof.Machine.execI3cRead off s
  | .spoolAccess x => Sys2Proof.Machine.execSpoolAccess x s
  | .patrolScrub m ch addr line ecc => Sys2Proof.Machine.execPatrolScrub m ch addr line ecc s
  | .spoolThermalSample m temp sensor => Sys2Proof.Machine.execSpoolThermalSample m temp sensor s
  | .pauseNoticeRepeat => Sys2Proof.Machine.execPauseNoticeRepeat s
  | .darningDone m ok errs => Sys2Proof.Machine.execDarningDone m ok errs s
  | .retrainInplaceStart m => Sys2Proof.Machine.execRetrainInplaceStart m s
  | .retrainInplaceDone m ok => Sys2Proof.Machine.execRetrainInplaceDone m ok s
  | .channelFailingRepeat m l => Sys2Proof.Machine.execChannelFailingRepeat m l s
  | .spareChannelTest m ph reads again => Sys2Proof.Machine.execSpareChannelTest m ph reads again s
  | .paceGuardTick rates powerAt => Sys2Proof.Machine.execPaceGuardTick rates powerAt s
  | .ppsEdge rising => Sys2Proof.Machine.execPpsEdge rising s
  | .ppsTimeout => Sys2Proof.Machine.execPpsTimeout s
  | .tapeRefFailover => Sys2Proof.Machine.execTapeRefFailover s
  | .tapeAlignTick => Sys2Proof.Machine.execTapeAlignTick s
  | .tapeAlignRequest p k jit2 jit3 => Sys2Proof.Machine.execTapeAlignRequest p k jit2 jit3 s
  | .tapeAlignResponse p k => Sys2Proof.Machine.execTapeAlignResponse p k s
  | .tapeOffsetTimeout => Sys2Proof.Machine.execTapeOffsetTimeout s
  | .seamBringUp p body => Sys2Proof.Machine.execSeamBringUp p body s
  | .seamBringupRetry p => Sys2Proof.Machine.execSeamBringupRetry p s
  | .flitReceive p lane flit corr unc => Sys2Proof.Machine.execFlitReceive p lane flit corr unc s
  | .replayTimeout p => Sys2Proof.Machine.execReplayTimeout p s
  | .ackTimer p out => Sys2Proof.Machine.execAckTimer p s out
  | .heartbeatSend p => Sys2Proof.Machine.execHeartbeatSend p s
  | .heartbeatReceive p body => Sys2Proof.Machine.execHeartbeatReceive p body s
  | .heartbeatTimeout p => Sys2Proof.Machine.execHeartbeatTimeout p s
  | .levelControl p body => Sys2Proof.Machine.execLevelControl p body s
  | .laneLeave p lane trigger => Sys2Proof.Machine.execLaneLeave p lane trigger s
  | .laneRetrainDone p lane => Sys2Proof.Machine.execLaneRetrainDone p lane s
  | .laneRetrainTimeout p lane => Sys2Proof.Machine.execLaneRetrainTimeout p lane s
  | .failedLaneRetry p lane ok => Sys2Proof.Machine.execFailedLaneRetry p lane ok s
  | .packetForward p k => Sys2Proof.Machine.execPacketForward p k s
  | .rdReq p k => Sys2Proof.Machine.execRdReq p k s
  | .rdResp p k => Sys2Proof.Machine.execRdResp p k s
  | .wr p k => Sys2Proof.Machine.execWr p k s
  | .wrAck p k => Sys2Proof.Machine.execWrAck p k s
  | .knotArr p k => Sys2Proof.Machine.execKnotArr p k s
  | .knotAck p k => Sys2Proof.Machine.execKnotAck p k s
  | .collData p k => Sys2Proof.Machine.execCollData p k s
  | .collReady p k => Sys2Proof.Machine.execCollReady p k s
  | .collDone p k => Sys2Proof.Machine.execCollDone p k s
  | .collRelease p k => Sys2Proof.Machine.execCollRelease p k s
  | .collAbort p k => Sys2Proof.Machine.execCollAbort p k s
  | .collTimeout plan inst => Sys2Proof.Machine.execCollTimeout plan inst s
  | .lateNotice p k => Sys2Proof.Machine.execLateNotice p k s
  | .lossNotice p k => Sys2Proof.Machine.execLossNotice p k s
  | .yokeLaneLeave lane trigger => Sys2Proof.Machine.execYokeLaneLeave lane trigger s
  | .yokeLaneReturn lane => Sys2Proof.Machine.execYokeLaneReturn lane s
  | .yokeSilence => Sys2Proof.Machine.execYokeSilence s
  | .yokeLinkReturn lanes => Sys2Proof.Machine.execYokeLinkReturn lanes s
  | .companionAccessTimeout a => Sys2Proof.Machine.execCompanionAccessTimeout a s
  | .basteGranuleCopy g => Sys2Proof.Machine.execBasteGranuleCopy g s
  | .basteGranuleDrained id ok => Sys2Proof.Machine.execBasteGranuleDrained id ok s
  | .spareSuitesDone b k ok => Sys2Proof.Machine.execSpareSuitesDone b k ok s
  | .shadowSummary => Sys2Proof.Machine.execShadowSummary s
  | .batonHeartbeat => Sys2Proof.Machine.execBatonHeartbeat s
  | .batonClaim c => Sys2Proof.Machine.execBatonClaim c s
  | .cutterTakeover c => Sys2Proof.Machine.execCutterTakeover c s
  | .cutterRejoin c ok => Sys2Proof.Machine.execCutterRejoin c ok s
  | .bareModeEntry => Sys2Proof.Machine.execBareModeEntry s
  | .cutterRotationPeriod => Sys2Proof.Machine.execCutterRotationPeriod s
  | .rootRestartDone c ok => Sys2Proof.Machine.execRootRestartDone c ok s
  | .diagExpiry => Sys2Proof.Machine.execDiagExpiry s
  | .creaseSummary => Sys2Proof.Machine.execCreaseSummary s
  | .mbDrain => Sys2Proof.Machine.execMbDrain s
  | .periodicTrigger t => Sys2Proof.Machine.execPeriodicTrigger t s
  | .hourMark => Sys2Proof.Machine.execHourMark s
  | .pwrGoodRise env => Sys2Proof.Machine.execPwrGoodRise env s
  | .pwrGoodFall => Sys2Proof.Machine.execPwrGoodFall s
  | .clockLoss c => Sys2Proof.Machine.execClockLoss c s
  | .clockReturn c => Sys2Proof.Machine.execClockReturn c s
  | .railSample mv dw avg100 avg1000 => Sys2Proof.Machine.execRailSample mv dw avg100 avg1000 s
  | .junctionSample bolts selv => Sys2Proof.Machine.execJunctionSample bolts selv s
  | .holdExit => Sys2Proof.Machine.execHoldExit s
  | .queueCreate c => Sys2Proof.Machine.execQueueCreate c s
  | .queueDelete c => Sys2Proof.Machine.execQueueDelete c s
  | .queueQuery c => Sys2Proof.Machine.execQueueQuery c s
  | .iciNop c => Sys2Proof.Machine.execIciNop c s
  | .deviceInfo c => Sys2Proof.Machine.execDeviceInfo c s
  | .companionMap c => Sys2Proof.Machine.execCompanionMap c s
  | .companionUnmap c => Sys2Proof.Machine.execCompanionUnmap c s
  | .descCreate c => Sys2Proof.Machine.execDescCreate c s
  | .descDestroy c => Sys2Proof.Machine.execDescDestroy c s
  | .descQuery c => Sys2Proof.Machine.execDescQuery c s
  | .pairCreate c => Sys2Proof.Machine.execPairCreate c s
  | .compatMap c => Sys2Proof.Machine.execCompatMap c s
  | .compatUnmap c => Sys2Proof.Machine.execCompatUnmap c s
  | .schedLoad c => Sys2Proof.Machine.execSchedLoad c s
  | .schedRun c => Sys2Proof.Machine.execSchedRun c s
  | .schedStop c => Sys2Proof.Machine.execSchedStop c s
  | .schedUnload c => Sys2Proof.Machine.execSchedUnload c s
  | .schedQuery c => Sys2Proof.Machine.execSchedQuery c s
  | .spoolAlloc c => Sys2Proof.Machine.execSpoolAlloc c s
  | .spoolFree c => Sys2Proof.Machine.execSpoolFree c s
  | .spoolQuery c => Sys2Proof.Machine.execSpoolQuery c s
  | .chanRetrain c => Sys2Proof.Machine.execChanRetrain c s
  | .chanRetire c => Sys2Proof.Machine.execChanRetire c s
  | .chanTest c reads => Sys2Proof.Machine.execChanTest c reads s
  | .chanHealth c => Sys2Proof.Machine.execChanHealth c s
  | .fabConfig c => Sys2Proof.Machine.execFabConfig c s
  | .routeSet c => Sys2Proof.Machine.execRouteSet c s
  | .seamCtrl c => Sys2Proof.Machine.execSeamCtrl c s
  | .seamQuery c => Sys2Proof.Machine.execSeamQuery c s
  | .remoteMap c => Sys2Proof.Machine.execRemoteMap c s
  | .exportSet c => Sys2Proof.Machine.execExportSet c s
  | .tapeRefSet c => Sys2Proof.Machine.execTapeRefSet c s
  | .collPlanLoad c => Sys2Proof.Machine.execCollPlanLoad c s
  | .collPlanUnload c => Sys2Proof.Machine.execCollPlanUnload c s
  | .collEpochSet c => Sys2Proof.Machine.execCollEpochSet c s
  | .fabQuery c => Sys2Proof.Machine.execFabQuery c s
  | .powerStateSet c => Sys2Proof.Machine.execPowerStateSet c s
  | .powerLimitSet c => Sys2Proof.Machine.execPowerLimitSet c s
  | .powerQuery c => Sys2Proof.Machine.execPowerQuery c s
  | .telemetryQuery c => Sys2Proof.Machine.execTelemetryQuery c s
  | .basteTake c => Sys2Proof.Machine.execBasteTake c s
  | .basteDrain c => Sys2Proof.Machine.execBasteDrain c s
  | .basteRestore c => Sys2Proof.Machine.execBasteRestore c s
  | .basteRelease c => Sys2Proof.Machine.execBasteRelease c s
  | .basteQuery c => Sys2Proof.Machine.execBasteQuery c s
  | .containConfig c => Sys2Proof.Machine.execContainConfig c s
  | .shadowConfig c => Sys2Proof.Machine.execShadowConfig c s
  | .cutterRotate c => Sys2Proof.Machine.execCutterRotate c s
  | .healthQuery c => Sys2Proof.Machine.execHealthQuery c s
  | .attestReport c => Sys2Proof.Machine.execAttestReport c s
  | .identityCert c => Sys2Proof.Machine.execIdentityCert c s
  | .patternUpdate c => Sys2Proof.Machine.execPatternUpdate c s
  | .thimbleUpdate c => Sys2Proof.Machine.execThimbleUpdate c s
  | .flashWrite c => Sys2Proof.Machine.execFlashWrite c s
  | .diagAuthorise c => Sys2Proof.Machine.execDiagAuthorise c s
  | .fwQuery c => Sys2Proof.Machine.execFwQuery c s
  | .mbTriggerSet c => Sys2Proof.Machine.execMbTriggerSet c s
  | .mbQuery c => Sys2Proof.Machine.execMbQuery c s
  | .mbClear c => Sys2Proof.Machine.execMbClear c s
  | .testRun c => Sys2Proof.Machine.execTestRun c s
  | .testResult c => Sys2Proof.Machine.execTestResult c s
  | .pressSlotSet c => Sys2Proof.Machine.execPressSlotSet c s
  | .pressProgramSet c => Sys2Proof.Machine.execPressProgramSet c s
  | .pressSlotQuery c => Sys2Proof.Machine.execPressSlotQuery c s
  | .pressCounts c => Sys2Proof.Machine.execPressCounts c s
  | .seqAssign c => Sys2Proof.Machine.execSeqAssign c s
  | .seqRelease c => Sys2Proof.Machine.execSeqRelease c s
  | .seqStage c => Sys2Proof.Machine.execSeqStage c s
  | .seqQuery c => Sys2Proof.Machine.execSeqQuery c s
  | .routeQuery c => Sys2Proof.Machine.execRouteQuery c s
  | .chalkConfig c => Sys2Proof.Machine.execChalkConfig c s
  | .chalkQuery c => Sys2Proof.Machine.execChalkQuery c s
  | .sparseQuery c => Sys2Proof.Machine.execSparseQuery c s
  | .linkMarginLow m l margin => Sys2Proof.Machine.execLinkMarginLow m l margin s
  | .originalRetrainDone m ok => Sys2Proof.Machine.execOriginalRetrainDone m ok s
  | .cutterFailure c ev => Sys2Proof.Machine.execCutterFailure c ev s
  | .powerRemoved => Sys2Proof.Machine.execPowerRemoved s
  | .vauxInTolerance => Sys2Proof.Machine.execVauxInTolerance s
  | .i3cSetdasa addr static => Sys2Proof.Machine.execI3cSetdasa addr static s
  | .jtagTckEdge rising tms tdi trstN => Sys2Proof.Machine.execJtagTckEdge rising tms tdi trstN s
  | .companionWrite a data => Sys2Proof.Machine.execCompanionWrite a data s
  | .deviceReportsReady fails => Sys2Proof.Machine.execDeviceReportsReady fails s

end Sys2Proof.Machine
end

