-- ==== Sys2Proof/Machine/Tape.lean ====
section
/-! DEFINITION. The Tape between commands (02 R52; log 10). -/

namespace Sys2Proof.Machine

/-- The direction of a slew. -/
def slewStep (x : Int) : Int := if 0 < x then 1 else if x < 0 then -1 else 0

/-- The Tape counts 1 ns; a slew in progress corrects 1 ns in every 5,000, which is 200 ppm (02 R52). `slew` is what is
left of it, `offset` the source less the Tape. -/
def TapeSt.tick (t : TapeSt) : TapeSt :=
  let now := t.now + 1
  if now % 5000 = 0 then { t with now := now, slew := t.slew - slewStep t.slew, offset := t.offset - slewStep t.slew }
  else { t with now := now }

end Sys2Proof.Machine
end

