-- ==== Sys2Proof/Machine/Tick.lean ====
section
/-! DEFINITION. What happens when no command waits: the Tape and the time of VAUX in tolerance count 1 ns, and the copiers of Darnings go on (02 R52;
11 R342; log 10). -/

namespace Sys2Proof.Machine

/-- The copiers of the Spools, once in 3 ns (11 R342). -/
def Dev.copiers (d : Dev) : Dev := { d with spools := d.spools.map fun e => (e.1, e.2.copyTick) }

/-- One tick: the time of VAUX in tolerance (18 R544), and with power good the Tape and every third tick the copiers. -/
def Dev.tick (d : Dev) : Dev :=
  let d := { d with power := { d.power with vaux := d.power.vaux.map fun n => min 100000000 (n + 1) } }
  if d.power.pwrGood then
    let d := { d with tape := d.tape.tick }
    if d.tape.now % 3 = 0 && !d.power.off then d.copiers else d
  else d

end Sys2Proof.Machine
end

