-- ==== Sys2Proof/Machine/Step.lean ====
section
/-! DEFINITION. One step: the command at the front of the queue, or one tick of the Tape on an empty queue (log 10); and
the placing of a command that a table word spells. -/

namespace Sys2Proof.Machine

def State.pop (s : State) (rest : List Instr) : State := { s with pending := rest }
def State.push (s : State) (i : Instr) : State := { s with pending := i :: s.pending }

def step (s : State) : Host.Outcome State Fault Refusal :=
  match s.pending with
  | [] => s.onDev Dev.tick
  | c :: rest => exec c (s.pop rest)

/-- The command that a table word spells, put at the front of the queue; the table gives no row bits. -/
def State.withFetchWord (s : State) (nbits w : Nat) : State :=
  match decodeTableWord nbits w with
  | some c => s.push c
  | none => s

end Sys2Proof.Machine
end

