-- ==== Sys2Proof/Safety.lean ====
section
/-! DEFINITION. What counts as a safe run, and the words in which statements speak of one step: what a command needs in
order to act, and what it leaves unchanged. -/

namespace Sys2Proof.Safety

open Sys2Proof.Machine

/-- The step goes on: the machine neither faults nor refuses. -/
def goesOn (s : State) : Prop := ∃ t, step s = .next t

/-- Both byte spaces are in canonical form. -/
abbrev memoryOk (s : State) : Prop := s.store.wf = true

/-! ### What a command leaves unchanged -/

/-- Both byte spaces with their poison marks, and the queue of waiting commands, are as before. -/
def sameStore (s t : State) : Prop := t.store = s.store ∧ t.pending = s.pending

/-- Of the whole state only the logical core `c` may differ. -/
def onlyCore (c : Nat) (s t : State) : Prop :=
  sameStore s t ∧ t.dev = { s.dev with cores := t.dev.cores } ∧ ∀ j, j ≠ c → t.dev.core j = s.dev.core j

/-- Of the whole state only a stream's own registers and the scalars its core shares may differ. -/
def onlyStream (cs : CS) (s t : State) : Prop :=
  onlyCore cs.core s t
    ∧ ∃ x h y, t.dev.core cs.core = { (s.dev.core cs.core).setStream cs.st x with shared := h, cyc := y }

/-- The stream stands at the next instruction, and none of its waits is left, but for the lateness that the last one may cause; of
its own registers only `s`, `p` and `lc` may differ. -/
def movedOn (cs : CS) (s t : State) : Prop :=
  ∃ a p l, t.dev.stream cs = { (s.dev.stream cs).next with s := a, p := p, lc := l }

/-- Every scalar, predicate and loop counter that the stream can read is as before. -/
def sameScalars (cs : CS) (s t : State) : Prop := ∀ n, t.dev.sreg cs n = s.dev.sreg cs n
def samePreds (cs : CS) (s t : State) : Prop := (t.dev.stream cs).p = (s.dev.stream cs).p
def sameLoops (cs : CS) (s t : State) : Prop := ∀ n, (t.dev.stream cs).lcr n = (s.dev.stream cs).lcr n

/-! ### Instructions of a stream (05 R149, R159, R163) -/

/-- The stream presents the word, whose opcode is `o`, and its guard holds. -/
abbrev issues (cs : CS) (w : W64) (o : Nat) (s : State) : Prop :=
  s.dev.presented cs w o = true ∧ (s.dev.stream cs).guard w = true

/-- What the stream reads in scalar `n` when its access reaches the update step that `same` names: a shared scalar as it stood
before the writes of that step (00 R562; 05 R147). -/
def scalarRead (cs : CS) (same : Bool) (s : State) (n : Nat) : W32 := (s.dev.reach cs same).seen cs n

/-- A write of the update step by a stream that comes later in the order B, F, U stands in shared scalar `n` (05 R147). -/
def laterWrote (cs : CS) (same : Bool) (n : Nat) (s : State) : Prop :=
  24 ≤ n ∧ ((get? ((s.dev.reach cs same).core cs.core).cyc.rank n).any (strRank cs.st < ·)) = true

/-- The stream wrote `v` to scalar `sd`: it stands there unless a later stream's write of the same update step does; every other
scalar is as before. -/
def wroteScalar (cs : CS) (same : Bool) (sd : Nat) (v : W32) (s t : State) : Prop :=
  (¬laterWrote cs same sd s → t.dev.sreg cs sd = v) ∧ (laterWrote cs same sd s → t.dev.sreg cs sd = s.dev.sreg cs sd)
    ∧ ∀ n, n ≠ sd → t.dev.sreg cs n = s.dev.sreg cs n

/-- The second operand of 05 R150. -/
def secondOperand (cs : CS) (w : W64) (same : Bool) (s : State) : W32 :=
  if Insn.is w then BitVec.ofInt 32 (sext 23 (Insn.imm w)) else scalarRead cs same s (Insn.sb w)

/-- No read of a scratchpad meets an error of the code (06 R191, R192). -/
abbrev noErrors (l : List ScrEcc) : Prop := ∀ e ∈ l, e = ScrEcc.ok

/-- A number as a 32-bit word, modulo 2^32. -/
def word (n : Nat) : W32 := BitVec.ofNat 32 n

/-- ADD to MAXU: constructor, opcode and result (05 R159, R160). -/
def aluForms : List ((CS → W64 → Bool → Instr) × Nat × (W32 → W32 → W32)) :=
  [(@Instr.add, 0x10, fun a b => word (a.toNat + b.toNat)),
   (@Instr.sub, 0x11, fun a b => word (a.toNat + (2 ^ 32 - b.toNat))),
   (@Instr.mul, 0x12, fun a b => word (a.toNat * b.toNat)),
   (@Instr.and, 0x13, fun a b => word (a.toNat &&& b.toNat)),
   (@Instr.or, 0x14, fun a b => word (a.toNat ||| b.toNat)),
   (@Instr.xor, 0x15, fun a b => word (a.toNat ^^^ b.toNat)),
   (@Instr.shl, 0x16, fun a b => word (a.toNat * 2 ^ (b.toNat % 32))),
   (@Instr.shr, 0x17, fun a b => word (a.toNat / 2 ^ (b.toNat % 32))),
   (@Instr.sar, 0x18, fun a b => BitVec.ofInt 32 (a.toInt / 2 ^ (b.toNat % 32))),
   (@Instr.min, 0x19, fun a b => if a.toInt ≤ b.toInt then a else b),
   (@Instr.max, 0x1A, fun a b => if a.toInt ≤ b.toInt then b else a),
   (@Instr.minu, 0x1B, fun a b => word (min a.toNat b.toNat)),
   (@Instr.maxu, 0x1C, fun a b => word (max a.toNat b.toNat))]

/-- CMPEQ to CMPGEU: constructor, opcode and condition (05 R159). -/
def cmpForms : List ((CS → W64 → Bool → Instr) × Nat × (W32 → W32 → Prop)) :=
  [(@Instr.cmpeq, 0x20, fun a b => a = b), (@Instr.cmpne, 0x21, fun a b => a ≠ b), (@Instr.cmplt, 0x22, fun a b => a.toInt < b.toInt),
   (@Instr.cmpge, 0x23, fun a b => b.toInt ≤ a.toInt), (@Instr.cmpltu, 0x24, fun a b => a.toNat < b.toNat),
   (@Instr.cmpgeu, 0x25, fun a b => b.toNat ≤ a.toNat)]

/-- The instructions of a stream that are not actions, with their opcodes (05 R159). -/
def issueForms : List ((CS → W64 → Bool → Instr) × Nat) :=
  aluForms.map (fun e => (e.1, e.2.1)) ++ cmpForms.map (fun e => (e.1, e.2.1)) ++
  [(fun cs w _ => .nop cs w, 0x01), (fun cs w _ => .jmp cs w, 0x02), (@Instr.loop, 0x03), (@Instr.setlc, 0x04), (@Instr.getlc, 0x05),
   (fun cs w _ => .stop cs w, 0x06), (fun cs w _ => .abort cs w, 0x07), (fun cs w _ => .fence cs w, 0x09), (@Instr.li, 0x1D),
   (@Instr.lih, 0x1E), (@Instr.gets, 0x1F), (fun cs w _ => .pand cs w, 0x26), (fun cs w _ => .por cs w, 0x27),
   (fun cs w _ => .pxor cs w, 0x28), (fun cs w _ => .pnot cs w, 0x29), (fun cs w _ => .pset cs w, 0x2A), (@Instr.swld, 0x30),
   (@Instr.kwait, 0x41)]

/-- The word with OPC, G, PN, PSEL and TIDX at their bits, and `rest` in bits [38:0] (05 R149). -/
def wordOf (opc : BitVec 8) (g pn : Bool) (psel : BitVec 3) (tidx : BitVec 12) (rest : Nat) : W64 :=
  BitVec.ofNat 64 (opc.toNat * 2 ^ 56 + g.toNat * 2 ^ 55 + pn.toNat * 2 ^ 54 + psel.toNat * 2 ^ 51 + tidx.toNat * 2 ^ 39 + rest)

/-! ### Launched actions (05 R163; 12 R374; 14 R405, R407) -/

/-- The engine of action `a`, which is `x`, may do its work now: the action is launched and its work is not done, the lines
of level-4 backings that it reads have arrived, no access of it waits for the Yoke, every tensor of it is granted, and no zeros of its
handles are still on their way. -/
abbrev ready (a : Act) (x : Action) (reads : List Rng) (s : State) : Prop :=
  s.dev.action a = some x ∧ x.done = false ∧ (s.dev.yoke.down = none ∨ s.dev.usesCompanion a x = false)
    ∧ (s.dev.farLines reads).length ≤ x.fetched ∧ (∀ r ∈ s.dev.fab.remote, ¬(r.kind = 0 ∧ r.act = some a))
    ∧ s.dev.ungranted x = none ∧ s.dev.zeroing a x = false

/-- The engine has done the work of the action, which stays launched until its completion. -/
def workDone (a : Act) (x : Action) (t : State) : Prop := t.dev.action a = some { x with done := true }

/-- Of the state only what the cores hold may differ. -/
def onlyActs (s t : State) : Prop := sameStore s t ∧ t.dev = { s.dev with cores := t.dev.cores }

/-- A byte range outside of which no byte of device memory differs. -/
def memSame (lo len : Nat) (s t : State) : Prop := ∀ a, ¬(lo ≤ a ∧ a < lo + len) → t.store.mem.byte a = s.store.mem.byte a

/-- No byte of a scratchpad, or of device memory, differs. -/
def scratchSame (s t : State) : Prop := ∀ a, t.store.scratch.byte a = s.store.scratch.byte a
def memoryKept (s t : State) : Prop := ∀ a, t.store.mem.byte a = s.store.mem.byte a

/-- What an engine's notes about its work may change beside the cores: the counts of its context, the Measure Book, the
exit from Hold that its records start, and the Crease's counts of occurrences. -/
def onlyCoresAndNotes (s t : State) : Prop :=
  t.pending = s.pending ∧ t.dev = { s.dev with
    cores := t.dev.cores, ctxs := t.dev.ctxs, mb := t.dev.mb, cr := t.dev.cr, power := { s.dev.power with wake := t.dev.power.wake } }

/-- The handle of an action on its core, if valid, stands in the scratchpad. -/
def inScratch (core h : Nat) (s : State) : Prop := ∀ y, (s.dev.core core).handle h = some y → y.spilled = false

/-- Element-wise VEC operations (05 R162): constructor, VOP, whether it reads B, whether it reads D, and the value from
SCALAR, A, B, the destination's prior value and the element's index. -/
def vectorForms : List ((Act → List ScrEcc → Instr) × Nat × Bool × Bool × (W32 → W32 → W32 → W32 → Nat → W32)) :=
  [(@Instr.vecAdd, 0x01, true, false, fun _ a b _ _ => B32.add a b), (@Instr.vecSub, 0x02, true, false, fun _ a b _ _ => B32.sub a b),
   (@Instr.vecMul, 0x03, true, false, fun _ a b _ _ => B32.mul a b), (@Instr.vecFma, 0x04, true, true, fun _ a b d _ => B32.fma a b d),
   (@Instr.vecDiv, 0x05, true, false, fun _ a b _ _ => B32.div a b), (@Instr.vecSqrt, 0x06, false, false, fun _ a _ _ _ => B32.sqrt a),
   (@Instr.vecMin, 0x07, true, false, fun _ a b _ _ => B32.minV a b), (@Instr.vecMax, 0x08, true, false, fun _ a b _ _ => B32.maxV a b),
   (@Instr.vecAbs, 0x09, false, false, fun _ a _ _ _ => B32.abs a), (@Instr.vecNeg, 0x0A, false, false, fun _ a _ _ _ => B32.flip a),
   (@Instr.vecAdds, 0x0B, false, false, fun s a _ _ _ => B32.add a s), (@Instr.vecMuls, 0x0C, false, false, fun s a _ _ _ => B32.mul a s),
   (@Instr.vecExp, 0x0D, false, false, fun _ a _ _ _ => B32.exp a), (@Instr.vecLog, 0x0E, false, false, fun _ a _ _ _ => B32.log a),
   (@Instr.vecCvt, 0x0F, false, false, fun _ a _ _ _ => a)]

/-- The operations of a GREQ record (08 R235): constructor, OP, and what the engine then does with COUNT not 0. -/
def greqForms : List ((Act → Instr) × Nat × (Act → Box → Action → Box)) :=
  [(.gather, 1, fun a b x => b.gatherRun a x), (.scatter, 2, fun _ b x => b.scatterRun x), (.pack, 4, fun _ b x => b.packRun x),
   (.unpack, 5, fun _ b x => b.unpackRun x), (.combine, 7, fun _ b x => b.combineRun x),
   (.rowfetch, 8, fun a b x => b.rowfetchRun a x), (.patch, 9, fun a b x => b.patchRun a x)]

/-! ### Records and completions -/

/-- A record of the event was formed: SEQ from the old head on, with its context and its payload slots (17 R502, R503). -/
def recorded (code : Nat) (ctx : Option Nat) (slots : List Int) (s t : State) : Prop :=
  ∃ r ∈ t.dev.mb.ring, s.dev.mb.head ≤ r.seq ∧ r.code = code ∧ r.ctx = ctx ∧ r.slots = slots.map toW64

/-- A record with the code was formed. -/
def recordedAny (code : Nat) (s t : State) : Prop := ∃ r ∈ t.dev.mb.ring, s.dev.mb.head ≤ r.seq ∧ r.code = code

/-- The ICI command of opcode `opc` stands accepted on its queue and is performed now: the device serves commands, in Hold
the command does not wait (`needs`: its effect needs Spool memory or a cluster), no Spool in Trip or stalled channel holds it back, and
its reserved fields are 0 (14 R419, R422; 11 R339, R345; 18 R535). -/
abbrev performs (opc : Nat) (c : Ici) (needs : Bool) (s : State) : Prop :=
  s.dev.serving = true ∧ s.dev.isAccepted opc c = true ∧ (s.dev.power.hold && needs) = false ∧ s.dev.spoolWaits opc c.p = false
    ∧ ∀ f ∈ spareFields opc, payBits c.p f.1 f.2.1 f.2.2 = 0

/-- Of the queues only the command's own differs: its entry has left the accepted ones, and one completion with STATUS,
EVENT, DETAIL and RESULT is due (14 R417, R419 to R421). -/
def answers (opc : Nat) (c : Ici) (status event : Nat) (detail : W32) (result : W64) (s t : State) : Prop :=
  t.dev.queue c.q.val = { s.dev.queue c.q.val with
      accepted := (s.dev.queue c.q.val).accepted.eraseP (spells opc c)
      due := (s.dev.queue c.q.val).due ++ [⟨Ici.pend opc c, status, event, detail, result⟩] }
    ∧ ∀ j, j ≠ c.q.val → t.dev.queue j = s.dev.queue j

/-- Success without a value. -/
def succeeds (opc : Nat) (c : Ici) (s t : State) : Prop := answers opc c 0 0 0 0 s t

/-- The command has left the accepted entries of its queue, and no completion of it is due yet. -/
def taken (opc : Nat) (c : Ici) (s t : State) : Prop :=
  t.dev.queue c.q.val = { s.dev.queue c.q.val with accepted := (s.dev.queue c.q.val).accepted.eraseP (spells opc c) }
    ∧ ∀ j, j ≠ c.q.val → t.dev.queue j = s.dev.queue j

/-- A command may write `n` bytes at `a`: aligned, in memory that the device may write, and no Baste protects them. -/
abbrev writable (d : Dev) (a n : Nat) : Prop :=
  a % 64 = 0 ∧ (n ≠ 0 → d.addressable a n = true ∧ (inCompanion a n = true → d.granted a n true = true))
    ∧ ∀ g ∈ granulesOf a n, d.protector g = none

/-- A command may read `n` bytes at `a` aligned to `al`, none of them poisoned; `l` are the bytes. -/
abbrev readable (s : State) (d : Dev) (a n al : Nat) (l : List Byte) : Prop :=
  a % al = 0 ∧ (n ≠ 0 → d.addressable a n = true ∧ (inCompanion a n = true → d.granted a n false = true))
    ∧ anyBad (s.store.rdMem a n) = false ∧ l = s.store.mem.read a n

/-- The bytes at `a` are `l` and no other byte of either space differs. -/
def wrote (a : Nat) (l : List Byte) (s t : State) : Prop :=
  t.store.mem.read a l.length = l ∧ memSame a l.length s t ∧ t.store.scratch = s.store.scratch

/-- A completion of the command with STATUS and EVENT is due on its queue. -/
def ended (opc : Nat) (c : Ici) (status event : Nat) (t : State) : Prop :=
  ∃ x ∈ (t.dev.queue c.q.val).due, x.cmd = Ici.pend opc c ∧ x.status = status ∧ x.event = event

/-- Beside the queues the command changed nothing but what writing its result changes: the companion's cached lines that
it recalls and the lines that run-ahead buffers and coalescing caches lose (14 R410; 02 R79; 08 R233). -/
def onlyAnswered (s t : State) : Prop :=
  t.pending = s.pending ∧ t.dev = { s.dev with
    queues := t.dev.queues, ahead := t.dev.ahead, caches := t.dev.caches, yoke := { s.dev.yoke with directory := t.dev.yoke.directory } }

/-- The queries that write a record at the address in payload bytes 8 to 15: opcode, constructor, the conditions on the
payload and the device, and the record (09 R296; 10 R319; 11 R352; 12 R397; 14 R427; 15 R473; 16 R499; 17 R524; 18 R552). -/
def queryForm (f : Nat × (Ici → Instr) × (Ici → Dev → Bool) × (Ici → Dev → List Byte)) : Prop :=
  let ctx := fun (c : Ici) => payBits c.p 0 0 3
  let filled := fun (c : Ici) (d : Dev) => (d.ctx (ctx c)).st != .empty
  f ∈ ([(0x0103, .queueQuery, fun c _ => decide (payBits c.p 0 0 4 ≤ 8), fun c d => d.queueBlock (payBits c.p 0 0 4)),
   (0x0105, .deviceInfo, fun _ _ => true, fun _ d => d.infoBytes),
   (0x0403, .spoolQuery, fun _ _ => true, fun _ d => d.spoolInfo),
   (0x0407, .chanHealth, fun _ _ => true, fun c d => (List.range 34).flatMap fun ph => d.healthRec (ctx c) ph),
   (0x0504, .seamQuery, fun c _ => decide (pay c.p 0 1 < 64 ∧ pay c.p 0 1 + pay c.p 1 1 ≤ 64),
     fun c d => (span (pay c.p 0 1) (pay c.p 1 1)).flatMap d.seamRec),
   (0x050B, .fabQuery, fun _ _ => true, fun _ d => d.fabBytes),
   (0x0603, .powerQuery, fun _ _ => true, fun _ d => d.powerRec),
   (0x0604, .telemetryQuery, fun _ _ => true, fun _ d => d.telemetry),
   (0x0705, .basteQuery, fun _ _ => true, fun c d => d.basteInfo (payBits c.p 0 0 4)),
   (0x0709, .healthQuery, fun _ _ => true, fun _ d => d.healthBytes),
   (0x0807, .fwQuery, fun _ _ => true, fun _ d => d.fwInfo),
   (0x0905, .testResult, fun c _ => decide (pay c.p 0 1 ≤ 3 ∧ pay c.p 2 2 < targetCount (pay c.p 0 1)),
     fun c d => d.testInfo (pay c.p 0 1) (pay c.p 2 2)),
   (0x0A03, .pressSlotQuery, fun c d => filled c d && decide (pay c.p 1 1 + pay c.p 2 1 ≤ 64),
     fun c d => (span (pay c.p 1 1) (pay c.p 2 1)).flatMap fun i => (getD (d.ctx (ctx c)).slots i ⟨0, 0, 0⟩).bytes),
   (0x0A04, .pressCounts, filled, fun c d => countBytes (d.ctx (ctx c)).counts.press 6),
   (0x0B04, .seqQuery, fun c _ => decide (pay c.p 0 1 + pay c.p 2 2 ≤ 256), fun c d => (span (pay c.p 0 1) (pay c.p 2 2)).flatMap d.seqEntry),
   (0x0B05, .routeQuery, filled, fun c d => countBytes (d.ctx (ctx c)).counts.route 7),
   (0x0C02, .chalkQuery, fun c d => filled c d && decide (pay c.p 2 2 + pay c.p 4 2 ≤ 256),
     fun c d => (span (pay c.p 2 2) (pay c.p 4 2)).flatMap fun i => (d.ctx (ctx c)).chalkEntry i),
   (0x0C03, .sparseQuery, filled, fun c d => countBytes (d.ctx (ctx c)).counts.sparse 9)] :
    List (Nat × (Ici → Instr) × (Ici → Dev → Bool) × (Ici → Dev → List Byte)))

/-! ### Packets (12 R368, R369, R373) -/

/-- The packet, of type `ty`, arrives on Seam `p`, which is up, ends its way here, and has no fault. -/
abbrev arrives (ty : Nat) (p : Fin 64) (k : Packet) (s : State) : Prop :=
  (s.dev.seam p.val).up = true ∧ s.dev.delivers k = true ∧ k.type = ty ∧ packetFault k = none

/-- The packet left on the Seam to which its routing entry sends it. -/
def routed (k : Packet) (s t : State) : Prop :=
  ∀ out, s.dev.routeFor k.dst k.src k.flow = some out → (out, TxItem.packet k) ∈ t.dev.tx

/-- The answer to a request: its type, TAG and STATUS, and its lines with their poison bits. -/
def answerPacket (s : State) (k : Packet) (status lpoison : Nat) (lines : List (BitVec 512)) : Packet :=
  mkPacket k.src s.dev.fab.deviceId.toNat (if k.type = 1 then 2 else if k.type = 3 then 4 else 6) 1 k.flow
    (packFields [(limN 9 (tagOf k), 0), (limN 3 status, 9)]) lpoison lines

end Sys2Proof.Safety
end

