-- ==== Sys2Proof/Certificates/Slice0/Obligations.lean ====
section
/-! DEFINITION. The statements about the device, for the provers. Each says in its docstring what it states and on which
rules it rests. -/

open Sys2Proof Sys2Proof.Machine Sys2Proof.Safety

/-- For every command c and state s, step of s with c put at the front of its queue is exec of c on s, whose queue is
the rest. On an empty queue the step answers a next state: while power is good the Tape has counted (it has slewed as
its corrections allow) and, every third nanosecond outside Off, the copiers of Darnings have gone on; the time for which VAUX has been
in tolerance counts too, up to 100 ms; else nothing changes. That an idle step is a tick of the Tape is the model's choice (log 10). (00_scope.md, R52, R342, R544) -/
def Obligations.StepRunsTheFrontCommand : Prop :=
  (∀ (c : Instr) (s : State), step (s.push c) = exec c s)
  ∧ ∀ (b : Box), step ⟨[], b⟩ = .next ⟨[], { b with dev := b.dev.tick }⟩

/-- In State.reset the mode is booting (0), the Tape is 0 with SOURCE free-run and STEP_ALLOW 1, no interrupt bit is
set or enabled, VCORE reads 650 mV and PLIMIT is 2,900 W; every queue is disabled with its registers 0 and PHASE 1;
every context is EMPTY; every Spool has channels 0 to 31 in service and 32 and 33 as idle spares; SEQ starts at 1;
RATE_LOG2 of the sampler is 10 and containment is not by reset; no Baste, Knot, region, grant or descriptor exists;
nothing waits and no byte of memory is listed. That both spare channels are there is the model's choice (log 66: reset U);
other values that the manual does not give are too (logs 3, 4, 5) and are not named here. (R9, R57, R172, R324, R413, R443, R439, R512, R530, R497) -/
def Obligations.ResetHoldsSpecValues : Prop :=
  let d := State.reset.dev
  d.yoke.mode = 0 ∧ d.tape.now = 0 ∧ d.tape.source = 0 ∧ d.tape.stepAllow = true ∧ d.yoke.devirq = 0 ∧ d.yoke.devirqEn = 0
    ∧ d.pace.vcore = 650 ∧ d.power.plimit = 2900
    ∧ (∀ q, (d.queue q).enable = false ∧ (d.queue q).error = false ∧ (d.queue q).sqBase = 0 ∧ (d.queue q).cqBase = 0
        ∧ (d.queue q).log2 = 0 ∧ (d.queue q).tail = 0 ∧ (d.queue q).head = 0 ∧ (d.queue q).cqHead = 0
        ∧ (d.queue q).cqTail = 0 ∧ (d.queue q).phase = true)
    ∧ (∀ n, (d.ctx n).st = .empty)
    ∧ (∀ m ch, ((d.spool m).chan ch).role = if ch < 32 then 0 else 1)
    ∧ d.mb.head = 1 ∧ d.shadow.rate = 10 ∧ d.containReset = false
    ∧ d.bastes = [] ∧ d.knots = [] ∧ d.regions = [] ∧ d.grants = [] ∧ d.descs = []
    ∧ State.reset.pending = [] ∧ State.reset.store.mem.cells = [] ∧ State.reset.store.scratch.cells = []

/-- In State.reset device memory and the scratchpads list addresses in strictly rising order, list no byte equal to
what an unlisted address reads as, and have no empty range of undefined content. The form is the model's own.
(00_scope.md, R21, R177) -/
def Obligations.ResetMemoryIsCanonical : Prop := memoryOk State.reset

/-- For every state whose device memory and scratchpads have the canonical form (addresses strictly rising, no listed
byte equal to what an unlisted address reads as, undefined ranges not empty and without listed bytes), whatever
command stands at the front of the queue and with an empty queue too: if the step answers a next state, its memory and
scratchpads have the canonical form. (00_scope.md, R21, R177, R187, R539) -/
def Obligations.StepKeepsMemoryCanonical : Prop :=
  ∀ (s t : State), memoryOk s → step s = .next t → memoryOk t

/-- For every command and state: if exec answers a next state, the commands that wait are the same ones in the same
order. The queue is the model's own. (00_scope.md) -/
def Obligations.ExecLeavesTheQueueAlone : Prop :=
  ∀ (c : Instr) (s t : State), exec c s = .next t → t.pending = s.pending

/-- For every command and state, exec answers a next state, except that a falling TCK edge with TRST_N high, with VAUX
in tolerance and the TAP controller in Update-IR, which makes an instruction other than BYPASS current in the
diagnostic state, is refused under its own name: the manual gives no effect of private instructions. (R86, R498, R543)
-/
def Obligations.OnlyAPrivateJtagInstructionStops : Prop :=
  ∀ (c : Instr) (s : State),
    (∃ t, exec c s = .next t)
    ∨ (exec c s = .refused .jtagPrivate ∧ (∃ tms tdi, c = .jtagTckEdge false tms tdi true)
        ∧ s.dev.power.vaux.isSome = true ∧ s.dev.diag = true ∧ s.dev.pins.tap = 13 ∧ s.dev.pins.irShift ≠ 255)

/-- For every opcode below 65,536 and every command of any queue: the 64-byte entry with the OPCODE in bytes 0 and 1,
FLAGS.IRQ in bit 1 of byte 2, the TAG in bytes 4 to 7 and the payload in bytes 16 to 63 is read back as that opcode,
IRQ, TAG and payload, with FENCE 0, DEADLINE 0 and every reserved header bit 0; and an entry that spells two commands
of one queue spells one command. (R419, R422) -/
def Obligations.IciEntryDecodes : Prop :=
  ∀ (opc : Nat) (c : Ici), opc < 65536 →
    let e := iciEntry opc c
    entryOpc e = opc ∧ entryPend c.q.val e = Ici.pend opc c ∧ entryPay e = c.p ∧ entryFence e = false ∧ entryDeadline e = 0
      ∧ fld e 18 6 = 0 ∧ fld e 24 8 = 0 ∧ spells opc c e = true
      ∧ ∀ (o' : Nat) (c' : Ici), c'.q = c.q → spells o' c' e = true → o' = opc ∧ c' = c

/-- For every value of every field within its width: the 64-bit word that places OPC, G, PN, PSEL and TIDX at the bits
of 05 R149 and the fields of format C, S or K at the bits of 05 R150 is read back with exactly those fields. (R149,
R150) -/
def Obligations.InstructionWordsDecode : Prop :=
  ∀ (opc : BitVec 8) (g pn : Bool) (psel : BitVec 3) (tidx : BitVec 12),
    let common := fun (w : W64) =>
      Insn.opc w = opc.toNat ∧ Insn.g w = g ∧ Insn.pn w = pn ∧ Insn.psel w = psel.toNat ∧ Insn.tidx w = tidx.toNat
    (∀ (ridx : BitVec 12) (ha hb hc hd : BitVec 6),
      let w := wordOf opc g pn psel tidx (ridx.toNat * 2 ^ 27 + ha.toNat * 2 ^ 21 + hb.toNat * 2 ^ 15 + hc.toNat * 2 ^ 9 + hd.toNat * 2 ^ 3)
      common w ∧ Insn.ridx w = ridx.toNat ∧ Insn.ha w = ha.toNat ∧ Insn.hb w = hb.toNat ∧ Insn.hc w = hc.toNat ∧ Insn.hd w = hd.toNat)
    ∧ (∀ (sd sa sb : BitVec 5) (is : Bool) (imm : BitVec 23),
      let w := wordOf opc g pn psel tidx (sd.toNat * 2 ^ 34 + sa.toNat * 2 ^ 29 + sb.toNat * 2 ^ 24 + is.toNat * 2 ^ 23 + imm.toNat)
      common w ∧ Insn.sd w = sd.toNat ∧ Insn.sa w = sa.toNat ∧ Insn.sb w = sb.toNat ∧ Insn.is w = is ∧ Insn.imm w = imm.toNat
        ∧ Insn.simm w = imm.toInt)
    ∧ (∀ (kid : BitVec 14) (sa sb : BitVec 5) (rs rmt : Bool) (imm : BitVec 13),
      let w := wordOf opc g pn psel tidx (kid.toNat * 2 ^ 25 + sa.toNat * 2 ^ 20 + rs.toNat * 2 ^ 19 + sb.toNat * 2 ^ 14 + rmt.toNat * 2 ^ 13 + imm.toNat)
      common w ∧ Insn.kid w = kid.toNat ∧ Insn.ksa w = sa.toNat ∧ Insn.krs w = rs ∧ Insn.ksb w = sb.toNat ∧ Insn.krmt w = rmt
        ∧ Insn.kimm w = imm.toNat)

/-- For a store in canonical form: after a write of bytes to device memory (to the scratchpads) at an address, reading
as many bytes there gives those bytes, and every byte outside is as before; the other space is unchanged. A line
written whole with clean bytes is not poisoned any more; a line into which a poisoned byte was written is poisoned; a
line that is not written keeps its mark. (R21, R44, R192, R331) -/
def Obligations.MemoryReadsBackWhatWasWritten : Prop :=
  ∀ (x : Store) (a : Nat) (l : List PB), x.wf = true →
    ((x.wrMem a l).mem.read a l.length = l.map (·.1)
      ∧ (∀ i, ¬(a ≤ i ∧ i < a + l.length) → (x.wrMem a l).mem.byte i = x.mem.byte i)
      ∧ (x.wrMem a l).scratch = x.scratch ∧ (x.wrMem a l).scratchPoison = x.scratchPoison
      ∧ (∀ ln, ln ∈ linesOf a l.length → a ≤ ln * 64 → ln * 64 + 64 ≤ a + l.length → (∀ e ∈ l, e.2 = false) →
          ln ∉ (x.wrMem a l).memPoison)
      ∧ (∀ i, i < l.length → (l.getD i (0, false)).2 = true → (a + i) / 64 ∈ (x.wrMem a l).memPoison)
      ∧ (∀ ln, ln ∉ linesOf a l.length → (ln ∈ (x.wrMem a l).memPoison ↔ ln ∈ x.memPoison)))
    ∧ ((x.wrScr a l).scratch.read a l.length = l.map (·.1)
      ∧ (∀ i, ¬(a ≤ i ∧ i < a + l.length) → (x.wrScr a l).scratch.byte i = x.scratch.byte i)
      ∧ (x.wrScr a l).mem = x.mem ∧ (x.wrScr a l).memPoison = x.memPoison)

/-- For each of ADD, SUB, MUL, AND, OR, XOR, SHL, SHR, SAR, MIN, MAX, MINU and MAXU: when the stream presents the word
and its guard holds, the command completes; s[SD] holds the operation on s[SA] and the second operand (modulo 2^32,
shifts by bits [4:0], MIN and MAX signed, MINU and MAXU unsigned), unless a stream later in the order B, F, U wrote that
shared scalar in the same update step, whose write stands; a shared operand reads as it stood before the writes of the
update step; every other scalar is unchanged, predicates and
loop counters are unchanged, the stream stands at the next instruction, and nothing outside the stream and the shared
scalars of its core changes. That a stream without a context takes any word, and that an operand of the command says
which update step the access reaches, are the model's choices (logs 20, 54). (R147, R149, R150, R159, R160, R562,
05_instructions.md) -/
def Obligations.ScalarArithmeticResults : Prop :=
  ∀ e ∈ aluForms, ∀ (cs : CS) (w : W64) (same : Bool) (s : State), issues cs w e.2.1 s →
    ∃ t, exec (e.1 cs w same) s = .next t
      ∧ wroteScalar cs same (Insn.sd w) (e.2.2 (scalarRead cs same s (Insn.sa w)) (secondOperand cs w same s)) s t
      ∧ movedOn cs s t ∧ samePreds cs s t ∧ sameLoops cs s t ∧ onlyStream cs s t

/-- When the stream presents the word and its guard holds: LI completes and s[SD] is IMM sign-extended; LIH completes,
bits [31:16] of s[SD] are IMM[15:0] and bits [15:0] are as before; GETLC completes and s[SD] is lc[SA[1:0]]. Every
other scalar, the predicates and the loop counters are unchanged, the stream stands at the next instruction, and
nothing outside the stream and the shared scalars of its core changes. When two streams of a core write one shared scalar
by LI in the same update step, the write of the stream that comes later in the order B, F, U stands, whichever came first
here, and a read of that step by the second stream returns the value before both writes; a stream's read in a later step
returns what stands. That LIH keeps the low half as the update step sees it, and that an operand names the step, are the
model's choices (log 54). (R147, R149, R150, R159, R562, 05_instructions.md) -/
def Obligations.ScalarLoadResults : Prop :=
  (∀ (cs : CS) (w : W64) (same : Bool) (s : State),
    (issues cs w 0x1D s → ∃ t, exec (.li cs w same) s = .next t
      ∧ wroteScalar cs same (Insn.sd w) (BitVec.ofInt 32 (sext 23 (Insn.imm w))) s t
      ∧ movedOn cs s t ∧ samePreds cs s t ∧ sameLoops cs s t ∧ onlyStream cs s t)
    ∧ (issues cs w 0x1E s → ∃ t v, exec (.lih cs w same) s = .next t
      ∧ fld v 16 16 = Insn.imm w % 2 ^ 16
      ∧ fld v 0 16 = fld (scalarRead cs same s (Insn.sd w)) 0 16
      ∧ wroteScalar cs same (Insn.sd w) v s t
      ∧ movedOn cs s t ∧ samePreds cs s t ∧ sameLoops cs s t ∧ onlyStream cs s t)
    ∧ (issues cs w 0x05 s → ∃ t, exec (.getlc cs w same) s = .next t
      ∧ wroteScalar cs same (Insn.sd w) ((s.dev.stream cs).lcr (Insn.sa w % 4)) s t
      ∧ movedOn cs s t ∧ samePreds cs s t ∧ sameLoops cs s t ∧ onlyStream cs s t))
  ∧ ∀ (cs1 cs2 : CS) (w1 w2 : W64) (s : State), cs1.core = cs2.core → cs1.st ≠ cs2.st →
    issues cs1 w1 0x1D s → issues cs2 w2 0x1D s → 24 ≤ Insn.sd w1 → Insn.sd w2 = Insn.sd w1 →
    let later := (cs1.st = .B ∨ cs2.st = .U)
    ∃ t u, exec (.li cs1 w1 false) s = .next t ∧ exec (.li cs2 w2 true) t = .next u
      ∧ scalarRead cs2 true t (Insn.sd w1) = s.dev.sreg cs1 (Insn.sd w1)
      ∧ scalarRead cs2 false t (Insn.sd w1) = BitVec.ofInt 32 (sext 23 (Insn.imm w1))
      ∧ (later → u.dev.sreg cs1 (Insn.sd w1) = BitVec.ofInt 32 (sext 23 (Insn.imm w2)))
      ∧ (¬later → u.dev.sreg cs1 (Insn.sd w1) = BitVec.ofInt 32 (sext 23 (Insn.imm w1)))

/-- When the stream presents a GETS and its guard holds, and, for code 6, no local Knot operation of the stream waits
for its arrival to be applied (log 21), the command completes: s[SD] is the logical core number, the job context ID,
the training-step number, Tape bits [31:0], the high half of the Tape latched with the last read of code 3, slip
offset bits [31:0], the observed Knot generation, the stream number, the device ID, or 0 for codes 9 to 15. A read of
code 3 latches Tape bits [63:32]; another code leaves the latch. Other scalars, predicates and loop counters are
unchanged and the stream stands at the next instruction. While such an operation waits, a read of code 6 only waits. A
stream that no context uses reads context 0 (the model's choice, log 20). (R147, R160, R161, 05_instructions.md) -/
def Obligations.SpecialRegisterReads : Prop :=
  ∀ (cs : CS) (w : W64) (same : Bool) (s : State), issues cs w 0x1F s →
    ((Insn.imm w % 16 = 6 → (s.dev.stream cs).genPending = false) →
    ∃ t, exec (.gets cs w same) s = .next t
      ∧ (let x := s.dev.stream cs
         let c := s.dev.ctx (x.ctx.getD 0)
         wroteScalar cs same (Insn.sd w)
           (match Insn.imm w % 16 with
           | 0 => word cs.core
           | 1 => word (x.ctx.getD 0)
           | 2 => word c.step
           | 3 => word s.dev.tape.now
           | 4 => x.tapeHi
           | 5 => word c.slip
           | 6 => word x.gen.toNat
           | 7 => word cs.st.num
           | 8 => word s.dev.fab.deviceId.toNat
           | _ => 0) s t)
      ∧ (t.dev.stream cs).tapeHi =
          (if Insn.imm w % 16 = 3 then word (s.dev.tape.now / 2 ^ 32) else (s.dev.stream cs).tapeHi)
      ∧ (t.dev.stream cs).pc = (s.dev.stream cs).pc + 1
      ∧ samePreds cs s t ∧ sameLoops cs s t ∧ onlyStream cs s t)
    ∧ (Insn.imm w % 16 = 6 → (s.dev.stream cs).genPending = true →
      ∃ t, exec (.gets cs w same) s = .next t ∧ t.dev.stream cs = s.dev.stream cs ∧ sameScalars cs s t ∧ onlyStream cs s t)

/-- For each of CMPEQ, CMPNE, CMPLT, CMPGE, CMPLTU and CMPGEU: when the stream presents the word and its guard holds,
the command completes; p[SD[2:0]] is 1 exactly when the condition holds between s[SA] and the second operand; every
other predicate, every scalar and loop counter is unchanged; the stream stands at the next instruction; nothing
outside the stream changes. A shared operand reads as it stood before the writes of the update step. (R147, R149, R150,
R159, 05_instructions.md) -/
def Obligations.ComparisonResults : Prop :=
  ∀ e ∈ cmpForms, ∀ (cs : CS) (w : W64) (same : Bool) (s : State), issues cs w e.2.1 s →
    ∃ t, exec (e.1 cs w same) s = .next t
      ∧ ((t.dev.stream cs).pred (Insn.sd w % 8) = true ↔ e.2.2 (scalarRead cs same s (Insn.sa w)) (secondOperand cs w same s))
      ∧ (∀ n, n < 8 → n ≠ Insn.sd w % 8 → (t.dev.stream cs).pred n = (s.dev.stream cs).pred n)
      ∧ movedOn cs s t ∧ sameScalars cs s t ∧ sameLoops cs s t ∧ onlyStream cs s t

/-- When the stream presents the word and its guard holds, PAND, POR and PXOR complete with p[SD[2:0]] the AND, OR and
XOR of p[SA[2:0]] and p[SB[2:0]], PNOT with the NOT of p[SA[2:0]], PSET with IMM[0]; every other predicate, every
scalar and loop counter is unchanged; the stream stands at the next instruction; nothing outside the stream changes.
(R149, R150, R159, 05_instructions.md) -/
def Obligations.PredicateResults : Prop :=
  ∀ (cs : CS) (w : W64) (s : State),
    let p := fun (n : Nat) => (s.dev.stream cs).pred (n % 8)
    let done := fun (i : Instr) (v : Bool) => ∃ t, exec i s = .next t
      ∧ (∀ n, n < 8 → (t.dev.stream cs).pred n = if n = Insn.sd w % 8 then v else (s.dev.stream cs).pred n)
      ∧ movedOn cs s t ∧ sameScalars cs s t ∧ sameLoops cs s t ∧ onlyStream cs s t
    (issues cs w 0x26 s → done (.pand cs w) (p (Insn.sa w) && p (Insn.sb w)))
    ∧ (issues cs w 0x27 s → done (.por cs w) (p (Insn.sa w) || p (Insn.sb w)))
    ∧ (issues cs w 0x28 s → done (.pxor cs w) (p (Insn.sa w) ^^ p (Insn.sb w)))
    ∧ (issues cs w 0x29 s → done (.pnot cs w) (!p (Insn.sa w)))
    ∧ (issues cs w 0x2A s → done (.pset cs w) (bitOf w 0))

/-- When the stream presents the word and its guard holds: NOP only moves to the next instruction; JMP adds the sign-
extended IMM to the program counter (for a target inside the block, which SCHED_LOAD ensures, that is not negative);
LOOP adds 1 to lc[SD[1:0]] modulo 2^32 and jumps by the sign-extended IMM while the new value is below s[SB] unsigned,
else moves to the next instruction; SETLC writes IMM zero-extended or s[SA] to lc[SD[1:0]] and moves on. Every other
loop counter, every scalar and predicate is unchanged, and nothing outside the stream changes. (R147, R149, R150, R159,
R160, 05_instructions.md) -/
def Obligations.FlowResults : Prop :=
  ∀ (cs : CS) (w : W64) (same : Bool) (s : State),
    let x := s.dev.stream cs
    let i := sext 23 (Insn.imm w)
    let lc := x.lcr (Insn.sd w % 4)
    (issues cs w 0x01 s → ∃ t, exec (.nop cs w) s = .next t
      ∧ movedOn cs s t ∧ sameScalars cs s t ∧ samePreds cs s t ∧ sameLoops cs s t ∧ onlyStream cs s t)
    ∧ (issues cs w 0x02 s → 0 ≤ (x.pc : Int) + i → ∃ t, exec (.jmp cs w) s = .next t
      ∧ ((t.dev.stream cs).pc : Int) = (x.pc : Int) + i
      ∧ sameScalars cs s t ∧ samePreds cs s t ∧ sameLoops cs s t ∧ onlyStream cs s t)
    ∧ (issues cs w 0x03 s → 0 ≤ (x.pc : Int) + i → ∃ t, exec (.loop cs w same) s = .next t
      ∧ (t.dev.stream cs).lcr (Insn.sd w % 4) = word (lc.toNat + 1)
      ∧ ((t.dev.stream cs).pc : Int) =
          (if (word (lc.toNat + 1)).toNat < (scalarRead cs same s (Insn.sb w)).toNat then (x.pc : Int) + i else (x.pc : Int) + 1)
      ∧ (∀ n, n ≠ Insn.sd w % 4 → (t.dev.stream cs).lcr n = x.lcr n)
      ∧ sameScalars cs s t ∧ samePreds cs s t ∧ onlyStream cs s t)
    ∧ (issues cs w 0x04 s → ∃ t, exec (.setlc cs w same) s = .next t
      ∧ (∀ n, (t.dev.stream cs).lcr n =
          if n = Insn.sd w % 4 then (if Insn.is w then word (Insn.imm w) else scalarRead cs same s (Insn.sa w)) else x.lcr n)
      ∧ movedOn cs s t ∧ sameScalars cs s t ∧ samePreds cs s t ∧ onlyStream cs s t)

/-- For every instruction of a stream that is not an action: when the stream presents the word and its predicate guard
does not hold (G is 1 and the predicate PSEL equals PN), the command completes, the stream stands at the next
instruction with its waits ended, and every scalar, predicate and loop counter and everything outside the stream is
unchanged. (R149, 05_instructions.md) -/
def Obligations.GuardedOffInstructionsDoNothing : Prop :=
  ∀ e ∈ issueForms, ∀ (cs : CS) (w : W64) (same : Bool) (s : State), s.dev.presented cs w e.2 = true →
    Insn.g w = true → (s.dev.stream cs).pred (Insn.psel w) = Insn.pn w →
    ∃ t, exec (e.1 cs w same) s = .next t ∧ t.dev.stream cs = (s.dev.stream cs).next
      ∧ sameScalars cs s t ∧ onlyStream cs s t

/-- When the stream presents the word and its guard holds: STOP completes and the stream has ended, with nothing
outside the stream changed; FENCE completes and moves on when no earlier action of the stream is launched and
incomplete, and otherwise leaves the state as it is (it waits); ABORT completes, and for a stream whose context is
live the context is no longer RUNNING or STOPPING (it was stopped at once), while a stream that no context uses has
ended. (R159, R165, R168, 05_instructions.md) -/
def Obligations.StopAbortAndFence : Prop :=
  ∀ (cs : CS) (w : W64) (s : State),
    (issues cs w 0x06 s → ∃ t, exec (.stop cs w) s = .next t
      ∧ t.dev.stream cs = { s.dev.stream cs with ended := true, wait := none }
      ∧ sameScalars cs s t ∧ onlyStream cs s t)
    ∧ (issues cs w 0x09 s → (s.dev.stream cs).acts = [] → ∃ t, exec (.fence cs w) s = .next t
      ∧ t.dev.stream cs = (s.dev.stream cs).next ∧ sameScalars cs s t ∧ onlyStream cs s t)
    ∧ (issues cs w 0x09 s → (s.dev.stream cs).acts ≠ [] → exec (.fence cs w) s = .next s)
    ∧ (issues cs w 0x07 s → ∀ n, (s.dev.stream cs).ctx = some n → (s.dev.ctx n).live = true →
        ∃ t, exec (.abort cs w) s = .next t ∧ (t.dev.ctx n).live = false ∧ t.pending = s.pending)
    ∧ (issues cs w 0x07 s → (s.dev.stream cs).ctx = none →
        ∃ t, exec (.abort cs w) s = .next t ∧ (t.dev.stream cs).ended = true ∧ sameStore s t)

/-- KWAIT, presented with its guard holding, completes and moves on when (GEN - g) modulo 65,536 lies between 1 and
32,767, where GEN is the generation that the Knot shows its waiters and g the low 16 bits of the operand; else the
stream waits at the same instruction. SWLD of a slot whose VALID is 1 and whose STEP equals the context's training-
step number modulo 65,536, not poisoned, completes, moves on, and s[SD] is VALUE, or the declared maximum when VALUE
exceeds it; a slot that is not ready leaves the stream waiting at the same instruction. The wait that stands names the
Knot, or the slot, for which the stream waits. (R147, R158, R161, R167, 05_instructions.md) -/
def Obligations.WaitingInstructions : Prop :=
  ∀ (cs : CS) (w : W64) (same : Bool) (s : State),
    let waits := fun (t : State) (knot : Bool) (item : Nat) =>
      ∃ x, (t.dev.stream cs).wait = some x ∧ x.knot = knot ∧ x.item = item
    (issues cs w 0x41 s →
      let g := word (Insn.kimm w + if Insn.krs w then (scalarRead cs same s (Insn.ksa w)).toNat else 0)
      let gap := (s.dev.genSeen (Insn.kid w) - g.setWidth 16).toNat
      (1 ≤ gap ∧ gap ≤ 32767 → ∃ t, exec (.kwait cs w same) s = .next t
        ∧ t.dev.stream cs = (s.dev.stream cs).next ∧ sameScalars cs s t ∧ onlyStream cs s t)
      ∧ (¬(1 ≤ gap ∧ gap ≤ 32767) → ∃ t, exec (.kwait cs w same) s = .next t
        ∧ (t.dev.stream cs).pc = (s.dev.stream cs).pc ∧ waits t true (Insn.kid w)
        ∧ sameScalars cs s t ∧ onlyStream cs s t))
    ∧ (issues cs w 0x30 s → ∀ n, (s.dev.stream cs).ctx = some n →
      let x := (s.dev.ctx n).shape (Insn.imm w % 4096)
      let most := (s.dev.ctx n).shapeMax (Insn.imm w % 4096)
      ((x.valid = true ∧ x.step = BitVec.ofNat 16 (s.dev.ctx n).step) → x.poison = false →
        ∃ t, exec (.swld cs w same) s = .next t
          ∧ wroteScalar cs same (Insn.sd w)
              (match most with | some m => word (min x.value.toNat m) | none => x.value) s t
          ∧ movedOn cs s t ∧ samePreds cs s t ∧ sameLoops cs s t ∧ sameStore s t)
      ∧ (¬(x.valid = true ∧ x.step = BitVec.ofNat 16 (s.dev.ctx n).step) →
        ∃ t, exec (.swld cs w same) s = .next t
          ∧ (t.dev.stream cs).pc = (s.dev.stream cs).pc ∧ waits t false (Insn.imm w % 4096)
          ∧ sameScalars cs s t ∧ onlyStream cs s t))

/-- For a launched action whose work is not done: TWAIT completes with no effect; SWST completes and its shape-word
slot holds the value of s[SA] with STEP the training-step number modulo 65,536 and VALID 1; HFREE of a handle that no
other launched action uses completes and the handle is valid no more; a local KARR and a KARRW complete with one
arrival of the operand as amount on its way to the Knot. The action's work is then done, both byte spaces are
unchanged (HFREE: device memory, and each bank of the core that the handle did not occupy or that still has power), and
TWAIT changes nothing but that. (R159, R161, R184, R187, R311, 05_instructions.md, 06_scratchpad.md, 10_experts.md) -/
def Obligations.SmallActionsDoTheirWork : Prop :=
  ∀ (a : Act) (x : Action) (s : State), ready a x [] s →
    (Insn.opc x.w = 0x08 → ∃ t, exec (.twait a) s = .next t ∧ workDone a x t ∧ onlyActs s t)
    ∧ (Insn.opc x.w = 0x31 → ∃ t, exec (.swst a) s = .next t ∧ workDone a x t ∧ sameStore s t
        ∧ (t.dev.ctx x.ctx).shape (Insn.imm x.w % 4096) =
            { value := x.val, step := BitVec.ofNat 16 (s.dev.ctx x.ctx).step, valid := true, poison := false, clamped := false }
        ∧ ∀ j, j ≠ Insn.imm x.w % 4096 → (t.dev.ctx x.ctx).shape j = (s.dev.ctx x.ctx).shape j)
    ∧ (Insn.opc x.w = 0x39 → (∀ h, (s.dev.core a.cs.core).handle (Insn.hd x.w) = some h → h.users = 0) → memoryOk s →
        ∃ t, exec (.hfree a) s = .next t ∧ workDone a x t ∧ t.pending = s.pending ∧ memoryKept s t
          ∧ (∀ bank i, bank < 32 → i < 65536 → (t.dev.bankPowered a.cs.core bank = true
              ∨ ∀ h, (s.dev.core a.cs.core).handle (Insn.hd x.w) = some h → h.inBank bank = false) →
              t.store.scratch.byte (scrAddr a.cs.core bank 0 + i) = s.store.scratch.byte (scrAddr a.cs.core bank 0 + i))
          ∧ (t.dev.core a.cs.core).handle (Insn.hd x.w) = none
          ∧ ∀ j, j ≠ Insn.hd x.w → (t.dev.core a.cs.core).handle j = (s.dev.core a.cs.core).handle j)
    ∧ (Insn.opc x.w = 0x40 → Insn.krmt x.w = false → ∃ t, exec (.karr a) s = .next t ∧ workDone a x t ∧ sameStore s t
        ∧ t.dev.arrivals = s.dev.arrivals ++ [⟨Insn.kid x.w, x.val.toNat, .act a⟩])
    ∧ (Insn.opc x.w = 0x42 → ∃ t, exec (.karrw a) s = .next t ∧ workDone a x t ∧ sameStore s t
        ∧ t.dev.arrivals = s.dev.arrivals ++ [⟨Insn.kid x.w, x.val.toNat, .act a⟩])

/-- An HMAP whose work is not done, on a handle that is not valid and for which the placement rules find an entry in
the scratchpad, completes when no HMAP of the handle that another stream of the core issued in the same cycle comes first in
the order B, F, U, and no read of the zeroing meets an error: the handle is valid with that entry and one user (the HMAP
itself), every other handle of the core is as before, and the action's work is done; device memory is unchanged, and with
ZERO set every byte of the handle reads as zero. While such an HMAP comes first, the command leaves the state as it is.
(R181, R183, R186, R189, 06_scratchpad.md) -/
def Obligations.HandlesArePlacedByHmap : Prop :=
  ∀ (a : Act) (x : Action) (y : Handle) (ecc : List ScrEcc) (s : State), ready a x [] s → memoryOk s → Insn.opc x.w = 0x38 →
    (s.dev.hmapTurn a x = false → exec (.hmap a ecc) s = .next s) ∧
    ((s.dev.core a.cs.core).handle (Insn.hd x.w) = none → s.dev.hmapTurn a x = true → noErrors ecc →
    s.dev.findPlace a.cs.core x.ctx (wantOf x) false = some y → y.spilled = false →
    ∃ t, exec (.hmap a ecc) s = .next t ∧ workDone a x t ∧ t.pending = s.pending ∧ memoryKept s t
      ∧ (t.dev.core a.cs.core).handle (Insn.hd x.w) = some { y with users := 1 }
      ∧ (∀ j, j ≠ Insn.hd x.w → (t.dev.core a.cs.core).handle j = (s.dev.core a.cs.core).handle j)
      ∧ (y.zero = true → ∀ r ∈ y.ranges a.cs.core, ∀ i, r.1 ≤ i → i < r.1 + r.2 → t.store.scratch.byte i = 0))

/-- When an arrival on its way, before which none of the same engine is on its way to the same Selvage, names a Knot of
counter kind that is held, with TARGET at least 1, applying it completes: COUNT becomes (COUNT + amount) modulo TARGET and GEN increases by the whole part of (COUNT + amount) /
TARGET, modulo 65,536; the kind, TARGET and owner stay; the arrival is on its way no more; the other Knots and both
byte spaces are unchanged. For an arrival of an action, special register 6 of its stream holds the GEN that the Knot
held before. An arrival before which one of its engine is on its way to the same Selvage is not applied: the command leaves
the state as it is. (R43, R58, R161, 02_time.md) -/
def Obligations.CounterKnotArrival : Prop :=
  ∀ (i : Nat) (x : Arrival) (a : Act) (k : Knot) (s : State), s.dev.arrivals[i]? = some x → x.src = .act a →
    get? s.dev.knots x.knot = some k → k.barrier = false → 1 ≤ k.target →
    let before := ∃ y ∈ s.dev.arrivals.take i, dieKnot y.knot = dieKnot x.knot
      ∧ s.dev.arrivalEngine y.src = s.dev.arrivalEngine x.src
    (before → exec (.knotArrive i) s = .next s) ∧ (¬before →
    ∃ t, exec (.knotArrive i) s = .next t
      ∧ get? t.dev.knots x.knot = some { k with
          count := (k.count + x.amount) % k.target, gen := BitVec.ofNat 16 (k.gen.toNat + (k.count + x.amount) / k.target) }
      ∧ (∀ j, j ≠ x.knot → get? t.dev.knots j = get? s.dev.knots j)
      ∧ t.dev.arrivals = s.dev.arrivals.eraseIdx i
      ∧ (t.dev.stream a.cs).gen = k.gen ∧ sameStore s t)

/-- When the word that a stream of a context offers is an action that is next, with its inputs ready, its shape words
ready and unclamped, its checks passed, and its scheduled instant E at or before the first grid point L at or after
now, no more than the slack of its Tack entry late, ACTION_LAUNCH completes: the stream holds one more launched
action, formed from the word and record, with its E and launch instant L; L is a multiple of 4 ns, not before E and
not before now, and less than 4 ns after now; the program counter and the count of actions have increased by 1, and no
action is next. The action keeps the input that was the last to become ready and the cause of the lateness. Both byte
spaces are unchanged. (R57, R62, R69, R163, 02_time.md, 05_instructions.md) -/
def Obligations.LaunchesStandOnTheGrid : Prop :=
  ∀ (cs : CS) (w : W64) (rec : BitVec 256) (tack : BitVec 128) (same : Bool) (report : Fin 12) (unit : Fin 16) (n : Nat)
    (x : NextAct) (s : State),
    let d := s.dev.reach cs same
    let r := if Insn.fmtOf (Insn.opc w) = .C then rec else 0
    let l := ceilTo 4 d.tape.now
    let y := d.launchVals n { x with cause := d.causeOf n x.input x.cause report } r
    let act := fun (cfg : List W32) => d.mkAction cs n y r l cfg
    (d.stream cs).ctx = some n → d.offers cs n w rec tack = true → (d.stream cs).nxt = some x →
    d.hasRoom (d.nextId cs) (d.target cs.core w r x.unit) = true → d.inputsReady cs n x r = true →
    (∀ m ∈ launchSlots r, (d.ctx n).shapeReady m = true ∧ ((d.ctx n).shape m).poison = false
      ∧ ∀ v, (d.ctx n).shapeMax m = some v → ((d.ctx n).shape m).value.toNat ≤ v) →
    (∀ e, x.e = some e → e ≤ l ∧ l ≤ e + slackNs tack) →
    d.paramBad n y r = none → d.accessBad cs.core (act []) = none → (Insn.opc w = 0x69 → d.slotBad n r = none) →
    d.crArmed = false →
    ∃ t cfg, exec (.actionLaunch cs w rec tack report unit same) s = .next t
      ∧ (t.dev.stream cs).acts = (d.stream cs).acts ++ [act cfg] ∧ (act cfg).launch = l ∧ (act cfg).e = x.e
      ∧ (act cfg).input = x.input ∧ (act cfg).cause = d.causeOf n x.input x.cause report
      ∧ l % 4 = 0 ∧ d.tape.now ≤ l ∧ l < d.tape.now + 4
      ∧ (t.dev.stream cs).pc = (d.stream cs).pc + 1 ∧ (t.dev.stream cs).count = (d.stream cs).count + 1
      ∧ (t.dev.stream cs).nxt = none ∧ sameStore s t

/-- When the work of a launched action is done and visible (no remote request of it is open; for a local Knot
operation the arrival is applied; for a KARRW its wait is released), ACTION_COMPLETE completes: no launched action of
the stream has its number any more, the others stay, the program counter is unchanged, and both byte spaces are
unchanged. (R163, R178, 05_instructions.md, 06_scratchpad.md) -/
def Obligations.ActionsCompleteAndReleaseTheirHandles : Prop :=
  ∀ (a : Act) (x : Action) (s : State), s.dev.action a = some x → s.dev.mayComplete a x = true →
    ∃ t, exec (.actionComplete a) s = .next t
      ∧ t.dev.action a = none
      ∧ (t.dev.stream a.cs).acts = (s.dev.stream a.cs).acts.filter (fun y => y.id != a.id)
      ∧ (t.dev.stream a.cs).pc = (s.dev.stream a.cs).pc ∧ sameStore s t

/-- For a launched ARR or CHALK whose work is not done, that its core does not hold yet: an ARR with M = 0 or N = 0
completes with its work done and nothing else changed. Another ARR, and a CHALK with M not 0 whose layer was not in
fallback at launch, joins the core's array commands behind the others with its M, N, K and its E (its launch instant
when it is untimed), no group started or drained; only that core changes, and the action stays launched. A CHALK in
fallback, or with M = 0, completes with the mask of all ones, or all zeros, written, and its work done if its mask
handle stands in the scratchpad. (R115, R117, R135, R255, 04_dense_core.md, 08_gather_sparse.md) -/
def Obligations.ArrayCommandsEnterTheirCore : Prop :=
  ∀ (a : Act) (x : Action) (s : State), (s.dev.core a.cs.core).findCmd a.cs.st a.id = none → x.id = a.id →
    let enters := fun (c : Instr) (part : Nat) => ∃ t q, exec c s = .next t ∧ onlyCore a.cs.core s t
      ∧ (t.dev.core a.cs.core).arrq = (s.dev.core a.cs.core).arrq ++ [q]
      ∧ t.dev.core a.cs.core = { s.dev.core a.cs.core with arrq := (s.dev.core a.cs.core).arrq ++ [q] }
      ∧ q.st = a.cs.st ∧ q.id = a.id ∧ q.ctx = x.ctx ∧ q.e = x.e.getD x.launch ∧ q.chalk = part
      ∧ q.m = (arrOpOf x part).m ∧ q.n = (arrOpOf x part).n ∧ q.k = (arrOpOf x part).k ∧ q.next = 0 ∧ q.drained = 0
      ∧ t.dev.action a = some x
    (ready a x ((arrParams x).reads a.cs.core) s → Insn.opc x.w = 0x50 →
      ((arrParams x).m = 0 ∨ (arrParams x).n = 0 → ∃ t, exec (.arr a) s = .next t ∧ workDone a x t ∧ onlyActs s t)
      ∧ ((arrParams x).m ≠ 0 ∧ (arrParams x).n ≠ 0 → enters (.arr a) 0))
    ∧ (ready a x (chalkReads a.cs.core x) s → Insn.opc x.w = 0x51 →
      (x.val = 1 ∨ x.n0 = 0 → ∃ t, exec (.chalk a) s = .next t
        ∧ t.store = (s.box.maskWrite a.cs.core a x fun _ => (decide (x.val = 1), false)).store
        ∧ (inScratch a.cs.core (Insn.hd x.w) s → workDone a x t ∧ memoryKept s t))
      ∧ (x.val ≠ 1 ∧ x.n0 ≠ 0 → enters (.chalk a) 1))

/-- ACCUM_GROUP_START, when no group takes steps, the next bank is free, no shadow work comes first and a command of
the core has a group left, puts group (next / column blocks, next mod column blocks) of the command with the earliest
E (ties B, F, U) on the bank and the next group goes to the other bank; device memory and scratchpads are unchanged.
BOBBIN_FILL with room in a Bobbin or the weight queue, and an entry of its command left, puts the next window or tile there,
also beyond the group in progress. ARRAY_STEP within a window (not its first step), whose tile is at the head of the weight
queue, consumes one step's products: it moves the group to the next quad and takes the tile out of the queue with the last
step of the quad's window, and else to the quad's next step. GROUP_DRAIN of an ended group, on the bank that drains next, leaves that bank empty. Each
completes; reads that meet no error of the scratchpad's code are meant. (R111, R112, R113, R115, R118, R122, R123, R127,
R134, R135, 04_dense_core.md) -/
def Obligations.AccumulationGroupsRun : Prop :=
  ∀ (core : Fin 6144) (s : State),
    let c := s.dev.core core
    (∀ cmd x sample ecc, noErrors ecc → c.canStart = true → s.dev.shadowReady core = false → c.nextCmd = some cmd →
      s.dev.action (cmd.act core) = some x → (arrOpOf x cmd.chalk).k ≠ 0 →
      ∃ t g, exec (.accumGroupStart core sample ecc) s = .next t ∧ sameStore s t
        ∧ ((t.dev.core core).bank c.nextB).grp = some g ∧ g.st = cmd.st ∧ g.id = cmd.id
        ∧ g.mb = cmd.next / ceilDiv cmd.n 32 ∧ g.nb = cmd.next % ceilDiv cmd.n 32 ∧ g.win = 0 ∧ g.quad = 0 ∧ g.sub = 0 ∧ g.ended = false
        ∧ ((t.dev.core core).bank c.nextB).acc = s.box.initAcc (arrOpOf x cmd.chalk) core g.mb g.nb
        ∧ (t.dev.core core).nextB = !c.nextB)
    ∧ (∀ x o c' (unit : Fin 17), s.dev.feeding core = some (x, o) → c.fill o unit = some c' →
      ∃ t, exec (.bobbinFill core unit .ok) s = .next t ∧ t.dev.core core = c' ∧ sameStore s t)
    ∧ (∀ side g x o err, s.dev.inProgress core = some (side, g, x, o) → (g.quad ≠ 0 ∨ g.sub ≠ 0) → g.sampled = false →
      let ents := (List.range 16).map fun r => if r < o.rowsIn g.mb then c.held.getD r [] else []
      let tile := s.box.wTile o core g.nb g.quad g.win
      let byRow := o.comp == 2
      let through := o.stepsOf (if byRow then ents else tile) ≤ g.sub + 1
      c.wq.head? = some (8 * (o.firstWin g.mb g.nb + g.win) + g.quad) → (through → g.quad + 1 < o.quads g.nb) →
      ∃ t, exec (.arrayStep core err) s = .next t ∧ sameStore s t
        ∧ ((t.dev.core core).bank side).grp =
            some { g with quad := if through then g.quad + 1 else g.quad, sub := if through then 0 else g.sub + 1 }
        ∧ (t.dev.core core).wq = (if through then c.wq.drop 1 else c.wq)
        ∧ (err = [] → ((t.dev.core core).bank side).acc = (stepBank (c.bank side).acc
            { quad := g.quad, byRow := byRow, kept := o.nm
              ents := if byRow then o.slice g.sub ents else ents
              tile := if byRow then tile else o.slice g.sub tile }).1))
    ∧ (∀ side g x, c.draining = some side → (c.bank side).grp = some g →
      s.dev.action ⟨mkCS core g.st, g.id⟩ = some x →
      ∃ t, exec (.groupDrain core) s = .next t ∧ t = { s with box := s.box.drainBank core side g x }
        ∧ (inScratch core (arrOpOf x g.chalk).hd s → inScratch core (Insn.hd x.w) s →
            ((t.dev.core core).bank side).grp = none ∧ memoryKept s t))

/-- SHADOW_GROUP_START on a core that can start a group and holds a ready shadow group completes, when its reads meet no error: the partner's values
are the run of the kept steps from the initial values, and the group waits for its vote. VERDICT on equal values (bit
for bit) completes: the region is free and the primary holds one more verdict, a match; on unequal ones of the first
vote the group waits for the referee. VERDICT_RECEIVE of a match of a drained group, or of an idle check, completes:
the verdict is consumed, and one sample less is outstanding for the command of the group; an ARR whose groups have all
drained is complete with its last one. SAMPLE_ABANDON at least 1 ms after the group's end frees the region. IDLE_CHECK
under its conditions places a ready group of random operands in the partner's region and counts. SHADOW_SUMMARY at
least 60 s after the last one records event 0x700B with the ten counts, which start again at 0. (R141, R142, R143,
R145, R448, R449, 04_dense_core.md, 15_faults_continuity.md) -/
def Obligations.SampledGroupsAreVoted : Prop :=
  ∀ (core : Fin 6144) (s : State),
    let c := s.dev.core core
    (∀ x err ecc, noErrors ecc → c.canStart = true → c.shadow = some x → x.stage = 1 →
      ∃ t, exec (.shadowGroupStart core err ecc) s = .next t ∧ sameStore s t
        ∧ (t.dev.core core).shadow = some { x with qv := x.run err, stage := 2 }
        ∧ ∀ j, j ≠ core.val → t.dev.core j = s.dev.core j)
    ∧ (∀ x, c.shadow = some x → x.stage = 2 → x.primary ≠ core.val →
      (valuesOf x.pv = valuesOf x.qv → ∃ t v, exec (.verdict core) s = .next t ∧ sameStore s t
          ∧ (t.dev.core core).shadow = none ∧ (t.dev.core x.primary).verdicts = (s.dev.core x.primary).verdicts ++ [v]
          ∧ v.kind = 0 ∧ v.st = x.st ∧ v.id = x.id ∧ v.mb = x.mb ∧ v.nb = x.nb)
      ∧ (valuesOf x.pv ≠ valuesOf x.qv → ∃ t, exec (.verdict core) s = .next t ∧ onlyCore core s t
          ∧ (t.dev.core core).shadow = some { x with stage := 3 }))
    ∧ (∀ v l, c.verdicts = v :: l → v.idle = true → ∃ t, exec (.verdictReceive core) s = .next t ∧ onlyCore core s t
        ∧ t.dev.core core = { c with verdicts := l })
    ∧ (∀ v l x q, c.verdicts = v :: l → v.idle = false → v.kind = 0 → s.dev.action ⟨mkCS core v.st, v.id⟩ = some x →
        c.findCmd v.st v.id = some q → (∀ g, c.bankA.grp = some g ∨ c.bankB.grp = some g → g.isOf v = false) →
        ∃ t, exec (.verdictReceive core) s = .next t ∧ (t.dev.core core).verdicts = l
          ∧ (q.drained ≠ q.total ∨ 2 ≤ q.verdicts → onlyCore core s t
              ∧ (t.dev.core core).findCmd v.st v.id = some { q with verdicts := q.verdicts - 1 })
          ∧ (q.drained = q.total → q.verdicts ≤ 1 → q.chalk = 0 → onlyCore core s t
              ∧ (t.dev.core core).findCmd v.st v.id = none ∧ workDone ⟨mkCS core v.st, v.id⟩ x t))
    ∧ (∀ x, (s.dev.core (partnerOf core)).shadow = some x → x.primary = core.val → x.stage ≠ 0 → x.idle = true →
        x.endTape + 1000000 ≤ s.dev.tape.now →
        ∃ t, exec (.sampleAbandon core) s = .next t ∧ sameStore s t ∧ (t.dev.core (partnerOf core)).shadow = none)
    ∧ (∀ err, s.dev.mayIdleCheck core = true → ∃ t x, exec (.idleCheck core err) s = .next t ∧ sameStore s t
        ∧ (t.dev.core (partnerOf core)).shadow = some x ∧ x.primary = core.val ∧ x.stage = 1 ∧ x.idle = true
        ∧ x.steps = idleSteps s.dev.shadow.seed c.idleCount ∧ x.pv = x.run err
        ∧ (t.dev.core core).idleCount = c.idleCount + 1)
    ∧ ((s.dev.ready || s.dev.bare) = true → s.dev.shadow.sinceTape + 60000000000 ≤ s.dev.tape.now →
        ∃ t, exec .shadowSummary s = .next t ∧ sameStore s t ∧ t.dev.shadow.counts = []
          ∧ t.dev.shadow.sinceTape = s.dev.tape.now
          ∧ recorded 0x700B none ((List.range 10).map fun i => ((getD s.dev.shadow.counts i 0 : Nat) : Int)) s t)

/-- For each of the fifteen element-wise VEC operations from VEC_ADD to VEC_CVT, launched, with its turn on the vector
unit, its work not done, no read of the scratchpad meeting an error, and N0 elements: the command completes; the store is the one in which every enabled element i
of the destination (all without MASKED; with it, those whose mask bit is 1 or poisoned) got the operation's value on
the binary32 values of its sources, converted to the destination's format with the record's rounding and the element's
index, and poisoned when a source or its mask bit is. With 0 elements nothing is written. If the destination handle
stands in the scratchpad, no byte of device memory changes, the action's work is done, and beside the cores only
counts, records and the Crease's counts differ. (R131, R156, R162, R563, 04_dense_core.md, 05_instructions.md,
03_formats.md) -/
def Obligations.VectorElementsResult : Prop :=
  ∀ e ∈ vectorForms, ∀ (a : Act) (x : Action) (ecc : List ScrEcc) (s : State), noErrors ecc →
    ready a x (vecReads a.cs.core x) s → Insn.opc x.w = 0x52 →
    vVop x.desc = e.2.1 → s.dev.vecTurn a x = true →
    let r := x.desc
    let core : Nat := a.cs.core
    let zero := List.replicate x.n0 ((0 : W32), false)
    let A := s.box.hVals core (Insn.ha x.w) (vAf r) (vAo r) x.n0
    let B := if e.2.2.1 then s.box.hVals core (Insn.hb x.w) (vBf r) (vBo r) x.n0 else zero
    let D := if e.2.2.2.1 then s.box.hVals core (Insn.hd x.w) (vDf r) (vDo r) x.n0 else zero
    let M := s.box.vecMask core x
    let on := fun i => !vMasked r || (M.getD i (0, false)).1 != 0 || (M.getD i (0, false)).2
    let at' := fun (l : List (W32 × Bool)) i => l.getD i (0, false)
    let els := ((List.range x.n0).filter on).map fun i =>
      (i, ofB32 (vDf r) (s.dev.rnd x (vRnd r) (vKey r)) (handleIndex (vDf r) (vDo r / 64) i)
            (e.2.2.2.2 (vScalar r) (at' A i).1 (at' B i).1 (at' D i).1 i),
       (M.getD i (0, false)).2 || (at' A i).2 || (at' B i).2 || (at' D i).2)
    ∃ t, exec (e.1 a ecc) s = .next t
      ∧ t.store = (if x.n0 = 0 then s.store
          else (s.box.hWriteEls x.ctx a core (Insn.hd x.w) (vDf r) (vDo r) x.n0 els).store)
      ∧ (inScratch core (Insn.hd x.w) s → workDone a x t ∧ memoryKept s t ∧ onlyCoresAndNotes s t)

/-- For each of VEC_REDSUM, VEC_REDMAX, VEC_CMPGT, VEC_SEL, VEC_IOTA and TOPK, launched, with its turn on the vector
unit, its work not done and no read meeting an error: the command completes. The reductions write one element, element 0 (in a
planar format, of planes of COUNT elements), the sum or maximum by the fixed
tree of the enabled elements (others count as +0 or minus infinity), converted; VEC_CMPGT writes 1 where A exceeds B;
VEC_SEL writes A where the mask bit is 1 and B elsewhere, converted; VEC_IOTA writes index plus SCALAR, converted;
TOPK writes the 2 k route elements of every token. With a count of 0 nothing is written. If the destination stands in
the scratchpad, no byte of device memory changes, the work is done, and beside the cores only counts, records and the
Crease's counts differ. (R132, R156, R162, R300, 04_dense_core.md, 05_instructions.md, 10_experts.md) -/
def Obligations.OtherVectorResults : Prop :=
  ∀ (a : Act) (x : Action) (ecc : List ScrEcc) (s : State), noErrors ecc → ready a x (vecReads a.cs.core x) s →
    Insn.opc x.w = 0x52 → s.dev.vecTurn a x = true →
    let r := x.desc
    let core : Nat := a.cs.core
    let n := x.n0
    let rnd := s.dev.rnd x (vRnd r) (vKey r)
    let conv := fun (i : Nat) (v : W32) => ofB32 (vDf r) rnd (handleIndex (vDf r) (vDo r / 64) i) v
    let A := s.box.hVals core (Insn.ha x.w) (vAf r) (vAo r) n
    let B := s.box.hVals core (Insn.hb x.w) (vBf r) (vBo r) n
    let M := s.box.vecMask core x
    let on := fun i => !vMasked r || (M.getD i (0, false)).1 != 0 || (M.getD i (0, false)).2
    let at' := fun (l : List (W32 × Bool)) i => l.getD i (0, false)
    let bad := fun i => (M.getD i (0, false)).2
    let writes := fun (c : Instr) (m : Nat) (els : List (Nat × Nat × Bool)) => ∃ t, exec c s = .next t
      ∧ t.store = (if n = 0 then s.store else (s.box.hWriteEls x.ctx a core (Insn.hd x.w) (vDf r) (vDo r) m els).store)
      ∧ (inScratch core (Insn.hd x.w) s → workDone a x t ∧ memoryKept s t ∧ onlyCoresAndNotes s t)
    let enabled := (List.range n).filter on
    let one := if fmtPlanar (vDf r) then n else 1
    let reduced := fun (z : W32) => (List.range n).map fun i => tr (if on i then (at' A i).1 else z)
    let lost := (List.range n).any fun i => on i && ((at' A i).2 || bad i)
    (vVop r = 0x10 → writes (.vecRedsum a ecc) one [(0, conv 0 (sumTree (reduced 0)).1, lost)])
    ∧ (vVop r = 0x11 → writes (.vecRedmax a ecc) one [(0, conv 0 (maxTree (reduced (B32.inf true))).1, lost)])
    ∧ (vVop r = 0x12 → writes (.vecCmpgt a ecc) n (enabled.map fun i =>
        (i, boolN (B32.lt (at' B i).1 (at' A i).1), (at' A i).2 || (at' B i).2 || bad i)))
    ∧ (vVop r = 0x13 → writes (.vecSel a ecc) n (enabled.map fun i =>
        let v := if (M.getD i (0, false)).1 = 1 then at' A i else at' B i
        (i, conv i v.1, bad i || v.2)))
    ∧ (vVop r = 0x15 → writes (.vecIota a ecc) n (enabled.map fun i => (i, conv i (B32.add (B32.ofInt i) (vScalar r)), bad i)))
    ∧ (vVop r = 0x14 → ∃ t, exec (.topk a ecc) s = .next t ∧ t.store = (s.box.topkRun a x).store
        ∧ (n = 0 → t.store = s.store)
        ∧ (inScratch core (Insn.hd x.w) s → workDone a x t ∧ memoryKept s t ∧ onlyCoresAndNotes s t))

/-- A launched HEMF at the head of its Hem's queue, whose reads meet no error of the scratchpad's code, completes: for every row its outputs by 09 R276 are written and the
Hem's entry SOFF + row holds the row's statistics with the context and the row's poison; it has left the queue. A HEMB
whose rows all have entries of its context completes with the rows of 09 R277 done and has left the queue; with an
entry missing or of another context, it raises event 0xC007 with the cluster, the entry and its writer, and the
context is no longer live. (R271, R275, R276, R277, 09_training.md) -/
def Obligations.HemRowsAndStatistics : Prop :=
  ∀ (a : Act) (x : Action) (ecc : List ScrEcc) (s : State), noErrors ecc → ready a x (hemReads a.cs.core x) s →
    s.dev.hemTurn a = true →
    let cl := clusterOf a.cs.core
    (Insn.opc x.w = 0x53 → ∃ t, exec (.hemf a ecc) s = .next t
      ∧ t = { s with box := (s.box.hemfRun a x).onD fun d => d.actDone a }
      ∧ (inScratch a.cs.core (Insn.hd x.w) s → workDone a x t ∧ memoryKept s t
          ∧ (∀ row, row < x.n0 → get? (t.dev.hem cl).ents (hemSoff x.desc + row) =
              (let y := hemRowF x.desc (s.box.hemIn a.cs.core x) row
               some ⟨y.1.a, y.1.b, x.ctx, y.2⟩))
          ∧ (t.dev.hem cl).q = (s.dev.hem cl).q.filter (·.a != a)))
    ∧ (Insn.opc x.w = 0x54 → s.dev.hemMissing cl x = none → ∃ t, exec (.hemb a ecc) s = .next t
      ∧ t = { s with box := (s.box.hembRun a x).onD fun d => d.actDone a }
      ∧ (inScratch a.cs.core (Insn.hd x.w) s → inScratch a.cs.core (Insn.hc x.w) s → workDone a x t ∧ memoryKept s t
          ∧ (t.dev.hem cl).q = (s.dev.hem cl).q.filter (·.a != a)))
    ∧ (Insn.opc x.w = 0x54 → ∀ row, s.dev.hemMissing cl x = some row → ∃ t, exec (.hemb a ecc) s = .next t
      ∧ (t.dev.ctx x.ctx).live = false
      ∧ (let b := (List.range row).foldl (Box.hembRow a x (s.box.hemIn a.cs.core x)) (s.box.onD fun d => d.creaseHs (boltOf a.cs.core) 3)
         let w : Int := (get? (b.dev.hem cl).ents (hemSoff x.desc + row)).elim (-1) fun e => (e.ctx : Int)
         t.box = ((b.onD fun d => d.ev 0xC007 (cl / 16) (some x.ctx) [b.dev.hemSlot cl, ((hemSoff x.desc + row : Nat) : Int), w]).faultStop
           x.ctx 0xC007).onD fun d => d.actDone a))

/-- A launched COPY or XFER whose work is not done, and whose reads meet no error of the scratchpad's code, completes: BYTES bytes of handle HA from its offset, with their
poison, are written to handle HD of the same core (COPY) or of the named core (XFER) at its offset, and 0 bytes change
nothing; if the destination stands in the scratchpad, the work is done and no byte of device memory changes. LOAD with
its turn, without compression and with every element's translation good, completes: the slice's elements, converted to
the handle's format, are written to HD; with a COUNT of 0 nothing is written. STORE likewise writes the handle's
elements, converted, to the slice. (R156, R157, R211, R212, R213, 05_instructions.md, 07_tensors.md) -/
def Obligations.MoversMoveBytes : Prop :=
  ∀ (a : Act) (x : Action) (ecc : List ScrEcc) (s : State), noErrors ecc →
    let core : Nat := a.cs.core
    let r := x.desc
    let copies := fun (c : Instr) (dst : Nat) => ∃ t, exec c s = .next t
      ∧ t.store = (if x.n0 = 0 then s.store else (s.box.hWrite x.ctx a dst (Insn.hd x.w) (64 * recN r 14 2)
          (s.box.hBytes core (Insn.ha x.w) (64 * recN r 12 2) x.n0)).store)
      ∧ (inScratch dst (Insn.hd x.w) s → workDone a x t ∧ memoryKept s t ∧ t.pending = s.pending
          ∧ t.dev = { s.dev with cores := t.dev.cores })
    (ready a x (copyReads core x) s → Insn.opc x.w = 0x58 → copies (.copy a ecc) core)
    ∧ (ready a x (copyReads core x) s → Insn.opc x.w = 0x59 → copies (.xfer a ecc) x.n1)
    ∧ (ready a x [] s → Insn.opc x.w = 0x5A → lsComp r = 0 → ∀ y, s.dev.tens (lsDesc r) = some y →
        s.dev.tFault y false (sliceLins y.d x) (lsPlanes r) = none → ∃ t, exec (.load a) s = .next t
          ∧ t.store = (if x.n1 = 0 then s.store else (s.box.hPutEls x.ctx a core (Insn.hd x.w) (lsHf r) (lsHo r)
              ((s.box.loadEls y x).map (·.1))).store)
          ∧ (inScratch core (Insn.hd x.w) s → workDone a x t ∧ memoryKept s t ∧ onlyCoresAndNotes s t))
    ∧ (ready a x [] s → Insn.opc x.w = 0x5A → lsComp r ≠ 0 → s.dev.gmeTurn a x.unit = true → ∃ t, exec (.load a) s = .next t
        ∧ t = { s with box := (s.box.loadRun a x).onD fun d => d.actDone a })
    ∧ (ready a x (s.dev.lsReads core x) s → Insn.opc x.w = 0x5B → lsComp r = 0 → ∀ y, s.dev.tens (lsDesc r) = some y →
        s.dev.tFault y true (sliceLins y.d x) = none → ∃ t, exec (.store a ecc) s = .next t
          ∧ (x.n1 = 0 → t.store = s.store)
          ∧ (x.n1 ≠ 0 →
            let b := s.box.onD fun d => d.ariths x core 0x5B (dFmt y.d) ((s.box.storeEls core y x).flatMap (·.2))
            t.box = (b.engPut x.ctx (boltOf core) (b.dev.coreSlot core) y ((s.box.storeEls core y x).map (·.1))).onD fun d => d.actDone a))
    ∧ (ready a x (s.dev.lsReads core x) s → Insn.opc x.w = 0x5B → lsComp r ≠ 0 → ∃ t, exec (.store a ecc) s = .next t
        ∧ t = { s with box := (s.box.storeRun a x).onD fun d => d.actDone a })

/-- For a launched GREQ of each operation, and an AUDIT, whose work is not done and which is first in the queue of its
engine: the command completes; the action has left the engine's queue, and the state is that of the operation's work
on the state without it, with the action's work done. With a COUNT of 0 (of the operations with a COUNT), or with an empty
tensor among those that the record names, nothing but
the queue and the action differs. A DISPATCH is in assign mode when its combine map may be written and else in replay
mode. A copy whose source and destination overlap by at most 4 MiB takes the bounce buffer of a free Serger of its Spool (log
74), and waits while there is none. A LISTCLR writes ENTRIES 0, the CAPACITY and FULL 0 with the other flags as they were. (R197, R216, R217, R218, R223,
R235, R245, R251, R253, R257, R303, R310) -/
def Obligations.MergeEnginesRunTheirOperation : Prop :=
  ∀ (a : Act) (x : Action) (s : State), ready a x [] s → s.dev.gmeTurn a x.unit = true →
    let b := s.box.onD fun d => d.gmeLeave a x.unit
    let done := fun (c : Instr) (b' : Box) => ∃ t, exec c s = .next t ∧ t = { s with box := b'.onD fun d => d.actDone a }
    let empty := s.dev.namesEmpty x.desc
    (∀ e ∈ greqForms, Insn.opc x.w = 0x60 → gqOp x.desc = e.2.1 →
      (empty = false → x.n1 ≠ 0 → done (e.1 a) (e.2.2 a b x))
      ∧ (empty = true → done (e.1 a) b)
      ∧ (x.n1 = 0 → ∃ t, exec (e.1 a) s = .next t ∧ sameStore s t ∧ workDone a x t
          ∧ t.dev = { s.dev with cores := t.dev.cores, gmes := t.dev.gmes, ahead := t.dev.ahead }))
    ∧ (Insn.opc x.w = 0x60 → gqOp x.desc = 6 → empty = false →
      (s.dev.assigns x = true → x.n1 ≠ 0 → done (.dispatch a) (b.dispatchRun x))
      ∧ (s.dev.assigns x = false → x.n1 ≠ 0 → done (.dispatchReplay a) (b.replayRun x))
      ∧ (s.dev.assigns x = true → x.n1 = 0 → done (.dispatch a) b)
      ∧ (s.dev.assigns x = false → x.n1 = 0 → done (.dispatchReplay a) b))
    ∧ (Insn.opc x.w = 0x60 → gqOp x.desc = 3 →
      (empty = false → s.dev.needsBounce x = false → done (.greqCopy a) (b.copyPairRun x))
      ∧ (∀ k, empty = false → s.dev.needsBounce x = true → s.dev.freeBounce x.unit = some k →
          done (.greqCopy a) ((b.onD fun d => { d with bounce := put d.bounce k a }).copyPairRun x))
      ∧ (s.dev.needsBounce x = true → s.dev.freeBounce x.unit = none → exec (.greqCopy a) s = .next s))
    ∧ (Insn.opc x.w = 0x60 → gqOp x.desc = 0xA → empty = false → ∀ side, s.dev.native (gqDs x.desc) = some side →
        let p := s.dev.overflowList x (gqDs x.desc) side
        let fl := ((s.store.rdMem (p.1 + 16) 1).head?).getD (0, false)
        done (.listclr a) (b.engWrite x.ctx (unitDie x.unit) (gmeOf x.unit) p.1
          ((clean (leBytes 8 0 ++ leBytes 8 p.2)) ++ [(fl.1 &&& 0xFE, fl.2)])))
    ∧ (Insn.opc x.w = 0x61 → (empty = false → done (.audit a) (b.auditRun a x)) ∧ (empty = true → done (.audit a) b))

/-- For a launched PRESS whose work is not done and which is first in the queue of its Press, the command (PRESS_NORM
with the norm bit of its record set, PRESS_UPDATE without it) completes with the action's work done and the command
out of the Press's queue. With COUNT 0 nothing else differs. An update with COUNT not 0 gives the state of the update
run over the elements START to START + COUNT - 1; a norm phase gives the state of the norm run. A norm phase over
elements that are not poisoned, into a tensor element that is not poisoned, writes to the norm tensor the binary32 sum
of the element's value and the sum of squares. (R279, R281, R287, R290, 09_training.md) -/
def Obligations.PressActionsRun : Prop :=
  ∀ (a : Act) (x : Action) (s : State), ready a x [] s → Insn.opc x.w = 0x69 → s.dev.pressTurn a x.unit = true →
    let b := s.box.onD fun d => d.pressLeave a x.unit
    let c : Instr := if prNorm x.desc then .pressNorm a else .pressUpdate a
    (x.n1 = 0 → ∃ t, exec c s = .next t ∧ workDone a x t ∧ sameStore s t
        ∧ t.dev = { s.dev with cores := t.dev.cores, presses := t.dev.presses, ahead := t.dev.ahead })
    ∧ (x.n1 ≠ 0 → prNorm x.desc = false → ∃ t, exec c s = .next t
        ∧ t = { s with box := (b.pressUpdateRun a x).onD fun d => d.actDone a })
    ∧ (x.n1 ≠ 0 → prNorm x.desc = true → ∀ tg tn, b.dev.named (prDg x.desc) = some tg → b.dev.named (prDn x.desc) = some tn →
        let es := (span x.n0 x.n1).filter fun e => !b.frozen x.desc e
        let y := pAdd (pc (b.tVal tn (prNidx x.desc)).v) (b.normSum tg x.press.gscale es)
        (∀ e ∈ es, (b.tVal tg e).poison = false) → (b.tVal tn (prNidx x.desc)).poison = false →
        ∃ t, exec c s = .next t
          ∧ t.store = ((b.onD fun d => d.pressConds x 0 y.2).engPut x.ctx (pressDie x.unit) (pressOf x.unit) tn
              [(prNidx x.desc, y.1.toNat, false)]).store)

/-- For a launched COLL whose work is not done: with COUNT 0 its work is done and nothing else changes. With COUNT not
0, when its plan is loaded, the instance is not in progress and a reduction unit is free, it completes: if the checks
of epoch, bindings and level pass, the instance has begun with the plan, operands and time-out of the record and plan;
if one fails, the context is neither RUNNING nor STOPPING any more. A launched remote KARR to another device that its
routing table reaches, with a free TAG and no write of an earlier action of its stream to remote memory that is unacknowledged or still
to be made, completes: its request waits for the
acknowledgement, a packet KNOT_ARR with Knot, amount and TAG has left on the routed Seam, and both byte spaces are
unchanged. (R379, R381, R383, R389, R392, R161, R375, R376, 12_seams.md, 05_instructions.md) -/
def Obligations.CollectivesBegin : Prop :=
  ∀ (a : Act) (x : Action) (s : State), ready a x [] s →
    (Insn.opc x.w = 0x68 →
      (x.n0 = 0 → ∃ t, exec (.coll a) s = .next t ∧ workDone a x t ∧ onlyActs s t)
      ∧ (∀ p u, x.n0 ≠ 0 → s.dev.coll (clPlan x.desc) x.val.toNat = none → s.dev.plan (clPlan x.desc) = some p →
          s.dev.freeUnit = some u →
          let i := s.dev.newColl p a x u
          (s.dev.collCheck p x.ctx x.desc x.n0 = 0 → ∃ t, exec (.coll a) s = .next t ∧ t = { s with box := s.box.collBegin p i })
          ∧ (s.dev.collCheck p x.ctx x.desc x.n0 ≠ 0 →
              ∃ t, exec (.coll a) s = .next t ∧ (t.dev.ctx x.ctx).live = false ∧ t.pending = s.pending)))
    ∧ (∀ tag out, Insn.opc x.w = 0x40 → Insn.krmt x.w = true → s.dev.writesOut a = false → s.dev.freeTag 2 = some tag →
        x.dev ≠ s.dev.fab.deviceId.toNat → s.dev.routeFor (limN 16 x.dev) (limN 16 s.dev.fab.deviceId.toNat) ((a.cs.core : Nat) % 256) = some out →
        ∃ t, exec (.karr a) s = .next t ∧ workDone a x t ∧ sameStore s t
          ∧ t.dev.fab.remote = s.dev.fab.remote ++ [karrReq a x tag]
          ∧ (out, TxItem.packet (mkPacket x.dev s.dev.fab.deviceId.toNat 5 0 ((a.cs.core : Nat) % 256)
              (packFields [(limN 14 (Insn.kid x.w), 0), (limN 32 x.val.toNat, 14), (limN 9 tag, 46)]) 0 [])) ∈ t.dev.tx)

/-- For an instance in progress of a loaded plan, and a packet that arrives from one of its members and names it: a
data chunk that a receive of it expects, of the plan's epoch, is kept and the instance goes on as far as it can; READY
adds the sender to those that are ready; DONE of a child in the completion tree is counted, with the largest slip;
RELEASE of the parent ends the instance and completes its action, and the context takes the slip value (when it is at
most the limit); ABORT and the expiry of the time-out end the instance and stop its context. Before the launch, a
READY for the next instance, or one of the three after it, is kept. (R373, R387, R389, R390, R391, R392, 12_seams.md)
-/
def Obligations.CollectivePacketsAreTaken : Prop :=
  (∀ (pl : Fin 1024) (inst : Fin 64) (q : Plan) (i : CollInst) (s : State), s.dev.plan pl.val = some q →
    s.dev.coll pl.val inst.val = some i → i.deadline ≤ s.dev.tape.now → ∃ t, exec (.collTimeout pl inst) s = .next t
      ∧ t.dev.coll pl.val inst.val = none ∧ (t.dev.ctx i.ctx).live = false)
  ∧ (∀ (p : Fin 64) (k : Packet) (q : Plan) (i : CollInst) (m : Nat) (s : State),
    s.dev.plan (collOf k).1 = some q → q.member k.src = some m →
    let kind := k.word / 65536 % 4
    let round := k.word / 2 ^ 32 % 2 ^ 14
    let upd := fun (f : CollInst → CollInst) => s.box.onD fun d => d.updColl (collOf k).1 (collOf k).2 f
    (s.dev.coll (collOf k).1 (collOf k).2 = some i →
      (arrives 8 p k s → k.word / 65536 % 65536 = q.epoch → ∀ r, (q.recvs i.n).find? (fun r =>
          r.src == m && r.round == round && decide (k.word / 2 ^ 46 < q.chunks r.len)) = some r →
        let els := linesEls q k.lines k.lpoison (pieceEls q r.first r.len (k.word / 2 ^ 46)).length
        let key := chunkKey m round (k.word / 2 ^ 46)
        ∃ t, exec (.collData p k) s = .next t ∧ t.pending = s.pending
          ∧ t.box = (upd fun x => { x with parts := put x.parts key els }).collAdvance i.plan i.inst)
      ∧ (arrives 9 p k s → kind = 0 → ∃ t, exec (.collReady p k) s = .next t
          ∧ t.pending = s.pending
          ∧ t.box = (upd fun x => { x with ready := addSet x.ready m }).collAdvance i.plan i.inst)
      ∧ (arrives 9 p k s → kind = 1 → (q.children q.self).contains m = true → ∃ t, exec (.collDone p k) s = .next t
          ∧ t.pending = s.pending
          ∧ t.box = (upd fun x => { x with dones := addSet x.dones m, slipMax := max x.slipMax (ctrlSlip k) }).collDoneCheck
              q i.plan i.inst)
      ∧ (arrives 9 p k s → kind = 2 → q.self ≠ 0 → m = (q.self - 1) / 2 →
          ctrlSlip k ≤ ((s.dev.ctx i.ctx).img.map (·.slipLimit)).getD 0 * 4 →
          ∃ t, exec (.collRelease p k) s = .next t ∧ t.dev.coll i.plan i.inst = none ∧ sameStore s t
            ∧ (t.dev.ctx i.ctx).slip = ctrlSlip k ∧ (t.dev.ctx i.ctx).inc = 0
            ∧ ∀ x, s.dev.action i.act = some x → workDone i.act x t)
      ∧ (arrives 9 p k s → kind = 3 → ∃ t, exec (.collAbort p k) s = .next t ∧ t.dev.coll i.plan i.inst = none
          ∧ (t.dev.ctx i.ctx).live = false))
    ∧ (arrives 9 p k s → kind = 0 → s.dev.coll (collOf k).1 (collOf k).2 = none →
        ((collOf k).2 + 64 - q.launched % 64) % 64 < 4 → ∃ t, exec (.collReady p k) s = .next t ∧ sameStore s t
          ∧ t.dev = { s.dev with fab := { s.dev.fab with earlyReady := s.dev.fab.earlyReady ++ [((collOf k).1, (collOf k).2, m)] } }))

/-- RUN_END of a context that has nothing left to do completes: the context is LOADED with no stop and no pending
commands, and outside bare mode the completion of its SCHED_RUN is due with the status and event of the way it ended
and the training step in RESULT. STREAM_WATCHDOG of a stream whose wait is longer than the watchdog and not reported,
with no KARRW launched, completes: event 0xE012 with core, stream, instruction and item, and the wait is marked as
reported. ENGINE_HANG completes: no context with launched work on the engine is RUNNING or STOPPING any more.
RUN_AHEAD_FETCH of a line that the engine may read ahead for the command, on a channel that serves or in companion memory
under a grant, completes: the line stands in the run-ahead buffers for that command, and both byte spaces are as before where the
fetch meets no error; a fetch of a stream's decode changes nothing without one, and any other fetch changes nothing. (R77, R78,
R167, R168, R174, R231, R258, R436, R561, 02_time.md, 05_instructions.md, 15_faults_continuity.md) -/
def Obligations.RunsAndWaitsEnd : Prop :=
  (∀ (n : Fin 8) (how : Ending) (s : State), s.dev.endingOf n.val = some how →
    ∃ t, exec (.runEnd n) s = .next t ∧ (t.dev.ctx n.val).st = .loaded ∧ (t.dev.ctx n.val).stop = none
      ∧ (t.dev.ctx n.val).runCmd = none ∧ (t.dev.ctx n.val).stopCmds = [] ∧ t.pending = s.pending
      ∧ ∀ k, s.dev.bare = false → (s.dev.ctx n.val).runCmd = some k →
          (⟨k, how.status, how.event, 0, BitVec.ofNat 64 (limN 32 (s.dev.ctx n.val).step * 2 ^ 32)⟩ : Completion) ∈ (t.dev.queue k.q).due)
  ∧ (∀ (cs : CS) (n : Nat) (x : Wait) (s : State), (s.dev.stream cs).ctx = some n → (s.dev.stream cs).wait = some x →
      s.dev.watchdog n ≠ 0 → x.since + s.dev.watchdog n < s.dev.tape.now → x.raised = false →
      (∀ y ∈ (s.dev.stream cs).acts, Insn.opc y.w ≠ 0x42) →
      ∃ t, exec (.streamWatchdog cs) s = .next t ∧ sameStore s t
        ∧ (t.dev.stream cs).wait = some { x with raised := true }
        ∧ recorded 0xE012 (some n) [s.dev.coreSlot cs.core, cs.st.num, (s.dev.stream cs).pc, x.item] s t)
  ∧ (∀ (e : Engine) (s : State), s.dev.hungCtxs e ≠ [] →
      ∃ t, exec (.engineHang e) s = .next t ∧ t.pending = s.pending ∧ ∀ n ∈ s.dev.hungCtxs e, (t.dev.ctx n).live = false)
  ∧ (∀ (x : AheadBy) (ecc : Ecc) (s : State),
      (s.box.mayRunAhead x = false → ∃ t, exec (.runAheadFetch x ecc) s = .next t ∧ t = s)
      ∧ (s.box.mayRunAhead x = true →
        (∀ a line, x = .gme a line ∨ x = .press a line →
          let ln := line / 64 * 64
          ((∃ p, s.dev.placeOf ln = some p ∧ s.dev.serves p.spool = true ∧ (s.dev.spool p.spool).stalls p.chan = false)
            ∨ (s.dev.placeOf ln = none ∧ s.dev.powered = true ∧ inCompanion ln 64 = true ∧ s.dev.granted ln 64 false = true
                ∧ s.dev.yoke.down = none)) →
          ∃ t, exec (.runAheadFetch x ecc) s = .next t ∧ (⟨line / 64, a⟩ : AheadLine) ∈ t.dev.ahead ∧ (ecc = .ok → sameStore s t))
        ∧ (∀ cs m ch addr, x = .decode cs m ch addr →
          ∃ t, exec (.runAheadFetch x ecc) s = .next t ∧ t.pending = s.pending ∧ t.dev.ahead = s.dev.ahead ∧ (ecc = .ok → t = s))))

/-- A transit packet without a source route, on a device that forwards, leaves on the routed Seam; with a source route
and hops left, on the Seam that the route names next, with its next hop counted. RD_REQ of a range that an export
window admits is answered with status 0, the lines and their poison bits; WR writes its lines and is answered with
status 0 (a write without poison, to granules that no Baste protects, writes exactly its bytes); a KNOT_ARR for a Knot
of a RUNNING context puts the arrival on its way, and for another Knot is answered with status 4. RD_RESP, WR_ACK and
KNOT_ACK end the request with their TAG and source: the data of status 0 stands at the request's address, the
acknowledged KARR's work is done. A LATE_NOTICE extends the time-out of an instance in progress that it names and is
recorded as event 0x900D. A LOSS_NOTICE not seen before is remembered, and the lost device's routing entry is invalid.
(R364, R365, R368, R369, R371, R373, R375, R376, R394, 12_seams.md) -/
def Obligations.PacketsAreServed : Prop :=
  ∀ (p : Fin 64) (k : Packet) (s : State),
    let adr := k.word % 2 ^ 52
    let n := k.word / 2 ^ 52 % 8
    ((s.dev.seam p.val).up = true → s.dev.delivers k = false → s.dev.fab.deviceId.toNat ≠ 0xFFFF → s.dev.fab.forwarding = true →
      (k.sr = false → ∃ t, exec (.packetForward p k) s = .next t ∧ sameStore s t ∧ routed k s t)
      ∧ (k.sr = true → routeNext k < routeHops k → routeHops k ≤ 8 → (s.dev.seam (routeSeam k (routeNext k))).up = true →
          ∃ t, exec (.packetForward p k) s = .next t ∧ sameStore s t
            ∧ (routeSeam k (routeNext k), TxItem.packet { k with route := k.route + BitVec.ofNat 128 256 }) ∈ t.dev.tx))
    ∧ (arrives 1 p k s → s.dev.power.hold = false → s.dev.tripHolds adr (64 * n) = false → s.dev.exportStatus adr (64 * n) k.src false = 0 →
        ∃ t, exec (.rdReq p k) s = .next t ∧ sameStore s t
          ∧ routed (answerPacket s k 0 (s.store.linesAt adr n).2 (s.store.linesAt adr n).1) s t)
    ∧ (arrives 3 p k s → s.dev.power.hold = false → s.dev.tripHolds adr (64 * k.nlines) = false → s.dev.exportStatus adr (64 * k.nlines) k.src true = 0 →
        (∀ g ∈ granulesOf adr (64 * k.nlines), s.dev.protector g = none) → k.lpoison = 0 → memoryOk s →
        ∃ t, exec (.wr p k) s = .next t ∧ t.pending = s.pending ∧ wrote adr (k.lines.flatMap lineBytes) s t
          ∧ routed (answerPacket s k 0 0 []) s t)
    ∧ (arrives 5 p k s →
        (s.dev.knotServed (k.word % 2 ^ 14) = true → ∃ t, exec (.knotArr p k) s = .next t ∧ sameStore s t
          ∧ t.dev = { s.dev with arrivals := s.dev.arrivals ++
              [⟨k.word % 2 ^ 14, k.word / 2 ^ 14 % 2 ^ 32, .remote p.val k.src (tagOf k + 512 * k.flow)⟩] })
        ∧ (s.dev.knotServed (k.word % 2 ^ 14) = false → ∃ t, exec (.knotArr p k) s = .next t ∧ sameStore s t
          ∧ routed (answerPacket s k 4 0 []) s t))
    ∧ (∀ r, arrives 2 p k s → s.dev.remoteReq [0] (k.word % 512) k.src 0 = some r → k.word / 512 % 8 = 0 → memoryOk s → s.dev.fab.waitWr = [] →
        ∃ t, exec (.rdResp p k) s = .next t ∧ r ∉ t.dev.fab.remote ∧ t.pending = s.pending
          ∧ t.store.mem.read r.addr (min r.len (packetBytes k).length) = ((packetBytes k).take r.len).map (·.1)
          ∧ memSame r.addr r.len s t)
    ∧ (∀ r, arrives 4 p k s → s.dev.remoteReq [1, 3] (k.word % 512) k.src 0 = some r → k.word / 512 % 8 = 0 →
        s.dev.fab.waitWr = [] → ∃ t, exec (.wrAck p k) s = .next t ∧ sameStore s t
          ∧ t.dev = { s.dev with fab := { s.dev.fab with remote := s.dev.fab.remote.filter (· != r) } })
    ∧ (∀ r a x, arrives 6 p k s → s.dev.remoteReq [2] (k.word % 512) k.src 0 = some r → k.word / 512 % 8 = 0 →
        r.act = some a → s.dev.action a = some x → ∃ t, exec (.knotAck p k) s = .next t ∧ sameStore s t
          ∧ r ∉ t.dev.fab.remote ∧ workDone a x t)
    ∧ (∀ ids : List Int, arrives 0x11 p k s →
        let y := (k.lines.head?).elim [] lineBytes
        let es := (List.range (k.word % 8)).map fun i => (leAt y (16 * i) 2, leAt y (16 * i + 2) 1, leAt y (16 * i + 4) 4)
        let held := es.filter fun e => (s.dev.plan e.1).isSome
        ids = held.map (fun e => collId e.1 e.2.1 (((s.dev.plan e.1).map (·.ctx)).getD 0)) →
        ∃ t, exec (.lateNotice p k) s = .next t ∧ sameStore s t
          ∧ recorded 0x900D none ((k.src : Int) :: ids ++ [((maxN (es.map (·.2.2)) : Nat) : Int)]) s t
          ∧ ∀ e i, held = [e] → s.dev.coll e.1 e.2.1 = some i →
              t.dev.coll e.1 e.2.1 = some { i with deadline := i.deadline + e.2.2 })
    ∧ (arrives 0x12 p k s → s.dev.fab.seen.contains (k.word % 65536, k.word / 2 ^ 32 % 65536) = false →
        ∃ t, exec (.lossNotice p k) s = .next t ∧ t.pending = s.pending
          ∧ (k.word % 65536, k.word / 2 ^ 32 % 65536) ∈ t.dev.fab.seen ∧ get? t.dev.fab.routes (k.word % 65536) = none)

/-- A doorbell value of an enabled queue that is not in ERROR becomes TAIL when it sets no bit beyond the ring and
adds no more entries than are free; another one, outside bare mode, sets ERROR and YK_DEVIRQ.QUEUE_ERROR with event
0x1004. A CQHEAD value that is in the ring and does not pass CQTAIL becomes CQHEAD. Enabling the disabled management
queue with valid rings gives indices 0 and PHASE 1; with invalid ones ERROR; a write with ENABLE 0 disables it.
ENTRY_FETCH under its limits takes the 64 bytes at HEAD and moves HEAD on. COMMAND_ACCEPT takes the first fetched
entry of the queue that is next, which then stands accepted, or completes with the status and event of the check that
refused it. COMPLETION_WRITE writes the 32 bytes of the oldest completion that is due at CQTAIL and moves CQTAIL on; a
completion that requests an interrupt writes the queue's message to companion memory. (R413, R414, R415, R416, R417,
R418, R422, 14_yoke_commands.md) -/
def Obligations.QueuesTakeAndAnswerCommands : Prop :=
  ∀ (q : Fin 9) (v : W32) (s : State),
    let x := s.dev.queue q.val
    let m := s.dev.queue 8
    let only := fun (y : Queue) (t : State) => sameStore s t ∧ t.dev = s.dev.setQueue q.val y
    (x.enable = true → x.error = false →
      (v.toNat < 2 ^ x.log2 → x.dist x.tail v.toNat ≤ 2 ^ x.log2 - 1 - x.dist x.head x.tail →
        ∃ t, exec (.queueDoorbell q v) s = .next t ∧ only { x with tail := v.toNat } t)
      ∧ (s.dev.bare = false → 2 ^ x.log2 ≤ v.toNat ∨ 2 ^ x.log2 - 1 - x.dist x.head x.tail < x.dist x.tail v.toNat →
        ∃ t k, exec (.queueDoorbell q v) s = .next t ∧ t.dev.queue q.val = { x with error := true }
          ∧ bitOf t.dev.yoke.devirq 1 = true ∧ recorded 0x1004 none [q.val, k] s t))
    ∧ (x.error = false → v.toNat < 2 ^ x.log2 → x.dist x.cqHead v.toNat ≤ x.dist x.cqHead x.cqTail →
        ∃ t, exec (.cqheadWrite q v) s = .next t ∧ only { x with cqHead := v.toNat } t)
    ∧ (bitOf v 4 = true → m.enable = false →
        (s.dev.ringsOk m.sqBase m.cqBase (fld v 0 4) = true → ∃ t, exec (.mgmtQueueEnable v) s = .next t ∧ sameStore s t
          ∧ t.dev = s.dev.setQueue 8 { m with log2 := fld v 0 4, irqAll := bitOf v 5, enable := true, error := false, tail := 0, head := 0, cqHead := 0, cqTail := 0, phase := true })
        ∧ (s.dev.ringsOk m.sqBase m.cqBase (fld v 0 4) = false → ∃ t, exec (.mgmtQueueEnable v) s = .next t
          ∧ (t.dev.queue 8).enable = false ∧ (t.dev.queue 8).error = true))
    ∧ (bitOf v 4 = false → ∃ t, exec (.mgmtQueueDisable v) s = .next t ∧ sameStore s t
        ∧ t.dev = s.dev.setQueue 8 { m with log2 := (if m.enable then m.log2 else fld v 0 4), irqAll := bitOf v 5, enable := false })
    ∧ (s.dev.serving = true → x.enable = true → x.error = false → s.dev.yoke.down = none → x.head ≠ x.tail →
        s.dev.deleting q.val = false → s.dev.fetchRoom q.val = true → s.dev.heldRing (x.sqBase + 64 * x.head) 64 = false →
        s.dev.tripHolds (x.sqBase + 64 * x.head) 64 = false → s.dev.addressable (x.sqBase + 64 * x.head) 64 = true → anyBad (s.store.rdMem (x.sqBase + 64 * x.head) 64) = false →
        ∃ t, exec (.entryFetch q) s = .next t ∧ only { x with head := (x.head + 1) % 2 ^ x.log2, fetched := x.fetched ++ [BitVec.ofNat 512 (leNat (s.store.mem.read (x.sqBase + 64 * x.head) 64))] } t)
    ∧ (∀ e, s.dev.serving = true → s.dev.accepting = false → s.dev.nextQueue = some q.val → s.dev.acceptable q.val = some e →
        (s.dev.entryRefused q.val e = none → ∃ t, exec .commandAccept s = .next t ∧ sameStore s t
          ∧ t.dev.queue q.val = { x with fetched := x.fetched.drop 1, accepted := x.accepted ++ [e] })
        ∧ (∀ r, s.dev.entryRefused q.val e = some r → ∃ t, exec .commandAccept s = .next t ∧ sameStore s t
          ∧ t.dev.queue q.val = { x with fetched := x.fetched.drop 1, due := x.due ++ [⟨entryPend q.val e, r.1, r.2.1, 0, 0⟩] }))
    ∧ (∀ c l, x.due = c :: l → s.dev.ready = true → s.dev.cutter.active ≠ none → s.dev.yoke.down = none → s.dev.yoke.msgs = [] →
        s.dev.heldRing (x.cqBase + 32 * x.cqTail) 32 = false → s.dev.tripHolds (x.cqBase + 32 * x.cqTail) 32 = false → (∀ j, s.dev.deleting j = false) → memoryOk s →
        (∀ g ∈ granulesOf (x.cqBase + 32 * x.cqTail) 32, s.dev.protector g = none) →
        let tail := (x.cqTail + 1) % 2 ^ x.log2
        let irq := (c.cmd.irq || x.irqAll) && x.irqAddr.toNat / 4 * 4 != 0
        ∃ t, exec (.completionWrite q) s = .next t ∧ t.pending = s.pending ∧ t.dev.yoke.msgs = []
          ∧ t.dev.queue q.val = { x with due := l, cqTail := tail, phase := (if tail = 0 then !x.phase else x.phase) }
          ∧ (irq = false → wrote (x.cqBase + 32 * x.cqTail) (completionBytes x c s.dev.tape.now) s t)
          ∧ (irq = true → t.store.mem.read (companionBase + x.irqAddr.toNat / 4 * 4 % 2 ^ 48) 4 = leBytes 4 x.irqData.toNat))

/-- A 64-bit write of an aperture register sets its EN, WRITE and TARGET fields and no reserved bit; a 32-bit write of
its low half is held and changes nothing else, and a 32-bit write of its high half applies both halves. A read narrower
than 32 bits returns 0, and after a read of the low half of TP_NOW a 32-bit read of the high half gives the requester the latched
value. A 32-bit write of YK_DEVIRQ_EN sets its three bits. YK_DEVIRQ_CLEAR clears the bits that are 1 in the value, but for those
that the device sets in the same update step. A read of the low half of TP_NOW returns it and latches the high half for the
requester; a read of TP_LATE_n returns and clears WORST, and one of LOST returns and clears it; in the update step of an update of
the field the read returns the value before it, and the new value stays. A 1 in bit 2 clears OVERRUN, unless the device sets it in
the same update step; a 64-bit write of MB_SEL selects. In the diagnostic state a 64-bit write of a CR_ register sets its fields
and, when one changes, is recorded as event 0xD006; outside it the registers stay, and the write is recorded as event 0xD009 when it
is the first in its second. (R10, R11, R13, R14, R57, R512, R518, R557, 00_scope.md, 02_time.md, 14_yoke_commands.md,
17_measure_book_test.md) -/
def Obligations.RegistersTakeTheirWrites : Prop :=
  ∀ (v : W32) (x : W64) (s : State),
    let d := s.dev
    let only := fun (c : Instr) (d' : Dev) => ∃ t, exec c s = .next t ∧ sameStore s t ∧ t.dev = d'
    let fields := fun (y : W64) => y &&& BitVec.ofNat 64 (2 ^ 52 - 2 ^ 21 + 3)
    (∀ w : Fin 16,
      let off := 0x600 + 8 * w.val
      only (.registerWrite (BitVec.ofNat 16 off) 8 x)
        { d with yoke := { d.yoke with aper := put d.yoke.aper w.val (fields x), lowHeld := del d.yoke.lowHeld off } }
      ∧ only (.registerWrite (BitVec.ofNat 16 off) 4 x) { d with yoke := { d.yoke with lowHeld := put d.yoke.lowHeld off (BitVec.ofNat 32 x.toNat) } }
      ∧ ∀ l, get? d.yoke.lowHeld off = some l → only (.registerWrite (BitVec.ofNat 16 (off + 4)) 4 x)
        { d with yoke := { d.yoke with aper := put d.yoke.aper w.val (fields (BitVec.ofNat 64 (l.toNat + x.toNat % 2 ^ 32 * 2 ^ 32))), lowHeld := del d.yoke.lowHeld off } })
    ∧ only (.registerWrite 0x0014 4 x) { d with yoke := { d.yoke with devirqEn := BitVec.ofNat 3 x.toNat } }
    ∧ (∀ req off n, n < 4 → d.readAccess req off n = 0)
    ∧ (∀ req t, exec (.tpNowLowRead req) s = .next t → t.dev.readAccess req 0x0804 4 = d.tape.now / 2 ^ 32 % 2 ^ 32)
    ∧ (∀ same, ∃ t, exec (.ykDevirqClear v same) s = .next t ∧ sameStore s t
        ∧ t.dev = { d with yoke := { d.yoke with devirq := t.dev.yoke.devirq, devirqSet := t.dev.yoke.devirqSet } }
        ∧ ∀ i, i < 3 → t.dev.yoke.devirq.getLsbD i =
            ((d.yoke.devirq.getLsbD i && !v.getLsbD i) || (same && d.yoke.devirqSet.getLsbD i)))
    ∧ (∀ req, only (.tpNowLowRead req) { d with
          out := ⟨BitVec.ofNat 64 (d.tape.now % 2 ^ 32), [], false⟩
          tape := { d.tape with latch := put d.tape.latch req (BitVec.ofNat 32 (d.tape.now / 2 ^ 32)) } })
    ∧ (∀ (n : Fin 8) same,
        ((same = true → get? d.tape.lateWas n.val = none) → only (.tpLateRead n same) { d with
          out := ⟨BitVec.ofNat 64 (getD d.tape.late n.val 0).toNat, [], false⟩
          tape := { d.tape with late := put d.tape.late n.val 0, lateWas := del d.tape.lateWas n.val } })
        ∧ ∀ old, get? d.tape.lateWas n.val = some old → only (.tpLateRead n true) { d with out := ⟨BitVec.ofNat 64 old.toNat, [], false⟩ })
    ∧ (∀ same, (same = true → d.mb.lostWas = none) →
        only (.mbLostRead same) { d with out := ⟨BitVec.ofNat 64 (d.mb.lost % 2 ^ 32), [], false⟩, mb := { d.mb with lost := 0, lostWas := none } })
    ∧ (∀ old, d.mb.lostWas = some old → only (.mbLostRead true) { d with out := ⟨BitVec.ofNat 64 (old % 2 ^ 32), [], false⟩ })
    ∧ (∀ same, only (.mbOverrunClear v same) { d with mb := { d.mb with
        overrun := (d.mb.overrun && !v.getLsbD 2) || (same && d.mb.overrunSet), overrunSet := same && d.mb.overrunSet } })
    ∧ only (.mbSelWrite .whole x) { d with mb := { d.mb with sel := x.toNat }, yoke := { d.yoke with lowHeld := del d.yoke.lowHeld 0x1018 } }
    ∧ (∀ (off : W16) m, crMask off.toNat = some (m, 64) →
        let new := x &&& BitVec.ofNat 64 m
        let old := getD d.cr.regs off.toNat 0
        (d.diag = true → ∃ t, exec (.creaseWrite off .whole x) s = .next t ∧ sameStore s t
          ∧ getD t.dev.cr.regs off.toNat 0 = new ∧ (old ≠ new → recorded 0xD006 none [off.toNat, old.toNat, new.toNat] s t))
        ∧ (d.diag = false → ∃ t, exec (.creaseWrite off .whole x) s = .next t ∧ sameStore s t ∧ t.dev.cr.regs = d.cr.regs
          ∧ ((getD d.secs 0xD009 []).contains (d.tape.now / 1000000000) = false → recorded 0xD009 none [off.toNat, 1] s t)))

/-- In bare mode, with the key: DRAIN 1 leaves no context RUNNING, and DRAIN 2 leaves every context that was RUNNING
in state LOADED; MB_FLUSH, outside Hold and when draining is not paused, drains every record and sets MB_FLUSHED; DRAIN, MB_FLUSH and
WARM_RESET are ignored without the key or outside bare mode. Each action raises event 0x100E. WARM_RESET leaves every context EMPTY,
YK_STATUS.MODE 0 and no queue enabled, counts one boot more, and keeps the content of Spool memory and of companion memory with the
poison marks, the host regions, the device ID, the containment mode, the retirement record and the drained records; what the
scratchpads held is lost. An aperture access under its window's permission, outside Hold and Trip and with the Yoke up, reads the
bytes at TARGET + offset when none is poisoned, or writes them; an access that may not land reads all ones and writes nothing. A
companion write changes the bytes it names and no other, and no line that it touches stays in a run-ahead buffer. An action whose
access to companion memory has waited 10 ms for the Yoke stops its context. (R408, R409, R431, R432, R442, 05_instructions.md,
14_yoke_commands.md, 15_faults_continuity.md, 16_boot_security.md) -/
def Obligations.BareModeAndApertureAct : Prop :=
  (∀ (v : W32) (env : BootEnv) (s : State), s.dev.bare = true → fld v 16 16 = 0xBA5E →
    (fld v 0 2 = 1 → ∃ t, exec (.bmDrainAtBoundary v) s = .next t ∧ t.pending = s.pending ∧ t.dev.yoke.draining = true
      ∧ ∀ n, n < 8 → (t.dev.ctx n).st ≠ .running)
    ∧ (fld v 0 2 = 2 → ∃ t, exec (.bmDrainAtOnce v) s = .next t ∧ t.pending = s.pending ∧ t.dev.yoke.draining = true
      ∧ ∀ n, n < 8 → (s.dev.ctx n).st = .running → (t.dev.ctx n).st = .loaded)
    ∧ (bitOf v 2 = true → s.dev.power.hold = false → (∀ m, m < 8 → (s.dev.spool m).therm ≠ 4) →
      ∃ t, exec (.mbFlush v) s = .next t ∧ sameStore s t ∧ t.dev = { s.dev with mb := t.dev.mb, cr := t.dev.cr }
        ∧ t.dev.mb.flushed = true ∧ s.dev.mb.head + 1 ≤ t.dev.mb.drained ∧ recorded 0x100E none [2] s t)
    ∧ (bitOf v 3 = true → ∃ t, exec (.warmReset v env) s = .next t ∧ t.pending = s.pending
      ∧ t.store.mem = s.store.mem ∧ t.store.memPoison = s.store.memPoison ∧ t.store.scratchPoison = markZero s.store.scratchPoison 0 (6144 * 2097152)
      ∧ t.dev.ctxs = [] ∧ t.dev.cores = [] ∧ t.dev.yoke.mode = 0 ∧ t.dev.queues = []
      ∧ t.dev.fw.bootCount = s.dev.fw.bootCount + 1 ∧ t.dev.regions = s.dev.regions ∧ t.dev.health.retired = s.dev.health.retired
      ∧ t.dev.fab.deviceId = s.dev.fab.deviceId ∧ t.dev.containReset = s.dev.containReset))
  ∧ (∀ (v : W32) (env : BootEnv) (s : State), s.dev.bare = false ∨ fld v 16 16 ≠ 0xBA5E →
      ∀ c, c ∈ [Instr.bmDrainAtBoundary v, .bmDrainAtOnce v, .mbFlush v, .warmReset v env] → ∃ t, exec c s = .next t ∧ t = s)
  ∧ (∀ (off : BitVec 40) (n : Nat) (l : List Byte) (s : State),
      let r := getD s.dev.yoke.aper (off.toNat / 2 ^ 36) 0
      let a := (r &&& BitVec.ofNat 64 (2 ^ 52 - 2 ^ 21)).toNat + off.toNat % 2 ^ 36
      s.dev.yoke.down = none →
      (∀ w, s.dev.aperFault r a n false = some w → ∃ t, exec (.apertureAccess off n none) s = .next t ∧ sameStore s t
        ∧ t.dev.out.bytes = List.replicate n 0xFF)
      ∧ (∀ w, s.dev.aperFault r a n true = some w → ∃ t, exec (.apertureAccess off n (some l)) s = .next t ∧ sameStore s t)
      ∧ (s.dev.aperFault r a n false = none → s.dev.power.hold = false → s.dev.tripHolds a n = false → anyBad (s.store.rdMem a n) = false →
        ∃ t, exec (.apertureAccess off n none) s = .next t ∧ sameStore s t ∧ t.dev.out.bytes = s.store.mem.read a n)
      ∧ (l.length = n → s.dev.aperFault r a n true = none → s.dev.power.hold = false → s.dev.tripHolds a n = false → memoryOk s →
        (∀ g ∈ granulesOf a n, s.dev.protector g = none) →
        ∃ t, exec (.apertureAccess off n (some l)) s = .next t ∧ t.pending = s.pending ∧ wrote a l s t))
  ∧ (∀ (a : Nat) (l : List Byte) (s : State), memoryOk s → ∃ t, exec (.companionWrite a l) s = .next t ∧ t.pending = s.pending
      ∧ wrote (companionBase + a % 2 ^ 48) l s t ∧ t.dev = { s.dev with ahead := t.dev.ahead, caches := t.dev.caches }
      ∧ ∀ x ∈ t.dev.ahead, x.line ∉ linesOf (companionBase + a % 2 ^ 48) l.length)
  ∧ (∀ (a : Act) (x : Action) (down : Nat) (s : State), s.dev.action a = some x → x.done = false → s.dev.yoke.down = some down →
      s.dev.usesCompanion a x = true → down + 10000000 ≤ s.dev.tape.now → x.launch + 10000000 ≤ s.dev.tape.now →
      ∃ t, exec (.companionAccessTimeout a) s = .next t ∧ (t.dev.ctx x.ctx).live = false ∧ t.pending = s.pending)

/-- A write of TP_CTRL sets the polarity and STEP_ALLOW, and SOURCE unless it is 3. An accepted PPS edge with the PPS
source corrects the offset to the nearest whole second: by a step with event 0x9007 when no schedule runs, steps are
allowed and no slew is due, else by a slew of that offset. That the nearest second is meant is the model's choice (log 59). Without an
edge for 1.5 s event 0x900A is recorded once. A failed reference counter hands over to the lowest working Selvage, without a step, with
event 0x900B. TAPE_ALIGN_TICK
sends a request with T1 to the upstream; a request is answered with T1, T2, T3, the reference and the distance; a
response of the upstream corrects by the estimate of R378. An offset beyond 20 ns for more than 1 ms is recorded as
event 0x9008. The pace guard moves VCORE one increment of 5 mV up below 1.03 times the compiled pace, one down above
1.06 times it, and never above the ceiling or below 600 mV; while no schedule runs it holds 650 mV, in Hold 600 mV. (R51, R52, R54, R55, R56, R65, R66, R67, R377, R378,
02_time.md, 12_seams.md) -/
def Obligations.TapeFollowsItsSource : Prop :=
  ∀ (s : State),
    let tp := s.dev.tape
    let steps := s.dev.liveCtxs = [] ∧ tp.stepAllow = true ∧ tp.slewNext = false
    (∀ v : W32, ∃ t, exec (.tpCtrlWrite v) s = .next t ∧ sameStore s t ∧ t.dev.tape.now = tp.now
        ∧ t.dev.tape.source = (if fld v 0 2 = 3 then tp.source else fld v 0 2)
        ∧ t.dev.tape.ppsFalling = v.getLsbD 2 ∧ t.dev.tape.stepAllow = v.getLsbD 3)
    ∧ (s.dev.power.pwrGood = true → (∀ e, tp.lastPps = some e → e + 500000000 ≤ tp.now) →
        let r := tp.now % 1000000000
        let est : Int := if r < 500000000 then -(r : Int) else 1000000000 - (r : Int)
        ∃ t, exec (.ppsEdge (!tp.ppsFalling)) s = .next t ∧ sameStore s t ∧ t.dev.tape.ppsSeen = true
          ∧ t.dev.tape.lastPps = some t.dev.tape.now
          ∧ (tp.source ≠ 1 → t.dev.tape.now = tp.now)
          ∧ (tp.source = 1 → steps → r ≠ 0 → t.dev.tape.now % 1000000000 = 0 ∧ (t.dev.tape.now : Int) = tp.now + est
              ∧ recorded 0x9007 none [tp.now, t.dev.tape.now] s t)
          ∧ (tp.source = 1 → ¬steps → r ≠ 0 → t.dev.tape.now = tp.now ∧ t.dev.tape.slew = est ∧ t.dev.tape.offset = est))
    ∧ (s.dev.power.pwrGood = true → tp.source = 1 → tp.ppsLost = false → max tp.ppsFrom (tp.lastPps.getD 0) + 1500000000 ≤ tp.now →
        ∃ t, exec .ppsTimeout s = .next t ∧ t.dev.tape = { tp with ppsLost := true }
          ∧ recorded 0x900A none [((tp.lastPps.getD 0 : Nat) : Int)] s t)
    ∧ (∀ new, s.dev.power.pwrGood = true → tp.ref < 4 → new < 4 → new ≠ tp.ref → s.dev.tapeWorks new = true →
        (∀ k, k < new → k ≠ tp.ref → s.dev.tapeWorks k = false) →
        ∃ t, exec .tapeRefFailover s = .next t ∧ sameStore s t ∧ t.dev.tape.ref = new ∧ t.dev.tape.now = tp.now
          ∧ bitOf t.dev.tape.counterOk tp.ref = false ∧ recorded 0x900B none [tp.ref, new] s t)
    ∧ (∀ p, s.dev.fab.upstream = some p → (s.dev.seam p).up = true → ∃ t, exec .tapeAlignTick s = .next t ∧ sameStore s t
        ∧ t.dev.fab.align = some tp.now
        ∧ (p, TxItem.packet (alignPacket s.dev.fab.deviceId.toNat 0 tp.now 0 0 0 0)) ∈ t.dev.tx)
    ∧ (∀ (p : Fin 64) (k : Packet) (j2 j3 : Int), arrives 0x10 p k s → bitOf k.hdr 64 = false → s.dev.crArmed = false →
        ∃ t, exec (.tapeAlignRequest p k j2 j3) s = .next t ∧ sameStore s t
          ∧ (p.val, TxItem.packet (alignPacket s.dev.fab.deviceId.toNat 1 (lineN k 0 8) tp.now tp.now s.dev.fab.refId s.dev.fab.distance)) ∈ t.dev.tx)
    ∧ (∀ (p : Fin 64) (k : Packet), arrives 0x10 p k s → bitOf k.hdr 64 = true →
        let est := Int.tdiv (((lineN k 8 8 : Int) - lineN k 0 8) - ((tp.now : Int) - lineN k 16 8)) 2
        ∃ t, exec (.tapeAlignResponse p k) s = .next t ∧ sameStore s t
          ∧ get? t.dev.fab.dist p.val = some (lineN k 24 2, lineN k 26 2)
          ∧ (s.dev.fab.upstream = some p.val → s.dev.fab.align = some (lineN k 0 8) → tp.source = 2 → est ≠ 0 →
              (steps → t.dev.tape.now = ((tp.now : Int) + est).toNat)
              ∧ (¬steps → t.dev.tape.now = tp.now ∧ t.dev.tape.slew = est ∧ t.dev.tape.offset = est)))
    ∧ (∀ e, tp.source = 2 → tp.alignLost = false → tp.beyondSince = some e → 20 < tp.offset.natAbs → e + 1000000 < tp.now →
        ∃ t, exec .tapeOffsetTimeout s = .next t ∧ t.dev.tape = { tp with alignLost := true }
          ∧ recorded 0x9008 none [tp.source, tp.offset] s t)
    ∧ (∀ rates powerAt : List Nat, s.dev.power.pwrGood = true → s.dev.serving = true → s.dev.paceClass = 0 →
        ∃ t, exec (.paceGuardTick rates powerAt) s = .next t ∧ sameStore s t
          ∧ t.dev.pace.vcore = (if s.dev.power.hold then 600 else 650))
    ∧ (∀ rates powerAt : List Nat, s.dev.power.pwrGood = true → s.dev.serving = true → s.dev.paceClass ≠ 0 → s.dev.power.jst ≠ 1 →
        let pace := paceRate s.dev.paceClass
        let v := s.dev.pace.vcore
        let ceil := max 600 (min (powerCeiling powerAt s.dev.power.plimit) (s.dev.pace.ceiling.getD 850))
        ∃ t, exec (.paceGuardTick rates powerAt) s = .next t ∧ sameStore s t ∧ t.dev.pace.rates = (List.range 24).zip rates
          ∧ (100 * t.dev.slowestRate < 103 * pace → t.dev.pace.vcore = min (v + 5) ceil)
          ∧ (106 * pace < 100 * t.dev.slowestRate → t.dev.pace.vcore = min (max 600 (v - 5)) ceil)
          ∧ (103 * pace ≤ 100 * t.dev.slowestRate → 100 * t.dev.slowestRate ≤ 106 * pace → t.dev.pace.vcore = min v ceil))

/-- An access that its channel serves completes: a read of a line without the poison mark answers its bytes, and without error changes
no memory; a read that meets a
correctable error counts one more and changes no memory; a read that meets an uncorrectable error counts one more and
marks the line as poison. A write of a whole line to memory that no Baste protects changes those 64 bytes alone, and
the line is poisoned when the data is. An access to a channel in the stall of a retrain in place waits, and a read already issued to a
Spool in Trip completes poisoned. PATROL_SCRUB counts likewise. A thermal sample sets the temperature, its sensor
and the state of R334; a change of state is recorded as event 0x400B (stated with no context live and no collective
near). While a Spool is Critical the repeated notice is recorded as event 0x900C. A channel that has been failing for
another day is recorded as event 0x400A. A low link margin on a channel without a pending action (and with no
collective near) is recorded as event 0x4003 with trigger 1. (R331, R332, R334, R337, R339, R345, R346,
11_spools.md) -/
def Obligations.ChannelsServeAndReportErrors : Prop :=
  (∀ (x : SpoolAcc) (s : State), s.dev.channelOf x.line = some (x.spool.val, x.chan.val) →
    let addr := s.dev.accAddr x
    let ph := (s.dev.spool x.spool.val).serving x.chan.val addr
    let ch := fun (t : State) => (t.dev.spool x.spool.val).chan ph
    let serves := s.dev.serves x.spool.val = true ∧ (s.dev.spool x.spool.val).stalls x.chan.val = false
    (serves → x.write = none → s.dev.holdsLine x.spool.val ph addr x.line = true → (x.line / 64) ∉ s.store.memPoison →
      ∃ t, exec (.spoolAccess x) s = .next t ∧ t.pending = s.pending ∧ t.dev.out.bytes = s.store.mem.read x.line 64
        ∧ (x.ecc = .ok → t.store = s.store ∧ ch t = ch s)
        ∧ (∀ n, x.ecc = .corrected n → t.store = s.store ∧ (ch t).corr = satAdd 32 (ch s).corr 1 ∧ (ch t).lastErr = some addr)
        ∧ (x.ecc = .uncorrectable → t.store.mem = s.store.mem ∧ (x.line / 64) ∈ t.store.memPoison ∧ t.dev.out.err = true
            ∧ (ch t).unc = satAdd 32 (ch s).unc 1 ∧ (ch t).lastErr = some addr))
    ∧ (s.dev.serves x.spool.val = true → (s.dev.spool x.spool.val).stalls x.chan.val = true →
        ∃ t, exec (.spoolAccess x) s = .next t ∧ t = s)
    ∧ ((s.dev.spool x.spool.val).therm = 4 → s.dev.powered = true → x.write = none →
        ∃ t, exec (.spoolAccess x) s = .next t ∧ sameStore s t ∧ t.dev.out.err = true)
    ∧ (∀ w, serves → x.write = some w → x.mask = BitVec.allOnes 64 → x.targetFails = none → x.line % 64 = 0 → memoryOk s →
        (∀ g ∈ granulesOf x.line 64, s.dev.protector g = none) →
        ∃ t, exec (.spoolAccess x) s = .next t ∧ t.pending = s.pending ∧ wrote x.line (lineBytes w) s t
          ∧ ((x.line / 64) ∈ t.store.memPoison ↔ x.poison = true)))
  ∧ (∀ (m : Fin 8) (c : Fin 34) (addr line n : Nat) (s : State), s.dev.serves m.val = true → ((s.dev.spool m.val).chan c.val).role ≠ 3 →
      ((s.dev.spool m.val).logical c.val).any (s.dev.spool m.val).stalls = false → s.box.marked m.val c.val addr line = false →
      (∃ t, exec (.patrolScrub m c addr line .ok) s = .next t ∧ t = s)
      ∧ (∃ t, exec (.patrolScrub m c addr line (.corrected n)) s = .next t ∧ sameStore s t
          ∧ ((t.dev.spool m.val).chan c.val).corr = satAdd 32 ((s.dev.spool m.val).chan c.val).corr 1)
      ∧ (∃ t, exec (.patrolScrub m c addr line .uncorrectable) s = .next t ∧ t.store.mem = s.store.mem
          ∧ ((t.dev.spool m.val).chan c.val).unc = satAdd 32 ((s.dev.spool m.val).chan c.val).unc 1))
  ∧ (∀ (m : Fin 8) (temp : W16) (sensor : Fin 9) (s : State), s.dev.powered = true →
      let old := (s.dev.spool m.val).therm
      let new := thermNext old temp.toInt
      ∃ t, exec (.spoolThermalSample m temp sensor) s = .next t ∧ t.pending = s.pending
        ∧ (t.dev.spool m.val).temp = temp ∧ (t.dev.spool m.val).sensor = sensor.val ∧ (t.dev.spool m.val).therm = new
        ∧ (new ≠ old → s.dev.liveCtxs = [] → s.dev.nearColls = [] → (s.dev.spool m.val).waiting = [] → recorded 0x400B none [m.val, old, new, temp.toInt, sensor.val] s t))
  ∧ (∀ (m : Fin 8) (s : State), (s.dev.spool m.val).therm = 3 →
      ∃ t, exec .pauseNoticeRepeat s = .next t ∧ sameStore s t ∧ recordedAny 0x900C s t)
  ∧ (∀ (m : Fin 8) (l : Fin 32) (s : State), s.dev.powered = true →
      let ph := (s.dev.spool m.val).phys l.val
      let c := (s.dev.spool m.val).chan ph
      (c.role = 4 → c.failedAt + 86400000000000 ≤ s.dev.tape.now → ∃ t, exec (.channelFailingRepeat m l) s = .next t
        ∧ sameStore s t ∧ (t.dev.spool m.val).chan ph = { c with failedAt := s.dev.tape.now }
        ∧ recorded 0x400A none [m.val, l.val, ph, c.reason] s t)
      ∧ (∀ margin, s.dev.power.hold = false → s.dev.nearColls = [] → (s.dev.spool m.val).hasAction l.val false = false → (s.dev.spool m.val).waiting = [] →
        ∃ t, exec (.linkMarginLow m l margin) s = .next t ∧ sameStore s t ∧ recorded 0x4003 none [m.val, l.val, ph, 1, margin] s t))

/-- A Darning that has copied everything, in a Spool below Hot that serves, ends: the logical channel maps to the
target, which is in service, with event 0x4005 (with no request waiting); one whose target failed leaves the target
retired. An offline original whose retrain passed is a spare again, or retired after a retirement or a failed retrain.
A retrain in place begins not before its notice and not while the Spool is Critical or holds a pause; at its end event
0x4008 is recorded, and the channel is in service, or failing when it failed. A spare test marks the lanes on which the words read
back differ from PRBS31 (the order of its bits is the model's choice, log 68); a spare with a new lane is retrained and tested again,
and is retired when that test shows an error too. (R341, R343, R344, R345, R346, R349, R352, 11_spools.md)
-/
def Obligations.ChannelMaintenanceEnds : Prop :=
  ∀ (m : Fin 8) (s : State),
    let sp := s.dev.spool m.val
    let role := fun (t : State) (ph : Nat) => ((t.dev.spool m.val).chan ph).role
    (∀ x, sp.darn = some x → s.dev.serves m.val = true → sp.therm < 2 → sp.waiting = [] →
      (x.mark = chanEnd → ∃ t, exec (.darningDone m true []) s = .next t ∧ sameStore s t ∧ (t.dev.spool m.val).phys x.logical = x.tgt ∧ role t x.tgt = 0
        ∧ (t.dev.spool m.val).darn = none ∧ (t.dev.spool m.val).offline = sp.offline ++ [(x.src, x.retire)]
        ∧ recorded 0x4005 none [m.val, x.logical, x.src, x.tgt, ((s.dev.tape.now - x.start) / 1000 : Nat)] s t)
      ∧ (sp.phys x.logical ≠ x.tgt → ∃ t, exec (.darningDone m false []) s = .next t ∧ sameStore s t ∧ role t x.tgt = 3))
    ∧ (∀ ph retire rest ok, sp.offline = (ph, retire) :: rest → s.dev.powered = true → sp.waiting = [] →
        ∃ t, exec (.originalRetrainDone m ok) s = .next t ∧ sameStore s t ∧ (t.dev.spool m.val).offline = rest
          ∧ role t ph = (if ok && !retire then 1 else 3)
          ∧ ((t.dev.spool m.val).chan ph).retrains = satAdd 16 (sp.chan ph).retrains 1)
    ∧ (∀ x, sp.inplace = some x → s.dev.powered = true →
        (x.begun = none → x.notice ≤ s.dev.tape.now → sp.therm < 3 → s.dev.heldBy m.val = false →
          ∃ t, exec (.retrainInplaceStart m) s = .next t ∧ sameStore s t
            ∧ (t.dev.spool m.val).inplace = some { x with begun := some s.dev.tape.now })
        ∧ (∀ b, x.begun = some b → sp.waiting = [] →
          (∃ t, exec (.retrainInplaceDone m true) s = .next t ∧ sameStore s t ∧ (t.dev.spool m.val).inplace = none
            ∧ role t (sp.phys x.logical) = 0
            ∧ recorded 0x4008 none [m.val, x.logical, sp.phys x.logical, ((s.dev.tape.now - b) / 1000 : Nat), 0] s t)
          ∧ (∃ t, exec (.retrainInplaceDone m false) s = .next t ∧ sameStore s t ∧ (t.dev.spool m.val).inplace = none
            ∧ role t (sp.phys x.logical) = 4
            ∧ recorded 0x4008 none [m.val, x.logical, sp.phys x.logical, ((s.dev.tape.now - b) / 1000 : Nat), 1] s t)))
    ∧ (∀ (ph : Fin 34) reads again, s.dev.serves m.val = true → role s ph.val = 1 →
        let first := testFinds 0 reads
        let second := testFinds 0 again
        let new := first.lanes &&& ~~~(sp.chan ph.val).lanes ≠ 0
        ∃ t, exec (.spareChannelTest m ph reads again) s = .next t ∧ sameStore s t
          ∧ ((t.dev.spool m.val).chan ph.val).lanes = (sp.chan ph.val).lanes ||| first.lanes ||| (if new then second.lanes else 0)
          ∧ (new → ((t.dev.spool m.val).chan ph.val).retrains = satAdd 16 (sp.chan ph.val).retrains 1)
          ∧ role t ph.val = (if new ∧ second.rawBits ≠ 0 then 3 else 1))

/-- For a powered device: a heartbeat that is due leaves on a Seam that is up or is being brought up; a valid one received on a Seam that is up, with
at least two common lanes and a common level, keeps it up and sets the partner and the time; without one for 50 µs the
Seam is down in state 3. Bring-up with a valid body, the clock present, at least two lanes and a common level makes
the Seam up with that level, the partner's lanes and whole credits, SEQ 0, and is recorded as event 0x5004; an attempt
that did not end within 1 s is recorded once as event 0x5005. A lane that passes a trigger on a Seam of at least three
lanes leaves, and retrains with event 0x5001; done within 4 ms it carries traffic again with event 0x5002; at the
time-out it has failed with event 0x5003; a retry of a failed lane returns it, or comes again 60 s later. A level
control flit sets the level at its SEQ. (R356, R359, R361, R362, R363, R364, R395, 12_seams.md) -/
def Obligations.SeamsComeUpAndTheirLanesRetrain : Prop :=
  ∀ (p : Fin 64) (s : State), s.dev.powered = true →
    let x := s.dev.seam p.val
    let now := s.dev.tape.now
    let y := fun (t : State) => t.dev.seam p.val
    (x.up = true ∨ (x.training = true ∧ s.dev.seamClock p.val = true) → x.hbSent + 10000 ≤ now →
      let f := x.emit now 2 (s.dev.heartbeatBody p.val) (s.dev.lanesOf p.val)
      ∃ t, exec (.heartbeatSend p) s = .next t ∧ sameStore s t
        ∧ t.dev.tx = s.dev.tx ++ [(p.val, TxItem.flit f.2.1 f.2.2)] ∧ (y t).hbSent = now)
    ∧ (∀ body : BitVec 1920, x.up = true → heartbeatOk (bodyBytes body) = true →
        2 ≤ (x.matchLanes (leAt (bodyBytes body) 6 1)).width →
        (s.dev.commonLevel (leAt (bodyBytes body) 4 1) (leAt (bodyBytes body) 5 1)).isSome = true →
        ∃ t, exec (.heartbeatReceive p body) s = .next t ∧ sameStore s t ∧ (y t).up = true ∧ (y t).lastHb = now
          ∧ (y t).partner.toNat = leAt (bodyBytes body) 2 2 ∧ (y t).pseam = leAt (bodyBytes body) 1 1)
    ∧ (x.up = true → x.lastHb + 50000 ≤ now → ∃ t, exec (.heartbeatTimeout p) s = .next t ∧ t.pending = s.pending
        ∧ (y t).st = 3 ∧ (y t).up = false)
    ∧ (∀ (body : BitVec 1920) l, x.st = 1 ∨ x.st = 3 → heartbeatOk (bodyBytes body) = true → s.dev.seamClock p.val = true →
        2 ≤ popCount (BitVec.ofNat 4 (leAt (bodyBytes body) 6 1)) →
        s.dev.commonLevel (leAt (bodyBytes body) 4 1) (leAt (bodyBytes body) 5 1) = some l →
        ∃ t, exec (.seamBringUp p body) s = .next t ∧ sameStore s t ∧ (y t).up = true ∧ (y t).level = l
          ∧ (y t).active = BitVec.ofNat 4 (leAt (bodyBytes body) 6 1) ∧ (y t).partner.toNat = leAt (bodyBytes body) 2 2
          ∧ (y t).txSeq = 0 ∧ (y t).rxSeq = 0 ∧ (y t).replay = [] ∧ (y t).credits = bufferUnits
          ∧ recorded 0x5004 none [p.val, leAt (bodyBytes body) 2 2, leAt (bodyBytes body) 1 1,
              popCount (BitVec.ofNat 4 (leAt (bodyBytes body) 6 1)), l] s t)
    ∧ (x.st = 1 ∨ x.st = 3 → x.tried + 1000000000 ≤ now → ∃ t, exec (.seamBringupRetry p) s = .next t ∧ sameStore s t
        ∧ (y t).tried = now ∧ (y t).reported = true ∧ (x.reported = false → recorded 0x5005 none [p.val, x.partner.toNat, 2] s t))
    ∧ (∀ (lane : Fin 4) (c : LaneTrigger), x.up = true → bitOf x.active lane.val = true → c ≠ .command →
        (c = .crc → 16 < s.dev.laneFails p.val lane.val) → 3 ≤ x.width → x.retrain = none → x.laneq = [] → s.dev.nearColls = [] →
        ∃ t, exec (.laneLeave p lane c) s = .next t ∧ sameStore s t ∧ (y t).up = true ∧ bitOf (y t).active lane.val = false
          ∧ (y t).retrain = some (lane.val, now) ∧ recorded 0x5001 none [p.val, lane.val, laneTriggerNum c] s t)
    ∧ (∀ (lane : Fin 4) since, x.up = true → x.retrain = some (lane.val, since) → x.laneq = [] →
        (now ≤ since + 4000000 → ∃ t, exec (.laneRetrainDone p lane) s = .next t ∧ sameStore s t ∧ (y t).retrain = none
          ∧ bitOf (y t).active lane.val = true ∧ bitOf (y t).failed lane.val = false
          ∧ recorded 0x5002 none [p.val, lane.val, ((now - since) / 1000 : Nat)] s t)
        ∧ (since + 4000000 ≤ now → ∃ t, exec (.laneRetrainTimeout p lane) s = .next t ∧ sameStore s t ∧ (y t).retrain = none
          ∧ (y t).active = x.active ∧ bitOf (y t).failed lane.val = true ∧ recorded 0x5003 none [p.val, lane.val, x.width] s t))
    ∧ (∀ lane : Fin 4, x.up = true → bitOf x.failed lane.val = true → getD x.retryAt lane.val 0 ≤ now →
        (∃ t, exec (.failedLaneRetry p lane true) s = .next t ∧ sameStore s t ∧ bitOf (y t).active lane.val = true
          ∧ bitOf (y t).failed lane.val = false)
        ∧ (∃ t, exec (.failedLaneRetry p lane false) s = .next t ∧ sameStore s t
          ∧ y t = { x with retryAt := put x.retryAt lane.val (now + 60000000000) }))
    ∧ (∀ body : BitVec 1920, x.up = true → leAt (bodyBytes body) 0 1 = 2 → s.dev.lowLevel ≤ leAt (bodyBytes body) 3 1 →
        leAt (bodyBytes body) 3 1 ≤ s.dev.highLevel →
        let q := leAt (bodyBytes body) 1 2
        let l := leAt (bodyBytes body) 3 1
        ∃ t, exec (.levelControl p body) s = .next t ∧ sameStore s t
          ∧ ((x.rxSeq + 65536 - q) % 65536 < 32768 → (y t).level = l ∧ (y t).levelAt = none)
          ∧ (32768 ≤ (x.rxSeq + 65536 - q) % 65536 → (y t).level = x.level ∧ (y t).levelAt = some (q, l)))

/-- For a powered device and a flit on a lane that carries traffic of a Seam or Yoke that is up: a failed CRC is counted, and the next
flit carries NAK; a data flit whose SEQ is expected is taken, and the next SEQ is expected (in contain mode, no flit having come
early); a data flit of a later SEQ waits for the one that is due, and is discarded with NAK once every lane has brought a later one (how
a gap is recognised is inferred, log 80); an idle flit in order without NAK takes the acknowledged flits out of the replay
buffer. Without progress of ACK for 3 µs every flit of the replay buffer is sent again in order, with ACK as it stands and a pending NAK
in the first alone; after 100 ns without
a flit an idle flit leaves. A Yoke lane that leaves on a trigger or returns sets the healthy lanes and the width that they form,
and a loss is recorded as event 0x100A with YK_DEVIRQ.YOKE_WIDTH; with fewer than 4 lanes, or after 50 µs of silence (event
0x100B), the Yoke is down; at its return with at least 4 lanes it is up with event 0x100C. (R357, R358, R403, R404, R405,
12_seams.md, 14_yoke_commands.md) -/
def Obligations.FlitsAndYokeLanes : Prop :=
  ∀ (p : Fin 65) (s : State), s.dev.powered = true →
    let x := s.dev.seam p.val
    let up := s.dev.linkUp p.val = true
    let lanes := s.dev.lanesOf p.val
    let now := s.dev.tape.now
    let y := fun (t : State) => t.dev.seam p.val
    (∀ (lane : Fin 8) (f : BitVec 2048) (corr unc : Nat), up → lane.val ∈ lanes →
      (flCrcOk f = false → ∃ t, exec (.flitReceive p lane f corr unc) s = .next t ∧ sameStore s t
        ∧ (y t).crcFail = satAdd 32 x.crcFail 1 ∧ (y t).nak = true ∧ (y t).wait = true ∧ (y t).rxSeq = x.rxSeq ∧ (y t).units = x.units)
      ∧ (flCrcOk f = true → flKind f = 1 → flSeq f = x.rxSeq → x.early = [] → s.dev.containReset = false →
        ∃ t, exec (.flitReceive p lane f corr unc) s = .next t ∧ t.pending = s.pending ∧ (y t).rxSeq = (x.rxSeq + 1) % 65536)
      ∧ (flCrcOk f = true → flKind f = 1 → seqAhead x.rxSeq (flSeq f) = true → x.wait = false → x.held = [] → flNak f = false →
        let early := x.early ++ [(lane.val, f)]
        ∃ t, exec (.flitReceive p lane f corr unc) s = .next t ∧ sameStore s t ∧ (y t).rxSeq = x.rxSeq ∧ (y t).units = x.units
          ∧ ((∀ i ∈ lanes, ∃ e ∈ early, e.1 = i) → (y t).nak = true ∧ (y t).wait = true ∧ (y t).early = [])
          ∧ (¬(∀ i ∈ lanes, ∃ e ∈ early, e.1 = i) → (y t).nak = x.nak ∧ (y t).wait = false ∧ (y t).early = early))
      ∧ (flCrcOk f = true → flKind f = 0 → flSeq f = x.rxSeq → flNak f = false → x.waitq = [] → x.held = [] →
        let n := (flAck f + 65536 - x.acked) % 65536
        n ≠ 0 → n ≤ x.replay.length → ∃ t, exec (.flitReceive p lane f corr unc) s = .next t ∧ sameStore s t
          ∧ (y t).replay = x.replay.drop n ∧ (y t).acked = flAck f ∧ (y t).rxSeq = x.rxSeq))
    ∧ (up → lanes ≠ [] → x.replay ≠ [] → x.ackMoved + 3000 ≤ now → ∃ t, exec (.replayTimeout p) s = .next t ∧ sameStore s t
        ∧ (y t).replays = satAdd 32 x.replays 1 ∧ (y t).replay = x.replay
        ∧ t.dev.tx.length = s.dev.tx.length + x.replay.length ∧ t.dev.tx.take s.dev.tx.length = s.dev.tx
        ∧ ∀ i z, x.replay[i]? = some z → ∃ lane ∈ lanes, t.dev.tx[s.dev.tx.length + i]? =
            some (p.val, TxItem.flit lane (({ x with nak := x.nak && i == 0 } : Seam).flit 1 z)))
    ∧ (up → x.waitq = [] → x.ackSent + 100 ≤ now →
        let f := x.emit now 0 [] lanes
        ∃ t, exec (.ackTimer p []) s = .next t ∧ sameStore s t
          ∧ t.dev.tx = s.dev.tx ++ [(p.val, TxItem.flit f.2.1 f.2.2)] ∧ (y t).ackSent = now ∧ (y t).txSeq = x.txSeq)
    ∧ (∀ (lane : Fin 8) (c : LaneTrigger), s.dev.yoke.down = none → bitOf s.dev.yoke.healthy lane.val = true → c ≠ .command →
        (c = .crc → 16 < s.dev.laneFails 64 lane.val) →
        let h := s.dev.yoke.healthy &&& ~~~(BitVec.ofNat 8 (2 ^ lane.val))
        ∃ t, exec (.yokeLaneLeave lane c) s = .next t ∧ t.dev.yoke.healthy = h ∧ t.dev.yoke.width = yokeWidthOf (laneCount h)
          ∧ bitOf t.dev.yoke.devirq 2 = true ∧ (laneCount h < 4 ↔ t.dev.yoke.down ≠ none)
          ∧ recorded 0x100A none [lane.val, s.dev.yoke.width, yokeWidthOf (laneCount h)] s t)
    ∧ (∀ lane : Fin 8, s.dev.yoke.down = none → bitOf s.dev.yoke.healthy lane.val = false →
        let h := s.dev.yoke.healthy ||| BitVec.ofNat 8 (2 ^ lane.val)
        ∃ t, exec (.yokeLaneReturn lane) s = .next t ∧ t.dev.yoke.healthy = h ∧ t.dev.yoke.width = yokeWidthOf (laneCount h)
          ∧ t.dev.yoke.down = none)
    ∧ (s.dev.yoke.down = none → (s.dev.seam 64).lastHb + 50000 ≤ now → ∃ t, exec .yokeSilence s = .next t ∧ sameStore s t ∧ t.dev.yoke = { s.dev.yoke with down := some now }
        ∧ recorded 0x100B none [1] s t)
    ∧ (∀ (lanes : BitVec 8) since, s.dev.yoke.down = some since → 4 ≤ laneCount lanes → bitOf s.dev.power.clocksLost 0 = false →
        ∃ t, exec (.yokeLinkReturn lanes) s = .next t ∧ t.dev.yoke.down = none ∧ t.dev.yoke.healthy = lanes
          ∧ t.dev.yoke.width = yokeWidthOf (laneCount lanes) ∧ t.dev.yoke.msgs = []
          ∧ recorded 0x100C none [yokeWidthOf (laneCount lanes), ((now - since) / 1000 : Nat)] s t)

/-- For a granule that a Baste protects, with no free slot in the Baste's pool: the copy that a write waits for
(BASTE_GRANULE_COPY) leaves the Baste ABANDONED with nothing protected and no slot taken, and event 0xC803 is recorded
with reason 0; the bytes of memory are unchanged. A write of the companion through the aperture into the granule (its
only Baste that protects it) does the same and its bytes are then in memory. (R456) -/
def Obligations.PoolFullAbandonsTheBaste : Prop :=
  ∀ (g id : Nat) (x : Baste) (s : State), s.dev.protector g = some (id, x) → x = s.dev.baste id →
    (∀ i, i < s.dev.poolSlots x → ∃ e ∈ x.copied, e.2 = i) →
    (∃ t, exec (.basteGranuleCopy g) s = .next t ∧ sameStore s t ∧ (t.dev.baste id).st = 5 ∧ (t.dev.baste id).prot = []
      ∧ (t.dev.baste id).copied = [] ∧ recorded 0xC803 none [id, 0] s t)
    ∧ (∀ (off : BitVec 40) (l : List Byte),
        let r := getD s.dev.yoke.aper (off.toNat / 2 ^ 36) 0
        let a := (r &&& BitVec.ofNat 64 (2 ^ 52 - 2 ^ 21)).toNat + off.toNat % 2 ^ 36
        s.dev.yoke.down = none → s.dev.power.hold = false → s.dev.aperFault r a l.length true = none → granulesOf a l.length = [g] →
        s.dev.tripHolds a l.length = false →
        memoryOk s → ∃ t, exec (.apertureAccess off l.length (some l)) s = .next t ∧ (t.dev.baste id).st = 5
          ∧ (t.dev.baste id).prot = [] ∧ (t.dev.baste id).copied = [] ∧ recorded 0xC803 none [id, 0] s t
          ∧ t.store.mem.read a l.length = l)

/-- When the device serves in mode 1 and no Cutter is ACTIVE 20 ms after the last heartbeat (or none is ACTIVE or
STANDBY), BARE_MODE_ENTRY completes: YK_STATUS.MODE reads 2, BM_STATUS.BARE reads 1, YK_DEVIRQ.MODE_CHANGED is set,
event 0x100D is recorded with the Tape value and the mask of the contexts, and, when the bit was 0 and enabled with an
address other than 0, the 4 bytes of YK_DEVIRQ_DATA stand at that companion address (while the Yoke is up and no other
message waits). (R429) -/
def Obligations.BareModeIsEntered : Prop :=
  ∀ (s : State), s.dev.ready = true → s.dev.powered = true → s.dev.noCutter = true →
    ∃ t, exec .bareModeEntry s = .next t ∧ t.dev.reg 0x0008 % 4 = 2 ∧ t.dev.reg 0x2000 % 2 = 1 ∧ t.dev.reg 0x0010 % 2 = 1
      ∧ recorded 0x100D none [s.dev.tape.now, s.dev.runningMask] s t
      ∧ (bitOf s.dev.yoke.devirq 0 = false → bitOf s.dev.yoke.devirqEn 0 = true → s.dev.yoke.devirqAddr ≠ 0 →
          s.dev.yoke.down = none → s.dev.yoke.msgs = [] → memoryOk s →
          t.store.mem.read (companionBase + s.dev.yoke.devirqAddr.toNat / 4 * 4 % 2 ^ 48) 4 = leBytes 4 s.dev.yoke.devirqData.toNat)

/-- For an enabled periodic trigger of a powered device, at a Tape value that is a multiple of its PERIOD,
PERIODIC_TRIGGER completes: a record of event 0xD001 is formed that names the trigger, has no payload and holds the
trigger's snapshot; nothing but the Measure Book differs. A periodic trigger matches no event: the trigger that an
event's record names is never a periodic one. (R516) -/
def Obligations.PeriodicTriggersRecord : Prop :=
  (∀ (n : Fin 256) (x : BitVec 1280) (s : State), get? s.dev.mb.trigs n.val = some x → s.dev.powered = true → trigEnabled x = true →
    trigPeriodic x = true → trigPeriod x ≠ 0 → s.dev.tape.now % trigPeriod x = 0 →
    ∃ t, exec (.periodicTrigger n) s = .next t ∧ sameStore s t ∧ t.dev = { s.dev with mb := t.dev.mb }
      ∧ ∃ r ∈ t.dev.mb.ring, r.seq = s.dev.mb.head ∧ r.code = 0xD001 ∧ r.slots = [] ∧ r.trig = n.val
          ∧ r.snap = (s.dev.takeSnap ((List.range (trigNreg x)).map (trigSel x)) 58).1)
  ∧ (∀ (code : Nat) (ctx : Option Nat) (e : Nat × BitVec 1280) (s : State), s.dev.trigFor code ctx = some e → trigPeriodic e.2 = false)

/-- BASTE_TAKE that meets its conditions leaves the ID PENDING for a RUNNING context and, without AUTO_DRAIN,
PROTECTED with every granule of its ranges for another, where it completes. A copy with a free slot puts the granule's
bytes into the lowest one and records it. BASTE_DRAIN of a PROTECTED Baste with room at the destination leaves it
DRAINING; the drain writes the next granule into companion memory at its place; when the destination refuses a write
the Baste is PROTECTED again with event 0xC802; once the header is written the Baste is DRAINED with event 0xC801.
BASTE_RESTORE of an image that passes every check with VERIFY changes no memory, and completes with the step in RESULT
and event 0xC804, as it does without VERIFY. BASTE_RELEASE leaves its ID EMPTY from any state, with event 0xC803 from
PENDING, PROTECTED or DRAINING. (R452, R453, R455, R457, R460, R461, R462, 15_faults_continuity.md) -/
def Obligations.BastesFollowTheirCommands : Prop :=
  (∀ (c : Ici) (l : List Byte) (s : State), performs 0x0701 c true s →
    let d := s.dev.takeAccepted 0x0701 c
    let n := payBits c.p 0 0 3
    let id := payBits c.p 1 0 4
    let cnt := pay c.p 4 2
    let rs := rangeEntries l cnt
    (d.ctx n).st ≠ .stopping → (d.baste id).st = 0 → d.openBastes.length < 4 → 1 ≤ cnt → cnt ≤ 256 → 1 ≤ pay c.p 6 2 → pay c.p 6 2 ≤ 8192 →
    readable s d (pay c.p 8 8) (16 * cnt) 64 l → rangesSpare l cnt = true → d.rangesOk rs = true → d.poolOk (pay c.p 16 8) rs = true →
    payBits c.p 2 0 1 = 0 → pay c.p 24 8 = 0 → (∀ o ∈ d.opens, o.kind ≠ .baste id) →
    ∃ t, exec (.basteTake c) s = .next t ∧ sameStore s t ∧ (t.dev.baste id).ranges = rs ∧ (t.dev.baste id).pool = pay c.p 16 8
      ∧ ((d.ctx n).st = .running → (t.dev.baste id).st = 1 ∧ taken 0x0701 c s t)
      ∧ ((d.ctx n).st ≠ .running → (t.dev.baste id).st = 2 ∧ (t.dev.baste id).prot = rs.flatMap rangeGranules ∧ succeeds 0x0701 c s t
          ∧ recordedAny 0xC800 s t))
  ∧ (∀ (g id i : Nat) (x : Baste) (s : State), s.dev.protector g = some (id, x) → memoryOk s →
      (List.range (s.dev.poolSlots x)).find? (fun i => !(x.copied.any fun e => e.2 == i)) = some i →
      ∃ t, exec (.basteGranuleCopy g) s = .next t ∧ get? (t.dev.baste id).copied g = some i
        ∧ t.store.mem.read (x.pool + i * granule) granule = s.store.mem.read (g * granule) granule
        ∧ memSame (x.pool + i * granule) granule s t)
  ∧ (∀ (c : Ici) (s : State), performs 0x0702 c true s →
      let d := s.dev.takeAccepted 0x0702 c
      let id := payBits c.p 0 0 4
      let x := d.baste id
      x.st = 2 → d.destOk (pay c.p 8 8) (imageLen x.imageRanges.length x.left.length (s.box.poisonCount x)) = true →
      ∃ t, exec (.basteDrain c) s = .next t ∧ sameStore s t ∧ (t.dev.baste id).st = 3 ∧ (t.dev.baste id).dest = some (pay c.p 8 8)
        ∧ (t.dev.baste id).prot = x.prot ∧ taken 0x0702 c s t)
  ∧ (∀ (id : Fin 16) (s : State),
      let x := s.dev.baste id.val
      s.dev.powered = true → s.dev.power.hold = false → (∀ m, m < 8 → (s.dev.spool m).therm ≠ 4) → x.st = 3 →
      (∀ (e : Fin 8), x.cur ≠ none → ∃ t, exec (.basteGranuleDrained id (some e)) s = .next t ∧ sameStore s t
        ∧ (t.dev.baste id.val).st = 2 ∧ (t.dev.baste id.val).prot = x.prot ∧ recordedAny 0xC802 s t)
      ∧ (∀ g rest dest, x.cur = none → x.phase = 0 → x.done ≠ [] → x.left = g :: rest → x.dest = some dest → memoryOk s →
          let a := dest + x.dataOff + x.done.length * granule
          s.dev.destOk dest (x.dataOff + x.imageGranules.length * granule) = true → inCompanion a granule = true →
          (∀ h ∈ granulesOf a granule, s.dev.protector h = none) →
          ∃ t, exec (.basteGranuleDrained id none) s = .next t ∧ wrote a (s.store.granuleBytes (x.source g)) s t
            ∧ (t.dev.baste id.val).cur = some g)
      ∧ (x.cur ≠ none → x.phase = 2 → s.dev.drainBusy id.val = false → ∃ t, exec (.basteGranuleDrained id none) s = .next t
          ∧ sameStore s t ∧ (t.dev.baste id.val).st = 4 ∧ (t.dev.baste id.val).prot = [] ∧ recordedAny 0xC801 s t))
  ∧ (∀ (c : Ici) (h tb : List Byte) (s : State), performs 0x0703 c true s →
      let d := s.dev.takeAccepted 0x0703 c
      let a := pay c.p 0 8
      let delta := (BitVec.ofNat 64 (pay c.p 8 8)).toInt
      let n := 16 * leAt h 32 4 + 64 * leAt h 36 4 + 8 * leAt h 40 4
      let rs := rangeEntries tb (leAt h 32 4)
      let verify := payBits c.p 16 0 1 == 1
      d.liveCtxs = [] → delta % (granule : Int) = 0 → readable s d a 256 1 h → h.take 8 = asciiBytes "FVKBASTE" →
      d.levels.1 ≤ leAt h 8 2 → leAt h 8 2 ≤ d.levels.2 → readable s d (a + 256) n 1 tb →
      sha3_512 (h.take 64 ++ zeros 64 ++ h.drop 128 ++ tb) = (h.drop 64).take 64 → imageOk h tb rs = true →
      (restoreTargets rs delta).all d.targetOk = true → (∃ l, readable s d a (leAt h 56 8) 1 l) →
      (({ store := s.store, dev := d } : Box).restoreFrom (Ici.pend 0x0703 c) a (leAt h 48 8) (16 * rs.length) tb verify (restoreTargets rs delta) 0).2 = true →
      ∃ t, exec (.basteRestore c) s = .next t ∧ t.pending = s.pending ∧ recorded 0xC804 none [a, leAt h 10 2, leAt h 16 8, leAt h 36 4] s t
        ∧ answers 0x0703 c 0 0 0 (BitVec.ofNat 64 (leAt h 16 8)) s t ∧ (verify = true → sameStore s t))
  ∧ (∀ (c : Ici) (s : State), performs 0x0704 c true s →
      let d := s.dev.takeAccepted 0x0704 c
      let id := payBits c.p 0 0 4
      (∀ o ∈ d.opens, o.kind ≠ .baste id) →
      ∃ t, exec (.basteRelease c) s = .next t ∧ sameStore s t ∧ t.dev.baste id = Baste.init ∧ succeeds 0x0704 c s t
        ∧ (1 ≤ (d.baste id).st → (d.baste id).st ≤ 3 → recorded 0xC803 none [id, 3] s t))

/-- Without an update in progress: a Cutter in service that fails is OUT and gives up the baton, or RETIRED with event
0x7002 when it failed within the last 24 hours; an OUT Cutter that passed its self-test is STANDBY with event 0x7003,
and one that failed it is RETIRED with event 0x7002; a standby of rank r that heard nothing for 2 + r ms claims the
baton, and takes over: it is ACTIVE, every accepted or fetched command has left its queue, and event 0x7001 is
recorded; a rotation that falls due while no context runs makes the first standby ACTIVE with event 0x7004, and else
waits for the boundary. A root that restarted for a Thimble update runs the wanted image. The only due cluster, which
no live context uses, is remapped to the spare that passed its suites, with event 0x7006, while no schedule load is in progress; a spare that failed them is
retired. (R446, R464, R465, R466, R468, R494, 15_faults_continuity.md, 16_boot_security.md) -/
def Obligations.CuttersPassTheBaton : Prop :=
  (∀ (c : Fin 4) (s : State),
    let d := s.dev
    let st := fun (t : State) (i : Nat) => getD t.dev.cutter.st i 2
    (∀ ev, d.up = true → st s c.val ≤ 1 → d.fw.upd = none →
      ∃ t, exec (.cutterFailure c ev) s = .next t ∧ sameStore s t ∧ t.dev.cutter.active ≠ some c.val ∧ t.dev.cutter.lastEv = ev
        ∧ ((∀ w, get? d.cutter.failedAt c.val = some w → w + 86400000000000 ≤ d.tape.now) → st t c.val = 2)
        ∧ (∀ w, get? d.cutter.failedAt c.val = some w → d.tape.now < w + 86400000000000 → st t c.val = 3 ∧ recorded 0x7002 none [c.val, 1] s t))
    ∧ (d.up = true → st s c.val = 2 → bitOf d.fw.roots c.val = true → d.fw.upd = none →
        (∃ t, exec (.cutterRejoin c true) s = .next t ∧ sameStore s t ∧ st t c.val = 1 ∧ recorded 0x7003 none [c.val, d.rankOf c.val] s t)
        ∧ (∃ t, exec (.cutterRejoin c false) s = .next t ∧ sameStore s t ∧ st t c.val = 3 ∧ recorded 0x7002 none [c.val, 0] s t))
    ∧ (d.up = true → d.cutter.active ≠ none → ∃ t, exec .batonHeartbeat s = .next t ∧ sameStore s t
        ∧ t.dev = { d with cutter := { d.cutter with lastHb := d.tape.now } })
    ∧ (d.ready = true → d.powered = true → st s c.val = 1 → d.cutter.claim = none → d.fw.upd = none →
        d.cutter.lastHb + (2 + d.rankOf c.val) * 1000000 ≤ d.tape.now →
        ∃ t, exec (.batonClaim c) s = .next t ∧ sameStore s t ∧ t.dev.cutter.claim = some c.val ∧ t.dev.cutter.active = none)
    ∧ (d.ready = true → d.powered = true → d.cutter.claim = some c.val → d.cutter.active = none → d.fw.upd = none →
        let n := sumN ((List.range 9).map fun q => (d.heldCmds q).length)
        ∃ t, exec (.cutterTakeover c) s = .next t ∧ sameStore s t ∧ t.dev.cutter.active = some c.val ∧ st t c.val = 0
          ∧ t.dev.opens = [] ∧ (∀ q, q < 9 → (t.dev.queue q).accepted = [] ∧ (t.dev.queue q).fetched = [])
          ∧ recorded 0x7001 none [d.cutter.lastActive, c.val, n, ((d.tape.now - d.cutter.lastHb) / 1000 : Nat)] s t)
    ∧ (∀ a b rest, d.rotationDue = true → d.fw.upd = none → d.cutter.active = some a → d.standbys = b :: rest →
        (d.runningCtxs = [] → ∃ t, exec .cutterRotationPeriod s = .next t ∧ sameStore s t ∧ t.dev.cutter.active = some b
          ∧ st t b = 0 ∧ st t a = 1 ∧ recorded 0x7004 none [a, b, 1] s t)
        ∧ (d.runningCtxs ≠ [] → ∃ t, exec .cutterRotationPeriod s = .next t ∧ sameStore s t
          ∧ t.dev = { d with cutter := { d.cutter with rotDue := some 1 } }))
    ∧ (∀ u, d.fw.upd = some u → u.thimble = true → u.root = some c.val →
        ∃ t, exec (.rootRestartDone c true) s = .next t ∧ sameStore s t ∧ getD t.dev.fw.rootImg c.val .none = u.target))
  ∧ (∀ (b : Fin 24) (k : Fin 16) (r : RetireDue) (p : Nat) (s : State), s.dev.retireDue = [r] → r.bolt = b.val → r.k = k.val → r.spare = none →
      s.dev.candidate r = some p → s.dev.serving = true → s.dev.power.hold = false →
      (s.dev.usersOf b.val k.val = [] → s.dev.loading = false → ∃ t, exec (.spareSuitesDone b k true) s = .next t ∧ t.pending = s.pending
        ∧ (t.dev.bolt b.val).phys k.val = p ∧ p ∉ (t.dev.bolt b.val).spares ∧ t.dev.retireDue = [] ∧ recordedAny 0x7006 s t)
      ∧ (∃ t, exec (.spareSuitesDone b k false) s = .next t ∧ t.pending = s.pending ∧ p ∉ (t.dev.bolt b.val).spares
        ∧ 18 * b.val + p ∈ t.dev.health.retired))

/-- MB_DRAIN of a powered device outside Hold, with records that await draining and no Spool in Trip, copies every one
of them to the Spool region, while the region has room. CREASE_SUMMARY, while a perturbation is armed and configured
and 1 s has passed, records event 0xD007 with the seven counts, which start again at 0. HOUR_MARK counts one hour more
(saturating) and records event 0x0003 with the hours. DIAG_EXPIRY at or after the end of the diagnostic state ends it,
with events 0x800E and 0xD008, and every CR_ field returns to 0. (R471, R498, R507, R518, R521, R556,
15_faults_continuity.md, 16_boot_security.md, 17_measure_book_test.md) -/
def Obligations.RecorderClocksAndDiagnosis : Prop :=
  ∀ (s : State),
    let m := s.dev.mb
    (s.dev.powered = true → s.dev.power.hold = false → m.drained < m.head → (∀ i, i < 8 → (s.dev.spool i).therm ≠ 4) →
      m.region.length + m.ring.length ≤ 2097152 →
      ∃ t, exec .mbDrain s = .next t ∧ sameStore s t ∧ t.dev = { s.dev with mb := t.dev.mb } ∧ t.dev.mb.drained = m.head
        ∧ t.dev.mb.lostFrom = none ∧ t.dev.mb.region = m.region ++ m.ring.filter (fun r => m.drained ≤ r.seq))
    ∧ (s.dev.crArmed = true → s.dev.crConfigured = true → s.dev.cr.last + 1000000000 ≤ s.dev.tape.now →
        ∃ t, exec .creaseSummary s = .next t ∧ sameStore s t ∧ t.dev.cr.last = s.dev.tape.now
          ∧ recorded 0xD007 none ((List.range 7).map fun i => ((getD s.dev.cr.counts i 0 : Nat) : Int)) s t
          ∧ (∀ i, i < 7 → getD t.dev.cr.counts i 0 = 0))
    ∧ (s.dev.power.pwrGood = true → ∃ t, exec .hourMark s = .next t ∧ sameStore s t
        ∧ t.dev.health = { s.dev.health with hours := satAdd 32 s.dev.health.hours 1 }
        ∧ recorded 0x0003 none [satAdd 32 s.dev.health.hours 1, s.dev.tape.now] s t)
    ∧ (∀ e, s.dev.fw.diagEnd = some e → e ≤ s.dev.tape.now → ∃ t, exec .diagExpiry s = .next t ∧ sameStore s t
        ∧ t.dev.fw.diagEnd = none ∧ t.dev.cr = CreaseSt.init ∧ recorded 0x800E none [0] s t ∧ recordedAny 0xD008 s t)

/-- A rise of PWR_GOOD starts a cold boot: one boot more, MODE 0, contexts EMPTY, no queue enabled, the outputs driven,
and companion memory as it was. A fall releases the outputs. A fall, the removal of power and a rise keep the hours, the retirement
record, the fuses and the flash. From VAUX in tolerance 100 ms count, one ns at a step on an empty queue, and from then on the I3C
target answers, whatever PWR_GOOD is, with the bytes of the telemetry record from the offset on, and takes its dynamic address for the
static address 0x4C. At the end of the boot, without a failure, MODE is 1 with MODE_CHANGED and event 0x8004. A lost reference
clock is recorded as event 0x6009 and takes down the 16 Seams of its Selvage, and REFCLK 0 the Yoke; the reference of the Tape goes to
the lowest working Selvage; the return of a clock is recorded as event 0x6009. A rail sample sets the readings and counts energy; a
rail out of tolerance for more than 100 µs is recorded once as event 0x6008; above 105 % of PLIMIT an episode of limiting begins, at
or below PLIMIT it ends. A junction sample sets the state, and a change is recorded as event 0x6004; at state 2 or 3 from below every
context stops, and 3 asserts THERMTRIP_N. In Hold the exit that an operation started ends Hold with event 0x6007, at 650 mV
while a Cutter is active. TRST_N low resets the TAP controller, a rising edge of TCK moves it as TMS says, and a falling edge in
Update-IR makes the shifted instruction current outside the diagnostic state; the length of the instruction register is the model's
choice (log 44). (R529, R531, R535, R541, R543, R544, R546, 02_time.md, 16_boot_security.md, 18_power_package.md) -/
def Obligations.PowerResetAndPins : Prop :=
  ∀ (s : State),
    let d := s.dev
    let kept := fun (t : State) => t.dev.health.hours = d.health.hours ∧ t.dev.health.retired = d.health.retired
      ∧ t.dev.fw.flash = d.fw.flash ∧ t.dev.fw.svnThimble = d.fw.svnThimble ∧ t.dev.fw.svnPattern = d.fw.svnPattern
      ∧ t.dev.fw.testClusters = d.fw.testClusters ∧ t.dev.fw.testChans = d.fw.testChans
    (∀ env, d.power.pwrGood = false → ∃ t, exec (.pwrGoodRise env) s = .next t ∧ t.dev.power.pwrGood = true ∧ t.dev.yoke.mode = 0
        ∧ t.dev.fw.bootCount = d.fw.bootCount + 1 ∧ t.dev.ctxs = [] ∧ t.dev.queues = [] ∧ t.dev.regions = [] ∧ kept t
        ∧ t.pending = s.pending ∧ t.dev.pins.driven = true
        ∧ (memoryOk s → ∀ a, companionBase ≤ a → t.store.mem.byte a = s.store.mem.byte a))
    ∧ (d.power.pwrGood = true → ∃ t, exec .pwrGoodFall s = .next t ∧ t.pending = s.pending ∧ t.dev.power.pwrGood = false ∧ kept t
        ∧ t.dev.bolts = d.bolts ∧ t.dev.pins = { d.pins with driven := false } ∧ t.dev.fw.bootCount = d.fw.bootCount ∧ t.dev.ctxs = [])
    ∧ (∃ t, exec .powerRemoved s = .next t ∧ t.pending = s.pending ∧ t.dev.power.pwrGood = false ∧ t.dev.power.vaux = none ∧ kept t
        ∧ t.dev.bolts = d.bolts)
    ∧ (d.power.vaux = none → ∃ t, exec .vauxInTolerance s = .next t ∧ sameStore s t
        ∧ t.dev = { d with power := { d.power with vaux := some 0 } })
    ∧ (∀ n, s.pending = [] → d.power.vaux = some n → n < 100000000 → ∃ t, step s = .next t ∧ t.dev.power.vaux = some (n + 1))
    ∧ (d.powered = true → d.fw.booting = true → d.cutter.active ≠ none → d.yoke.mode = 0 →
        ∃ t, exec (.deviceReportsReady []) s = .next t ∧ t.dev.yoke.mode = 1 ∧ t.dev.fw.booting = false
          ∧ bitOf t.dev.yoke.devirq 0 = true
          ∧ recorded 0x8004 none [boolN d.fw.warm, ((d.tape.now - d.fw.bootAt) / 1000000 : Nat), d.fw.booted, d.fw.bootCount] s t)
    ∧ (∀ c : Fin 5,
        (d.power.pwrGood = true → bitOf d.power.clocksLost c.val = false → ∃ t, exec (.clockLoss c) s = .next t
          ∧ bitOf t.dev.power.clocksLost c.val = true
          ∧ t.pending = s.pending
          ∧ (c.val = 4 → sameStore s t ∧ recorded 0x6009 none [4, 0] s t)
          ∧ (∀ new, c.val < 4 → d.tape.ref = c.val → new < 4 → new ≠ c.val → d.tapeWorks new = true → (∀ k, k < new → k ≠ c.val → d.tapeWorks k = false) →
              t.dev.tape.ref = new)
          ∧ (c.val < 4 → ∀ p, 16 * c.val ≤ p → p < 16 * c.val + 16 → (t.dev.seam p).up = false)
          ∧ (c.val = 0 → t.dev.yoke.down ≠ none))
        ∧ (bitOf d.power.clocksLost c.val = true → ∃ t, exec (.clockReturn c) s = .next t ∧ sameStore s t
          ∧ bitOf t.dev.power.clocksLost c.val = false ∧ (d.power.pwrGood = true → recorded 0x6009 none [c.val, 1] s t)))
    ∧ (∀ mv dw avg100 avg1000, d.power.pwrGood = true → ∃ t, exec (.railSample mv dw avg100 avg1000) s = .next t ∧ sameStore s t
        ∧ t.dev.power.mv = mv ∧ t.dev.power.dw = dw ∧ t.dev.power.avg1000 = avg1000 ∧ t.dev.power.energy = d.power.energy + sumN dw
        ∧ (d.power.limiting = false → 1050 * d.power.plimit < 100 * avg100 →
            t.dev.power.limiting = true ∧ t.dev.power.limits = satAdd 32 d.power.limits 1)
        ∧ (avg100 ≤ 10 * d.power.plimit → t.dev.power.limiting = false)
        ∧ (∀ r since, r < 5 → get? d.power.railSince r = some since → since + 100000 < d.tape.now → d.power.railBad.contains r = false →
            let e := ({ d with power := { d.power with mv := mv } } : Dev)
            e.railOut r = true → r ∈ t.dev.power.railBad ∧ t.dev.alertN = true
              ∧ recorded 0x6008 none [r, mv.getD r 0, e.railNominal r] s t))
    ∧ (∀ bolts selv, d.power.pwrGood = true →
        let h := ({ d with power := { d.power with bolts := bolts, selv := selv, sampled := true } } : Dev).hotDie
        let new := junctionNext d.power.jst h.1
        ∃ t, exec (.junctionSample bolts selv) s = .next t ∧ t.dev.power.bolts = bolts ∧ t.dev.power.selv = selv ∧ t.dev.power.jst = new
          ∧ (new ≠ d.power.jst → recorded 0x6004 none [d.power.jst, new, h.1, h.2] s t)
          ∧ (2 ≤ new → d.power.jst < 2 → ∀ n, n < 8 → (t.dev.ctx n).live = false)
          ∧ (new = 3 → d.power.jst ≠ 3 → t.dev.power.thermtrip = true))
    ∧ (∀ w, d.power.hold = true → d.power.wake = some w → ∃ t, exec .holdExit s = .next t ∧ t.pending = s.pending ∧ t.dev.power.hold = false
        ∧ ((∀ p, p < 64 → (d.seam p).held = []) → recorded 0x6007 none [w.1, w.2] s t ∧ recorded 0x6001 none [2, 1, 2] s t
            ∧ (d.bare = false → d.cutter.active ≠ none → t.dev.pace.vcore = 650)))
    ∧ (∀ n, d.power.vaux = some n → 100000000 ≤ n →
        (∀ off : BitVec 7, ∃ t, exec (.i3cRead off) s = .next t ∧ sameStore s t
          ∧ t.dev = { d with out := { value := 0, bytes := d.telemetry.drop off.toNat, err := false } })
        ∧ (∀ addr, ∃ t, exec (.i3cSetdasa addr 0x4C) s = .next t ∧ sameStore s t ∧ t.dev = { d with pins := { d.pins with i3c := some addr } }))
    ∧ (∀ n, d.power.vaux = some n →
        (∀ rising tms tdi, ∃ t, exec (.jtagTckEdge rising tms tdi false) s = .next t ∧ sameStore s t ∧ t.dev.pins.tap = 15 ∧ t.dev.pins.ir = 255)
        ∧ (∀ tms tdi, ∃ t, exec (.jtagTckEdge true tms tdi true) s = .next t ∧ sameStore s t ∧ t.dev.pins.tap = tapNext d.pins.tap tms)
        ∧ (∀ tms tdi, d.diag = false → d.pins.tap = 13 → ∃ t, exec (.jtagTckEdge false tms tdi true) s = .next t ∧ t.pending = s.pending
            ∧ t.dev.pins.ir = d.pins.irShift ∧ t.dev.pins.tap = 13))

/-- Each query of the table queryForm, performed with its fields in range (and a context that is not EMPTY where it
names one) and an address that it may write, writes exactly its record there and completes with STATUS 0, DETAIL 0 and
RESULT 0; beside its queue nothing differs but the lines that the write recalls. PRESS_SLOT_QUERY, SEQ_QUERY and
CHALK_QUERY with count 0 complete and write nothing. DESC_QUERY writes the entry's 64 bytes and its kind is RESULT;
IDENTITY_CERT writes the chain, whose length is RESULT, when the capacity holds it; SCHED_QUERY answers the state and
the step in RESULT. MB_QUERY drains first and writes the records, with zeros for one not held; RESULT is MB_HEAD and
DETAIL the number of records held. (R174, R296, R319, R352, R397, R427, R473, R500, R507, R524, R552, R560) -/
def Obligations.QueriesWriteTheirRecords : Prop :=
  (∀ f, queryForm f → ∀ (c : Ici) (s : State), performs f.1 c (inSpools (pay c.p 8 8)) s → memoryOk s →
    let d := s.dev.takeAccepted f.1 c
    let l := f.2.2.2 c d
    f.2.2.1 c d = true → writable d (pay c.p 8 8) l.length →
    ∃ t, exec (f.2.1 c) s = .next t ∧ wrote (pay c.p 8 8) l s t ∧ onlyAnswered s t ∧ succeeds f.1 c s t)
  ∧ (∀ (c : Ici) (s : State),
      let st := (s.dev.ctx (payBits c.p 0 0 3)).st
      (performs 0x0A03 c (inSpools (pay c.p 8 8)) s → st ≠ .empty → pay c.p 1 1 ≤ 64 → pay c.p 2 1 = 0 →
        ∃ t, exec (.pressSlotQuery c) s = .next t ∧ sameStore s t ∧ onlyAnswered s t ∧ succeeds 0x0A03 c s t)
      ∧ (performs 0x0B04 c (inSpools (pay c.p 8 8)) s → pay c.p 0 1 ≤ 256 → pay c.p 2 2 = 0 →
        ∃ t, exec (.seqQuery c) s = .next t ∧ sameStore s t ∧ onlyAnswered s t ∧ succeeds 0x0B04 c s t)
      ∧ (performs 0x0C02 c (inSpools (pay c.p 8 8)) s → st ≠ .empty → pay c.p 2 2 ≤ 256 → pay c.p 4 2 = 0 →
        ∃ t, exec (.chalkQuery c) s = .next t ∧ sameStore s t ∧ onlyAnswered s t ∧ succeeds 0x0C02 c s t))
  ∧ (∀ (c : Ici) (s : State), performs 0x0203 c (inSpools (pay c.p 8 8)) s → memoryOk s → pay c.p 0 2 < 32768 →
      writable (s.dev.takeAccepted 0x0203 c) (pay c.p 8 8) 64 →
      let e := get? s.dev.descs (pay c.p 0 2)
      ∃ t, exec (.descQuery c) s = .next t ∧ wrote (pay c.p 8 8) (entryBytes e) s t ∧ onlyAnswered s t
        ∧ answers 0x0203 c 0 0 0 (BitVec.ofNat 64 (entryKind e)) s t)
  ∧ (∀ (c : Ici) (s : State), performs 0x0802 c (inSpools (pay c.p 8 8)) s → memoryOk s →
      let l := s.dev.fw.chain
      l.length ≤ pay c.p 16 4 → writable (s.dev.takeAccepted 0x0802 c) (pay c.p 8 8) l.length →
      ∃ t, exec (.identityCert c) s = .next t ∧ wrote (pay c.p 8 8) l s t ∧ onlyAnswered s t
        ∧ answers 0x0802 c 0 0 0 (BitVec.ofNat 64 l.length) s t)
  ∧ (∀ (c : Ici) (s : State), performs 0x0305 c false s →
      let x := s.dev.ctx (payBits c.p 0 0 3)
      ∃ t, exec (.schedQuery c) s = .next t ∧ sameStore s t ∧ onlyAnswered s t
        ∧ answers 0x0305 c 0 0 0 (BitVec.ofNat 64 (x.st.num + x.step % 2 ^ 32 * 2 ^ 32)) s t)
  ∧ (∀ (c : Ici) (s : State), performs 0x0902 c true s → memoryOk s → pay c.p 8 4 ≤ 8192 →
      writable (s.dev.takeAccepted 0x0902 c) (pay c.p 16 8) (512 * pay c.p 8 4) →
      let d := (s.dev.takeAccepted 0x0902 c).mbDrainAll
      let seqs := span (pay c.p 0 8) (pay c.p 8 4)
      ∃ t, exec (.mbQuery c) s = .next t ∧ t.pending = s.pending ∧ wrote (pay c.p 16 8) (seqs.flatMap d.recBytes) s t ∧ t.dev.mb = d.mb
        ∧ answers 0x0902 c 0 0 (BitVec.ofNat 32 (seqs.filter fun i => (d.recAt i).isSome).length) (BitVec.ofNat 64 d.mb.head) s t)

/-- DEVICE_INFO: 64 bytes, YK_ID, YK_SPARES, levels L - 2 and L, YK_STATUS.CUTTER, the context states. SPOOL_QUERY: 64
bytes, the free frames of each Spool and the number of regions. Channel health and Seam status: 32 bytes with their
fields. The power record: 64 bytes with state, junction state, VCORE, PLIMIT and joules; telemetry: 128 bytes with the
temperatures, 0x8000 where no reading is. Health: 64 bytes with hours, faults, SPARES, ADVICE and Tape. FW_QUERY: 128
bytes with the active version, the fused minima, BOOT_COUNT and both GENs. The attestation report: 5,504 bytes with
magic, format, part, Tape, BOOT_COUNT, nonce and measurements. A descriptor entry: 64 bytes, all zero when empty, a
pair in bytes 0 to 15. A Press slot entry has the current P1 and P2 in bytes 36 to 43. A count record of at most 16
counts: 64 bytes of 32-bit values. A Chalk entry: 32 bytes with its five values and the step. (R209, R266, R296, R323,
R352, R395, R397, R427, R471, R490, R500, R552) -/
def Obligations.QueryRecordsHoldTheirFields : Prop :=
  ∀ (d : Dev),
    let num := fun (l : List Byte) (o n : Nat) => leAt l o n
    (d.infoBytes.length = 64 ∧ num d.infoBytes 0 8 = d.rdYkId % 2 ^ 64 ∧ num d.infoBytes 8 8 = d.rdSpares % 2 ^ 64
      ∧ num d.infoBytes 16 1 = (d.fw.pattern.level - 2) % 256 ∧ num d.infoBytes 17 1 = d.fw.pattern.level % 256
      ∧ num d.infoBytes 18 1 = d.rdYkStatus / 4 % 4 ∧ ∀ n, n < 8 → num d.infoBytes (24 + n) 1 = (d.ctx n).st.num)
    ∧ (d.spoolInfo.length = 64 ∧ (∀ m, m < 8 → num d.spoolInfo (4 * m) 4 = (d.spool m).free % 2 ^ 32)
      ∧ num d.spoolInfo 32 4 = d.regions.length % 2 ^ 32)
    ∧ (∀ m ph, let c := (d.spool m).chan ph
        let l := d.healthRec m ph
        l.length = 32 ∧ num l 0 1 = ph % 256 ∧ num l 1 1 = c.role % 256 ∧ num l 4 4 = c.corr % 2 ^ 32 ∧ num l 8 4 = c.unc % 2 ^ 32
          ∧ num l 16 2 = c.retrains % 65536 ∧ num l 18 2 = c.darnings % 65536 ∧ (c.lastErr = none → num l 24 8 = 2 ^ 64 - 1))
    ∧ (∀ p, let x := d.seam p
        let l := d.seamRec p
        l.length = 32 ∧ num l 0 1 = p % 256 ∧ num l 1 1 = x.st % 256 ∧ num l 2 1 = x.width % 256
          ∧ num l 3 1 = (x.active.toNat + 16 * x.failed.toNat) % 256 ∧ num l 4 2 = x.partner.toNat ∧ num l 6 1 = x.pseam % 256
          ∧ num l 7 1 = x.level % 256 ∧ num l 8 4 = x.crcFail % 2 ^ 32 ∧ num l 12 4 = x.replays % 2 ^ 32
          ∧ num l 16 4 = x.retrains % 2 ^ 32 ∧ num l 20 4 = x.fecCorr % 2 ^ 32 ∧ num l 24 4 = x.fecUnc % 2 ^ 32)
    ∧ (d.powerRec.length = 64 ∧ num d.powerRec 0 1 = (if d.power.hold then 2 else if d.liveCtxs.isEmpty then 1 else 0)
      ∧ num d.powerRec 1 1 = d.power.jst % 256 ∧ num d.powerRec 2 2 = d.pace.vcore % 65536 ∧ num d.powerRec 4 2 = d.power.plimit % 65536
      ∧ num d.powerRec 32 4 = d.power.limits % 2 ^ 32 ∧ num d.powerRec 40 8 = d.power.energy / 200000 % 2 ^ 64)
    ∧ (d.telemetry.length = 128 ∧ (∀ i, i < 24 → num d.telemetry (2 * i) 2 = ((d.power.bolts[i]?).getD 0x8000).toNat)
      ∧ (∀ i, i < 4 → num d.telemetry (48 + 2 * i) 2 = ((d.power.selv[i]?).getD 0x8000).toNat)
      ∧ (∀ m, m < 8 → num d.telemetry (56 + 2 * m) 2 = (d.spool m).temp.toNat) ∧ num d.telemetry 72 1 = d.power.jst % 256)
    ∧ (d.healthBytes.length = 64 ∧ num d.healthBytes 0 4 = d.health.hours % 2 ^ 32 ∧ num d.healthBytes 4 4 = d.health.faults % 2 ^ 32
      ∧ num d.healthBytes 8 8 = d.rdSpares % 2 ^ 64 ∧ num d.healthBytes 18 2 = d.health.retired.length % 65536
      ∧ num d.healthBytes 28 4 = d.health.advice.toNat ∧ num d.healthBytes 32 4 = d.health.interval % 2 ^ 32
      ∧ num d.healthBytes 40 8 = d.tape.now % 2 ^ 64)
    ∧ (d.fwInfo.length = 128 ∧ num d.fwInfo 16 4 = d.fw.pattern.version.toNat ∧ num d.fwInfo 20 2 = d.fw.pattern.level % 65536
      ∧ num d.fwInfo 24 2 = d.fw.svnThimble % 65536 ∧ num d.fwInfo 26 2 = d.fw.svnPattern % 65536 ∧ num d.fwInfo 32 1 = d.fw.prefer % 256
      ∧ num d.fwInfo 33 1 = d.fw.booted % 256 ∧ num d.fwInfo 36 4 = d.fw.bootCount % 2 ^ 32 ∧ num d.fwInfo 40 8 = d.fw.dirGen 0 % 2 ^ 64
      ∧ num d.fwInfo 48 8 = d.fw.dirGen 1 % 2 ^ 64)
    ∧ (∀ (mask : Nat) (nonce : List Byte), nonce.length = 64 →
        let l := d.attestReport mask nonce
        l.length = 5504 ∧ l.take 8 = asciiBytes "FVKATTST" ∧ num l 8 2 = 1 ∧ num l 10 2 = d.fab.deviceId.toNat ∧ num l 12 2 = 0x2480
          ∧ num l 16 8 = d.tape.now % 2 ^ 64 ∧ num l 32 4 = d.fw.bootCount % 2 ^ 32 ∧ (l.drop 48).take 64 = nonce
          ∧ num l 176 64 = d.fw.mPattern.toNat ∧ num l 240 64 = d.fw.identityHash.toNat
          ∧ ∀ n, n < 8 → num l (304 + 64 * n) 64 = if mask.testBit n then (getD d.fw.mSched n 0).toNat else 0)
    ∧ (∀ (x : Desc) (p : BitVec 128), entryBytes none = zeros 64 ∧ num (entryBytes (some (.native x))) 0 64 = x.toNat
        ∧ num (entryBytes (some (.forerunner x))) 0 64 = x.toNat ∧ num (entryBytes (some (.pair p))) 0 64 = p.toNat)
    ∧ (∀ o : OSlot, o.bytes.length = 64 ∧ num o.bytes 36 4 = o.p1.toNat ∧ num o.bytes 40 4 = o.p2.toNat
        ∧ num o.bytes 0 36 = fld o.e 0 288 ∧ num o.bytes 44 20 = fld o.e 352 160)
    ∧ (∀ (tb : Tbl Nat) (n : Nat), n ≤ 16 → (countBytes tb n).length = 64 ∧ ∀ i, i < n → num (countBytes tb n) (4 * i) 4 = getD tb i 0 % 2 ^ 32)
    ∧ (∀ (c : Ctx) (i : Nat), let y := getD c.chalk i .init
        let l := c.chalkEntry i
        l.length = 32 ∧ num l 0 4 = y.sumP % 2 ^ 32 ∧ num l 4 4 = y.aud % 2 ^ 32 ∧ num l 8 4 = y.miss % 2 ^ 32
          ∧ num l 12 4 = y.unaud % 2 ^ 32 ∧ num l 16 4 = boolN y.flag ∧ num l 20 4 = c.step % 2 ^ 32)

/-- NOP completes and changes nothing else. QUEUE_CREATE from the management queue, with a disabled context queue,
LOG2SIZE 4 to 12, rings that are aligned and addressable and an aligned interrupt address, enables the queue with its
rings, its interrupt fields, indices 0 and PHASE 1. QUEUE_DELETE of a queue that is disabled or empty leaves it
disabled and completes; of another one it waits; a queue whose context is RUNNING or STOPPING fails with event 0x1009,
and nothing else changes. COMPANION_MAP of an aligned range of the window that overlaps no grant adds the grant; with
neither permission it fails with event 0x1009. COMPANION_UNMAP of a grant in which no descriptor, ring or spilled
handle lies removes it. (R413, R425, R427, R428, R559, 14_yoke_commands.md) -/
def Obligations.AdministrationCommandsAct : Prop :=
  ∀ (c : Ici) (s : State),
    (performs 0x0104 c false s → ∃ t, exec (.iciNop c) s = .next t ∧ sameStore s t ∧ onlyAnswered s t ∧ succeeds 0x0104 c s t)
    ∧ (performs 0x0101 c false s →
        let n := payBits c.p 0 0 3
        let log2 := payBits c.p 1 0 4
        let x := s.dev.queue n
        c.q = 8 → x.enable = false → s.dev.ringsOk (pay c.p 8 8) (pay c.p 16 8) log2 = true → pay c.p 24 8 % 4 = 0 →
        ∃ t, exec (.queueCreate c) s = .next t ∧ sameStore s t ∧ t.dev = { s.dev with queues := t.dev.queues }
          ∧ t.dev.queue n = { x with
              enable := true, error := false, tail := 0, head := 0, cqHead := 0, cqTail := 0, phase := true, sqBase := pay c.p 8 8
              cqBase := pay c.p 16 8, log2 := log2, irqAll := bitOf c.p 16, irqAddr := BitVec.ofNat 64 (pay c.p 24 8)
              irqData := BitVec.ofNat 32 (pay c.p 32 4) }
          ∧ ended 0x0101 c 0 0 t ∧ ∀ j, j ≠ n → j ≠ 8 → t.dev.queue j = s.dev.queue j)
    ∧ (performs 0x0102 c false s →
        let n := payBits c.p 0 0 3
        let k := Ici.pend 0x0102 c
        c.q = 8 → (∀ j, s.dev.deleting j = false) →
        ((s.dev.ctx n).live = false → (s.dev.queue n).enable = false ∨ s.dev.queueEmpty n = true →
          ∃ t, exec (.queueDelete c) s = .next t ∧ sameStore s t ∧ t.dev = { s.dev with queues := t.dev.queues }
            ∧ (t.dev.queue n).enable = false ∧ ended 0x0102 c 0 0 t)
        ∧ ((s.dev.ctx n).live = false → (s.dev.queue n).enable = true → s.dev.queueEmpty n = false →
          ∃ t, exec (.queueDelete c) s = .next t ∧ sameStore s t ∧ t.dev.opens = s.dev.opens ++ [⟨k, .queueDelete n⟩]
            ∧ taken 0x0102 c s t)
        ∧ ((s.dev.ctx n).live = true →
          ∃ t, exec (.queueDelete c) s = .next t ∧ sameStore s t ∧ answers 0x0102 c 1 0x1009 0 0 s t ∧ recorded 0x1009 none [0x0102, 0] s t))
    ∧ (performs 0x0106 c false s →
        let a := pay c.p 0 8
        let n := pay c.p 8 4
        a % 4096 = 0 → inCompanion a (n * 4096) = true → 1 ≤ n → n ≤ 2 ^ 28 → (∀ g ∈ s.dev.grants, g.overlaps a (n * 4096) = false) →
        s.dev.grants.length < 1024 →
        (payBits c.p 12 0 2 ≠ 0 → ∃ t, exec (.companionMap c) s = .next t ∧ sameStore s t ∧ succeeds 0x0106 c s t
          ∧ t.dev = { s.dev with queues := t.dev.queues, grants := s.dev.grants ++ [⟨a, n, bitOf c.p 96, bitOf c.p 97⟩] })
        ∧ (payBits c.p 12 0 2 = 0 → ∃ t, exec (.companionMap c) s = .next t ∧ sameStore s t ∧ t.dev.grants = s.dev.grants
          ∧ answers 0x0106 c 1 0x1009 0 0 s t ∧ recorded 0x1009 none [0x0106, 12] s t))
    ∧ (performs 0x0107 c false s → ∀ g ∈ s.dev.grants, g.base = pay c.p 0 8 → (∀ h ∈ s.dev.grants, h.base = g.base → h = g) →
        let d := s.dev.takeAccepted 0x0107 c
        let n := g.units * 4096
        d.descTouches g.base n = false → d.ringTouches g.base n = false → d.spillTouches g.base n = false →
        ∃ t, exec (.companionUnmap c) s = .next t ∧ sameStore s t ∧ succeeds 0x0107 c s t
          ∧ t.dev = { s.dev with queues := t.dev.queues, grants := s.dev.grants.filter fun h => h.base != g.base })

/-- DESC_CREATE of at most 256 entries at free indices below 32,768 puts every descriptor that passes its checks at
its index and changes no other entry; when one fails, none is created, and the command fails with the event of its
check, the index in DETAIL and the event's payload. DESC_DESTROY of entries that no pair and no live context names,
while nothing is launched and no other command is open, leaves them empty and completes. PAIR_CREATE of two native
descriptors that satisfy every rule of R215 and overlap in at most 4 MiB fills its entry with payload bytes 0 to 15.
COMPAT_MAP maps each page of its range to its 2 MiB of the target when every one is allowed; COMPAT_UNMAP removes the
pages of its range and no other, and fails with event 0x2011 when the range is not below 524,288. (R201, R205, R207, R208, R215, R217, R225, R226, 07_tensors.md) -/
def Obligations.DescriptorCommandsAct : Prop :=
  ∀ (c : Ici) (s : State),
    (performs 0x0201 c (inSpools (pay c.p 0 8) && pay c.p 10 2 != 0) s →
      let d := s.dev.takeAccepted 0x0201 c
      let first := pay c.p 8 2
      let count := pay c.p 10 2
      let xs := fun (l : List Byte) (i : Nat) => (BitVec.ofNat 512 (leAt l (64 * i) 64) : Desc)
      let fault := fun (x : Desc) => if bitOf c.p 96 then forerunnerFault x else d.nativeFault x
      ∀ l, count ≤ 256 → readable s d (pay c.p 0 8) (64 * count) 64 l → first + count ≤ 32768 →
        (∀ i, first ≤ i → i < first + count → has s.dev.descs i = false) →
        ((∀ i, i < count → fault (xs l i) = none) →
          ∃ t, exec (.descCreate c) s = .next t ∧ sameStore s t ∧ succeeds 0x0201 c s t
            ∧ t.dev = { s.dev with queues := t.dev.queues, descs := t.dev.descs }
            ∧ (∀ i, i < count → get? t.dev.descs (first + i) = some (if bitOf c.p 96 then .forerunner (xs l i) else .native (xs l i)))
            ∧ ∀ i, i < first ∨ first + count ≤ i → get? t.dev.descs i = get? s.dev.descs i)
        ∧ (∀ i f, i < count → (∀ j, j < i → fault (xs l j) = none) → fault (xs l i) = some f →
          ∃ t, exec (.descCreate c) s = .next t ∧ sameStore s t ∧ t.dev.descs = s.dev.descs
            ∧ answers 0x0201 c 1 f.1 (BitVec.ofNat 32 (first + i)) 0 s t ∧ recorded f.1 none (((first + i : Nat) : Int) :: f.2) s t))
    ∧ (performs 0x0202 c false s →
        let first := pay c.p 0 2
        let count := pay c.p 2 2
        first + count ≤ 32768 → (∀ i, first ≤ i → i < first + count → s.dev.descUser i = none) → s.dev.allActs = [] →
        s.dev.dying = [] → s.dev.opens = [] →
        ∃ t, exec (.descDestroy c) s = .next t ∧ sameStore s t ∧ succeeds 0x0202 c s t
          ∧ t.dev = { s.dev with queues := t.dev.queues, descs := t.dev.descs }
          ∧ (∀ i, first ≤ i → i < first + count → get? t.dev.descs i = none)
          ∧ ∀ i, i < first ∨ first + count ≤ i → get? t.dev.descs i = get? s.dev.descs i)
    ∧ (performs 0x0204 c false s → ∀ (x y : Desc),
        let i := pay c.p 0 2
        i < 32768 → pay c.p 2 2 < 32768 → pay c.p 4 2 < 32768 → has s.dev.descs i = false →
        get? s.dev.descs (pay c.p 2 2) = some (.native x) → get? s.dev.descs (pay c.p 4 2) = some (.native y) →
        (∀ b ∈ pairRules x y (payBits c.p 6 0 18), b = true) → overlapBytes x y ≤ 4194304 →
        ∃ t, exec (.pairCreate c) s = .next t ∧ sameStore s t ∧ succeeds 0x0204 c s t
          ∧ t.dev = { s.dev with queues := t.dev.queues, descs := t.dev.descs }
          ∧ get? t.dev.descs i = some (.pair (BitVec.ofNat 128 (fld c.p 0 128))) ∧ ∀ j, j ≠ i → get? t.dev.descs j = get? s.dev.descs j)
    ∧ (performs 0x0205 c false s →
        let d := s.dev.takeAccepted 0x0205 c
        let first := pay c.p 0 4
        let count := pay c.p 4 4
        let at' := fun (q : Nat) => pay c.p 8 8 + (q - first) * 2097152
        pay c.p 8 8 % 2097152 = 0 → first + count ≤ 524288 →
        (∀ q, first ≤ q → q < first + count → d.placed (at' q) (at' q + 2097152 - 1) (bitOf c.p 129) = true) →
        ∃ t, exec (.compatMap c) s = .next t ∧ sameStore s t ∧ succeeds 0x0205 c s t
          ∧ t.dev = { s.dev with queues := t.dev.queues, compat := t.dev.compat }
          ∧ (∀ q, first ≤ q → q < first + count → get? t.dev.compat q = some ⟨at' q, bitOf c.p 128, bitOf c.p 129⟩)
          ∧ ∀ q, q < first ∨ first + count ≤ q → get? t.dev.compat q = get? s.dev.compat q)
    ∧ (performs 0x0206 c false s →
        let first := pay c.p 0 4
        let count := pay c.p 4 4
        (first < 524288 → first + count ≤ 524288 → ∃ t, exec (.compatUnmap c) s = .next t ∧ sameStore s t ∧ succeeds 0x0206 c s t
          ∧ t.dev = { s.dev with queues := t.dev.queues, compat := t.dev.compat }
          ∧ (∀ q, first ≤ q → q < first + count → get? t.dev.compat q = none)
          ∧ ∀ q, q < first ∨ first + count ≤ q → get? t.dev.compat q = get? s.dev.compat q)
        ∧ (524288 ≤ first ∨ 524288 < first + count → ∃ t, exec (.compatUnmap c) s = .next t ∧ sameStore s t
          ∧ t.dev.compat = s.dev.compat ∧ answers 0x0206 c 1 0x2011 0 0 s t))

/-- SCHED_LOAD of an EMPTY context (no retirement being due, and no context held for one) from a readable image that passes every check
leaves it LOADED with that image and the handle numbers that it lists or maps, its declared Knots at COUNT 0 and GEN 0, its measurement and event 0x0002; an image that fails a check leaves the context
EMPTY and fails with the event of the check and its offset in DETAIL. SCHED_RUN of a LOADED context that passes its
checks and whose handle lists are placed leaves it RUNNING with its run base and step limit, at step 0, every stream
of its core map at its entry with GPRs S0 to S4 from the map, and takes the command until the run ends; a failed check
leaves it LOADED and fails with its event. SCHED_STOP of a context that does not run completes; mode 1, or an image
without a STEP_END Knot, ends a run at once; mode 0 with a STEP_END Knot leaves the context STOPPING. SCHED_UNLOAD
leaves a LOADED context EMPTY with event 0x0002, completes on an EMPTY one, and fails with event 0xE00B on another.
(R58, R148, R168, R171, R173, R174, R476, R533, R560, 05_instructions.md) -/
def Obligations.SchedulesLoadRunStopAndUnload : Prop :=
  ∀ (c : Ici) (s : State),
    (performs 0x0301 c true s → s.dev.accepting = false → s.dev.retireDue = [] → (∀ j, j < 8 → (s.dev.ctx j).rhold = none) →
      let d := s.dev.takeAccepted 0x0301 c
      let n := payBits c.p 12 0 3
      let a := pay c.p 0 8
      let len := pay c.p 8 4
      ∀ all h l, (s.dev.ctx n).st = .empty → readable s d a len 1 all → readable s d a (min len 256) 1 h → headerBad h len = none →
        readable s d a (leAt h 12 4) 1 l →
        (d.loadBad n l = none → ∃ t, exec (.schedLoad c) s = .next t ∧ sameStore s t ∧ succeeds 0x0301 c s t
          ∧ t.dev.ctx n = { Ctx.init with img := some { readImage l with owned := (readImage l).handleNums }, st := .loaded }
          ∧ get? t.dev.fw.mSched n = some (sha3Word l) ∧ recorded 0x0002 (some n) [0, 1, 0x0301] s t
          ∧ (((readImage l).knots.map (·.id)).Nodup → ∀ k ∈ (readImage l).knots,
              get? t.dev.knots k.id = some ⟨0, k.target, 0, k.barrier, k.stepEnd, k.absorb, n⟩))
        ∧ (∀ f, d.loadBad n l = some f → ∃ t, exec (.schedLoad c) s = .next t ∧ sameStore s t ∧ t.dev.ctx n = s.dev.ctx n
          ∧ answers 0x0301 c 1 f.ev (BitVec.ofNat 32 f.at') 0 s t ∧ recorded f.ev (some n) f.slots s t))
    ∧ (performs 0x0302 c true s →
      let d := s.dev.takeAccepted 0x0302 c
      let n := payBits c.p 0 0 3
      let base := pay c.p 8 8
      ∀ i, (s.dev.ctx n).st = .loaded → (s.dev.ctx n).img = some i →
        (d.runBad n base = none → (d.placeAll n i.wants []).2.2 = none →
          ∃ t, exec (.schedRun c) s = .next t ∧ t.pending = s.pending ∧ taken 0x0302 c s t ∧ recorded 0x0002 (some n) [1, 2, 0x0302] s t
            ∧ (t.dev.ctx n).st = .running ∧ (t.dev.ctx n).img = some i ∧ (t.dev.ctx n).runBase = base ∧ (t.dev.ctx n).step = 0
            ∧ (t.dev.ctx n).stepLimit = pay c.p 16 4 ∧ (t.dev.ctx n).runCmd = some (Ici.pend 0x0302 c)
            ∧ ((i.cores.map (·.core)).Nodup → ∀ e ∈ i.cores, ∀ x ∈ e.entries,
                let y := (t.dev.core e.core).stream x.1
                y.ctx = some n ∧ y.block = e.block ∧ y.pc = x.2 ∧ y.acts = []
                  ∧ y.s = ((List.range 5).zip e.s).foldl (fun t z => put t z.1 z.2) []))
        ∧ (∀ e, d.runBad n base = some e → ∃ t, exec (.schedRun c) s = .next t ∧ sameStore s t ∧ t.dev.ctx n = s.dev.ctx n
          ∧ answers 0x0302 c 1 e.1 0 0 s t ∧ recorded e.1 (some n) e.2 s t))
    ∧ (performs 0x0303 c false s →
      let n := payBits c.p 0 0 3
      let x := s.dev.ctx n
      let k := Ici.pend 0x0303 c
      (pay c.p 1 1 ≤ 1 → x.live = false → ∃ t, exec (.schedStop c) s = .next t ∧ sameStore s t ∧ onlyAnswered s t ∧ succeeds 0x0303 c s t)
      ∧ (pay c.p 1 1 = 1 → x.live = true → ∃ t, exec (.schedStop c) s = .next t ∧ t.pending = s.pending ∧ (t.dev.ctx n).live = false
          ∧ ended 0x0303 c 0 0 t)
      ∧ (pay c.p 1 1 = 0 → x.st = .running → x.stepEnd ≠ none → x.stop = none →
          ∃ t, exec (.schedStop c) s = .next t ∧ sameStore s t
            ∧ t.dev.ctx n = { x with st := .stopping, stop := some 0, stopCmds := x.stopCmds ++ [k] }
            ∧ ((∀ e ∈ s.dev.bastes, e.2.st = 1 → e.2.ctx ≠ n) → taken 0x0303 c s t))
      ∧ (pay c.p 1 1 = 0 → x.st = .running → x.stepEnd = none → ∃ t, exec (.schedStop c) s = .next t ∧ t.pending = s.pending
          ∧ (t.dev.ctx n).live = false ∧ ended 0x0303 c 0 0 t)
      ∧ (pay c.p 1 1 = 0 → x.st = .stopping →
          ∃ t, exec (.schedStop c) s = .next t ∧ sameStore s t ∧ taken 0x0303 c s t ∧ t.dev.ctx n = { x with stopCmds := x.stopCmds ++ [k] }))
    ∧ (performs 0x0304 c false s →
      let n := payBits c.p 0 0 3
      let x := s.dev.ctx n
      (x.st = .empty → ∃ t, exec (.schedUnload c) s = .next t ∧ sameStore s t ∧ onlyAnswered s t ∧ succeeds 0x0304 c s t)
      ∧ (x.st = .loaded → ∃ t, exec (.schedUnload c) s = .next t ∧ sameStore s t ∧ succeeds 0x0304 c s t ∧ t.dev.ctx n = Ctx.init
          ∧ (∀ e ∈ t.dev.knots, e.2.owner ≠ n) ∧ (∀ a ∈ t.dev.seq.assigns, a.ctx ≠ n) ∧ recorded 0x0002 (some n) [1, 0, 0x0304] s t)
      ∧ (x.live = true → ∃ t, exec (.schedUnload c) s = .next t ∧ sameStore s t ∧ t.dev.ctx n = x
          ∧ answers 0x0304 c 1 0xE00B 0 0 s t ∧ recorded 0xE00B (some n) [0x0304, x.st.num] s t))

/-- SPOOL_ALLOC of 1 to 293,888 units at an aligned free range, with frames, a region entry and, package-wide, SPOOL
0, adds the region, takes its frames, and with ZERO leaves every byte of it 0; else it fails with event 0x4010 and its
reason. SPOOL_FREE of a region that nothing uses removes it and gives its frames back; one in use fails with event
0x4011. CHAN_RETRAIN and CHAN_RETIRE on a Spool without a waiting request begin a Darning of the channel to the lowest
idle spare with event 0x4004, announce a retrain in place, or wait; a mode that cannot be met fails with event 0x4013.
CHAN_TEST of a physical channel below 34, with pattern 0 to 5, at least one pass and no RUNNING context (or a channel
out of service), writes its 64-byte record, whose STATUS follows from the words read back, and is recorded as event 0x400F; one that
cannot be tested reports STATUS 3 and no pass. (R322, R323, R325,
R327, R328, R340, R342, R345, R347, R348, R349, R352) -/
def Obligations.SpoolCommandsAct : Prop :=
  ∀ (c : Ici) (s : State),
    (performs 0x0401 c (bitOf c.p 97) s → memoryOk s →
      let d := s.dev.takeAccepted 0x0401 c
      let a := pay c.p 0 8
      let units := pay c.p 8 4
      let spool := if payBits c.p 12 0 1 = 1 then some (payBits c.p 13 0 3) else none
      1 ≤ units → units ≤ 293888 → (payBits c.p 12 0 1 = 0 → payBits c.p 13 0 3 = 0) →
      (d.allocFault a units spool = none → ∃ t, exec (.spoolAlloc c) s = .next t ∧ t.pending = s.pending ∧ succeeds 0x0401 c s t
        ∧ t.dev.regions = s.dev.regions ++ [⟨a, units, spool⟩] ∧ memSame a (units * 2097152) s t
        ∧ (∀ m, m < 8 → (t.dev.spool m).free = (s.dev.spool m).free - framesIn units spool m)
        ∧ (bitOf c.p 97 = true → ∀ x, a ≤ x → x < a + units * 2097152 → t.store.mem.byte x = 0))
      ∧ (∀ why, d.allocFault a units spool = some why → ∃ t, exec (.spoolAlloc c) s = .next t ∧ sameStore s t
        ∧ t.dev.regions = s.dev.regions ∧ answers 0x0401 c 1 0x4010 0 0 s t
        ∧ recorded 0x4010 none [a, units, payBits c.p 12 0 1, payBits c.p 13 0 3, why] s t))
    ∧ (performs 0x0402 c false s → ∀ r, s.dev.regions.find? (fun r => r.base == pay c.p 0 8) = some r →
      let d := s.dev.takeAccepted 0x0402 c
      (d.regionUse r = none → ∃ t, exec (.spoolFree c) s = .next t ∧ sameStore s t ∧ succeeds 0x0402 c s t
        ∧ t.dev.regions = s.dev.regions.filter (fun x => x.base != r.base)
        ∧ (∀ m, m < 8 → (t.dev.spool m).free = (s.dev.spool m).free + framesIn r.units r.spool m))
      ∧ (∀ u, d.regionUse r = some u → ∃ t, exec (.spoolFree c) s = .next t ∧ sameStore s t ∧ t.dev.regions = s.dev.regions
        ∧ answers 0x0402 c 1 0x4011 0 0 s t ∧ recorded 0x4011 none [r.base, u] s t))
    ∧ (∀ f ∈ ([(0x0404, Instr.chanRetrain, false), (0x0405, Instr.chanRetire, true)] : List (Nat × (Ici → Instr) × Bool)),
      performs f.1 c true s →
      let m := payBits c.p 0 0 3
      let l := pay c.p 1 1
      let r : ChanReq := ⟨l, f.2.2, if f.2.2 then 0 else pay c.p 2 1, true⟩
      let x := s.dev.spool m
      l < 32 → r.mode ≤ 2 → x.waiting = [] →
      (s.dev.chanChoice m r = 0 → ∃ t, exec (f.2.1 c) s = .next t ∧ sameStore s t ∧ taken f.1 c s t ∧ (t.dev.spool m).waiting = [r]
        ∧ t.dev.opens = s.dev.opens ++ [⟨Ici.pend f.1 c, .channel m l⟩])
      ∧ (s.dev.chanChoice m r = 1 → ∃ t y, exec (f.2.1 c) s = .next t ∧ sameStore s t ∧ taken f.1 c s t ∧ (t.dev.spool m).waiting = []
        ∧ t.dev.opens = s.dev.opens ++ [⟨Ici.pend f.1 c, .channel m l⟩]
        ∧ (t.dev.spool m).darn = some y ∧ y.logical = l ∧ y.src = x.phys l ∧ y.tgt = x.spares.headD 0 ∧ y.retire = f.2.2
        ∧ recorded 0x4004 none [m, l, x.phys l, (x.spares.headD 0 : Nat), boolN f.2.2] s t)
      ∧ (s.dev.chanChoice m r = 2 → s.dev.nearColls = [] → ∃ t y, exec (f.2.1 c) s = .next t ∧ sameStore s t
        ∧ (t.dev.spool m).waiting = [] ∧ (t.dev.spool m).inplace = some y ∧ y.logical = l
        ∧ s.dev.tape.now + 100000 ≤ y.notice ∧ y.notice ≤ s.dev.tape.now + 200000
        ∧ t.dev.opens = s.dev.opens ++ [⟨Ici.pend f.1 c, .channel m l⟩])
      ∧ (s.dev.chanChoice m r = 3 → ∃ t, exec (f.2.1 c) s = .next t ∧ sameStore s t ∧ answers f.1 c 1 0x4013 0 0 s t
        ∧ (t.dev.spool m).waiting = [] ∧ recorded 0x4013 none [f.1, if f.2.2 then 1 else 2] s t))
    ∧ (performs 0x0406 c true s → memoryOk s → ∀ (reads : List TestRead),
      let d := s.dev.takeAccepted 0x0406 c
      let m := payBits c.p 0 0 3
      let ph := pay c.p 1 1
      let x := s.dev.spool m
      let res := testFinds (pay c.p 2 1) (reads.filter (·.pass < pay c.p 3 1))
      let st := if x.untestable ph then 3 else if res.uncorrectable ≠ 0 then 2 else if res.rawBits ≠ 0 then 1 else 0
      ph < 34 → pay c.p 2 1 ≤ 5 → 1 ≤ pay c.p 3 1 → x.logical ph = none ∨ s.dev.runningCtxs = [] →
      writable d (pay c.p 8 8) 64 → ∃ t l, exec (.chanTest c reads) s = .next t ∧ t.pending = s.pending ∧ succeeds 0x0406 c s t
        ∧ wrote (pay c.p 8 8) l s t ∧ l.length = 64 ∧ leAt l 0 1 = pay c.p 2 1 ∧ leAt l 1 1 = (if x.untestable ph then 0 else pay c.p 3 1) ∧ leAt l 2 1 = st
        ∧ recordedAny 0x400F s t)

/-- FAB_CONFIG without a RUNNING context sets device ID and forwarding. ROUTE_SET of entries with at most 4 Seams sets
the entries of its range and no other. SEAM_CTRL disables a Seam (down, state 0), lets a disabled one train with its
mode, retrains a named lane of a Seam of at least three lanes, or sets polarity. REMOTE_MAP adds or replaces the range
of a base that fits, and with size 0 removes it; EXPORT_SET sets or removes a window; TAPE_REF_SET sets the four
references; COLL_PLAN_LOAD of a plan without a fault puts it at its index, and one with a fault fails with event
0x5011; COLL_PLAN_UNLOAD removes its idle plans and no other; COLL_EPOCH_SET of a LOADED context sets its epoch, and
of another fails with event 0x5012. (R356, R361, R367, R374, R377, R379, R397, 12_seams.md) -/
def Obligations.FabricCommandsAct : Prop :=
  ∀ (c : Ici) (s : State),
    (performs 0x0501 c false s → s.dev.runningCtxs = [] → pay c.p 0 2 ≠ 0xFFFF →
      ∃ t, exec (.fabConfig c) s = .next t ∧ sameStore s t ∧ succeeds 0x0501 c s t ∧ t.dev.fab.deviceId = BitVec.ofNat 16 (pay c.p 0 2)
        ∧ t.dev.fab.forwarding = bitOf c.p 16 ∧ t.dev.ctxs = s.dev.ctxs)
    ∧ (performs 0x0502 c (inSpools (pay c.p 8 8)) s → ∀ l,
      let d := s.dev.takeAccepted 0x0502 c
      let first := pay c.p 0 2
      let n := pay c.p 2 2
      let e := fun (i : Nat) => (BitVec.ofNat 32 (leAt l (4 * i) 4) : W32)
      first + n ≤ 65536 → readable s d (pay c.p 8 8) (4 * n) 64 l → (∀ i, i < n → fld (e i) 24 3 ≤ 4 ∧ fld (e i) 27 5 = 0) →
      ∃ t, exec (.routeSet c) s = .next t ∧ sameStore s t ∧ succeeds 0x0502 c s t
        ∧ (∀ i, i < n → getD t.dev.fab.routes (first + i) 0 = e i)
        ∧ (∀ i, i < first ∨ first + n ≤ i → get? t.dev.fab.routes i = get? s.dev.fab.routes i)
        ∧ (∀ x ∈ t.dev.fab.lost, x < first ∨ first + n ≤ x))
    ∧ (performs 0x0503 c false s →
      let p := pay c.p 0 1
      let act := pay c.p 1 1
      let x := s.dev.seam p
      p < 64 →
      (act = 0 → ∃ t, exec (.seamCtrl c) s = .next t ∧ t.pending = s.pending ∧ (t.dev.seam p).st = 0 ∧ ended 0x0503 c 0 0 t)
      ∧ (act = 1 → x.st = 0 → ∃ t, exec (.seamCtrl c) s = .next t ∧ sameStore s t ∧ succeeds 0x0503 c s t
        ∧ t.dev.seam p = { x with st := 1, mode := payBits c.p 3 0 1, tried := s.dev.tape.now, reported := false }
        ∧ ∀ j, j ≠ p → t.dev.seam j = s.dev.seam j)
      ∧ (act = 1 → x.st ≠ 0 → ∃ t, exec (.seamCtrl c) s = .next t ∧ sameStore s t ∧ succeeds 0x0503 c s t ∧ t.dev.seam p = x)
      ∧ (∀ lane : Fin 4, act = 2 → payBits c.p 2 0 4 = 2 ^ lane.val → x.up = true → bitOf x.active lane.val = true → 3 ≤ x.width →
        x.retrain = none → x.laneq = [] → s.dev.nearColls = [] →
        ∃ t, exec (.seamCtrl c) s = .next t ∧ sameStore s t ∧ (t.dev.seam p).up = true ∧ bitOf (t.dev.seam p).active lane.val = false
          ∧ (t.dev.seam p).retrain = some (lane.val, s.dev.tape.now) ∧ recorded 0x5001 none [p, lane.val, 3] s t ∧ ended 0x0503 c 0 0 t)
      ∧ (act = 3 → ∃ t, exec (.seamCtrl c) s = .next t ∧ sameStore s t ∧ succeeds 0x0503 c s t
        ∧ t.dev.seam p = { x with pol := BitVec.ofNat 4 (payBits c.p 2 0 4) }))
    ∧ (performs 0x0505 c false s →
      let a := pay c.p 0 8
      let units := pay c.p 8 4
      let others := s.dev.remotes.filter fun r => r.base != a
      let held := s.dev.remotes.any fun r => r.base == a
      (units = 0 → held = true → ∃ t, exec (.remoteMap c) s = .next t ∧ sameStore s t ∧ succeeds 0x0505 c s t
        ∧ t.dev = { s.dev with queues := t.dev.queues, remotes := others })
      ∧ (units ≠ 0 → a % 2097152 = 0 → s.dev.remoteFits a units = true → held = true ∨ s.dev.remotes.length < 64 →
        pay c.p 12 2 ≠ 0xFFFF → pay c.p 12 2 ≠ s.dev.fab.deviceId.toNat → pay c.p 16 8 % 2097152 = 0 →
        pay c.p 16 8 + units * 2097152 ≤ 2 ^ 52 → ∃ t, exec (.remoteMap c) s = .next t ∧ sameStore s t ∧ succeeds 0x0505 c s t
        ∧ t.dev = { s.dev with queues := t.dev.queues, remotes := others ++ [⟨a, units, pay c.p 12 2, bitOf c.p 112, bitOf c.p 113, pay c.p 16 8⟩] }))
    ∧ (performs 0x0506 c false s → pay c.p 0 8 % 2097152 = 0 → pay c.p 0 8 + pay c.p 8 4 * 2097152 ≤ 2 ^ 52 → pay c.p 17 1 < 64 →
      let w := pay c.p 17 1
      ∃ t, exec (.exportSet c) s = .next t ∧ sameStore s t ∧ succeeds 0x0506 c s t
        ∧ t.dev = { s.dev with queues := t.dev.queues, exports := t.dev.exports }
        ∧ get? t.dev.exports w = (if pay c.p 8 4 = 0 then none
            else some ⟨pay c.p 0 8, pay c.p 8 4, pay c.p 12 2, pay c.p 14 2, bitOf c.p 128, bitOf c.p 129⟩)
        ∧ ∀ j, j ≠ w → get? t.dev.exports j = get? s.dev.exports j)
    ∧ (performs 0x0507 c false s → ∃ t, exec (.tapeRefSet c) s = .next t ∧ sameStore s t ∧ succeeds 0x0507 c s t
        ∧ t.dev.fab.refs = [pay c.p 0 2, pay c.p 2 2, pay c.p 4 2, pay c.p 6 2])
    ∧ (performs 0x0508 c (inSpools (pay c.p 8 8)) s → ∀ l,
      let d := s.dev.takeAccepted 0x0508 c
      let i := pay c.p 0 2
      let n := payBits c.p 2 0 3
      let x := planOf n l
      i < 1024 → s.dev.planBusy i = false → 64 ≤ pay c.p 4 4 → pay c.p 4 4 ≤ 524344 → readable s d (pay c.p 8 8) (pay c.p 4 4) 1 l →
      (d.planFault i x l = none → ∃ t, exec (.collPlanLoad c) s = .next t ∧ sameStore s t ∧ succeeds 0x0508 c s t
        ∧ get? t.dev.fab.plans i = some x ∧ ∀ j, j ≠ i → get? t.dev.fab.plans j = get? s.dev.fab.plans j)
      ∧ (∀ f, d.planFault i x l = some f → ∃ t, exec (.collPlanLoad c) s = .next t ∧ sameStore s t ∧ t.dev.fab.plans = s.dev.fab.plans
        ∧ answers 0x0508 c 1 0x5011 0 0 s t ∧ recorded 0x5011 (some n) [i, f] s t))
    ∧ (performs 0x0509 c false s →
      let first := pay c.p 0 2
      let n := pay c.p 2 2
      first < 1024 → first + n ≤ 1024 → (∀ i, first ≤ i → i < first + n → s.dev.planBusy i = false) →
      ∃ t, exec (.collPlanUnload c) s = .next t ∧ sameStore s t ∧ succeeds 0x0509 c s t
        ∧ (∀ i, first ≤ i → i < first + n → get? t.dev.fab.plans i = none)
        ∧ ∀ i, i < first ∨ first + n ≤ i → get? t.dev.fab.plans i = get? s.dev.fab.plans i)
    ∧ (performs 0x050A c false s →
      let n := payBits c.p 0 0 3
      ((s.dev.ctx n).st = .loaded → ∃ t, exec (.collEpochSet c) s = .next t ∧ sameStore s t ∧ succeeds 0x050A c s t
        ∧ t.dev.ctx n = { s.dev.ctx n with epoch := pay c.p 2 2 } ∧ ∀ j, j ≠ n → t.dev.ctx j = s.dev.ctx j)
      ∧ ((s.dev.ctx n).st ≠ .loaded → ∃ t, exec (.collEpochSet c) s = .next t ∧ sameStore s t ∧ t.dev.ctxs = s.dev.ctxs
        ∧ answers 0x050A c 1 0x5012 0 0 s t ∧ recorded 0x5012 none [0x050A, 0] s t))

/-- POWER_STATE_SET to Idle ends Hold with event 0x6001 and changes nothing without Hold; to Hold enters it from Idle
when R534 allows, at 0.600 V with event 0x6001 and memory kept; to Off sets Off; what R534 forbids fails with event
0x600A. POWER_LIMIT_SET sets PLIMIT with event 0x6002. SHADOW_CONFIG, CONTAIN_CONFIG and CUTTER_ROTATE set what they
name; a rotation acts at once without a RUNNING context and else waits. ATTEST_REPORT writes the report over the
nonce. PATTERN_UPDATE and THIMBLE_UPDATE of an accepted image that no Cutter or root runs start the update, which
restarts the rank-1 standby or the lowest root. FLASH_WRITE of an accepted image that reads back well writes the slot
with event 0x800B. DIAG_AUTHORISE with an accepted token starts the diagnostic state with event 0x800D, and with
address 0 ends it. (R443, R444, R468, R490, R491, R494, R496, R497, R498, R530, R534, R552) -/
def Obligations.PowerShadowAndSecurityCommandsAct : Prop :=
  ∀ (c : Ici) (s : State),
    (performs 0x0601 c false s →
      let st := pay c.p 0 1
      (st = 1 → s.dev.power.hold = false →
        ∃ t, exec (.powerStateSet c) s = .next t ∧ sameStore s t ∧ onlyAnswered s t ∧ succeeds 0x0601 c s t)
      ∧ (st = 2 → s.dev.power.hold = true → ∃ t, exec (.powerStateSet c) s = .next t ∧ sameStore s t ∧ onlyAnswered s t
        ∧ succeeds 0x0601 c s t)
      ∧ (st = 1 → s.dev.power.hold = true → (∀ p, p < 64 → (s.dev.seam p).held = []) →
        ∃ t, exec (.powerStateSet c) s = .next t ∧ sameStore s t ∧ t.dev.power.hold = false ∧ t.dev.pace.vcore = 650
          ∧ recorded 0x6001 none [2, 1, 0] s t ∧ succeeds 0x0601 c s t)
      ∧ (st = 2 → s.dev.power.hold = false → s.dev.mayHold = true →
        ∃ t, exec (.powerStateSet c) s = .next t ∧ t.pending = s.pending ∧ memoryKept s t ∧ t.dev.power.hold = true ∧ t.dev.pace.vcore = 600
          ∧ recorded 0x6001 none [1, 2, 0] s t ∧ succeeds 0x0601 c s t)
      ∧ (st = 3 → s.dev.mayHold = true →
        ∃ t, exec (.powerStateSet c) s = .next t ∧ sameStore s t ∧ t.dev.power.off = true
          ∧ recorded 0x6001 none [s.dev.powerState, 3, 0] s t ∧ succeeds 0x0601 c s t)
      ∧ (st = 2 ∧ s.dev.power.hold = false ∨ st = 3 → s.dev.mayHold = false →
        ∃ t, exec (.powerStateSet c) s = .next t ∧ sameStore s t ∧ t.dev.power.hold = s.dev.power.hold ∧ t.dev.power.off = s.dev.power.off
          ∧ answers 0x0601 c 1 0x600A 0 0 s t ∧ recorded 0x600A none [0x0601, 0] s t))
    ∧ (performs 0x0602 c false s → 1200 ≤ pay c.p 0 4 → pay c.p 0 4 ≤ 2900 →
      ∃ t, exec (.powerLimitSet c) s = .next t ∧ sameStore s t ∧ t.dev.power.plimit = pay c.p 0 4
        ∧ recorded 0x6002 none [s.dev.power.plimit, pay c.p 0 4] s t ∧ succeeds 0x0602 c s t)
    ∧ (performs 0x0706 c false s → ∃ t, exec (.containConfig c) s = .next t ∧ sameStore s t ∧ succeeds 0x0706 c s t
        ∧ t.dev = { s.dev with queues := t.dev.queues, containReset := bitOf c.p 0 })
    ∧ (performs 0x0707 c false s → pay c.p 0 1 ≤ 20 → 1 ≤ pay c.p 2 2 → pay c.p 2 2 ≤ 255 → 1 ≤ pay c.p 4 2 → pay c.p 4 2 ≤ 255 →
      1 ≤ pay c.p 8 4 → pay c.p 8 4 ≤ 8760 → 10 ≤ pay c.p 12 4 → pay c.p 12 4 ≤ 1000000 →
      let x : ShadowSt := { s.dev.shadow with
        rate := pay c.p 0 1, idle := bitOf c.p 8, strikeLimit := pay c.p 2 2, unresLimit := pay c.p 4 2, window := pay c.p 8 4
        interval := pay c.p 12 4, seed := BitVec.ofNat 64 (pay c.p 16 8) }
      ∃ t, exec (.shadowConfig c) s = .next t ∧ t.pending = s.pending ∧ ended 0x0707 c 0 0 t
        ∧ ((∀ e ∈ s.dev.cores, e.2.strikes = []) → sameStore s t ∧ succeeds 0x0707 c s t
          ∧ t.dev = { s.dev with queues := t.dev.queues, shadow := x }))
    ∧ (performs 0x0708 c false s → pay c.p 2 2 ≤ 8760 →
      (pay c.p 0 1 = 1 → ∃ t, exec (.cutterRotate c) s = .next t ∧ sameStore s t ∧ succeeds 0x0708 c s t
        ∧ t.dev = { s.dev with queues := t.dev.queues, cutter := { s.dev.cutter with period := pay c.p 2 2 } })
      ∧ (∀ a b rest, pay c.p 0 1 = 0 → s.dev.fw.upd = none → s.dev.runningCtxs = [] → s.dev.cutter.active = some a →
        s.dev.standbys = b :: rest → ∃ t, exec (.cutterRotate c) s = .next t ∧ sameStore s t ∧ succeeds 0x0708 c s t
          ∧ t.dev.cutter.active = some b ∧ getD t.dev.cutter.st b 2 = 0 ∧ getD t.dev.cutter.st a 2 = 1
          ∧ recorded 0x7004 none [a, b, 0] s t)
      ∧ (pay c.p 0 1 = 0 → s.dev.fw.upd = none → s.dev.runningCtxs ≠ [] → ∃ t, exec (.cutterRotate c) s = .next t ∧ sameStore s t
        ∧ succeeds 0x0708 c s t ∧ t.dev = { s.dev with queues := t.dev.queues, cutter := { s.dev.cutter with rotDue := some 0 } }))
    ∧ (performs 0x0801 c (inSpools (pay c.p 8 8) || inSpools (pay c.p 16 8)) s → memoryOk s → ∀ nonce,
      let d := s.dev.takeAccepted 0x0801 c
      readable s d (pay c.p 8 8) 64 64 nonce → writable d (pay c.p 16 8) 5504 →
      ∃ t, exec (.attestReport c) s = .next t ∧ t.pending = s.pending ∧ succeeds 0x0801 c s t ∧ t.dev.fw.signs = s.dev.fw.signs + 1
        ∧ wrote (pay c.p 16 8) (d.attestReport (pay c.p 0 1) nonce) s t)
    ∧ (∀ l, let n := imgOf (imgBytes l)
      let u : Update := { thimble := false, new := n, old := s.dev.fw.pattern, persist := bitOf c.p 96, raiseSvn := bitOf c.p 97, fail := none, root := none }
      s.dev.updateFree = true →
      (performs 0x0803 c true s → readable s (s.dev.takeAccepted 0x0803 c) (pay c.p 0 8) (pay c.p 8 4) 64 l → s.dev.fw.imgReason l 2 = 0 →
        fitsPattern n s.dev.fw.pattern = true → n ≠ s.dev.fw.pattern → (∀ i, i < 4 → getD s.dev.fw.cutImg i .none ≠ n) →
        ∃ t, exec (.patternUpdate c) s = .next t ∧ sameStore s t ∧ taken 0x0803 c s t ∧ t.dev.fw.upd = some u
          ∧ t.dev.opens = s.dev.opens ++ [⟨Ici.pend 0x0803 c, .update⟩]
          ∧ ∀ b rest, s.dev.standbys = b :: rest → getD t.dev.cutter.st b 2 = 2 ∧ getD t.dev.fw.cutImg b .none = n)
      ∧ (∀ r, performs 0x0804 c true s → readable s (s.dev.takeAccepted 0x0804 c) (pay c.p 0 8) (pay c.p 8 4) 64 l → s.dev.fw.imgReason l 1 = 0 →
        (List.range 4).find? (fun i => bitOf s.dev.fw.roots i && getD s.dev.fw.rootImg i .none != n) = some r →
        ∃ t, exec (.thimbleUpdate c) s = .next t ∧ sameStore s t ∧ taken 0x0804 c s t
          ∧ t.dev.fw.upd = some { u with thimble := true, old := s.dev.thimbleImg, root := some r }
          ∧ t.dev.opens = s.dev.opens ++ [⟨Ici.pend 0x0804 c, .update⟩]))
    ∧ (performs 0x0805 c (inSpools (pay c.p 0 8)) s → ∀ l,
      let f := payBits c.p 12 0 1
      let slot := pay c.p 13 1
      let w := s.dev.fw.putImage f slot (imgBytes l)
      slot = 1 ∨ slot = 2 → f ≠ s.dev.fw.prefer → s.dev.fw.upd = none → bitOf c.p 112 = false →
      readable s (s.dev.takeAccepted 0x0805 c) (pay c.p 0 8) (pay c.p 8 4) 64 l → s.dev.fw.imgReason l slot = 0 →
      w.imgReason (w.slotBytes f slot) slot = 0 →
      ∃ t, exec (.flashWrite c) s = .next t ∧ sameStore s t ∧ succeeds 0x0805 c s t ∧ t.dev.fw = w
        ∧ recorded 0x800B none [f, slot, w.dirGen f, 0] s t)
    ∧ (performs 0x0806 c (inSpools (pay c.p 0 8)) s →
      (pay c.p 0 8 = 0 → pay c.p 8 4 = 0 → ∃ t, exec (.diagAuthorise c) s = .next t ∧ sameStore s t ∧ succeeds 0x0806 c s t
        ∧ t.dev.fw.diagEnd = none ∧ (s.dev.diag = true → t.dev.cr = CreaseSt.init ∧ recorded 0x800E none [1] s t))
      ∧ (∀ l, pay c.p 0 8 ≠ 0 → pay c.p 8 4 = 7296 → readable s (s.dev.takeAccepted 0x0806 c) (pay c.p 0 8) 7296 64 l →
        s.dev.tokenFault l 1 = none → ∃ t, exec (.diagAuthorise c) s = .next t ∧ sameStore s t ∧ succeeds 0x0806 c s t
          ∧ t.dev.fw.diagEnd = some (s.dev.tape.now + leAt l 12 4 * 1000000000) ∧ t.dev.fw.challenge = s.dev.fw.challenge + 1
          ∧ recorded 0x800D none [leAt l 12 4, s.dev.tokenKey l] s t))

/-- MB_TRIGGER_SET loads the entries of its range, which pass their checks, and no other, with event 0xD004. MB_CLEAR
with an accepted token keeps no record below the limit and records event 0xD003. TEST_RUN of a free target keeps a
record of the suites that apply and completes with RESULT 0 when each passes, with event 0xD00A, and else keeps a
failed one; ACTION 1 completes. For a LOADED context PRESS_SLOT_SET places its entries, PRESS_PROGRAM_SET its program
and CHALK_CONFIG its layers' fields; for a RUNNING one they wait for the boundary. SEQ_ASSIGN gives free slots to a
LOADED context at length 0; SEQ_RELEASE of whole assignments removes them; SEQ_STAGE queues a stage. A count of 0
completes and changes nothing. (R265, R286, R292, R295, R313, R318, R513, R517, R522, R523, R524) -/
def Obligations.RecorderTestPressAndSequenceCommandsAct : Prop :=
  ∀ (c : Ici) (s : State),
    (performs 0x0901 c (inSpools (pay c.p 8 8)) s → ∀ l,
      let d := s.dev.takeAccepted 0x0901 c
      let first := pay c.p 0 1
      let n := pay c.p 2 2
      first + n ≤ 256 →
      (n = 0 → ∃ t, exec (.mbTriggerSet c) s = .next t ∧ sameStore s t ∧ onlyAnswered s t ∧ succeeds 0x0901 c s t)
      ∧ (n ≠ 0 → readable s d (pay c.p 8 8) (160 * n) 64 l → (∀ i, i < n → trigFault (trigOf l i) = none) →
        ∃ t, exec (.mbTriggerSet c) s = .next t ∧ sameStore s t ∧ succeeds 0x0901 c s t
          ∧ (∀ i, i < n → get? t.dev.mb.trigs (first + i) = some (trigOf l i))
          ∧ (∀ i, i < first ∨ first + n ≤ i → get? t.dev.mb.trigs i = get? s.dev.mb.trigs i)
          ∧ recorded 0xD004 none [first, n, (t.dev.mb.trigs.filter fun e => trigEnabled e.2).length] s t))
    ∧ (performs 0x0903 c true s → ∀ l, pay c.p 8 4 = 7296 → readable s (s.dev.takeAccepted 0x0903 c) (pay c.p 0 8) 7296 64 l →
      s.dev.tokenFault l 2 = none →
      let lim := min (pay c.p 16 8) s.dev.mb.head
      ∃ t, exec (.mbClear c) s = .next t ∧ sameStore s t ∧ succeeds 0x0903 c s t ∧ (∀ r ∈ t.dev.mb.ring ++ t.dev.mb.region, lim ≤ r.seq)
        ∧ recorded 0xD003 none [s.dev.mbOldest, lim, s.dev.tokenKey l] s t)
    ∧ (performs 0x0904 c true s →
      let kind := pay c.p 0 1
      let number := pay c.p 2 2
      let run := (suitesOf kind).filter fun i => (pay c.p 4 4).testBit i
      kind ≤ 3 → number < targetCount kind → s.dev.targetFree kind number = true →
      (pay c.p 1 1 = 0 → ∃ t r, exec (.testRun c) s = .next t ∧ t.pending = s.pending ∧ ended 0x0904 c 0 0 t
        ∧ get? t.dev.tests (testKey kind number) = some r ∧ fld r 0 8 = kind ∧ fld r 16 16 = number ∧ fld r 32 32 = suiteMask run
        ∧ fld r 128 64 = s.dev.tape.now % 2 ^ 64
        ∧ ((∀ i ∈ run, Config.suitePass s.dev.mb.head kind number i = true) → fld r 8 8 = 0 ∧ memoryKept s t ∧ succeeds 0x0904 c s t
          ∧ ∃ us, recorded 0xD00A none [kind, number, suiteMask run, us] s t)
        ∧ ((∃ i ∈ run, Config.suitePass s.dev.mb.head kind number i = false) → fld r 8 8 = 1))
      ∧ (pay c.p 1 1 = 1 → kind = 0 → ∃ t, exec (.testRun c) s = .next t ∧ t.pending = s.pending ∧ ended 0x0904 c 0 0 t))
    ∧ (performs 0x0A01 c (inSpools (pay c.p 8 8)) s → ∀ l,
      let n := payBits c.p 0 0 3
      let first := pay c.p 1 1
      let cnt := pay c.p 2 1
      let x := s.dev.ctx n
      cnt ≠ 0 → first + cnt ≤ 64 → readable s (s.dev.takeAccepted 0x0A01 c) (pay c.p 8 8) (64 * cnt) 64 l → (∀ i, i < cnt → slotFault (entry512 l i) = none) →
      (x.st = .loaded → ∃ t, exec (.pressSlotSet c) s = .next t ∧ sameStore s t ∧ succeeds 0x0A01 c s t
        ∧ t.dev.ctx n = { x with slots := (t.dev.ctx n).slots }
        ∧ (∀ i, i < cnt → (getD (t.dev.ctx n).slots (first + i) ⟨0, 0, 0⟩) = { getD x.slots (first + i) ⟨0, 0, 0⟩ with e := entry512 l i })
        ∧ ∀ i, i < first ∨ first + cnt ≤ i → get? (t.dev.ctx n).slots i = get? x.slots i)
      ∧ (x.st = .running → ∃ t, exec (.pressSlotSet c) s = .next t ∧ sameStore s t ∧ succeeds 0x0A01 c s t
        ∧ t.dev.ctx n = { x with slotPend := x.slotPend ++ (List.range cnt).map fun i => (first + i, entry512 l i) }))
    ∧ (performs 0x0A02 c (inSpools (pay c.p 8 8)) s → ∀ l,
      let n := payBits c.p 0 0 3
      let i := pay c.p 1 1
      let e : BitVec 1536 := BitVec.ofNat 1536 (leNat l)
      let x := s.dev.ctx n
      i ≤ 15 → readable s (s.dev.takeAccepted 0x0A02 c) (pay c.p 8 8) 192 64 l → progFault e = none →
      (x.st = .loaded → ∃ t, exec (.pressProgramSet c) s = .next t ∧ sameStore s t ∧ succeeds 0x0A02 c s t
        ∧ t.dev.ctx n = { x with progs := put x.progs i e })
      ∧ (x.st = .running → ∃ t, exec (.pressProgramSet c) s = .next t ∧ sameStore s t ∧ succeeds 0x0A02 c s t
        ∧ t.dev.ctx n = { x with progPend := x.progPend ++ [(i, e)] }))
    ∧ (performs 0x0B01 c false s →
      let n := payBits c.p 0 0 3
      let first := pay c.p 1 1
      let cnt := pay c.p 2 2
      let name := fun (v : Nat) => if v = 0xFFFF then none else some v
      (s.dev.ctx n).st = .loaded → first + cnt ≤ 256 →
      (cnt = 0 → ∃ t, exec (.seqAssign c) s = .next t ∧ sameStore s t ∧ onlyAnswered s t ∧ succeeds 0x0B01 c s t)
      ∧ (cnt ≠ 0 → (∀ q, first ≤ q → q < first + cnt → s.dev.seq.assigned q = none) → 1 ≤ pay c.p 4 4 → pay c.p 4 4 < 2 ^ 31 →
        s.dev.mirrorFits (pay c.p 8 2) cnt = true → pay c.p 10 2 ≤ 4095 ∨ pay c.p 10 2 = 0xFFFF →
        pay c.p 12 2 + cnt - 1 ≤ 4095 ∨ pay c.p 12 2 = 0xFFFF → ∃ t, exec (.seqAssign c) s = .next t ∧ sameStore s t ∧ succeeds 0x0B01 c s t
          ∧ t.dev = { s.dev with queues := t.dev.queues, seq := t.dev.seq }
          ∧ t.dev.seq.assigns = s.dev.seq.assigns ++ [⟨n, first, cnt, pay c.p 4 4, name (pay c.p 8 2), name (pay c.p 10 2), name (pay c.p 12 2)⟩]
          ∧ (∀ q, first ≤ q → q < first + cnt → get? t.dev.seq.slots q = some ⟨0, 0, 0⟩)
          ∧ ∀ q, q < first ∨ first + cnt ≤ q → get? t.dev.seq.slots q = get? s.dev.seq.slots q))
    ∧ (performs 0x0B02 c false s →
      let n := payBits c.p 0 0 3
      let first := pay c.p 1 1
      let cnt := pay c.p 2 2
      (s.dev.ctx n).st = .empty ∨ (s.dev.ctx n).st = .loaded → first + cnt ≤ 256 → cnt = 0 ∨ s.dev.seq.coversWhole n first cnt = true →
      ∃ t, exec (.seqRelease c) s = .next t ∧ sameStore s t ∧ succeeds 0x0B02 c s t
        ∧ t.dev = { s.dev with queues := t.dev.queues, seq := t.dev.seq } ∧ t.dev.seq.slots = s.dev.seq.slots
        ∧ (cnt = 0 → t.dev.seq = s.dev.seq)
        ∧ (cnt ≠ 0 → t.dev.seq.assigns = s.dev.seq.assigns.filter fun a => !(first ≤ a.first && a.first < first + cnt)))
    ∧ (performs 0x0B03 c (inSpools (pay c.p 8 8)) s → ∀ l,
      let n := payBits c.p 0 0 3
      let cnt := pay c.p 4 2
      let x := s.dev.ctx n
      let es := stageEntries l cnt
      x.st = .loaded ∨ x.st = .running → cnt ≤ 256 →
      (cnt = 0 → ∃ t, exec (.seqStage c) s = .next t ∧ sameStore s t ∧ onlyAnswered s t ∧ succeeds 0x0B03 c s t)
      ∧ (cnt ≠ 0 → x.stages.length < 4 → readable s (s.dev.takeAccepted 0x0B03 c) (pay c.p 8 8) (16 * cnt) 64 l →
        s.dev.seq.stageFault n es = none → ∃ t, exec (.seqStage c) s = .next t ∧ sameStore s t ∧ succeeds 0x0B03 c s t
          ∧ t.dev.ctx n = { x with stages := x.stages ++ [es] }))
    ∧ (let x := s.dev.ctx (payBits c.p 0 0 3)
      x.st = .loaded ∨ x.st = .running →
      (performs 0x0A01 c (inSpools (pay c.p 8 8)) s → pay c.p 1 1 ≤ 64 → pay c.p 2 1 = 0 →
        ∃ t, exec (.pressSlotSet c) s = .next t ∧ sameStore s t ∧ onlyAnswered s t ∧ succeeds 0x0A01 c s t)
      ∧ (performs 0x0C01 c false s → pay c.p 2 2 ≤ 256 → pay c.p 4 2 = 0 →
        ∃ t, exec (.chalkConfig c) s = .next t ∧ sameStore s t ∧ onlyAnswered s t ∧ succeeds 0x0C01 c s t))
    ∧ (performs 0x0C01 c false s →
      let n := payBits c.p 0 0 3
      let first := pay c.p 2 2
      let cnt := pay c.p 4 2
      let x := s.dev.ctx n
      cnt ≠ 0 → first + cnt ≤ 256 → payBits c.p 6 0 4 ≤ 10 → unitRange (BitVec.ofNat 32 (pay c.p 8 4)) = true →
      notNeg (BitVec.ofNat 32 (pay c.p 12 4)) = true →
      (x.st = .loaded → ∃ t, exec (.chalkConfig c) s = .next t ∧ sameStore s t ∧ succeeds 0x0C01 c s t
        ∧ t.dev.ctx n = { x with chalk := (t.dev.ctx n).chalk }
        ∧ (∀ i, first ≤ i → i < first + cnt → getD (t.dev.ctx n).chalk i .init = { getD x.chalk i .init with
            al := payBits c.p 6 0 4, fb := bitOf c.p 56, missLimit := BitVec.ofNat 32 (pay c.p 8 4)
            eps := BitVec.ofNat 32 (pay c.p 12 4), minSample := pay c.p 16 4 })
        ∧ ∀ i, i < first ∨ first + cnt ≤ i → get? (t.dev.ctx n).chalk i = get? x.chalk i)
      ∧ (x.st = .running → ∃ t, exec (.chalkConfig c) s = .next t ∧ sameStore s t ∧ succeeds 0x0C01 c s t
        ∧ t.dev.ctx n = { x with chalkPend := x.chalkPend ++ [c.p] }))
end

