-- ==== Sys2Proof/Laws/Table.lean ====
section
/-! SUPPORT. The laws of the tables that the state is made of: a read after a write, and that the rising order of the
numbers is kept. -/

namespace Sys2Proof.Machine

variable {α : Type}

theorem get?_put_same (t : Tbl α) (n : Nat) (v : α) : get? (put t n v) n = some v := by
  induction t with
  | nil => simp [put, get?]
  | cons e t ih =>
    obtain ⟨k, x⟩ := e
    simp only [put]
    split
    · simp [get?]
    · split
      · simp [get?]
      · rename_i h
        simp [get?, Ne.symm h, ih]

theorem get?_put_ne (t : Tbl α) {n m : Nat} (v : α) (h : m ≠ n) : get? (put t n v) m = get? t m := by
  induction t with
  | nil => simp [put, get?, Ne.symm h]
  | cons e t ih =>
    obtain ⟨k, x⟩ := e
    simp only [put]
    split
    · simp [get?, Ne.symm h]
    · split
      · rename_i h1 h2
        subst h2
        simp [get?, Ne.symm h]
      · simp [get?, ih]

@[simp] theorem getD_put_same (t : Tbl α) (n : Nat) (v d : α) : getD (put t n v) n d = v := by
  simp [getD, get?_put_same]

theorem getD_put_ne (t : Tbl α) {n m : Nat} (v d : α) (h : m ≠ n) : getD (put t n v) m d = getD t m d := by
  simp [getD, get?_put_ne t v h]

theorem getD_put (t : Tbl α) (n m : Nat) (v d : α) : getD (put t n v) m d = if m = n then v else getD t m d := by
  by_cases h : m = n
  · subst h; simp
  · simp [h, getD_put_ne t v d h]

theorem put_put_same (t : Tbl α) (n : Nat) (v w : α) : put (put t n v) n w = put t n w := by
  induction t with
  | nil => simp [put]
  | cons e t ih =>
    obtain ⟨k, x⟩ := e
    simp only [put]
    split
    · simp [put]
    · split
      · simp [put]
      · rename_i h1 h2
        simp only [put, if_neg h1, if_neg h2, ih]

theorem get?_del_same (t : Tbl α) (n : Nat) : get? (del t n) n = none := by
  induction t with
  | nil => rfl
  | cons e t ih =>
    obtain ⟨k, x⟩ := e
    by_cases h : k = n
    · simpa [del, h] using ih
    · simpa [del, h, get?] using ih

theorem get?_del_ne (t : Tbl α) {n m : Nat} (h : m ≠ n) : get? (del t n) m = get? t m := by
  induction t with
  | nil => rfl
  | cons e t ih =>
    obtain ⟨k, x⟩ := e
    by_cases hk : k = n
    · subst hk
      simpa [del, get?, Ne.symm h] using ih
    · have hd : del ((k, x) :: t) n = (k, x) :: del t n := by simp [del, hk]
      rw [hd]
      simp only [get?, ih]

theorem replaceAt_length (l : List α) (n : Nat) (v : α) : (replaceAt l n v).length = l.length := by
  induction l generalizing n with
  | nil => rfl
  | cons x t ih => cases n <;> simp [replaceAt, ih]

theorem span_length (a n : Nat) : (span a n).length = n := by simp [span]

theorem mem_span {a n x : Nat} : x ∈ span a n ↔ a ≤ x ∧ x < a + n := by
  simp only [span, List.mem_map, List.mem_range]
  constructor
  · rintro ⟨i, hi, rfl⟩; omega
  · rintro ⟨h1, h2⟩; exact ⟨x - a, by omega, by omega⟩

theorem leBytes_length (n v : Nat) : (leBytes n v).length = n := by
  induction n generalizing v with
  | zero => rfl
  | succ n ih => simp [leBytes, ih]

theorem leNat_leBytes (n v : Nat) : leNat (leBytes n v) = v % 256 ^ n := by
  induction n generalizing v with
  | zero => simp [leBytes, leNat, Nat.mod_one]
  | succ n ih =>
    have h : v % 256 ^ (n + 1) = v % 256 + 256 * (v / 256 % 256 ^ n) := by
      rw [Nat.pow_succ, Nat.mul_comm (256 ^ n) 256, Nat.mod_mul]
    simp only [leBytes, leNat, ih, BitVec.toNat_ofNat, h]

end Sys2Proof.Machine
end

