-- ==== Sys2Proof/Laws/Memory.lean ====
section
/-! SUPPORT. The laws of the byte spaces: a read after a write, zeroing and undefining, and that every operation keeps
the canonical form. -/

namespace Sys2Proof.Machine

/-! ### Listed cells -/

theorem cellsWf_cons (k : Nat) (v : Byte) (t : List Host.Cell) :
    cellsWf ((k, v) :: t) = true ↔ v ≠ unlisted ∧ (∀ c ∈ t, k < c.1) ∧ cellsWf t = true := by
  induction t generalizing k v with
  | nil => simp [cellsWf]
  | cons e t ih =>
    obtain ⟨k', v'⟩ := e
    rw [cellsWf, Bool.and_eq_true, Bool.and_eq_true, bne_iff_ne, decide_eq_true_iff, ih]
    constructor
    · rintro ⟨⟨hv, hk⟩, hv', hl, ht⟩
      refine ⟨hv, ?_, hv', hl, ht⟩
      intro c hc
      rcases List.mem_cons.1 hc with rfl | hc
      · exact hk
      · exact Nat.lt_trans hk (hl c hc)
    · rintro ⟨hv, hl, hv', hl', ht⟩
      exact ⟨⟨hv, hl _ List.mem_cons_self⟩, hv', hl', ht⟩

theorem cellAt_below (l : List Host.Cell) (a : Nat) (h : ∀ c ∈ l, a < c.1) : cellAt l a = unlisted := by
  induction l with
  | nil => rfl
  | cons e t ih =>
    obtain ⟨k, v⟩ := e
    have hk : a < k := h _ List.mem_cons_self
    simp only [cellAt, if_neg (Nat.ne_of_gt hk)]
    exact ih fun c hc => h c (List.mem_cons_of_mem _ hc)

theorem setCell_bound (l : List Host.Cell) (a k : Nat) (b : Byte) (h : ∀ c ∈ l, k < c.1) (hk : k < a) :
    ∀ c ∈ setCell l a b, k < c.1 := by
  induction l with
  | nil =>
    intro c hc
    simp only [setCell] at hc
    split at hc
    · cases hc
    · simp only [List.mem_singleton] at hc; subst hc; exact hk
  | cons e t ih =>
    obtain ⟨k', v⟩ := e
    have h' : k < k' := h _ List.mem_cons_self
    have ht : ∀ c ∈ t, k < c.1 := fun c hc => h c (List.mem_cons_of_mem _ hc)
    intro c hc
    simp only [setCell] at hc
    split at hc <;> [split at hc; (split at hc <;> [split at hc; skip])] <;>
      try simp only [List.mem_cons] at hc
    · rcases hc with rfl | hc
      · exact h'
      · exact ht c hc
    · rcases hc with rfl | rfl | hc
      · exact hk
      · exact h'
      · exact ht c hc
    · exact ht c hc
    · rcases hc with rfl | hc
      · exact hk
      · exact ht c hc
    · rcases hc with rfl | hc
      · exact h'
      · exact ih ht c hc

theorem setCell_wf (l : List Host.Cell) (a : Nat) (b : Byte) (h : cellsWf l = true) : cellsWf (setCell l a b) = true := by
  induction l with
  | nil => simp only [setCell]; split <;> simp_all [cellsWf]
  | cons e t ih =>
    obtain ⟨k, v⟩ := e
    obtain ⟨hv, hl, ht⟩ := (cellsWf_cons k v t).1 h
    simp only [setCell]
    split
    · rename_i hak
      split
      · exact h
      · rename_i hb
        refine (cellsWf_cons a b _).2 ⟨hb, ?_, h⟩
        intro c hc
        rcases List.mem_cons.1 hc with rfl | hc
        · exact hak
        · exact Nat.lt_trans hak (hl c hc)
    · split
      · rename_i hak
        split
        · exact ht
        · rename_i hb
          exact (cellsWf_cons a b t).2 ⟨hb, by rw [hak]; exact hl, ht⟩
      · rename_i h1 h2
        exact (cellsWf_cons k v _).2 ⟨hv, setCell_bound t a k b hl (by omega), ih ht⟩

theorem cellAt_setCell (l : List Host.Cell) (a x : Nat) (b : Byte) (h : cellsWf l = true) :
    cellAt (setCell l a b) x = if x = a then b else cellAt l x := by
  induction l with
  | nil =>
    simp only [setCell]
    split
    · rename_i hb
      simp [cellAt, hb]
    · simp only [cellAt]
      by_cases hx : x = a
      · simp [hx]
      · simp [hx, Ne.symm hx]
  | cons e t ih =>
    obtain ⟨k, v⟩ := e
    obtain ⟨hv, hl, ht⟩ := (cellsWf_cons k v t).1 h
    simp only [setCell]
    split
    · rename_i hak
      split
      · rename_i hb
        by_cases hx : x = a
        · subst hx
          have hb' : ∀ c ∈ (k, v) :: t, x < c.1 := by
            intro c hc
            rcases List.mem_cons.1 hc with rfl | hc
            · exact hak
            · exact Nat.lt_trans hak (hl c hc)
          rw [cellAt_below _ _ hb', if_pos rfl, hb]
        · rw [if_neg hx]
      · by_cases hx : x = a
        · subst hx; simp [cellAt]
        · simp [cellAt, hx, Ne.symm hx]
    · split
      · rename_i h1 hak
        subst hak
        split
        · rename_i hb
          by_cases hx : x = a
          · subst hx
            rw [cellAt_below _ _ hl, if_pos rfl, hb]
          · simp [cellAt, hx, Ne.symm hx]
        · by_cases hx : x = a
          · subst hx; simp [cellAt]
          · simp [cellAt, hx, Ne.symm hx]
      · rename_i h1 h2
        simp only [cellAt, ih ht]
        by_cases hk : k = x
        · subst hk
          rw [if_pos rfl, if_neg (by omega), if_pos rfl]
        · simp [hk]

theorem setCell_mem (l : List Host.Cell) (a : Nat) (b : Byte) (c : Host.Cell) (h : c ∈ setCell l a b) :
    c ∈ l ∨ c.1 = a := by
  induction l with
  | nil =>
    simp only [setCell] at h
    split at h
    · cases h
    · simp only [List.mem_singleton] at h; subst h; exact .inr rfl
  | cons e t ih =>
    obtain ⟨k, v⟩ := e
    simp only [setCell] at h
    split at h <;> [split at h; (split at h <;> [split at h; skip])] <;>
      try simp only [List.mem_cons] at h
    · exact .inl (by simpa using h)
    · rcases h with rfl | h
      · exact .inr rfl
      · exact .inl (by simpa using h)
    · exact .inl (List.mem_cons_of_mem _ h)
    · rcases h with rfl | h
      · exact .inr rfl
      · exact .inl (List.mem_cons_of_mem _ h)
    · rcases h with rfl | h
      · exact .inl List.mem_cons_self
      · rcases ih h with h | h
        · exact .inl (List.mem_cons_of_mem _ h)
        · exact .inr h

theorem filter_cells_wf (l : List Host.Cell) (p : Host.Cell → Bool) (h : cellsWf l = true) : cellsWf (l.filter p) = true := by
  induction l with
  | nil => rfl
  | cons e t ih =>
    obtain ⟨k, v⟩ := e
    obtain ⟨hv, hl, ht⟩ := (cellsWf_cons k v t).1 h
    rw [List.filter_cons]
    split
    · exact (cellsWf_cons k v _).2 ⟨hv, fun c hc => hl c (List.mem_filter.1 hc).1, ih ht⟩
    · exact ih ht

theorem cellAt_filter (l : List Host.Cell) (p : Host.Cell → Bool) (q : Nat → Bool) (hp : ∀ c, p c = q c.1) (x : Nat) :
    cellAt (l.filter p) x = if q x then cellAt l x else unlisted := by
  induction l with
  | nil => simp [cellAt]
  | cons e t ih =>
    obtain ⟨k, v⟩ := e
    rw [List.filter_cons, hp]
    by_cases hk : k = x
    · subst hk
      by_cases hq : q k = true <;> simp [cellAt, hq, ih]
    · by_cases hq : q k = true <;> simp [cellAt, hq, hk, ih]

/-! ### Undefined ranges -/

theorem minus_mem {r r' : FreeRange} {lo len : Nat} (h : r' ∈ r.minus lo len) (hr : 0 < r.len) :
    0 < r'.len ∧ r'.n = r.n ∧ ∀ x, r'.holds x = true → r.holds x = true ∧ (x < lo ∨ lo + len ≤ x) := by
  simp only [FreeRange.minus] at h
  split at h
  · simp only [List.mem_singleton] at h
    subst h
    refine ⟨hr, rfl, fun x hx => ⟨hx, ?_⟩⟩
    simp only [FreeRange.holds, Bool.and_eq_true, decide_eq_true_eq] at hx
    omega
  · rw [List.mem_append] at h
    rcases h with h | h
    · split at h
      · simp only [List.mem_singleton] at h
        subst h
        simp only [FreeRange.holds, Bool.and_eq_true, decide_eq_true_eq]
        exact ⟨by omega, trivial, fun x hx => ⟨by omega, by omega⟩⟩
      · cases h
    · split at h
      · simp only [List.mem_singleton] at h
        subst h
        simp only [FreeRange.holds, Bool.and_eq_true, decide_eq_true_eq]
        exact ⟨by omega, trivial, fun x hx => ⟨by omega, by omega⟩⟩
      · cases h

theorem minus_find (r : FreeRange) (lo len x : Nat) (h : x < lo ∨ lo + len ≤ x) :
    ((r.minus lo len).find? (·.holds x)).map (·.n) = if r.holds x then some r.n else none := by
  simp only [FreeRange.minus]
  split
  · simp only [List.find?_cons, List.find?_nil]
    split <;> simp_all
  · simp only [FreeRange.holds, Bool.and_eq_true, decide_eq_true_eq]
    rw [List.find?_append]
    split <;> split <;> simp only [List.find?_cons, List.find?_nil, Option.or_none, Option.none_or] <;>
      (repeat' split) <;> simp_all <;> omega

/-- The content number that a byte of an undefined range has. -/
def freeAt (l : List FreeRange) (x : Nat) : Option Nat := (l.find? (·.holds x)).map (·.n)

theorem freeAt_nil (x : Nat) : freeAt [] x = none := rfl

theorem freeAt_append (l m : List FreeRange) (x : Nat) : freeAt (l ++ m) x = (freeAt l x).or (freeAt m x) := by
  simp only [freeAt, List.find?_append]
  cases l.find? (·.holds x) <;> simp

theorem freeAt_minus (l : List FreeRange) (lo len x : Nat) (h : x < lo ∨ lo + len ≤ x) :
    freeAt (l.flatMap (·.minus lo len)) x = freeAt l x := by
  induction l with
  | nil => rfl
  | cons r t ih =>
    rw [List.flatMap_cons, freeAt_append, ih]
    have := minus_find r lo len x h
    simp only [freeAt] at this ⊢
    rw [this, List.find?_cons]
    by_cases hr : r.holds x = true <;> simp [hr]

theorem freeAt_minus_in (l : List FreeRange) (lo len x : Nat) (hw : ∀ r ∈ l, 0 < r.len) (h : lo ≤ x ∧ x < lo + len) :
    freeAt (l.flatMap (·.minus lo len)) x = none := by
  simp only [freeAt, Option.map_eq_none_iff, List.find?_eq_none, List.mem_flatMap]
  rintro r' ⟨r, hr, hr'⟩ hx
  have := (minus_mem hr' (hw r hr)).2.2 x hx
  omega

theorem byte_eq (m : Mem) (x : Nat) :
    m.byte x = match freeAt m.free x with
      | some n => Config.freeByte n x
      | none => cellAt m.cells x := by
  simp only [Mem.byte, freeAt]
  cases m.free.find? (·.holds x) <;> rfl

/-! ### One byte space -/

theorem Mem.wf_iff (m : Mem) :
    m.wf = true ↔ cellsWf m.cells = true ∧ ∀ r ∈ m.free, 0 < r.len ∧ ∀ c ∈ m.cells, r.holds c.1 = false := by
  simp [Mem.wf]

theorem Mem.setByte_wf (m : Mem) (a : Nat) (b : Byte) (h : m.wf = true) : (m.setByte a b).wf = true := by
  obtain ⟨hc, hf⟩ := (Mem.wf_iff m).1 h
  refine (Mem.wf_iff _).2 ⟨setCell_wf _ _ _ hc, ?_⟩
  intro r' hr'
  obtain ⟨r, hr, hr'⟩ := List.mem_flatMap.1 hr'
  obtain ⟨h1, h2, h3⟩ := minus_mem hr' (hf r hr).1
  refine ⟨h1, fun c hcm => ?_⟩
  rw [Bool.eq_false_iff]
  intro hh
  have h4 := h3 c.1 hh
  rcases setCell_mem _ _ _ _ hcm with hm | hm
  · rw [(hf r hr).2 c hm] at h4; exact absurd h4.1 (by simp)
  · omega

theorem Mem.byte_setByte (m : Mem) (a x : Nat) (b : Byte) (h : m.wf = true) :
    (m.setByte a b).byte x = if x = a then b else m.byte x := by
  obtain ⟨hc, hf⟩ := (Mem.wf_iff m).1 h
  rw [byte_eq, byte_eq]
  by_cases hx : x = a
  · have h1 : freeAt (m.setByte a b).free x = none :=
      freeAt_minus_in _ _ _ _ (fun r hr => (hf r hr).1) (by omega)
    rw [h1, if_pos hx]
    simp [Mem.setByte, cellAt_setCell _ _ _ _ hc, hx]
  · have h1 : freeAt (m.setByte a b).free x = freeAt m.free x := freeAt_minus _ _ _ _ (by omega)
    rw [h1, if_neg hx]
    simp [Mem.setByte, cellAt_setCell _ _ _ _ hc, hx]

theorem Mem.write_wf (m : Mem) (a : Nat) (l : List Byte) (h : m.wf = true) : (m.write a l).wf = true := by
  induction l generalizing m a with
  | nil => exact h
  | cons b t ih => exact ih _ _ (m.setByte_wf a b h)

/-- A write changes the bytes it stores and no other. -/
theorem Mem.byte_write (m : Mem) (a x : Nat) (l : List Byte) (h : m.wf = true) :
    (m.write a l).byte x = if a ≤ x ∧ x < a + l.length then l.getD (x - a) 0 else m.byte x := by
  induction l generalizing m a with
  | nil =>
    have : ¬(a ≤ x ∧ x < a + 0) := by omega
    simp only [Mem.write, List.length_nil, if_neg this]
  | cons b t ih =>
    rw [Mem.write, ih _ _ (m.setByte_wf a b h), Mem.byte_setByte _ _ _ _ h]
    simp only [List.length_cons]
    by_cases hx : x = a
    · subst hx
      rw [if_neg (by omega), if_pos rfl, if_pos (by omega)]
      simp
    · rw [if_neg hx]
      by_cases h1 : a + 1 ≤ x ∧ x < a + 1 + t.length
      · rw [if_pos h1, if_pos (by omega)]
        have : x - a = (x - (a + 1)) + 1 := by omega
        rw [this, List.getD_cons_succ]
      · rw [if_neg h1, if_neg (by omega)]

theorem Mem.zero_wf (m : Mem) (lo len : Nat) (h : m.wf = true) : (m.zero lo len).wf = true := by
  obtain ⟨hc, hf⟩ := (Mem.wf_iff m).1 h
  refine (Mem.wf_iff _).2 ⟨filter_cells_wf _ _ hc, ?_⟩
  intro r' hr'
  obtain ⟨r, hr, hr'⟩ := List.mem_flatMap.1 hr'
  obtain ⟨h1, h2, h3⟩ := minus_mem hr' (hf r hr).1
  refine ⟨h1, fun c hcm => ?_⟩
  rw [Bool.eq_false_iff]
  intro hh
  have h4 := (h3 c.1 hh).1
  rw [(hf r hr).2 c (List.mem_filter.1 hcm).1] at h4
  exact absurd h4 (by simp)

theorem Mem.byte_zero (m : Mem) (lo len x : Nat) (h : m.wf = true) :
    (m.zero lo len).byte x = if lo ≤ x ∧ x < lo + len then 0 else m.byte x := by
  obtain ⟨hc, hf⟩ := (Mem.wf_iff m).1 h
  rw [byte_eq, byte_eq]
  have hcell : cellAt (m.zero lo len).cells x = if (x < lo || lo + len ≤ x) = true then cellAt m.cells x else unlisted :=
    cellAt_filter _ _ (fun y => y < lo || lo + len ≤ y) (fun _ => rfl) x
  by_cases hx : lo ≤ x ∧ x < lo + len
  · have h1 : freeAt (m.zero lo len).free x = none := freeAt_minus_in _ _ _ _ (fun r hr => (hf r hr).1) hx
    rw [h1, if_pos hx]
    simp only [hcell]
    rw [if_neg (by simp; omega)]
    rfl
  · have h1 : freeAt (m.zero lo len).free x = freeAt m.free x := freeAt_minus _ _ _ _ (by omega)
    rw [h1, if_neg hx, hcell, if_pos (by simp; omega)]

theorem Mem.undefine_wf (m : Mem) (lo len n : Nat) (h : m.wf = true) : (m.undefine lo len n).wf = true := by
  simp only [Mem.undefine]
  split
  · exact h
  · rename_i hl
    obtain ⟨hc, hf⟩ := (Mem.wf_iff _).1 (m.zero_wf lo len h)
    refine (Mem.wf_iff _).2 ⟨hc, ?_⟩
    intro r hr
    rcases List.mem_append.1 hr with hr | hr
    · exact hf r hr
    · simp only [List.mem_singleton] at hr
      subst hr
      refine ⟨by simp; omega, fun c hcm => ?_⟩
      have := (List.mem_filter.1 hcm).2
      simp only [FreeRange.holds, Bool.and_eq_false_iff, decide_eq_false_iff_not, Bool.or_eq_true, decide_eq_true_eq] at *
      omega

/-- Undefined content: the free value of its number inside the range, the old byte outside. -/
theorem Mem.byte_undefine (m : Mem) (lo len n x : Nat) (h : m.wf = true) :
    (m.undefine lo len n).byte x = if lo ≤ x ∧ x < lo + len then Config.freeByte n x else m.byte x := by
  obtain ⟨hc, hf⟩ := (Mem.wf_iff m).1 h
  by_cases hl : len = 0
  · simp only [Mem.undefine, if_pos hl]
    rw [if_neg (by omega)]
  · have hz := Mem.byte_zero m lo len x h
    rw [byte_eq] at hz ⊢
    have e1 : (m.undefine lo len n).free = (m.zero lo len).free ++ [⟨lo, len, n⟩] := by simp [Mem.undefine, hl]
    have e2 : (m.undefine lo len n).cells = (m.zero lo len).cells := by simp [Mem.undefine, hl]
    rw [e1, e2, freeAt_append]
    by_cases hx : lo ≤ x ∧ x < lo + len
    · have h1 : freeAt (m.zero lo len).free x = none := freeAt_minus_in _ _ _ _ (fun r hr => (hf r hr).1) hx
      rw [h1, if_pos hx]
      simp [freeAt, FreeRange.holds, hx]
    · have h2 : freeAt [(⟨lo, len, n⟩ : FreeRange)] x = none := by
        simp only [freeAt, List.find?_cons, List.find?_nil, FreeRange.holds]
        have : (decide (lo ≤ x) && decide (x < lo + len)) = false := by simp; omega
        rw [this]; rfl
      rw [h2, Option.or_none, if_neg hx]
      rw [if_neg hx] at hz
      exact hz

theorem Mem.read_length (m : Mem) (a n : Nat) : (m.read a n).length = n := by
  induction n generalizing a with
  | zero => rfl
  | succ n ih => simp [Mem.read, ih]

theorem Mem.read_getD (m : Mem) (a n i : Nat) (h : i < n) : (m.read a n).getD i 0 = m.byte (a + i) := by
  induction n generalizing a i with
  | zero => omega
  | succ n ih =>
    cases i with
    | zero => simp [Mem.read]
    | succ i =>
      rw [Mem.read, List.getD_cons_succ, ih _ _ (by omega)]
      congr 1; omega

/-- Two spaces that agree on a range read alike there. -/
theorem Mem.read_congr (m m' : Mem) (a n : Nat) (h : ∀ x, a ≤ x → x < a + n → m.byte x = m'.byte x) :
    m.read a n = m'.read a n := by
  induction n generalizing a with
  | zero => rfl
  | succ n ih =>
    rw [Mem.read, Mem.read, h a (by omega) (by omega), ih (a + 1) fun x h1 h2 => h x (by omega) (by omega)]

/-- Reading back what was written. -/
theorem Mem.read_write (m : Mem) (a : Nat) (l : List Byte) (h : m.wf = true) : (m.write a l).read a l.length = l := by
  apply List.ext_getElem
  · rw [Mem.read_length]
  · intro i h1 h2
    have := Mem.read_getD (m.write a l) a l.length i h2
    rw [Mem.byte_write _ _ _ _ h, if_pos (by omega)] at this
    simpa [List.getD_eq_getElem?_getD, h1, h2] using this

/-! ### The store -/

namespace Store

theorem wf_iff (s : Store) : s.wf = true ↔ s.mem.wf = true ∧ s.scratch.wf = true := by simp [wf]

theorem init_wf : Store.init.wf = true := by decide

theorem wrMem_wf (s : Store) (a : Nat) (l : List PB) (h : s.wf = true) : (s.wrMem a l).wf = true := by
  rw [wf_iff] at *; exact ⟨s.mem.write_wf _ _ h.1, h.2⟩

theorem wrScr_wf (s : Store) (a : Nat) (l : List PB) (h : s.wf = true) : (s.wrScr a l).wf = true := by
  rw [wf_iff] at *; exact ⟨h.1, s.scratch.write_wf _ _ h.2⟩

theorem zeroMem_wf (s : Store) (a n : Nat) (h : s.wf = true) : (s.zeroMem a n).wf = true := by
  rw [wf_iff] at *; exact ⟨s.mem.zero_wf _ _ h.1, h.2⟩

theorem zeroScr_wf (s : Store) (a n : Nat) (h : s.wf = true) : (s.zeroScr a n).wf = true := by
  rw [wf_iff] at *; exact ⟨h.1, s.scratch.zero_wf _ _ h.2⟩

theorem undefMem_wf (s : Store) (a n : Nat) (h : s.wf = true) : (s.undefMem a n).wf = true := by
  rw [wf_iff] at *; exact ⟨s.mem.undefine_wf _ _ _ h.1, h.2⟩

theorem undefScr_wf (s : Store) (a n : Nat) (h : s.wf = true) : (s.undefScr a n).wf = true := by
  rw [wf_iff] at *; exact ⟨h.1, s.scratch.undefine_wf _ _ _ h.2⟩

theorem lostScr_wf (s : Store) (a n : Nat) (h : s.wf = true) : (s.lostScr a n).wf = true := by
  rw [wf_iff] at *; exact ⟨h.1, s.scratch.undefine_wf _ _ _ h.2⟩

theorem poisonMem_wf (s : Store) (n : Nat) (h : s.wf = true) : (s.poisonMem n).wf = true := h
theorem poisonScr_wf (s : Store) (n : Nat) (h : s.wf = true) : (s.poisonScr n).wf = true := h

/-- A write to device memory stores its bytes and changes no other byte of either space. -/
theorem wrMem_byte (s : Store) (a x : Nat) (l : List PB) (h : s.wf = true) :
    (s.wrMem a l).mem.byte x = if a ≤ x ∧ x < a + l.length then (l.map (·.1)).getD (x - a) 0 else s.mem.byte x := by
  have := Mem.byte_write s.mem a x (l.map (·.1)) ((wf_iff s).1 h).1
  simpa [wrMem] using this

theorem wrMem_scratch (s : Store) (a : Nat) (l : List PB) : (s.wrMem a l).scratch = s.scratch := rfl

theorem wrScr_byte (s : Store) (a x : Nat) (l : List PB) (h : s.wf = true) :
    (s.wrScr a l).scratch.byte x = if a ≤ x ∧ x < a + l.length then (l.map (·.1)).getD (x - a) 0 else s.scratch.byte x := by
  have := Mem.byte_write s.scratch a x (l.map (·.1)) ((wf_iff s).1 h).2
  simpa [wrScr] using this

theorem wrScr_mem (s : Store) (a : Nat) (l : List PB) : (s.wrScr a l).mem = s.mem := rfl

end Store

end Sys2Proof.Machine
end

