-- ==== Sys2Proof/Laws/Store.lean ====
section
/-! SUPPORT. The canonical form of the byte spaces through the ways in which operations on a box are put together. -/

namespace Sys2Proof.Machine

/-- Both byte spaces are in canonical form. -/
def Box.good (b : Box) : Prop := b.store.wf = true

theorem Box.onD_good (b : Box) (f : Dev → Dev) (h : b.good) : (b.onD f).good := h

theorem Box.onS_good (b : Box) (f : Store → Store) (h : b.good) (hf : ∀ s : Store, s.wf = true → (f s).wf = true) :
    (b.onS f).good := hf _ h

theorem ite_good (c : Prop) [Decidable c] (x y : Box) (hx : x.good) (hy : y.good) : (if c then x else y).good := by
  split <;> assumption

theorem foldl_good {α : Type} (l : List α) (f : Box → α → Box) (b : Box) (h : b.good)
    (hf : ∀ b a, b.good → (f b a).good) : (l.foldl f b).good := by
  induction l generalizing b with
  | nil => exact h
  | cons a t ih => exact ih _ (hf b a h)

theorem elim_good {α : Type} (o : Option α) (b : Box) (f : α → Box) (h : b.good) (hf : ∀ a, (f a).good) :
    (o.elim b f).good := by
  cases o
  · exact h
  · exact hf _

theorem Store.foldl_wf {α : Type} (l : List α) (f : Store → α → Store) (s : Store) (h : s.wf = true)
    (hf : ∀ s a, s.wf = true → (f s a).wf = true) : (l.foldl f s).wf = true := by
  induction l generalizing s with
  | nil => exact h
  | cons a t ih => exact ih _ (hf s a h)

theorem Box.withDev_good (b : Box) (d : Dev) (h : b.good) : (b.withDev d).good := h

theorem Box.mk_good (s : Store) (d : Dev) (h : s.wf = true) : (Box.mk s d).good := h
theorem Box.good_store (b : Box) (h : b.good) : b.store.wf = true := h
theorem Store.free_wf (s : Store) (n : Nat) (h : s.wf = true) :
    ({ s with free := n } : Store).wf = true := h

theorem Store.initHandle_wf (s : Store) (core : Nat) (x : Handle) (h : s.wf = true) : (s.initHandle core x).wf = true := by
  unfold Store.initHandle
  split
  · split
    · exact s.zeroMem_wf _ _ h
    · exact s.undefMem_wf _ _ h
  · refine Store.foldl_wf _ _ _ h fun s r hs => ?_
    split
    · exact s.zeroScr_wf _ _ hs
    · exact s.undefScr_wf _ _ hs

theorem Store.coldContent_wf (s : Store) (h : s.wf = true) : s.coldContent.wf = true :=
  Store.lostScr_wf _ _ _ (s.undefMem_wf _ _ h)

theorem Store.scratchLost_wf (s : Store) (cl : Nat) (h : s.wf = true) : (s.scratchLost cl).wf = true :=
  s.lostScr_wf _ _ h

theorem Store.freshScr_wf (s : Store) (cl : Nat) (h : s.wf = true) : (s.freshScr cl).wf = true :=
  s.lostScr_wf _ _ h

end Sys2Proof.Machine
end

