-- ==== Sys2Proof/Laws/Boxes.lean ====
section
/-! SUPPORT. For each operation on a box: it keeps both byte spaces in canonical form. -/

namespace Sys2Proof.Machine

theorem Box.flushMsgs_good (b : Box) (hb : b.good) : b.flushMsgs.good := by
  unfold Box.flushMsgs
  refine ite_good _ _ _ hb (Box.mk_good _ _ ?_)
  exact Store.foldl_wf _ _ _ hb fun s m hs => s.wrMem_wf _ _ hs

theorem Box.copyGranule_good (b : Box) (g : Nat) (hb : b.good) : (b.copyGranule g).good := by
  unfold Box.copyGranule
  split
  · exact hb
  · split
    · exact hb
    · exact Box.mk_good _ _ (b.store.wrMem_wf _ _ hb)

theorem Box.wrDev_good (b : Box) (a : Nat) (l : List PB) (hb : b.good) : (b.wrDev a l).good :=
  Box.mk_good _ _ (Store.wrMem_wf _ _ _ (foldl_good _ _ _ hb fun b g h => b.copyGranule_good g h))

theorem Box.wrClean_good (b : Box) (a : Nat) (l : List Byte) (hb : b.good) :
    (Box.wrClean b a l).good := by
  unfold Box.wrClean
  simp +contextual (maxDischargeDepth := 30) only [↓Box.wrDev_good, hb]

theorem Box.losePower_good (b : Box) (hs : List (Nat × Handle)) (hb : b.good) : (b.losePower hs).good := by
  unfold Box.losePower
  refine foldl_good _ _ _ hb fun b x h => foldl_good _ _ _ h fun b k h => ?_
  exact ite_good _ _ _ h (Box.onS_good _ _ h fun s hs => s.lostScr_wf _ _ hs)

theorem Box.remap_good (b : Box) (r : RetireDue) (spare : Nat) (hb : b.good) : (b.remap r spare).good :=
  Box.mk_good _ _ (Store.foldl_wf _ _ _ (b.store.freshScr_wf _ hb) fun s _ hs => s.initHandle_wf _ _ hs)

theorem Box.tryRetire_good (b : Box) (hb : b.good) :
    (Box.tryRetire b).good := by
  unfold Box.tryRetire
  dsimp only
  simp +contextual (maxDischargeDepth := 30) only [implies_true, ↓Box.onD_good, ↓foldl_good, ↓Box.remap_good, hb]

theorem Box.wrOverlay_good (b : Box) (o : Overlay) (hb : b.good) :
    (Box.wrOverlay b o).good := by
  unfold Box.wrOverlay
  simp +contextual (maxDischargeDepth := 30) only [implies_true, ↓foldl_good, ↓Box.wrDev_good, hb]

theorem Box.tWrite_good (b : Box) (t : Tens) (els : List (Nat × Nat × Bool)) (hb : b.good) :
    (Box.tWrite b t els).good := by
  unfold Box.tWrite
  simp +contextual (maxDischargeDepth := 30) only [↓Box.wrOverlay_good, hb]

theorem Box.undefEls_good (b : Box) (t : Desc) (first len : Nat) (hb : b.good) :
    (Box.undefEls b t first len).good := by
  unfold Box.undefEls
  dsimp only
  simp +contextual (maxDischargeDepth := 30) only [implies_true, ↓ite_good, ↓Box.onS_good, Store.undefMem_wf, Store.free_wf, ↓Box.tWrite_good, hb]

theorem Box.failColl_good (b : Box) (i : CollInst) (status reporter : Nat) (abort : Bool) (hb : b.good) :
    (Box.failColl b i status reporter abort).good := by
  unfold Box.failColl
  dsimp only
  repeat' split
  all_goals simp +contextual (maxDischargeDepth := 30) only [↓Box.withDev_good, ↓Box.undefEls_good, hb]

theorem Box.failColls_good (b : Box) (ctx status : Nat) (hb : b.good) :
    (Box.failColls b ctx status).good := by
  unfold Box.failColls
  simp +contextual (maxDischargeDepth := 30) only [implies_true, ↓foldl_good, ↓Box.failColl_good, hb]

theorem Box.finishRun_good (b : Box) (n : Nat) (how : Ending) (opc : Nat) (hb : b.good) :
    (Box.finishRun b n how opc).good := by
  unfold Box.finishRun
  dsimp only
  simp +contextual (maxDischargeDepth := 30) only [↓Box.onD_good, ↓Box.losePower_good, hb]

theorem Box.stopNow_good (b : Box) (n : Nat) (how : Ending) (opc : Nat) (hb : b.good) :
    (Box.stopNow b n how opc).good := by
  unfold Box.stopNow
  dsimp only
  simp +contextual (maxDischargeDepth := 30) only [↓Box.onD_good, ↓ite_good, ↓Box.failColls_good, ↓Box.finishRun_good, ↓Box.tryRetire_good, hb]

theorem Box.faultStop_good (b : Box) (n ev : Nat) (hb : b.good) :
    (Box.faultStop b n ev).good := by
  unfold Box.faultStop
  simp +contextual (maxDischargeDepth := 30) only [↓Box.stopNow_good, hb]

theorem Box.stopAtBoundary_good (b : Box) (n : Nat) (fault : Option Nat) (opc : Nat) (hb : b.good) :
    (Box.stopAtBoundary b n fault opc).good := by
  unfold Box.stopAtBoundary
  dsimp only
  simp +contextual (maxDischargeDepth := 30) only [↓Box.onD_good, ↓ite_good, ↓Box.stopNow_good, hb]

theorem Box.observe_good (b : Box) (ctx point die : Nat) (eng : Int) (addr : Nat) (hb : b.good) :
    (Box.observe b ctx point die eng addr).good := by
  unfold Box.observe
  dsimp only
  simp +contextual (maxDischargeDepth := 30) only [↓Box.onD_good, ↓ite_good, ↓Box.faultStop_good, ↓Box.flushMsgs_good, hb]

theorem Box.observeIf_good (b : Box) (bad : Bool) (ctx point die : Nat) (eng : Int) (addr : Nat) (hb : b.good) :
    (Box.observeIf b bad ctx point die eng addr).good := by
  unfold Box.observeIf
  simp +contextual (maxDischargeDepth := 30) only [↓ite_good, ↓Box.observe_good, hb]

theorem Box.noSpare_good (b : Box) (r : RetireDue) (hb : b.good) :
    (Box.noSpare b r).good := by
  unfold Box.noSpare
  dsimp only
  simp +contextual (maxDischargeDepth := 30) only [implies_true, ↓Box.onD_good, ↓foldl_good, ↓Box.stopAtBoundary_good, hb]

theorem Box.settleDue_good (b : Box) (hb : b.good) :
    (Box.settleDue b).good := by
  unfold Box.settleDue
  simp +contextual (maxDischargeDepth := 30) only [implies_true, ↓foldl_good, ↓Box.noSpare_good, hb]

theorem Box.due_good (b : Box) (bolt k trigger : Nat) (hb : b.good) :
    (Box.due b bolt k trigger).good := by
  unfold Box.due
  simp +contextual (maxDischargeDepth := 30) only [↓Box.onD_good, ↓ite_good, ↓Box.settleDue_good, hb]

theorem Box.checkStrikes_good (b : Box) (core : Nat) (hb : b.good) :
    (Box.checkStrikes b core).good := by
  unfold Box.checkStrikes
  simp +contextual (maxDischargeDepth := 30) only [↓ite_good, ↓Box.due_good, hb]

theorem Box.strike_good (b : Box) (core : Nat) (unresolved : Bool) (hb : b.good) :
    (Box.strike b core unresolved).good := by
  unfold Box.strike
  simp +contextual (maxDischargeDepth := 30) only [↓Box.onD_good, ↓Box.checkStrikes_good, hb]

theorem Box.slipPoint_good (b : Box) (n k a : Nat) (hb : b.good) :
    (Box.slipPoint b n k a).good := by
  unfold Box.slipPoint
  dsimp only
  simp +contextual (maxDischargeDepth := 30) only [↓Box.onD_good, ↓ite_good, ↓Box.stopAtBoundary_good, hb]

theorem Box.publish_good (b : Box) (a : SeqAssignment) (hb : b.good) :
    (Box.publish b a).good := by
  unfold Box.publish
  dsimp only
  repeat' split
  all_goals simp +contextual (maxDischargeDepth := 30) only [↓Box.onD_good, ↓Box.tWrite_good, hb]

theorem Box.takeStage_good (b : Box) (n : Nat) (boundary : Bool) (hb : b.good) :
    (Box.takeStage b n boundary).good := by
  unfold Box.takeStage
  dsimp only
  repeat' split
  all_goals simp +contextual (maxDischargeDepth := 30) only [implies_true, ↓Box.onD_good, ↓foldl_good, ↓Box.publish_good, hb]

theorem Box.boundary_good (b : Box) (n k : Nat) (g : W16) (hb : b.good) :
    (Box.boundary b n k g).good := by
  unfold Box.boundary
  dsimp only
  simp +contextual (maxDischargeDepth := 30) only [↓Box.onD_good, ↓ite_good, ↓Box.takeStage_good, ↓Box.tryRetire_good, hb]

theorem Box.barrier_good (b : Box) (n k : Nat) (g : W16) (hb : b.good) :
    (Box.barrier b n k g).good := by
  unfold Box.barrier
  dsimp only
  simp +contextual (maxDischargeDepth := 30) only [↓Box.onD_good, ↓ite_good, ↓Box.boundary_good, ↓Box.slipPoint_good, hb]

theorem Box.barriers_good (b : Box) (n k m : Nat) (hb : b.good) : (b.barriers n k m).good := by
  induction m generalizing b with
  | zero => exact hb
  | succ m ih =>
    unfold Box.barriers
    split
    · exact hb
    · exact ih _ (Box.barrier_good _ _ _ _ (Box.onD_good _ _ hb))

theorem Box.arrive_good (b : Box) (k amount : Nat) (hb : b.good) :
    (Box.arrive b k amount).good := by
  unfold Box.arrive
  dsimp only
  repeat' split
  all_goals simp +contextual (maxDischargeDepth := 30) only [↓Box.onD_good, ↓Box.barriers_good, hb]

theorem Box.touchShape_good (b : Box) (n slot die : Nat) (eng : Int) (hb : b.good) :
    (Box.touchShape b n slot die eng).good := by
  unfold Box.touchShape
  dsimp only
  repeat' split
  all_goals simp +contextual (maxDischargeDepth := 30) only [↓Box.onD_good, ↓Box.observe_good, hb]

theorem Box.engWrite_good (b : Box) (ctx die : Nat) (eng : Int) (a : Nat) (l : List PB) (hb : b.good) :
    (Box.engWrite b ctx die eng a l).good := by
  unfold Box.engWrite
  simp +contextual (maxDischargeDepth := 30) only [↓Box.observeIf_good, ↓Box.wrDev_good, hb]

theorem Box.engOverlay_good (b : Box) (ctx die : Nat) (eng : Int) (o : Overlay) (hb : b.good) :
    (Box.engOverlay b ctx die eng o).good := by
  unfold Box.engOverlay
  simp +contextual (maxDischargeDepth := 30) only [implies_true, ↓foldl_good, ↓Box.engWrite_good, hb]

theorem Box.engPut_good (b : Box) (ctx die : Nat) (eng : Int) (t : Tens) (els : List (Nat × Nat × Bool)) (hb : b.good) :
    (Box.engPut b ctx die eng t els).good := by
  unfold Box.engPut
  simp +contextual (maxDischargeDepth := 30) only [↓Box.engOverlay_good, hb]

theorem Box.remoteFailed_good (b : Box) (r : RemoteReq) (status : Nat) (hb : b.good) :
    (Box.remoteFailed b r status).good := by
  unfold Box.remoteFailed
  dsimp only
  simp +contextual (maxDischargeDepth := 30) only [↓Box.onD_good, ↓ite_good, ↓Box.faultStop_good, hb]

theorem Box.sendRemote_good (b : Box) (r : RemoteReq) (tag : Nat) (hb : b.good) :
    (Box.sendRemote b r tag).good := by
  unfold Box.sendRemote
  dsimp only
  simp +contextual (maxDischargeDepth := 30) only [↓ite_good, ↓Box.withDev_good, ↓Box.remoteFailed_good, hb]

theorem Box.pumpWrites_good (b : Box) (n : Nat) (hb : b.good) : (b.pumpWrites n).good := by
  induction n generalizing b with
  | zero => exact hb
  | succ n ih =>
    unfold Box.pumpWrites
    split
    · exact ih _ (Box.sendRemote_good _ _ _ (Box.onD_good _ _ hb))
    · exact hb

theorem Box.pumpAll_good (b : Box) (hb : b.good) :
    (Box.pumpAll b).good := by
  unfold Box.pumpAll
  simp +contextual (maxDischargeDepth := 30) only [↓Box.pumpWrites_good, hb]

theorem Box.remoteWrite_good (b : Box) (ctx : Nat) (act : Option Act) (core : Nat) (a : Nat) (n : Nat) (hb : b.good) :
    (Box.remoteWrite b ctx act core a n).good := by
  unfold Box.remoteWrite
  simp +contextual (maxDischargeDepth := 30) only [↓Box.onD_good, ↓Box.pumpAll_good, hb]

theorem Box.hWrite_good (b : Box) (ctx : Nat) (act : Act) (core h off : Nat) (l : List PB) (hb : b.good) :
    (Box.hWrite b ctx act core h off l).good := by
  unfold Box.hWrite
  repeat' split
  all_goals simp +contextual (maxDischargeDepth := 30) only [implies_true, ↓Box.onS_good, ↓Store.foldl_wf, Store.wrMem_wf, Store.wrScr_wf, ↓Box.engWrite_good, ↓Box.remoteWrite_good, hb]

theorem Box.fillHandle_good (b : Box) (ctx : Nat) (act : Option Act) (core : Nat) (h : Handle) (hb : b.good) :
    (Box.fillHandle b ctx act core h).good := by
  unfold Box.fillHandle
  simp +contextual (maxDischargeDepth := 30) only [implies_true, ↓Box.onD_good, ↓Box.onS_good, Store.initHandle_wf, ↓Box.pumpAll_good, hb]

theorem Box.hPutEls_good (b : Box) (ctx : Nat) (act : Act) (core h f off : Nat) (els : List (Nat × Bool)) (hb : b.good) :
    (Box.hPutEls b ctx act core h f off els).good := by
  unfold Box.hPutEls
  simp +contextual (maxDischargeDepth := 30) only [↓Box.hWrite_good, hb]

theorem Box.requestLines_good (b : Box) (a : Act) (ctx : Nat) (lines : List Nat) (n : Nat) (hb : b.good) :
    (b.requestLines a ctx lines n).good := by
  induction n generalizing b with
  | zero => exact hb
  | succ n ih =>
    unfold Box.requestLines
    split
    · dsimp only
      split
      · exact hb
      · split
        · exact hb
        · exact ih _ (Box.sendRemote_good _ _ _ (Box.onD_good _ _ hb))
    · exact hb

theorem Box.gate_good (b : Box) (a : Act) (sel : Action → Bool) (reads : Dev → Action → List Rng) (f : Box → Action → Box) (hb : b.good) (hf_f : ∀ (b : Box) (x1 : Action), b.good → (f b x1).good) :
    (Box.gate b a sel reads f).good := by
  unfold Box.gate
  dsimp only
  repeat' split
  all_goals simp +contextual (maxDischargeDepth := 30) only [↓Box.onD_good, ↓Box.pumpAll_good, ↓Box.requestLines_good, ↓Box.faultStop_good, hb, hf_f]

theorem Box.work_good (b : Box) (a : Act) (sel : Action → Bool) (reads : Dev → Action → List Rng) (f : Box → Action → Box) (hb : b.good) (hf_f : ∀ (b : Box) (x1 : Action), b.good → (f b x1).good) :
    (Box.work b a sel reads f).good := by
  unfold Box.work
  simp +contextual (maxDischargeDepth := 30) only [implies_true, ↓Box.onD_good, ↓Box.gate_good, hb, hf_f]

theorem Box.readDone_good (b : Box) (r : RemoteReq) (status : Nat) (data : List PB) (hb : b.good) :
    (Box.readDone b r status data).good := by
  unfold Box.readDone
  dsimp only
  simp +contextual (maxDischargeDepth := 30) only [implies_true, ↓Box.onD_good, ↓ite_good, ↓Box.onS_good, ↓Store.foldl_wf, Store.wrMem_wf, Store.poisonMem_wf, ↓Box.remoteFailed_good, ↓Box.pumpAll_good, hb]

theorem Box.writeDone_good (b : Box) (r : RemoteReq) (status : Nat) (hb : b.good) :
    (Box.writeDone b r status).good := by
  unfold Box.writeDone
  dsimp only
  simp +contextual (maxDischargeDepth := 30) only [↓Box.onD_good, ↓ite_good, ↓Box.remoteFailed_good, ↓Box.pumpAll_good, hb]

theorem Box.knotDone_good (b : Box) (r : RemoteReq) (status : Nat) (hb : b.good) :
    (Box.knotDone b r status).good := by
  unfold Box.knotDone
  dsimp only
  simp +contextual (maxDischargeDepth := 30) only [↓Box.onD_good, ↓ite_good, ↓Box.faultStop_good, hb]

theorem Box.endReq_good (b : Box) (r : RemoteReq) (status : Nat) (hb : b.good) :
    (Box.endReq b r status).good := by
  unfold Box.endReq
  simp +contextual (maxDischargeDepth := 30) only [↓ite_good, ↓Box.knotDone_good, ↓Box.readDone_good, ↓Box.writeDone_good, hb]

theorem Box.statusThree_good (b : Box) (k : Packet) (hb : b.good) :
    (Box.statusThree b k).good := by
  unfold Box.statusThree
  simp +contextual (maxDischargeDepth := 30) only [implies_true, ↓Box.onD_good, ↓ite_good, ↓elim_good, ↓Box.endReq_good, hb]

theorem Box.noWay_good (b : Box) (src : Option Nat) (k : Packet) (hb : b.good) :
    (Box.noWay b src k).good := by
  unfold Box.noWay
  dsimp only
  simp +contextual (maxDischargeDepth := 30) only [↓Box.onD_good, ↓ite_good, ↓Box.statusThree_good, hb]

theorem Box.forward_good (b : Box) (src : Option Nat) (p : Nat) (k : Packet) (hb : b.good) :
    (Box.forward b src p k).good := by
  unfold Box.forward
  dsimp only
  repeat' split
  all_goals simp +contextual (maxDischargeDepth := 30) only [↓Box.onD_good, ↓Box.noWay_good, hb]

theorem Box.onPacketIn_good (b : Box) (src : Option Nat) (p : Nat) (k : Packet) (f : Box → Box) (hb : b.good) (hf_f : ∀ (b : Box), b.good → (f b).good) :
    (Box.onPacketIn b src p k f).good := by
  unfold Box.onPacketIn
  dsimp only
  repeat' split
  all_goals simp +contextual (maxDischargeDepth := 30) only [↓Box.onD_good, ↓Box.forward_good, hb, hf_f]

theorem Box.onPacket_good (b : Box) (p : Nat) (k : Packet) (f : Box → Box) (hb : b.good) (hf_f : ∀ (b : Box), b.good → (f b).good) :
    (Box.onPacket b p k f).good := by
  unfold Box.onPacket
  simp +contextual (maxDischargeDepth := 30) only [implies_true, ↓Box.onPacketIn_good, hb, hf_f]

theorem Box.packetOf_good (b : Box) (t : Nat) (p : Nat) (k : Packet) (f : Box → Box) (hb : b.good) (hf_f : ∀ (b : Box), b.good → (f b).good) :
    (Box.packetOf b t p k f).good := by
  unfold Box.packetOf
  simp +contextual (maxDischargeDepth := 30) only [implies_true, ↓ite_good, ↓Box.onPacket_good, hb, hf_f]

theorem Box.serveRead_good (b : Box) (p : Nat) (k : Packet) (hb : b.good) :
    (Box.serveRead b p k).good := by
  unfold Box.serveRead
  dsimp only
  simp +contextual (maxDischargeDepth := 30) only [↓Box.onD_good, ↓ite_good, hb]

theorem Box.serveWrite_good (b : Box) (p : Nat) (k : Packet) (hb : b.good) :
    (Box.serveWrite b p k).good := by
  unfold Box.serveWrite
  dsimp only
  simp +contextual (maxDischargeDepth := 30) only [↓Box.onD_good, ↓ite_good, ↓Box.wrDev_good, hb]

theorem Box.inService_good (b : Box) (a n : Nat) (f : Box → Box) (hb : b.good) (hf_f : ∀ (b : Box), b.good → (f b).good) :
    (Box.inService b a n f).good := by
  unfold Box.inService
  simp +contextual (maxDischargeDepth := 30) only [↓Box.onD_good, ↓ite_good, hb, hf_f]

theorem Box.failWhere_good (b : Box) (status : Nat) (sel : Plan → CollInst → Bool) (hb : b.good) :
    (Box.failWhere b status sel).good := by
  unfold Box.failWhere
  simp +contextual (maxDischargeDepth := 30) only [implies_true, ↓ite_good, ↓foldl_good, ↓Box.failColl_good, ↓Box.faultStop_good, hb]

theorem Box.actOnLoss_good (b : Box) (lost : Nat) (hb : b.good) :
    (Box.actOnLoss b lost).good := by
  unfold Box.actOnLoss
  dsimp only
  simp +contextual (maxDischargeDepth := 30) only [implies_true, ↓Box.onD_good, ↓ite_good, ↓foldl_good, ↓Box.endReq_good, ↓Box.failWhere_good, hb]

theorem Box.partnerLost_good (b : Box) (partner : Nat) (hb : b.good) :
    (Box.partnerLost b partner).good := by
  unfold Box.partnerLost
  dsimp only
  simp +contextual (maxDischargeDepth := 30) only [↓Box.onD_good, ↓Box.actOnLoss_good, hb]

theorem Box.takeLoss_good (b : Box) (p : Nat) (k : Packet) (hb : b.good) :
    (Box.takeLoss b p k).good := by
  unfold Box.takeLoss
  dsimp only
  simp +contextual (maxDischargeDepth := 30) only [↓Box.onD_good, ↓ite_good, ↓Box.actOnLoss_good, hb]

theorem Box.scrNote_good (b : Box) (core : Nat) (unc : Bool) (hb : b.good) :
    (Box.scrNote b core unc).good := by
  unfold Box.scrNote
  dsimp only
  simp +contextual (maxDischargeDepth := 30) only [↓Box.onD_good, ↓ite_good, ↓Box.due_good, hb]

theorem Box.scrCorrected_good (b : Box) (core : Nat) (bank : Nat) (ctx : Option Nat) (hb : b.good) :
    (Box.scrCorrected b core bank ctx).good := by
  unfold Box.scrCorrected
  dsimp only
  simp +contextual (maxDischargeDepth := 30) only [↓Box.onD_good, ↓ite_good, ↓Box.scrNote_good, hb]

theorem Box.scrUncorrectable_good (b : Box) (core : Nat) (bank : Nat) (line : Nat) (ctx : Option Nat) (hb : b.good) :
    (Box.scrUncorrectable b core bank line ctx).good := by
  unfold Box.scrUncorrectable
  dsimp only
  simp +contextual (maxDischargeDepth := 30) only [implies_true, ↓Box.onD_good, ↓Box.onS_good, Store.poisonScr_wf, ↓Box.scrNote_good, hb]

theorem Box.scrRead_good (b : Box) (core : Nat) (ctx : Option Nat) (e : ScrEcc) (hb : b.good) :
    (b.scrRead core ctx e).good := by
  cases e
  · exact hb
  · exact Box.scrCorrected_good _ _ _ _ hb
  · exact Box.scrUncorrectable_good _ _ _ _ _ hb

theorem Box.scrReads_good (b : Box) (core : Nat) (ctx : Option Nat) (reads : Nat → Bool) (l : List ScrEcc) (hb : b.good) :
    (Box.scrReads b core ctx reads l).good := by
  unfold Box.scrReads
  simp +contextual (maxDischargeDepth := 30) only [implies_true, ↓foldl_good, ↓Box.scrRead_good, hb]

theorem Box.workRead_good (b : Box) (a : Act) (ecc : List ScrEcc) (sel : Action → Bool) (reads : Dev → Action → List Rng) (f : Box → Action → Box) (hb : b.good) (hf_f : ∀ (b : Box) (x1 : Action), b.good → (f b x1).good) :
    (Box.workRead b a ecc sel reads f).good := by
  unfold Box.workRead
  simp +contextual (maxDischargeDepth := 30) only [implies_true, ↓Box.work_good, ↓Box.scrReads_good, hb, hf_f]

theorem Box.hWriteEls_good (b : Box) (ctx : Nat) (act : Act) (core h f off n : Nat) (els : List (Nat × Nat × Bool)) (hb : b.good) :
    (Box.hWriteEls b ctx act core h f off n els).good := by
  unfold Box.hWriteEls
  dsimp only
  simp +contextual (maxDischargeDepth := 30) only [implies_true, ↓foldl_good, ↓Box.hWrite_good, hb]

theorem Box.maskWrite_good (b : Box) (core : Nat) (a : Act) (x : Action) (bit : Nat → Bool × Bool) (hb : b.good) :
    (Box.maskWrite b core a x bit).good := by
  unfold Box.maskWrite
  dsimp only
  simp +contextual (maxDischargeDepth := 30) only [↓Box.hPutEls_good, hb]

theorem Box.finishCmd_good (b : Box) (core : Nat) (st : Str) (id : Nat) (hb : b.good) :
    (Box.finishCmd b core st id).good := by
  unfold Box.finishCmd
  dsimp only
  repeat' split
  all_goals simp +contextual (maxDischargeDepth := 30) only [↓Box.onD_good, ↓Box.maskWrite_good, hb]

theorem Box.startGroup_good (b : Box) (core : Nat) (cmd : ArrCmd) (x : Action) (sample : Bool) (hb : b.good) :
    (Box.startGroup b core cmd x sample).good := by
  unfold Box.startGroup
  dsimp only
  simp +contextual (maxDischargeDepth := 30) only [↓Box.onD_good, hb]

theorem Box.stepAt_good (b : Box) (core : Nat) (side : Bool) (g : Grp) (x : Action) (o : ArrOp) (win : Nat) (err : List (Nat × W32)) (hb : b.good) :
    (Box.stepAt b core side g x o win err).good := by
  unfold Box.stepAt
  dsimp only
  simp +contextual (maxDischargeDepth := 30) only [↓Box.onD_good, ↓ite_good, hb]

theorem Box.writeGroup_good (b : Box) (core : Nat) (a : Act) (x : Action) (o : ArrOp) (mb nb : Nat) (acc : Tbl Elem) (hb : b.good) :
    (Box.writeGroup b core a x o mb nb acc).good := by
  unfold Box.writeGroup
  simp +contextual (maxDischargeDepth := 30) only [↓Box.hWriteEls_good, hb]

theorem Box.deliver_good (b : Box) (core : Nat) (x : Action) (st : Str) (part mb nb : Nat) (acc : Tbl Elem) (hb : b.good) :
    (Box.deliver b core x st part mb nb acc).good := by
  unfold Box.deliver
  dsimp only
  simp +contextual (maxDischargeDepth := 30) only [↓Box.onD_good, ↓ite_good, ↓Box.writeGroup_good, hb]

theorem Box.drainBank_good (b : Box) (core : Nat) (side : Bool) (g : Grp) (x : Action) (hb : b.good) :
    (Box.drainBank b core side g x).good := by
  unfold Box.drainBank
  dsimp only
  simp +contextual (maxDischargeDepth := 30) only [↓Box.onD_good, ↓Box.deliver_good, ↓Box.finishCmd_good, hb]

theorem Box.arrEnter_good (b : Box) (a : Act) (x : Action) (hb : b.good) :
    (Box.arrEnter b a x).good := by
  unfold Box.arrEnter
  dsimp only
  simp +contextual (maxDischargeDepth := 30) only [↓Box.onD_good, ↓ite_good, hb]

theorem Box.chalkEnter_good (b : Box) (a : Act) (x : Action) (hb : b.good) :
    (Box.chalkEnter b a x).good := by
  unfold Box.chalkEnter
  dsimp only
  simp +contextual (maxDischargeDepth := 30) only [↓Box.onD_good, ↓ite_good, ↓Box.maskWrite_good, hb]

theorem Box.copyRun_good (b : Box) (a : Act) (x : Action) (hb : b.good) :
    (Box.copyRun b a x).good := by
  unfold Box.copyRun
  simp +contextual (maxDischargeDepth := 30) only [↓ite_good, ↓Box.hWrite_good, hb]

theorem Box.compatFault_good (b : Box) (x : Action) (die idx : Nat) (f : Int × Nat) (hb : b.good) :
    (Box.compatFault b x die idx f).good := by
  unfold Box.compatFault
  dsimp only
  simp +contextual (maxDischargeDepth := 30) only [↓Box.onD_good, ↓ite_good, ↓Box.faultStop_good, hb]

theorem Box.loadPlain_good (b : Box) (a : Act) (x : Action) (t : Tens) (hb : b.good) :
    (Box.loadPlain b a x t).good := by
  unfold Box.loadPlain
  dsimp only
  repeat' split
  all_goals simp +contextual (maxDischargeDepth := 30) only [↓Box.onD_good, ↓Box.compatFault_good, ↓Box.hPutEls_good, hb]

theorem Box.storePlain_good (b : Box) (a : Act) (x : Action) (t : Tens) (hb : b.good) :
    (Box.storePlain b a x t).good := by
  unfold Box.storePlain
  dsimp only
  repeat' split
  all_goals simp +contextual (maxDischargeDepth := 30) only [↓Box.onD_good, ↓Box.compatFault_good, ↓Box.engPut_good, hb]

theorem Box.undefHandle_good (b : Box) (core h off len : Nat) (hb : b.good) :
    (Box.undefHandle b core h off len).good := by
  unfold Box.undefHandle
  dsimp only
  repeat' split
  all_goals simp +contextual (maxDischargeDepth := 30) only [implies_true, ↓Box.onS_good, ↓Store.foldl_wf, Store.undefMem_wf, Store.undefScr_wf, hb]

theorem Box.groupFault_good (b : Box) (core : Nat) (x : Action) (len r g kind : Nat) (hb : b.good) :
    (Box.groupFault b core x len r g kind).good := by
  unfold Box.groupFault
  dsimp only
  simp +contextual (maxDischargeDepth := 30) only [↓Box.onD_good, ↓Box.faultStop_good, ↓Box.undefHandle_good, hb]

theorem Box.loadGroups_good (b : Box) (a : Act) (x : Action) (c : Comp) (gs : List GroupIn) (hb : b.good) :
    (Box.loadGroups b a x c gs).good := by
  unfold Box.loadGroups
  dsimp only
  simp +contextual (maxDischargeDepth := 30) only [↓Box.onD_good, ↓Box.hPutEls_good, ↓Box.hWrite_good, hb]

theorem Box.loadNM_good (b : Box) (a : Act) (x : Action) (c : Comp) (hb : b.good) :
    (Box.loadNM b a x c).good := by
  unfold Box.loadNM
  dsimp only
  repeat' split
  all_goals simp +contextual (maxDischargeDepth := 30) only [↓Box.onD_good, ↓Box.groupFault_good, ↓Box.loadGroups_good, hb]

theorem Box.loadSegs_good (b : Box) (a : Act) (x : Action) (c : Comp) (rows : List (List SegIn)) (hb : b.good) :
    (Box.loadSegs b a x c rows).good := by
  unfold Box.loadSegs
  dsimp only
  simp +contextual (maxDischargeDepth := 30) only [↓Box.onD_good, ↓Box.hPutEls_good, ↓Box.hWrite_good, hb]

theorem Box.loadBitmap_good (b : Box) (a : Act) (x : Action) (c : Comp) (hb : b.good) :
    (Box.loadBitmap b a x c).good := by
  unfold Box.loadBitmap
  dsimp only
  repeat' split
  all_goals simp +contextual (maxDischargeDepth := 30) only [↓Box.onD_good, ↓Box.groupFault_good, ↓Box.loadSegs_good, hb]

theorem Box.listSurplus_good (b : Box) (x : Action) (c : Comp) (r : Nat) (e : RowEl) (hb : b.good) :
    (Box.listSurplus b x c r e).1.good := by
  unfold Box.listSurplus
  dsimp only
  repeat' split
  all_goals simp +contextual (maxDischargeDepth := 30) only [↓Box.onD_good, ↓Box.wrClean_good, ↓Box.wrDev_good, hb]

theorem Box.storeFault_good (b : Box) (x : Action) (c : Comp) (r g : Nat) (hb : b.good) :
    (Box.storeFault b x c r g).good := by
  unfold Box.storeFault
  dsimp only
  simp +contextual (maxDischargeDepth := 30) only [implies_true, ↓Box.onD_good, ↓Box.onS_good, ↓Store.foldl_wf, Store.undefMem_wf, Store.free_wf, ↓Box.faultStop_good, ↓Box.wrOverlay_good, hb]

theorem storeFold_good (x : Action) (c : Comp) (r : Nat) (es : List RowEl) (y : Box × Bool) (hy : y.1.good) :
    (es.foldl (fun y e => if y.2 then y else y.1.listSurplus x c r e) y).1.good := by
  induction es generalizing y with
  | nil => exact hy
  | cons e t ih =>
    refine ih _ ?_
    dsimp only
    split
    · exact hy
    · exact Box.listSurplus_good _ _ _ _ _ hy

theorem Box.storeGroup_good (b : Box) (x : Action) (c : Comp) (r g : Nat) (row : List RowEl) (hb : b.good) :
    (b.storeGroup x c r g row).1.good := by
  unfold Box.storeGroup
  dsimp only
  have h : ∀ o a l, ((b.engOverlay x.ctx (unitDie x.unit) (sergerOf x.unit) o).engWrite x.ctx (unitDie x.unit)
      (sergerOf x.unit) a l).good := fun o a l => Box.engWrite_good _ _ _ _ _ _ (Box.engOverlay_good _ _ _ _ _ hb)
  split
  · exact storeFold_good _ _ _ _ _ (h _ _ _)
  · exact Box.onD_good _ _ (h _ _ _)

theorem Box.storeGroups_good (b : Box) (x : Action) (c : Comp) (l : List (Nat × Nat × List RowEl)) (hb : b.good) :
    (b.storeGroups x c l).good := by
  induction l generalizing b with
  | nil => exact hb
  | cons e t ih =>
    obtain ⟨r, g, row⟩ := e
    unfold Box.storeGroups
    have h := Box.storeGroup_good b x c r g row hb
    dsimp only
    split
    · exact Box.storeFault_good _ _ _ _ _ h
    · exact ih _ h

theorem Box.storeNM_good (b : Box) (core : Nat) (x : Action) (c : Comp) (hb : b.good) :
    (Box.storeNM b core x c).good := by
  unfold Box.storeNM
  dsimp only
  simp +contextual (maxDischargeDepth := 30) only [↓Box.onD_good, ↓Box.storeGroups_good, hb]

theorem Box.storeSegs_good (b : Box) (x : Action) (c : Comp) (r : Nat) (row : List RowEl) (s off n : Nat) (hb : b.good) :
    (b.storeSegs x c r row s off n).good := by
  induction n generalizing b s off with
  | zero => exact hb
  | succ n ih => exact ih _ _ _ (Box.engOverlay_good _ _ _ _ _ (Box.engWrite_good _ _ _ _ _ _ hb))

theorem Box.storeBitmap_good (b : Box) (core : Nat) (x : Action) (c : Comp) (hb : b.good) :
    (Box.storeBitmap b core x c).good := by
  unfold Box.storeBitmap
  dsimp only
  simp +contextual (maxDischargeDepth := 30) only [implies_true, ↓Box.onD_good, ↓foldl_good, ↓Box.storeSegs_good, hb]

theorem Box.loadRun_good (b : Box) (a : Act) (x : Action) (hb : b.good) :
    (Box.loadRun b a x).good := by
  unfold Box.loadRun
  dsimp only
  repeat' split
  all_goals simp +contextual (maxDischargeDepth := 30) only [↓Box.onD_good, ↓Box.compatFault_good, ↓Box.loadBitmap_good, ↓Box.loadNM_good, ↓Box.loadPlain_good, hb]

theorem Box.storeRun_good (b : Box) (a : Act) (x : Action) (hb : b.good) :
    (Box.storeRun b a x).good := by
  unfold Box.storeRun
  dsimp only
  repeat' split
  all_goals simp +contextual (maxDischargeDepth := 30) only [↓Box.compatFault_good, ↓Box.storeBitmap_good, ↓Box.storeNM_good, ↓Box.storePlain_good, hb]

theorem Box.strikeFor_good (b : Box) (die : Nat) (s : Shadow) (core verdict : Nat) (hb : b.good) :
    (Box.strikeFor b die s core verdict).good := by
  unfold Box.strikeFor
  dsimp only
  simp +contextual (maxDischargeDepth := 30) only [↓Box.onD_good, ↓Box.checkStrikes_good, hb]

theorem Box.vote_good (b : Box) (core : Nat) (s : Shadow) (hb : b.good) :
    (Box.vote b core s).good := by
  unfold Box.vote
  dsimp only
  simp +contextual (maxDischargeDepth := 30) only [↓Box.onD_good, ↓ite_good, ↓Box.strikeFor_good, hb]

theorem Box.poisonGroup_good (b : Box) (core : Nat) (a : Act) (x : Action) (o : ArrOp) (mb nb : Nat) (hb : b.good) :
    (Box.poisonGroup b core a x o mb nb).good := by
  unfold Box.poisonGroup
  dsimp only
  simp +contextual (maxDischargeDepth := 30) only [↓Box.hWriteEls_good, hb]

theorem Box.settleVerdict_good (b : Box) (core : Nat) (x : Action) (v : VerdictMsg) (hb : b.good) :
    (Box.settleVerdict b core x v).good := by
  unfold Box.settleVerdict
  dsimp only
  simp +contextual (maxDischargeDepth := 30) only [↓Box.onD_good, ↓ite_good, ↓Box.deliver_good, ↓Box.poisonGroup_good, hb]

theorem Box.closeSample_good (b : Box) (core : Nat) (st : Str) (id : Nat) (hb : b.good) :
    (Box.closeSample b core st id).good := by
  unfold Box.closeSample
  simp +contextual (maxDischargeDepth := 30) only [↓Box.onD_good, ↓Box.finishCmd_good, hb]

theorem Box.receiveVerdict_good (b : Box) (core : Nat) (hb : b.good) :
    (Box.receiveVerdict b core).good := by
  unfold Box.receiveVerdict
  dsimp only
  repeat' split
  all_goals simp +contextual (maxDischargeDepth := 30) only [↓Box.onD_good, ↓Box.closeSample_good, ↓Box.settleVerdict_good, hb]

theorem Box.abandonSample_good (b : Box) (core : Nat) (hb : b.good) :
    (Box.abandonSample b core).good := by
  unfold Box.abandonSample
  dsimp only
  repeat' split
  all_goals simp +contextual (maxDischargeDepth := 30) only [↓Box.onD_good, ↓Box.closeSample_good, hb]

theorem Box.cached_good (b : Box) (x : Action) (l : List (Tens × List Nat)) (hb : b.good) :
    (Box.cached b x l).good := by
  unfold Box.cached
  simp +contextual (maxDischargeDepth := 30) only [↓Box.onD_good, hb]

theorem Box.guarded_good (b : Box) (x : Action) (l : List (Nat × Tens × Bool × List Nat)) (f : Box → Box) (hb : b.good) (hf_f : ∀ (b : Box), b.good → (f b).good) :
    (Box.guarded b x l f).good := by
  unfold Box.guarded
  repeat' split
  all_goals simp +contextual (maxDischargeDepth := 30) only [↓Box.compatFault_good, ↓Box.cached_good, hb, hf_f]

theorem Box.undefLins_good (b : Box) (t : Tens) (lins : List Nat) (hb : b.good) :
    (Box.undefLins b t lins).good := by
  unfold Box.undefLins
  dsimp only
  simp +contextual (maxDischargeDepth := 30) only [implies_true, ↓Box.onS_good, Store.free_wf, ↓Box.tWrite_good, hb]

theorem Box.putCvt_good (b : Box) (x : Action) (t : Tens) (l : List ((Nat × Nat × Bool) × List Nat)) (hb : b.good) :
    (Box.putCvt b x t l).good := by
  unfold Box.putCvt
  dsimp only
  simp +contextual (maxDischargeDepth := 30) only [↓Box.onD_good, ↓Box.engPut_good, hb]

theorem Box.putCodes_good (b : Box) (x : Action) (t : Tens) (l : List (Nat × Nat × Bool)) (hb : b.good) :
    (Box.putCodes b x t l).good := by
  unfold Box.putCodes
  simp +contextual (maxDischargeDepth := 30) only [↓Box.engPut_good, hb]

theorem Box.putHandle_good (b : Box) (a : Act) (x : Action) (rnd : Rnd) (l : List Elem) (hb : b.good) :
    (Box.putHandle b a x rnd l).good := by
  unfold Box.putHandle
  dsimp only
  simp +contextual (maxDischargeDepth := 30) only [↓Box.onD_good, ↓Box.hPutEls_good, hb]

theorem Box.badIndex_good (b : Box) (x : Action) (t : Tens) (lin : Nat) (hb : b.good) :
    (Box.badIndex b x t lin).good := by
  unfold Box.badIndex
  simp +contextual (maxDischargeDepth := 30) only [↓Box.observe_good, hb]

theorem Box.greq_good (b : Box) (a : Act) (op : Nat) (sel : Action → Bool) (f : Box → Action → Box) (hb : b.good) (hf_f : ∀ (b : Box) (x1 : Action), b.good → (f b x1).good) :
    (Box.greq b a op sel f).good := by
  unfold Box.greq
  dsimp only
  simp +contextual (maxDischargeDepth := 30) only [implies_true, ↓Box.onD_good, ↓ite_good, ↓Box.work_good, hb, hf_f]

theorem Box.idxFault_good (b : Box) (x : Action) (e : IdxEnt) (hb : b.good) :
    (Box.idxFault b x e).good := by
  unfold Box.idxFault
  simp +contextual (maxDischargeDepth := 30) only [↓Box.onD_good, ↓Box.faultStop_good, hb]

theorem Box.gatherOut_good (b : Box) (a : Act) (x : Action) (ts : Tens) (td : Option Tens) (es : List IdxEnt) (hb : b.good) :
    (Box.gatherOut b a x ts td es).good := by
  unfold Box.gatherOut
  dsimp only
  repeat' split
  all_goals simp +contextual (maxDischargeDepth := 30) only [↓Box.putCvt_good, ↓Box.putHandle_good, hb]

theorem Box.gatherLost_good (b : Box) (a : Act) (x : Action) (ts : Tens) (td : Option Tens) (es : List IdxEnt) (hb : b.good) :
    (Box.gatherLost b a x ts td es).good := by
  unfold Box.gatherLost
  dsimp only
  repeat' split
  all_goals simp +contextual (maxDischargeDepth := 30) only [↓Box.undefHandle_good, ↓Box.undefLins_good, hb]

theorem Box.gatherRun_good (b : Box) (a : Act) (x : Action) (hb : b.good) : (b.gatherRun a x).good := by
  unfold Box.gatherRun
  dsimp only
  split
  · refine Box.guarded_good _ _ _ _ hb fun b hb => ?_
    split
    · exact Box.idxFault_good _ _ _ (Box.gatherLost_good _ _ _ _ _ _ hb)
    · exact Box.guarded_good _ _ _ _ hb fun b hb => Box.gatherOut_good _ _ _ _ _ _ (Box.onD_good _ _ hb)
  · exact hb

theorem Box.addEls_good (b : Box) (x : Action) (t : Tens) (l : List (Nat × Elem)) (hb : b.good) :
    (Box.addEls b x t l).good := by
  unfold Box.addEls
  simp +contextual (maxDischargeDepth := 30) only [implies_true, ↓foldl_good, ↓Box.putCvt_good, hb]

theorem Box.scatterOut_good (b : Box) (x : Action) (ts td : Tens) (es : List IdxEnt) (hb : b.good) :
    (Box.scatterOut b x ts td es).good := by
  unfold Box.scatterOut
  dsimp only
  simp +contextual (maxDischargeDepth := 30) only [↓ite_good, ↓Box.addEls_good, ↓Box.putCvt_good, hb]

theorem Box.scatterRun_good (b : Box) (x : Action) (hb : b.good) : (b.scatterRun x).good := by
  unfold Box.scatterRun
  dsimp only
  split
  · refine Box.guarded_good _ _ _ _ hb fun b hb => ?_
    split
    · exact Box.idxFault_good _ _ _ (Box.undefLins_good _ _ _ hb)
    · refine Box.guarded_good _ _ _ _ hb fun b hb => ?_
      have h := fun ts td es => Box.scatterOut_good _ x ts td es (Box.onD_good b (fun d => es.foldl (fun d e => d.idxSkip x e) d) hb)
      split
      · exact Box.badIndex_good _ _ _ _ (h _ _ _)
      · exact h _ _ _
  · exact hb

theorem Box.copyPerm_good (b : Box) (x : Action) (c : CopyJob) (hb : b.good) :
    (Box.copyPerm b x c).good := by
  unfold Box.copyPerm
  dsimp only
  simp +contextual (maxDischargeDepth := 30) only [↓Box.onD_good, ↓ite_good, ↓Box.putCvt_good, ↓Box.undefLins_good, hb]

theorem Box.copyPairRun_good (b : Box) (x : Action) (hb : b.good) :
    (Box.copyPairRun b x).good := by
  unfold Box.copyPairRun
  dsimp only
  repeat' split
  all_goals simp +contextual (maxDischargeDepth := 30) only [implies_true, ↓Box.copyPerm_good, ↓Box.guarded_good, hb]

theorem Box.packRun_good (b : Box) (x : Action) (hb : b.good) :
    (Box.packRun b x).good := by
  unfold Box.packRun
  dsimp only
  repeat' split
  all_goals simp +contextual (maxDischargeDepth := 30) only [implies_true, ↓Box.onD_good, ↓Box.guarded_good, ↓Box.putCodes_good, ↓Box.putCvt_good, hb]

theorem Box.unpackRun_good (b : Box) (x : Action) (hb : b.good) :
    (Box.unpackRun b x).good := by
  unfold Box.unpackRun
  dsimp only
  repeat' split
  all_goals simp +contextual (maxDischargeDepth := 30) only [implies_true, ↓Box.onD_good, ↓Box.guarded_good, ↓Box.putCvt_good, hb]

theorem Box.rowfetchRun_good (b : Box) (a : Act) (x : Action) (hb : b.good) :
    (Box.rowfetchRun b a x).good := by
  unfold Box.rowfetchRun
  dsimp only
  repeat' split
  all_goals simp +contextual (maxDischargeDepth := 30) only [implies_true, ↓Box.onD_good, ↓Box.guarded_good, ↓Box.putCodes_good, ↓Box.putHandle_good, hb]

theorem Box.patchRun_good (b : Box) (a : Act) (x : Action) (hb : b.good) :
    (Box.patchRun b a x).good := by
  unfold Box.patchRun
  dsimp only
  repeat' split
  all_goals simp +contextual (maxDischargeDepth := 30) only [↓Box.onD_good, ↓Box.putHandle_good, ↓Box.hWrite_good, hb]

theorem Box.listclrRun_good (b : Box) (x : Action) (hb : b.good) :
    (Box.listclrRun b x).good := by
  unfold Box.listclrRun
  dsimp only
  repeat' split
  all_goals simp +contextual (maxDischargeDepth := 30) only [↓Box.engWrite_good, hb]

theorem Box.auditRun_good (b : Box) (act : Act) (x : Action) (hb : b.good) :
    (Box.auditRun b act x).good := by
  unfold Box.auditRun
  dsimp only
  repeat' split
  all_goals simp +contextual (maxDischargeDepth := 30) only [implies_true, ↓Box.onD_good, ↓Box.guarded_good, ↓Box.putCodes_good, hb]

theorem Box.hmap_good (b : Box) (a : Act) (ecc : List ScrEcc) (x : Action) (hb : b.good) :
    (Box.hmap b a ecc x).good := by
  unfold Box.hmap
  dsimp only
  repeat' split
  all_goals simp +contextual (maxDischargeDepth := 30) only [↓Box.onD_good, ↓Box.faultStop_good, ↓Box.scrReads_good, ↓Box.fillHandle_good, hb]

theorem Box.karrRemote_good (b : Box) (a : Act) (x : Action) (hb : b.good) :
    (Box.karrRemote b a x).good := by
  unfold Box.karrRemote
  dsimp only
  repeat' split
  all_goals simp +contextual (maxDischargeDepth := 30) only [↓Box.onD_good, ↓Box.withDev_good, ↓Box.knotDone_good, hb]

theorem Box.ackKnot_good (b : Box) (seam dev tag status : Nat) (hb : b.good) :
    (Box.ackKnot b seam dev tag status).good := by
  unfold Box.ackKnot
  repeat' split
  all_goals simp +contextual (maxDischargeDepth := 30) only [↓Box.onD_good, ↓Box.knotDone_good, hb]

theorem Box.knotArrive_good (b : Box) (i : Nat) (hb : b.good) :
    (Box.knotArrive b i).good := by
  unfold Box.knotArrive
  dsimp only
  repeat' split
  all_goals simp +contextual (maxDischargeDepth := 30) only [↓Box.onD_good, ↓Box.ackKnot_good, ↓Box.arrive_good, hb]

theorem Box.queueError_good (b : Box) (q kind : Nat) (hb : b.good) :
    (Box.queueError b q kind).good := by
  unfold Box.queueError
  simp +contextual (maxDischargeDepth := 30) only [↓Box.onD_good, ↓Box.flushMsgs_good, hb]

theorem Box.doorbell_good (b : Box) (q v : Nat) (hb : b.good) :
    (Box.doorbell b q v).good := by
  unfold Box.doorbell
  dsimp only
  repeat' split
  all_goals simp +contextual (maxDischargeDepth := 30) only [↓Box.onD_good, ↓Box.queueError_good, hb]

theorem Box.cqHeadWrite_good (b : Box) (q v : Nat) (hb : b.good) :
    (Box.cqHeadWrite b q v).good := by
  unfold Box.cqHeadWrite
  dsimp only
  simp +contextual (maxDischargeDepth := 30) only [↓Box.onD_good, ↓ite_good, ↓Box.queueError_good, hb]

theorem Box.mgmtEnable_good (b : Box) (v : W32) (hb : b.good) :
    (Box.mgmtEnable b v).good := by
  unfold Box.mgmtEnable
  dsimp only
  simp +contextual (maxDischargeDepth := 30) only [↓Box.onD_good, ↓ite_good, ↓Box.queueError_good, hb]

theorem Box.fetchEntry_good (b : Box) (q : Nat) (hb : b.good) :
    (Box.fetchEntry b q).good := by
  unfold Box.fetchEntry
  dsimp only
  simp +contextual (maxDischargeDepth := 30) only [↓Box.onD_good, ↓ite_good, ↓Box.queueError_good, hb]

theorem Box.writeCompletion_good (b : Box) (q : Nat) (hb : b.good) :
    (Box.writeCompletion b q).good := by
  unfold Box.writeCompletion
  dsimp only
  repeat' split
  all_goals simp +contextual (maxDischargeDepth := 30) only [↓Box.onD_good, ↓Box.flushMsgs_good, ↓Box.wrClean_good, hb]

theorem Box.ok_good (b : Box) (k : Pend) (detail : W32) (result : W64) (hb : b.good) :
    (Box.ok b k detail result).good := by
  unfold Box.ok
  simp +contextual (maxDischargeDepth := 30) only [↓Box.onD_good, hb]

theorem Box.fail_good (b : Box) (k : Pend) (ev : Nat) (ctx : Option Nat) (slots : List Int) (detail : W32) (hb : b.good) :
    (Box.fail b k ev ctx slots detail).good := by
  unfold Box.fail
  simp +contextual (maxDischargeDepth := 30) only [↓Box.onD_good, hb]

theorem Box.bad_good (b : Box) (k : Pend) (ctx : Option Nat) (byte : Int) (hb : b.good) :
    (Box.bad b k ctx byte).good := by
  unfold Box.bad
  simp +contextual (maxDischargeDepth := 30) only [↓Box.onD_good, hb]

theorem Box.fields_good (b : Box) (k : Pend) (ctx : Option Nat) (l : List (Bool × Nat)) (f : Box → Box) (hb : b.good) (hf_f : ∀ (b : Box), b.good → (f b).good) :
    (Box.fields b k ctx l f).good := by
  unfold Box.fields
  repeat' split
  all_goals simp +contextual (maxDischargeDepth := 30) only [↓Box.bad_good, hb, hf_f]

theorem Box.withAddr_good (b : Box) (k : Pend) (ctx : Option Nat) (byte a n align : Nat) (write : Bool) (f : Box → Box) (hb : b.good) (hf_f : ∀ (b : Box), b.good → (f b).good) :
    (Box.withAddr b k ctx byte a n align write f).good := by
  unfold Box.withAddr
  simp +contextual (maxDischargeDepth := 30) only [↓Box.onD_good, ↓ite_good, ↓Box.bad_good, hb, hf_f]

theorem Box.withData_good (b : Box) (k : Pend) (a n : Nat) (f : List Byte → Box → Box) (hb : b.good) (hf_f : ∀ (x0 : List Byte) (b : Box), b.good → (f x0 b).good) :
    (Box.withData b k a n f).good := by
  unfold Box.withData
  dsimp only
  simp +contextual (maxDischargeDepth := 30) only [↓Box.onD_good, ↓ite_good, hb, hf_f]

theorem Box.giveBytes_good (b : Box) (k : Pend) (ctx : Option Nat) (byte a : Nat) (l : Dev → List Byte) (hb : b.good) :
    (Box.giveBytes b k ctx byte a l).good := by
  unfold Box.giveBytes
  simp +contextual (maxDischargeDepth := 30) only [implies_true, ↓Box.ok_good, ↓Box.withAddr_good, ↓Box.wrClean_good, hb]

theorem Box.ici_good (b : Box) (opc : Nat) (c : Ici) (needs : Bool) (f : Pend → Box → Box) (hb : b.good) (hf_f : ∀ (x0 : Pend) (b : Box), b.good → (f x0 b).good) :
    (Box.ici b opc c needs f).good := by
  unfold Box.ici
  dsimp only
  repeat' split
  all_goals simp +contextual (maxDischargeDepth := 30) only [↓Box.onD_good, ↓Box.bad_good, hb, hf_f]

theorem Box.queueCreate_good (k : Pend) (p : BitVec 384) (b : Box) (hb : b.good) :
    (Box.queueCreate k p b).good := by
  unfold Box.queueCreate
  dsimp only
  simp +contextual (maxDischargeDepth := 30) only [implies_true, ↓Box.onD_good, ↓Box.fields_good, hb]

theorem Box.queueDelete_good (k : Pend) (p : BitVec 384) (b : Box) (hb : b.good) :
    (Box.queueDelete k p b).good := by
  unfold Box.queueDelete
  dsimp only
  simp +contextual (maxDischargeDepth := 30) only [implies_true, ↓Box.onD_good, ↓Box.fields_good, hb]

theorem Box.companionMap_good (k : Pend) (p : BitVec 384) (b : Box) (hb : b.good) :
    (Box.companionMap k p b).good := by
  unfold Box.companionMap
  dsimp only
  simp +contextual (maxDischargeDepth := 30) only [implies_true, ↓Box.onD_good, ↓Box.fields_good, hb]

theorem Box.companionUnmap_good (k : Pend) (p : BitVec 384) (b : Box) (hb : b.good) :
    (Box.companionUnmap k p b).good := by
  unfold Box.companionUnmap
  dsimp only
  repeat' split
  all_goals simp +contextual (maxDischargeDepth := 30) only [↓Box.onD_good, ↓Box.bad_good, hb]

theorem Box.undefMany_good (b : Box) (l : List (Tens × List Nat)) (hb : b.good) :
    (Box.undefMany b l).good := by
  unfold Box.undefMany
  simp +contextual (maxDischargeDepth := 30) only [implies_true, ↓foldl_good, ↓Box.undefLins_good, hb]

theorem Box.expertFault_good (b : Box) (x : Action) (t j v kind : Nat) (hb : b.good) :
    (Box.expertFault b x t j v kind).good := by
  unfold Box.expertFault
  simp +contextual (maxDischargeDepth := 30) only [↓Box.onD_good, ↓Box.faultStop_good, hb]

theorem Box.dispatchWrite_good (b : Box) (x : Action) (g : Moe) (ts td tm : Tens) (cs : List Choice) (fill : Tbl Nat) (hb : b.good) :
    (Box.dispatchWrite b x g ts td tm cs fill).good := by
  unfold Box.dispatchWrite
  dsimp only
  simp +contextual (maxDischargeDepth := 30) only [↓Box.onD_good, ↓ite_good, ↓Box.putCodes_good, ↓Box.putCvt_good, hb]

theorem Box.dispatchRun_good (b : Box) (x : Action) (hb : b.good) :
    (Box.dispatchRun b x).good := by
  unfold Box.dispatchRun
  dsimp only
  repeat' split
  all_goals simp +contextual (maxDischargeDepth := 30) only [implies_true, ↓Box.onD_good, ↓Box.onS_good, Store.free_wf, ↓Box.cached_good, ↓Box.undefMany_good, ↓Box.expertFault_good, ↓Box.dispatchWrite_good, ↓Box.badIndex_good, hb]

theorem Box.overMap_good (b : Box) (x : Action) (g : Moe) (tm : Tens) (lost : List (Tens × List Nat)) (f : Box → List MapEnt → Box) (hb : b.good) (hf_f : ∀ (b : Box) (x1 : List MapEnt), b.good → (f b x1).good) :
    (Box.overMap b x g tm lost f).good := by
  unfold Box.overMap
  dsimp only
  repeat' split
  all_goals simp +contextual (maxDischargeDepth := 30) only [↓Box.onD_good, ↓Box.cached_good, ↓Box.undefMany_good, ↓Box.expertFault_good, ↓Box.badIndex_good, hb, hf_f]

theorem Box.replayRun_good (b : Box) (x : Action) (hb : b.good) :
    (Box.replayRun b x).good := by
  unfold Box.replayRun
  dsimp only
  repeat' split
  all_goals simp +contextual (maxDischargeDepth := 30) only [implies_true, ↓Box.overMap_good, ↓Box.cached_good, ↓Box.putCodes_good, ↓Box.putCvt_good, hb]

theorem Box.combineRun_good (b : Box) (x : Action) (hb : b.good) :
    (Box.combineRun b x).good := by
  unfold Box.combineRun
  dsimp only
  repeat' split
  all_goals simp +contextual (maxDischargeDepth := 30) only [implies_true, ↓Box.overMap_good, ↓Box.cached_good, ↓Box.putCvt_good, ↓Box.addEls_good, hb]

theorem Box.vecRun_good (b : Box) (a : Act) (x : Action) (hb : b.good) :
    (Box.vecRun b a x).good := by
  unfold Box.vecRun
  dsimp only
  simp +contextual (maxDischargeDepth := 30) only [↓Box.onD_good, ↓ite_good, ↓Box.hWriteEls_good, hb]

theorem Box.topkRun_good (b : Box) (a : Act) (x : Action) (hb : b.good) :
    (Box.topkRun b a x).good := by
  unfold Box.topkRun
  dsimp only
  simp +contextual (maxDischargeDepth := 30) only [↓Box.onD_good, ↓ite_good, ↓Box.hPutEls_good, hb]

theorem Box.pressPut_good (b : Box) (x : Action) (t : Option Tens) (e : Nat) (v : W32) (hb : b.good) :
    (Box.pressPut b x t e v).good := by
  unfold Box.pressPut
  simp +contextual (maxDischargeDepth := 30) only [implies_true, ↓elim_good, ↓Box.engPut_good, hb]

theorem Box.pressCopy_good (b : Box) (x : Action) (e : Nat) (p : W32) (hb : b.good) :
    (Box.pressCopy b x e p).good := by
  unfold Box.pressCopy
  dsimp only
  simp +contextual (maxDischargeDepth := 30) only [implies_true, ↓Box.onD_good, ↓elim_good, ↓Box.engPut_good, hb]

theorem Box.pressEl_good (x : Action) (c : PressCfg) (k : W32) (b : Box) (e : Nat) (hb : b.good) :
    (Box.pressEl x c k b e).good := by
  unfold Box.pressEl
  dsimp only
  repeat' split
  all_goals simp +contextual (maxDischargeDepth := 30) only [↓Box.onD_good, ↓Box.observe_good, ↓Box.pressCopy_good, ↓Box.pressPut_good, hb]

theorem Box.pressEls_good (b : Box) (a : Act) (x : Action) (c : PressCfg) (k : W32) (l : List Nat) (hb : b.good) :
    (b.pressEls a x c k l).good := by
  induction l generalizing b with
  | nil => exact hb
  | cons e t ih =>
    unfold Box.pressEls
    split
    · exact hb
    · exact ih _ (Box.pressEl_good _ _ _ _ _ hb)

theorem Box.pressUpdateRun_good (b : Box) (a : Act) (x : Action) (hb : b.good) :
    (Box.pressUpdateRun b a x).good := by
  unfold Box.pressUpdateRun
  dsimp only
  repeat' split
  all_goals simp +contextual (maxDischargeDepth := 30) only [↓Box.onD_good, ↓Box.observe_good, ↓Box.pressEls_good, hb]

theorem Box.pressNormRun_good (b : Box) (x : Action) (hb : b.good) :
    (Box.pressNormRun b x).good := by
  unfold Box.pressNormRun
  dsimp only
  repeat' split
  all_goals simp +contextual (maxDischargeDepth := 30) only [↓Box.onD_good, ↓Box.engPut_good, hb]

theorem Box.hemfRow_good (a : Act) (x : Action) (i : HemIn) (b : Box) (row : Nat) (hb : b.good) :
    (Box.hemfRow a x i b row).good := by
  unfold Box.hemfRow
  dsimp only
  simp +contextual (maxDischargeDepth := 30) only [↓Box.onD_good, ↓Box.hWriteEls_good, hb]

theorem Box.hemfRun_good (b : Box) (a : Act) (x : Action) (hb : b.good) :
    (Box.hemfRun b a x).good := by
  unfold Box.hemfRun
  dsimp only
  simp +contextual (maxDischargeDepth := 30) only [implies_true, ↓Box.onD_good, ↓foldl_good, ↓Box.hemfRow_good, hb]

theorem Box.hemAccum_good (b : Box) (a : Act) (x : Action) (off : Nat) (add : List W32) (bad : Bool) (hb : b.good) :
    (Box.hemAccum b a x off add bad).good := by
  unfold Box.hemAccum
  dsimp only
  simp +contextual (maxDischargeDepth := 30) only [↓Box.onD_good, ↓ite_good, ↓Box.hPutEls_good, hb]

theorem Box.hembRow_good (a : Act) (x : Action) (i : HemIn) (b : Box) (row : Nat) (hb : b.good) :
    (Box.hembRow a x i b row).good := by
  unfold Box.hembRow
  dsimp only
  repeat' split
  all_goals simp +contextual (maxDischargeDepth := 30) only [↓Box.onD_good, ↓Box.hWriteEls_good, ↓Box.hemAccum_good, hb]

theorem Box.hemFault_good (b : Box) (cl : Nat) (x : Action) (row : Nat) (hb : b.good) :
    (Box.hemFault b cl x row).good := by
  unfold Box.hemFault
  dsimp only
  simp +contextual (maxDischargeDepth := 30) only [↓Box.onD_good, ↓Box.faultStop_good, hb]

theorem Box.hembRun_good (b : Box) (a : Act) (x : Action) (hb : b.good) :
    (Box.hembRun b a x).good := by
  unfold Box.hembRun
  dsimp only
  repeat' split
  all_goals simp +contextual (maxDischargeDepth := 30) only [implies_true, ↓Box.onD_good, ↓foldl_good, ↓Box.hemFault_good, ↓Box.hembRow_good, hb]

theorem Box.collSend_good (b : Box) (p : Plan) (plan inst : Nat) (hb : b.good) :
    (Box.collSend b p plan inst).good := by
  unfold Box.collSend
  repeat' first | assumption | with_reducible apply Box.onD_good | with_reducible apply ite_good | with_reducible apply foldl_good | split | intro _

theorem Box.collPut_good (b : Box) (p : Plan) (i : CollInst) (es : List Nat) (els : List Elem) (hb : b.good) :
    (Box.collPut b p i es els).good := by
  unfold Box.collPut
  dsimp only
  repeat' split
  all_goals simp +contextual (maxDischargeDepth := 30) only [↓Box.engPut_good, ↓Box.observe_good, hb]

theorem Box.collWrite_good (b : Box) (p : Plan) (plan inst : Nat) (hb : b.good) :
    (Box.collWrite b p plan inst).good := by
  unfold Box.collWrite
  dsimp only
  repeat' first | assumption | with_reducible apply Box.onD_good | with_reducible apply ite_good | with_reducible apply foldl_good | with_reducible apply Box.collPut_good | split | intro _

theorem Box.collRelease_good (b : Box) (p : Plan) (i : CollInst) (slip : Nat) (hb : b.good) :
    (Box.collRelease b p i slip).good := by
  unfold Box.collRelease
  dsimp only
  simp +contextual (maxDischargeDepth := 30) only [↓Box.onD_good, ↓ite_good, ↓Box.stopAtBoundary_good, hb]

theorem Box.collDoneCheck_good (b : Box) (p : Plan) (plan inst : Nat) (hb : b.good) :
    (Box.collDoneCheck b p plan inst).good := by
  unfold Box.collDoneCheck
  dsimp only
  repeat' split
  all_goals simp +contextual (maxDischargeDepth := 30) only [↓Box.onD_good, ↓Box.collRelease_good, hb]

theorem Box.collAdvance_good (b : Box) (plan inst : Nat) (hb : b.good) :
    (Box.collAdvance b plan inst).good := by
  unfold Box.collAdvance
  repeat' split
  all_goals simp +contextual (maxDischargeDepth := 30) only [↓Box.collDoneCheck_good, ↓Box.collSend_good, ↓Box.collWrite_good, hb]

theorem Box.collFail_good (b : Box) (i : CollInst) (status reporter : Nat) (abort : Bool) (hb : b.good) :
    (Box.collFail b i status reporter abort).good := by
  unfold Box.collFail
  simp +contextual (maxDischargeDepth := 30) only [↓Box.failColl_good, ↓Box.faultStop_good, hb]

theorem Box.collBegin_good (b : Box) (p : Plan) (i : CollInst) (hb : b.good) :
    (Box.collBegin b p i).good := by
  unfold Box.collBegin
  dsimp only
  repeat' split
  all_goals simp +contextual (maxDischargeDepth := 30) only [↓Box.onD_good, ↓Box.collAdvance_good, ↓Box.collPut_good, hb]

theorem Box.collReject_good (b : Box) (p : Plan) (i : CollInst) (status : Nat) (hb : b.good) :
    (Box.collReject b p i status).good := by
  unfold Box.collReject
  dsimp only
  simp +contextual (maxDischargeDepth := 30) only [↓Box.onD_good, ↓ite_good, ↓Box.collFail_good, hb]

theorem Box.collRun_good (b : Box) (a : Act) (x : Action) (hb : b.good) :
    (Box.collRun b a x).good := by
  unfold Box.collRun
  dsimp only
  repeat' split
  all_goals simp +contextual (maxDischargeDepth := 30) only [↓Box.collBegin_good, ↓Box.collReject_good, hb]

theorem Box.wrongEpoch_good (b : Box) (p : Plan) (i : CollInst) (e : Nat) (hb : b.good) :
    (Box.wrongEpoch b p i e).good := by
  unfold Box.wrongEpoch
  simp +contextual (maxDischargeDepth := 30) only [↓Box.onD_good, ↓Box.collFail_good, hb]

theorem Box.takeChunk_good (b : Box) (p : Plan) (i : CollInst) (k : Packet) (src : Nat) (hb : b.good) :
    (Box.takeChunk b p i k src).good := by
  unfold Box.takeChunk
  dsimp only
  repeat' split
  all_goals simp +contextual (maxDischargeDepth := 30) only [↓Box.onD_good, ↓Box.collAdvance_good, hb]

theorem Box.onColl_good (b : Box) (k : Packet) (f : Plan → CollInst → Nat → Box) (hb : b.good) (hf_f : ∀ (x0 : Plan) (x1 : CollInst) (x2 : Nat), b.good → (f x0 x1 x2).good) :
    (Box.onColl b k f).good := by
  unfold Box.onColl
  repeat' split
  all_goals simp +contextual (maxDischargeDepth := 30) only [implies_true, ↓elim_good, hb, hf_f]

theorem Box.takeCollData_good (b : Box) (k : Packet) (hb : b.good) :
    (Box.takeCollData b k).good := by
  unfold Box.takeCollData
  simp +contextual (maxDischargeDepth := 30) only [implies_true, ↓ite_good, ↓Box.onColl_good, ↓Box.takeChunk_good, ↓Box.wrongEpoch_good, hb]

theorem Box.ctrlOf_good (b : Box) (kind : Nat) (p : Nat) (k : Packet) (f : Box → Box) (hb : b.good) (hf_f : ∀ (b : Box), b.good → (f b).good) :
    (Box.ctrlOf b kind p k f).good := by
  unfold Box.ctrlOf
  simp +contextual (maxDischargeDepth := 30) only [implies_true, ↓ite_good, ↓Box.packetOf_good, hb, hf_f]

theorem Box.earlyReady_good (b : Box) (p : Plan) (plan inst m : Nat) (hb : b.good) :
    (Box.earlyReady b p plan inst m).good := by
  unfold Box.earlyReady
  dsimp only
  simp +contextual (maxDischargeDepth := 30) only [implies_true, ↓Box.onD_good, ↓ite_good, ↓elim_good, ↓Box.collFail_good, hb]

theorem Box.takeReady_good (b : Box) (k : Packet) (hb : b.good) :
    (Box.takeReady b k).good := by
  unfold Box.takeReady
  dsimp only
  repeat' split
  all_goals simp +contextual (maxDischargeDepth := 30) only [↓Box.onD_good, ↓Box.collAdvance_good, ↓Box.earlyReady_good, hb]

theorem Box.takeDone_good (b : Box) (k : Packet) (hb : b.good) :
    (Box.takeDone b k).good := by
  unfold Box.takeDone
  simp +contextual (maxDischargeDepth := 30) only [implies_true, ↓Box.onD_good, ↓ite_good, ↓Box.collDoneCheck_good, ↓Box.onColl_good, hb]

theorem Box.takeRelease_good (b : Box) (k : Packet) (hb : b.good) :
    (Box.takeRelease b k).good := by
  unfold Box.takeRelease
  simp +contextual (maxDischargeDepth := 30) only [implies_true, ↓ite_good, ↓Box.collRelease_good, ↓Box.onColl_good, hb]

theorem Box.takeAbort_good (b : Box) (k : Packet) (hb : b.good) :
    (Box.takeAbort b k).good := by
  unfold Box.takeAbort
  simp +contextual (maxDischargeDepth := 30) only [implies_true, ↓Box.collFail_good, ↓Box.onColl_good, hb]

theorem Box.takeCollCtrl_good (b : Box) (k : Packet) (hb : b.good) :
    (Box.takeCollCtrl b k).good := by
  unfold Box.takeCollCtrl
  dsimp only
  simp +contextual (maxDischargeDepth := 30) only [↓ite_good, ↓Box.takeAbort_good, ↓Box.takeDone_good, ↓Box.takeReady_good, ↓Box.takeRelease_good, hb]

theorem Box.pressAtLaunch_good (b : Box) (x : Action) (hb : b.good) :
    (Box.pressAtLaunch b x).good := by
  unfold Box.pressAtLaunch
  dsimp only
  simp +contextual (maxDischargeDepth := 30) only [↓Box.onD_good, hb]

theorem Box.launch_good (b : Box) (cs : CS) (n : Nat) (x : NextAct) (r : BitVec 256) (slack : Nat) (l : Nat) (hb : b.good) :
    (Box.launch b cs n x r slack l).good := by
  unfold Box.launch
  dsimp only
  repeat' split
  all_goals simp +contextual (maxDischargeDepth := 30) only [implies_true, ↓Box.onD_good, ↓foldl_good, ↓Box.touchShape_good, ↓Box.faultStop_good, ↓Box.pressAtLaunch_good, hb]

theorem Box.tryLaunch_good (b : Box) (cs : CS) (n : Nat) (x : NextAct) (r : BitVec 256) (slack : Nat) (report : Nat) (hb : b.good) :
    (Box.tryLaunch b cs n x r slack report).good := by
  unfold Box.tryLaunch
  dsimp only
  repeat' split
  all_goals simp +contextual (maxDischargeDepth := 30) only [implies_true, ↓Box.onD_good, ↓elim_good, ↓Box.launch_good, hb]

theorem Box.actionLaunch_good (b : Box) (cs : CS) (w : W64) (rec : BitVec 256) (tack : BitVec 128) (same : Bool) (report : Nat) (unit : Nat) (hb : b.good) :
    (Box.actionLaunch b cs w rec tack same report unit).good := by
  unfold Box.actionLaunch
  dsimp only
  repeat' split
  all_goals simp +contextual (maxDischargeDepth := 30) only [↓Box.onD_good, ↓Box.tryLaunch_good, hb]

theorem Box.hang_good (b : Box) (e : Engine) (hb : b.good) :
    (Box.hang b e).good := by
  unfold Box.hang
  dsimp only
  simp +contextual (maxDischargeDepth := 30) only [implies_true, ↓Box.onD_good, ↓ite_good, ↓foldl_good, ↓elim_good, ↓Box.faultStop_good, ↓Box.strike_good, hb]

theorem Box.markLine_good (b : Box) (m : Nat) (ph : Nat) (addr : Nat) (line : Nat) (hb : b.good) :
    (Box.markLine b m ph addr line).good := by
  unfold Box.markLine
  simp +contextual (maxDischargeDepth := 30) only [implies_true, ↓Box.onD_good, ↓ite_good, ↓Box.onS_good, Store.poisonMem_wf, hb]

theorem Box.decode_good (b : Box) (m : Nat) (ph : Nat) (addr : Nat) (line : Nat) (source : Nat) (ctx : Option Nat) (e : Ecc) (hb : b.good) :
    (Box.decode b m ph addr line source ctx e).good := by
  unfold Box.decode
  repeat' split
  all_goals simp +contextual (maxDischargeDepth := 30) only [↓Box.onD_good, ↓Box.markLine_good, hb]

theorem Box.copyErrors_good (b : Box) (m ph : Nat) (errs : List (Nat × Nat × Ecc)) (hb : b.good) :
    (Box.copyErrors b m ph errs).good := by
  unfold Box.copyErrors
  simp +contextual (maxDischargeDepth := 30) only [implies_true, ↓foldl_good, ↓Box.decode_good, hb]

theorem Box.answerLine_good (b : Box) (l : List PB) (hb : b.good) :
    (Box.answerLine b l).good := by
  unfold Box.answerLine
  simp +contextual (maxDischargeDepth := 30) only [↓Box.onD_good, hb]

theorem Box.writeLine_good (b : Box) (x : SpoolAcc) (w : BitVec 512) (m : Nat) (ph : Nat) (addr : Nat) (whole : Bool) (hb : b.good) :
    (Box.writeLine b x w m ph addr whole).good := by
  unfold Box.writeLine
  dsimp only
  simp +contextual (maxDischargeDepth := 30) only [↓Box.onD_good, ↓ite_good, ↓Box.wrDev_good, hb]

theorem Box.serveLine_good (b : Box) (x : SpoolAcc) (hb : b.good) :
    (Box.serveLine b x).good := by
  unfold Box.serveLine
  dsimp only
  repeat' split
  all_goals simp +contextual (maxDischargeDepth := 30) only [↓Box.onD_good, ↓Box.decode_good, ↓Box.answerLine_good, ↓Box.writeLine_good, ↓Box.copyErrors_good, hb]

theorem Box.stopAll_good (b : Box) (ev : Nat) (hb : b.good) :
    (Box.stopAll b ev).good := by
  unfold Box.stopAll
  simp +contextual (maxDischargeDepth := 30) only [implies_true, ↓Box.onD_good, ↓foldl_good, ↓Box.faultStop_good, hb]

theorem Box.thermChange_good (b : Box) (m old new : Nat) (hb : b.good) :
    (Box.thermChange b m old new).good := by
  unfold Box.thermChange
  dsimp only
  simp +contextual (maxDischargeDepth := 30) only [↓Box.onD_good, ↓ite_good, ↓Box.stopAll_good, hb]

theorem Box.thermSample_good (b : Box) (m : Nat) (temp : W16) (sensor : Nat) (hb : b.good) :
    (Box.thermSample b m temp sensor).good := by
  unfold Box.thermSample
  dsimp only
  simp +contextual (maxDischargeDepth := 30) only [↓Box.onD_good, ↓ite_good, ↓Box.thermChange_good, hb]

theorem Box.fetchLine_good (b : Box) (line : Nat) (a : Act) (ecc : Ecc) (hb : b.good) :
    (Box.fetchLine b line a ecc).good := by
  unfold Box.fetchLine
  dsimp only
  repeat' split
  all_goals simp +contextual (maxDischargeDepth := 30) only [↓Box.onD_good, ↓Box.decode_good, hb]

theorem Box.runAhead_good (b : Box) (x : AheadBy) (ecc : Ecc) (hb : b.good) :
    (Box.runAhead b x ecc).good := by
  unfold Box.runAhead
  dsimp only
  repeat' split
  all_goals simp +contextual (maxDischargeDepth := 30) only [↓Box.fetchLine_good, ↓Box.decode_good, hb]

theorem Box.spoolAlloc_good (k : Pend) (p : BitVec 384) (b : Box) (hb : b.good) : (Box.spoolAlloc k p b).good := by
  unfold Box.spoolAlloc
  refine Box.fields_good _ _ _ _ _ hb fun b hb => ?_
  split
  · exact Box.fail_good _ _ _ _ _ _ hb
  · refine Box.ok_good _ _ _ _ (Box.onS_good _ _ (Box.onD_good _ _ hb) fun s hs => ?_)
    split
    · exact s.zeroMem_wf _ _ hs
    · exact s.undefMem_wf _ _ hs

theorem Box.spoolFree_good (k : Pend) (p : BitVec 384) (b : Box) (hb : b.good) :
    (Box.spoolFree k p b).good := by
  unfold Box.spoolFree
  dsimp only
  repeat' split
  all_goals simp +contextual (maxDischargeDepth := 30) only [↓Box.onD_good, ↓Box.bad_good, ↓Box.fail_good, hb]

theorem Box.chanCommand_good (b : Box) (k : Pend) (m : Nat) (r : ChanReq) (byte : Int) (hb : b.good) :
    (Box.chanCommand b k m r byte).good := by
  unfold Box.chanCommand
  simp +contextual (maxDischargeDepth := 30) only [↓Box.onD_good, ↓ite_good, ↓Box.bad_good, hb]

theorem Box.chanRetrain_good (k : Pend) (p : BitVec 384) (b : Box) (hb : b.good) :
    (Box.chanRetrain k p b).good := by
  unfold Box.chanRetrain
  simp +contextual (maxDischargeDepth := 30) only [implies_true, ↓Box.chanCommand_good, ↓Box.fields_good, hb]

theorem Box.chanRetire_good (k : Pend) (p : BitVec 384) (b : Box) (hb : b.good) :
    (Box.chanRetire k p b).good := by
  unfold Box.chanRetire
  simp +contextual (maxDischargeDepth := 30) only [implies_true, ↓Box.chanCommand_good, ↓Box.fields_good, hb]

theorem Box.chanTest_good (k : Pend) (p : BitVec 384) (reads : List TestRead) (b : Box) (hb : b.good) :
    (Box.chanTest k p reads b).good := by
  unfold Box.chanTest
  dsimp only
  simp +contextual (maxDischargeDepth := 30) only [implies_true, ↓Box.onD_good, ↓ite_good, ↓Box.fields_good, ↓Box.bad_good, ↓Box.withAddr_good, ↓Box.wrClean_good, ↓Box.ok_good, hb]

theorem Box.basteTake_good (k : Pend) (p : BitVec 384) (b : Box) (hb : b.good) :
    (Box.basteTake k p b).good := by
  unfold Box.basteTake
  dsimp only
  simp +contextual (maxDischargeDepth := 30) only [implies_true, ↓Box.onD_good, ↓Box.fields_good, ↓Box.withAddr_good, ↓Box.withData_good, hb]

theorem Box.drainWrite_good (b : Box) (id a : Nat) (l : List Byte) (hb : b.good) :
    (Box.drainWrite b id a l).good := by
  unfold Box.drainWrite
  dsimp only
  simp +contextual (maxDischargeDepth := 30) only [implies_true, ↓Box.onD_good, ↓ite_good, ↓Box.onS_good, Store.wrMem_wf, ↓Box.pumpWrites_good, ↓Box.wrClean_good, hb]

theorem Box.drainAck_good (b : Box) (id : Nat) (x : Baste) (hb : b.good) :
    (Box.drainAck b id x).good := by
  unfold Box.drainAck
  dsimp only
  repeat' split
  all_goals simp +contextual (maxDischargeDepth := 30) only [↓Box.onD_good, hb]

theorem Box.drainNext_good (b : Box) (id : Nat) (x : Baste) (hb : b.good) :
    (Box.drainNext b id x).good := by
  unfold Box.drainNext
  dsimp only
  repeat' split
  all_goals simp +contextual (maxDischargeDepth := 30) only [↓Box.onD_good, ↓Box.drainWrite_good, hb]

theorem Box.drainStep_good (b : Box) (id : Nat) (fail : Option Nat) (hb : b.good) :
    (Box.drainStep b id fail).good := by
  unfold Box.drainStep
  dsimp only
  repeat' split
  all_goals simp +contextual (maxDischargeDepth := 30) only [↓Box.onD_good, ↓Box.drainAck_good, ↓Box.drainNext_good, hb]

theorem Box.basteDrain_good (k : Pend) (p : BitVec 384) (b : Box) (hb : b.good) :
    (Box.basteDrain k p b).good := by
  unfold Box.basteDrain
  dsimp only
  simp +contextual (maxDischargeDepth := 30) only [implies_true, ↓Box.onD_good, ↓Box.fields_good, hb]

theorem Box.restoreFrom_good (b : Box) (k : Pend) (a off digests : Nat) (t : List Byte) (verify : Bool) (l : List Int) (i : Nat)
    (hb : b.good) : (b.restoreFrom k a off digests t verify l i).1.good := by
  induction l generalizing b i with
  | nil => simp only [Box.restoreFrom]; exact hb
  | cons x xs ih =>
    simp only [Box.restoreFrom]
    split
    · refine ih _ _ (ite_good _ _ _ hb ?_)
      exact Box.wrClean_good _ _ _ hb
    · refine Box.fail_good _ _ _ _ _ _ (ite_good _ _ _ hb ?_)
      exact foldl_good _ _ _ hb fun b y h => Box.onS_good _ _ h fun s hs => s.undefMem_wf _ _ hs

theorem Box.markPoison_good (b : Box) (targets : List Int) (l : List Byte) (n : Nat) (hb : b.good) :
    (Box.markPoison b targets l n).good := by
  unfold Box.markPoison
  repeat' first | assumption | with_reducible apply Box.onD_good | with_reducible apply foldl_good | with_reducible apply Box.onS_good | with_reducible apply Store.foldl_wf | with_reducible apply Store.poisonMem_wf | split | intro _

theorem Box.restoreWith_good (b : Box) (k : Pend) (a : Nat) (delta : Int) (verify : Bool) (h t : List Byte) (hb : b.good) :
    (Box.restoreWith b k a delta verify h t).good := by
  unfold Box.restoreWith
  dsimp only
  simp +contextual (maxDischargeDepth := 30) only [implies_true, ↓Box.onD_good, ↓ite_good, ↓Box.fail_good, ↓Box.fields_good, ↓Box.markPoison_good, ↓Box.ok_good, ↓Box.restoreFrom_good, ↓Box.withAddr_good, hb]

theorem Box.basteRestore_good (k : Pend) (p : BitVec 384) (b : Box) (hb : b.good) :
    (Box.basteRestore k p b).good := by
  unfold Box.basteRestore
  dsimp only
  simp +contextual (maxDischargeDepth := 30) only [implies_true, ↓Box.fields_good, ↓Box.restoreWith_good, ↓Box.withAddr_good, ↓Box.withData_good, hb]

theorem Box.badEntry_good (b : Box) (k : Pend) (ctx : Nat) (i : Nat) (field : Int) (hb : b.good) :
    (Box.badEntry b k ctx i field).good := by
  unfold Box.badEntry
  simp +contextual (maxDischargeDepth := 30) only [↓Box.fail_good, hb]

theorem Box.pressSlotSet_good (k : Pend) (p : BitVec 384) (b : Box) (hb : b.good) :
    (Box.pressSlotSet k p b).good := by
  unfold Box.pressSlotSet
  dsimp only
  repeat' first | assumption | with_reducible apply Box.onD_good | with_reducible apply ite_good | with_reducible apply Box.badEntry_good | with_reducible apply Box.fields_good | with_reducible apply Box.ok_good | with_reducible apply Box.withAddr_good | with_reducible apply Box.withData_good | split | intro _

theorem Box.pressProgramSet_good (k : Pend) (p : BitVec 384) (b : Box) (hb : b.good) :
    (Box.pressProgramSet k p b).good := by
  unfold Box.pressProgramSet
  dsimp only
  repeat' first | assumption | with_reducible apply Box.onD_good | with_reducible apply Box.badEntry_good | with_reducible apply Box.fields_good | with_reducible apply Box.withAddr_good | with_reducible apply Box.withData_good | split | intro _

theorem Box.pressSlotQuery_good (k : Pend) (p : BitVec 384) (b : Box) (hb : b.good) :
    (Box.pressSlotQuery k p b).good := by
  unfold Box.pressSlotQuery
  dsimp only
  simp +contextual (maxDischargeDepth := 30) only [implies_true, ↓ite_good, ↓Box.fields_good, ↓Box.giveBytes_good, ↓Box.ok_good, hb]

theorem Box.seqAssign_good (k : Pend) (p : BitVec 384) (b : Box) (hb : b.good) :
    (Box.seqAssign k p b).good := by
  unfold Box.seqAssign
  dsimp only
  simp +contextual (maxDischargeDepth := 30) only [implies_true, ↓Box.onD_good, ↓ite_good, ↓Box.fields_good, ↓Box.ok_good, hb]

theorem Box.seqRelease_good (k : Pend) (p : BitVec 384) (b : Box) (hb : b.good) :
    (Box.seqRelease k p b).good := by
  unfold Box.seqRelease
  dsimp only
  simp +contextual (maxDischargeDepth := 30) only [implies_true, ↓Box.onD_good, ↓ite_good, ↓Box.fields_good, ↓Box.ok_good, hb]

theorem Box.seqStage_good (k : Pend) (p : BitVec 384) (b : Box) (hb : b.good) :
    (Box.seqStage k p b).good := by
  unfold Box.seqStage
  dsimp only
  repeat' first | assumption | with_reducible apply Box.onD_good | with_reducible apply ite_good | with_reducible apply Box.bad_good | with_reducible apply Box.fields_good | with_reducible apply Box.ok_good | with_reducible apply Box.withAddr_good | with_reducible apply Box.withData_good | split | intro _

theorem Box.seqQuery_good (k : Pend) (p : BitVec 384) (b : Box) (hb : b.good) :
    (Box.seqQuery k p b).good := by
  unfold Box.seqQuery
  dsimp only
  simp +contextual (maxDischargeDepth := 30) only [implies_true, ↓ite_good, ↓Box.fields_good, ↓Box.giveBytes_good, ↓Box.ok_good, hb]

theorem Box.chalkConfig_good (k : Pend) (p : BitVec 384) (b : Box) (hb : b.good) :
    (Box.chalkConfig k p b).good := by
  unfold Box.chalkConfig
  dsimp only
  simp +contextual (maxDischargeDepth := 30) only [implies_true, ↓Box.onD_good, ↓ite_good, ↓Box.fields_good, ↓Box.ok_good, hb]

theorem Box.chalkQuery_good (k : Pend) (p : BitVec 384) (b : Box) (hb : b.good) :
    (Box.chalkQuery k p b).good := by
  unfold Box.chalkQuery
  dsimp only
  simp +contextual (maxDischargeDepth := 30) only [implies_true, ↓ite_good, ↓Box.fields_good, ↓Box.giveBytes_good, ↓Box.ok_good, hb]

theorem Box.abort_good (b : Box) (cs : CS) (w : W64) (hb : b.good) :
    (Box.abort b cs w).good := by
  unfold Box.abort
  dsimp only
  simp +contextual (maxDischargeDepth := 30) only [implies_true, ↓Box.onD_good, ↓elim_good, ↓Box.stopNow_good, hb]

theorem Box.swld_good (b : Box) (cs : CS) (w : W64) (same : Bool) (hb : b.good) :
    (Box.swld b cs w same).good := by
  unfold Box.swld
  dsimp only
  repeat' split
  all_goals simp +contextual (maxDischargeDepth := 30) only [↓Box.onD_good, ↓Box.touchShape_good, hb]

theorem Box.withToken_good (b : Box) (k : Pend) (a purpose : Nat) (f : List Byte → Nat → Box → Box) (hb : b.good)
    (hf : ∀ l n b, b.good → (f l n b).good) : (b.withToken k a purpose f).good := by
  unfold Box.withToken
  refine Box.withData_good _ _ _ _ _ hb fun l b hb => ?_
  split
  · exact Box.onD_good _ _ hb
  · exact hf _ _ _ (Box.onD_good _ _ hb)

theorem Box.testFailed_good (b : Box) (kind number suite : Nat) (hb : b.good) :
    (Box.testFailed b kind number suite).good := by
  unfold Box.testFailed
  repeat' split
  all_goals simp +contextual (maxDischargeDepth := 30) only [implies_true, ↓Box.onD_good, ↓elim_good, ↓Box.due_good, hb]

theorem Box.runTest_good (b : Box) (k : Pend) (kind number mask : Nat) (hb : b.good) :
    (Box.runTest b k kind number mask).good := by
  unfold Box.runTest
  dsimp only
  repeat' split
  all_goals simp +contextual (maxDischargeDepth := 30) only [implies_true, ↓Box.onD_good, ↓Box.onS_good, Store.scratchLost_wf, ↓Box.ok_good, ↓Box.testFailed_good, hb]

theorem Box.testRun_good (k : Pend) (p : BitVec 384) (b : Box) (hb : b.good) :
    (Box.testRun k p b).good := by
  unfold Box.testRun
  dsimp only
  simp +contextual (maxDischargeDepth := 30) only [implies_true, ↓ite_good, ↓Box.due_good, ↓Box.fields_good, ↓Box.ok_good, ↓Box.runTest_good, hb]

theorem Box.spareTested_good (b : Box) (bolt k : Nat) (ok : Bool) (hb : b.good) :
    (Box.spareTested b bolt k ok).good := by
  unfold Box.spareTested
  dsimp only
  repeat' split
  all_goals simp +contextual (maxDischargeDepth := 30) only [↓Box.onD_good, ↓Box.settleDue_good, ↓Box.tryRetire_good, hb]

theorem Box.bootFailed_good (b : Box) (f : Nat × Nat) (hb : b.good) :
    (Box.bootFailed b f).good := by
  unfold Box.bootFailed
  dsimp only
  repeat' split
  all_goals simp +contextual (maxDischargeDepth := 30) only [↓Box.onD_good, ↓Box.due_good, ↓Box.settleDue_good, hb]

theorem Box.cutterRotate_good (k : Pend) (p : BitVec 384) (b : Box) (hb : b.good) :
    (Box.cutterRotate k p b).good := by
  unfold Box.cutterRotate
  dsimp only
  simp +contextual (maxDischargeDepth := 30) only [implies_true, ↓Box.onD_good, ↓Box.fields_good, hb]

theorem Box.shadowConfig_good (k : Pend) (p : BitVec 384) (b : Box) (hb : b.good) :
    (Box.shadowConfig k p b).good := by
  unfold Box.shadowConfig
  dsimp only
  simp +contextual (maxDischargeDepth := 30) only [implies_true, ↓Box.onD_good, ↓foldl_good, ↓Box.checkStrikes_good, ↓Box.fields_good, ↓Box.ok_good, hb]

theorem Box.descCreate_good (k : Pend) (p : BitVec 384) (b : Box) (hb : b.good) :
    (Box.descCreate k p b).good := by
  unfold Box.descCreate
  dsimp only
  repeat' first | assumption | with_reducible apply Box.onD_good | with_reducible apply Box.fail_good | with_reducible apply Box.fields_good | with_reducible apply Box.withAddr_good | with_reducible apply Box.withData_good | split | intro _

theorem Box.descDestroy_good (k : Pend) (p : BitVec 384) (b : Box) (hb : b.good) :
    (Box.descDestroy k p b).good := by
  unfold Box.descDestroy
  dsimp only
  simp +contextual (maxDischargeDepth := 30) only [implies_true, ↓Box.onD_good, ↓Box.fields_good, hb]

theorem Box.packetLost_good (b : Box) (k : Packet) (hb : b.good) :
    (Box.packetLost b k).good := by
  unfold Box.packetLost
  simp +contextual (maxDischargeDepth := 30) only [implies_true, ↓Box.onD_good, ↓ite_good, ↓elim_good, ↓Box.collFail_good, ↓Box.statusThree_good, hb]

theorem Box.reroute_good (b : Box) (e : Packet × Option Nat) (hb : b.good) :
    (Box.reroute b e).good := by
  unfold Box.reroute
  dsimp only
  repeat' split
  all_goals simp +contextual (maxDischargeDepth := 30) only [↓Box.onD_good, ↓Box.noWay_good, hb]

theorem Box.seamDown_good (b : Box) (p : Nat) (st : Nat) (reason : Option Nat) (hb : b.good) :
    (Box.seamDown b p st reason).good := by
  unfold Box.seamDown
  dsimp only
  simp +contextual (maxDischargeDepth := 30) only [implies_true, ↓Box.onD_good, ↓ite_good, ↓foldl_good, ↓Box.packetLost_good, ↓Box.partnerLost_good, ↓Box.reroute_good, hb]

theorem Box.takeHeartbeat_good (b : Box) (p : Nat) (y : List Byte) (hb : b.good) :
    (Box.takeHeartbeat b p y).good := by
  unfold Box.takeHeartbeat
  dsimp only
  simp +contextual (maxDischargeDepth := 30) only [↓Box.onD_good, ↓ite_good, ↓Box.seamDown_good, hb]

theorem Box.dropLane_good (b : Box) (p lane : Nat) (hb : b.good) :
    (Box.dropLane b p lane).good := by
  unfold Box.dropLane
  dsimp only
  simp +contextual (maxDischargeDepth := 30) only [↓Box.onD_good, ↓ite_good, ↓Box.seamDown_good, hb]

theorem Box.nextLane_good (b : Box) (p : Nat) (hb : b.good) :
    (Box.nextLane b p).good := by
  unfold Box.nextLane
  dsimp only
  repeat' split
  all_goals simp +contextual (maxDischargeDepth := 30) only [↓Box.onD_good, ↓Box.dropLane_good, hb]

theorem Box.queueLane_good (b : Box) (p lane trigger : Nat) (hb : b.good) :
    (Box.queueLane b p lane trigger).good := by
  unfold Box.queueLane
  simp +contextual (maxDischargeDepth := 30) only [↓Box.onD_good, ↓ite_good, ↓Box.nextLane_good, hb]

theorem Box.laneLeaves_good (b : Box) (p lane : Nat) (t : LaneTrigger) (hb : b.good) :
    (Box.laneLeaves b p lane t).good := by
  unfold Box.laneLeaves
  dsimp only
  simp +contextual (maxDischargeDepth := 30) only [↓ite_good, ↓Box.dropLane_good, ↓Box.queueLane_good, hb]

theorem Box.laneDone_good (b : Box) (p lane : Nat) (hb : b.good) :
    (Box.laneDone b p lane).good := by
  unfold Box.laneDone
  dsimp only
  repeat' split
  all_goals simp +contextual (maxDischargeDepth := 30) only [↓Box.onD_good, ↓Box.nextLane_good, hb]

theorem Box.laneFailed_good (b : Box) (p lane : Nat) (hb : b.good) :
    (Box.laneFailed b p lane).good := by
  unfold Box.laneFailed
  dsimp only
  repeat' split
  all_goals simp +contextual (maxDischargeDepth := 30) only [↓Box.onD_good, ↓Box.nextLane_good, hb]

theorem Box.takePacket_good (b : Box) (p : Nat) (k : Packet) (hb : b.good) :
    (Box.takePacket b p k).good := by
  unfold Box.takePacket
  simp +contextual (maxDischargeDepth := 30) only [implies_true, ↓Box.onD_good, ↓ite_good, ↓elim_good, ↓Box.endReq_good, ↓Box.inService_good, ↓Box.readDone_good, ↓Box.serveRead_good, ↓Box.serveWrite_good, ↓Box.takeCollCtrl_good, ↓Box.takeCollData_good, ↓Box.takeLoss_good, hb]

theorem Box.packetIn_good (b : Box) (p : Nat) (k : Packet) (hb : b.good) :
    (Box.packetIn b p k).good := by
  unfold Box.packetIn
  dsimp only
  simp +contextual (maxDischargeDepth := 30) only [implies_true, ↓Box.onD_good, ↓ite_good, ↓Box.onPacketIn_good, ↓Box.takePacket_good, hb]

theorem Box.pumpUnits_good (b : Box) (p n : Nat) (hb : b.good) : (b.pumpUnits p n).good := by
  induction n generalizing b with
  | zero => exact hb
  | succ n ih =>
    unfold Box.pumpUnits
    dsimp only
    split
    · exact hb
    · split
      · exact ih _ (Box.onD_good _ _ hb)
      · split
        · exact hb
        · exact ih _ (Box.packetIn_good _ _ _ (Box.onD_good _ _ hb))

theorem Box.serveHeld_good (b : Box) (p n : Nat) (hb : b.good) : (b.serveHeld p n).good := by
  induction n generalizing b with
  | zero => exact hb
  | succ n ih =>
    unfold Box.serveHeld
    split
    · exact hb
    · split
      · exact hb
      · exact ih _ (Box.onPacketIn_good _ _ _ _ _ (Box.onD_good _ _ hb) fun b h => Box.takePacket_good _ _ _ h)

theorem Box.serveAllHeld_good (b : Box) (p : Nat) (hb : b.good) :
    (Box.serveAllHeld b p).good := by
  unfold Box.serveAllHeld
  simp +contextual (maxDischargeDepth := 30) only [↓Box.serveHeld_good, hb]

theorem Box.acceptData_good (b : Box) (p : Nat) (f : BitVec 2048) (hb : b.good) :
    (Box.acceptData b p f).good := by
  unfold Box.acceptData
  dsimp only
  simp +contextual (maxDischargeDepth := 30) only [↓Box.onD_good, ↓Box.pumpUnits_good, hb]

theorem Box.acceptEarly_good (b : Box) (p n : Nat) (hb : b.good) : (b.acceptEarly p n).good := by
  induction n generalizing b with
  | zero => exact hb
  | succ n ih =>
    unfold Box.acceptEarly
    dsimp only
    split
    · exact hb
    · exact ih _ (Box.acceptData_good _ _ _ (Box.onD_good _ _ hb))

theorem Box.takeData_good (b : Box) (p : Nat) (lane : Nat) (f : BitVec 2048) (hb : b.good) :
    (Box.takeData b p lane f).good := by
  unfold Box.takeData
  dsimp only
  simp +contextual (maxDischargeDepth := 30) only [↓Box.onD_good, ↓ite_good, ↓Box.acceptData_good, ↓Box.acceptEarly_good, hb]

theorem Box.takeOther_good (b : Box) (p : Nat) (lane : Nat) (f : BitVec 2048) (hb : b.good) :
    (Box.takeOther b p lane f).good := by
  unfold Box.takeOther
  dsimp only
  simp +contextual (maxDischargeDepth := 30) only [↓Box.onD_good, ↓ite_good, ↓Box.takeHeartbeat_good, hb]

theorem Box.takeFlit_good (b : Box) (p : Nat) (lane : Nat) (f : BitVec 2048) (corr : Nat) (unc : Nat) (hb : b.good) :
    (Box.takeFlit b p lane f corr unc).good := by
  unfold Box.takeFlit
  dsimp only
  simp +contextual (maxDischargeDepth := 30) only [↓Box.onD_good, ↓ite_good, ↓Box.takeData_good, ↓Box.takeOther_good, ↓Box.serveAllHeld_good, hb]

theorem Box.routeSet_good (k : Pend) (p : BitVec 384) (b : Box) (hb : b.good) :
    (Box.routeSet k p b).good := by
  unfold Box.routeSet
  dsimp only
  simp +contextual (maxDischargeDepth := 30) only [implies_true, ↓Box.onD_good, ↓ite_good, ↓Box.bad_good, ↓Box.fields_good, ↓Box.withAddr_good, ↓Box.withData_good, hb]

theorem Box.retrainMask_good (b : Box) (p mask : Nat) (hb : b.good) :
    (Box.retrainMask b p mask).good := by
  unfold Box.retrainMask
  simp +contextual (maxDischargeDepth := 30) only [implies_true, ↓ite_good, ↓foldl_good, ↓Box.queueLane_good, hb]

theorem Box.disableSeam_good (b : Box) (p : Nat) (hb : b.good) :
    (Box.disableSeam b p).good := by
  unfold Box.disableSeam
  dsimp only
  simp +contextual (maxDischargeDepth := 30) only [↓Box.onD_good, ↓Box.seamDown_good, hb]

theorem Box.seamCtrl_good (k : Pend) (p : BitVec 384) (b : Box) (hb : b.good) :
    (Box.seamCtrl k p b).good := by
  unfold Box.seamCtrl
  dsimp only
  simp +contextual (maxDischargeDepth := 30) only [implies_true, ↓Box.onD_good, ↓ite_good, ↓Box.disableSeam_good, ↓Box.fields_good, ↓Box.ok_good, ↓Box.retrainMask_good, hb]

theorem Box.remoteMap_good (k : Pend) (p : BitVec 384) (b : Box) (hb : b.good) :
    (Box.remoteMap k p b).good := by
  unfold Box.remoteMap
  dsimp only
  simp +contextual (maxDischargeDepth := 30) only [implies_true, ↓Box.onD_good, ↓ite_good, ↓Box.fields_good, hb]

theorem Box.exportSet_good (k : Pend) (p : BitVec 384) (b : Box) (hb : b.good) :
    (Box.exportSet k p b).good := by
  unfold Box.exportSet
  dsimp only
  simp +contextual (maxDischargeDepth := 30) only [implies_true, ↓Box.onD_good, ↓Box.fields_good, hb]

theorem Box.planLoad_good (k : Pend) (p : BitVec 384) (b : Box) (hb : b.good) :
    (Box.planLoad k p b).good := by
  unfold Box.planLoad
  dsimp only
  repeat' first | assumption | with_reducible apply Box.onD_good | with_reducible apply Box.fail_good | with_reducible apply Box.fields_good | with_reducible apply Box.withAddr_good | with_reducible apply Box.withData_good | split | intro _

theorem Box.reportReady_good (b : Box) (fails : List (Nat × Nat)) (hb : b.good) :
    (Box.reportReady b fails).good := by
  unfold Box.reportReady
  dsimp only
  simp +contextual (maxDischargeDepth := 30) only [implies_true, ↓Box.onD_good, ↓foldl_good, ↓Box.bootFailed_good, ↓Box.flushMsgs_good, hb]

theorem Box.diagAuthorise_good (k : Pend) (p : BitVec 384) (b : Box) (hb : b.good) :
    (Box.diagAuthorise k p b).good := by
  unfold Box.diagAuthorise
  dsimp only
  simp +contextual (maxDischargeDepth := 30) only [implies_true, ↓Box.onD_good, ↓ite_good, ↓Box.fields_good, ↓Box.withAddr_good, ↓Box.withToken_good, hb]

theorem Box.attest_good (k : Pend) (p : BitVec 384) (b : Box) (hb : b.good) :
    (Box.attest k p b).good := by
  unfold Box.attest
  dsimp only
  simp +contextual (maxDischargeDepth := 30) only [implies_true, ↓Box.onD_good, ↓Box.withAddr_good, ↓Box.withData_good, ↓Box.wrClean_good, hb]

theorem Box.identityCert_good (k : Pend) (p : BitVec 384) (b : Box) (hb : b.good) :
    (Box.identityCert k p b).good := by
  unfold Box.identityCert
  dsimp only
  simp +contextual (maxDischargeDepth := 30) only [implies_true, ↓Box.fields_good, ↓Box.ok_good, ↓Box.withAddr_good, ↓Box.wrClean_good, hb]

theorem Box.withImage_good (b : Box) (k : Pend) (a n kind : Nat) (bad : Nat → Box → Box) (f : List Byte → Box → Box) (hb : b.good) (hf_bad : ∀ (x0 : Nat) (b : Box), b.good → (bad x0 b).good) (hf_f : ∀ (x0 : List Byte) (b : Box), b.good → (f x0 b).good) :
    (Box.withImage b k a n kind bad f).good := by
  unfold Box.withImage
  dsimp only
  simp +contextual (maxDischargeDepth := 30) only [implies_true, ↓Box.onD_good, ↓ite_good, ↓Box.withAddr_good, ↓Box.withData_good, hb, hf_bad, hf_f]

theorem Box.startUpdate_good (kind : Nat) (k : Pend) (p : BitVec 384) (b : Box) (hb : b.good) :
    (Box.startUpdate kind k p b).good := by
  unfold Box.startUpdate
  dsimp only
  simp +contextual (maxDischargeDepth := 30) only [implies_true, ↓Box.onD_good, ↓Box.bad_good, ↓Box.fields_good, ↓Box.withImage_good, hb]

theorem Box.flashCmd_good (k : Pend) (p : BitVec 384) (b : Box) (hb : b.good) :
    (Box.flashCmd k p b).good := by
  unfold Box.flashCmd
  dsimp only
  simp +contextual (maxDischargeDepth := 30) only [implies_true, ↓Box.onD_good, ↓Box.fields_good, ↓Box.withImage_good, hb]

theorem Box.yokeWidth_good (b : Box) (lane old new : Nat) (hb : b.good) :
    (Box.yokeWidth b lane old new).good := by
  unfold Box.yokeWidth
  simp +contextual (maxDischargeDepth := 30) only [↓Box.onD_good, ↓Box.flushMsgs_good, hb]

theorem Box.yokeLaneLeave_good (b : Box) (lane : Nat) (t : LaneTrigger) (hb : b.good) :
    (Box.yokeLaneLeave b lane t).good := by
  unfold Box.yokeLaneLeave
  dsimp only
  simp +contextual (maxDischargeDepth := 30) only [↓Box.onD_good, ↓ite_good, ↓Box.yokeWidth_good, hb]

theorem Box.yokeLaneReturn_good (b : Box) (lane : Nat) (hb : b.good) :
    (Box.yokeLaneReturn b lane).good := by
  unfold Box.yokeLaneReturn
  dsimp only
  simp +contextual (maxDischargeDepth := 30) only [↓Box.onD_good, ↓ite_good, ↓Box.yokeWidth_good, hb]

theorem Box.yokeReturns_good (b : Box) (lanes : BitVec 8) (hb : b.good) :
    (Box.yokeReturns b lanes).good := by
  unfold Box.yokeReturns
  dsimp only
  repeat' split
  all_goals simp +contextual (maxDischargeDepth := 30) only [↓Box.onD_good, ↓Box.flushMsgs_good, ↓Box.yokeWidth_good, hb]

theorem Box.bmDrain_good (b : Box) (action : Nat) (hb : b.good) :
    (Box.bmDrain b action).good := by
  unfold Box.bmDrain
  dsimp only
  simp +contextual (maxDischargeDepth := 30) only [implies_true, ↓Box.onD_good, ↓ite_good, ↓foldl_good, ↓Box.stopAtBoundary_good, ↓Box.stopNow_good, hb]

theorem Box.aperture_good (b : Box) (off n : Nat) (data : Option (List Byte)) (hb : b.good) :
    (Box.aperture b off n data).good := by
  unfold Box.aperture
  dsimp only
  repeat' split
  all_goals simp +contextual (maxDischargeDepth := 30) only [↓Box.onD_good, ↓Box.wrClean_good, hb]

theorem Box.badState_good (b : Box) (k : Pend) (n : Nat) (hb : b.good) :
    (Box.badState b k n).good := by
  unfold Box.badState
  simp +contextual (maxDischargeDepth := 30) only [↓Box.fail_good, hb]

theorem Box.loadFault_good (b : Box) (k : Pend) (n : Nat) (f : LoadFault) (hb : b.good) :
    (Box.loadFault b k n f).good := by
  unfold Box.loadFault
  simp +contextual (maxDischargeDepth := 30) only [↓Box.fail_good, hb]

theorem Box.schedLoad_good (k : Pend) (p : BitVec 384) (b : Box) (hb : b.good) :
    (Box.schedLoad k p b).good := by
  unfold Box.schedLoad
  dsimp only
  repeat' first | assumption | with_reducible apply Box.onD_good | with_reducible apply ite_good | with_reducible apply Box.badState_good | with_reducible apply Box.loadFault_good | with_reducible apply Box.withAddr_good | with_reducible apply Box.withData_good | split | intro _

theorem Box.startHandles_good (b : Box) (n : Nat) (hb : b.good) :
    (Box.startHandles b n).good := by
  unfold Box.startHandles
  dsimp only
  simp +contextual (maxDischargeDepth := 30) only [implies_true, ↓Box.onD_good, ↓foldl_good, ↓Box.fillHandle_good, hb]

theorem Box.schedRun_good (k : Pend) (p : BitVec 384) (b : Box) (hb : b.good) : (Box.schedRun k p b).good := by
  unfold Box.schedRun
  dsimp only
  split
  · exact Box.badState_good _ _ _ hb
  · split
    · exact Box.fail_good _ _ _ _ _ _ hb
    · split
      · exact hb
      · split
        · exact Box.fail_good _ _ _ _ _ _ (Box.withDev_good _ _ hb)
        · exact Box.takeStage_good _ _ _ (Box.onD_good _ _ (Box.startHandles_good _ _ (Box.withDev_good _ _ hb)))

theorem Box.schedStop_good (k : Pend) (p : BitVec 384) (b : Box) (hb : b.good) :
    (Box.schedStop k p b).good := by
  unfold Box.schedStop
  dsimp only
  simp +contextual (maxDischargeDepth := 30) only [implies_true, ↓Box.onD_good, ↓ite_good, ↓Box.fields_good, ↓Box.ok_good, ↓Box.stopAtBoundary_good, ↓Box.stopNow_good, hb]

theorem Box.schedUnload_good (k : Pend) (p : BitVec 384) (b : Box) (hb : b.good) :
    (Box.schedUnload k p b).good := by
  unfold Box.schedUnload
  dsimp only
  repeat' split
  all_goals simp +contextual (maxDischargeDepth := 30) only [↓Box.onD_good, ↓Box.badState_good, ↓Box.ok_good, hb]

theorem Box.pwrRise_good (b : Box) (env : BootEnv) (hb : b.good) :
    (Box.pwrRise b env).good := by
  unfold Box.pwrRise
  dsimp only
  simp +contextual (maxDischargeDepth := 30) only [implies_true, ↓Box.onD_good, ↓ite_good, ↓Box.onS_good, Store.coldContent_wf, hb]

theorem Box.clockLoss_good (b : Box) (c : Nat) (hb : b.good) :
    (Box.clockLoss b c).good := by
  unfold Box.clockLoss
  dsimp only
  simp +contextual (maxDischargeDepth := 30) only [implies_true, ↓Box.onD_good, ↓ite_good, ↓foldl_good, ↓Box.seamDown_good, hb]

theorem Box.junctionChange_good (b : Box) (old new : Nat) (t : Int) (die : Nat) (hb : b.good) :
    (Box.junctionChange b old new t die).good := by
  unfold Box.junctionChange
  dsimp only
  simp +contextual (maxDischargeDepth := 30) only [implies_true, ↓Box.onD_good, ↓ite_good, ↓foldl_good, ↓Box.faultStop_good, hb]

theorem Box.junctionSample_good (b : Box) (bolts selv : List W16) (hb : b.good) :
    (Box.junctionSample b bolts selv).good := by
  unfold Box.junctionSample
  dsimp only
  simp +contextual (maxDischargeDepth := 30) only [↓Box.onD_good, ↓ite_good, ↓Box.junctionChange_good, hb]

theorem Box.leaveHold_good (b : Box) (cause : Nat) (hb : b.good) :
    (Box.leaveHold b cause).good := by
  unfold Box.leaveHold
  dsimp only
  simp +contextual (maxDischargeDepth := 30) only [implies_true, ↓Box.onD_good, ↓foldl_good, ↓Box.serveAllHeld_good, hb]

theorem Box.enterHold_good (b : Box) (hb : b.good) : b.enterHold.good := by
  unfold Box.enterHold
  exact Box.mk_good _ _ (Store.undefScr_wf _ _ _ hb)

theorem Box.powerSet_good (k : Pend) (p : BitVec 384) (b : Box) (hb : b.good) :
    (Box.powerSet k p b).good := by
  unfold Box.powerSet
  dsimp only
  simp +contextual (maxDischargeDepth := 30) only [implies_true, ↓Box.onD_good, ↓ite_good, ↓Box.bad_good, ↓Box.enterHold_good, ↓Box.fields_good, ↓Box.leaveHold_good, ↓Box.ok_good, hb]

theorem Box.triggerSet_good (k : Pend) (p : BitVec 384) (b : Box) (hb : b.good) :
    (Box.triggerSet k p b).good := by
  unfold Box.triggerSet
  dsimp only
  repeat' first | assumption | with_reducible apply Box.onD_good | with_reducible apply ite_good | with_reducible apply Box.bad_good | with_reducible apply Box.fields_good | with_reducible apply Box.ok_good | with_reducible apply Box.withAddr_good | with_reducible apply Box.withData_good | split | intro _

theorem Box.mbQuery_good (k : Pend) (p : BitVec 384) (b : Box) (hb : b.good) :
    (Box.mbQuery k p b).good := by
  unfold Box.mbQuery
  dsimp only
  simp +contextual (maxDischargeDepth := 30) only [implies_true, ↓Box.onD_good, ↓Box.fields_good, ↓Box.ok_good, ↓Box.withAddr_good, ↓Box.wrClean_good, hb]

theorem Box.mbClear_good (k : Pend) (p : BitVec 384) (b : Box) (hb : b.good) :
    (Box.mbClear k p b).good := by
  unfold Box.mbClear
  dsimp only
  simp +contextual (maxDischargeDepth := 30) only [implies_true, ↓Box.onD_good, ↓Box.fields_good, ↓Box.withAddr_good, ↓Box.withToken_good, hb]

end Sys2Proof.Machine
end

