-- ==== Sys2Proof/Laws/State.lean ====
section
/-! SUPPORT. Reading a field of the state after an update of it: one law per field and update. -/

namespace Sys2Proof.Machine

/-! ### The state, its box and its queue of waiting commands -/

@[simp] theorem Box.onD_dev (b : Box) (f : Dev → Dev) : (b.onD f).dev = f b.dev := rfl
@[simp] theorem Box.onD_store (b : Box) (f : Dev → Dev) : (b.onD f).store = b.store := rfl
@[simp] theorem Box.onS_dev (b : Box) (f : Store → Store) : (b.onS f).dev = b.dev := rfl
@[simp] theorem Box.onS_store (b : Box) (f : Store → Store) : (b.onS f).store = f b.store := rfl
@[simp] theorem Box.withDev_dev (b : Box) (d : Dev) : (b.withDev d).dev = d := rfl
@[simp] theorem Box.withDev_store (b : Box) (d : Dev) : (b.withDev d).store = b.store := rfl
/-- The state with another device. -/
def State.setDev (s : State) (d : Dev) : State := { s with box := s.box.withDev d }

theorem State.onDev_eq (s : State) (f : Dev → Dev) : s.onDev f = .next (s.setDev (f s.dev)) := rfl
@[simp] theorem State.setDev_dev (s : State) (d : Dev) : (s.setDev d).dev = d := rfl
@[simp] theorem State.setDev_store (s : State) (d : Dev) : (s.setDev d).store = s.store := rfl
@[simp] theorem State.setDev_pending (s : State) (d : Dev) : (s.setDev d).pending = s.pending := rfl
/-- The state with another box. -/
def State.setBox (s : State) (b : Box) : State := { s with box := b }

theorem State.on_eq (s : State) (f : Box → Box) : s.on f = .next (s.setBox (f s.box)) := rfl
@[simp] theorem State.setBox_dev (s : State) (b : Box) : (s.setBox b).dev = b.dev := rfl
@[simp] theorem State.setBox_store (s : State) (b : Box) : (s.setBox b).store = b.store := rfl
@[simp] theorem State.setBox_pending (s : State) (b : Box) : (s.setBox b).pending = s.pending := rfl
@[simp] theorem State.pop_box (s : State) (l : List Instr) : (s.pop l).box = s.box := rfl
@[simp] theorem State.pop_pending (s : State) (l : List Instr) : (s.pop l).pending = l := rfl
@[simp] theorem State.push_box (s : State) (i : Instr) : (s.push i).box = s.box := rfl
@[simp] theorem State.push_pending (s : State) (i : Instr) : (s.push i).pending = i :: s.pending := rfl

/-! ### Parts of the device by number -/

@[simp] theorem Dev.setCore_ctxs (d : Dev) (c : Nat) (x : Core) : (d.setCore c x).ctxs = d.ctxs := rfl
@[simp] theorem Dev.setCore_seq (d : Dev) (c : Nat) (x : Core) : (d.setCore c x).seq = d.seq := rfl
@[simp] theorem Dev.setCore_knots (d : Dev) (c : Nat) (x : Core) : (d.setCore c x).knots = d.knots := rfl
@[simp] theorem Dev.setCore_arrivals (d : Dev) (c : Nat) (x : Core) : (d.setCore c x).arrivals = d.arrivals := rfl
@[simp] theorem Dev.setCore_tape (d : Dev) (c : Nat) (x : Core) : (d.setCore c x).tape = d.tape := rfl
@[simp] theorem Dev.setCore_pace (d : Dev) (c : Nat) (x : Core) : (d.setCore c x).pace = d.pace := rfl
@[simp] theorem Dev.setCore_yoke (d : Dev) (c : Nat) (x : Core) : (d.setCore c x).yoke = d.yoke := rfl
@[simp] theorem Dev.setCore_queues (d : Dev) (c : Nat) (x : Core) : (d.setCore c x).queues = d.queues := rfl
@[simp] theorem Dev.setCore_opens (d : Dev) (c : Nat) (x : Core) : (d.setCore c x).opens = d.opens := rfl
@[simp] theorem Dev.setCore_regions (d : Dev) (c : Nat) (x : Core) : (d.setCore c x).regions = d.regions := rfl
@[simp] theorem Dev.setCore_grants (d : Dev) (c : Nat) (x : Core) : (d.setCore c x).grants = d.grants := rfl
@[simp] theorem Dev.setCore_remotes (d : Dev) (c : Nat) (x : Core) : (d.setCore c x).remotes = d.remotes := rfl
@[simp] theorem Dev.setCore_exports (d : Dev) (c : Nat) (x : Core) : (d.setCore c x).exports = d.exports := rfl
@[simp] theorem Dev.setCore_descs (d : Dev) (c : Nat) (x : Core) : (d.setCore c x).descs = d.descs := rfl
@[simp] theorem Dev.setCore_dying (d : Dev) (c : Nat) (x : Core) : (d.setCore c x).dying = d.dying := rfl
@[simp] theorem Dev.setCore_compat (d : Dev) (c : Nat) (x : Core) : (d.setCore c x).compat = d.compat := rfl
@[simp] theorem Dev.setCore_spools (d : Dev) (c : Nat) (x : Core) : (d.setCore c x).spools = d.spools := rfl
@[simp] theorem Dev.setCore_gmes (d : Dev) (c : Nat) (x : Core) : (d.setCore c x).gmes = d.gmes := rfl
@[simp] theorem Dev.setCore_presses (d : Dev) (c : Nat) (x : Core) : (d.setCore c x).presses = d.presses := rfl
@[simp] theorem Dev.setCore_engs (d : Dev) (c : Nat) (x : Core) : (d.setCore c x).engs = d.engs := rfl
@[simp] theorem Dev.setCore_hems (d : Dev) (c : Nat) (x : Core) : (d.setCore c x).hems = d.hems := rfl
@[simp] theorem Dev.setCore_ahead (d : Dev) (c : Nat) (x : Core) : (d.setCore c x).ahead = d.ahead := rfl
@[simp] theorem Dev.setCore_caches (d : Dev) (c : Nat) (x : Core) : (d.setCore c x).caches = d.caches := rfl
@[simp] theorem Dev.setCore_bounce (d : Dev) (c : Nat) (x : Core) : (d.setCore c x).bounce = d.bounce := rfl
@[simp] theorem Dev.setCore_seams (d : Dev) (c : Nat) (x : Core) : (d.setCore c x).seams = d.seams := rfl
@[simp] theorem Dev.setCore_fab (d : Dev) (c : Nat) (x : Core) : (d.setCore c x).fab = d.fab := rfl
@[simp] theorem Dev.setCore_tx (d : Dev) (c : Nat) (x : Core) : (d.setCore c x).tx = d.tx := rfl
@[simp] theorem Dev.setCore_bolts (d : Dev) (c : Nat) (x : Core) : (d.setCore c x).bolts = d.bolts := rfl
@[simp] theorem Dev.setCore_retireDue (d : Dev) (c : Nat) (x : Core) : (d.setCore c x).retireDue = d.retireDue := rfl
@[simp] theorem Dev.setCore_shadow (d : Dev) (c : Nat) (x : Core) : (d.setCore c x).shadow = d.shadow := rfl
@[simp] theorem Dev.setCore_health (d : Dev) (c : Nat) (x : Core) : (d.setCore c x).health = d.health := rfl
@[simp] theorem Dev.setCore_containReset (d : Dev) (c : Nat) (x : Core) : (d.setCore c x).containReset = d.containReset := rfl
@[simp] theorem Dev.setCore_bastes (d : Dev) (c : Nat) (x : Core) : (d.setCore c x).bastes = d.bastes := rfl
@[simp] theorem Dev.setCore_cutter (d : Dev) (c : Nat) (x : Core) : (d.setCore c x).cutter = d.cutter := rfl
@[simp] theorem Dev.setCore_fw (d : Dev) (c : Nat) (x : Core) : (d.setCore c x).fw = d.fw := rfl
@[simp] theorem Dev.setCore_mb (d : Dev) (c : Nat) (x : Core) : (d.setCore c x).mb = d.mb := rfl
@[simp] theorem Dev.setCore_cr (d : Dev) (c : Nat) (x : Core) : (d.setCore c x).cr = d.cr := rfl
@[simp] theorem Dev.setCore_tests (d : Dev) (c : Nat) (x : Core) : (d.setCore c x).tests = d.tests := rfl
@[simp] theorem Dev.setCore_power (d : Dev) (c : Nat) (x : Core) : (d.setCore c x).power = d.power := rfl
@[simp] theorem Dev.setCore_pins (d : Dev) (c : Nat) (x : Core) : (d.setCore c x).pins = d.pins := rfl
@[simp] theorem Dev.setCore_out (d : Dev) (c : Nat) (x : Core) : (d.setCore c x).out = d.out := rfl
@[simp] theorem Dev.setCore_secs (d : Dev) (c : Nat) (x : Core) : (d.setCore c x).secs = d.secs := rfl
@[simp] theorem Dev.setCore_later (d : Dev) (c : Nat) (x : Core) : (d.setCore c x).later = d.later := rfl
@[simp] theorem Dev.setCore_core_same (d : Dev) (c : Nat) (x : Core) : (d.setCore c x).core c = x := getD_put_same _ _ _ _
theorem Dev.setCore_core_ne (d : Dev) (c : Nat) (x : Core) (c' : Nat) (h : c' ≠ c) : (d.setCore c x).core c' = d.core c' :=
  getD_put_ne _ _ _ h
@[simp] theorem Dev.setCore_ctx (d : Dev) (c : Nat) (x : Core) (j : Nat) : (d.setCore c x).ctx j = d.ctx j := rfl
@[simp] theorem Dev.setCore_queue (d : Dev) (c : Nat) (x : Core) (j : Nat) : (d.setCore c x).queue j = d.queue j := rfl
@[simp] theorem Dev.setCore_spool (d : Dev) (c : Nat) (x : Core) (j : Nat) : (d.setCore c x).spool j = d.spool j := rfl
@[simp] theorem Dev.setCore_seam (d : Dev) (c : Nat) (x : Core) (j : Nat) : (d.setCore c x).seam j = d.seam j := rfl
@[simp] theorem Dev.setCore_baste (d : Dev) (c : Nat) (x : Core) (j : Nat) : (d.setCore c x).baste j = d.baste j := rfl

@[simp] theorem Dev.setCtx_cores (d : Dev) (n : Nat) (x : Ctx) : (d.setCtx n x).cores = d.cores := rfl
@[simp] theorem Dev.setCtx_seq (d : Dev) (n : Nat) (x : Ctx) : (d.setCtx n x).seq = d.seq := rfl
@[simp] theorem Dev.setCtx_knots (d : Dev) (n : Nat) (x : Ctx) : (d.setCtx n x).knots = d.knots := rfl
@[simp] theorem Dev.setCtx_arrivals (d : Dev) (n : Nat) (x : Ctx) : (d.setCtx n x).arrivals = d.arrivals := rfl
@[simp] theorem Dev.setCtx_tape (d : Dev) (n : Nat) (x : Ctx) : (d.setCtx n x).tape = d.tape := rfl
@[simp] theorem Dev.setCtx_pace (d : Dev) (n : Nat) (x : Ctx) : (d.setCtx n x).pace = d.pace := rfl
@[simp] theorem Dev.setCtx_yoke (d : Dev) (n : Nat) (x : Ctx) : (d.setCtx n x).yoke = d.yoke := rfl
@[simp] theorem Dev.setCtx_queues (d : Dev) (n : Nat) (x : Ctx) : (d.setCtx n x).queues = d.queues := rfl
@[simp] theorem Dev.setCtx_opens (d : Dev) (n : Nat) (x : Ctx) : (d.setCtx n x).opens = d.opens := rfl
@[simp] theorem Dev.setCtx_regions (d : Dev) (n : Nat) (x : Ctx) : (d.setCtx n x).regions = d.regions := rfl
@[simp] theorem Dev.setCtx_grants (d : Dev) (n : Nat) (x : Ctx) : (d.setCtx n x).grants = d.grants := rfl
@[simp] theorem Dev.setCtx_remotes (d : Dev) (n : Nat) (x : Ctx) : (d.setCtx n x).remotes = d.remotes := rfl
@[simp] theorem Dev.setCtx_exports (d : Dev) (n : Nat) (x : Ctx) : (d.setCtx n x).exports = d.exports := rfl
@[simp] theorem Dev.setCtx_descs (d : Dev) (n : Nat) (x : Ctx) : (d.setCtx n x).descs = d.descs := rfl
@[simp] theorem Dev.setCtx_dying (d : Dev) (n : Nat) (x : Ctx) : (d.setCtx n x).dying = d.dying := rfl
@[simp] theorem Dev.setCtx_compat (d : Dev) (n : Nat) (x : Ctx) : (d.setCtx n x).compat = d.compat := rfl
@[simp] theorem Dev.setCtx_spools (d : Dev) (n : Nat) (x : Ctx) : (d.setCtx n x).spools = d.spools := rfl
@[simp] theorem Dev.setCtx_gmes (d : Dev) (n : Nat) (x : Ctx) : (d.setCtx n x).gmes = d.gmes := rfl
@[simp] theorem Dev.setCtx_presses (d : Dev) (n : Nat) (x : Ctx) : (d.setCtx n x).presses = d.presses := rfl
@[simp] theorem Dev.setCtx_engs (d : Dev) (n : Nat) (x : Ctx) : (d.setCtx n x).engs = d.engs := rfl
@[simp] theorem Dev.setCtx_hems (d : Dev) (n : Nat) (x : Ctx) : (d.setCtx n x).hems = d.hems := rfl
@[simp] theorem Dev.setCtx_ahead (d : Dev) (n : Nat) (x : Ctx) : (d.setCtx n x).ahead = d.ahead := rfl
@[simp] theorem Dev.setCtx_caches (d : Dev) (n : Nat) (x : Ctx) : (d.setCtx n x).caches = d.caches := rfl
@[simp] theorem Dev.setCtx_bounce (d : Dev) (n : Nat) (x : Ctx) : (d.setCtx n x).bounce = d.bounce := rfl
@[simp] theorem Dev.setCtx_seams (d : Dev) (n : Nat) (x : Ctx) : (d.setCtx n x).seams = d.seams := rfl
@[simp] theorem Dev.setCtx_fab (d : Dev) (n : Nat) (x : Ctx) : (d.setCtx n x).fab = d.fab := rfl
@[simp] theorem Dev.setCtx_tx (d : Dev) (n : Nat) (x : Ctx) : (d.setCtx n x).tx = d.tx := rfl
@[simp] theorem Dev.setCtx_bolts (d : Dev) (n : Nat) (x : Ctx) : (d.setCtx n x).bolts = d.bolts := rfl
@[simp] theorem Dev.setCtx_retireDue (d : Dev) (n : Nat) (x : Ctx) : (d.setCtx n x).retireDue = d.retireDue := rfl
@[simp] theorem Dev.setCtx_shadow (d : Dev) (n : Nat) (x : Ctx) : (d.setCtx n x).shadow = d.shadow := rfl
@[simp] theorem Dev.setCtx_health (d : Dev) (n : Nat) (x : Ctx) : (d.setCtx n x).health = d.health := rfl
@[simp] theorem Dev.setCtx_containReset (d : Dev) (n : Nat) (x : Ctx) : (d.setCtx n x).containReset = d.containReset := rfl
@[simp] theorem Dev.setCtx_bastes (d : Dev) (n : Nat) (x : Ctx) : (d.setCtx n x).bastes = d.bastes := rfl
@[simp] theorem Dev.setCtx_cutter (d : Dev) (n : Nat) (x : Ctx) : (d.setCtx n x).cutter = d.cutter := rfl
@[simp] theorem Dev.setCtx_fw (d : Dev) (n : Nat) (x : Ctx) : (d.setCtx n x).fw = d.fw := rfl
@[simp] theorem Dev.setCtx_mb (d : Dev) (n : Nat) (x : Ctx) : (d.setCtx n x).mb = d.mb := rfl
@[simp] theorem Dev.setCtx_cr (d : Dev) (n : Nat) (x : Ctx) : (d.setCtx n x).cr = d.cr := rfl
@[simp] theorem Dev.setCtx_tests (d : Dev) (n : Nat) (x : Ctx) : (d.setCtx n x).tests = d.tests := rfl
@[simp] theorem Dev.setCtx_power (d : Dev) (n : Nat) (x : Ctx) : (d.setCtx n x).power = d.power := rfl
@[simp] theorem Dev.setCtx_pins (d : Dev) (n : Nat) (x : Ctx) : (d.setCtx n x).pins = d.pins := rfl
@[simp] theorem Dev.setCtx_out (d : Dev) (n : Nat) (x : Ctx) : (d.setCtx n x).out = d.out := rfl
@[simp] theorem Dev.setCtx_secs (d : Dev) (n : Nat) (x : Ctx) : (d.setCtx n x).secs = d.secs := rfl
@[simp] theorem Dev.setCtx_later (d : Dev) (n : Nat) (x : Ctx) : (d.setCtx n x).later = d.later := rfl
@[simp] theorem Dev.setCtx_ctx_same (d : Dev) (n : Nat) (x : Ctx) : (d.setCtx n x).ctx n = x := getD_put_same _ _ _ _
theorem Dev.setCtx_ctx_ne (d : Dev) (n : Nat) (x : Ctx) (n' : Nat) (h : n' ≠ n) : (d.setCtx n x).ctx n' = d.ctx n' :=
  getD_put_ne _ _ _ h
@[simp] theorem Dev.setCtx_core (d : Dev) (n : Nat) (x : Ctx) (j : Nat) : (d.setCtx n x).core j = d.core j := rfl
@[simp] theorem Dev.setCtx_queue (d : Dev) (n : Nat) (x : Ctx) (j : Nat) : (d.setCtx n x).queue j = d.queue j := rfl
@[simp] theorem Dev.setCtx_spool (d : Dev) (n : Nat) (x : Ctx) (j : Nat) : (d.setCtx n x).spool j = d.spool j := rfl
@[simp] theorem Dev.setCtx_seam (d : Dev) (n : Nat) (x : Ctx) (j : Nat) : (d.setCtx n x).seam j = d.seam j := rfl
@[simp] theorem Dev.setCtx_baste (d : Dev) (n : Nat) (x : Ctx) (j : Nat) : (d.setCtx n x).baste j = d.baste j := rfl

@[simp] theorem Dev.setQueue_cores (d : Dev) (q : Nat) (x : Queue) : (d.setQueue q x).cores = d.cores := rfl
@[simp] theorem Dev.setQueue_ctxs (d : Dev) (q : Nat) (x : Queue) : (d.setQueue q x).ctxs = d.ctxs := rfl
@[simp] theorem Dev.setQueue_seq (d : Dev) (q : Nat) (x : Queue) : (d.setQueue q x).seq = d.seq := rfl
@[simp] theorem Dev.setQueue_knots (d : Dev) (q : Nat) (x : Queue) : (d.setQueue q x).knots = d.knots := rfl
@[simp] theorem Dev.setQueue_arrivals (d : Dev) (q : Nat) (x : Queue) : (d.setQueue q x).arrivals = d.arrivals := rfl
@[simp] theorem Dev.setQueue_tape (d : Dev) (q : Nat) (x : Queue) : (d.setQueue q x).tape = d.tape := rfl
@[simp] theorem Dev.setQueue_pace (d : Dev) (q : Nat) (x : Queue) : (d.setQueue q x).pace = d.pace := rfl
@[simp] theorem Dev.setQueue_yoke (d : Dev) (q : Nat) (x : Queue) : (d.setQueue q x).yoke = d.yoke := rfl
@[simp] theorem Dev.setQueue_opens (d : Dev) (q : Nat) (x : Queue) : (d.setQueue q x).opens = d.opens := rfl
@[simp] theorem Dev.setQueue_regions (d : Dev) (q : Nat) (x : Queue) : (d.setQueue q x).regions = d.regions := rfl
@[simp] theorem Dev.setQueue_grants (d : Dev) (q : Nat) (x : Queue) : (d.setQueue q x).grants = d.grants := rfl
@[simp] theorem Dev.setQueue_remotes (d : Dev) (q : Nat) (x : Queue) : (d.setQueue q x).remotes = d.remotes := rfl
@[simp] theorem Dev.setQueue_exports (d : Dev) (q : Nat) (x : Queue) : (d.setQueue q x).exports = d.exports := rfl
@[simp] theorem Dev.setQueue_descs (d : Dev) (q : Nat) (x : Queue) : (d.setQueue q x).descs = d.descs := rfl
@[simp] theorem Dev.setQueue_dying (d : Dev) (q : Nat) (x : Queue) : (d.setQueue q x).dying = d.dying := rfl
@[simp] theorem Dev.setQueue_compat (d : Dev) (q : Nat) (x : Queue) : (d.setQueue q x).compat = d.compat := rfl
@[simp] theorem Dev.setQueue_spools (d : Dev) (q : Nat) (x : Queue) : (d.setQueue q x).spools = d.spools := rfl
@[simp] theorem Dev.setQueue_gmes (d : Dev) (q : Nat) (x : Queue) : (d.setQueue q x).gmes = d.gmes := rfl
@[simp] theorem Dev.setQueue_presses (d : Dev) (q : Nat) (x : Queue) : (d.setQueue q x).presses = d.presses := rfl
@[simp] theorem Dev.setQueue_engs (d : Dev) (q : Nat) (x : Queue) : (d.setQueue q x).engs = d.engs := rfl
@[simp] theorem Dev.setQueue_hems (d : Dev) (q : Nat) (x : Queue) : (d.setQueue q x).hems = d.hems := rfl
@[simp] theorem Dev.setQueue_ahead (d : Dev) (q : Nat) (x : Queue) : (d.setQueue q x).ahead = d.ahead := rfl
@[simp] theorem Dev.setQueue_caches (d : Dev) (q : Nat) (x : Queue) : (d.setQueue q x).caches = d.caches := rfl
@[simp] theorem Dev.setQueue_bounce (d : Dev) (q : Nat) (x : Queue) : (d.setQueue q x).bounce = d.bounce := rfl
@[simp] theorem Dev.setQueue_seams (d : Dev) (q : Nat) (x : Queue) : (d.setQueue q x).seams = d.seams := rfl
@[simp] theorem Dev.setQueue_fab (d : Dev) (q : Nat) (x : Queue) : (d.setQueue q x).fab = d.fab := rfl
@[simp] theorem Dev.setQueue_tx (d : Dev) (q : Nat) (x : Queue) : (d.setQueue q x).tx = d.tx := rfl
@[simp] theorem Dev.setQueue_bolts (d : Dev) (q : Nat) (x : Queue) : (d.setQueue q x).bolts = d.bolts := rfl
@[simp] theorem Dev.setQueue_retireDue (d : Dev) (q : Nat) (x : Queue) : (d.setQueue q x).retireDue = d.retireDue := rfl
@[simp] theorem Dev.setQueue_shadow (d : Dev) (q : Nat) (x : Queue) : (d.setQueue q x).shadow = d.shadow := rfl
@[simp] theorem Dev.setQueue_health (d : Dev) (q : Nat) (x : Queue) : (d.setQueue q x).health = d.health := rfl
@[simp] theorem Dev.setQueue_containReset (d : Dev) (q : Nat) (x : Queue) : (d.setQueue q x).containReset = d.containReset := rfl
@[simp] theorem Dev.setQueue_bastes (d : Dev) (q : Nat) (x : Queue) : (d.setQueue q x).bastes = d.bastes := rfl
@[simp] theorem Dev.setQueue_cutter (d : Dev) (q : Nat) (x : Queue) : (d.setQueue q x).cutter = d.cutter := rfl
@[simp] theorem Dev.setQueue_fw (d : Dev) (q : Nat) (x : Queue) : (d.setQueue q x).fw = d.fw := rfl
@[simp] theorem Dev.setQueue_mb (d : Dev) (q : Nat) (x : Queue) : (d.setQueue q x).mb = d.mb := rfl
@[simp] theorem Dev.setQueue_cr (d : Dev) (q : Nat) (x : Queue) : (d.setQueue q x).cr = d.cr := rfl
@[simp] theorem Dev.setQueue_tests (d : Dev) (q : Nat) (x : Queue) : (d.setQueue q x).tests = d.tests := rfl
@[simp] theorem Dev.setQueue_power (d : Dev) (q : Nat) (x : Queue) : (d.setQueue q x).power = d.power := rfl
@[simp] theorem Dev.setQueue_pins (d : Dev) (q : Nat) (x : Queue) : (d.setQueue q x).pins = d.pins := rfl
@[simp] theorem Dev.setQueue_out (d : Dev) (q : Nat) (x : Queue) : (d.setQueue q x).out = d.out := rfl
@[simp] theorem Dev.setQueue_secs (d : Dev) (q : Nat) (x : Queue) : (d.setQueue q x).secs = d.secs := rfl
@[simp] theorem Dev.setQueue_later (d : Dev) (q : Nat) (x : Queue) : (d.setQueue q x).later = d.later := rfl
@[simp] theorem Dev.setQueue_queue_same (d : Dev) (q : Nat) (x : Queue) : (d.setQueue q x).queue q = x := getD_put_same _ _ _ _
theorem Dev.setQueue_queue_ne (d : Dev) (q : Nat) (x : Queue) (q' : Nat) (h : q' ≠ q) : (d.setQueue q x).queue q' = d.queue q' :=
  getD_put_ne _ _ _ h
@[simp] theorem Dev.setQueue_core (d : Dev) (q : Nat) (x : Queue) (j : Nat) : (d.setQueue q x).core j = d.core j := rfl
@[simp] theorem Dev.setQueue_ctx (d : Dev) (q : Nat) (x : Queue) (j : Nat) : (d.setQueue q x).ctx j = d.ctx j := rfl
@[simp] theorem Dev.setQueue_spool (d : Dev) (q : Nat) (x : Queue) (j : Nat) : (d.setQueue q x).spool j = d.spool j := rfl
@[simp] theorem Dev.setQueue_seam (d : Dev) (q : Nat) (x : Queue) (j : Nat) : (d.setQueue q x).seam j = d.seam j := rfl
@[simp] theorem Dev.setQueue_baste (d : Dev) (q : Nat) (x : Queue) (j : Nat) : (d.setQueue q x).baste j = d.baste j := rfl

@[simp] theorem Dev.setSpool_cores (d : Dev) (m : Nat) (x : Spool) : (d.setSpool m x).cores = d.cores := rfl
@[simp] theorem Dev.setSpool_ctxs (d : Dev) (m : Nat) (x : Spool) : (d.setSpool m x).ctxs = d.ctxs := rfl
@[simp] theorem Dev.setSpool_seq (d : Dev) (m : Nat) (x : Spool) : (d.setSpool m x).seq = d.seq := rfl
@[simp] theorem Dev.setSpool_knots (d : Dev) (m : Nat) (x : Spool) : (d.setSpool m x).knots = d.knots := rfl
@[simp] theorem Dev.setSpool_arrivals (d : Dev) (m : Nat) (x : Spool) : (d.setSpool m x).arrivals = d.arrivals := rfl
@[simp] theorem Dev.setSpool_tape (d : Dev) (m : Nat) (x : Spool) : (d.setSpool m x).tape = d.tape := rfl
@[simp] theorem Dev.setSpool_pace (d : Dev) (m : Nat) (x : Spool) : (d.setSpool m x).pace = d.pace := rfl
@[simp] theorem Dev.setSpool_yoke (d : Dev) (m : Nat) (x : Spool) : (d.setSpool m x).yoke = d.yoke := rfl
@[simp] theorem Dev.setSpool_queues (d : Dev) (m : Nat) (x : Spool) : (d.setSpool m x).queues = d.queues := rfl
@[simp] theorem Dev.setSpool_opens (d : Dev) (m : Nat) (x : Spool) : (d.setSpool m x).opens = d.opens := rfl
@[simp] theorem Dev.setSpool_regions (d : Dev) (m : Nat) (x : Spool) : (d.setSpool m x).regions = d.regions := rfl
@[simp] theorem Dev.setSpool_grants (d : Dev) (m : Nat) (x : Spool) : (d.setSpool m x).grants = d.grants := rfl
@[simp] theorem Dev.setSpool_remotes (d : Dev) (m : Nat) (x : Spool) : (d.setSpool m x).remotes = d.remotes := rfl
@[simp] theorem Dev.setSpool_exports (d : Dev) (m : Nat) (x : Spool) : (d.setSpool m x).exports = d.exports := rfl
@[simp] theorem Dev.setSpool_descs (d : Dev) (m : Nat) (x : Spool) : (d.setSpool m x).descs = d.descs := rfl
@[simp] theorem Dev.setSpool_dying (d : Dev) (m : Nat) (x : Spool) : (d.setSpool m x).dying = d.dying := rfl
@[simp] theorem Dev.setSpool_compat (d : Dev) (m : Nat) (x : Spool) : (d.setSpool m x).compat = d.compat := rfl
@[simp] theorem Dev.setSpool_gmes (d : Dev) (m : Nat) (x : Spool) : (d.setSpool m x).gmes = d.gmes := rfl
@[simp] theorem Dev.setSpool_presses (d : Dev) (m : Nat) (x : Spool) : (d.setSpool m x).presses = d.presses := rfl
@[simp] theorem Dev.setSpool_engs (d : Dev) (m : Nat) (x : Spool) : (d.setSpool m x).engs = d.engs := rfl
@[simp] theorem Dev.setSpool_hems (d : Dev) (m : Nat) (x : Spool) : (d.setSpool m x).hems = d.hems := rfl
@[simp] theorem Dev.setSpool_ahead (d : Dev) (m : Nat) (x : Spool) : (d.setSpool m x).ahead = d.ahead := rfl
@[simp] theorem Dev.setSpool_caches (d : Dev) (m : Nat) (x : Spool) : (d.setSpool m x).caches = d.caches := rfl
@[simp] theorem Dev.setSpool_bounce (d : Dev) (m : Nat) (x : Spool) : (d.setSpool m x).bounce = d.bounce := rfl
@[simp] theorem Dev.setSpool_seams (d : Dev) (m : Nat) (x : Spool) : (d.setSpool m x).seams = d.seams := rfl
@[simp] theorem Dev.setSpool_fab (d : Dev) (m : Nat) (x : Spool) : (d.setSpool m x).fab = d.fab := rfl
@[simp] theorem Dev.setSpool_tx (d : Dev) (m : Nat) (x : Spool) : (d.setSpool m x).tx = d.tx := rfl
@[simp] theorem Dev.setSpool_bolts (d : Dev) (m : Nat) (x : Spool) : (d.setSpool m x).bolts = d.bolts := rfl
@[simp] theorem Dev.setSpool_retireDue (d : Dev) (m : Nat) (x : Spool) : (d.setSpool m x).retireDue = d.retireDue := rfl
@[simp] theorem Dev.setSpool_shadow (d : Dev) (m : Nat) (x : Spool) : (d.setSpool m x).shadow = d.shadow := rfl
@[simp] theorem Dev.setSpool_health (d : Dev) (m : Nat) (x : Spool) : (d.setSpool m x).health = d.health := rfl
@[simp] theorem Dev.setSpool_containReset (d : Dev) (m : Nat) (x : Spool) : (d.setSpool m x).containReset = d.containReset := rfl
@[simp] theorem Dev.setSpool_bastes (d : Dev) (m : Nat) (x : Spool) : (d.setSpool m x).bastes = d.bastes := rfl
@[simp] theorem Dev.setSpool_cutter (d : Dev) (m : Nat) (x : Spool) : (d.setSpool m x).cutter = d.cutter := rfl
@[simp] theorem Dev.setSpool_fw (d : Dev) (m : Nat) (x : Spool) : (d.setSpool m x).fw = d.fw := rfl
@[simp] theorem Dev.setSpool_mb (d : Dev) (m : Nat) (x : Spool) : (d.setSpool m x).mb = d.mb := rfl
@[simp] theorem Dev.setSpool_cr (d : Dev) (m : Nat) (x : Spool) : (d.setSpool m x).cr = d.cr := rfl
@[simp] theorem Dev.setSpool_tests (d : Dev) (m : Nat) (x : Spool) : (d.setSpool m x).tests = d.tests := rfl
@[simp] theorem Dev.setSpool_power (d : Dev) (m : Nat) (x : Spool) : (d.setSpool m x).power = d.power := rfl
@[simp] theorem Dev.setSpool_pins (d : Dev) (m : Nat) (x : Spool) : (d.setSpool m x).pins = d.pins := rfl
@[simp] theorem Dev.setSpool_out (d : Dev) (m : Nat) (x : Spool) : (d.setSpool m x).out = d.out := rfl
@[simp] theorem Dev.setSpool_secs (d : Dev) (m : Nat) (x : Spool) : (d.setSpool m x).secs = d.secs := rfl
@[simp] theorem Dev.setSpool_later (d : Dev) (m : Nat) (x : Spool) : (d.setSpool m x).later = d.later := rfl
@[simp] theorem Dev.setSpool_spool_same (d : Dev) (m : Nat) (x : Spool) : (d.setSpool m x).spool m = x := getD_put_same _ _ _ _
theorem Dev.setSpool_spool_ne (d : Dev) (m : Nat) (x : Spool) (m' : Nat) (h : m' ≠ m) : (d.setSpool m x).spool m' = d.spool m' :=
  getD_put_ne _ _ _ h
@[simp] theorem Dev.setSpool_core (d : Dev) (m : Nat) (x : Spool) (j : Nat) : (d.setSpool m x).core j = d.core j := rfl
@[simp] theorem Dev.setSpool_ctx (d : Dev) (m : Nat) (x : Spool) (j : Nat) : (d.setSpool m x).ctx j = d.ctx j := rfl
@[simp] theorem Dev.setSpool_queue (d : Dev) (m : Nat) (x : Spool) (j : Nat) : (d.setSpool m x).queue j = d.queue j := rfl
@[simp] theorem Dev.setSpool_seam (d : Dev) (m : Nat) (x : Spool) (j : Nat) : (d.setSpool m x).seam j = d.seam j := rfl
@[simp] theorem Dev.setSpool_baste (d : Dev) (m : Nat) (x : Spool) (j : Nat) : (d.setSpool m x).baste j = d.baste j := rfl

@[simp] theorem Dev.setSeam_cores (d : Dev) (p : Nat) (x : Seam) : (d.setSeam p x).cores = d.cores := rfl
@[simp] theorem Dev.setSeam_ctxs (d : Dev) (p : Nat) (x : Seam) : (d.setSeam p x).ctxs = d.ctxs := rfl
@[simp] theorem Dev.setSeam_seq (d : Dev) (p : Nat) (x : Seam) : (d.setSeam p x).seq = d.seq := rfl
@[simp] theorem Dev.setSeam_knots (d : Dev) (p : Nat) (x : Seam) : (d.setSeam p x).knots = d.knots := rfl
@[simp] theorem Dev.setSeam_arrivals (d : Dev) (p : Nat) (x : Seam) : (d.setSeam p x).arrivals = d.arrivals := rfl
@[simp] theorem Dev.setSeam_tape (d : Dev) (p : Nat) (x : Seam) : (d.setSeam p x).tape = d.tape := rfl
@[simp] theorem Dev.setSeam_pace (d : Dev) (p : Nat) (x : Seam) : (d.setSeam p x).pace = d.pace := rfl
@[simp] theorem Dev.setSeam_yoke (d : Dev) (p : Nat) (x : Seam) : (d.setSeam p x).yoke = d.yoke := rfl
@[simp] theorem Dev.setSeam_queues (d : Dev) (p : Nat) (x : Seam) : (d.setSeam p x).queues = d.queues := rfl
@[simp] theorem Dev.setSeam_opens (d : Dev) (p : Nat) (x : Seam) : (d.setSeam p x).opens = d.opens := rfl
@[simp] theorem Dev.setSeam_regions (d : Dev) (p : Nat) (x : Seam) : (d.setSeam p x).regions = d.regions := rfl
@[simp] theorem Dev.setSeam_grants (d : Dev) (p : Nat) (x : Seam) : (d.setSeam p x).grants = d.grants := rfl
@[simp] theorem Dev.setSeam_remotes (d : Dev) (p : Nat) (x : Seam) : (d.setSeam p x).remotes = d.remotes := rfl
@[simp] theorem Dev.setSeam_exports (d : Dev) (p : Nat) (x : Seam) : (d.setSeam p x).exports = d.exports := rfl
@[simp] theorem Dev.setSeam_descs (d : Dev) (p : Nat) (x : Seam) : (d.setSeam p x).descs = d.descs := rfl
@[simp] theorem Dev.setSeam_dying (d : Dev) (p : Nat) (x : Seam) : (d.setSeam p x).dying = d.dying := rfl
@[simp] theorem Dev.setSeam_compat (d : Dev) (p : Nat) (x : Seam) : (d.setSeam p x).compat = d.compat := rfl
@[simp] theorem Dev.setSeam_spools (d : Dev) (p : Nat) (x : Seam) : (d.setSeam p x).spools = d.spools := rfl
@[simp] theorem Dev.setSeam_gmes (d : Dev) (p : Nat) (x : Seam) : (d.setSeam p x).gmes = d.gmes := rfl
@[simp] theorem Dev.setSeam_presses (d : Dev) (p : Nat) (x : Seam) : (d.setSeam p x).presses = d.presses := rfl
@[simp] theorem Dev.setSeam_engs (d : Dev) (p : Nat) (x : Seam) : (d.setSeam p x).engs = d.engs := rfl
@[simp] theorem Dev.setSeam_hems (d : Dev) (p : Nat) (x : Seam) : (d.setSeam p x).hems = d.hems := rfl
@[simp] theorem Dev.setSeam_ahead (d : Dev) (p : Nat) (x : Seam) : (d.setSeam p x).ahead = d.ahead := rfl
@[simp] theorem Dev.setSeam_caches (d : Dev) (p : Nat) (x : Seam) : (d.setSeam p x).caches = d.caches := rfl
@[simp] theorem Dev.setSeam_bounce (d : Dev) (p : Nat) (x : Seam) : (d.setSeam p x).bounce = d.bounce := rfl
@[simp] theorem Dev.setSeam_fab (d : Dev) (p : Nat) (x : Seam) : (d.setSeam p x).fab = d.fab := rfl
@[simp] theorem Dev.setSeam_tx (d : Dev) (p : Nat) (x : Seam) : (d.setSeam p x).tx = d.tx := rfl
@[simp] theorem Dev.setSeam_bolts (d : Dev) (p : Nat) (x : Seam) : (d.setSeam p x).bolts = d.bolts := rfl
@[simp] theorem Dev.setSeam_retireDue (d : Dev) (p : Nat) (x : Seam) : (d.setSeam p x).retireDue = d.retireDue := rfl
@[simp] theorem Dev.setSeam_shadow (d : Dev) (p : Nat) (x : Seam) : (d.setSeam p x).shadow = d.shadow := rfl
@[simp] theorem Dev.setSeam_health (d : Dev) (p : Nat) (x : Seam) : (d.setSeam p x).health = d.health := rfl
@[simp] theorem Dev.setSeam_containReset (d : Dev) (p : Nat) (x : Seam) : (d.setSeam p x).containReset = d.containReset := rfl
@[simp] theorem Dev.setSeam_bastes (d : Dev) (p : Nat) (x : Seam) : (d.setSeam p x).bastes = d.bastes := rfl
@[simp] theorem Dev.setSeam_cutter (d : Dev) (p : Nat) (x : Seam) : (d.setSeam p x).cutter = d.cutter := rfl
@[simp] theorem Dev.setSeam_fw (d : Dev) (p : Nat) (x : Seam) : (d.setSeam p x).fw = d.fw := rfl
@[simp] theorem Dev.setSeam_mb (d : Dev) (p : Nat) (x : Seam) : (d.setSeam p x).mb = d.mb := rfl
@[simp] theorem Dev.setSeam_cr (d : Dev) (p : Nat) (x : Seam) : (d.setSeam p x).cr = d.cr := rfl
@[simp] theorem Dev.setSeam_tests (d : Dev) (p : Nat) (x : Seam) : (d.setSeam p x).tests = d.tests := rfl
@[simp] theorem Dev.setSeam_power (d : Dev) (p : Nat) (x : Seam) : (d.setSeam p x).power = d.power := rfl
@[simp] theorem Dev.setSeam_pins (d : Dev) (p : Nat) (x : Seam) : (d.setSeam p x).pins = d.pins := rfl
@[simp] theorem Dev.setSeam_out (d : Dev) (p : Nat) (x : Seam) : (d.setSeam p x).out = d.out := rfl
@[simp] theorem Dev.setSeam_secs (d : Dev) (p : Nat) (x : Seam) : (d.setSeam p x).secs = d.secs := rfl
@[simp] theorem Dev.setSeam_later (d : Dev) (p : Nat) (x : Seam) : (d.setSeam p x).later = d.later := rfl
@[simp] theorem Dev.setSeam_seam_same (d : Dev) (p : Nat) (x : Seam) : (d.setSeam p x).seam p = x := getD_put_same _ _ _ _
theorem Dev.setSeam_seam_ne (d : Dev) (p : Nat) (x : Seam) (p' : Nat) (h : p' ≠ p) : (d.setSeam p x).seam p' = d.seam p' :=
  getD_put_ne _ _ _ h
@[simp] theorem Dev.setSeam_core (d : Dev) (p : Nat) (x : Seam) (j : Nat) : (d.setSeam p x).core j = d.core j := rfl
@[simp] theorem Dev.setSeam_ctx (d : Dev) (p : Nat) (x : Seam) (j : Nat) : (d.setSeam p x).ctx j = d.ctx j := rfl
@[simp] theorem Dev.setSeam_queue (d : Dev) (p : Nat) (x : Seam) (j : Nat) : (d.setSeam p x).queue j = d.queue j := rfl
@[simp] theorem Dev.setSeam_spool (d : Dev) (p : Nat) (x : Seam) (j : Nat) : (d.setSeam p x).spool j = d.spool j := rfl
@[simp] theorem Dev.setSeam_baste (d : Dev) (p : Nat) (x : Seam) (j : Nat) : (d.setSeam p x).baste j = d.baste j := rfl

@[simp] theorem Dev.setBaste_cores (d : Dev) (i : Nat) (x : Baste) : (d.setBaste i x).cores = d.cores := rfl
@[simp] theorem Dev.setBaste_ctxs (d : Dev) (i : Nat) (x : Baste) : (d.setBaste i x).ctxs = d.ctxs := rfl
@[simp] theorem Dev.setBaste_seq (d : Dev) (i : Nat) (x : Baste) : (d.setBaste i x).seq = d.seq := rfl
@[simp] theorem Dev.setBaste_knots (d : Dev) (i : Nat) (x : Baste) : (d.setBaste i x).knots = d.knots := rfl
@[simp] theorem Dev.setBaste_arrivals (d : Dev) (i : Nat) (x : Baste) : (d.setBaste i x).arrivals = d.arrivals := rfl
@[simp] theorem Dev.setBaste_tape (d : Dev) (i : Nat) (x : Baste) : (d.setBaste i x).tape = d.tape := rfl
@[simp] theorem Dev.setBaste_pace (d : Dev) (i : Nat) (x : Baste) : (d.setBaste i x).pace = d.pace := rfl
@[simp] theorem Dev.setBaste_yoke (d : Dev) (i : Nat) (x : Baste) : (d.setBaste i x).yoke = d.yoke := rfl
@[simp] theorem Dev.setBaste_queues (d : Dev) (i : Nat) (x : Baste) : (d.setBaste i x).queues = d.queues := rfl
@[simp] theorem Dev.setBaste_opens (d : Dev) (i : Nat) (x : Baste) : (d.setBaste i x).opens = d.opens := rfl
@[simp] theorem Dev.setBaste_regions (d : Dev) (i : Nat) (x : Baste) : (d.setBaste i x).regions = d.regions := rfl
@[simp] theorem Dev.setBaste_grants (d : Dev) (i : Nat) (x : Baste) : (d.setBaste i x).grants = d.grants := rfl
@[simp] theorem Dev.setBaste_remotes (d : Dev) (i : Nat) (x : Baste) : (d.setBaste i x).remotes = d.remotes := rfl
@[simp] theorem Dev.setBaste_exports (d : Dev) (i : Nat) (x : Baste) : (d.setBaste i x).exports = d.exports := rfl
@[simp] theorem Dev.setBaste_descs (d : Dev) (i : Nat) (x : Baste) : (d.setBaste i x).descs = d.descs := rfl
@[simp] theorem Dev.setBaste_dying (d : Dev) (i : Nat) (x : Baste) : (d.setBaste i x).dying = d.dying := rfl
@[simp] theorem Dev.setBaste_compat (d : Dev) (i : Nat) (x : Baste) : (d.setBaste i x).compat = d.compat := rfl
@[simp] theorem Dev.setBaste_spools (d : Dev) (i : Nat) (x : Baste) : (d.setBaste i x).spools = d.spools := rfl
@[simp] theorem Dev.setBaste_gmes (d : Dev) (i : Nat) (x : Baste) : (d.setBaste i x).gmes = d.gmes := rfl
@[simp] theorem Dev.setBaste_presses (d : Dev) (i : Nat) (x : Baste) : (d.setBaste i x).presses = d.presses := rfl
@[simp] theorem Dev.setBaste_engs (d : Dev) (i : Nat) (x : Baste) : (d.setBaste i x).engs = d.engs := rfl
@[simp] theorem Dev.setBaste_hems (d : Dev) (i : Nat) (x : Baste) : (d.setBaste i x).hems = d.hems := rfl
@[simp] theorem Dev.setBaste_ahead (d : Dev) (i : Nat) (x : Baste) : (d.setBaste i x).ahead = d.ahead := rfl
@[simp] theorem Dev.setBaste_caches (d : Dev) (i : Nat) (x : Baste) : (d.setBaste i x).caches = d.caches := rfl
@[simp] theorem Dev.setBaste_bounce (d : Dev) (i : Nat) (x : Baste) : (d.setBaste i x).bounce = d.bounce := rfl
@[simp] theorem Dev.setBaste_seams (d : Dev) (i : Nat) (x : Baste) : (d.setBaste i x).seams = d.seams := rfl
@[simp] theorem Dev.setBaste_fab (d : Dev) (i : Nat) (x : Baste) : (d.setBaste i x).fab = d.fab := rfl
@[simp] theorem Dev.setBaste_tx (d : Dev) (i : Nat) (x : Baste) : (d.setBaste i x).tx = d.tx := rfl
@[simp] theorem Dev.setBaste_bolts (d : Dev) (i : Nat) (x : Baste) : (d.setBaste i x).bolts = d.bolts := rfl
@[simp] theorem Dev.setBaste_retireDue (d : Dev) (i : Nat) (x : Baste) : (d.setBaste i x).retireDue = d.retireDue := rfl
@[simp] theorem Dev.setBaste_shadow (d : Dev) (i : Nat) (x : Baste) : (d.setBaste i x).shadow = d.shadow := rfl
@[simp] theorem Dev.setBaste_health (d : Dev) (i : Nat) (x : Baste) : (d.setBaste i x).health = d.health := rfl
@[simp] theorem Dev.setBaste_containReset (d : Dev) (i : Nat) (x : Baste) : (d.setBaste i x).containReset = d.containReset := rfl
@[simp] theorem Dev.setBaste_cutter (d : Dev) (i : Nat) (x : Baste) : (d.setBaste i x).cutter = d.cutter := rfl
@[simp] theorem Dev.setBaste_fw (d : Dev) (i : Nat) (x : Baste) : (d.setBaste i x).fw = d.fw := rfl
@[simp] theorem Dev.setBaste_mb (d : Dev) (i : Nat) (x : Baste) : (d.setBaste i x).mb = d.mb := rfl
@[simp] theorem Dev.setBaste_cr (d : Dev) (i : Nat) (x : Baste) : (d.setBaste i x).cr = d.cr := rfl
@[simp] theorem Dev.setBaste_tests (d : Dev) (i : Nat) (x : Baste) : (d.setBaste i x).tests = d.tests := rfl
@[simp] theorem Dev.setBaste_power (d : Dev) (i : Nat) (x : Baste) : (d.setBaste i x).power = d.power := rfl
@[simp] theorem Dev.setBaste_pins (d : Dev) (i : Nat) (x : Baste) : (d.setBaste i x).pins = d.pins := rfl
@[simp] theorem Dev.setBaste_out (d : Dev) (i : Nat) (x : Baste) : (d.setBaste i x).out = d.out := rfl
@[simp] theorem Dev.setBaste_secs (d : Dev) (i : Nat) (x : Baste) : (d.setBaste i x).secs = d.secs := rfl
@[simp] theorem Dev.setBaste_later (d : Dev) (i : Nat) (x : Baste) : (d.setBaste i x).later = d.later := rfl
@[simp] theorem Dev.setBaste_baste_same (d : Dev) (i : Nat) (x : Baste) : (d.setBaste i x).baste i = x := getD_put_same _ _ _ _
theorem Dev.setBaste_baste_ne (d : Dev) (i : Nat) (x : Baste) (i' : Nat) (h : i' ≠ i) : (d.setBaste i x).baste i' = d.baste i' :=
  getD_put_ne _ _ _ h
@[simp] theorem Dev.setBaste_core (d : Dev) (i : Nat) (x : Baste) (j : Nat) : (d.setBaste i x).core j = d.core j := rfl
@[simp] theorem Dev.setBaste_ctx (d : Dev) (i : Nat) (x : Baste) (j : Nat) : (d.setBaste i x).ctx j = d.ctx j := rfl
@[simp] theorem Dev.setBaste_queue (d : Dev) (i : Nat) (x : Baste) (j : Nat) : (d.setBaste i x).queue j = d.queue j := rfl
@[simp] theorem Dev.setBaste_spool (d : Dev) (i : Nat) (x : Baste) (j : Nat) : (d.setBaste i x).spool j = d.spool j := rfl
@[simp] theorem Dev.setBaste_seam (d : Dev) (i : Nat) (x : Baste) (j : Nat) : (d.setBaste i x).seam j = d.seam j := rfl

@[simp] theorem Dev.updBolt_cores (d : Dev) (b : Nat) (f : Bolt → Bolt) : (d.updBolt b f).cores = d.cores := rfl
@[simp] theorem Dev.updBolt_ctxs (d : Dev) (b : Nat) (f : Bolt → Bolt) : (d.updBolt b f).ctxs = d.ctxs := rfl
@[simp] theorem Dev.updBolt_seq (d : Dev) (b : Nat) (f : Bolt → Bolt) : (d.updBolt b f).seq = d.seq := rfl
@[simp] theorem Dev.updBolt_knots (d : Dev) (b : Nat) (f : Bolt → Bolt) : (d.updBolt b f).knots = d.knots := rfl
@[simp] theorem Dev.updBolt_arrivals (d : Dev) (b : Nat) (f : Bolt → Bolt) : (d.updBolt b f).arrivals = d.arrivals := rfl
@[simp] theorem Dev.updBolt_tape (d : Dev) (b : Nat) (f : Bolt → Bolt) : (d.updBolt b f).tape = d.tape := rfl
@[simp] theorem Dev.updBolt_pace (d : Dev) (b : Nat) (f : Bolt → Bolt) : (d.updBolt b f).pace = d.pace := rfl
@[simp] theorem Dev.updBolt_yoke (d : Dev) (b : Nat) (f : Bolt → Bolt) : (d.updBolt b f).yoke = d.yoke := rfl
@[simp] theorem Dev.updBolt_queues (d : Dev) (b : Nat) (f : Bolt → Bolt) : (d.updBolt b f).queues = d.queues := rfl
@[simp] theorem Dev.updBolt_opens (d : Dev) (b : Nat) (f : Bolt → Bolt) : (d.updBolt b f).opens = d.opens := rfl
@[simp] theorem Dev.updBolt_regions (d : Dev) (b : Nat) (f : Bolt → Bolt) : (d.updBolt b f).regions = d.regions := rfl
@[simp] theorem Dev.updBolt_grants (d : Dev) (b : Nat) (f : Bolt → Bolt) : (d.updBolt b f).grants = d.grants := rfl
@[simp] theorem Dev.updBolt_remotes (d : Dev) (b : Nat) (f : Bolt → Bolt) : (d.updBolt b f).remotes = d.remotes := rfl
@[simp] theorem Dev.updBolt_exports (d : Dev) (b : Nat) (f : Bolt → Bolt) : (d.updBolt b f).exports = d.exports := rfl
@[simp] theorem Dev.updBolt_descs (d : Dev) (b : Nat) (f : Bolt → Bolt) : (d.updBolt b f).descs = d.descs := rfl
@[simp] theorem Dev.updBolt_dying (d : Dev) (b : Nat) (f : Bolt → Bolt) : (d.updBolt b f).dying = d.dying := rfl
@[simp] theorem Dev.updBolt_compat (d : Dev) (b : Nat) (f : Bolt → Bolt) : (d.updBolt b f).compat = d.compat := rfl
@[simp] theorem Dev.updBolt_spools (d : Dev) (b : Nat) (f : Bolt → Bolt) : (d.updBolt b f).spools = d.spools := rfl
@[simp] theorem Dev.updBolt_gmes (d : Dev) (b : Nat) (f : Bolt → Bolt) : (d.updBolt b f).gmes = d.gmes := rfl
@[simp] theorem Dev.updBolt_presses (d : Dev) (b : Nat) (f : Bolt → Bolt) : (d.updBolt b f).presses = d.presses := rfl
@[simp] theorem Dev.updBolt_engs (d : Dev) (b : Nat) (f : Bolt → Bolt) : (d.updBolt b f).engs = d.engs := rfl
@[simp] theorem Dev.updBolt_hems (d : Dev) (b : Nat) (f : Bolt → Bolt) : (d.updBolt b f).hems = d.hems := rfl
@[simp] theorem Dev.updBolt_ahead (d : Dev) (b : Nat) (f : Bolt → Bolt) : (d.updBolt b f).ahead = d.ahead := rfl
@[simp] theorem Dev.updBolt_caches (d : Dev) (b : Nat) (f : Bolt → Bolt) : (d.updBolt b f).caches = d.caches := rfl
@[simp] theorem Dev.updBolt_bounce (d : Dev) (b : Nat) (f : Bolt → Bolt) : (d.updBolt b f).bounce = d.bounce := rfl
@[simp] theorem Dev.updBolt_seams (d : Dev) (b : Nat) (f : Bolt → Bolt) : (d.updBolt b f).seams = d.seams := rfl
@[simp] theorem Dev.updBolt_fab (d : Dev) (b : Nat) (f : Bolt → Bolt) : (d.updBolt b f).fab = d.fab := rfl
@[simp] theorem Dev.updBolt_tx (d : Dev) (b : Nat) (f : Bolt → Bolt) : (d.updBolt b f).tx = d.tx := rfl
@[simp] theorem Dev.updBolt_retireDue (d : Dev) (b : Nat) (f : Bolt → Bolt) : (d.updBolt b f).retireDue = d.retireDue := rfl
@[simp] theorem Dev.updBolt_shadow (d : Dev) (b : Nat) (f : Bolt → Bolt) : (d.updBolt b f).shadow = d.shadow := rfl
@[simp] theorem Dev.updBolt_health (d : Dev) (b : Nat) (f : Bolt → Bolt) : (d.updBolt b f).health = d.health := rfl
@[simp] theorem Dev.updBolt_containReset (d : Dev) (b : Nat) (f : Bolt → Bolt) : (d.updBolt b f).containReset = d.containReset := rfl
@[simp] theorem Dev.updBolt_bastes (d : Dev) (b : Nat) (f : Bolt → Bolt) : (d.updBolt b f).bastes = d.bastes := rfl
@[simp] theorem Dev.updBolt_cutter (d : Dev) (b : Nat) (f : Bolt → Bolt) : (d.updBolt b f).cutter = d.cutter := rfl
@[simp] theorem Dev.updBolt_fw (d : Dev) (b : Nat) (f : Bolt → Bolt) : (d.updBolt b f).fw = d.fw := rfl
@[simp] theorem Dev.updBolt_mb (d : Dev) (b : Nat) (f : Bolt → Bolt) : (d.updBolt b f).mb = d.mb := rfl
@[simp] theorem Dev.updBolt_cr (d : Dev) (b : Nat) (f : Bolt → Bolt) : (d.updBolt b f).cr = d.cr := rfl
@[simp] theorem Dev.updBolt_tests (d : Dev) (b : Nat) (f : Bolt → Bolt) : (d.updBolt b f).tests = d.tests := rfl
@[simp] theorem Dev.updBolt_power (d : Dev) (b : Nat) (f : Bolt → Bolt) : (d.updBolt b f).power = d.power := rfl
@[simp] theorem Dev.updBolt_pins (d : Dev) (b : Nat) (f : Bolt → Bolt) : (d.updBolt b f).pins = d.pins := rfl
@[simp] theorem Dev.updBolt_out (d : Dev) (b : Nat) (f : Bolt → Bolt) : (d.updBolt b f).out = d.out := rfl
@[simp] theorem Dev.updBolt_secs (d : Dev) (b : Nat) (f : Bolt → Bolt) : (d.updBolt b f).secs = d.secs := rfl
@[simp] theorem Dev.updBolt_later (d : Dev) (b : Nat) (f : Bolt → Bolt) : (d.updBolt b f).later = d.later := rfl
@[simp] theorem Dev.updBolt_bolt_same (d : Dev) (b : Nat) (f : Bolt → Bolt) : (d.updBolt b f).bolt b = f (d.bolt b) := getD_put_same _ _ _ _
@[simp] theorem Dev.updBolt_core (d : Dev) (b : Nat) (f : Bolt → Bolt) (j : Nat) : (d.updBolt b f).core j = d.core j := rfl
@[simp] theorem Dev.updBolt_ctx (d : Dev) (b : Nat) (f : Bolt → Bolt) (j : Nat) : (d.updBolt b f).ctx j = d.ctx j := rfl
@[simp] theorem Dev.updBolt_queue (d : Dev) (b : Nat) (f : Bolt → Bolt) (j : Nat) : (d.updBolt b f).queue j = d.queue j := rfl
@[simp] theorem Dev.updBolt_spool (d : Dev) (b : Nat) (f : Bolt → Bolt) (j : Nat) : (d.updBolt b f).spool j = d.spool j := rfl
@[simp] theorem Dev.updBolt_seam (d : Dev) (b : Nat) (f : Bolt → Bolt) (j : Nat) : (d.updBolt b f).seam j = d.seam j := rfl
@[simp] theorem Dev.updBolt_baste (d : Dev) (b : Nat) (f : Bolt → Bolt) (j : Nat) : (d.updBolt b f).baste j = d.baste j := rfl

@[simp] theorem Dev.updHem_cores (d : Dev) (k : Nat) (f : Hem → Hem) : (d.updHem k f).cores = d.cores := rfl
@[simp] theorem Dev.updHem_ctxs (d : Dev) (k : Nat) (f : Hem → Hem) : (d.updHem k f).ctxs = d.ctxs := rfl
@[simp] theorem Dev.updHem_seq (d : Dev) (k : Nat) (f : Hem → Hem) : (d.updHem k f).seq = d.seq := rfl
@[simp] theorem Dev.updHem_knots (d : Dev) (k : Nat) (f : Hem → Hem) : (d.updHem k f).knots = d.knots := rfl
@[simp] theorem Dev.updHem_arrivals (d : Dev) (k : Nat) (f : Hem → Hem) : (d.updHem k f).arrivals = d.arrivals := rfl
@[simp] theorem Dev.updHem_tape (d : Dev) (k : Nat) (f : Hem → Hem) : (d.updHem k f).tape = d.tape := rfl
@[simp] theorem Dev.updHem_pace (d : Dev) (k : Nat) (f : Hem → Hem) : (d.updHem k f).pace = d.pace := rfl
@[simp] theorem Dev.updHem_yoke (d : Dev) (k : Nat) (f : Hem → Hem) : (d.updHem k f).yoke = d.yoke := rfl
@[simp] theorem Dev.updHem_queues (d : Dev) (k : Nat) (f : Hem → Hem) : (d.updHem k f).queues = d.queues := rfl
@[simp] theorem Dev.updHem_opens (d : Dev) (k : Nat) (f : Hem → Hem) : (d.updHem k f).opens = d.opens := rfl
@[simp] theorem Dev.updHem_regions (d : Dev) (k : Nat) (f : Hem → Hem) : (d.updHem k f).regions = d.regions := rfl
@[simp] theorem Dev.updHem_grants (d : Dev) (k : Nat) (f : Hem → Hem) : (d.updHem k f).grants = d.grants := rfl
@[simp] theorem Dev.updHem_remotes (d : Dev) (k : Nat) (f : Hem → Hem) : (d.updHem k f).remotes = d.remotes := rfl
@[simp] theorem Dev.updHem_exports (d : Dev) (k : Nat) (f : Hem → Hem) : (d.updHem k f).exports = d.exports := rfl
@[simp] theorem Dev.updHem_descs (d : Dev) (k : Nat) (f : Hem → Hem) : (d.updHem k f).descs = d.descs := rfl
@[simp] theorem Dev.updHem_dying (d : Dev) (k : Nat) (f : Hem → Hem) : (d.updHem k f).dying = d.dying := rfl
@[simp] theorem Dev.updHem_compat (d : Dev) (k : Nat) (f : Hem → Hem) : (d.updHem k f).compat = d.compat := rfl
@[simp] theorem Dev.updHem_spools (d : Dev) (k : Nat) (f : Hem → Hem) : (d.updHem k f).spools = d.spools := rfl
@[simp] theorem Dev.updHem_gmes (d : Dev) (k : Nat) (f : Hem → Hem) : (d.updHem k f).gmes = d.gmes := rfl
@[simp] theorem Dev.updHem_presses (d : Dev) (k : Nat) (f : Hem → Hem) : (d.updHem k f).presses = d.presses := rfl
@[simp] theorem Dev.updHem_engs (d : Dev) (k : Nat) (f : Hem → Hem) : (d.updHem k f).engs = d.engs := rfl
@[simp] theorem Dev.updHem_ahead (d : Dev) (k : Nat) (f : Hem → Hem) : (d.updHem k f).ahead = d.ahead := rfl
@[simp] theorem Dev.updHem_caches (d : Dev) (k : Nat) (f : Hem → Hem) : (d.updHem k f).caches = d.caches := rfl
@[simp] theorem Dev.updHem_bounce (d : Dev) (k : Nat) (f : Hem → Hem) : (d.updHem k f).bounce = d.bounce := rfl
@[simp] theorem Dev.updHem_seams (d : Dev) (k : Nat) (f : Hem → Hem) : (d.updHem k f).seams = d.seams := rfl
@[simp] theorem Dev.updHem_fab (d : Dev) (k : Nat) (f : Hem → Hem) : (d.updHem k f).fab = d.fab := rfl
@[simp] theorem Dev.updHem_tx (d : Dev) (k : Nat) (f : Hem → Hem) : (d.updHem k f).tx = d.tx := rfl
@[simp] theorem Dev.updHem_bolts (d : Dev) (k : Nat) (f : Hem → Hem) : (d.updHem k f).bolts = d.bolts := rfl
@[simp] theorem Dev.updHem_retireDue (d : Dev) (k : Nat) (f : Hem → Hem) : (d.updHem k f).retireDue = d.retireDue := rfl
@[simp] theorem Dev.updHem_shadow (d : Dev) (k : Nat) (f : Hem → Hem) : (d.updHem k f).shadow = d.shadow := rfl
@[simp] theorem Dev.updHem_health (d : Dev) (k : Nat) (f : Hem → Hem) : (d.updHem k f).health = d.health := rfl
@[simp] theorem Dev.updHem_containReset (d : Dev) (k : Nat) (f : Hem → Hem) : (d.updHem k f).containReset = d.containReset := rfl
@[simp] theorem Dev.updHem_bastes (d : Dev) (k : Nat) (f : Hem → Hem) : (d.updHem k f).bastes = d.bastes := rfl
@[simp] theorem Dev.updHem_cutter (d : Dev) (k : Nat) (f : Hem → Hem) : (d.updHem k f).cutter = d.cutter := rfl
@[simp] theorem Dev.updHem_fw (d : Dev) (k : Nat) (f : Hem → Hem) : (d.updHem k f).fw = d.fw := rfl
@[simp] theorem Dev.updHem_mb (d : Dev) (k : Nat) (f : Hem → Hem) : (d.updHem k f).mb = d.mb := rfl
@[simp] theorem Dev.updHem_cr (d : Dev) (k : Nat) (f : Hem → Hem) : (d.updHem k f).cr = d.cr := rfl
@[simp] theorem Dev.updHem_tests (d : Dev) (k : Nat) (f : Hem → Hem) : (d.updHem k f).tests = d.tests := rfl
@[simp] theorem Dev.updHem_power (d : Dev) (k : Nat) (f : Hem → Hem) : (d.updHem k f).power = d.power := rfl
@[simp] theorem Dev.updHem_pins (d : Dev) (k : Nat) (f : Hem → Hem) : (d.updHem k f).pins = d.pins := rfl
@[simp] theorem Dev.updHem_out (d : Dev) (k : Nat) (f : Hem → Hem) : (d.updHem k f).out = d.out := rfl
@[simp] theorem Dev.updHem_secs (d : Dev) (k : Nat) (f : Hem → Hem) : (d.updHem k f).secs = d.secs := rfl
@[simp] theorem Dev.updHem_later (d : Dev) (k : Nat) (f : Hem → Hem) : (d.updHem k f).later = d.later := rfl
@[simp] theorem Dev.updHem_hem_same (d : Dev) (k : Nat) (f : Hem → Hem) : (d.updHem k f).hem k = f (d.hem k) := getD_put_same _ _ _ _
@[simp] theorem Dev.updHem_core (d : Dev) (k : Nat) (f : Hem → Hem) (j : Nat) : (d.updHem k f).core j = d.core j := rfl
@[simp] theorem Dev.updHem_ctx (d : Dev) (k : Nat) (f : Hem → Hem) (j : Nat) : (d.updHem k f).ctx j = d.ctx j := rfl
@[simp] theorem Dev.updHem_queue (d : Dev) (k : Nat) (f : Hem → Hem) (j : Nat) : (d.updHem k f).queue j = d.queue j := rfl
@[simp] theorem Dev.updHem_spool (d : Dev) (k : Nat) (f : Hem → Hem) (j : Nat) : (d.updHem k f).spool j = d.spool j := rfl
@[simp] theorem Dev.updHem_seam (d : Dev) (k : Nat) (f : Hem → Hem) (j : Nat) : (d.updHem k f).seam j = d.seam j := rfl
@[simp] theorem Dev.updHem_baste (d : Dev) (k : Nat) (f : Hem → Hem) (j : Nat) : (d.updHem k f).baste j = d.baste j := rfl

/-! ### Streams -/

@[simp] theorem Core.setStream_same (c : Core) (st : Str) (x : StreamSt) : (c.setStream st x).stream st = x := by cases st <;> rfl
theorem Core.setStream_ne (c : Core) {st st' : Str} (x : StreamSt) (h : st' ≠ st) : (c.setStream st x).stream st' = c.stream st' := by
  cases st <;> cases st' <;> first | rfl | exact absurd rfl h
@[simp] theorem Core.setStream_shared (c : Core) (st : Str) (x : StreamSt) : (c.setStream st x).shared = c.shared := by cases st <;> rfl
@[simp] theorem Core.setStream_handles (c : Core) (st : Str) (x : StreamSt) : (c.setStream st x).handles = c.handles := by cases st <;> rfl
@[simp] theorem Core.setStream_arrq (c : Core) (st : Str) (x : StreamSt) : (c.setStream st x).arrq = c.arrq := by cases st <;> rfl
@[simp] theorem Core.setStream_bankA (c : Core) (st : Str) (x : StreamSt) : (c.setStream st x).bankA = c.bankA := by cases st <;> rfl
@[simp] theorem Core.setStream_bankB (c : Core) (st : Str) (x : StreamSt) : (c.setStream st x).bankB = c.bankB := by cases st <;> rfl
@[simp] theorem Core.setStream_nextB (c : Core) (st : Str) (x : StreamSt) : (c.setStream st x).nextB = c.nextB := by cases st <;> rfl
@[simp] theorem Core.setStream_bob (c : Core) (st : Str) (x : StreamSt) : (c.setStream st x).bob = c.bob := by cases st <;> rfl
@[simp] theorem Core.setStream_bobFill (c : Core) (st : Str) (x : StreamSt) : (c.setStream st x).bobFill = c.bobFill := by cases st <;> rfl
@[simp] theorem Core.setStream_wq (c : Core) (st : Str) (x : StreamSt) : (c.setStream st x).wq = c.wq := by cases st <;> rfl
@[simp] theorem Core.setStream_wqFill (c : Core) (st : Str) (x : StreamSt) : (c.setStream st x).wqFill = c.wqFill := by cases st <;> rfl
@[simp] theorem Core.setStream_held (c : Core) (st : Str) (x : StreamSt) : (c.setStream st x).held = c.held := by cases st <;> rfl
@[simp] theorem Core.setStream_shadow (c : Core) (st : Str) (x : StreamSt) : (c.setStream st x).shadow = c.shadow := by cases st <;> rfl
@[simp] theorem Core.setStream_verdicts (c : Core) (st : Str) (x : StreamSt) : (c.setStream st x).verdicts = c.verdicts := by cases st <;> rfl
@[simp] theorem Core.setStream_strikes (c : Core) (st : Str) (x : StreamSt) : (c.setStream st x).strikes = c.strikes := by cases st <;> rfl
@[simp] theorem Core.setStream_idleCount (c : Core) (st : Str) (x : StreamSt) : (c.setStream st x).idleCount = c.idleCount := by cases st <;> rfl
@[simp] theorem Core.setStream_lastIdle (c : Core) (st : Str) (x : StreamSt) : (c.setStream st x).lastIdle = c.lastIdle := by cases st <;> rfl
@[simp] theorem Core.setStream_lastGroup (c : Core) (st : Str) (x : StreamSt) : (c.setStream st x).lastGroup = c.lastGroup := by cases st <;> rfl
@[simp] theorem Core.setStream_bankErr (c : Core) (st : Str) (x : StreamSt) : (c.setStream st x).bankErr = c.bankErr := by cases st <;> rfl
@[simp] theorem Dev.setStream_same (d : Dev) (cs : CS) (x : StreamSt) : (d.setStream cs x).stream cs = x := by
  simp [Dev.setStream, Dev.stream, Dev.updCore]
theorem Dev.setStream_ne (d : Dev) {cs cs' : CS} (x : StreamSt) (h : cs' ≠ cs) : (d.setStream cs x).stream cs' = d.stream cs' := by
  unfold Dev.setStream Dev.stream Dev.updCore
  by_cases hc : (cs'.core : Nat) = cs.core
  · rw [hc, Dev.setCore_core_same]
    refine Core.setStream_ne _ _ fun hs => h ?_
    obtain ⟨c, s⟩ := cs; obtain ⟨c', s'⟩ := cs'
    simp only [CS.mk.injEq]
    exact ⟨Fin.ext hc, hs⟩
  · rw [Dev.setCore_core_ne _ _ _ _ hc]
@[simp] theorem Dev.setStream_ctxs (d : Dev) (cs : CS) (x : StreamSt) : (d.setStream cs x).ctxs = d.ctxs := rfl
@[simp] theorem Dev.setStream_seq (d : Dev) (cs : CS) (x : StreamSt) : (d.setStream cs x).seq = d.seq := rfl
@[simp] theorem Dev.setStream_knots (d : Dev) (cs : CS) (x : StreamSt) : (d.setStream cs x).knots = d.knots := rfl
@[simp] theorem Dev.setStream_arrivals (d : Dev) (cs : CS) (x : StreamSt) : (d.setStream cs x).arrivals = d.arrivals := rfl
@[simp] theorem Dev.setStream_tape (d : Dev) (cs : CS) (x : StreamSt) : (d.setStream cs x).tape = d.tape := rfl
@[simp] theorem Dev.setStream_pace (d : Dev) (cs : CS) (x : StreamSt) : (d.setStream cs x).pace = d.pace := rfl
@[simp] theorem Dev.setStream_yoke (d : Dev) (cs : CS) (x : StreamSt) : (d.setStream cs x).yoke = d.yoke := rfl
@[simp] theorem Dev.setStream_queues (d : Dev) (cs : CS) (x : StreamSt) : (d.setStream cs x).queues = d.queues := rfl
@[simp] theorem Dev.setStream_opens (d : Dev) (cs : CS) (x : StreamSt) : (d.setStream cs x).opens = d.opens := rfl
@[simp] theorem Dev.setStream_regions (d : Dev) (cs : CS) (x : StreamSt) : (d.setStream cs x).regions = d.regions := rfl
@[simp] theorem Dev.setStream_grants (d : Dev) (cs : CS) (x : StreamSt) : (d.setStream cs x).grants = d.grants := rfl
@[simp] theorem Dev.setStream_remotes (d : Dev) (cs : CS) (x : StreamSt) : (d.setStream cs x).remotes = d.remotes := rfl
@[simp] theorem Dev.setStream_exports (d : Dev) (cs : CS) (x : StreamSt) : (d.setStream cs x).exports = d.exports := rfl
@[simp] theorem Dev.setStream_descs (d : Dev) (cs : CS) (x : StreamSt) : (d.setStream cs x).descs = d.descs := rfl
@[simp] theorem Dev.setStream_dying (d : Dev) (cs : CS) (x : StreamSt) : (d.setStream cs x).dying = d.dying := rfl
@[simp] theorem Dev.setStream_compat (d : Dev) (cs : CS) (x : StreamSt) : (d.setStream cs x).compat = d.compat := rfl
@[simp] theorem Dev.setStream_spools (d : Dev) (cs : CS) (x : StreamSt) : (d.setStream cs x).spools = d.spools := rfl
@[simp] theorem Dev.setStream_gmes (d : Dev) (cs : CS) (x : StreamSt) : (d.setStream cs x).gmes = d.gmes := rfl
@[simp] theorem Dev.setStream_presses (d : Dev) (cs : CS) (x : StreamSt) : (d.setStream cs x).presses = d.presses := rfl
@[simp] theorem Dev.setStream_engs (d : Dev) (cs : CS) (x : StreamSt) : (d.setStream cs x).engs = d.engs := rfl
@[simp] theorem Dev.setStream_hems (d : Dev) (cs : CS) (x : StreamSt) : (d.setStream cs x).hems = d.hems := rfl
@[simp] theorem Dev.setStream_ahead (d : Dev) (cs : CS) (x : StreamSt) : (d.setStream cs x).ahead = d.ahead := rfl
@[simp] theorem Dev.setStream_caches (d : Dev) (cs : CS) (x : StreamSt) : (d.setStream cs x).caches = d.caches := rfl
@[simp] theorem Dev.setStream_bounce (d : Dev) (cs : CS) (x : StreamSt) : (d.setStream cs x).bounce = d.bounce := rfl
@[simp] theorem Dev.setStream_seams (d : Dev) (cs : CS) (x : StreamSt) : (d.setStream cs x).seams = d.seams := rfl
@[simp] theorem Dev.setStream_fab (d : Dev) (cs : CS) (x : StreamSt) : (d.setStream cs x).fab = d.fab := rfl
@[simp] theorem Dev.setStream_tx (d : Dev) (cs : CS) (x : StreamSt) : (d.setStream cs x).tx = d.tx := rfl
@[simp] theorem Dev.setStream_bolts (d : Dev) (cs : CS) (x : StreamSt) : (d.setStream cs x).bolts = d.bolts := rfl
@[simp] theorem Dev.setStream_retireDue (d : Dev) (cs : CS) (x : StreamSt) : (d.setStream cs x).retireDue = d.retireDue := rfl
@[simp] theorem Dev.setStream_shadow (d : Dev) (cs : CS) (x : StreamSt) : (d.setStream cs x).shadow = d.shadow := rfl
@[simp] theorem Dev.setStream_health (d : Dev) (cs : CS) (x : StreamSt) : (d.setStream cs x).health = d.health := rfl
@[simp] theorem Dev.setStream_containReset (d : Dev) (cs : CS) (x : StreamSt) : (d.setStream cs x).containReset = d.containReset := rfl
@[simp] theorem Dev.setStream_bastes (d : Dev) (cs : CS) (x : StreamSt) : (d.setStream cs x).bastes = d.bastes := rfl
@[simp] theorem Dev.setStream_cutter (d : Dev) (cs : CS) (x : StreamSt) : (d.setStream cs x).cutter = d.cutter := rfl
@[simp] theorem Dev.setStream_fw (d : Dev) (cs : CS) (x : StreamSt) : (d.setStream cs x).fw = d.fw := rfl
@[simp] theorem Dev.setStream_mb (d : Dev) (cs : CS) (x : StreamSt) : (d.setStream cs x).mb = d.mb := rfl
@[simp] theorem Dev.setStream_cr (d : Dev) (cs : CS) (x : StreamSt) : (d.setStream cs x).cr = d.cr := rfl
@[simp] theorem Dev.setStream_tests (d : Dev) (cs : CS) (x : StreamSt) : (d.setStream cs x).tests = d.tests := rfl
@[simp] theorem Dev.setStream_power (d : Dev) (cs : CS) (x : StreamSt) : (d.setStream cs x).power = d.power := rfl
@[simp] theorem Dev.setStream_pins (d : Dev) (cs : CS) (x : StreamSt) : (d.setStream cs x).pins = d.pins := rfl
@[simp] theorem Dev.setStream_out (d : Dev) (cs : CS) (x : StreamSt) : (d.setStream cs x).out = d.out := rfl
@[simp] theorem Dev.setStream_secs (d : Dev) (cs : CS) (x : StreamSt) : (d.setStream cs x).secs = d.secs := rfl
@[simp] theorem Dev.setStream_later (d : Dev) (cs : CS) (x : StreamSt) : (d.setStream cs x).later = d.later := rfl
@[simp] theorem StreamSt.next_ctx (s : StreamSt) : s.next.ctx = s.ctx := rfl
@[simp] theorem StreamSt.next_block (s : StreamSt) : s.next.block = s.block := rfl
@[simp] theorem StreamSt.next_ended (s : StreamSt) : s.next.ended = s.ended := rfl
@[simp] theorem StreamSt.next_s (s : StreamSt) : s.next.s = s.s := rfl
@[simp] theorem StreamSt.next_p (s : StreamSt) : s.next.p = s.p := rfl
@[simp] theorem StreamSt.next_lc (s : StreamSt) : s.next.lc = s.lc := rfl
@[simp] theorem StreamSt.next_gen (s : StreamSt) : s.next.gen = s.gen := rfl
@[simp] theorem StreamSt.next_tapeHi (s : StreamSt) : s.next.tapeHi = s.tapeHi := rfl
@[simp] theorem StreamSt.next_nxt (s : StreamSt) : s.next.nxt = s.nxt := rfl
@[simp] theorem StreamSt.next_acts (s : StreamSt) : s.next.acts = s.acts := rfl
@[simp] theorem StreamSt.next_count (s : StreamSt) : s.next.count = s.count := rfl
@[simp] theorem StreamSt.next_pc (s : StreamSt) : s.next.pc = s.pc + 1 := rfl
@[simp] theorem StreamSt.next_wait (s : StreamSt) : s.next.wait = none := rfl
@[simp] theorem StreamSt.setPred_ctx (s : StreamSt) (n : Nat) (b : Bool) : (s.setPred n b).ctx = s.ctx := rfl
@[simp] theorem StreamSt.setPred_block (s : StreamSt) (n : Nat) (b : Bool) : (s.setPred n b).block = s.block := rfl
@[simp] theorem StreamSt.setPred_pc (s : StreamSt) (n : Nat) (b : Bool) : (s.setPred n b).pc = s.pc := rfl
@[simp] theorem StreamSt.setPred_ended (s : StreamSt) (n : Nat) (b : Bool) : (s.setPred n b).ended = s.ended := rfl
@[simp] theorem StreamSt.setPred_s (s : StreamSt) (n : Nat) (b : Bool) : (s.setPred n b).s = s.s := rfl
@[simp] theorem StreamSt.setPred_lc (s : StreamSt) (n : Nat) (b : Bool) : (s.setPred n b).lc = s.lc := rfl
@[simp] theorem StreamSt.setPred_gen (s : StreamSt) (n : Nat) (b : Bool) : (s.setPred n b).gen = s.gen := rfl
@[simp] theorem StreamSt.setPred_tapeHi (s : StreamSt) (n : Nat) (b : Bool) : (s.setPred n b).tapeHi = s.tapeHi := rfl
@[simp] theorem StreamSt.setPred_nxt (s : StreamSt) (n : Nat) (b : Bool) : (s.setPred n b).nxt = s.nxt := rfl
@[simp] theorem StreamSt.setPred_acts (s : StreamSt) (n : Nat) (b : Bool) : (s.setPred n b).acts = s.acts := rfl
@[simp] theorem StreamSt.setPred_count (s : StreamSt) (n : Nat) (b : Bool) : (s.setPred n b).count = s.count := rfl
@[simp] theorem StreamSt.setPred_wait (s : StreamSt) (n : Nat) (b : Bool) : (s.setPred n b).wait = s.wait := rfl
@[simp] theorem StreamSt.setLcr_ctx (s : StreamSt) (n : Nat) (v : W32) : (s.setLcr n v).ctx = s.ctx := rfl
@[simp] theorem StreamSt.setLcr_block (s : StreamSt) (n : Nat) (v : W32) : (s.setLcr n v).block = s.block := rfl
@[simp] theorem StreamSt.setLcr_pc (s : StreamSt) (n : Nat) (v : W32) : (s.setLcr n v).pc = s.pc := rfl
@[simp] theorem StreamSt.setLcr_ended (s : StreamSt) (n : Nat) (v : W32) : (s.setLcr n v).ended = s.ended := rfl
@[simp] theorem StreamSt.setLcr_s (s : StreamSt) (n : Nat) (v : W32) : (s.setLcr n v).s = s.s := rfl
@[simp] theorem StreamSt.setLcr_p (s : StreamSt) (n : Nat) (v : W32) : (s.setLcr n v).p = s.p := rfl
@[simp] theorem StreamSt.setLcr_gen (s : StreamSt) (n : Nat) (v : W32) : (s.setLcr n v).gen = s.gen := rfl
@[simp] theorem StreamSt.setLcr_tapeHi (s : StreamSt) (n : Nat) (v : W32) : (s.setLcr n v).tapeHi = s.tapeHi := rfl
@[simp] theorem StreamSt.setLcr_nxt (s : StreamSt) (n : Nat) (v : W32) : (s.setLcr n v).nxt = s.nxt := rfl
@[simp] theorem StreamSt.setLcr_acts (s : StreamSt) (n : Nat) (v : W32) : (s.setLcr n v).acts = s.acts := rfl
@[simp] theorem StreamSt.setLcr_count (s : StreamSt) (n : Nat) (v : W32) : (s.setLcr n v).count = s.count := rfl
@[simp] theorem StreamSt.setLcr_wait (s : StreamSt) (n : Nat) (v : W32) : (s.setLcr n v).wait = s.wait := rfl

end Sys2Proof.Machine
end

