-- ==== Sys2Proof/Laws/Events.lean ====
section
/-! SUPPORT. What raising an event and completing a command leave unchanged: an event changes the Measure Book and may start
the exit from Hold; a completion changes the queue of the command. -/

namespace Sys2Proof.Machine

/-! ### Raising an event (17 R502, R507) -/

theorem Dev.mbDrainAll_frame (d : Dev) : d.mbDrainAll = { d with mb := d.mbDrainAll.mb } := by
  unfold Dev.mbDrainAll
  split
  · rfl
  · dsimp only
    split <;> rfl

theorem Dev.mbDrainer_frame (d : Dev) : d.mbDrainer =
    { d with mb := d.mbDrainer.mb, power := { d.power with wake := d.mbDrainer.power.wake } } := by
  unfold Dev.mbDrainer
  split
  · rfl
  · rw [Dev.mbDrainAll_frame]

theorem Dev.raise_frame (d : Dev) (code die : Nat) (fw : Bool) (ctx : Option Nat) (l : List Int) :
    d.raise code die fw ctx l =
      { d with mb := (d.raise code die fw ctx l).mb, power := { d.power with wake := (d.raise code die fw ctx l).power.wake } } := by
  unfold Dev.raise
  dsimp only
  split
  · rw [Dev.mbDrainer_frame]; rfl
  · rfl

@[simp] theorem Dev.ev_eq (d : Dev) (code die : Nat) (ctx : Option Nat) (l : List Int) :
    d.ev code die ctx l = d.raise code die false ctx l := rfl
@[simp] theorem Dev.evFw_eq (d : Dev) (code : Nat) (ctx : Option Nat) (l : List Int) :
    d.evFw code ctx l = d.raise code d.fwDie true ctx l := rfl

@[simp] theorem Dev.raise_cores (d : Dev) (code die : Nat) (fw : Bool) (ctx : Option Nat) (l : List Int) :
    (d.raise code die fw ctx l).cores = d.cores := by rw [Dev.raise_frame]
@[simp] theorem Dev.raise_ctxs (d : Dev) (code die : Nat) (fw : Bool) (ctx : Option Nat) (l : List Int) :
    (d.raise code die fw ctx l).ctxs = d.ctxs := by rw [Dev.raise_frame]
@[simp] theorem Dev.raise_seq (d : Dev) (code die : Nat) (fw : Bool) (ctx : Option Nat) (l : List Int) :
    (d.raise code die fw ctx l).seq = d.seq := by rw [Dev.raise_frame]
@[simp] theorem Dev.raise_knots (d : Dev) (code die : Nat) (fw : Bool) (ctx : Option Nat) (l : List Int) :
    (d.raise code die fw ctx l).knots = d.knots := by rw [Dev.raise_frame]
@[simp] theorem Dev.raise_arrivals (d : Dev) (code die : Nat) (fw : Bool) (ctx : Option Nat) (l : List Int) :
    (d.raise code die fw ctx l).arrivals = d.arrivals := by rw [Dev.raise_frame]
@[simp] theorem Dev.raise_tape (d : Dev) (code die : Nat) (fw : Bool) (ctx : Option Nat) (l : List Int) :
    (d.raise code die fw ctx l).tape = d.tape := by rw [Dev.raise_frame]
@[simp] theorem Dev.raise_pace (d : Dev) (code die : Nat) (fw : Bool) (ctx : Option Nat) (l : List Int) :
    (d.raise code die fw ctx l).pace = d.pace := by rw [Dev.raise_frame]
@[simp] theorem Dev.raise_yoke (d : Dev) (code die : Nat) (fw : Bool) (ctx : Option Nat) (l : List Int) :
    (d.raise code die fw ctx l).yoke = d.yoke := by rw [Dev.raise_frame]
@[simp] theorem Dev.raise_queues (d : Dev) (code die : Nat) (fw : Bool) (ctx : Option Nat) (l : List Int) :
    (d.raise code die fw ctx l).queues = d.queues := by rw [Dev.raise_frame]
@[simp] theorem Dev.raise_opens (d : Dev) (code die : Nat) (fw : Bool) (ctx : Option Nat) (l : List Int) :
    (d.raise code die fw ctx l).opens = d.opens := by rw [Dev.raise_frame]
@[simp] theorem Dev.raise_regions (d : Dev) (code die : Nat) (fw : Bool) (ctx : Option Nat) (l : List Int) :
    (d.raise code die fw ctx l).regions = d.regions := by rw [Dev.raise_frame]
@[simp] theorem Dev.raise_grants (d : Dev) (code die : Nat) (fw : Bool) (ctx : Option Nat) (l : List Int) :
    (d.raise code die fw ctx l).grants = d.grants := by rw [Dev.raise_frame]
@[simp] theorem Dev.raise_remotes (d : Dev) (code die : Nat) (fw : Bool) (ctx : Option Nat) (l : List Int) :
    (d.raise code die fw ctx l).remotes = d.remotes := by rw [Dev.raise_frame]
@[simp] theorem Dev.raise_exports (d : Dev) (code die : Nat) (fw : Bool) (ctx : Option Nat) (l : List Int) :
    (d.raise code die fw ctx l).exports = d.exports := by rw [Dev.raise_frame]
@[simp] theorem Dev.raise_descs (d : Dev) (code die : Nat) (fw : Bool) (ctx : Option Nat) (l : List Int) :
    (d.raise code die fw ctx l).descs = d.descs := by rw [Dev.raise_frame]
@[simp] theorem Dev.raise_dying (d : Dev) (code die : Nat) (fw : Bool) (ctx : Option Nat) (l : List Int) :
    (d.raise code die fw ctx l).dying = d.dying := by rw [Dev.raise_frame]
@[simp] theorem Dev.raise_compat (d : Dev) (code die : Nat) (fw : Bool) (ctx : Option Nat) (l : List Int) :
    (d.raise code die fw ctx l).compat = d.compat := by rw [Dev.raise_frame]
@[simp] theorem Dev.raise_spools (d : Dev) (code die : Nat) (fw : Bool) (ctx : Option Nat) (l : List Int) :
    (d.raise code die fw ctx l).spools = d.spools := by rw [Dev.raise_frame]
@[simp] theorem Dev.raise_gmes (d : Dev) (code die : Nat) (fw : Bool) (ctx : Option Nat) (l : List Int) :
    (d.raise code die fw ctx l).gmes = d.gmes := by rw [Dev.raise_frame]
@[simp] theorem Dev.raise_presses (d : Dev) (code die : Nat) (fw : Bool) (ctx : Option Nat) (l : List Int) :
    (d.raise code die fw ctx l).presses = d.presses := by rw [Dev.raise_frame]
@[simp] theorem Dev.raise_engs (d : Dev) (code die : Nat) (fw : Bool) (ctx : Option Nat) (l : List Int) :
    (d.raise code die fw ctx l).engs = d.engs := by rw [Dev.raise_frame]
@[simp] theorem Dev.raise_hems (d : Dev) (code die : Nat) (fw : Bool) (ctx : Option Nat) (l : List Int) :
    (d.raise code die fw ctx l).hems = d.hems := by rw [Dev.raise_frame]
@[simp] theorem Dev.raise_ahead (d : Dev) (code die : Nat) (fw : Bool) (ctx : Option Nat) (l : List Int) :
    (d.raise code die fw ctx l).ahead = d.ahead := by rw [Dev.raise_frame]
@[simp] theorem Dev.raise_caches (d : Dev) (code die : Nat) (fw : Bool) (ctx : Option Nat) (l : List Int) :
    (d.raise code die fw ctx l).caches = d.caches := by rw [Dev.raise_frame]
@[simp] theorem Dev.raise_bounce (d : Dev) (code die : Nat) (fw : Bool) (ctx : Option Nat) (l : List Int) :
    (d.raise code die fw ctx l).bounce = d.bounce := by rw [Dev.raise_frame]
@[simp] theorem Dev.raise_seams (d : Dev) (code die : Nat) (fw : Bool) (ctx : Option Nat) (l : List Int) :
    (d.raise code die fw ctx l).seams = d.seams := by rw [Dev.raise_frame]
@[simp] theorem Dev.raise_fab (d : Dev) (code die : Nat) (fw : Bool) (ctx : Option Nat) (l : List Int) :
    (d.raise code die fw ctx l).fab = d.fab := by rw [Dev.raise_frame]
@[simp] theorem Dev.raise_tx (d : Dev) (code die : Nat) (fw : Bool) (ctx : Option Nat) (l : List Int) :
    (d.raise code die fw ctx l).tx = d.tx := by rw [Dev.raise_frame]
@[simp] theorem Dev.raise_bolts (d : Dev) (code die : Nat) (fw : Bool) (ctx : Option Nat) (l : List Int) :
    (d.raise code die fw ctx l).bolts = d.bolts := by rw [Dev.raise_frame]
@[simp] theorem Dev.raise_retireDue (d : Dev) (code die : Nat) (fw : Bool) (ctx : Option Nat) (l : List Int) :
    (d.raise code die fw ctx l).retireDue = d.retireDue := by rw [Dev.raise_frame]
@[simp] theorem Dev.raise_shadow (d : Dev) (code die : Nat) (fw : Bool) (ctx : Option Nat) (l : List Int) :
    (d.raise code die fw ctx l).shadow = d.shadow := by rw [Dev.raise_frame]
@[simp] theorem Dev.raise_health (d : Dev) (code die : Nat) (fw : Bool) (ctx : Option Nat) (l : List Int) :
    (d.raise code die fw ctx l).health = d.health := by rw [Dev.raise_frame]
@[simp] theorem Dev.raise_containReset (d : Dev) (code die : Nat) (fw : Bool) (ctx : Option Nat) (l : List Int) :
    (d.raise code die fw ctx l).containReset = d.containReset := by rw [Dev.raise_frame]
@[simp] theorem Dev.raise_bastes (d : Dev) (code die : Nat) (fw : Bool) (ctx : Option Nat) (l : List Int) :
    (d.raise code die fw ctx l).bastes = d.bastes := by rw [Dev.raise_frame]
@[simp] theorem Dev.raise_cutter (d : Dev) (code die : Nat) (fw : Bool) (ctx : Option Nat) (l : List Int) :
    (d.raise code die fw ctx l).cutter = d.cutter := by rw [Dev.raise_frame]
@[simp] theorem Dev.raise_fw (d : Dev) (code die : Nat) (fw : Bool) (ctx : Option Nat) (l : List Int) :
    (d.raise code die fw ctx l).fw = d.fw := by rw [Dev.raise_frame]
@[simp] theorem Dev.raise_cr (d : Dev) (code die : Nat) (fw : Bool) (ctx : Option Nat) (l : List Int) :
    (d.raise code die fw ctx l).cr = d.cr := by rw [Dev.raise_frame]
@[simp] theorem Dev.raise_tests (d : Dev) (code die : Nat) (fw : Bool) (ctx : Option Nat) (l : List Int) :
    (d.raise code die fw ctx l).tests = d.tests := by rw [Dev.raise_frame]
@[simp] theorem Dev.raise_pins (d : Dev) (code die : Nat) (fw : Bool) (ctx : Option Nat) (l : List Int) :
    (d.raise code die fw ctx l).pins = d.pins := by rw [Dev.raise_frame]
@[simp] theorem Dev.raise_out (d : Dev) (code die : Nat) (fw : Bool) (ctx : Option Nat) (l : List Int) :
    (d.raise code die fw ctx l).out = d.out := by rw [Dev.raise_frame]
@[simp] theorem Dev.raise_secs (d : Dev) (code die : Nat) (fw : Bool) (ctx : Option Nat) (l : List Int) :
    (d.raise code die fw ctx l).secs = d.secs := by rw [Dev.raise_frame]
@[simp] theorem Dev.raise_later (d : Dev) (code die : Nat) (fw : Bool) (ctx : Option Nat) (l : List Int) :
    (d.raise code die fw ctx l).later = d.later := by rw [Dev.raise_frame]
@[simp] theorem Dev.raise_power_hold (d : Dev) (code die : Nat) (fw : Bool) (ctx : Option Nat) (l : List Int) :
    (d.raise code die fw ctx l).power.hold = d.power.hold := by rw [Dev.raise_frame]
@[simp] theorem Dev.raise_power_off (d : Dev) (code die : Nat) (fw : Bool) (ctx : Option Nat) (l : List Int) :
    (d.raise code die fw ctx l).power.off = d.power.off := by rw [Dev.raise_frame]
@[simp] theorem Dev.raise_power_plimit (d : Dev) (code die : Nat) (fw : Bool) (ctx : Option Nat) (l : List Int) :
    (d.raise code die fw ctx l).power.plimit = d.power.plimit := by rw [Dev.raise_frame]
@[simp] theorem Dev.raise_power_jst (d : Dev) (code die : Nat) (fw : Bool) (ctx : Option Nat) (l : List Int) :
    (d.raise code die fw ctx l).power.jst = d.power.jst := by rw [Dev.raise_frame]
@[simp] theorem Dev.raise_power_bolts (d : Dev) (code die : Nat) (fw : Bool) (ctx : Option Nat) (l : List Int) :
    (d.raise code die fw ctx l).power.bolts = d.power.bolts := by rw [Dev.raise_frame]
@[simp] theorem Dev.raise_power_selv (d : Dev) (code die : Nat) (fw : Bool) (ctx : Option Nat) (l : List Int) :
    (d.raise code die fw ctx l).power.selv = d.power.selv := by rw [Dev.raise_frame]
@[simp] theorem Dev.raise_power_sampled (d : Dev) (code die : Nat) (fw : Bool) (ctx : Option Nat) (l : List Int) :
    (d.raise code die fw ctx l).power.sampled = d.power.sampled := by rw [Dev.raise_frame]
@[simp] theorem Dev.raise_power_mv (d : Dev) (code die : Nat) (fw : Bool) (ctx : Option Nat) (l : List Int) :
    (d.raise code die fw ctx l).power.mv = d.power.mv := by rw [Dev.raise_frame]
@[simp] theorem Dev.raise_power_dw (d : Dev) (code die : Nat) (fw : Bool) (ctx : Option Nat) (l : List Int) :
    (d.raise code die fw ctx l).power.dw = d.power.dw := by rw [Dev.raise_frame]
@[simp] theorem Dev.raise_power_avg1000 (d : Dev) (code die : Nat) (fw : Bool) (ctx : Option Nat) (l : List Int) :
    (d.raise code die fw ctx l).power.avg1000 = d.power.avg1000 := by rw [Dev.raise_frame]
@[simp] theorem Dev.raise_power_limits (d : Dev) (code die : Nat) (fw : Bool) (ctx : Option Nat) (l : List Int) :
    (d.raise code die fw ctx l).power.limits = d.power.limits := by rw [Dev.raise_frame]
@[simp] theorem Dev.raise_power_limiting (d : Dev) (code die : Nat) (fw : Bool) (ctx : Option Nat) (l : List Int) :
    (d.raise code die fw ctx l).power.limiting = d.power.limiting := by rw [Dev.raise_frame]
@[simp] theorem Dev.raise_power_energy (d : Dev) (code die : Nat) (fw : Bool) (ctx : Option Nat) (l : List Int) :
    (d.raise code die fw ctx l).power.energy = d.power.energy := by rw [Dev.raise_frame]
@[simp] theorem Dev.raise_power_railSince (d : Dev) (code die : Nat) (fw : Bool) (ctx : Option Nat) (l : List Int) :
    (d.raise code die fw ctx l).power.railSince = d.power.railSince := by rw [Dev.raise_frame]
@[simp] theorem Dev.raise_power_railBad (d : Dev) (code die : Nat) (fw : Bool) (ctx : Option Nat) (l : List Int) :
    (d.raise code die fw ctx l).power.railBad = d.power.railBad := by rw [Dev.raise_frame]
@[simp] theorem Dev.raise_power_thermtrip (d : Dev) (code die : Nat) (fw : Bool) (ctx : Option Nat) (l : List Int) :
    (d.raise code die fw ctx l).power.thermtrip = d.power.thermtrip := by rw [Dev.raise_frame]
@[simp] theorem Dev.raise_power_clocksLost (d : Dev) (code die : Nat) (fw : Bool) (ctx : Option Nat) (l : List Int) :
    (d.raise code die fw ctx l).power.clocksLost = d.power.clocksLost := by rw [Dev.raise_frame]
@[simp] theorem Dev.raise_power_pwrGood (d : Dev) (code die : Nat) (fw : Bool) (ctx : Option Nat) (l : List Int) :
    (d.raise code die fw ctx l).power.pwrGood = d.power.pwrGood := by rw [Dev.raise_frame]
@[simp] theorem Dev.raise_power_vaux (d : Dev) (code die : Nat) (fw : Bool) (ctx : Option Nat) (l : List Int) :
    (d.raise code die fw ctx l).power.vaux = d.power.vaux := by rw [Dev.raise_frame]
@[simp] theorem Dev.raise_core_of (d : Dev) (code die : Nat) (fw : Bool) (ctx : Option Nat) (l : List Int) (j : Nat) :
    (d.raise code die fw ctx l).core j = d.core j := by rw [Dev.raise_frame]; rfl
@[simp] theorem Dev.raise_ctx_of (d : Dev) (code die : Nat) (fw : Bool) (ctx : Option Nat) (l : List Int) (j : Nat) :
    (d.raise code die fw ctx l).ctx j = d.ctx j := by rw [Dev.raise_frame]; rfl
@[simp] theorem Dev.raise_queue_of (d : Dev) (code die : Nat) (fw : Bool) (ctx : Option Nat) (l : List Int) (j : Nat) :
    (d.raise code die fw ctx l).queue j = d.queue j := by rw [Dev.raise_frame]; rfl
@[simp] theorem Dev.raise_spool_of (d : Dev) (code die : Nat) (fw : Bool) (ctx : Option Nat) (l : List Int) (j : Nat) :
    (d.raise code die fw ctx l).spool j = d.spool j := by rw [Dev.raise_frame]; rfl
@[simp] theorem Dev.raise_seam_of (d : Dev) (code die : Nat) (fw : Bool) (ctx : Option Nat) (l : List Int) (j : Nat) :
    (d.raise code die fw ctx l).seam j = d.seam j := by rw [Dev.raise_frame]; rfl
@[simp] theorem Dev.raise_bolt_of (d : Dev) (code die : Nat) (fw : Bool) (ctx : Option Nat) (l : List Int) (j : Nat) :
    (d.raise code die fw ctx l).bolt j = d.bolt j := by rw [Dev.raise_frame]; rfl
@[simp] theorem Dev.raise_hem_of (d : Dev) (code die : Nat) (fw : Bool) (ctx : Option Nat) (l : List Int) (j : Nat) :
    (d.raise code die fw ctx l).hem j = d.hem j := by rw [Dev.raise_frame]; rfl
@[simp] theorem Dev.raise_baste_of (d : Dev) (code die : Nat) (fw : Bool) (ctx : Option Nat) (l : List Int) (j : Nat) :
    (d.raise code die fw ctx l).baste j = d.baste j := by rw [Dev.raise_frame]; rfl
@[simp] theorem Dev.raise_stream_of (d : Dev) (code die : Nat) (fw : Bool) (ctx : Option Nat) (l : List Int) (j : CS) :
    (d.raise code die fw ctx l).stream j = d.stream j := by rw [Dev.raise_frame]; rfl
@[simp] theorem Dev.raise_sreg_of (d : Dev) (code die : Nat) (fw : Bool) (ctx : Option Nat) (l : List Int) (j : CS) (m : Nat) :
    (d.raise code die fw ctx l).sreg j m = d.sreg j m := by rw [Dev.raise_frame]; rfl
@[simp] theorem Dev.raise_action_of (d : Dev) (code die : Nat) (fw : Bool) (ctx : Option Nat) (l : List Int) (j : Act) :
    (d.raise code die fw ctx l).action j = d.action j := by rw [Dev.raise_frame]; rfl
@[simp] theorem Dev.raise_now_of (d : Dev) (code die : Nat) (fw : Bool) (ctx : Option Nat) (l : List Int) :
    (d.raise code die fw ctx l).now  = d.now := by rw [Dev.raise_frame]; rfl
@[simp] theorem Dev.raise_ready_of (d : Dev) (code die : Nat) (fw : Bool) (ctx : Option Nat) (l : List Int) :
    (d.raise code die fw ctx l).ready  = d.ready := by rw [Dev.raise_frame]; rfl
@[simp] theorem Dev.raise_bare_of (d : Dev) (code die : Nat) (fw : Bool) (ctx : Option Nat) (l : List Int) :
    (d.raise code die fw ctx l).bare  = d.bare := by rw [Dev.raise_frame]; rfl
@[simp] theorem Dev.raise_cutterNo_of (d : Dev) (code die : Nat) (fw : Bool) (ctx : Option Nat) (l : List Int) :
    (d.raise code die fw ctx l).cutterNo  = d.cutterNo := by rw [Dev.raise_frame]; rfl

/-! ### Completing a command (14 R417) -/

@[simp] theorem Dev.complete_cores (d : Dev) (c : Pend) (st ev : Nat) (x : W32) (y : W64) :
    (d.complete c st ev x y).cores = d.cores := by unfold Dev.complete; split <;> rfl
@[simp] theorem Dev.complete_ctxs (d : Dev) (c : Pend) (st ev : Nat) (x : W32) (y : W64) :
    (d.complete c st ev x y).ctxs = d.ctxs := by unfold Dev.complete; split <;> rfl
@[simp] theorem Dev.complete_seq (d : Dev) (c : Pend) (st ev : Nat) (x : W32) (y : W64) :
    (d.complete c st ev x y).seq = d.seq := by unfold Dev.complete; split <;> rfl
@[simp] theorem Dev.complete_knots (d : Dev) (c : Pend) (st ev : Nat) (x : W32) (y : W64) :
    (d.complete c st ev x y).knots = d.knots := by unfold Dev.complete; split <;> rfl
@[simp] theorem Dev.complete_arrivals (d : Dev) (c : Pend) (st ev : Nat) (x : W32) (y : W64) :
    (d.complete c st ev x y).arrivals = d.arrivals := by unfold Dev.complete; split <;> rfl
@[simp] theorem Dev.complete_tape (d : Dev) (c : Pend) (st ev : Nat) (x : W32) (y : W64) :
    (d.complete c st ev x y).tape = d.tape := by unfold Dev.complete; split <;> rfl
@[simp] theorem Dev.complete_pace (d : Dev) (c : Pend) (st ev : Nat) (x : W32) (y : W64) :
    (d.complete c st ev x y).pace = d.pace := by unfold Dev.complete; split <;> rfl
@[simp] theorem Dev.complete_yoke (d : Dev) (c : Pend) (st ev : Nat) (x : W32) (y : W64) :
    (d.complete c st ev x y).yoke = d.yoke := by unfold Dev.complete; split <;> rfl
@[simp] theorem Dev.complete_opens (d : Dev) (c : Pend) (st ev : Nat) (x : W32) (y : W64) :
    (d.complete c st ev x y).opens = d.opens := by unfold Dev.complete; split <;> rfl
@[simp] theorem Dev.complete_regions (d : Dev) (c : Pend) (st ev : Nat) (x : W32) (y : W64) :
    (d.complete c st ev x y).regions = d.regions := by unfold Dev.complete; split <;> rfl
@[simp] theorem Dev.complete_grants (d : Dev) (c : Pend) (st ev : Nat) (x : W32) (y : W64) :
    (d.complete c st ev x y).grants = d.grants := by unfold Dev.complete; split <;> rfl
@[simp] theorem Dev.complete_remotes (d : Dev) (c : Pend) (st ev : Nat) (x : W32) (y : W64) :
    (d.complete c st ev x y).remotes = d.remotes := by unfold Dev.complete; split <;> rfl
@[simp] theorem Dev.complete_exports (d : Dev) (c : Pend) (st ev : Nat) (x : W32) (y : W64) :
    (d.complete c st ev x y).exports = d.exports := by unfold Dev.complete; split <;> rfl
@[simp] theorem Dev.complete_descs (d : Dev) (c : Pend) (st ev : Nat) (x : W32) (y : W64) :
    (d.complete c st ev x y).descs = d.descs := by unfold Dev.complete; split <;> rfl
@[simp] theorem Dev.complete_dying (d : Dev) (c : Pend) (st ev : Nat) (x : W32) (y : W64) :
    (d.complete c st ev x y).dying = d.dying := by unfold Dev.complete; split <;> rfl
@[simp] theorem Dev.complete_compat (d : Dev) (c : Pend) (st ev : Nat) (x : W32) (y : W64) :
    (d.complete c st ev x y).compat = d.compat := by unfold Dev.complete; split <;> rfl
@[simp] theorem Dev.complete_spools (d : Dev) (c : Pend) (st ev : Nat) (x : W32) (y : W64) :
    (d.complete c st ev x y).spools = d.spools := by unfold Dev.complete; split <;> rfl
@[simp] theorem Dev.complete_gmes (d : Dev) (c : Pend) (st ev : Nat) (x : W32) (y : W64) :
    (d.complete c st ev x y).gmes = d.gmes := by unfold Dev.complete; split <;> rfl
@[simp] theorem Dev.complete_presses (d : Dev) (c : Pend) (st ev : Nat) (x : W32) (y : W64) :
    (d.complete c st ev x y).presses = d.presses := by unfold Dev.complete; split <;> rfl
@[simp] theorem Dev.complete_engs (d : Dev) (c : Pend) (st ev : Nat) (x : W32) (y : W64) :
    (d.complete c st ev x y).engs = d.engs := by unfold Dev.complete; split <;> rfl
@[simp] theorem Dev.complete_hems (d : Dev) (c : Pend) (st ev : Nat) (x : W32) (y : W64) :
    (d.complete c st ev x y).hems = d.hems := by unfold Dev.complete; split <;> rfl
@[simp] theorem Dev.complete_ahead (d : Dev) (c : Pend) (st ev : Nat) (x : W32) (y : W64) :
    (d.complete c st ev x y).ahead = d.ahead := by unfold Dev.complete; split <;> rfl
@[simp] theorem Dev.complete_caches (d : Dev) (c : Pend) (st ev : Nat) (x : W32) (y : W64) :
    (d.complete c st ev x y).caches = d.caches := by unfold Dev.complete; split <;> rfl
@[simp] theorem Dev.complete_bounce (d : Dev) (c : Pend) (st ev : Nat) (x : W32) (y : W64) :
    (d.complete c st ev x y).bounce = d.bounce := by unfold Dev.complete; split <;> rfl
@[simp] theorem Dev.complete_seams (d : Dev) (c : Pend) (st ev : Nat) (x : W32) (y : W64) :
    (d.complete c st ev x y).seams = d.seams := by unfold Dev.complete; split <;> rfl
@[simp] theorem Dev.complete_fab (d : Dev) (c : Pend) (st ev : Nat) (x : W32) (y : W64) :
    (d.complete c st ev x y).fab = d.fab := by unfold Dev.complete; split <;> rfl
@[simp] theorem Dev.complete_tx (d : Dev) (c : Pend) (st ev : Nat) (x : W32) (y : W64) :
    (d.complete c st ev x y).tx = d.tx := by unfold Dev.complete; split <;> rfl
@[simp] theorem Dev.complete_bolts (d : Dev) (c : Pend) (st ev : Nat) (x : W32) (y : W64) :
    (d.complete c st ev x y).bolts = d.bolts := by unfold Dev.complete; split <;> rfl
@[simp] theorem Dev.complete_retireDue (d : Dev) (c : Pend) (st ev : Nat) (x : W32) (y : W64) :
    (d.complete c st ev x y).retireDue = d.retireDue := by unfold Dev.complete; split <;> rfl
@[simp] theorem Dev.complete_shadow (d : Dev) (c : Pend) (st ev : Nat) (x : W32) (y : W64) :
    (d.complete c st ev x y).shadow = d.shadow := by unfold Dev.complete; split <;> rfl
@[simp] theorem Dev.complete_health (d : Dev) (c : Pend) (st ev : Nat) (x : W32) (y : W64) :
    (d.complete c st ev x y).health = d.health := by unfold Dev.complete; split <;> rfl
@[simp] theorem Dev.complete_containReset (d : Dev) (c : Pend) (st ev : Nat) (x : W32) (y : W64) :
    (d.complete c st ev x y).containReset = d.containReset := by unfold Dev.complete; split <;> rfl
@[simp] theorem Dev.complete_bastes (d : Dev) (c : Pend) (st ev : Nat) (x : W32) (y : W64) :
    (d.complete c st ev x y).bastes = d.bastes := by unfold Dev.complete; split <;> rfl
@[simp] theorem Dev.complete_cutter (d : Dev) (c : Pend) (st ev : Nat) (x : W32) (y : W64) :
    (d.complete c st ev x y).cutter = d.cutter := by unfold Dev.complete; split <;> rfl
@[simp] theorem Dev.complete_fw (d : Dev) (c : Pend) (st ev : Nat) (x : W32) (y : W64) :
    (d.complete c st ev x y).fw = d.fw := by unfold Dev.complete; split <;> rfl
@[simp] theorem Dev.complete_mb (d : Dev) (c : Pend) (st ev : Nat) (x : W32) (y : W64) :
    (d.complete c st ev x y).mb = d.mb := by unfold Dev.complete; split <;> rfl
@[simp] theorem Dev.complete_cr (d : Dev) (c : Pend) (st ev : Nat) (x : W32) (y : W64) :
    (d.complete c st ev x y).cr = d.cr := by unfold Dev.complete; split <;> rfl
@[simp] theorem Dev.complete_tests (d : Dev) (c : Pend) (st ev : Nat) (x : W32) (y : W64) :
    (d.complete c st ev x y).tests = d.tests := by unfold Dev.complete; split <;> rfl
@[simp] theorem Dev.complete_power (d : Dev) (c : Pend) (st ev : Nat) (x : W32) (y : W64) :
    (d.complete c st ev x y).power = d.power := by unfold Dev.complete; split <;> rfl
@[simp] theorem Dev.complete_pins (d : Dev) (c : Pend) (st ev : Nat) (x : W32) (y : W64) :
    (d.complete c st ev x y).pins = d.pins := by unfold Dev.complete; split <;> rfl
@[simp] theorem Dev.complete_out (d : Dev) (c : Pend) (st ev : Nat) (x : W32) (y : W64) :
    (d.complete c st ev x y).out = d.out := by unfold Dev.complete; split <;> rfl
@[simp] theorem Dev.complete_secs (d : Dev) (c : Pend) (st ev : Nat) (x : W32) (y : W64) :
    (d.complete c st ev x y).secs = d.secs := by unfold Dev.complete; split <;> rfl
@[simp] theorem Dev.complete_later (d : Dev) (c : Pend) (st ev : Nat) (x : W32) (y : W64) :
    (d.complete c st ev x y).later = d.later := by unfold Dev.complete; split <;> rfl
@[simp] theorem Dev.complete_core_of (d : Dev) (c : Pend) (st ev : Nat) (x : W32) (y : W64) (j : Nat) :
    (d.complete c st ev x y).core j = d.core j := by unfold Dev.complete; split <;> rfl
@[simp] theorem Dev.complete_ctx_of (d : Dev) (c : Pend) (st ev : Nat) (x : W32) (y : W64) (j : Nat) :
    (d.complete c st ev x y).ctx j = d.ctx j := by unfold Dev.complete; split <;> rfl
@[simp] theorem Dev.complete_spool_of (d : Dev) (c : Pend) (st ev : Nat) (x : W32) (y : W64) (j : Nat) :
    (d.complete c st ev x y).spool j = d.spool j := by unfold Dev.complete; split <;> rfl
@[simp] theorem Dev.complete_seam_of (d : Dev) (c : Pend) (st ev : Nat) (x : W32) (y : W64) (j : Nat) :
    (d.complete c st ev x y).seam j = d.seam j := by unfold Dev.complete; split <;> rfl
@[simp] theorem Dev.complete_bolt_of (d : Dev) (c : Pend) (st ev : Nat) (x : W32) (y : W64) (j : Nat) :
    (d.complete c st ev x y).bolt j = d.bolt j := by unfold Dev.complete; split <;> rfl
@[simp] theorem Dev.complete_hem_of (d : Dev) (c : Pend) (st ev : Nat) (x : W32) (y : W64) (j : Nat) :
    (d.complete c st ev x y).hem j = d.hem j := by unfold Dev.complete; split <;> rfl
@[simp] theorem Dev.complete_baste_of (d : Dev) (c : Pend) (st ev : Nat) (x : W32) (y : W64) (j : Nat) :
    (d.complete c st ev x y).baste j = d.baste j := by unfold Dev.complete; split <;> rfl
@[simp] theorem Dev.complete_stream_of (d : Dev) (c : Pend) (st ev : Nat) (x : W32) (y : W64) (j : CS) :
    (d.complete c st ev x y).stream j = d.stream j := by unfold Dev.complete; split <;> rfl
@[simp] theorem Dev.complete_sreg_of (d : Dev) (c : Pend) (st ev : Nat) (x : W32) (y : W64) (j : CS) (m : Nat) :
    (d.complete c st ev x y).sreg j m = d.sreg j m := by unfold Dev.complete; split <;> rfl
@[simp] theorem Dev.complete_action_of (d : Dev) (c : Pend) (st ev : Nat) (x : W32) (y : W64) (j : Act) :
    (d.complete c st ev x y).action j = d.action j := by unfold Dev.complete; split <;> rfl
@[simp] theorem Dev.complete_now_of (d : Dev) (c : Pend) (st ev : Nat) (x : W32) (y : W64) :
    (d.complete c st ev x y).now  = d.now := by unfold Dev.complete; split <;> rfl
@[simp] theorem Dev.complete_ready_of (d : Dev) (c : Pend) (st ev : Nat) (x : W32) (y : W64) :
    (d.complete c st ev x y).ready  = d.ready := by unfold Dev.complete; split <;> rfl
@[simp] theorem Dev.complete_bare_of (d : Dev) (c : Pend) (st ev : Nat) (x : W32) (y : W64) :
    (d.complete c st ev x y).bare  = d.bare := by unfold Dev.complete; split <;> rfl
@[simp] theorem Dev.complete_cutterNo_of (d : Dev) (c : Pend) (st ev : Nat) (x : W32) (y : W64) :
    (d.complete c st ev x y).cutterNo  = d.cutterNo := by unfold Dev.complete; split <;> rfl

/-- A completion becomes due on the queue of its command while the device is not in bare mode. -/
theorem Dev.complete_queue (d : Dev) (c : Pend) (st ev : Nat) (x : W32) (y : W64) (j : Nat) (hb : d.bare = false) :
    (d.complete c st ev x y).queue j =
      if j = c.q then { d.queue j with due := (d.queue j).due ++ [⟨c, st, ev, x, y⟩] } else d.queue j := by
  unfold Dev.complete
  rw [if_neg (by simp [hb])]
  by_cases h : j = c.q
  · subst h; simp [Dev.updQueue]
  · rw [if_neg h]; exact Dev.setQueue_queue_ne _ _ _ _ h

end Sys2Proof.Machine
end

