-- ==== Sys2Proof/Laws/Streams.lean ====
section
/-! SUPPORT. What the shared operations of the stream instructions do: writing a scalar, a predicate or a loop counter,
moving on, and issuing (05 R146, R149, R159). -/

namespace Sys2Proof.Machine

open Sys2Proof.Safety

/-! ### Scalars -/

theorem Core.putShared_stream (c : Core) (st st' : Str) (n : Nat) (v : W32) :
    (c.putShared st n v).stream st' = c.stream st' := by
  unfold Core.putShared
  dsimp only
  split <;> cases st' <;> rfl

@[simp] theorem Core.reach_stream (c : Core) (st st' : Str) (same : Bool) : (c.reach st same).stream st' = c.stream st' := by
  unfold Core.reach
  split <;> cases st' <;> rfl

@[simp] theorem Core.reach_shared (c : Core) (st : Str) (same : Bool) : (c.reach st same).shared = c.shared := by
  unfold Core.reach
  split <;> rfl

/-- Reaching an update step writes no scalar. -/
@[simp] theorem Core.sreg_reach (c : Core) (st st' : Str) (same : Bool) (n : Nat) : (c.reach st same).sreg st' n = c.sreg st' n := by
  simp [Core.sreg]

/-- In a new update step a read takes the scalar as it stands. -/
theorem Core.seen_reach_new (c : Core) (st : Str) (n : Nat) : (c.reach st false).seen st n = c.sreg st n := by
  cases st <;> simp [Core.reach, Core.seen, Core.sreg, Core.stream, get?]

theorem Core.setSreg_stream (c : Core) (st : Str) (n : Nat) (v : W32) :
    (c.setSreg st n v).stream st = { c.stream st with s := ((c.setSreg st n v).stream st).s } := by
  unfold Core.setSreg
  split
  · simp
  · simp [Core.putShared_stream]

theorem Core.setSreg_ne (c : Core) {st st' : Str} (n : Nat) (v : W32) (h : st' ≠ st) :
    (c.setSreg st n v).stream st' = c.stream st' := by
  unfold Core.setSreg
  split
  · exact c.setStream_ne _ h
  · exact c.putShared_stream _ _ _ _

/-- A write of the update step by a later stream in the order B, F, U stands in shared scalar `n`. -/
def Core.outranked (c : Core) (st : Str) (n : Nat) : Bool := decide (24 ≤ n) && (get? c.cyc.rank n).any (strRank st < ·)

theorem Core.putShared_shared (c : Core) (st : Str) (n : Nat) (v : W32) :
    (c.putShared st n v).shared
      = if (get? c.cyc.rank n).any (strRank st < ·) then c.shared else put c.shared n v := by
  unfold Core.putShared
  dsimp only
  split <;> rfl

theorem Core.sreg_setSreg (c : Core) (st : Str) (n m : Nat) (v : W32) :
    (c.setSreg st n v).sreg st m = if m = n ∧ c.outranked st n = false then v else c.sreg st m := by
  unfold Core.setSreg Core.sreg Core.outranked
  by_cases hn : n < 24
  · have h24 : ¬24 ≤ n := by omega
    rw [if_pos hn]
    by_cases hm : m < 24
    · rw [if_pos hm, if_pos hm, Core.setStream_same, getD_put]; simp [h24]
    · have : m ≠ n := by omega
      rw [if_neg hm, if_neg hm, Core.setStream_shared]; simp [this]
  · have h24 : 24 ≤ n := by omega
    rw [if_neg hn, Core.putShared_stream, Core.putShared_shared]
    by_cases hm : m < 24
    · have : m ≠ n := by omega
      rw [if_pos hm, if_pos hm]; simp [this]
    · rw [if_neg hm, if_neg hm]
      by_cases hr : (get? c.cyc.rank n).any (strRank st < ·) = true
      · simp [h24, hr]
      · rw [if_neg hr, getD_put]; simp [h24, Bool.eq_false_iff.mpr hr]

/-- A write of a scalar by a stream: what each scalar of that stream reads as. -/
theorem Dev.sreg_setSreg (d : Dev) (cs : CS) (n m : Nat) (v : W32) :
    (d.setSreg cs n v).sreg cs m = if m = n ∧ (d.core cs.core).outranked cs.st n = false then v else d.sreg cs m := by
  unfold Dev.setSreg Dev.sreg Dev.updCore
  rw [Dev.setCore_core_same, Core.sreg_setSreg]

/-- Reaching an update step changes nothing that a stream reads outside that step. -/
@[simp] theorem Dev.sreg_reach (d : Dev) (cs : CS) (same : Bool) (n : Nat) : (d.reach cs same).sreg cs n = d.sreg cs n := by
  unfold Dev.reach Dev.sreg Dev.updCore
  rw [Dev.setCore_core_same, Core.sreg_reach]

@[simp] theorem Dev.stream_reach (d : Dev) (cs : CS) (same : Bool) : (d.reach cs same).stream cs = d.stream cs := by
  unfold Dev.reach Dev.stream Dev.updCore
  rw [Dev.setCore_core_same, Core.reach_stream]

theorem Dev.core_reach (d : Dev) (cs : CS) (same : Bool) :
    (d.reach cs same).core cs.core = (d.core cs.core).reach cs.st same := by
  unfold Dev.reach Dev.updCore
  rw [Dev.setCore_core_same]

theorem Dev.stream_setSreg (d : Dev) (cs : CS) (n : Nat) (v : W32) :
    (d.setSreg cs n v).stream cs = { d.stream cs with s := ((d.setSreg cs n v).stream cs).s } := by
  unfold Dev.setSreg Dev.stream Dev.updCore
  rw [Dev.setCore_core_same]
  exact Core.setSreg_stream _ _ _ _

/-! ### Changing a stream -/

@[simp] theorem Dev.updStream_same (d : Dev) (cs : CS) (f : StreamSt → StreamSt) :
    (d.updStream cs f).stream cs = f (d.stream cs) := d.setStream_same cs _

theorem Core.setStream_setStream (c : Core) (st : Str) (x y : StreamSt) : (c.setStream st x).setStream st y = c.setStream st y := by
  cases st <;> rfl

theorem Dev.updStream_updStream (d : Dev) (cs : CS) (f g : StreamSt → StreamSt) :
    (d.updStream cs f).updStream cs g = d.updStream cs fun x => g (f x) := by
  have h : ∀ y, (d.updStream cs f).setStream cs y = d.setStream cs y := by
    intro y
    unfold Dev.updStream Dev.setStream Dev.updCore
    rw [Dev.setCore_core_same]
    dsimp only
    rw [Core.setStream_setStream]
    simp only [Dev.setCore, put_put_same]
  unfold Dev.updStream at h ⊢
  rw [h, Dev.setStream_same]

/-- A scalar read depends only on the stream's scalars and the shared ones. -/
theorem Dev.sreg_updStream (d : Dev) (cs : CS) (f : StreamSt → StreamSt) (hf : (f (d.stream cs)).s = (d.stream cs).s) (n : Nat) :
    (d.updStream cs f).sreg cs n = d.sreg cs n := by
  unfold Dev.updStream Dev.setStream Dev.sreg Dev.updCore Core.sreg
  rw [Dev.setCore_core_same, Core.setStream_same, Core.setStream_shared, hf]
  rfl

@[simp] theorem Dev.sreg_advance (d : Dev) (cs : CS) (n : Nat) : (d.advance cs).sreg cs n = d.sreg cs n :=
  d.sreg_updStream cs _ rfl n

@[simp] theorem Dev.stream_advance (d : Dev) (cs : CS) : (d.advance cs).stream cs = (d.stream cs).next :=
  d.updStream_same cs _

/-! ### Frames -/

/-- Changing one stream leaves everything else. -/
theorem onlyStream_updStream (s : State) (cs : CS) (f : StreamSt → StreamSt) :
    onlyStream cs s (s.setDev (s.dev.updStream cs f)) := by
  refine ⟨⟨⟨rfl, rfl⟩, rfl, fun j hj => Dev.setCore_core_ne _ _ _ _ hj⟩, f (s.dev.stream cs), (s.dev.core cs.core).shared,
    (s.dev.core cs.core).cyc, ?_⟩
  change (s.dev.updStream cs f).core cs.core = _
  unfold Dev.updStream Dev.setStream Dev.updCore
  rw [Dev.setCore_core_same]
  obtain ⟨c, st⟩ := cs
  cases st <;> rfl

/-- What a write of a scalar changes in its core. -/
theorem Core.setSreg_eq (c : Core) (st : Str) (n : Nat) (v : W32) :
    ∃ x h y, c.setSreg st n v = { c.setStream st x with shared := h, cyc := y } := by
  have e : c.setStream st (c.stream st) = c := by cases st <;> rfl
  unfold Core.setSreg Core.putShared
  dsimp only
  split
  · exact ⟨_, _, _, rfl⟩
  · split
    all_goals exact ⟨c.stream st, _, _, by rw [e]⟩

/-- Reaching an update step, writing a scalar and then changing the stream leaves everything else. -/
theorem onlyStream_setSreg (s : State) (cs : CS) (same : Bool) (n : Nat) (v : W32) (f : StreamSt → StreamSt) :
    onlyStream cs s (s.setDev (((s.dev.reach cs same).setSreg cs n v).updStream cs f)) := by
  refine ⟨⟨⟨rfl, rfl⟩, rfl, fun j hj => ?_⟩, ?_⟩
  · change (((s.dev.reach cs same).setSreg cs n v).updStream cs f).core j = _
    unfold Dev.updStream Dev.setStream Dev.setSreg Dev.reach Dev.updCore
    rw [Dev.setCore_core_ne _ _ _ _ hj, Dev.setCore_core_ne _ _ _ _ hj]
    exact Dev.setCore_core_ne _ _ _ _ hj
  · change ∃ x h y, (((s.dev.reach cs same).setSreg cs n v).updStream cs f).core cs.core = _
    unfold Dev.updStream Dev.setStream Dev.updCore
    rw [Dev.setCore_core_same]
    generalize f _ = z
    unfold Dev.setSreg Dev.updCore
    rw [Dev.setCore_core_same, Dev.core_reach]
    obtain ⟨x, h, y, e⟩ := ((s.dev.core cs.core).reach cs.st same).setSreg_eq cs.st n v
    dsimp only
    rw [e]
    unfold Core.reach
    obtain ⟨c, st⟩ := cs
    refine ⟨z, h, y, ?_⟩
    split <;> cases st <;> rfl

/-- A write of a scalar in the update step that an access reaches, whatever the stream does next beside its scalars. -/
theorem wroteScalar_setSreg (s : State) (cs : CS) (same : Bool) (n : Nat) (v : W32) (f : StreamSt → StreamSt)
    (hf : ∀ x, (f x).s = x.s) :
    wroteScalar cs same n v s (s.setDev (((s.dev.reach cs same).setSreg cs n v).updStream cs f)) := by
  have key : ∀ m, (s.setDev (((s.dev.reach cs same).setSreg cs n v).updStream cs f)).dev.sreg cs m
      = if m = n ∧ (((s.dev.reach cs same).core cs.core).outranked cs.st n) = false then v else s.dev.sreg cs m := by
    intro m
    change (((s.dev.reach cs same).setSreg cs n v).updStream cs f).sreg cs m = _
    rw [Dev.sreg_updStream _ _ _ (hf _), Dev.sreg_setSreg, Dev.sreg_reach]
  have hr : (((s.dev.reach cs same).core cs.core).outranked cs.st n) = true ↔ laterWrote cs same n s := by
    simp [Core.outranked, laterWrote]
  refine ⟨fun h => ?_, fun h => ?_, fun m hm => ?_⟩
  · rw [key, if_pos ⟨rfl, Bool.eq_false_iff.mpr (mt hr.mp h)⟩]
  · rw [key, if_neg fun x => by simp [hr.mpr h] at x]
  · rw [key, if_neg fun x => hm x.1]

/-! ### Issuing (05 R149) -/

theorem Dev.issue_run (d : Dev) (cs : CS) (w : W64) (o : Nat) (f : Dev → Dev) (hp : d.presented cs w o = true)
    (hg : (d.stream cs).guard w = true) : d.issue cs w o f = f d := by
  simp [Dev.issue, hp, hg]

theorem Dev.issue_skip (d : Dev) (cs : CS) (w : W64) (o : Nat) (f : Dev → Dev) (hp : d.presented cs w o = true)
    (hg : (d.stream cs).guard w = false) : d.issue cs w o f = d.advance cs := by
  simp [Dev.issue, hp, hg]

theorem Dev.issue_none (d : Dev) (cs : CS) (w : W64) (o : Nat) (f : Dev → Dev) (hp : d.presented cs w o = false) :
    d.issue cs w o f = d := by
  simp [Dev.issue, hp]

/-- The predicates after one is written. -/
theorem StreamSt.pred_setPred (s : StreamSt) (n m : Nat) (b : Bool) (hn : n < 8) (hm : m < 8) :
    (s.setPred n b).pred m = if m = n then b else s.pred m := by
  have key : ∀ (p : BitVec 8) (b : Bool) (n m : Fin 8),
      bitOf (if b then p ||| BitVec.ofNat 8 (2 ^ n.val) else p &&& ~~~BitVec.ofNat 8 (2 ^ n.val)) m
        = if m = n then b else bitOf p m := by
    intro p b n m
    have hb : ∀ (q : BitVec 8), bitOf q m.val = q.getLsbD m.val := fun q => rfl
    have h1 : (BitVec.ofNat 8 (2 ^ n.val)).getLsbD m.val = decide (m = n) := by
      revert n m; decide
    cases b
    · simp only [Bool.false_eq_true, if_false, hb, BitVec.getLsbD_and, BitVec.getLsbD_not, h1]
      by_cases h : m = n <;> simp [h, m.isLt]
    · simp only [if_true, hb, BitVec.getLsbD_or, h1]
      by_cases h : m = n <;> simp [h]
  have := key s.p b ⟨n, hn⟩ ⟨m, hm⟩
  simpa [StreamSt.setPred, StreamSt.pred, Fin.ext_iff] using this

theorem StreamSt.lcr_setLcr (s : StreamSt) (n m : Nat) (v : W32) :
    (s.setLcr n v).lcr m = if m = n then v else s.lcr m := getD_put _ _ _ _ _

end Sys2Proof.Machine
end

