-- ==== Sys2Proof/WellFormed.lean ====
section
/-! DEFINITION. Which commands are well formed: an instruction word has its row's opcode with the unused fields 0
(05 R149 to R151, R159; log 12), a packet has as many lines as its header says (12 R373), and what comes from outside the
block is within its range. The meanings are total and take other commands too; statements name `wf` where they need it. -/

namespace Sys2Proof

/-- The word of a row: opcode, and the fields that must be 0. -/
def wordWf (o : Nat) (w : W64) : Bool :=
  Insn.opc w == o && Insn.zerosCommon w && (match Insn.fmtOf o with
    | .S => Insn.zerosS w
    | .K => Insn.zerosK w
    | .C => true)

/-- LINES counts the lines, at most 6; the source-route unit is there only with SR (12 R373). -/
def Packet.wf (k : Packet) : Bool :=
  fld k.hdr 40 3 == k.lines.length && k.lines.length ≤ 6 && (bitOf k.hdr 39 || k.route == 0)

/-- One to three symbols can be corrected (11 R329). -/
def Ecc.wf : Ecc → Bool
  | .corrected n => 1 ≤ n && n ≤ 3
  | _ => true

/-- A core has 32 banks of 1,024 lines (06 R176). -/
def ScrEcc.wf : ScrEcc → Bool
  | .ok => true
  | .corrected b => b < 32
  | .uncorrectable b l => b < 32 && l < 1024

def SpoolAcc.wf (x : SpoolAcc) : Bool := x.line % 64 == 0 && x.line < 2 ^ 52 && x.addr % 64 == 0 && x.addr < 2415919104 && x.ecc.wf
  && (x.targetFails.getD []).all fun e => e.2.2.wf

/-- A line of the device address space, or a line of a channel of 2.25 GiB (11 R325, R333). -/
def AheadBy.wf : AheadBy → Bool
  | .gme _ line => line % 64 == 0 && line < 2 ^ 52
  | .press _ line => line % 64 == 0 && line < 2 ^ 52
  | .decode _ _ _ addr => addr % 64 == 0 && addr < 2415919104

/-- A word of a channel of 2.25 GiB (11 R333). -/
def TestRead.wf (x : TestRead) : Bool := x.addr % 8 == 0 && x.addr < 2415919104

/-- Faults of array steps: accumulators 0 to 511 of a bank (04 R113). -/
def errWf (l : List (Nat × W32)) : Bool := l.all fun e => e.1 < 512

/-- What a suite of a boot can name: logical clusters, physical clusters, GMEs, Sergers, Presses, reduction units, Spools. -/
def bootFailWf (f : Nat × Nat) : Bool :=
  f.2 < (if f.1 = 0 then 384 else if f.1 = 1 then 432 else if f.1 = 2 ∨ f.1 = 3 then 128 else if f.1 = 4 then 64
    else if f.1 = 5 then 32 else if f.1 = 6 then 8 else 0)

def Instr.wf : Instr → Bool
  | .nop _ w => wordWf 0x01 w
  | .jmp _ w => wordWf 0x02 w
  | .loop _ w _ => wordWf 0x03 w
  | .setlc _ w _ => wordWf 0x04 w
  | .getlc _ w _ => wordWf 0x05 w
  | .stop _ w => wordWf 0x06 w
  | .abort _ w => wordWf 0x07 w
  | .twait _ => true
  | .fence _ w => wordWf 0x09 w
  | .add _ w _ => wordWf 0x10 w
  | .sub _ w _ => wordWf 0x11 w
  | .mul _ w _ => wordWf 0x12 w
  | .and _ w _ => wordWf 0x13 w
  | .or _ w _ => wordWf 0x14 w
  | .xor _ w _ => wordWf 0x15 w
  | .shl _ w _ => wordWf 0x16 w
  | .shr _ w _ => wordWf 0x17 w
  | .sar _ w _ => wordWf 0x18 w
  | .min _ w _ => wordWf 0x19 w
  | .max _ w _ => wordWf 0x1A w
  | .minu _ w _ => wordWf 0x1B w
  | .maxu _ w _ => wordWf 0x1C w
  | .li _ w _ => wordWf 0x1D w
  | .lih _ w _ => wordWf 0x1E w
  | .gets _ w _ => wordWf 0x1F w
  | .cmpeq _ w _ => wordWf 0x20 w
  | .cmpne _ w _ => wordWf 0x21 w
  | .cmplt _ w _ => wordWf 0x22 w
  | .cmpge _ w _ => wordWf 0x23 w
  | .cmpltu _ w _ => wordWf 0x24 w
  | .cmpgeu _ w _ => wordWf 0x25 w
  | .pand _ w => wordWf 0x26 w
  | .por _ w => wordWf 0x27 w
  | .pxor _ w => wordWf 0x28 w
  | .pnot _ w => wordWf 0x29 w
  | .pset _ w => wordWf 0x2A w
  | .swld _ w _ => wordWf 0x30 w
  | .swst _ => true
  | .hmap _ ecc => ecc.all (·.wf)
  | .hfree _ => true
  | .karr _ => true
  | .kwait _ w _ => wordWf 0x41 w
  | .karrw _ => true
  | .arr _ => true
  | .chalk _ => true
  | .vecAdd _ ecc => ecc.all (·.wf)
  | .vecSub _ ecc => ecc.all (·.wf)
  | .vecMul _ ecc => ecc.all (·.wf)
  | .vecFma _ ecc => ecc.all (·.wf)
  | .vecDiv _ ecc => ecc.all (·.wf)
  | .vecSqrt _ ecc => ecc.all (·.wf)
  | .vecMin _ ecc => ecc.all (·.wf)
  | .vecMax _ ecc => ecc.all (·.wf)
  | .vecAbs _ ecc => ecc.all (·.wf)
  | .vecNeg _ ecc => ecc.all (·.wf)
  | .vecAdds _ ecc => ecc.all (·.wf)
  | .vecMuls _ ecc => ecc.all (·.wf)
  | .vecExp _ ecc => ecc.all (·.wf)
  | .vecLog _ ecc => ecc.all (·.wf)
  | .vecCvt _ ecc => ecc.all (·.wf)
  | .vecRedsum _ ecc => ecc.all (·.wf)
  | .vecRedmax _ ecc => ecc.all (·.wf)
  | .vecCmpgt _ ecc => ecc.all (·.wf)
  | .vecSel _ ecc => ecc.all (·.wf)
  | .topk _ ecc => ecc.all (·.wf)
  | .vecIota _ ecc => ecc.all (·.wf)
  | .hemf _ ecc => ecc.all (·.wf)
  | .hemb _ ecc => ecc.all (·.wf)
  | .copy _ ecc => ecc.all (·.wf)
  | .xfer _ ecc => ecc.all (·.wf)
  | .load _ => true
  | .store _ ecc => ecc.all (·.wf)
  | .gather _ => true
  | .scatter _ => true
  | .greqCopy _ => true
  | .pack _ => true
  | .unpack _ => true
  | .dispatch _ => true
  | .dispatchReplay _ => true
  | .combine _ => true
  | .rowfetch _ => true
  | .patch _ => true
  | .listclr _ => true
  | .audit _ => true
  | .coll _ => true
  | .pressUpdate _ => true
  | .pressNorm _ => true
  | .actionLaunch _ w _ _ _ _ _ => Insn.isAction (Insn.opc w) && Insn.zerosCommon w
  | .actionComplete _ => true
  | .runAheadFetch b ecc => b.wf && ecc.wf
  | .bobbinFill _ _ ecc => ecc.wf
  | .accumGroupStart _ _ ecc => ecc.all (·.wf)
  | .arrayStep _ err => errWf err
  | .groupDrain _ => true
  | .shadowGroupStart _ err ecc => errWf err && ecc.all (·.wf)
  | .verdict _ => true
  | .verdictReceive _ => true
  | .sampleAbandon _ => true
  | .idleCheck _ err => errWf err
  | .knotArrive _ => true
  | .runEnd _ => true
  | .streamWatchdog _ => true
  | .engineHang _ => true
  | .queueDoorbell _ _ => true
  | .cqheadWrite _ _ => true
  | .mgmtQueueEnable _ => true
  | .mgmtQueueDisable _ => true
  | .entryFetch _ => true
  | .commandAccept => true
  | .completionWrite _ => true
  | .ykDevirqClear _ _ => true
  | .tpCtrlWrite _ => true
  | .tpNowLowRead _ => true
  | .tpLateRead _ _ => true
  | .mbLostRead _ => true
  | .mbOverrunClear _ _ => true
  | .mbSelWrite _ _ => true
  | .bmDrainAtBoundary _ => true
  | .bmDrainAtOnce _ => true
  | .mbFlush _ => true
  | .warmReset _ _ => true
  | .creaseWrite _ _ _ => true
  | .registerWrite _ bytes _ => bytes == 4 || bytes == 8
  | .apertureAccess _ n data => 0 < n && data.all fun l => l.length == n
  | .i3cRead _ => true
  | .spoolAccess x => x.wf
  | .patrolScrub _ _ addr line ecc => addr % 64 == 0 && addr < 2415919104 && line % 64 == 0 && ecc.wf
  | .spoolThermalSample _ _ _ => true
  | .pauseNoticeRepeat => true
  | .darningDone _ _ errs => errs.all fun e => e.2.2.wf
  | .retrainInplaceStart _ => true
  | .retrainInplaceDone _ _ => true
  | .channelFailingRepeat _ _ => true
  | .spareChannelTest _ _ reads again => reads.all (·.wf) && again.all (·.wf)
  | .paceGuardTick rates _ => rates.length == 24 && rates.all (· < 65536)
  | .ppsEdge _ => true
  | .ppsTimeout => true
  | .tapeRefFailover => true
  | .tapeAlignTick => true
  | .tapeAlignRequest _ k _ _ => k.wf
  | .tapeAlignResponse _ k => k.wf
  | .tapeOffsetTimeout => true
  | .seamBringUp _ _ => true
  | .seamBringupRetry _ => true
  | .flitReceive p lane _ _ _ => p.val == 64 || lane.val < 4
  | .replayTimeout _ => true
  | .ackTimer p out => (p.val == 64 || out.isEmpty) && out.all Packet.wf
  | .heartbeatSend _ => true
  | .heartbeatReceive _ _ => true
  | .heartbeatTimeout _ => true
  | .levelControl _ _ => true
  | .laneLeave _ _ _ => true
  | .laneRetrainDone _ _ => true
  | .laneRetrainTimeout _ _ => true
  | .failedLaneRetry _ _ _ => true
  | .packetForward _ k => k.wf
  | .rdReq _ k => k.wf
  | .rdResp _ k => k.wf
  | .wr _ k => k.wf
  | .wrAck _ k => k.wf
  | .knotArr _ k => k.wf
  | .knotAck _ k => k.wf
  | .collData _ k => k.wf
  | .collReady _ k => k.wf
  | .collDone _ k => k.wf
  | .collRelease _ k => k.wf
  | .collAbort _ k => k.wf
  | .collTimeout _ _ => true
  | .lateNotice _ k => k.wf
  | .lossNotice _ k => k.wf
  | .yokeLaneLeave _ _ => true
  | .yokeLaneReturn _ => true
  | .yokeSilence => true
  | .yokeLinkReturn _ => true
  | .companionAccessTimeout _ => true
  | .basteGranuleCopy g => g < 2 ^ 34
  | .basteGranuleDrained _ _ => true
  | .spareSuitesDone _ _ _ => true
  | .shadowSummary => true
  | .batonHeartbeat => true
  | .batonClaim _ => true
  | .cutterTakeover _ => true
  | .cutterRejoin _ _ => true
  | .bareModeEntry => true
  | .cutterRotationPeriod => true
  | .rootRestartDone _ _ => true
  | .diagExpiry => true
  | .creaseSummary => true
  | .mbDrain => true
  | .periodicTrigger _ => true
  | .hourMark => true
  | .pwrGoodRise _ => true
  | .pwrGoodFall => true
  | .clockLoss _ => true
  | .clockReturn _ => true
  | .railSample mv dw _ _ => mv.length == 5 && dw.length == 5
  | .junctionSample bolts selv => bolts.length == 24 && selv.length == 4
  | .holdExit => true
  | .queueCreate _ => true
  | .queueDelete _ => true
  | .queueQuery _ => true
  | .iciNop _ => true
  | .deviceInfo _ => true
  | .companionMap _ => true
  | .companionUnmap _ => true
  | .descCreate _ => true
  | .descDestroy _ => true
  | .descQuery _ => true
  | .pairCreate _ => true
  | .compatMap _ => true
  | .compatUnmap _ => true
  | .schedLoad _ => true
  | .schedRun _ => true
  | .schedStop _ => true
  | .schedUnload _ => true
  | .schedQuery _ => true
  | .spoolAlloc _ => true
  | .spoolFree _ => true
  | .spoolQuery _ => true
  | .chanRetrain _ => true
  | .chanRetire _ => true
  | .chanTest _ reads => reads.all (·.wf)
  | .chanHealth _ => true
  | .fabConfig _ => true
  | .routeSet _ => true
  | .seamCtrl _ => true
  | .seamQuery _ => true
  | .remoteMap _ => true
  | .exportSet _ => true
  | .tapeRefSet _ => true
  | .collPlanLoad _ => true
  | .collPlanUnload _ => true
  | .collEpochSet _ => true
  | .fabQuery _ => true
  | .powerStateSet _ => true
  | .powerLimitSet _ => true
  | .powerQuery _ => true
  | .telemetryQuery _ => true
  | .basteTake _ => true
  | .basteDrain _ => true
  | .basteRestore _ => true
  | .basteRelease _ => true
  | .basteQuery _ => true
  | .containConfig _ => true
  | .shadowConfig _ => true
  | .cutterRotate _ => true
  | .healthQuery _ => true
  | .attestReport _ => true
  | .identityCert _ => true
  | .patternUpdate _ => true
  | .thimbleUpdate _ => true
  | .flashWrite _ => true
  | .diagAuthorise _ => true
  | .fwQuery _ => true
  | .mbTriggerSet _ => true
  | .mbQuery _ => true
  | .mbClear _ => true
  | .testRun _ => true
  | .testResult _ => true
  | .pressSlotSet _ => true
  | .pressProgramSet _ => true
  | .pressSlotQuery _ => true
  | .pressCounts _ => true
  | .seqAssign _ => true
  | .seqRelease _ => true
  | .seqStage _ => true
  | .seqQuery _ => true
  | .routeQuery _ => true
  | .chalkConfig _ => true
  | .chalkQuery _ => true
  | .sparseQuery _ => true
  | .linkMarginLow _ _ _ => true
  | .originalRetrainDone _ _ => true
  | .cutterFailure _ _ => true
  | .powerRemoved => true
  | .vauxInTolerance => true
  | .i3cSetdasa _ _ => true
  | .jtagTckEdge _ _ _ _ => true
  | .companionWrite a data => a + data.length ≤ 2 ^ 48
  | .deviceReportsReady fails => fails.all bootFailWf

end Sys2Proof
end

