-- ==== Sys2Proof/Tests/Slice0.lean ====
section
/-! SUPPORT. Tests of one step, words and ill-formed terms, and the witnesses that the hypotheses of the statements can be met. Each
expected value is worked out from the rule that the comment names. -/

namespace Sys2Proof.Tests

set_option Elab.async false

open Sys2Proof.Machine Sys2Proof.Safety

/-! ### Small states -/

/-- The state of a next outcome, and the reset state of any other. -/
def after (r : Host.Outcome State Fault Refusal) : State :=
  match r with
  | .next t => t
  | _ => State.reset

def st (d : Dev) : State := ⟨[], { State.reset.box with dev := d }⟩

/-- A device that serves commands: power good, MODE 1, Cutter 0 ACTIVE, the others STANDBY, its roots in service. -/
def d0 : Dev :=
  { State.reset.dev with
    power := { State.reset.dev.power with pwrGood := true }, yoke := { State.reset.dev.yoke with mode := 1, down := none }
    cutter := { State.reset.dev.cutter with st := [(0, 0), (1, 1), (2, 1), (3, 1)], active := some 0 }
    fw := { State.reset.dev.fw with roots := 15 } }

def cs0 : CS := ⟨0, .B⟩
def a0 : Act := ⟨cs0, 1⟩

/-- An instruction word: its opcode and its bits below 39. -/
def wd (opc rest : Nat) : W64 := BitVec.ofNat 64 (opc * 2 ^ 56 + rest)

/-- A launched action of stream B of core 0. -/
def act (w : W64) (n0 n1 : Nat) (desc : Nat) : Action :=
  { id := 1, w := w, index := 0, desc := BitVec.ofNat 256 desc, e := none, launch := 0, tack := 0, n0 := n0, n1 := n1, n2 := 0, val := 0
    dev := 0, unit := 0, ctx := 0, step := 0, reads := [], writes := [], done := false, gen := none, since := 0, raised := false
    fetched := 0, cfg := [], input := 0, cause := 0, cyc := 0 }

def launched (d : Dev) (x : Action) : State := st (d.updStream cs0 fun s => { s with acts := [x] })

/-- An ICI command of a queue, with the values of its payload, each from a byte on. -/
def ici (q : Fin 9) (l : List (Nat × Nat)) : Ici := ⟨q, 7, false, BitVec.ofNat 384 (sumN (l.map fun e => e.2 * 2 ^ (8 * e.1)))⟩

/-- The command stands accepted on its queue. -/
def accd (d : Dev) (opc : Nat) (c : Ici) : State :=
  st (d.setQueue c.q.val { d.queue c.q.val with enable := true, log2 := 4, accepted := [iciEntry opc c] })

def ctx0 (x : CtxState) : Dev := d0.updCtx 0 fun c => { c with st := x }

/-! ### Ill-formed terms: one for each check -/

theorem test_wf_refuses_words :
    (Instr.add cs0 (wd 0x11 0) false).wf = false ∧ (Instr.pand cs0 (wd 0x26 1)).wf = false ∧ (Instr.kwait cs0 (wd 0x41 (2 ^ 14)) false).wf = false
      ∧ (Instr.nop cs0 (wd 0x01 (2 ^ 55 + 1))).wf = false ∧ (Instr.actionLaunch cs0 (wd 0x10 0) 0 0 0 0 false).wf = false := by decide +kernel
theorem test_wf_takes_words : (Instr.add cs0 (wd 0x10 (3 * 2 ^ 34)) false).wf = true ∧ (Instr.hmap a0 [.ok]).wf = true := by decide +kernel

def shortPacket : Packet := ⟨BitVec.ofNat 128 (2 ^ 40), 0, []⟩
def acc0 : SpoolAcc := ⟨0, none, 0, false, none, 0, 0, 0, .ok, none⟩

theorem test_wf_refuses_packets :
    (Instr.wr 0 shortPacket).wf = false ∧ (Instr.wr 0 ⟨0, 1, []⟩).wf = false ∧ (Instr.ackTimer 64 [shortPacket]).wf = false
      ∧ (Instr.ackTimer 0 [⟨0, 0, []⟩]).wf = false ∧ (Instr.flitReceive 0 4 0 0 0).wf = false := by decide +kernel
theorem test_wf_refuses_errors :
    (Instr.runAheadFetch (.gme a0 0) (.corrected 4)).wf = false ∧ (Instr.hmap a0 [.corrected 32]).wf = false
      ∧ (Instr.hmap a0 [.uncorrectable 0 1024]).wf = false ∧ (Instr.arrayStep 0 [(512, 0)]).wf = false := by decide +kernel
theorem test_wf_refuses_lines :
    (Instr.spoolAccess { acc0 with line := 1 }).wf = false ∧ (Instr.spoolAccess { acc0 with addr := 2415919104 }).wf = false
      ∧ (Instr.patrolScrub 0 0 1 0 .ok).wf = false ∧ (Instr.runAheadFetch (.gme a0 1) .ok).wf = false
      ∧ (Instr.runAheadFetch (.press a0 (2 ^ 52)) .ok).wf = false ∧ (Instr.runAheadFetch (.decode cs0 0 0 2415919104) .ok).wf = false
      ∧ (Instr.spareChannelTest 0 0 [⟨0, 1, 0, 0⟩] []).wf = false := by decide +kernel
theorem test_wf_refuses_lengths :
    (Instr.registerWrite 0 2 0).wf = false ∧ (Instr.apertureAccess 0 0 none).wf = false ∧ (Instr.apertureAccess 0 2 (some [0])).wf = false
      ∧ (Instr.paceGuardTick [] []).wf = false ∧ (Instr.paceGuardTick (List.replicate 24 65536) []).wf = false
      ∧ (Instr.railSample [] [] 0 0).wf = false ∧ (Instr.junctionSample [] []).wf = false ∧ (Instr.basteGranuleCopy (2 ^ 34)).wf = false
      ∧ (Instr.companionWrite (2 ^ 48) [0]).wf = false ∧ (Instr.deviceReportsReady [(0, 384)]).wf = false
      ∧ (Instr.deviceReportsReady [(7, 0)]).wf = false := by decide +kernel

/-! ### Words of the spec (05 R149, R150; 14 R419) -/

/-- ADD s3, s1, s2: OPC 0x10 in [63:56], SD in [38:34], SA in [33:29], SB in [28:24]. -/
def wAdd : W64 := 0x1000000C22000000
/-- LI s5, -1: OPC 0x1D, SD 5, IMM all ones in [22:0]. -/
def wLi : W64 := 0x1D000014007FFFFF
/-- LI s24, 5: the first shared scalar. -/
def wLi24 : W64 := 0x1D00006000000005

theorem test_add_word : Insn.opc wAdd = 0x10 ∧ Insn.sd wAdd = 3 ∧ Insn.sa wAdd = 1 ∧ Insn.sb wAdd = 2 ∧ Insn.is wAdd = false := by decide +kernel
theorem test_li_word : Insn.opc wLi = 0x1D ∧ Insn.sd wLi = 5 ∧ Insn.imm wLi = 2 ^ 23 - 1 ∧ Insn.g wLi = false := by decide +kernel
/-- LOOP to guard p2 negated: G in [55], PN in [54], PSEL in [53:51]. -/
theorem test_guard_word : Insn.g 0x03D0000000000000 = true ∧ Insn.pn 0x03D0000000000000 = true ∧ Insn.psel 0x03D0000000000000 = 2 := by decide +kernel
/-- NOP of group 1, number 4: OPCODE in bytes 0 and 1, IRQ bit 1 of byte 2, TAG in bytes 4 to 7. -/
theorem test_ici_word : spells 0x0104 (ici 8 []) (BitVec.ofNat 512 (0x0104 + 7 * 2 ^ 32)) = true
    ∧ entryOpc (BitVec.ofNat 512 (0x0104 + 7 * 2 ^ 32)) = 0x0104 := by decide +kernel

/-! ### Instructions of a stream -/

def regs : State := st ((d0.setSreg cs0 1 0xFFFFFFFF).setSreg cs0 2 2)

/-- 05 R160: sums are modulo 2^32. -/
theorem test_add_wraps : (after (exec (.add cs0 wAdd false) regs)).dev.sreg cs0 3 = 1 := by decide +kernel
/-- 05 R149: a word of another opcode is not taken. -/
theorem test_sub_waits_for_its_word : (after (exec (.sub cs0 wAdd false) regs)).dev.sreg cs0 3 = 0 := by decide +kernel
/-- 05 R150: IMM is sign-extended. -/
theorem test_li_extends_its_sign : (after (exec (.li cs0 wLi false) regs)).dev.sreg cs0 5 = 0xFFFFFFFF := by decide +kernel
/-- 05 R147: of two writes of one update step that of the stream later in the order B, F, U stands. -/
theorem test_later_stream_stands :
    (after (exec (.li cs0 wLi24 true) (after (exec (.li ⟨0, .U⟩ 0x1D00006000000009 false) regs)))).dev.sreg cs0 24 = 9 := by decide +kernel

/-! ### Witnesses: the hypotheses of the statements about streams -/

/-- ScalarArithmeticResults, ComparisonResults, GuardedOff...: every form's word is issued at reset of a stream. -/
theorem wit_alu : ∀ e ∈ aluForms, issues cs0 (wd e.2.1 0) e.2.1 regs := by
  intro e h
  fin_cases h <;> decide +kernel
theorem wit_shared_written_later : laterWrote cs0 true 24 (after (exec (.li ⟨0, .U⟩ 0x1D00006000000009 false) regs))
    ∧ ¬laterWrote cs0 false 24 (after (exec (.li ⟨0, .U⟩ 0x1D00006000000009 false) regs)) := by
  unfold laterWrote
  decide +kernel
theorem wit_loads : issues cs0 (wd 0x1D 0) 0x1D regs ∧ issues cs0 (wd 0x1E 0) 0x1E regs ∧ issues cs0 (wd 0x05 0) 0x05 regs := by decide +kernel
theorem wit_two_streams_load : cs0.core = (⟨0, .U⟩ : CS).core ∧ cs0.st ≠ (⟨0, .U⟩ : CS).st ∧ issues cs0 wLi24 0x1D regs
    ∧ issues ⟨0, .U⟩ 0x1D00006000000009 0x1D regs ∧ 24 ≤ Insn.sd wLi24 ∧ Insn.sd 0x1D00006000000009 = Insn.sd wLi24 := by decide +kernel

/-- A launched local KARR whose arrival is on its way: special register 6 waits for it (05 R161). -/
def karrOut : State := launched d0 { act (wd 0x40 0) 0 0 0 with done := true }

theorem wit_gets : issues cs0 (wd 0x1F 0) 0x1F regs ∧ issues cs0 (wd 0x1F 6) 0x1F regs ∧ (regs.dev.stream cs0).genPending = false
    ∧ Insn.imm (wd 0x1F 6) % 16 = 6 := by decide +kernel
theorem wit_gets_waits : issues cs0 (wd 0x1F 6) 0x1F karrOut ∧ (karrOut.dev.stream cs0).genPending = true := by decide +kernel
theorem wit_comparisons : ∀ e ∈ cmpForms, issues cs0 (wd e.2.1 0) e.2.1 regs := by
  intro e h
  fin_cases h <;> decide +kernel
theorem wit_predicates : issues cs0 (wd 0x26 0) 0x26 regs ∧ issues cs0 (wd 0x27 0) 0x27 regs ∧ issues cs0 (wd 0x28 0) 0x28 regs
    ∧ issues cs0 (wd 0x29 0) 0x29 regs ∧ issues cs0 (wd 0x2A 1) 0x2A regs := by decide +kernel
/-- A jump to the instruction itself stays in the block. -/
theorem wit_flow : issues cs0 (wd 0x01 0) 0x01 regs ∧ issues cs0 (wd 0x02 0) 0x02 regs ∧ issues cs0 (wd 0x03 0) 0x03 regs
    ∧ issues cs0 (wd 0x04 0) 0x04 regs ∧ 0 ≤ ((regs.dev.stream cs0).pc : Int) + sext 23 (Insn.imm (wd 0x02 0)) := by decide +kernel
theorem wit_guarded_off : ∀ e ∈ issueForms, regs.dev.presented cs0 (wd e.2 (2 ^ 55)) e.2 = true ∧ Insn.g (wd e.2 (2 ^ 55)) = true
    ∧ (regs.dev.stream cs0).pred (Insn.psel (wd e.2 (2 ^ 55))) = Insn.pn (wd e.2 (2 ^ 55)) := by
  intro e h
  fin_cases h <;> decide +kernel

/-- A schedule of one block. -/
def img0 (l : List W64) : Image :=
  { major := 5, length := 0, pace := 0, seed := 0, stepPeriod := 0, slipLimit := 1, watchdog := 1, blocks := [⟨l, [], [], [], 0⟩]
    cores := [], knots := [], shapes := [(1, 5)], descs := [], clusterMap := [], owned := [] }

/-- Context 0 runs the words on stream B of core 0. -/
def runs (l : List W64) : Dev :=
  (d0.updCtx 0 fun c => { c with st := .running, img := some (img0 l) }).updStream cs0 fun s => { s with ctx := some 0 }

theorem wit_stop_abort_fence : issues cs0 (wd 0x06 0) 0x06 regs ∧ issues cs0 (wd 0x09 0) 0x09 regs ∧ (regs.dev.stream cs0).acts = []
    ∧ issues cs0 (wd 0x07 0) 0x07 regs ∧ (regs.dev.stream cs0).ctx = none := by decide +kernel
theorem wit_fence_waits : issues cs0 (wd 0x09 0) 0x09 karrOut ∧ (karrOut.dev.stream cs0).acts ≠ [] := by decide +kernel
theorem wit_abort_in_a_run : issues cs0 (wd 0x07 0) 0x07 (st (runs [wd 0x07 0])) ∧ ((st (runs [wd 0x07 0])).dev.stream cs0).ctx = some 0
    ∧ ((st (runs [wd 0x07 0])).dev.ctx 0).live = true := by decide +kernel

/-- Slot 1 is written in the present step; its declared maximum is 5. -/
def shaped : State := st ((runs [wd 0x30 1]).updCtx 0 fun c => { c with shapes := [(1, ⟨6, 0, true, false, false⟩)] })

theorem wit_kwait : issues cs0 (wd 0x41 0xFFFFFF) 0x41 regs := by decide +kernel
/-- The gap is 0 with a Knot at generation 0, 1 and 32,767 at the bounds, and 32,768 is beyond them. -/
theorem wit_kwait_gaps : ((0 : W16) - (0 : W16)).toNat = 0 ∧ ((1 : W16) - (0 : W16)).toNat = 1 ∧ ((32767 : W16) - (0 : W16)).toNat = 32767
    ∧ ((0 : W16) - (32768 : W16)).toNat = 32768 := by decide +kernel
theorem wit_swld : issues cs0 (wd 0x30 1) 0x30 shaped ∧ (shaped.dev.stream cs0).ctx = some 0
    ∧ ((shaped.dev.ctx 0).shape 1).valid = true ∧ ((shaped.dev.ctx 0).shape 1).step = BitVec.ofNat 16 (shaped.dev.ctx 0).step
    ∧ ((shaped.dev.ctx 0).shape 1).poison = false ∧ (shaped.dev.ctx 0).shapeMax 1 = some 5 := by decide +kernel
theorem wit_swld_waits : issues cs0 (wd 0x30 1) 0x30 (st (runs [wd 0x30 1]))
    ∧ ¬(((st (runs [wd 0x30 1])).dev.ctx 0).shape 1).valid = true := by decide +kernel

/-- A small action of opcode `o` with operand 1 is launched. -/
def small (o rest : Nat) : State := launched d0 { act (wd o rest) 0 0 0 with val := 1 }

theorem wit_small_actions : ∀ o ∈ [0x08, 0x31, 0x39, 0x40, 0x42], ready a0 { act (wd o 0) 0 0 0 with val := 1 } [] (small o 0)
    ∧ memoryOk (small o 0) ∧ Insn.krmt (wd o 0) = false ∧ ((small o 0).dev.core 0).handle (Insn.hd (wd o 0)) = none := by decide +kernel
/-- SWST writes slot 0 with the value of its operand. -/
theorem test_swst_writes_its_slot : ((after (exec (.swst a0) (small 0x31 0))).dev.ctx 0).shape 0 = ⟨1, 0, true, false, false⟩ := by decide +kernel

/-- HMAP of handle 2, 64 bytes, one bank, zeroed. -/
def hmap2 : Action := act (wd 0x38 (2 * 2 ^ 3)) 64 0 (2 ^ 16)

theorem wit_hmap : ready a0 hmap2 [] (launched d0 hmap2) ∧ memoryOk (launched d0 hmap2) ∧ Insn.opc hmap2.w = 0x38
    ∧ ((launched d0 hmap2).dev.core 0).handle (Insn.hd hmap2.w) = none ∧ (launched d0 hmap2).dev.hmapTurn a0 hmap2 = true
    ∧ ((launched d0 hmap2).dev.findPlace 0 0 (wantOf hmap2) false).any (fun y => !y.spilled && y.zero) = true := by decide +kernel
/-- Stream B comes before F: F's HMAP of the handle in the same cycle waits (06 R183). -/
theorem wit_hmap_waits :
    ((launched d0 hmap2).dev.updStream ⟨0, .F⟩ fun s => { s with acts := [hmap2] }).hmapTurn ⟨⟨0, .F⟩, 1⟩ hmap2 = false := by decide +kernel

/-- Knot 3 of TARGET 2 with COUNT 1, and two arrivals of core 0 on their way to it. -/
def knot3 : State := st { d0 with knots := [(3, ⟨1, 2, 0, false, false, 0, 0⟩)], arrivals := [⟨3, 1, .act a0⟩, ⟨3, 4, .act a0⟩] }

theorem wit_knot : knot3.dev.arrivals[0]? = some ⟨3, 1, .act a0⟩ ∧ get? knot3.dev.knots 3 = some ⟨1, 2, 0, false, false, 0, 0⟩
    ∧ knot3.dev.arrivals[1]? = some ⟨3, 4, .act a0⟩ ∧ (∃ y ∈ knot3.dev.arrivals.take 1, dieKnot y.knot = dieKnot 3
      ∧ knot3.dev.arrivalEngine y.src = knot3.dev.arrivalEngine (.act a0)) := by decide +kernel
/-- 02 R58: COUNT 1 and an arrival of 1 at TARGET 2 complete generation 1. -/
theorem test_knot_completes : get? (after (exec (.knotArrive 0) knot3)).dev.knots 3 = some ⟨0, 2, 1, false, false, 0, 0⟩ := by decide +kernel
theorem test_second_arrival_waits : after (exec (.knotArrive 1) knot3) = knot3 := by decide +kernel

/-- A TWAIT is next in stream B, scheduled at E 8 while the Tape stands at 5: it launches on the grid point 8. -/
def nextUp : NextAct := ⟨wd 0x08 0, some 8, 0, 0, 0, 0, 0, 0, 0, 0, 0⟩
def toLaunch : State :=
  st { (runs [wd 0x08 0]).updStream cs0 (fun s => { s with nxt := some nextUp }) with tape := { d0.tape with now := 5 } }

theorem wit_launch : let d := toLaunch.dev.reach cs0 false
    let y := d.launchVals 0 { nextUp with cause := d.causeOf 0 nextUp.input nextUp.cause 0 } 0
    (d.stream cs0).ctx = some 0 ∧ d.offers cs0 0 (wd 0x08 0) 0 0 = true ∧ (d.stream cs0).nxt = some nextUp
      ∧ d.hasRoom (d.nextId cs0) (d.target 0 (wd 0x08 0) 0 0) = true ∧ d.inputsReady cs0 0 nextUp 0 = true ∧ launchSlots 0 = []
      ∧ 8 ≤ ceilTo 4 d.tape.now ∧ ceilTo 4 d.tape.now ≤ 8 + slackNs 0 ∧ d.paramBad 0 y 0 = none
      ∧ d.accessBad 0 (d.mkAction cs0 0 y 0 (ceilTo 4 d.tape.now) []) = none ∧ d.crArmed = false := by decide +kernel
theorem test_launch_on_the_grid :
    ((after (exec (.actionLaunch cs0 (wd 0x08 0) 0 0 0 0 false) toLaunch)).dev.stream cs0).acts.map (·.launch) = [8] := by decide +kernel
theorem wit_complete : (launched d0 { act (wd 0x08 0) 0 0 0 with done := true }).dev.action a0 = some { act (wd 0x08 0) 0 0 0 with done := true }
    ∧ (launched d0 { act (wd 0x08 0) 0 0 0 with done := true }).dev.mayComplete a0 { act (wd 0x08 0) 0 0 0 with done := true } = true := by
  decide +kernel

/-! ### Array groups -/

/-- An ARR of M, N, K 16, 32 and 8. -/
def arr1 : Action := { act (wd 0x50 0) 16 32 0 with n2 := 8 }
def chalk1 (v : W32) : Action := { act (wd 0x51 0) 16 32 0 with n2 := 8, val := v }

theorem wit_arr : ready a0 arr1 ((arrParams arr1).reads 0) (launched d0 arr1) ∧ (arrParams arr1).m ≠ 0 ∧ (arrParams arr1).n ≠ 0
    ∧ ((launched d0 arr1).dev.core 0).findCmd .B 1 = none ∧ arr1.id = a0.id
    ∧ ready a0 { arr1 with n0 := 0 } ((arrParams { arr1 with n0 := 0 }).reads 0) (launched d0 { arr1 with n0 := 0 }) := by decide +kernel
theorem wit_chalk : ready a0 (chalk1 0) (chalkReads 0 (chalk1 0)) (launched d0 (chalk1 0)) ∧ Insn.opc (chalk1 0).w = 0x51
    ∧ ready a0 (chalk1 1) (chalkReads 0 (chalk1 1)) (launched d0 (chalk1 1))
    ∧ ((launched d0 (chalk1 1)).dev.core 0).handle (Insn.hd (chalk1 1).w) = none := by decide +kernel

/-- The core holds the ARR and starts its group; then its Bobbins and weight queue fill. -/
def arrIn : State := after (exec (.arr a0) (launched d0 arr1))
def started : State := after (exec (.accumGroupStart 0 false []) arrIn)
def filled : State := after (exec (.bobbinFill 0 16 .ok) started)

theorem wit_group_start : (arrIn.dev.core 0).canStart = true ∧ arrIn.dev.shadowReady 0 = false
    ∧ ((arrIn.dev.core 0).nextCmd.map (·.id)) = some 1 ∧ (arrOpOf arr1 0).k ≠ 0 ∧ arrIn.dev.action a0 = some arr1 := by decide +kernel
theorem wit_fill : (started.dev.feeding 0).any (fun e => ((started.dev.core 0).fill e.2 16).isSome && ((started.dev.core 0).fill e.2 0).isSome) = true := by
  decide +kernel

/-- A group at column quad 1, whose tile is the head of the weight queue. -/
def midGroup : State := st (started.dev.updCore 0 fun c =>
  let q := fun (b : Bank) => { b with grp := b.grp.map fun g => { g with quad := 1 } }
  { c with bankA := q c.bankA, bankB := q c.bankB, wq := [1] })

theorem wit_array_step : (midGroup.dev.inProgress 0).any (fun e => e.2.1.quad == 1 && !e.2.1.sampled
      && (midGroup.dev.core 0).wq.head? == some (8 * (e.2.2.2.firstWin e.2.1.mb e.2.1.nb + e.2.1.win) + 1) && decide (1 + 1 < e.2.2.2.quads e.2.1.nb)) = true := by
  decide +kernel

def endedGroup : State := st (started.dev.updCore 0 fun c =>
  let q := fun (b : Bank) => { b with grp := b.grp.map fun g => { g with ended := true } }
  { c with bankA := q c.bankA, bankB := q c.bankB })

theorem wit_drain : ((endedGroup.dev.core 0).draining).any (fun side => (((endedGroup.dev.core 0).bank side).grp.map (·.id)) == some 1) = true
    ∧ endedGroup.dev.action ⟨mkCS 0 .B, 1⟩ = some arr1 := by decide +kernel

/-- A shadow group of core 3,072 in the region of core 0, its partner. -/
def shadow1 (stage : Nat) (pv qv : Tbl Elem) : Shadow :=
  { primary := 3072, st := .B, id := 1, ctx := none, chalk := 0, mb := 0, nb := 0, idle := true, init := [], steps := [], pv := pv, qv := qv, rv := []
    stage := stage, endTape := 0 }
def withShadow (x : Shadow) : State := st { d0.updCore 0 (fun c => { c with shadow := some x }) with tape := { d0.tape with now := 1000000 } }

theorem wit_shadow : ((withShadow (shadow1 1 [] [])).dev.core 0).canStart = true
    ∧ ((withShadow (shadow1 1 [] [])).dev.core 0).shadow = some (shadow1 1 [] []) ∧ (shadow1 1 [] []).stage = 1 := by decide +kernel
theorem wit_verdict : ((withShadow (shadow1 2 [] [])).dev.core 0).shadow = some (shadow1 2 [] []) ∧ (shadow1 2 [] []).primary ≠ 0
    ∧ valuesOf (shadow1 2 [] []).pv = valuesOf (shadow1 2 [] []).qv
    ∧ valuesOf (shadow1 2 [(0, ⟨1, false⟩)] []).pv ≠ valuesOf (shadow1 2 [(0, ⟨1, false⟩)] []).qv := by decide +kernel
theorem wit_sample_abandon : partnerOf 3072 = 0 ∧ ((withShadow (shadow1 2 [] [])).dev.core (partnerOf 3072)).shadow = some (shadow1 2 [] [])
    ∧ (shadow1 2 [] []).endTape + 1000000 ≤ (withShadow (shadow1 2 [] [])).dev.tape.now := by decide +kernel

def verdict1 (idle : Bool) : VerdictMsg := ⟨.B, 1, 0, 0, 0, idle, 0, []⟩
def cmd1 : ArrCmd := { st := .B, id := 1, ctx := 0, e := 0, chalk := 0, m := 16, n := 32, k := 8, next := 1, drained := 1, verdicts := 1, hits := [] }
def withVerdict (idle : Bool) : State := st ((launched d0 arr1).dev.updCore 0 fun c => { c with verdicts := [verdict1 idle], arrq := [cmd1] })

theorem wit_verdict_receive : ((withVerdict false).dev.core 0).verdicts = verdict1 false :: [] ∧ (withVerdict false).dev.action ⟨mkCS 0 .B, 1⟩ = some arr1
    ∧ ((withVerdict false).dev.core 0).findCmd .B 1 = some cmd1 ∧ cmd1.drained = cmd1.total ∧ cmd1.verdicts ≤ 1
    ∧ ((withVerdict false).dev.core 0).bankA.grp = none ∧ ((withVerdict false).dev.core 0).bankB.grp = none
    ∧ ((withVerdict true).dev.core 0).verdicts = verdict1 true :: [] := by decide +kernel
theorem wit_idle_check_and_summary : (st { d0 with tape := { d0.tape with now := 60000000000 } }).dev.mayIdleCheck 0 = true
    ∧ ((st d0).dev.ready || (st d0).dev.bare) = true ∧ (st d0).dev.shadow.sinceTape + 60000000000 ≤ 60000000000 := by decide +kernel

/-! ### Vector unit, Hems and movers: the handles stand in the scratchpad -/

def handle0 : Handle :=
  { ctx := 0, spilled := false, level := 1, log2nb := 0, firstBank := 0, bankOff := 0, lines := 16, zero := false, users := 1, backing := 0
    listed := false, valid := true, patched := [] }

/-- Core 0 with handles 0 and 1, and a Hem and a queue of each engine whose first command is the launched action. -/
def d1 : Dev :=
  { d0.updCore 0 fun c => { c with handles := [(0, handle0), (1, { handle0 with bankOff := 1024 })] } with
    gmes := [(0, ⟨[⟨a0, true⟩], false, []⟩)], presses := [(0, ⟨[⟨a0, true⟩], false, []⟩)], hems := [(0, ⟨[], [⟨a0, true⟩]⟩)] }

def vecAct (vop : Nat) : Action := act (wd 0x52 (1 * 2 ^ 3)) 2 0 (vop * 2 ^ 8)

theorem wit_vectors : ∀ e ∈ vectorForms, ready a0 (vecAct e.2.1) (vecReads 0 (vecAct e.2.1)) (launched d1 (vecAct e.2.1))
    ∧ Insn.opc (vecAct e.2.1).w = 0x52 ∧ vVop (vecAct e.2.1).desc = e.2.1 ∧ (launched d1 (vecAct e.2.1)).dev.vecTurn a0 (vecAct e.2.1) = true := by
  intro e h
  fin_cases h <;> decide +kernel
theorem wit_other_vectors : ∀ v ∈ [0x10, 0x11, 0x12, 0x13, 0x14, 0x15], ready a0 (vecAct v) (vecReads 0 (vecAct v)) (launched d1 (vecAct v))
    ∧ Insn.opc (vecAct v).w = 0x52 ∧ vVop (vecAct v).desc = v ∧ (launched d1 (vecAct v)).dev.vecTurn a0 (vecAct v) = true := by decide +kernel
/-- The destination of the witnesses above stands in the scratchpad. -/
theorem wit_in_scratch : ((launched d1 (vecAct 1)).dev.core 0).handle (Insn.hd (vecAct 1).w) = some { handle0 with bankOff := 1024 } := by decide +kernel
/-- 05 R162: IOTA with SCALAR 0 writes 0 and 1 in binary32 (format 0). -/
theorem test_iota : (after (exec (.vecIota a0 []) (launched d1 (vecAct 0x15)))).store.scratch.read (scrAddr 0 0 1024) 8 = [0, 0, 0, 0, 0, 0, 0x80, 0x3F] := by
  decide +kernel

def hemAct (o n0 : Nat) : Action := act (wd o (1 * 2 ^ 3)) n0 0 0

theorem wit_hems : ready a0 (hemAct 0x53 1) (hemReads 0 (hemAct 0x53 1)) (launched d1 (hemAct 0x53 1))
    ∧ (launched d1 (hemAct 0x53 1)).dev.hemTurn a0 = true ∧ ready a0 (hemAct 0x54 0) (hemReads 0 (hemAct 0x54 0)) (launched d1 (hemAct 0x54 0))
    ∧ (launched d1 (hemAct 0x54 0)).dev.hemMissing 0 (hemAct 0x54 0) = none
    ∧ ready a0 (hemAct 0x54 1) (hemReads 0 (hemAct 0x54 1)) (launched d1 (hemAct 0x54 1))
    ∧ (launched d1 (hemAct 0x54 1)).dev.hemMissing 0 (hemAct 0x54 1) = some 0 := by decide +kernel

/-- A row tensor of 16 binary32 elements that may be written, at address 0. -/
def row16 : Desc := BitVec.ofNat 512 (1 * 2 ^ 58 + 2 ^ 61 + 16 * 2 ^ 64 + 2 ^ 256 + 63 * 2 ^ 448)
def d2 : Dev := { d1 with descs := [(0, .native row16), (1, .native row16)], regions := [⟨0, 1, some 0⟩] }
def copyAct (o n0 n1 : Nat) : Action := act (wd o (1 * 2 ^ 3)) n0 n1 0

theorem wit_copy_xfer : ready a0 (copyAct 0x58 64 0) (copyReads 0 (copyAct 0x58 64 0)) (launched d2 (copyAct 0x58 64 0))
    ∧ ready a0 (copyAct 0x59 64 1) (copyReads 0 (copyAct 0x59 64 1)) (launched d2 (copyAct 0x59 64 1)) := by decide +kernel
/-- LOAD and STORE without compression, and with (COMP in bits 48 and 49 of the record). -/
theorem wit_load_store : ready a0 (copyAct 0x5A 0 1) [] (launched d2 (copyAct 0x5A 0 1)) ∧ lsComp (copyAct 0x5A 0 1).desc = 0
    ∧ (launched d2 (copyAct 0x5A 0 1)).dev.tens (lsDesc (copyAct 0x5A 0 1).desc) = some ⟨row16, false⟩
    ∧ (launched d2 (copyAct 0x5A 0 1)).dev.tFault ⟨row16, false⟩ false (sliceLins row16 (copyAct 0x5A 0 1)) 0 = none
    ∧ ready a0 (copyAct 0x5B 0 1) ((launched d2 (copyAct 0x5B 0 1)).dev.lsReads 0 (copyAct 0x5B 0 1)) (launched d2 (copyAct 0x5B 0 1))
    ∧ lsComp (act (wd 0x5A 8) 0 1 (2 ^ 48)).desc ≠ 0 ∧ ready a0 (act (wd 0x5A 8) 0 1 (2 ^ 48)) [] (launched d2 (act (wd 0x5A 8) 0 1 (2 ^ 48)))
    ∧ (launched d2 (act (wd 0x5A 8) 0 1 (2 ^ 48))).dev.gmeTurn a0 0 = true := by decide +kernel

/-! ### Merge engines, Presses and collectives -/

/-- A GREQ of operation `op` over the row tensor, with COUNT `n1`. -/
def greq (op n1 : Nat) : Action := act (wd 0x60 0) 0 n1 (0x60 + op * 2 ^ 8)

theorem wit_greq : ∀ e ∈ greqForms, ready a0 (greq e.2.1 1) [] (launched d2 (greq e.2.1 1)) ∧ (launched d2 (greq e.2.1 1)).dev.gmeTurn a0 0 = true
    ∧ gqOp (greq e.2.1 1).desc = e.2.1 ∧ (launched d2 (greq e.2.1 1)).dev.namesEmpty (greq e.2.1 1).desc = false := by
  intro e h
  fin_cases h <;> decide +kernel
/-- The empty tensor of size 0 is named. -/
theorem wit_greq_empty : (launched { d2 with descs := [(0, .native (BitVec.ofNat 512 (2 ^ 58)))] } (greq 1 1)).dev.namesEmpty (greq 1 1).desc = true := by
  decide +kernel
theorem wit_dispatch : (launched d2 (greq 6 1)).dev.assigns (greq 6 1) = true
    ∧ (launched { d2 with descs := [(0, .native (BitVec.ofNat 512 (2 ^ 58 + 16 * 2 ^ 64 + 2 ^ 256)))] } (greq 6 1)).dev.assigns (greq 6 1) = false := by
  decide +kernel

/-- A pair from descriptor 0 to descriptor 1, whose ranges are the same 64 bytes. -/
def dPair : Dev := { d2 with descs := [(0, .native row16), (1, .native row16), (2, .pair (BitVec.ofNat 128 (2 ^ 32)))] }
def pairCopy : Action := act (wd 0x60 0) 0 1 (0x60 + 3 * 2 ^ 8 + 2 * 2 ^ 64)
def busy : Tbl Act := (List.range 16).map fun k => (k, a0)

theorem wit_greq_copy : (launched dPair pairCopy).dev.needsBounce pairCopy = true ∧ (launched dPair pairCopy).dev.freeBounce 0 = some 0
    ∧ (launched { dPair with bounce := busy } pairCopy).dev.freeBounce 0 = none ∧ gqOp pairCopy.desc = 3
    ∧ (launched d2 (greq 3 1)).dev.needsBounce (greq 3 1) = false := by decide +kernel
theorem wit_listclr_audit : (launched d2 (greq 0xA 1)).dev.native (gqDs (greq 0xA 1).desc) = some row16
    ∧ ready a0 (act (wd 0x61 0) 0 0 0x61) [] (launched d2 (act (wd 0x61 0) 0 0 0x61))
    ∧ (launched d2 (act (wd 0x61 0) 0 0 0x61)).dev.namesEmpty (act (wd 0x61 0) 0 0 0x61).desc = false := by decide +kernel

/-- A PRESS over elements 0 and up; `norm`: with the norm bit of its record. -/
def press (norm : Bool) (n1 : Nat) : Action := act (wd 0x69 0) 0 n1 (0x69 + if norm then 2 ^ 24 else 0)

theorem wit_press : ready a0 (press false 0) [] (launched d2 (press false 0)) ∧ (launched d2 (press false 0)).dev.pressTurn a0 0 = true
    ∧ ready a0 (press false 1) [] (launched d2 (press false 1)) ∧ prNorm (press false 1).desc = false
    ∧ ready a0 (press true 1) [] (launched d2 (press true 1)) ∧ prNorm (press true 1).desc = true
    ∧ (launched d2 (press true 1)).dev.named (prDg (press true 1).desc) = some (Tens.ofDesc row16)
    ∧ ((launched d2 (press true 1)).box.tVal (Tens.ofDesc row16) 0).poison = false := by decide +kernel

/-- Plan 0: an all-gather (OP 4) in binary32 of two members, this device being the first, at level 5. -/
def plan0 : Plan :=
  { ctx := 0, hdr := BitVec.ofNat 512 (4 + 2 * 2 ^ 32 + 5 * 2 ^ 120 + 2 ^ 128), members := [(1, 0), (2, 0)], launched := 0 }
def seam0 : Seam := { Seam.init with st := 2, active := 15, credits := bufferUnits, partner := 2 }

/-- Device 1 with Seam 0 up towards device 2, the plan, and a running context. -/
def d3 : Dev :=
  { (d2.updCtx 0 fun c => { c with st := .running, img := some (img0 []) }) with
    seams := [(0, seam0)]
    fab := { d2.fab with deviceId := 1, plans := [(0, plan0)], forwarding := true, routes := [(2, BitVec.ofNat 32 (2 ^ 24))] }
    fw := { d2.fw with pattern := { FwImg.none with level := 5 } } }

/-- A COLL of plan 0 from descriptor 0 to descriptor 1. -/
def collAct (n0 : Nat) : Action := act (wd 0x68 0) n0 0 (0x68 + 2 ^ 48)

theorem wit_coll : ready a0 (collAct 0) [] (launched d3 (collAct 0)) ∧ ready a0 (collAct 4) [] (launched d3 (collAct 4))
    ∧ (launched d3 (collAct 4)).dev.coll 0 0 = none ∧ (launched d3 (collAct 4)).dev.plan (clPlan (collAct 4).desc) = some plan0
    ∧ (launched d3 (collAct 4)).dev.freeUnit = some 0 ∧ (launched d3 (collAct 4)).dev.collCheck plan0 0 (collAct 4).desc 4 = 0
    ∧ (launched { d3 with descs := [] } (collAct 4)).dev.collCheck plan0 0 (collAct 4).desc 4 = 7 := by decide +kernel

/-- A KARR to Knot 0 of device 2: RMT is bit 13 of the word. -/
def karrFar : Action := { act (wd 0x40 (2 ^ 13)) 0 0 0 with dev := 2 }

theorem wit_remote_karr : ready a0 karrFar [] (launched d3 karrFar) ∧ Insn.krmt karrFar.w = true ∧ (launched d3 karrFar).dev.writesOut a0 = false
    ∧ (launched d3 karrFar).dev.freeTag 2 = some 0 ∧ karrFar.dev ≠ (launched d3 karrFar).dev.fab.deviceId.toNat
    ∧ (launched d3 karrFar).dev.routeFor 2 1 0 = some 0 := by decide +kernel

/-- The instance that the COLL above begins. -/
def collOn : State := after (exec (.coll a0) (launched d3 (collAct 4)))
def inst0 : CollInst := ((collOn.dev.coll 0 0).getD (collOn.dev.newColl plan0 a0 (collAct 4) 0))

/-- A packet from device 2 to device 1 on Seam 0. -/
def pk (ty vc word : Nat) (lines : List (BitVec 512)) : Packet := mkPacket 1 2 ty vc 0 word 0 lines

theorem wit_coll_packets : collOn.dev.plan 0 = some plan0 ∧ collOn.dev.coll 0 0 = some inst0 ∧ plan0.member (pk 8 2 0 [0]).src = some 1
    ∧ arrives 8 0 (pk 8 2 0 [0]) collOn ∧ (pk 8 2 0 [0]).word / 65536 % 65536 = plan0.epoch
    ∧ (plan0.recvs inst0.n).any (fun r => r.src == 1 && r.round == 0 && decide (0 < plan0.chunks r.len)) = true
    ∧ arrives 9 0 (pk 9 3 0 [0]) collOn ∧ arrives 9 0 (pk 9 3 65536 [0]) collOn ∧ (plan0.children plan0.self).contains 1 = true
    ∧ arrives 9 0 (pk 9 3 (3 * 65536) [0]) collOn := by decide +kernel
/-- READY before the launch: instances 0 to 3 of a plan with none launched. -/
theorem wit_early_ready : arrives 9 0 (pk 9 3 (3 * 1024) [0]) (st d3) ∧ (collOf (pk 9 3 (3 * 1024) [0])).2 = 3 ∧ (st d3).dev.coll 0 3 = none
    ∧ (3 + 64 - plan0.launched % 64) % 64 < 4 := by decide +kernel
/-- RELEASE of the parent, at member 1. -/
theorem wit_release : let p : Plan := { plan0 with hdr := plan0.hdr + BitVec.ofNat 512 (2 ^ 48) }
    p.self = 1 ∧ p.member 1 = some 0 ∧ (0 : Nat) = (p.self - 1) / 2
      ∧ ctrlSlip (pk 9 3 (2 * 65536) [0]) ≤ (((st d3).dev.ctx 0).img.map (·.slipLimit)).getD 0 * 4 := by decide +kernel
theorem wit_coll_timeout : (collOn.dev.coll 0 0).any (fun i => decide (i.deadline ≤ 1000)) = true := by decide +kernel

/-! ### Runs, waits and packets -/

/-- A context that has nothing left to do; one that has a wait beyond its watchdog of 1 µs. -/
def idleRun : State := st (d0.updCtx 0 fun c => { c with st := .running, img := some (img0 []) })
def waiting : State :=
  st { (runs [wd 0x30 1]).updStream cs0 (fun s => { s with wait := some ⟨0, false, 1, false⟩ }) with tape := { d0.tape with now := 1001 } }

theorem wit_run_end : (idleRun.dev.endingOf 0).isSome = true := by decide +kernel
theorem wit_watchdog : (waiting.dev.stream cs0).ctx = some 0 ∧ (waiting.dev.stream cs0).wait = some ⟨0, false, 1, false⟩
    ∧ waiting.dev.watchdog 0 = 1000 ∧ 0 + waiting.dev.watchdog 0 < waiting.dev.tape.now ∧ (waiting.dev.stream cs0).acts = [] := by decide +kernel
theorem wit_hang : (launched d2 (greq 1 1)).dev.hungCtxs (.gme 0 0) = [0] := by decide +kernel

/-- A second GATHER in the queue of GME 0, whose tensor lies in a region. -/
def a1 : Act := ⟨cs0, 2⟩
def aheadOf : State :=
  st ({ d2 with gmes := [(0, ⟨[⟨a0, true⟩, ⟨a1, true⟩], false, []⟩)] }.updStream cs0 fun s => { s with acts := [greq 1 1, { greq 1 1 with id := 2 }] })

theorem wit_run_ahead : aheadOf.box.mayRunAhead (.gme a1 0) = true ∧ aheadOf.box.mayRunAhead (.gme a0 0) = false
    ∧ (aheadOf.dev.placeOf 0).any (fun p => aheadOf.dev.serves p.spool && !(aheadOf.dev.spool p.spool).stalls p.chan) = true
    ∧ (st (runs [])).box.mayRunAhead (.decode cs0 0 0 0) = true := by decide +kernel

/-- An export window over the first region, an open read, write and Knot request, and a Knot of the running context. -/
def open' (kind : Nat) : RemoteReq := ⟨kind, 3, 2, 64, 64, some a0, 0, none⟩
def far : State := launched { d3 with
    exports := [(0, ⟨0, 1, 0, 9, true, true⟩)], knots := [(0, ⟨0, 1, 0, false, false, 0, 0⟩)]
    fab := { d3.fab with remote := [open' 0, open' 1, open' 2] } } (greq 1 1)

theorem wit_forward : (far.dev.seam 0).up = true ∧ far.dev.delivers (mkPacket 2 3 1 0 0 0 0 []) = false ∧ far.dev.fab.deviceId.toNat ≠ 0xFFFF
    ∧ far.dev.fab.forwarding = true ∧ (mkPacket 2 3 1 0 0 0 0 []).sr = false := by decide +kernel
/-- A source route of one hop on Seam 0 (SR is bit 39). -/
theorem wit_source_route : let k : Packet := ⟨(mkPacket 2 3 1 0 0 0 0 []).hdr + BitVec.ofNat 128 (2 ^ 39), 1, []⟩
    k.sr = true ∧ routeNext k < routeHops k ∧ routeHops k ≤ 8 ∧ (far.dev.seam (routeSeam k 0)).up = true ∧ far.dev.delivers k = false := by decide +kernel
/-- One line read at 0, one written, and a Knot arrival; status 2 for a device outside the window. -/
theorem wit_requests : arrives 1 0 (pk 1 0 (2 ^ 52) []) far ∧ far.dev.exportStatus 0 64 2 false = 0 ∧ far.dev.exportStatus 0 64 10 false = 2
    ∧ far.dev.power.hold = false ∧ far.dev.tripHolds 0 64 = false ∧ arrives 3 0 (pk 3 0 0 [0]) far ∧ far.dev.exportStatus 0 64 2 true = 0
    ∧ (∀ g ∈ granulesOf 0 64, far.dev.protector g = none) ∧ (pk 3 0 0 [0]).lpoison = 0 ∧ memoryOk far
    ∧ arrives 5 0 (pk 5 0 0 []) far ∧ far.dev.knotServed 0 = true ∧ far.dev.knotServed 1 = false := by decide +kernel
theorem wit_answers : arrives 2 0 (pk 2 1 3 [0]) far ∧ far.dev.remoteReq [0] 3 2 0 = some (open' 0) ∧ far.dev.fab.waitWr = []
    ∧ arrives 4 0 (pk 4 1 3 []) far ∧ far.dev.remoteReq [1, 3] 3 2 0 = some (open' 1) ∧ arrives 6 0 (pk 6 1 3 []) far
    ∧ far.dev.remoteReq [2] 3 2 0 = some (open' 2) ∧ far.dev.action a0 = some (greq 1 1) := by decide +kernel
theorem wit_notices : arrives 0x11 0 (pk 0x11 3 1 [0]) far ∧ arrives 0x12 0 (pk 0x12 3 5 []) far ∧ far.dev.fab.seen = [] := by decide +kernel

/-! ### Queues, registers, bare mode and the aperture -/

def comp : Nat := companionBase

/-- A device with a grant over 2 MiB of companion memory, a region in each half of the first 4 MiB, and queue 0 enabled in the grant
with entries 0 to 2 at its head and one completion due. -/
def due0 : Completion := ⟨⟨0, 0x0104, 7, true⟩, 0, 0, 0, 0⟩
def q0 : Queue :=
  { Queue.init with sqBase := comp, cqBase := comp + 4096, log2 := 4, enable := true, head := 1, tail := 3, cqHead := 14, cqTail := 15, due := [due0], irqAddr := 64 }
def d4 : Dev :=
  { d0 with grants := [⟨comp, 512, true, true⟩], regions := [⟨0, 1, none⟩, ⟨2097152, 1, some 0⟩], queues := [(0, q0)]
            fw := { d0.fw with pattern := { FwImg.none with level := 5 } } }

/-- TAIL 3, HEAD 1 of 16: 12 more entries fit (value 15), 13 (value 0) do not, and 16 is beyond the ring. -/
theorem wit_doorbell : (d4.queue 0).enable = true ∧ (d4.queue 0).error = false ∧ (15 : W32).toNat < 2 ^ (d4.queue 0).log2
    ∧ (d4.queue 0).dist 3 15 ≤ 2 ^ (d4.queue 0).log2 - 1 - (d4.queue 0).dist 1 3
    ∧ 2 ^ (d4.queue 0).log2 - 1 - (d4.queue 0).dist 1 3 < (d4.queue 0).dist 3 0 + 1 ∧ 2 ^ (d4.queue 0).log2 ≤ (16 : W32).toNat
    ∧ d4.bare = false ∧ (d4.queue 0).dist 14 15 ≤ (d4.queue 0).dist 14 15 := by decide +kernel
/-- ENABLE is bit 4, LOG2SIZE bits 3 to 0: rings in companion memory hold, rings that are not aligned do not. -/
theorem wit_enable : bitOf (0x14 : W32) 4 = true ∧ bitOf (0x04 : W32) 4 = false ∧ (d4.queue 8).enable = false
    ∧ d4.ringsOk comp (comp + 4096) (fld (0x14 : W32) 0 4) = true ∧ d4.ringsOk (d4.queue 8).sqBase (d4.queue 8).cqBase (fld (0x13 : W32) 0 4) = false := by
  decide +kernel
theorem wit_fetch : d4.serving = true ∧ d4.yoke.down = none ∧ (d4.queue 0).head ≠ (d4.queue 0).tail ∧ d4.deleting 0 = false ∧ d4.fetchRoom 0 = true
    ∧ d4.heldRing (comp + 64) 64 = false ∧ d4.tripHolds (comp + 64) 64 = false ∧ d4.addressable (comp + 64) 64 = true
    ∧ anyBad ((st d4).store.rdMem (comp + 64) 64) = false := by decide +kernel

/-- NOP on the management queue, and a command of no defined opcode. -/
def nopEntry : BitVec 512 := iciEntry 0x0104 (ici 8 [])
def fetchedOf (e : BitVec 512) : Dev := d4.setQueue 8 { d4.queue 8 with enable := true, log2 := 4, fetched := [e] }

theorem wit_accept : (fetchedOf nopEntry).accepting = false ∧ (fetchedOf nopEntry).nextQueue = some 8 ∧ (fetchedOf nopEntry).acceptable 8 = some nopEntry
    ∧ (fetchedOf nopEntry).entryRefused 8 nopEntry = none
    ∧ ((fetchedOf (iciEntry 0xFFFF (ici 8 []))).entryRefused 8 (iciEntry 0xFFFF (ici 8 []))).isSome = true := by decide +kernel
theorem wit_completion : (d4.queue 0).due = due0 :: [] ∧ d4.ready = true ∧ d4.cutter.active ≠ none ∧ d4.yoke.msgs = []
    ∧ d4.heldRing (comp + 4096 + 32 * 15) 32 = false ∧ d4.tripHolds (comp + 4096 + 32 * 15) 32 = false ∧ d4.opens = [] ∧ memoryOk (st d4)
    ∧ (∀ g ∈ granulesOf (comp + 4096 + 32 * 15) 32, d4.protector g = none) := by decide +kernel
/-- 14 R417: after the last slot CQTAIL is 0 and PHASE changes. -/
theorem test_phase_turns : ((after (exec (.completionWrite 0) (st d4))).dev.queue 0).cqTail = 0
    ∧ ((after (exec (.completionWrite 0) (st d4))).dev.queue 0).phase = false := by decide +kernel
theorem test_accept_takes_the_entry : ((after (exec .commandAccept (st (fetchedOf nopEntry)))).dev.queue 8).accepted = [nopEntry] := by decide +kernel

/-- A held low half, fields of which the device has just set or updated, and the diagnostic state. -/
def dRegs : Dev :=
  { d4 with
    yoke := { d4.yoke with lowHeld := [(0x600, 1)], devirq := 3, devirqSet := 1 }
    tape := { d4.tape with late := [(0, 9)], lateWas := [(0, 4)] }, mb := { d4.mb with lost := 6, lostWas := some 5, overrun := true, overrunSet := true }
    fw := { d4.fw with diagEnd := some 5 } }

theorem wit_registers : get? dRegs.yoke.lowHeld 0x600 = some 1 ∧ get? dRegs.tape.lateWas 0 = some 4 ∧ dRegs.mb.lostWas = some 5
    ∧ crMask 0x3008 = some (2 ^ 64 - 1, 64) ∧ dRegs.diag = true ∧ d4.diag = false
    ∧ (getD d4.secs 0xD009 []).contains (d4.tape.now / 1000000000) = false := by decide +kernel
/-- 00 R13: of the two bits the one that the device sets in the same update step stays. -/
theorem test_device_set_wins : (after (exec (.ykDevirqClear 3 true) (st dRegs))).dev.yoke.devirq = 1
    ∧ (after (exec (.ykDevirqClear 3 false) (st dRegs))).dev.yoke.devirq = 0 := by decide +kernel
/-- 00 R14: the read of the update step returns the value before it, and the new value stays. -/
theorem test_lost_read_in_the_step : (after (exec (.mbLostRead true) (st dRegs))).dev.out.value = 5
    ∧ (after (exec (.mbLostRead true) (st dRegs))).dev.mb.lost = 6 := by decide +kernel

def bare4 : Dev := { d4 with yoke := { d4.yoke with mode := 2 } }
def bareRun : Dev := bare4.updCtx 0 fun c => { c with st := .running, img := some (img0 []) }

/-- The key 0xBA5E in bits 31 to 16; DRAIN 1 and 2, MB_FLUSH (bit 2) and WARM_RESET (bit 3). -/
theorem wit_bare : (st bareRun).dev.bare = true ∧ fld (0xBA5E0001 : W32) 16 16 = 0xBA5E
    ∧ fld (0xBA5E0001 : W32) 0 2 = 1 ∧ fld (0xBA5E0002 : W32) 0 2 = 2 ∧ bitOf (0xBA5E0004 : W32) 2 = true ∧ bitOf (0xBA5E0008 : W32) 3 = true
    ∧ bareRun.power.hold = false ∧ (∀ m ∈ List.range 8, (bareRun.spool m).therm ≠ 4) ∧ (bareRun.ctx 0).st = .running
    ∧ fld (4 : W32) 16 16 ≠ 0xBA5E ∧ d4.bare = false := by decide +kernel
theorem test_drain_at_once : ((after (exec (.bmDrainAtOnce 0xBA5E0002) (st bareRun))).dev.ctx 0).st = .loaded := by decide +kernel
theorem test_no_key_no_reset : after (exec (.warmReset 8 ⟨15, 15⟩) (st bareRun)) = st bareRun := by decide +kernel

/-- Window 0 reads, and window 1 reads and writes, the region at 0; window 2 aims at companion memory. -/
def dAper : Dev := { d4 with yoke := { d4.yoke with aper := [(0, 1), (1, 3), (2, BitVec.ofNat 64 (comp + 3))] } }

theorem wit_aperture : dAper.aperFault 1 0 8 false = none ∧ dAper.aperFault 3 0 8 true = none ∧ dAper.aperFault 1 0 8 true = some 3
    ∧ dAper.aperFault 0 0 8 false = some 0 ∧ dAper.aperFault 3 comp 8 false = some 2 ∧ dAper.tripHolds 0 8 = false ∧ memoryOk (st dAper)
    ∧ anyBad ((st dAper).store.rdMem 0 8) = false ∧ (∀ g ∈ granulesOf 0 8, dAper.protector g = none) := by decide +kernel
/-- 14 R408: bits 39 to 36 of the offset name the window. -/
theorem test_aperture_writes : (after (exec (.apertureAccess (BitVec.ofNat 40 (2 ^ 36)) 1 (some [7])) (st dAper))).store.mem.byte 0 = 7
    ∧ (after (exec (.apertureAccess 0 1 (some [7])) (st dAper))).store.mem.byte 0 = 0 := by decide +kernel

/-- A LOAD of a companion tensor waits for the Yoke. -/
def yokeWait : State :=
  launched { d2 with
    descs := [(0, .native (row16 + BitVec.ofNat 512 comp))], yoke := { d2.yoke with down := some 0 }, tape := { d2.tape with now := 10000000 } }
    (act (wd 0x5A 8) 0 1 0x5A)

theorem wit_companion_timeout : yokeWait.dev.action a0 = some (act (wd 0x5A 8) 0 1 0x5A) ∧ yokeWait.dev.yoke.down = some 0
    ∧ yokeWait.dev.usesCompanion a0 (act (wd 0x5A 8) 0 1 0x5A) = true ∧ 0 + 10000000 ≤ yokeWait.dev.tape.now := by decide +kernel

/-! ### Tape, channels, Seams and flits -/

/-- The Tape at 1.75 s with the source, no edge yet. -/
def dTape (source : Nat) : Dev := { d3 with tape := { d3.tape with now := 1750000000, source := source, offset := 21, beyondSince := some 0 } }

theorem wit_pps : (dTape 1).power.pwrGood = true ∧ (dTape 1).tape.lastPps = none ∧ (dTape 1).tape.source = 1 ∧ (dTape 1).tape.ppsLost = false
    ∧ max (dTape 1).tape.ppsFrom ((dTape 1).tape.lastPps.getD 0) + 1500000000 ≤ (dTape 1).tape.now ∧ (st d0).dev.liveCtxs = []
    ∧ (dTape 1).tape.stepAllow = true ∧ (dTape 1).tape.slewNext = false ∧ (dTape 1).tape.now % 1000000000 ≠ 0 := by decide +kernel
/-- 02 R54: at 1.75 s the next whole second is the nearest. -/
theorem test_pps_steps : (after (exec (.ppsEdge true) (st { d0 with tape := { d0.tape with now := 1750000000, source := 1 } }))).dev.tape.now = 2000000000 := by
  decide +kernel
theorem wit_failover : (dTape 0).tape.ref < 4 ∧ (1 : Nat) ≠ (dTape 0).tape.ref ∧ (dTape 0).tapeWorks 1 = true := by decide +kernel
theorem wit_align : ({ dTape 2 with fab := { d3.fab with upstream := some 0, align := some 5 } } : Dev).fab.upstream = some 0 ∧ ((dTape 2).seam 0).up = true
    ∧ arrives 0x10 0 (alignPacket 2 0 5 0 0 0 0) (st (dTape 2)) ∧ bitOf (alignPacket 2 0 5 0 0 0 0).hdr 64 = false ∧ (dTape 2).crArmed = false
    ∧ arrives 0x10 0 (alignPacket 2 1 5 9 9 1 1) (st (dTape 2)) ∧ bitOf (alignPacket 2 1 5 9 9 1 1).hdr 64 = true
    ∧ lineN (alignPacket 2 1 5 9 9 1 1) 0 8 = 5 := by decide +kernel
theorem wit_offset : (dTape 2).tape.alignLost = false ∧ (dTape 2).tape.beyondSince = some 0 ∧ 20 < (dTape 2).tape.offset.natAbs
    ∧ 0 + 1000000 < (dTape 2).tape.now := by decide +kernel
/-- Without a schedule, and with one of pace 1. -/
def paced : Dev := d0.updCtx 0 fun c => { c with st := .running, img := some { img0 [] with pace := 1 } }
theorem wit_pace : d0.paceClass = 0 ∧ d0.serving = true ∧ paced.paceClass = 1 ∧ paced.serving = true ∧ paced.power.jst ≠ 1 := by decide +kernel
theorem wit_slow_and_fast : 100 * ({ paced with pace := { paced.pace with rates := (List.range 24).zip (List.replicate 24 0) } } : Dev).slowestRate < 103 * paceRate 1
    ∧ 106 * paceRate 1 < 100 * ({ paced with pace := { paced.pace with rates := (List.range 24).zip (List.replicate 24 60000) } } : Dev).slowestRate := by
  decide +kernel

/-- Line 64 of the region of Spool 0; a Spool in Trip and one whose channel stalls. -/
def acc64 : SpoolAcc := { acc0 with line := 2097152 + 64, mask := BitVec.allOnes 64 }

theorem wit_access : d4.channelOf acc64.line = some (acc64.spool.val, acc64.chan.val) ∧ d4.serves 0 = true ∧ (d4.spool 0).stalls acc64.chan.val = false
    ∧ (st d4).store.memPoison = [] ∧ acc64.line % 64 = 0 ∧ memoryOk (st d4) ∧ (∀ g ∈ granulesOf acc64.line 64, d4.protector g = none) := by decide +kernel
/-- Which frame holds the line is free; the channel that serves its address holds it. -/
theorem wit_access_holds : d4.holdsLine 0 ((d4.spool 0).serving acc64.chan.val (d4.accAddr acc64)) (d4.accAddr acc64) acc64.line = true := by
  have h : d4.placeOf acc64.line = some ⟨0, 0, 0, 64, 2097152⟩ := by decide +kernel
  have e : ∀ x, (d4.spool 0).serving acc64.chan.val x = 0 := fun _ => rfl
  have f : (d4.spool 0).holdsFor 0 = some 0 := by decide +kernel
  simp [Dev.holdsLine, Dev.accAddr, h, e, f]
def tripped : Dev := d4.updSpool 0 fun s => { s with therm := 4 }
def stalled : Dev := d4.updSpool 0 fun s => { s with inplace := some ⟨acc64.chan.val, 0, some 0, false⟩ }
/-- 11 R345: an access to a channel in its stall waits. -/
theorem test_stalled_access_waits : after (exec (.spoolAccess acc64) (st stalled)) = st stalled := by decide +kernel
theorem wit_stall_and_trip : stalled.serves 0 = true ∧ (stalled.spool 0).stalls acc64.chan.val = true ∧ (tripped.spool 0).therm = 4 ∧ tripped.powered = true := by
  decide +kernel
theorem wit_scrub : d4.serves 0 = true ∧ ((d4.spool 0).chan 3).role ≠ 3 ∧ ((d4.spool 0).logical 3).any (d4.spool 0).stalls = false
    ∧ (st d4).box.marked 0 3 0 0 = false := by decide +kernel
/-- 11 R334: above 85 °C (680 eighths) the Spool is Warm. -/
theorem wit_thermal : d4.powered = true ∧ thermNext 0 (681 : W16).toInt = 1 ∧ thermNext 0 (680 : W16).toInt = 0 ∧ d4.liveCtxs = [] ∧ d4.nearColls = [] ∧ (d4.spool 0).waiting = []
    ∧ ((d4.updSpool 0 fun s => { s with therm := 3 }).spool 0).therm = 3 := by decide +kernel
def failing : Dev :=
  { (d4.updSpool 0 fun s => { s with chans := [(3, { Chan.init 4 with failedAt := 0 })] }) with tape := { d4.tape with now := 86400000000000 } }
theorem wit_failing : ((failing.spool 0).chan ((failing.spool 0).phys 3)).role = 4 ∧ 0 + 86400000000000 ≤ failing.tape.now
    ∧ (failing.spool 0).hasAction 4 false = false ∧ failing.power.hold = false := by decide +kernel

/-- A Darning of channel 2 to spare 32 at its end; an offline original 5; a retrain in place of channel 7. -/
def darning : Dev := d4.updSpool 0 fun s =>
  { s with darn := some ⟨2, 2, 32, chanEnd, false, 0, 0, false⟩, chans := [(32, .init 2)], offline := [(5, false)], inplace := some ⟨7, 0, none, false⟩ }
theorem wit_maintenance : (darning.spool 0).darn = some ⟨2, 2, 32, chanEnd, false, 0, 0, false⟩ ∧ darning.serves 0 = true ∧ (darning.spool 0).therm < 2
    ∧ (darning.spool 0).waiting = [] ∧ (darning.spool 0).phys 2 ≠ 32 ∧ (darning.spool 0).offline = (5, false) :: []
    ∧ (darning.spool 0).inplace = some ⟨7, 0, none, false⟩ ∧ darning.heldBy 0 = false ∧ (stalled.spool 0).inplace = some ⟨acc64.chan.val, 0, some 0, false⟩
    ∧ ((d4.spool 0).chan 33).role = 1 := by decide +kernel
/-- A word read back wrong in its lowest bit marks the lane of that bit (11 R349), and a clean retest leaves the spare. -/
theorem wit_spare_test : (testFinds 0 [⟨0, 0, (patternWord 0 0) ^^^ 1, 0⟩]).lanes ≠ 0 ∧ (testFinds 0 []).lanes = 0 ∧ (testFinds 0 []).rawBits = 0 := by
  decide +kernel

/-- A heartbeat body: CTYPE 1, Seam 1, partner 2, levels 4 to 6, lanes 15; and one of level control (CTYPE 2) for level 4 at SEQ 3. -/
def beat : BitVec 1920 := BitVec.ofNat 1920 (leNat [1, 1, 2, 0, 4, 6, 15])
def ctl : BitVec 1920 := BitVec.ofNat 1920 (leNat [2, 3, 0, 4])
def dSeam (x : Seam) : Dev := { d3 with seams := [(0, x)], tape := { d3.tape with now := 60000000000 } }

theorem wit_seams : d3.powered = true ∧ (d3.seam 0).up = true ∧ 0 + 10000 ≤ (dSeam seam0).tape.now ∧ heartbeatOk (bodyBytes beat) = true
    ∧ 2 ≤ (seam0.matchLanes (leAt (bodyBytes beat) 6 1)).width ∧ d3.commonLevel (leAt (bodyBytes beat) 4 1) (leAt (bodyBytes beat) 5 1) = some 5
    ∧ 2 ≤ popCount (BitVec.ofNat 4 (leAt (bodyBytes beat) 6 1)) ∧ d3.seamClock 0 = true ∧ (dSeam { seam0 with st := 1 }).seam 0 = { seam0 with st := 1 }
    ∧ leAt (bodyBytes ctl) 0 1 = 2 ∧ d3.lowLevel ≤ leAt (bodyBytes ctl) 3 1 ∧ leAt (bodyBytes ctl) 3 1 ≤ d3.highLevel := by decide +kernel
/-- Lane 1 leaves a Seam of 4; it retrains since 0 or since 4 ms before; lane 2 has failed and its retry is due. -/
theorem wit_lanes : bitOf seam0.active 1 = true ∧ LaneTrigger.alignment ≠ .command ∧ 3 ≤ seam0.width ∧ seam0.retrain = none ∧ seam0.laneq = []
    ∧ d3.nearColls = [] ∧ 0 + 4000000 ≤ (dSeam seam0).tape.now
    ∧ (dSeam { seam0 with retrain := some (1, 60000000000) }).tape.now ≤ 60000000000 + 4000000
    ∧ bitOf ({ seam0 with failed := 4 } : Seam).failed 2 = true ∧ getD ({ seam0 with failed := 4 } : Seam).retryAt 2 0 ≤ (dSeam seam0).tape.now := by
  decide +kernel
/-- 12 R356: bring-up takes the highest level of both, here 5. -/
theorem test_bring_up_level : ((after (exec (.seamBringUp 0 beat) (st (dSeam { seam0 with st := 1 })))).dev.seam 0).level = 5 := by decide +kernel

/-- A flit of first 252 bytes `n` (SEQ, ACK, KIND and NAK of an empty body) and CRC `c`. -/
def flit (n c : Nat) : BitVec 2048 := BitVec.ofNat 2048 (n + c * 2 ^ 2016)
def flWord (seq ack kind : Nat) : Nat := seq + ack * 2 ^ 16 + kind * 2 ^ 32

theorem crcStep_lt (c : Nat) (h : c < 2 ^ 32) : crcStep c < 2 ^ 32 := by
  unfold crcStep
  split
  · exact Nat.xor_lt_two_pow (by omega) (by omega)
  · omega
theorem crcFold_lt (l : List Byte) (c : Nat) (h : c < 2 ^ 32) : l.foldl (fun c b => crc8 (c ^^^ b.toNat)) c < 2 ^ 32 := by
  induction l generalizing c with
  | nil => exact h
  | cons x l ih =>
    refine ih _ ?_
    unfold crc8
    repeat' apply crcStep_lt
    exact Nat.xor_lt_two_pow h (by omega)
theorem crc32c_lt (l : List Byte) : crc32c l < 2 ^ 32 := Nat.xor_lt_two_pow (crcFold_lt l _ (by decide)) (by decide)
/-- The bytes under the CRC read as written, and so does the CRC. -/
theorem flit_low {n c : Nat} (hn : n < 2 ^ 2016) (hc : c < 2 ^ 32) : (flit n c).toNat % 2 ^ 2016 = n ∧ (flit n c).toNat / 2 ^ 2016 = c := by
  have h : (flit n c).toNat = n + c * 2 ^ 2016 := by
    simp only [flit, BitVec.toNat_ofNat]
    exact Nat.mod_eq_of_lt (by omega)
  rw [h]; omega
/-- A flit whose CRC field is `c` passes the CRC exactly where `c` is the CRC of its bytes. -/
theorem flit_crc {n c : Nat} (hn : n < 2 ^ 2016) (hc : c < 2 ^ 32) : flCrcOk (flit n c) = (crc32c (leBytes 252 n) == c) := by
  obtain ⟨h1, h2⟩ := flit_low hn hc
  simp only [flCrcOk, fld, Nat.shiftRight_eq_div_pow, h1, h2, Nat.pow_zero, Nat.div_one, Nat.mod_eq_of_lt hc]
/-- A flit that passes and one that fails, for every header below 2^35. -/
theorem wit_flit_crc (n : Nat) (hn : n < 2 ^ 2016) : flCrcOk (flit n (crc32c (leBytes 252 n))) = true
    ∧ flCrcOk (flit n ((crc32c (leBytes 252 n) + 1) % 2 ^ 32)) = false := by
  rw [flit_crc hn (crc32c_lt _), flit_crc hn (Nat.mod_lt _ (by decide))]
  have := crc32c_lt (leBytes 252 n)
  exact ⟨by simp, by simp only [beq_eq_false_iff_ne]; omega⟩
theorem wit_flits : (∀ c < 2, flKind (flit (flWord 0 65535 1) c) = 1 ∧ flSeq (flit (flWord 0 65535 1) c) = seam0.rxSeq
    ∧ seqAhead seam0.rxSeq (flSeq (flit (flWord 5 65535 1) c)) = true ∧ flSeq (flit (flWord 0 0 0) c) = seam0.rxSeq ∧ flNak (flit (flWord 0 0 0) c) = false
    ∧ (flAck (flit (flWord 0 0 0) c) + 65536 - seam0.acked) % 65536 = 1)
    ∧ d3.linkUp 0 = true ∧ d3.lanesOf 0 = [0, 1, 2, 3] ∧ seam0.early = [] ∧ seam0.held = [] ∧ seam0.waitq = [] ∧ seam0.wait = false
    ∧ d3.containReset = false ∧ seqAhead 0 32768 = false ∧ seqAhead 0 32767 = true := by decide +kernel
/-- One data flit stands in the replay buffer; 3 µs have passed. -/
def dReplay : Dev := dSeam { seam0 with replay := [⟨0, ((0, 0), (0, 0)), []⟩] }
theorem wit_replay : dReplay.linkUp 0 = true ∧ (dReplay.seam 0).replay ≠ [] ∧ (dReplay.seam 0).ackMoved + 3000 ≤ dReplay.tape.now
    ∧ (dReplay.seam 0).ackSent + 100 ≤ dReplay.tape.now ∧ d0.linkUp 64 = true ∧ d0.lanesOf 64 = [0, 1, 2, 3, 4, 5, 6, 7] := by decide +kernel
theorem wit_yoke_lanes : d0.yoke.down = none ∧ bitOf d0.yoke.healthy 3 = true ∧ bitOf (d0.yoke.healthy &&& ~~~(BitVec.ofNat 8 (2 ^ 3))) 3 = false
    ∧ (d0.seam 64).lastHb + 50000 ≤ (dSeam seam0).tape.now ∧ 4 ≤ laneCount (0x0F : BitVec 8) ∧ bitOf d0.power.clocksLost 0 = false := by decide +kernel

/-! ### Bare mode entry, triggers, Bastes, Cutters -/

/-- Baste 2 protects granule 0 of the region at 0; its pool is the region at 2 MiB, with 8 slots. -/
def baste2 : Baste := { Baste.init with st := 2, ranges := [(0, 1)], pool := 2097152, prot := [0] }
def full : Baste := { baste2 with copied := (List.range 8).map fun i => (100 + i, i) }
def dBaste (x : Baste) : Dev :=
  { dAper with bastes := [(2, x)], regions := [⟨0, 1, none⟩, ⟨2097152, 1, some 0⟩, ⟨4194304, 1, some 0⟩, ⟨6291456, 1, some 0⟩] }

theorem wit_pool_full : (dBaste full).protector 0 = some (2, full) ∧ full = (dBaste full).baste 2 ∧ (dBaste full).poolSlots full = 8
    ∧ (∀ i ∈ List.range 8, ∃ e ∈ full.copied, e.2 = i) ∧ granulesOf 0 1 = [0] ∧ (dBaste full).aperFault 3 0 1 true = none := by decide +kernel
theorem wit_granule_copy : (dBaste baste2).protector 0 = some (2, baste2)
    ∧ (List.range ((dBaste baste2).poolSlots baste2)).find? (fun i => !(baste2.copied.any fun e => e.2 == i)) = some 0 := by decide +kernel
theorem wit_bare_entry : let d : Dev := { d0 with
      cutter := { d0.cutter with active := none }, tape := { d0.tape with now := 20000000 }, yoke := { d0.yoke with devirqEn := 1, devirqAddr := 64 } }
    d.ready = true ∧ d.powered = true ∧ d.noCutter = true ∧ bitOf d.yoke.devirq 0 = false ∧ bitOf d.yoke.devirqEn 0 = true ∧ d.yoke.devirqAddr ≠ 0
      ∧ d.yoke.msgs = [] := by decide +kernel
/-- An enabled periodic trigger (bits 32 and 34) of 1 ms at the Tape value 2 ms. -/
def trig : BitVec 1280 := BitVec.ofNat 1280 (2 ^ 32 + 2 ^ 34 + 1000000 * 2 ^ 64)
theorem wit_trigger : let d : Dev := { d0 with mb := { d0.mb with trigs := [(3, trig)] }, tape := { d0.tape with now := 2000000 } }
    get? d.mb.trigs 3 = some trig ∧ trigEnabled trig = true ∧ trigPeriodic trig = true ∧ trigPeriod trig ≠ 0 ∧ d.tape.now % trigPeriod trig = 0 := by
  decide +kernel
/-- A trigger that matches every event is not the periodic one. -/
theorem wit_trigger_of_event : (({ d0 with mb := { d0.mb with trigs := [(3, trig), (4, BitVec.ofNat 1280 (2 ^ 32 + 2))] } } : Dev).trigFor 2 none).isSome = true := by
  decide +kernel

/-- The command performed now, with its payload. -/
def now (d : Dev) (opc : Nat) (q : Fin 9) (l : List (Nat × Nat)) : Bool :=
  decide (performs opc (ici q l) true (accd d opc (ici q l)))

/-- BASTE_TAKE of ID 1 for context 0: one range of one granule at 4 MiB (its entry lies at 0), pool at 2 MiB, TAKE limits 1. -/
def takeL : List (Nat × Nat) := [(1, 1), (4, 1), (6, 1), (8, 6291456), (16, 2097152)]
def rangeAt : Store := State.reset.store.wrMem 6291456 (clean (leBytes 8 4194304 ++ leBytes 8 1))
def takeS : State := { accd (dBaste .init) 0x0701 (ici 0 takeL) with
  box := { (accd (dBaste .init) 0x0701 (ici 0 takeL)).box with store := rangeAt } }

theorem wit_take : performs 0x0701 (ici 0 takeL) true takeS ∧ readable takeS (takeS.dev.takeAccepted 0x0701 (ici 0 takeL)) 6291456 16 64
      (leBytes 8 4194304 ++ leBytes 8 1)
    ∧ rangesSpare (leBytes 8 4194304 ++ leBytes 8 1) 1 = true ∧ takeS.dev.rangesOk [(4194304, 1)] = true ∧ takeS.dev.poolOk 2097152 [(4194304, 1)] = true
    ∧ takeS.dev.openBastes.length < 4 ∧ (takeS.dev.ctx 0).st ≠ .stopping ∧ (takeS.dev.baste 1).st = 0 ∧ takeS.dev.opens = [] := by decide +kernel
theorem test_take_protects : ((after (exec (.basteTake (ici 0 takeL)) takeS)).dev.baste 1).prot = [16] := by decide +kernel

/-- A drain into the companion grant of 2 MiB: started, with a granule left behind one that is done, and at its header. -/
def drainL : List (Nat × Nat) := [(0, 2), (8, comp)]
def draining (phase : Nat) (cur : Option Nat) : Baste :=
  { baste2 with st := 3, dest := some comp, done := [(5, 0)], phase := phase, cur := cur, dataOff := 4096 }
theorem wit_baste_drain : now (dBaste baste2) 0x0702 0 drainL = true
    ∧ (dBaste baste2).destOk comp (imageLen baste2.imageRanges.length baste2.left.length ((st (dBaste baste2)).box.poisonCount baste2)) = true
    ∧ (dBaste (draining 0 none)).powered = true ∧ (draining 0 none).left = 0 :: [] ∧ (draining 0 none).done ≠ []
    ∧ (dBaste (draining 0 none)).destOk comp (4096 + (draining 0 none).imageGranules.length * granule) = true
    ∧ inCompanion (comp + 4096 + 1 * granule) granule = true ∧ (∀ h ∈ granulesOf (comp + 4096 + 1 * granule) granule, (dBaste (draining 0 none)).protector h = none)
    ∧ (draining 0 (some 0)).cur ≠ none ∧ (draining 2 (some 0)).phase = 2 ∧ (dBaste (draining 2 (some 0))).drainBusy 2 = false := by decide +kernel

/-- An image of no granule in the region at 0, with the hash of its header. -/
def headOf (hash : List Byte) : List Byte :=
  asciiBytes "FVKBASTE" ++ leBytes 2 4 ++ leBytes 38 0 ++ leBytes 8 4096 ++ leBytes 8 4096 ++ hash ++ zeros 128
def head : List Byte := headOf (sha3_512 (headOf (zeros 64)))
def restoreS : State := let s := accd (dBaste .init) 0x0703 (ici 0 [(16, 1)])
  { s with box := { s.box with store := State.reset.store.wrMem 0 (clean head) } }

theorem wit_restore : performs 0x0703 (ici 0 [(16, 1)]) true restoreS ∧ restoreS.dev.liveCtxs = []
    ∧ readable restoreS (restoreS.dev.takeAccepted 0x0703 (ici 0 [(16, 1)])) 0 256 1 head ∧ head.take 8 = asciiBytes "FVKBASTE"
    ∧ restoreS.dev.levels.1 ≤ leAt head 8 2 ∧ leAt head 8 2 ≤ restoreS.dev.levels.2 ∧ imageOk head [] (rangeEntries [] (leAt head 32 4)) = true := by decide +kernel
theorem wit_restore_hash : sha3_512 (head.take 64 ++ zeros 64 ++ head.drop 128 ++ []) = (head.drop 64).take 64 := by decide +kernel
theorem wit_baste_release : now (dBaste baste2) 0x0704 0 [(0, 2)] = true ∧ (dBaste baste2).opens = [] ∧ 1 ≤ ((dBaste baste2).baste 2).st := by decide +kernel

/-- One day later; a Cutter OUT, one that failed before, a claim, a rotation that is due. -/
def dCut (c : CutterSt) : Dev := { d0 with cutter := c, tape := { d0.tape with now := 86400000000000 } }
theorem wit_cutters : d0.up = true ∧ getD d0.cutter.st 1 2 ≤ 1 ∧ d0.fw.upd = none
    ∧ getD ({ d0.cutter with st := [(0, 0), (1, 2)] } : CutterSt).st 1 2 = 2 ∧ bitOf d0.fw.roots 1 = true
    ∧ get? ({ d0.cutter with failedAt := [(1, 1)] } : CutterSt).failedAt 1 = some 1 ∧ 86400000000000 < 1 + 86400000000000
    ∧ (dCut { d0.cutter with active := none }).ready = true ∧ d0.cutter.claim = none
    ∧ (dCut d0.cutter).cutter.lastHb + (2 + (dCut d0.cutter).rankOf 1) * 1000000 ≤ (dCut d0.cutter).tape.now
    ∧ (dCut d0.cutter).rotationDue = true ∧ (dCut d0.cutter).standbys = [1, 2, 3] ∧ (dCut d0.cutter).runningCtxs = [] := by decide +kernel
theorem wit_takeover : let d := dCut { d0.cutter with active := none, claim := some 1 }
    d.ready = true ∧ d.powered = true ∧ d.cutter.claim = some 1 ∧ d.cutter.active = none := by decide +kernel
/-- Cluster 0 of Bolt 0 is due; spare 16 is its candidate. -/
def dDue : Dev := { d0 with retireDue := [⟨0, 0, 0, none⟩] }
theorem wit_due : dDue.retireDue = [⟨0, 0, 0, none⟩] ∧ dDue.candidate ⟨0, 0, 0, none⟩ = some 16 ∧ dDue.serving = true ∧ dDue.power.hold = false
    ∧ dDue.usersOf 0 0 = [] ∧ dDue.loading = false := by decide +kernel
theorem test_due_is_remapped : ((after (exec (.spareSuitesDone 0 0 true) (st dDue))).dev.bolt 0).phys 0 = 16 := by decide +kernel

/-! ### Recorder, power and pins -/

theorem wit_baste_drain_records : d0.mb.drained < d0.mb.head + 1 ∧ (after (exec .hourMark (st d0))).dev.mb.drained < (after (exec .hourMark (st d0))).dev.mb.head
    ∧ (∀ i ∈ List.range 8, (d0.spool i).therm ≠ 4) ∧ d0.mb.region.length + d0.mb.ring.length ≤ 2097152 := by decide +kernel
/-- CR_CTRL armed and CR_FLIT delayed, in the diagnostic state that ends now. -/
def dCrease : Dev :=
  { d0 with
    fw := { d0.fw with diagEnd := some 1000000000 }, cr := { d0.cr with regs := [(0x3000, 1), (0x3010, 256)] }, tape := { d0.tape with now := 1000000000 } }
theorem wit_crease : dCrease.crArmed = true ∧ dCrease.crConfigured = true ∧ dCrease.cr.last + 1000000000 ≤ dCrease.tape.now
    ∧ dCrease.fw.diagEnd = some 1000000000 := by decide +kernel

def dPow (f : PowerSt → PowerSt) : Dev := { d0 with power := f d0.power, tape := { d0.tape with now := 200000 } }
theorem wit_power : State.reset.dev.power.pwrGood = false ∧ d0.power.pwrGood = true ∧ d0.power.vaux = none ∧ bitOf d0.power.clocksLost 4 = false
    ∧ bitOf (dPow fun p => { p with clocksLost := 16 }).power.clocksLost 4 = true ∧ d0.tape.ref = 0 ∧ d0.tapeWorks 1 = true
    ∧ (State.reset.pending = []) ∧ (dPow fun p => { p with vaux := some 99999999 }).power.vaux = some 99999999 := by decide +kernel
theorem wit_boot_end : let d : Dev := { d0 with fw := { d0.fw with booting := true }, yoke := { d0.yoke with mode := 0 } }
    d.powered = true ∧ d.fw.booting = true ∧ d.cutter.active ≠ none ∧ d.yoke.mode = 0 := by decide +kernel
/-- VIO (rail 3) at 900 mV is out of its 3 % since 0; 105 % of 2,900 W is 3,045 W. -/
theorem wit_rails : get? (dPow fun p => { p with railSince := [(3, 0)] }).power.railSince 3 = some 0
    ∧ ({ d0 with power := { d0.power with mv := [650, 1100, 900, 900, 1800] } } : Dev).railOut 3 = true ∧ 1050 * d0.power.plimit < 100 * 30451
    ∧ ¬(1050 * d0.power.plimit < 100 * 30450) ∧ d0.power.limiting = false := by decide +kernel
/-- 18 R531: 95 °C and more, in eighths, change the state. -/
theorem wit_junction : junctionNext 0 2000 = 3 ∧ junctionNext 3 2000 = 3 ∧ junctionNext 0 0 = 0
    ∧ (dPow fun p => { p with hold := true, wake := some (1, 0) }).power.wake = some (1, 0) ∧ (∀ p ∈ List.range 64, (d0.seam p).held = []) := by decide +kernel
/-- VAUX in tolerance for 100 ms; the TAP controller in Update-IR. -/
def dPins : Dev := { (dPow fun p => { p with vaux := some 100000000 }) with pins := { d0.pins with tap := 13, irShift := 2 } }
theorem wit_pins : dPins.power.vaux = some 100000000 ∧ dPins.pins.tap = 13 ∧ dPins.diag = false := by decide +kernel
theorem test_i3c_needs_100_ms : (after (exec (.i3cSetdasa 9 0x4C) (st dPins))).dev.pins.i3c = some 9
    ∧ (after (exec (.i3cSetdasa 9 0x4C) (st (dPow fun p => { p with vaux := some 99999999 })))).dev.pins.i3c = none := by decide +kernel
def isPrivateStop : Host.Outcome State Fault Refusal → Bool
  | .refused .jtagPrivate => true
  | _ => false
/-- 18 R543: a private instruction in the diagnostic state has no described effect. -/
theorem test_private_jtag_stops : isPrivateStop (exec (.jtagTckEdge false false false true) (st { dPins with fw := { d0.fw with diagEnd := some 1 } })) = true := by
  decide +kernel

/-! ### ICI commands -/

/-- A device with an EMPTY, a LOADED and a RUNNING context (0, 1 and 2). -/
def dIci : Dev := ((d4.setQueue 0 .init).updCtx 1 fun c => { c with st := .loaded, img := some (img0 []) }).updCtx 2 fun c =>
  { c with st := .running, img := some (img0 []) }

/-- Every query of the table, of context 1 with count 1, with its record at the grant. -/
theorem wit_queries : ∀ o ∈ [0x0105, 0x0403, 0x0407, 0x050B, 0x0603, 0x0604, 0x0709, 0x0807, 0x0A04, 0x0B05, 0x0C03, 0x0203, 0x0802, 0x0305],
    performs o (ici 8 [(0, 1), (8, comp), (16, 61440)]) false (accd dIci o (ici 8 [(0, 1), (8, comp), (16, 61440)])) := by decide +kernel
theorem wit_query_writable : ∀ n ∈ [32, 64, 128], writable dIci comp n := by decide +kernel
theorem wit_query_ranges : now dIci 0x0504 8 [(0, 63), (1, 1), (8, comp)] = true ∧ now dIci 0x0A03 8 [(0, 1), (1, 63), (2, 1), (8, comp)] = true
    ∧ now dIci 0x0A03 8 [(0, 1), (1, 64), (8, comp)] = true ∧ now dIci 0x0B04 8 [(0, 255), (2, 1), (8, comp)] = true
    ∧ now dIci 0x0C02 8 [(0, 1), (2, 255), (4, 1), (8, comp)] = true ∧ now dIci 0x0C02 8 [(0, 1), (2, 256), (8, comp)] = true
    ∧ now dIci 0x0905 8 [(0, 3), (8, comp)] = true ∧ now dIci 0x0103 8 [(0, 8), (8, comp)] = true ∧ now dIci 0x0705 8 [(0, 15), (8, comp)] = true
    ∧ now dIci 0x0902 8 [(0, 1), (8, 1), (16, comp)] = true ∧ (dIci.ctx 1).st ≠ .empty ∧ 0 < targetCount 3 := by decide +kernel
theorem wit_chain : dIci.fw.chain.length ≤ 61440 := by decide +kernel
/-- 14 R419: a NOP completes with status 0. -/
theorem test_nop_completes : ((after (exec (.iciNop (ici 8 [])) (accd dIci 0x0104 (ici 8 [])))).dev.queue 8).due.map (·.status) = [0] := by decide +kernel

theorem wit_admin : now dIci 0x0104 8 [] = true ∧ now dIci 0x0101 8 [(0, 3), (1, 4), (8, comp), (16, comp + 4096)] = true ∧ (dIci.queue 3).enable = false
    ∧ dIci.ringsOk comp (comp + 4096) 4 = true ∧ now dIci 0x0102 8 [(0, 0)] = true ∧ (dIci.queue 0).enable = false ∧ (dIci.ctx 0).live = false
    ∧ (dIci.ctx 2).live = true ∧ dIci.opens = [] ∧ (d4.queue 0).enable = true
    ∧ ({ d4.setQueue 0 { q0 with fetched := [0] } with opens := [] } : Dev).queueEmpty 0 = false := by decide +kernel
theorem wit_companion_map : now dIci 0x0106 8 [(0, comp + 2097152), (8, 1), (12, 3)] = true ∧ inCompanion (comp + 2097152) 4096 = true
    ∧ (∀ g ∈ dIci.grants, g.overlaps (comp + 2097152) 4096 = false) ∧ dIci.grants.length < 1024 ∧ now dIci 0x0107 8 [(0, comp)] = true
    ∧ dIci.grants = [⟨comp, 512, true, true⟩] ∧ dIci.descTouches comp (512 * 4096) = false ∧ dIci.ringTouches comp (512 * 4096) = false
    ∧ dIci.spillTouches comp (512 * 4096) = false := by decide +kernel

/-- Memory with the bytes of an entry at the grant. -/
def withBytes (d : Dev) (opc : Nat) (c : Ici) (l : List Byte) : State :=
  let s := accd d opc c
  { s with box := { s.box with store := State.reset.store.wrMem comp (clean l) } }
def descBytes : List Byte := leBytes 64 row16.toNat
def createC : Ici := ici 8 [(0, comp), (8, 5), (10, 1)]

theorem wit_desc_create : performs 0x0201 createC false (withBytes dIci 0x0201 createC descBytes)
    ∧ readable (withBytes dIci 0x0201 createC descBytes) ((withBytes dIci 0x0201 createC descBytes).dev.takeAccepted 0x0201 createC) comp 64 64 descBytes
    ∧ dIci.nativeFault row16 = none ∧ (dIci.nativeFault (row16 + 1)).isSome = true ∧ has dIci.descs 5 = false := by decide +kernel
theorem test_desc_create : get? (after (exec (.descCreate createC) (withBytes dIci 0x0201 createC descBytes))).dev.descs 5 = some (.native row16) := by decide +kernel

/-- Two disjoint row tensors, the second writable. -/
def dTwo : Dev := { dIci with descs := [(0, .native row16), (1, .native (row16 + 64))] }
theorem wit_desc_rest : now dIci 0x0202 8 [(0, 5), (2, 1)] = true ∧ dIci.descUser 5 = none ∧ dIci.allActs = [] ∧ dIci.dying = []
    ∧ now dTwo 0x0204 8 [(0, 2), (2, 0), (4, 1)] = true ∧ (∀ b ∈ pairRules row16 (row16 + 64) 0, b = true) ∧ overlapBytes row16 (row16 + 64) ≤ 4194304
    ∧ now dIci 0x0205 8 [(0, 524287), (4, 1), (8, 0), (16, 3)] = true ∧ dIci.placed 0 2097151 true = true
    ∧ now dIci 0x0206 8 [(0, 524287), (4, 1)] = true ∧ now dIci 0x0206 8 [(0, 524287), (4, 2)] = true := by decide +kernel

/-- SCHED_RUN, STOP and UNLOAD of contexts 1 and 2; the run base stands more than 100 µs ahead. -/
theorem wit_sched : now dIci 0x0302 8 [(0, 1), (8, 100000)] = true ∧ (dIci.ctx 1).img = some (img0 []) ∧ dIci.runBad 1 100000 = none
    ∧ (dIci.runBad 1 99996).isSome = true ∧ (dIci.placeAll 1 (img0 []).wants []).2.2 = none ∧ (img0 []).cores = [] ∧ now dIci 0x0303 8 [(0, 2)] = true
    ∧ now dIci 0x0303 8 [(0, 1), (1, 1)] = true ∧ (dIci.ctx 1).live = false ∧ (dIci.ctx 2).live = true ∧ (dIci.ctx 2).stepEnd = none
    ∧ (dIci.ctx 2).stop = none ∧ dIci.bastes = [] ∧ now dIci 0x0304 8 [(0, 1)] = true := by decide +kernel
/-- A schedule with a STEP_END Knot; a stop is already on its way in the second. -/
def dEnd (x : CtxState) : Dev := dIci.updCtx 2 fun c => { c with st := x, img := some { img0 [] with knots := [⟨7, true, true, 1, 0⟩] } }
theorem wit_stop_at_boundary : ((dEnd .running).ctx 2).st = .running ∧ ((dEnd .running).ctx 2).stepEnd ≠ none ∧ ((dEnd .running).ctx 2).stop = none
    ∧ ((dEnd .stopping).ctx 2).st = .stopping := by decide +kernel
/-- An image whose header says 256 bytes and no section: the header is refused for its magic only when that is wrong. -/
def hdr : List Byte := asciiBytes "FVKSCHED" ++ leBytes 2 0 ++ leBytes 2 1 ++ leBytes 4 256 ++ leBytes 6 1 ++ leBytes 234 1
def loadC : Ici := ici 8 [(0, comp), (8, 256)]
theorem wit_sched_load : performs 0x0301 loadC true (withBytes dIci 0x0301 loadC hdr) ∧ dIci.accepting = false ∧ dIci.retireDue = []
    ∧ (∀ j ∈ List.range 8, (dIci.ctx j).rhold = none) ∧ (dIci.ctx 0).st = .empty ∧ headerBad hdr 256 = none ∧ hdr.length = 256
    ∧ readable (withBytes dIci 0x0301 loadC hdr) ((withBytes dIci 0x0301 loadC hdr).dev.takeAccepted 0x0301 loadC) comp 256 1 hdr := by decide +kernel

theorem wit_spool : now dIci 0x0401 8 [(0, 4194304), (8, 1), (12, 1)] = true ∧ dIci.allocFault 4194304 1 (some 0) = none
    ∧ dIci.allocFault 0 1 (some 0) = some 1 ∧ memoryOk (st dIci) ∧ now dIci 0x0402 8 [(0, 2097152)] = true
    ∧ dIci.regions.find? (fun r => r.base == 2097152) = some ⟨2097152, 1, some 0⟩ ∧ dIci.regionUse ⟨2097152, 1, some 0⟩ = none
    ∧ dTwo.regionUse ⟨0, 1, none⟩ = some 0 := by decide +kernel
/-- Every choice of a channel request: a Darning, a retrain in place, a wait, and none. -/
def noSpares : Dev := dIci.updSpool 0 fun s => { s with chans := [(32, .init 3), (33, .init 3)] }
theorem wit_channels : now dIci 0x0404 8 [(0, 0), (1, 31)] = true ∧ now dIci 0x0405 8 [(0, 0), (1, 31)] = true ∧ dIci.chanChoice 0 ⟨31, false, 0, true⟩ = 1
    ∧ dIci.chanChoice 0 ⟨31, false, 2, true⟩ = 2 ∧ noSpares.chanChoice 0 ⟨31, true, 0, true⟩ = 3 ∧ darning.chanChoice 0 ⟨31, true, 0, true⟩ = 0
    ∧ (dIci.spool 0).waiting = [] ∧ dIci.nearColls = [] := by decide +kernel
theorem wit_chan_test : now dIci 0x0406 8 [(0, 0), (1, 33), (2, 5), (3, 1), (8, comp)] = true ∧ (dIci.spool 0).logical 33 = none ∧ writable dIci comp 64
    ∧ (dIci.spool 0).untestable 33 = false ∧ (noSpares.spool 0).untestable 33 = true := by decide +kernel

/-- No schedule runs. -/
def dIdle : Dev := dIci.updCtx 2 fun _ => Ctx.init
def entry0 : List Byte := leBytes 4 (2 ^ 24)
def routeC : Ici := ici 8 [(0, 65535), (2, 1), (8, comp)]
theorem wit_fabric : now dIdle 0x0501 8 [(0, 7), (2, 1)] = true ∧ dIdle.runningCtxs = [] ∧ performs 0x0502 routeC false (withBytes dIdle 0x0502 routeC entry0)
    ∧ readable (withBytes dIdle 0x0502 routeC entry0) ((withBytes dIdle 0x0502 routeC entry0).dev.takeAccepted 0x0502 routeC) comp 4 64 entry0
    ∧ fld (BitVec.ofNat 32 (leAt entry0 0 4)) 24 3 ≤ 4 ∧ now d3 0x0503 8 [(0, 0), (1, 0)] = true ∧ now d3 0x0503 8 [(0, 1), (1, 1)] = true
    ∧ (d3.seam 1).st = 0 ∧ (d3.seam 0).st ≠ 0 ∧ now d3 0x0503 8 [(0, 0), (1, 2), (2, 2)] = true ∧ now d3 0x0503 8 [(0, 0), (1, 3), (2, 15)] = true
    ∧ now dIdle 0x0506 8 [(8, 1), (17, 63)] = true ∧ now dIdle 0x0507 8 [(0, 1)] = true ∧ now dIdle 0x0509 8 [(0, 1023), (2, 1)] = true
    ∧ dIdle.planBusy 1023 = false ∧ now dIci 0x050A 8 [(0, 1)] = true ∧ (dIci.ctx 1).st = .loaded ∧ (dIci.ctx 0).st ≠ .loaded := by decide +kernel
theorem wit_remote_map : now dIdle 0x0505 8 [(0, 2 ^ 40), (8, 1), (12, 5), (16, 2097152)] = true ∧ dIdle.remoteFits (2 ^ 40) 1 = true
    ∧ dIdle.remotes.length < 64 ∧ now { dIdle with remotes := [⟨2 ^ 40, 1, 5, true, true, 0⟩] } 0x0505 8 [(0, 2 ^ 40)] = true
    ∧ ({ dIdle with remotes := [⟨2 ^ 40, 1, 5, true, true, 0⟩] } : Dev).remotes.any (fun r => r.base == 2 ^ 40) = true := by decide +kernel
/-- A broadcast (OP 5) among this device alone, whose ID is not set: the entry names no device; a plan of no operation. -/
def planBytes (op : Nat) : List Byte := leBytes 64 (op + 1 * 2 ^ 32 + 2 ^ 128) ++ leBytes 8 7
def planC : Ici := ici 8 [(0, 1023), (4, 72), (8, comp)]
theorem wit_plan : performs 0x0508 planC false (withBytes d4 0x0508 planC (planBytes 0))
    ∧ readable (withBytes d4 0x0508 planC (planBytes 0)) ((withBytes d4 0x0508 planC (planBytes 0)).dev.takeAccepted 0x0508 planC) comp 72 1 (planBytes 0)
    ∧ (d4.planFault 1023 (planOf 0 (planBytes 0)) (planBytes 0)).isSome = true ∧ d4.planBusy 1023 = false := by decide +kernel

theorem wit_power_states : now dIdle 0x0601 8 [(0, 1)] = true ∧ now dIdle 0x0601 8 [(0, 3)] = true ∧ dIdle.power.hold = false ∧ dIdle.mayHold = true
    ∧ dIci.mayHold = false ∧ performs 0x0601 (ici 8 [(0, 2)]) false (accd { dIdle with power := { dIdle.power with hold := true } } 0x0601 (ici 8 [(0, 2)]))
    ∧ now dIdle 0x0602 8 [(0, 1200)] = true ∧ now dIdle 0x0602 8 [(0, 2900)] = true := by decide +kernel
theorem wit_shadow_contain_rotate : now dIdle 0x0706 8 [(0, 1)] = true
    ∧ now dIdle 0x0707 8 [(0, 20), (1, 1), (2, 255), (4, 1), (8, 8760), (12, 1000000)] = true ∧ now dIdle 0x0707 8 [(2, 1), (4, 255), (8, 1), (12, 10)] = true
    ∧ (∀ e ∈ dIdle.cores, e.2.strikes = []) ∧ now dIdle 0x0708 8 [(0, 1), (2, 8760)] = true ∧ now dIdle 0x0708 8 [] = true
    ∧ dIdle.standbys = 1 :: [2, 3] ∧ dIdle.cutter.active = some 0 ∧ dIci.runningCtxs ≠ [] := by decide +kernel
/-- The nonce lies at the grant's begin, the report behind it. Signatures are free functions: no number shows one accepted. -/
theorem wit_security : now dIdle 0x0801 8 [(8, comp), (16, comp + 64)] = true ∧ writable dIdle (comp + 64) 5504 ∧ now dIdle 0x0803 8 [(0, comp)] = true
    ∧ now dIdle 0x0804 8 [(0, comp)] = true ∧ dIdle.updateFree = true ∧ now dIdle 0x0805 8 [(0, comp), (12, 1), (13, 2)] = true
    ∧ dIdle.fw.prefer ≠ 1 ∧ now dIdle 0x0806 8 [] = true ∧ now dIdle 0x0903 8 [(0, comp), (8, 7296)] = true := by decide +kernel

def trigBytes : List Byte := leBytes 160 trig.toNat
def trigC : Ici := ici 8 [(0, 255), (2, 1), (8, comp)]
theorem wit_trigger_set : performs 0x0901 trigC false (withBytes dIci 0x0901 trigC trigBytes)
    ∧ readable (withBytes dIci 0x0901 trigC trigBytes) ((withBytes dIci 0x0901 trigC trigBytes).dev.takeAccepted 0x0901 trigC) comp 160 64 trigBytes
    ∧ trigFault (trigOf trigBytes 0) = none ∧ now dIci 0x0901 8 [(0, 255)] = true := by decide +kernel
theorem wit_test_run : now dIci 0x0904 8 [(0, 0), (2, 0), (4, 127)] = true ∧ dIci.targetFree 0 0 = true ∧ now dIci 0x0904 8 [(0, 0), (1, 1)] = true
    ∧ 0 < targetCount 0 := by decide +kernel
theorem wit_slot_set : performs 0x0A01 (ici 8 [(0, 1), (1, 63), (2, 1), (8, comp)]) false (accd dIci 0x0A01 (ici 8 [(0, 1), (1, 63), (2, 1), (8, comp)]))
    ∧ readable (accd dIci 0x0A01 (ici 8 [(0, 1), (1, 63), (2, 1), (8, comp)]))
        ((accd dIci 0x0A01 (ici 8 [(0, 1), (1, 63), (2, 1), (8, comp)])).dev.takeAccepted 0x0A01 (ici 8 [(0, 1), (1, 63), (2, 1), (8, comp)])) comp 64 64 (zeros 64)
    ∧ slotFault (BitVec.ofNat 512 (0x3F800000 * 2 ^ 256)) = none ∧ now dIci 0x0A02 8 [(0, 2), (1, 15), (8, comp)] = true
    ∧ progFault (BitVec.ofNat 1536 (1 + 2 ^ 1280)) = none := by decide +kernel
/-- Sequence slots: 255 is free; then it is context 1's. -/
def dSeq : Dev := { dIci with seq := { dIci.seq with assigns := [⟨1, 255, 1, 9, none, none, none⟩] } }
theorem wit_sequences : now dIci 0x0B01 8 [(0, 1), (1, 255), (2, 1), (4, 1), (8, 65535), (10, 65535), (12, 65535)] = true ∧ dIci.seq.assigned 255 = none
    ∧ dIci.mirrorFits 65535 1 = true ∧ now dIci 0x0B01 8 [(0, 1), (1, 255)] = true ∧ now dSeq 0x0B02 8 [(0, 1), (1, 255), (2, 1)] = true
    ∧ dSeq.seq.coversWhole 1 255 1 = true ∧ now dSeq 0x0B03 8 [(0, 1), (4, 1), (8, comp)] = true ∧ (dSeq.ctx 1).stages.length < 4
    ∧ dSeq.seq.stageFault 1 (stageEntries (leBytes 16 255) 1) = none ∧ now dSeq 0x0B03 8 [(0, 2)] = true := by decide +kernel
theorem wit_chalk_config : now dIci 0x0C01 8 [(0, 1), (2, 255), (4, 1), (6, 10), (8, 0x3F800000)] = true ∧ unitRange 0x3F800000 = true ∧ notNeg 0 = true
    ∧ now dIci 0x0C01 8 [(0, 2), (2, 256)] = true := by decide +kernel
end Sys2Proof.Tests
end

/-! SUPPORT. What State.reset holds: no part of the device is listed, so each reads as its initial value; and no
byte is listed. -/

namespace Sys2Proof.Machine

@[simp] theorem queue_reset (q : Nat) : State.reset.dev.queue q = .init := rfl

@[simp] theorem ctx_reset (n : Nat) : State.reset.dev.ctx n = .init := rfl

/-- Channels 0 to 31 are in service, the other ones idle spares (11 R321; log 66). -/
@[simp] theorem chan_reset (m ch : Nat) : (State.reset.dev.spool m).chan ch = .init (if ch < 32 then 0 else 1) := rfl

theorem queue_init_disabled :
    Queue.init.enable = false ∧ Queue.init.error = false ∧ Queue.init.sqBase = 0 ∧ Queue.init.cqBase = 0
    ∧ Queue.init.log2 = 0 ∧ Queue.init.tail = 0 ∧ Queue.init.head = 0 ∧ Queue.init.cqHead = 0 ∧ Queue.init.cqTail = 0
    ∧ Queue.init.phase = true := by decide

/-- Settles O2: the registers and lists by evaluation, the parts by number through their initial values. -/
theorem resetHoldsSpecValues : Obligations.ResetHoldsSpecValues := by
  unfold Obligations.ResetHoldsSpecValues
  refine ⟨rfl, rfl, rfl, rfl, rfl, rfl, rfl, rfl, fun q => ?_, fun n => ?_, fun m ch => ?_,
    rfl, rfl, rfl, rfl, rfl, rfl, rfl, rfl, rfl, rfl, rfl⟩
  · rw [queue_reset]
    exact queue_init_disabled
  · rw [ctx_reset]
    rfl
  · rw [chan_reset]
    rfl

/-- Settles O3: nothing is listed and nothing is undefined in either space. -/
theorem resetMemoryIsCanonical : Obligations.ResetMemoryIsCanonical := Store.init_wf

end Sys2Proof.Machine

/-! SUPPORT. The poison marks after a write, line by line (06 R192, 11 R331), and reading back what was written. -/

namespace Sys2Proof.Machine

/-! ### Sets of numbers -/

@[simp] theorem mem_addSet {t : List Nat} {n x : Nat} : x ∈ addSet t n ↔ x = n ∨ x ∈ t := by
  induction t with
  | nil => simp [addSet]
  | cons k t ih =>
    simp only [addSet]
    split
    · simp
    · split
      · rename_i h
        simp [h]
      · simp only [List.mem_cons, ih]
        exact or_left_comm

@[simp] theorem mem_delSet {t : List Nat} {n x : Nat} : x ∈ delSet t n ↔ x ∈ t ∧ x ≠ n := by
  simp [delSet]

/-! ### Lines -/

theorem mem_linesOf {a n ln : Nat} : ln ∈ linesOf a n ↔ n ≠ 0 ∧ a / 64 ≤ ln ∧ ln ≤ (a + n - 1) / 64 := by
  unfold linesOf
  split
  · simp [*]
  · rw [mem_span]
    omega

theorem linesOf_nodup (a n : Nat) : (linesOf a n).Nodup := by
  unfold linesOf span
  split
  · exact .nil
  · exact List.nodup_range.map (add_right_injective _)

/-- The line of a byte that a write stores is one that the write touches. -/
theorem line_mem_linesOf {a n i : Nat} (h : i < n) : (a + i) / 64 ∈ linesOf a n :=
  mem_linesOf.2 ⟨by omega, by omega, by omega⟩

/-! ### Marks -/

/-- A write at `a` of bytes with the marks `bad` stores a poisoned byte into line `ln`. -/
def lineBad (a : Nat) (bad : List Bool) (ln : Nat) : Bool :=
  ((bad.drop (ln * 64 - a)).take (ln * 64 + 64 - a - (ln * 64 - a))).any id

/-- The write stores all 64 bytes of line `ln`. -/
def lineWhole (a n ln : Nat) : Bool := a ≤ ln * 64 && ln * 64 + 64 ≤ a + n

/-- The marks after the part of a write that falls into line `ln`. -/
def markLine (a : Nat) (bad : List Bool) (p : List Nat) (ln : Nat) : List Nat :=
  if lineBad a bad ln then addSet p ln else if lineWhole a bad.length ln then delSet p ln else p

theorem markWrite_eq (p : List Nat) (a : Nat) (bad : List Bool) :
    markWrite p a bad = (linesOf a bad.length).foldl (markLine a bad) p := rfl

theorem lineBad_of_getElem? {a i : Nat} {bad : List Bool} (h : bad[i]? = some true) : lineBad a bad ((a + i) / 64) = true := by
  refine List.any_eq_true.2 ⟨true, List.mem_of_getElem? (i := i - ((a + i) / 64 * 64 - a)) ?_, rfl⟩
  rw [List.getElem?_take_of_lt (by omega), List.getElem?_drop, ← h]
  congr 1
  omega

theorem lineBad_of_clean {a ln : Nat} {bad : List Bool} (h : ∀ e ∈ bad, e = false) : lineBad a bad ln = false :=
  List.any_eq_false.2 fun e he => by simp [h e (List.mem_of_mem_drop (List.mem_of_mem_take he))]

theorem mem_markLine_ne {a ln x : Nat} {bad : List Bool} {p : List Nat} (h : x ≠ ln) :
    x ∈ markLine a bad p ln ↔ x ∈ p := by
  unfold markLine
  split
  · simp [h]
  · split
    · simp [h]
    · rfl

theorem mem_markLine_same {a ln : Nat} {bad : List Bool} {p : List Nat} :
    ln ∈ markLine a bad p ln ↔ lineBad a bad ln = true ∨ (lineWhole a bad.length ln = false ∧ ln ∈ p) := by
  unfold markLine
  split
  · simp [*]
  · split <;> simp [*]

theorem mem_foldl_markLine_of_not_mem {a x : Nat} {bad : List Bool} {l p : List Nat} (h : x ∉ l) :
    x ∈ l.foldl (markLine a bad) p ↔ x ∈ p := by
  induction l generalizing p with
  | nil => rfl
  | cons y t ih =>
    obtain ⟨hy, ht⟩ := not_or.1 (List.mem_cons.not.1 h)
    rw [List.foldl_cons, ih ht, mem_markLine_ne hy]

theorem mem_foldl_markLine_of_mem {a x : Nat} {bad : List Bool} {l p : List Nat} (hl : l.Nodup) (h : x ∈ l) :
    x ∈ l.foldl (markLine a bad) p ↔ lineBad a bad x = true ∨ (lineWhole a bad.length x = false ∧ x ∈ p) := by
  induction l generalizing p with
  | nil => cases h
  | cons y t ih =>
    obtain ⟨hy, ht⟩ := List.nodup_cons.1 hl
    rw [List.foldl_cons]
    rcases List.mem_cons.1 h with rfl | hx
    · rw [mem_foldl_markLine_of_not_mem hy, mem_markLine_same]
    · rw [ih ht hx, mem_markLine_ne fun e : x = y => hy (e ▸ hx)]

theorem mem_markWrite_of_not_mem {a ln : Nat} {bad : List Bool} {p : List Nat} (h : ln ∉ linesOf a bad.length) :
    ln ∈ markWrite p a bad ↔ ln ∈ p := by
  rw [markWrite_eq, mem_foldl_markLine_of_not_mem h]

theorem mem_markWrite_of_mem {a ln : Nat} {bad : List Bool} {p : List Nat} (h : ln ∈ linesOf a bad.length) :
    ln ∈ markWrite p a bad ↔ lineBad a bad ln = true ∨ (lineWhole a bad.length ln = false ∧ ln ∈ p) := by
  rw [markWrite_eq, mem_foldl_markLine_of_mem (linesOf_nodup _ _) h]

/-! ### The marks of device memory after a write -/

namespace Store

theorem wrMem_clears_whole_clean_line {x : Store} {a ln : Nat} {l : List PB} (h : ln ∈ linesOf a l.length) (lo : a ≤ ln * 64)
    (hi : ln * 64 + 64 ≤ a + l.length) (hc : ∀ e ∈ l, e.2 = false) : ln ∉ (x.wrMem a l).memPoison := by
  intro hm
  rcases (mem_markWrite_of_mem (by simpa using h)).1 hm with hb | ⟨hw, -⟩
  · rw [lineBad_of_clean (List.forall_mem_map.2 hc)] at hb
    cases hb
  · simp [lineWhole, lo, hi] at hw

theorem wrMem_marks_poisoned_byte {x : Store} {a i : Nat} {l : List PB} (hi : i < l.length)
    (hb : (l.getD i (0, false)).2 = true) : (a + i) / 64 ∈ (x.wrMem a l).memPoison := by
  have hi' : (l.map (·.2))[i]? = some true := by
    rw [List.getD_eq_getElem _ _ hi] at hb
    simp [hi, hb]
  exact (mem_markWrite_of_mem (line_mem_linesOf (by simpa using hi))).2 (.inl (lineBad_of_getElem? hi'))

theorem wrMem_keeps_other_marks {x : Store} {a ln : Nat} {l : List PB} (h : ln ∉ linesOf a l.length) :
    ln ∈ (x.wrMem a l).memPoison ↔ ln ∈ x.memPoison :=
  mem_markWrite_of_not_mem (by simpa using h)

end Store

/-- The bytes of a space after a write: those written read back, the others are as before. -/
theorem Mem.write_readsBack {m : Mem} (hm : m.wf = true) (a : Nat) (l : List PB) :
    (m.write a (l.map (·.1))).read a l.length = l.map (·.1)
      ∧ ∀ i, ¬(a ≤ i ∧ i < a + l.length) → (m.write a (l.map (·.1))).byte i = m.byte i := by
  constructor
  · simpa using m.read_write a (l.map (·.1)) hm
  · intro i hi
    rw [m.byte_write a i _ hm, if_neg (by simpa using hi)]

/-- Settles O9: each space reads back its bytes (`Mem.write_readsBack`), and the marks follow line by line. -/
theorem memoryReadsBackWhatWasWritten : Obligations.MemoryReadsBackWhatWasWritten := by
  intro x a l hx
  obtain ⟨hm, hs⟩ := (Store.wf_iff x).1 hx
  obtain ⟨memRead, memOther⟩ := Mem.write_readsBack hm a l
  obtain ⟨scrRead, scrOther⟩ := Mem.write_readsBack hs a l
  exact ⟨⟨memRead, memOther, rfl, rfl, fun _ => Store.wrMem_clears_whole_clean_line,
    fun _ => Store.wrMem_marks_poisoned_byte, fun _ => Store.wrMem_keeps_other_marks⟩, scrRead, scrOther, rfl, rfl⟩

end Sys2Proof.Machine

/-! SUPPORT. Every step keeps both byte spaces in canonical form: the ways in which a command answers, then each command whose
answer changes more than the device, then all of them. -/

namespace Sys2Proof.Machine

/-- If both byte spaces of `s` are in canonical form, those of a next state that `r` answers are too. -/
def State.KeepsWf (s : State) (r : Res) : Prop := s.box.good → ∀ t, r = .next t → t.box.good

/-! ### The ways in which a command answers -/

theorem next_keepsWf (s t : State) (h : s.box.good → t.box.good) : s.KeepsWf (.next t) := by
  rintro hs _ ⟨⟩
  exact h hs

theorem refused_keepsWf (s : State) (r : Refusal) : s.KeepsWf (.refused r) := by
  rintro _ _ ⟨⟩

theorem onDev_keepsWf (s : State) (f : Dev → Dev) : s.KeepsWf (s.onDev f) := next_keepsWf _ _ (s.box.onD_good f)

theorem on_keepsWf (s : State) {f : Box → Box} (h : ∀ b, b.good → (f b).good) : s.KeepsWf (s.on f) :=
  next_keepsWf _ _ (h s.box)

theorem ici_keepsWf (s : State) {opc : Nat} {c : Ici} {needs : Bool} {f : Pend → Box → Box}
    (h : ∀ k b, b.good → (f k b).good) : s.KeepsWf (s.ici opc c needs f) :=
  on_keepsWf s fun b hb => b.ici_good opc c needs f hb h

theorem vec_keepsWf (s : State) (a : Act) (ecc : List ScrEcc) (vop : Nat) : s.KeepsWf (s.vec a ecc vop) :=
  on_keepsWf s fun b hb => b.workRead_good a ecc _ _ _ hb fun b x hb => b.vecRun_good a x hb

/-- A command that does something under a condition only. -/
theorem onIf_keepsWf (s : State) {p : Box → Bool} {f : Box → Box} (h : ∀ b, b.good → (f b).good) :
    s.KeepsWf (s.on fun b => if p b then f b else b) :=
  on_keepsWf s fun b hb => ite_good _ _ _ (h b hb) hb

section
variable (s : State) {a : Act} {ecc : List ScrEcc} {sel : Box → Action → Bool} {reads : Box → Dev → Action → List Rng}
  {f : Box → Action → Box}

theorem gate_keepsWf (h : ∀ b x, b.good → (f b x).good) : s.KeepsWf (s.on fun b => b.gate a (sel b) (reads b) f) :=
  on_keepsWf s fun b hb => b.gate_good a _ _ _ hb h

theorem work_keepsWf (h : ∀ b x, b.good → (f b x).good) : s.KeepsWf (s.on fun b => b.work a (sel b) (reads b) f) :=
  on_keepsWf s fun b hb => b.work_good a _ _ _ hb h

theorem workRead_keepsWf (h : ∀ b x, b.good → (f b x).good) : s.KeepsWf
    (s.on fun b => b.workRead a ecc (sel b) (reads b) f) :=
  on_keepsWf s fun b hb => b.workRead_good a ecc _ _ _ hb h

/-- A request of a merge engine, which does nothing with COUNT 0 (08 R235). -/
theorem greq_keepsWf {op : Nat} (h : ∀ b x, b.good → (f b x).good) :
    s.KeepsWf (s.on fun b => b.greq a op (sel b) fun b x => if x.n1 = 0 then b else f b x) :=
  on_keepsWf s fun b hb => b.greq_good a op _ _ hb fun b x hb => ite_good _ _ _ hb (h b x hb)

end

section
variable (s : State) {p n : Nat} {k : Packet} {f : Box → Box}

theorem packetOf_keepsWf (h : ∀ b, b.good → (f b).good) : s.KeepsWf (s.on fun b => b.packetOf n p k f) :=
  on_keepsWf s fun b hb => b.packetOf_good n p k f hb h

theorem ctrlOf_keepsWf (h : ∀ b, b.good → (f b).good) : s.KeepsWf (s.on fun b => b.ctrlOf n p k f) :=
  on_keepsWf s fun b hb => b.ctrlOf_good n p k f hb h

end

/-! ### Packets of the fabric -/

theorem execPacketForward_keepsWf (p : Fin 64) (k : Packet) (s : State) : s.KeepsWf (execPacketForward p k s) :=
  on_keepsWf s fun b hb => ite_good _ _ _ hb (b.onPacket_good _ k id hb fun _ hb => hb)

theorem execRdReq_keepsWf (p : Fin 64) (k : Packet) (s : State) : s.KeepsWf (execRdReq p k s) :=
  packetOf_keepsWf s fun b hb => b.inService_good _ _ _ hb fun b hb => b.serveRead_good _ k hb

theorem execWr_keepsWf (p : Fin 64) (k : Packet) (s : State) : s.KeepsWf (execWr p k s) :=
  packetOf_keepsWf s fun b hb => b.inService_good _ _ _ hb fun b hb => b.serveWrite_good _ k hb

theorem execKnotArr_keepsWf (p : Fin 64) (k : Packet) (s : State) : s.KeepsWf (execKnotArr p k s) :=
  packetOf_keepsWf s fun b hb => b.onD_good _ hb

theorem execRdResp_keepsWf (p : Fin 64) (k : Packet) (s : State) : s.KeepsWf (execRdResp p k s) :=
  packetOf_keepsWf s fun b hb => elim_good _ _ _ hb fun r => b.readDone_good r _ _ hb

theorem execWrAck_keepsWf (p : Fin 64) (k : Packet) (s : State) : s.KeepsWf (execWrAck p k s) :=
  packetOf_keepsWf s fun b hb => elim_good _ _ _ hb fun r => b.endReq_good r _ hb

theorem execKnotAck_keepsWf (p : Fin 64) (k : Packet) (s : State) : s.KeepsWf (execKnotAck p k s) :=
  packetOf_keepsWf s fun b hb => elim_good _ _ _ hb fun r => b.endReq_good r _ hb

theorem execLateNotice_keepsWf (p : Fin 64) (k : Packet) (s : State) : s.KeepsWf (execLateNotice p k s) :=
  packetOf_keepsWf s fun b hb => b.onD_good _ hb

theorem execLossNotice_keepsWf (p : Fin 64) (k : Packet) (s : State) : s.KeepsWf (execLossNotice p k s) :=
  packetOf_keepsWf s fun b hb => b.takeLoss_good _ k hb

/-! ### Array groups -/

theorem execAccumGroupStart_keepsWf (core : Fin 6144) (sample : Bool) (s : State) (ecc : List ScrEcc) :
    s.KeepsWf (execAccumGroupStart core sample s ecc) :=
  on_keepsWf s fun b hb => by
    dsimp only
    split
    · exact hb
    · split
      · exact hb
      · split
        · exact hb
        · exact Box.startGroup_good _ _ _ _ _ (b.scrReads_good _ _ _ _ hb)

theorem execBobbinFill_keepsWf (core : Fin 6144) (unit : Fin 17) (ecc : ScrEcc) (s : State) :
    s.KeepsWf (execBobbinFill core unit ecc s) :=
  on_keepsWf s fun b hb => by
    split
    · exact hb
    · split
      · exact hb
      · exact Box.scrRead_good _ _ _ _ (b.onD_good _ hb)

theorem execArrayStep_keepsWf (core : Fin 6144) (err : List (Nat × W32)) (s : State) : s.KeepsWf (execArrayStep core err s) :=
  on_keepsWf s fun b hb => by
    split
    · exact hb
    · have skipped (f : Dev → Dev) := b.onD_good f hb
      exact ite_good _ _ _ (b.stepAt_good _ _ _ _ _ _ _ hb)
        (ite_good _ _ _ (Box.onD_good _ _ (skipped _)) (Box.stepAt_good _ _ _ _ _ _ _ _ (skipped _)))

theorem execGroupDrain_keepsWf (core : Fin 6144) (s : State) : s.KeepsWf (execGroupDrain core s) :=
  on_keepsWf s fun b hb => by
    split
    · exact hb
    · split
      · exact hb
      · split
        · exact hb
        · exact b.drainBank_good _ _ _ _ hb

theorem execArr_keepsWf (a : Act) (s : State) : s.KeepsWf (execArr a s) :=
  gate_keepsWf s fun b x hb => b.arrEnter_good a x hb

theorem execChalk_keepsWf (a : Act) (s : State) : s.KeepsWf (execChalk a s) :=
  gate_keepsWf s fun b x hb => b.chalkEnter_good a x hb

/-! ### Movers -/

theorem execCopy_keepsWf (a : Act) (s : State) (ecc : List ScrEcc) : s.KeepsWf (execCopy a s ecc) :=
  workRead_keepsWf s fun b x hb => b.copyRun_good a x hb

theorem execXfer_keepsWf (a : Act) (s : State) (ecc : List ScrEcc) : s.KeepsWf (execXfer a s ecc) :=
  workRead_keepsWf s fun b x hb => b.copyRun_good a x hb

theorem execLoad_keepsWf (a : Act) (s : State) : s.KeepsWf (execLoad a s) :=
  work_keepsWf s fun b x hb => b.loadRun_good a x hb

theorem execStore_keepsWf (a : Act) (s : State) (ecc : List ScrEcc) : s.KeepsWf (execStore a s ecc) :=
  workRead_keepsWf s fun b x hb => b.storeRun_good a x hb

/-! ### Samples and their verdicts -/

theorem execShadowGroupStart_keepsWf (core : Fin 6144) (err : List (Nat × W32)) (s : State) (ecc : List ScrEcc) :
    s.KeepsWf (execShadowGroupStart core err s ecc) :=
  on_keepsWf s fun b hb => by
    cases b.dev.shadowSource core with
    | none => exact hb
    | some x => exact Box.onD_good _ _ (b.scrReads_good _ _ _ _ hb)

theorem execVerdict_keepsWf (core : Fin 6144) (s : State) : s.KeepsWf (execVerdict core s) :=
  on_keepsWf s fun b hb => elim_good _ _ _ hb fun x => b.vote_good core x hb

theorem execVerdictReceive_keepsWf (core : Fin 6144) (s : State) : s.KeepsWf (execVerdictReceive core s) :=
  on_keepsWf s fun b hb => b.receiveVerdict_good core hb

theorem execSampleAbandon_keepsWf (core : Fin 6144) (s : State) : s.KeepsWf (execSampleAbandon core s) :=
  on_keepsWf s fun b hb => b.abandonSample_good core hb

/-! ### Merge engines -/

theorem execGather_keepsWf (a : Act) (s : State) : s.KeepsWf (execGather a s) :=
  greq_keepsWf s fun b x hb => b.gatherRun_good a x hb

theorem execScatter_keepsWf (a : Act) (s : State) : s.KeepsWf (execScatter a s) :=
  greq_keepsWf s fun b x hb => b.scatterRun_good x hb

theorem execGreqCopy_keepsWf (a : Act) (s : State) : s.KeepsWf (execGreqCopy a s) :=
  on_keepsWf s fun b hb => b.greq_good a _ _ _ hb fun b _ hb =>
    Box.copyPairRun_good _ _ (ite_good _ _ _ (elim_good _ _ _ hb fun _ => b.onD_good _ hb) hb)

theorem execPack_keepsWf (a : Act) (s : State) : s.KeepsWf (execPack a s) :=
  greq_keepsWf s fun b x hb => b.packRun_good x hb

theorem execUnpack_keepsWf (a : Act) (s : State) : s.KeepsWf (execUnpack a s) :=
  greq_keepsWf s fun b x hb => b.unpackRun_good x hb

theorem execRowfetch_keepsWf (a : Act) (s : State) : s.KeepsWf (execRowfetch a s) :=
  greq_keepsWf s fun b x hb => b.rowfetchRun_good a x hb

theorem execPatch_keepsWf (a : Act) (s : State) : s.KeepsWf (execPatch a s) :=
  greq_keepsWf s fun b x hb => b.patchRun_good a x hb

theorem execListclr_keepsWf (a : Act) (s : State) : s.KeepsWf (execListclr a s) :=
  on_keepsWf s fun b hb => b.greq_good a _ _ _ hb fun b x hb => b.listclrRun_good x hb

theorem execAudit_keepsWf (a : Act) (s : State) : s.KeepsWf (execAudit a s) :=
  work_keepsWf s fun b _ hb =>
    ite_good _ _ _ (b.onD_good _ hb) (Box.auditRun_good _ _ _ (b.onD_good _ hb))

/-! ### Small actions and Knots -/

theorem execTwait_keepsWf (a : Act) (s : State) : s.KeepsWf (execTwait a s) :=
  work_keepsWf s fun _ _ hb => hb

theorem execSwst_keepsWf (a : Act) (s : State) : s.KeepsWf (execSwst a s) :=
  work_keepsWf s fun b _ hb => b.onD_good _ hb

theorem execHmap_keepsWf (a : Act) (s : State) (ecc : List ScrEcc) : s.KeepsWf (execHmap a s ecc) :=
  work_keepsWf s fun b x hb => b.hmap_good a ecc x hb

theorem execHfree_keepsWf (a : Act) (s : State) : s.KeepsWf (execHfree a s) :=
  work_keepsWf s fun b _ hb => Box.losePower_good _ _ (b.onD_good _ hb)

theorem execKarr_keepsWf (a : Act) (s : State) : s.KeepsWf (execKarr a s) :=
  gate_keepsWf s fun b x hb => ite_good _ _ _ (b.karrRemote_good a x hb) (b.onD_good _ hb)

theorem execKarrw_keepsWf (a : Act) (s : State) : s.KeepsWf (execKarrw a s) :=
  work_keepsWf s fun b _ hb => b.onD_good _ hb

theorem execKnotArrive_keepsWf (n : Nat) (s : State) : s.KeepsWf (execKnotArrive n s) :=
  on_keepsWf s fun b hb => b.knotArrive_good n hb

/-! ### Queues -/

theorem execQueueDoorbell_keepsWf (q : Fin 9) (v : W32) (s : State) : s.KeepsWf (execQueueDoorbell q v s) :=
  on_keepsWf s fun b hb => b.doorbell_good q _ hb

theorem execCqheadWrite_keepsWf (q : Fin 9) (v : W32) (s : State) : s.KeepsWf (execCqheadWrite q v s) :=
  on_keepsWf s fun b hb => b.cqHeadWrite_good q _ hb

theorem execMgmtQueueEnable_keepsWf (v : W32) (s : State) : s.KeepsWf (execMgmtQueueEnable v s) :=
  on_keepsWf s fun b hb => b.mgmtEnable_good v hb

theorem execEntryFetch_keepsWf (q : Fin 9) (s : State) : s.KeepsWf (execEntryFetch q s) :=
  on_keepsWf s fun b hb => b.fetchEntry_good q hb

theorem execCompletionWrite_keepsWf (q : Fin 9) (s : State) : s.KeepsWf (execCompletionWrite q s) :=
  on_keepsWf s fun b hb => b.writeCompletion_good q hb

/-! ### Collectives -/

theorem execColl_keepsWf (a : Act) (s : State) : s.KeepsWf (execColl a s) :=
  gate_keepsWf s fun b x hb =>
    ite_good _ _ _ (b.onD_good _ hb) (ite_good _ _ _ hb (b.collRun_good a x hb))

theorem execCollData_keepsWf (p : Fin 64) (k : Packet) (s : State) : s.KeepsWf (execCollData p k s) :=
  packetOf_keepsWf s fun b hb => b.takeCollData_good k hb

theorem execCollReady_keepsWf (p : Fin 64) (k : Packet) (s : State) : s.KeepsWf (execCollReady p k s) :=
  ctrlOf_keepsWf s fun b hb => b.takeReady_good k hb

theorem execCollDone_keepsWf (p : Fin 64) (k : Packet) (s : State) : s.KeepsWf (execCollDone p k s) :=
  ctrlOf_keepsWf s fun b hb => b.takeDone_good k hb

theorem execCollRelease_keepsWf (p : Fin 64) (k : Packet) (s : State) : s.KeepsWf (execCollRelease p k s) :=
  ctrlOf_keepsWf s fun b hb => b.takeRelease_good k hb

theorem execCollAbort_keepsWf (p : Fin 64) (k : Packet) (s : State) : s.KeepsWf (execCollAbort p k s) :=
  ctrlOf_keepsWf s fun b hb => b.takeAbort_good k hb

theorem execCollTimeout_keepsWf (plan : Fin 1024) (inst : Fin 64) (s : State) : s.KeepsWf (execCollTimeout plan inst s) :=
  on_keepsWf s fun b hb => by
    split
    · exact ite_good _ _ _ (b.collFail_good _ _ _ _ hb) hb
    · exact hb

/-! ### Experts -/

theorem execDispatch_keepsWf (a : Act) (s : State) : s.KeepsWf (execDispatch a s) :=
  greq_keepsWf s fun b x hb => b.dispatchRun_good x hb

theorem execDispatchReplay_keepsWf (a : Act) (s : State) : s.KeepsWf (execDispatchReplay a s) :=
  greq_keepsWf s fun b x hb => b.replayRun_good x hb

theorem execCombine_keepsWf (a : Act) (s : State) : s.KeepsWf (execCombine a s) :=
  greq_keepsWf s fun b x hb => b.combineRun_good x hb

/-! ### Vector unit, Hems and Presses -/

theorem execTopk_keepsWf (a : Act) (s : State) (ecc : List ScrEcc) : s.KeepsWf (execTopk a s ecc) :=
  workRead_keepsWf s fun b x hb => b.topkRun_good a x hb

theorem execHemf_keepsWf (a : Act) (s : State) (ecc : List ScrEcc) : s.KeepsWf (execHemf a s ecc) :=
  workRead_keepsWf s fun b x hb => b.hemfRun_good a x hb

theorem execHemb_keepsWf (a : Act) (s : State) (ecc : List ScrEcc) : s.KeepsWf (execHemb a s ecc) :=
  workRead_keepsWf s fun b x hb => b.hembRun_good a x hb

theorem execPressUpdate_keepsWf (a : Act) (s : State) : s.KeepsWf (execPressUpdate a s) :=
  work_keepsWf s fun b x hb => ite_good _ _ _ (b.onD_good _ hb) (Box.pressUpdateRun_good _ a x (b.onD_good _ hb))

theorem execPressNorm_keepsWf (a : Act) (s : State) : s.KeepsWf (execPressNorm a s) :=
  work_keepsWf s fun b x hb => ite_good _ _ _ (b.onD_good _ hb) (Box.pressNormRun_good _ x (b.onD_good _ hb))

/-! ### Launch, hang and the alignment of the Tape -/

theorem execActionLaunch_keepsWf (cs : CS) (w : W64) (rec : BitVec 256) (tack : BitVec 128) (report : Fin 12) (unit : Fin 16)
    (s : State) (same : Bool) : s.KeepsWf (execActionLaunch cs w rec tack report unit s same) :=
  on_keepsWf s fun b hb => b.actionLaunch_good cs w rec tack same report unit hb

theorem execEngineHang_keepsWf (e : Engine) (s : State) : s.KeepsWf (execEngineHang e s) :=
  on_keepsWf s fun b hb => b.hang_good e hb

theorem execTapeAlignRequest_keepsWf (p : Fin 64) (k : Packet) (jit2 jit3 : Int) (s : State) :
    s.KeepsWf (execTapeAlignRequest p k jit2 jit3 s) :=
  packetOf_keepsWf s fun b hb => ite_good _ _ _ hb (b.onD_good _ hb)

theorem execTapeAlignResponse_keepsWf (p : Fin 64) (k : Packet) (s : State) : s.KeepsWf (execTapeAlignResponse p k s) :=
  packetOf_keepsWf s fun b hb => ite_good _ _ _ (b.onD_good _ hb) hb

/-! ### Spools, run-ahead and Bastes -/

theorem execSpoolAccess_keepsWf (x : SpoolAcc) (s : State) : s.KeepsWf (execSpoolAccess x s) :=
  on_keepsWf s fun b hb => ite_good _ _ _ hb (ite_good _ _ _ (ite_good _ _ _ hb (b.serveLine_good x hb))
    (ite_good _ _ _ (b.answerLine_good _ hb) hb))

theorem execPatrolScrub_keepsWf (m : Fin 8) (ch : Fin 34) (addr line : Nat) (ecc : Ecc) (s : State) :
    s.KeepsWf (execPatrolScrub m ch addr line ecc s) :=
  onIf_keepsWf s fun b hb => b.decode_good _ _ _ _ _ _ _ hb

theorem execSpoolThermalSample_keepsWf (m : Fin 8) (temp : W16) (sensor : Fin 9) (s : State) :
    s.KeepsWf (execSpoolThermalSample m temp sensor s) :=
  onIf_keepsWf s fun b hb => b.thermSample_good _ temp _ hb

theorem execDarningDone_keepsWf (m : Fin 8) (ok : Bool) (errs : List (Nat × Nat × Ecc)) (s : State) :
    s.KeepsWf (execDarningDone m ok errs s) :=
  on_keepsWf s fun b hb => by
    dsimp only
    cases (b.dev.spool m).darn with
    | none => exact hb
    | some x =>
      have hc := b.copyErrors_good m x.src errs hb
      exact ite_good _ _ _ hb (ite_good _ _ _ (Box.onD_good _ _ hc) (Box.onD_good _ _ hc))

theorem execRunAheadFetch_keepsWf (x : AheadBy) (ecc : Ecc) (s : State) : s.KeepsWf (execRunAheadFetch x ecc s) :=
  on_keepsWf s fun b hb => b.runAhead_good x ecc hb

theorem execBasteGranuleCopy_keepsWf (g : Nat) (s : State) : s.KeepsWf (execBasteGranuleCopy g s) :=
  on_keepsWf s fun b hb => b.copyGranule_good g hb

theorem execBasteGranuleDrained_keepsWf (id : Fin 16) (ok : Option (Fin 8)) (s : State) :
    s.KeepsWf (execBasteGranuleDrained id ok s) :=
  onIf_keepsWf s fun b hb => b.drainStep_good _ _ hb

/-! ### Control instructions, the end of a run, bare mode and descriptors -/

/-- A stream command that is presented leads to `b'` when its guard holds, and else only advances the stream. -/
theorem Box.presented_good (b : Box) (cs : CS) (w : W64) (o : Nat) (b' : Box) (hb : b.good) (hb' : b'.good) :
    (if b.dev.presented cs w o then (if (b.dev.stream cs).guard w then b' else b.onD fun d => d.advance cs) else b).good :=
  ite_good _ _ _ (ite_good _ _ _ hb' (b.onD_good _ hb)) hb

theorem execAbort_keepsWf (cs : CS) (w : W64) (s : State) : s.KeepsWf (execAbort cs w s) :=
  on_keepsWf s fun b hb => b.presented_good cs w _ _ hb (b.abort_good cs w hb)

theorem execSwld_keepsWf (cs : CS) (w : W64) (s : State) (same : Bool) : s.KeepsWf (execSwld cs w s same) :=
  on_keepsWf s fun b hb => b.presented_good cs w _ _ hb (b.swld_good cs w same hb)

theorem execRunEnd_keepsWf (ctx : Fin 8) (s : State) : s.KeepsWf (execRunEnd ctx s) :=
  on_keepsWf s fun b hb => by
    cases b.dev.endingOf ctx with
    | none => exact hb
    | some how => exact Box.tryRetire_good _ (b.finishRun_good _ _ _ hb)

theorem execSpareSuitesDone_keepsWf (b : Fin 24) (k : Fin 16) (ok : Bool) (s : State) :
    s.KeepsWf (execSpareSuitesDone b k ok s) :=
  on_keepsWf s fun x hx => x.spareTested_good _ _ ok hx

theorem execBareModeEntry_keepsWf (s : State) : s.KeepsWf (execBareModeEntry s) :=
  onIf_keepsWf s fun b hb => Box.flushMsgs_good _ (b.onD_good _ hb)

theorem execDescQuery_keepsWf (c : Ici) (s : State) : s.KeepsWf (execDescQuery c s) :=
  ici_keepsWf s fun k b hb => b.fields_good k _ _ _ hb fun b hb => b.withAddr_good k _ _ _ _ _ _ _ hb fun b hb =>
    Box.ok_good _ k _ _ (b.wrClean_good _ _ hb)

/-! ### Links, flits and the boot -/

theorem execHeartbeatTimeout_keepsWf (p : Fin 64) (s : State) : s.KeepsWf (execHeartbeatTimeout p s) :=
  onIf_keepsWf s fun b hb => b.seamDown_good _ _ _ hb

theorem execHeartbeatReceive_keepsWf (p : Fin 64) (body : BitVec 1920) (s : State) : s.KeepsWf (execHeartbeatReceive p body s) :=
  onIf_keepsWf s fun b hb => b.takeHeartbeat_good _ _ hb

theorem execLaneLeave_keepsWf (p : Fin 64) (lane : Fin 4) (trigger : LaneTrigger) (s : State) :
    s.KeepsWf (execLaneLeave p lane trigger s) :=
  onIf_keepsWf s fun b hb => b.laneLeaves_good _ _ trigger hb

theorem execLaneRetrainDone_keepsWf (p : Fin 64) (lane : Fin 4) (s : State) : s.KeepsWf (execLaneRetrainDone p lane s) :=
  onIf_keepsWf s fun b hb => b.laneDone_good _ _ hb

theorem execLaneRetrainTimeout_keepsWf (p : Fin 64) (lane : Fin 4) (s : State) : s.KeepsWf (execLaneRetrainTimeout p lane s) :=
  onIf_keepsWf s fun b hb => b.laneFailed_good _ _ hb

theorem execFlitReceive_keepsWf (p : Fin 65) (lane : Fin 8) (flit : BitVec 2048) (corr unc : Nat) (s : State) :
    s.KeepsWf (execFlitReceive p lane flit corr unc s) :=
  onIf_keepsWf s fun b hb => b.takeFlit_good _ _ flit corr unc hb

theorem execDeviceReportsReady_keepsWf (fails : List (Nat × Nat)) (s : State) : s.KeepsWf (execDeviceReportsReady fails s) :=
  onIf_keepsWf s fun b hb => b.reportReady_good fails hb

/-! ### Registers and the aperture -/

theorem execBmDrainAtBoundary_keepsWf (v : W32) (s : State) : s.KeepsWf (execBmDrainAtBoundary v s) :=
  onIf_keepsWf s fun b hb => b.bmDrain_good _ hb

theorem execBmDrainAtOnce_keepsWf (v : W32) (s : State) : s.KeepsWf (execBmDrainAtOnce v s) :=
  onIf_keepsWf s fun b hb => b.bmDrain_good _ hb

theorem Box.warmReset_good (b : Box) (env : BootEnv) (hb : b.good) : (b.warmReset env).good :=
  Box.onD_good _ _ (b.onS_good _ hb fun s hs => s.lostScr_wf _ _ hs)

theorem execWarmReset_keepsWf (v : W32) (env : BootEnv) (s : State) : s.KeepsWf (execWarmReset v env s) :=
  onIf_keepsWf s fun b hb => b.warmReset_good env hb

theorem execApertureAccess_keepsWf (off : BitVec 40) (n : Nat) (data : Option (List Byte)) (s : State) :
    s.KeepsWf (execApertureAccess off n data s) :=
  on_keepsWf s fun b hb => b.aperture_good _ n data hb

theorem execCompanionWrite_keepsWf (a : Nat) (data : List Byte) (s : State) : s.KeepsWf (execCompanionWrite a data s) :=
  on_keepsWf s fun b hb => b.store.wrMem_wf _ _ hb

/-! ### Schedules, the link of the Yoke and power -/

theorem execSchedLoad_keepsWf (c : Ici) (s : State) : s.KeepsWf (execSchedLoad c s) :=
  on_keepsWf s fun b hb => ite_good _ _ _ hb
    (Box.tryRetire_good _ (b.ici_good _ c _ _ hb fun k b hb => b.schedLoad_good k c.p hb))

theorem execYokeLaneLeave_keepsWf (lane : Fin 8) (trigger : LaneTrigger) (s : State) :
    s.KeepsWf (execYokeLaneLeave lane trigger s) :=
  onIf_keepsWf s fun b hb => b.yokeLaneLeave_good _ trigger hb

theorem execYokeLaneReturn_keepsWf (lane : Fin 8) (s : State) : s.KeepsWf (execYokeLaneReturn lane s) :=
  onIf_keepsWf s fun b hb => b.yokeLaneReturn_good _ hb

theorem execYokeLinkReturn_keepsWf (lanes : BitVec 8) (s : State) : s.KeepsWf (execYokeLinkReturn lanes s) :=
  onIf_keepsWf s fun b hb => b.yokeReturns_good lanes hb

theorem execCompanionAccessTimeout_keepsWf (a : Act) (s : State) : s.KeepsWf (execCompanionAccessTimeout a s) :=
  on_keepsWf s fun b hb => by
    split
    · exact ite_good _ _ _ (b.faultStop_good _ _ hb) hb
    · exact hb

theorem execPwrGoodRise_keepsWf (env : BootEnv) (s : State) : s.KeepsWf (execPwrGoodRise env s) :=
  on_keepsWf s fun b hb => b.pwrRise_good env hb

theorem execClockLoss_keepsWf (c : Fin 5) (s : State) : s.KeepsWf (execClockLoss c s) :=
  onIf_keepsWf s fun b hb => b.clockLoss_good _ hb

theorem execJunctionSample_keepsWf (bolts selv : List W16) (s : State) : s.KeepsWf (execJunctionSample bolts selv s) :=
  onIf_keepsWf s fun b hb => b.junctionSample_good bolts selv hb

theorem execHoldExit_keepsWf (s : State) : s.KeepsWf (execHoldExit s) :=
  on_keepsWf s fun b hb => by
    split
    · have hl (f : Dev → Dev) := Box.leaveHold_good _ 2 (b.onD_good f hb)
      exact ite_good _ _ _ (Box.onD_good _ _ (hl _)) (ite_good _ _ _ (Box.onD_good _ _ (hl _)) (hl _))
    · exact hb

theorem execJtagTckEdge_keepsWf (rising tms tdi trstN : Bool) (s : State) :
    s.KeepsWf (execJtagTckEdge rising tms tdi trstN s) := by
  unfold execJtagTckEdge
  split
  · exact next_keepsWf _ _ id
  · split
    · exact onDev_keepsWf _ _
    · split
      · exact refused_keepsWf _ _
      · split
        · exact onDev_keepsWf _ _
        · exact on_keepsWf s fun b hb => b.store.free_wf _ hb

/-! ### All commands -/

/-- The first arm holds the commands that touch the device only; the others cite what their operation keeps. -/
theorem exec_keepsWf (i : Instr) (s : State) : s.KeepsWf (exec i s) := by
  cases i with
  | nop | jmp | loop | setlc | getlc | stop | fence | add | sub | mul | and | or | xor | shl | shr | sar | min | max | minu
    | maxu | li | lih | gets | cmpeq | cmpne | cmplt | cmpge | cmpltu | cmpgeu | pand | por | pxor | pnot | pset | kwait
    | actionComplete | idleCheck | streamWatchdog | mgmtQueueDisable | commandAccept | ykDevirqClear | tpCtrlWrite
    | tpNowLowRead | tpLateRead | mbLostRead | mbOverrunClear | mbSelWrite | mbFlush | creaseWrite | registerWrite | i3cRead
    | pauseNoticeRepeat | retrainInplaceStart | retrainInplaceDone | channelFailingRepeat | spareChannelTest | paceGuardTick
    | ppsEdge | ppsTimeout | tapeRefFailover | tapeAlignTick | tapeOffsetTimeout | seamBringUp | seamBringupRetry
    | replayTimeout | ackTimer | heartbeatSend | levelControl | failedLaneRetry | yokeSilence | shadowSummary
    | batonHeartbeat | batonClaim | cutterTakeover | cutterRejoin | cutterRotationPeriod | rootRestartDone | diagExpiry
    | creaseSummary | mbDrain | periodicTrigger | hourMark | pwrGoodFall | clockReturn | railSample | linkMarginLow
    | originalRetrainDone | cutterFailure | powerRemoved | vauxInTolerance | i3cSetdasa =>
    exact onDev_keepsWf s _
  | abort cs w => exact execAbort_keepsWf cs w s
  | swld cs w same => exact execSwld_keepsWf cs w s same
  | twait a => exact execTwait_keepsWf a s
  | swst a => exact execSwst_keepsWf a s
  | karrw a => exact execKarrw_keepsWf a s
  | hmap a ecc => exact execHmap_keepsWf a s ecc
  | hfree a => exact execHfree_keepsWf a s
  | karr a => exact execKarr_keepsWf a s
  | arr a => exact execArr_keepsWf a s
  | chalk a => exact execChalk_keepsWf a s
  | topk a ecc => exact execTopk_keepsWf a s ecc
  | hemf a ecc => exact execHemf_keepsWf a s ecc
  | hemb a ecc => exact execHemb_keepsWf a s ecc
  | copy a ecc => exact execCopy_keepsWf a s ecc
  | xfer a ecc => exact execXfer_keepsWf a s ecc
  | load a => exact execLoad_keepsWf a s
  | store a ecc => exact execStore_keepsWf a s ecc
  | gather a => exact execGather_keepsWf a s
  | scatter a => exact execScatter_keepsWf a s
  | greqCopy a => exact execGreqCopy_keepsWf a s
  | pack a => exact execPack_keepsWf a s
  | unpack a => exact execUnpack_keepsWf a s
  | dispatch a => exact execDispatch_keepsWf a s
  | dispatchReplay a => exact execDispatchReplay_keepsWf a s
  | combine a => exact execCombine_keepsWf a s
  | rowfetch a => exact execRowfetch_keepsWf a s
  | patch a => exact execPatch_keepsWf a s
  | listclr a => exact execListclr_keepsWf a s
  | audit a => exact execAudit_keepsWf a s
  | coll a => exact execColl_keepsWf a s
  | pressUpdate a => exact execPressUpdate_keepsWf a s
  | pressNorm a => exact execPressNorm_keepsWf a s
  | actionLaunch cs w rec tack report unit same => exact execActionLaunch_keepsWf cs w rec tack report unit s same
  | runAheadFetch x ecc => exact execRunAheadFetch_keepsWf x ecc s
  | bobbinFill core unit ecc => exact execBobbinFill_keepsWf core unit ecc s
  | accumGroupStart core sample ecc => exact execAccumGroupStart_keepsWf core sample s ecc
  | arrayStep core err => exact execArrayStep_keepsWf core err s
  | groupDrain core => exact execGroupDrain_keepsWf core s
  | shadowGroupStart core err ecc => exact execShadowGroupStart_keepsWf core err s ecc
  | verdict core => exact execVerdict_keepsWf core s
  | verdictReceive core => exact execVerdictReceive_keepsWf core s
  | sampleAbandon core => exact execSampleAbandon_keepsWf core s
  | knotArrive n => exact execKnotArrive_keepsWf n s
  | runEnd ctx => exact execRunEnd_keepsWf ctx s
  | engineHang e => exact execEngineHang_keepsWf e s
  | queueDoorbell q v => exact execQueueDoorbell_keepsWf q v s
  | cqheadWrite q v => exact execCqheadWrite_keepsWf q v s
  | mgmtQueueEnable v => exact execMgmtQueueEnable_keepsWf v s
  | entryFetch q => exact execEntryFetch_keepsWf q s
  | completionWrite q => exact execCompletionWrite_keepsWf q s
  | bmDrainAtBoundary v => exact execBmDrainAtBoundary_keepsWf v s
  | bmDrainAtOnce v => exact execBmDrainAtOnce_keepsWf v s
  | warmReset v env => exact execWarmReset_keepsWf v env s
  | apertureAccess off n data => exact execApertureAccess_keepsWf off n data s
  | spoolAccess x => exact execSpoolAccess_keepsWf x s
  | patrolScrub m ch addr line ecc => exact execPatrolScrub_keepsWf m ch addr line ecc s
  | spoolThermalSample m temp sensor => exact execSpoolThermalSample_keepsWf m temp sensor s
  | darningDone m ok errs => exact execDarningDone_keepsWf m ok errs s
  | tapeAlignRequest p k jit2 jit3 => exact execTapeAlignRequest_keepsWf p k jit2 jit3 s
  | tapeAlignResponse p k => exact execTapeAlignResponse_keepsWf p k s
  | flitReceive p lane flit corr unc => exact execFlitReceive_keepsWf p lane flit corr unc s
  | heartbeatReceive p body => exact execHeartbeatReceive_keepsWf p body s
  | heartbeatTimeout p => exact execHeartbeatTimeout_keepsWf p s
  | laneLeave p lane trigger => exact execLaneLeave_keepsWf p lane trigger s
  | laneRetrainDone p lane => exact execLaneRetrainDone_keepsWf p lane s
  | laneRetrainTimeout p lane => exact execLaneRetrainTimeout_keepsWf p lane s
  | packetForward p k => exact execPacketForward_keepsWf p k s
  | rdReq p k => exact execRdReq_keepsWf p k s
  | rdResp p k => exact execRdResp_keepsWf p k s
  | wr p k => exact execWr_keepsWf p k s
  | wrAck p k => exact execWrAck_keepsWf p k s
  | knotArr p k => exact execKnotArr_keepsWf p k s
  | lateNotice p k => exact execLateNotice_keepsWf p k s
  | knotAck p k => exact execKnotAck_keepsWf p k s
  | collData p k => exact execCollData_keepsWf p k s
  | collReady p k => exact execCollReady_keepsWf p k s
  | collDone p k => exact execCollDone_keepsWf p k s
  | collRelease p k => exact execCollRelease_keepsWf p k s
  | collAbort p k => exact execCollAbort_keepsWf p k s
  | collTimeout plan inst => exact execCollTimeout_keepsWf plan inst s
  | lossNotice p k => exact execLossNotice_keepsWf p k s
  | yokeLaneLeave lane trigger => exact execYokeLaneLeave_keepsWf lane trigger s
  | yokeLaneReturn lane => exact execYokeLaneReturn_keepsWf lane s
  | yokeLinkReturn lanes => exact execYokeLinkReturn_keepsWf lanes s
  | companionAccessTimeout a => exact execCompanionAccessTimeout_keepsWf a s
  | basteGranuleCopy g => exact execBasteGranuleCopy_keepsWf g s
  | basteGranuleDrained id ok => exact execBasteGranuleDrained_keepsWf id ok s
  | spareSuitesDone b k ok => exact execSpareSuitesDone_keepsWf b k ok s
  | bareModeEntry => exact execBareModeEntry_keepsWf s
  | pwrGoodRise env => exact execPwrGoodRise_keepsWf env s
  | clockLoss c => exact execClockLoss_keepsWf c s
  | junctionSample bolts selv => exact execJunctionSample_keepsWf bolts selv s
  | holdExit => exact execHoldExit_keepsWf s
  | iciNop c | schedQuery c => exact ici_keepsWf s fun k b hb => b.ok_good k _ _ hb
  | descQuery c => exact execDescQuery_keepsWf c s
  | schedLoad c => exact execSchedLoad_keepsWf c s
  | fabConfig c | collPlanUnload c | collEpochSet c | powerLimitSet c =>
    exact ici_keepsWf s fun k b hb => b.fields_good k _ _ _ hb fun b hb => b.onD_good _ hb
  | patternUpdate c | thimbleUpdate c => exact ici_keepsWf s fun k b hb => b.startUpdate_good _ k c.p hb
  | jtagTckEdge rising tms tdi trstN => exact execJtagTckEdge_keepsWf rising tms tdi trstN s
  | companionWrite a data => exact execCompanionWrite_keepsWf a data s
  | deviceReportsReady fails => exact execDeviceReportsReady_keepsWf fails s
  | vecAdd a ecc | vecSub a ecc | vecMul a ecc | vecFma a ecc | vecDiv a ecc | vecSqrt a ecc | vecMin a ecc | vecMax a ecc
    | vecAbs a ecc | vecNeg a ecc | vecAdds a ecc | vecMuls a ecc | vecExp a ecc | vecLog a ecc | vecCvt a ecc
    | vecRedsum a ecc | vecRedmax a ecc | vecCmpgt a ecc | vecSel a ecc | vecIota a ecc =>
    exact vec_keepsWf s a ecc _
  | queueCreate c => exact ici_keepsWf s fun k b hb => b.queueCreate_good k c.p hb
  | queueDelete c => exact ici_keepsWf s fun k b hb => b.queueDelete_good k c.p hb
  | queueQuery c | seamQuery c | testResult c | pressCounts c | routeQuery c | sparseQuery c =>
    exact ici_keepsWf s fun k b hb => b.fields_good k _ _ _ hb fun b hb => b.giveBytes_good k _ _ _ _ hb
  | deviceInfo c | spoolQuery c | chanHealth c | fabQuery c | powerQuery c | telemetryQuery c | basteQuery c | healthQuery c
    | fwQuery c =>
    exact ici_keepsWf s fun k b hb => b.giveBytes_good k _ _ _ _ hb
  | companionMap c => exact ici_keepsWf s fun k b hb => b.companionMap_good k c.p hb
  | companionUnmap c => exact ici_keepsWf s fun k b hb => b.companionUnmap_good k c.p hb
  | descCreate c => exact ici_keepsWf s fun k b hb => b.descCreate_good k c.p hb
  | descDestroy c => exact ici_keepsWf s fun k b hb => b.descDestroy_good k c.p hb
  | pairCreate c | compatMap c | compatUnmap c | tapeRefSet c | basteRelease c | containConfig c =>
    exact ici_keepsWf s fun k b hb => b.onD_good _ hb
  | schedRun c => exact ici_keepsWf s fun k b hb => b.schedRun_good k c.p hb
  | schedStop c => exact ici_keepsWf s fun k b hb => b.schedStop_good k c.p hb
  | schedUnload c => exact ici_keepsWf s fun k b hb => b.schedUnload_good k c.p hb
  | spoolAlloc c => exact ici_keepsWf s fun k b hb => b.spoolAlloc_good k c.p hb
  | spoolFree c => exact ici_keepsWf s fun k b hb => b.spoolFree_good k c.p hb
  | chanRetrain c => exact ici_keepsWf s fun k b hb => b.chanRetrain_good k c.p hb
  | chanRetire c => exact ici_keepsWf s fun k b hb => b.chanRetire_good k c.p hb
  | chanTest c reads => exact ici_keepsWf s fun k b hb => b.chanTest_good k c.p reads hb
  | routeSet c => exact ici_keepsWf s fun k b hb => b.routeSet_good k c.p hb
  | seamCtrl c => exact ici_keepsWf s fun k b hb => b.seamCtrl_good k c.p hb
  | remoteMap c => exact ici_keepsWf s fun k b hb => b.remoteMap_good k c.p hb
  | exportSet c => exact ici_keepsWf s fun k b hb => b.exportSet_good k c.p hb
  | collPlanLoad c => exact ici_keepsWf s fun k b hb => b.planLoad_good k c.p hb
  | powerStateSet c => exact ici_keepsWf s fun k b hb => b.powerSet_good k c.p hb
  | basteTake c => exact ici_keepsWf s fun k b hb => b.basteTake_good k c.p hb
  | basteDrain c => exact ici_keepsWf s fun k b hb => b.basteDrain_good k c.p hb
  | basteRestore c => exact ici_keepsWf s fun k b hb => b.basteRestore_good k c.p hb
  | shadowConfig c => exact ici_keepsWf s fun k b hb => b.shadowConfig_good k c.p hb
  | cutterRotate c => exact ici_keepsWf s fun k b hb => b.cutterRotate_good k c.p hb
  | attestReport c => exact ici_keepsWf s fun k b hb => b.attest_good k c.p hb
  | identityCert c => exact ici_keepsWf s fun k b hb => b.identityCert_good k c.p hb
  | flashWrite c => exact ici_keepsWf s fun k b hb => b.flashCmd_good k c.p hb
  | diagAuthorise c => exact ici_keepsWf s fun k b hb => b.diagAuthorise_good k c.p hb
  | mbTriggerSet c => exact ici_keepsWf s fun k b hb => b.triggerSet_good k c.p hb
  | mbQuery c => exact ici_keepsWf s fun k b hb => b.mbQuery_good k c.p hb
  | mbClear c => exact ici_keepsWf s fun k b hb => b.mbClear_good k c.p hb
  | testRun c => exact ici_keepsWf s fun k b hb => b.testRun_good k c.p hb
  | pressSlotSet c => exact ici_keepsWf s fun k b hb => b.pressSlotSet_good k c.p hb
  | pressProgramSet c => exact ici_keepsWf s fun k b hb => b.pressProgramSet_good k c.p hb
  | pressSlotQuery c => exact ici_keepsWf s fun k b hb => b.pressSlotQuery_good k c.p hb
  | seqAssign c => exact ici_keepsWf s fun k b hb => b.seqAssign_good k c.p hb
  | seqRelease c => exact ici_keepsWf s fun k b hb => b.seqRelease_good k c.p hb
  | seqStage c => exact ici_keepsWf s fun k b hb => b.seqStage_good k c.p hb
  | seqQuery c => exact ici_keepsWf s fun k b hb => b.seqQuery_good k c.p hb
  | chalkConfig c => exact ici_keepsWf s fun k b hb => b.chalkConfig_good k c.p hb
  | chalkQuery c => exact ici_keepsWf s fun k b hb => b.chalkQuery_good k c.p hb

theorem step_keepsWf (s : State) : s.KeepsWf (step s) := by
  unfold step
  split
  · exact onDev_keepsWf s _
  · exact fun hs => exec_keepsWf _ (s.pop _) hs

/-- Settles O4: a tick of the Tape does not touch the store, and every command keeps its form (`exec_keepsWf`). -/
theorem stepKeepsMemoryCanonical : Obligations.StepKeepsMemoryCanonical :=
  fun s t hs ht => step_keepsWf s hs t ht

end Sys2Proof.Machine

/-! SUPPORT. The register accesses: what a command that changes only the device leaves, the halves of 64-bit registers, and the
record of an event in the ring. -/

namespace Sys2Proof.Machine

open Sys2Proof.Safety

/-! ### Commands that change only the device -/

theorem onDev_answers (s : State) (f : Dev → Dev) : ∃ t, s.onDev f = .next t ∧ sameStore s t ∧ t.dev = f s.dev :=
  ⟨_, rfl, ⟨rfl, rfl⟩, rfl⟩

/-- The same with the device written out. -/
theorem onDev_answers_of_eq {s : State} {f : Dev → Dev} {d : Dev} (h : f s.dev = d) :
    ∃ t, s.onDev f = .next t ∧ sameStore s t ∧ t.dev = d :=
  h ▸ onDev_answers s f

/-! ### The record of an event (17 R502, R507) -/

/-- Appending a record keeps those of the last 8,192 numbers. -/
theorem MbSt.mem_append_ring {m : MbSt} {r x : Rec} :
    x ∈ (m.append r).ring ↔ (x ∈ m.ring ∧ r.seq < x.seq + 8192) ∨ x = r := by
  simp [MbSt.append]

/-- Draining keeps the last record in the ring: at most one record, of lost ones, follows it. -/
theorem Dev.mem_mbDrainAll_ring {d : Dev} {x : Rec} (hx : x ∈ d.mb.ring) (hs : d.mb.head = x.seq + 1) :
    x ∈ d.mbDrainAll.mb.ring := by
  unfold Dev.mbDrainAll
  split
  · exact hx
  · dsimp only
    split
    · exact hx
    · refine MbSt.mem_append_ring.2 (.inl ⟨hx, ?_⟩)
      simp only [Dev.form, hs]
      omega

theorem Dev.mem_mbDrainer_ring {d : Dev} {x : Rec} (hx : x ∈ d.mb.ring) (hs : d.mb.head = x.seq + 1) :
    x ∈ d.mbDrainer.mb.ring := by
  unfold Dev.mbDrainer
  split
  · exact hx
  · exact Dev.mem_mbDrainAll_ring hx hs

theorem Dev.form_mem_raise_ring (d : Dev) (code die : Nat) (fw : Bool) (ctx : Option Nat) (l : List Int) :
    d.form code die fw ctx l (d.trigFor code ctx) ∈ (d.raise code die fw ctx l).mb.ring := by
  have hm := MbSt.mem_append_ring (m := d.mb).2 (.inr (rfl : d.form code die fw ctx l (d.trigFor code ctx) = _))
  unfold Dev.raise
  dsimp only
  split
  · exact Dev.mem_mbDrainer_ring hm rfl
  · exact hm

/-- An event raised on a device with the Measure Book of `s` is recorded. -/
theorem recorded_of_raise {s t : State} {d : Dev} {code die : Nat} {fw : Bool} {ctx : Option Nat} {l : List Int}
    (hmb : d.mb = s.dev.mb) (ht : t.dev = d.raise code die fw ctx l) : recorded code ctx l s t :=
  ⟨d.form code die fw ctx l (d.trigFor code ctx), ht ▸ d.form_mem_raise_ring code die fw ctx l,
    le_of_eq (congrArg MbSt.head hmb.symm), rfl, rfl, rfl⟩

/-! ### Halves of 64-bit registers (00 R11) -/

theorem Dev.write64_whole (d : Dev) (off : Nat) (y v : W64) (set : Dev → W64 → Dev) :
    d.write64 off y .whole v set = set { d with yoke := { d.yoke with lowHeld := del d.yoke.lowHeld off } } v := rfl

theorem Dev.write64_low (d : Dev) (off : Nat) (y v : W64) (set : Dev → W64 → Dev) :
    d.write64 off y .low v set =
      { d with yoke := { d.yoke with lowHeld := put d.yoke.lowHeld off (BitVec.ofNat 32 v.toNat) } } := rfl

theorem Dev.write64_high {d : Dev} {off : Nat} {l : W32} (h : get? d.yoke.lowHeld off = some l) (y v : W64)
    (set : Dev → W64 → Dev) :
    d.write64 off y .high v set = set { d with yoke := { d.yoke with lowHeld := del d.yoke.lowHeld off } }
      (BitVec.ofNat 64 (l.toNat + fld v 0 32 * 2 ^ 32)) := by
  simp [Dev.write64, Dev.halves, h]

/-- The low 32 bits of a 64-bit value, as a 32-bit access carries them. -/
def carried (x : W64) : W64 := BitVec.ofNat 64 (BitVec.ofNat 32 x.toNat).toNat

theorem carried_toNat (x : W64) : (carried x).toNat = x.toNat % 2 ^ 32 := by
  simp only [carried, BitVec.toNat_ofNat]
  omega

theorem ofNat_carried (x : W64) : BitVec.ofNat 32 (carried x).toNat = BitVec.ofNat 32 x.toNat := by
  apply BitVec.eq_of_toNat_eq
  simp [carried_toNat]

theorem fld_carried (x : W64) : fld (carried x) 0 32 = x.toNat % 2 ^ 32 := by
  simp [fld, carried_toNat]

theorem execRegisterWrite_answers {off : W16} {o bytes : Nat} {x : W64} {s : State} {d : Dev} (ho : off.toNat = o)
    (h : s.dev.registerWrite o bytes x = d) :
    ∃ t, execRegisterWrite off bytes x s = .next t ∧ sameStore s t ∧ t.dev = d :=
  onDev_answers_of_eq (ho ▸ h)

/-! ### Aperture registers (14 R408) -/

section
variable (w : Fin 16)

/-- The offset of aperture register `w`. -/
def aperOff : Nat := 0x600 + 8 * w.val

theorem regWidth_aperOff : regWidth (aperOff w) = some 64 := by revert w; decide
theorem regWidth_aperOff_high : regWidth (aperOff w + 4) = none := by revert w; decide
theorem ownRow_aperOff : ownRow (aperOff w) = false := by revert w; decide
theorem aperOff_toNat : (BitVec.ofNat 16 (aperOff w)).toNat = aperOff w := by revert w; decide
theorem aperOff_high_toNat : (BitVec.ofNat 16 (aperOff w + 4)).toNat = aperOff w + 4 := by revert w; decide
theorem aperOff_base : aperOff w / 8 * 8 = aperOff w := by unfold aperOff; omega
theorem aperOff_high_base : (aperOff w + 4) / 8 * 8 = aperOff w := by unfold aperOff; omega
theorem aperOff_aligned : aperOff w % 8 = 0 := by unfold aperOff; omega

theorem Dev.setReg64_aper (d : Dev) (v : W64) : d.setReg64 (aperOff w) v =
    { d with yoke := { d.yoke with aper := put d.yoke.aper w.val (v &&& BitVec.ofNat 64 (2 ^ 52 - 2 ^ 21 + 3)) } } := by
  have hn : (aperOff w - 0x0600) / 8 = w.val := by unfold aperOff; omega
  have hlo : 0x0600 ≤ aperOff w := by unfold aperOff; omega
  have hhi : aperOff w < 0x0680 := by unfold aperOff; omega
  unfold Dev.setReg64
  rw [if_neg (by omega), if_neg (by omega), if_neg (by omega), if_neg (by omega), if_pos ⟨hlo, hhi⟩, hn]
  rfl

/-- A 64-bit write applies at once. -/
theorem Dev.registerWrite_aper (d : Dev) (x : W64) : d.registerWrite (aperOff w) 8 x =
    { d with yoke := { d.yoke with
      aper := put d.yoke.aper w.val (x &&& BitVec.ofNat 64 (2 ^ 52 - 2 ^ 21 + 3))
      lowHeld := del d.yoke.lowHeld (aperOff w) } } := by
  simp [Dev.registerWrite, aperOff_aligned, regWidth_aperOff, ownRow_aperOff, Dev.write64_whole, Dev.setReg64_aper]

/-- A 32-bit write of the low half is held. -/
theorem Dev.registerWrite_aper_low (d : Dev) (x : W64) : d.registerWrite (aperOff w) 4 x =
    { d with yoke := { d.yoke with lowHeld := put d.yoke.lowHeld (aperOff w) (BitVec.ofNat 32 x.toNat) } } := by
  have ha : aperOff w % 4 = 0 := by unfold aperOff; omega
  have hw : d.write32At (aperOff w) (BitVec.ofNat 32 x.toNat) = d.write64 (aperOff w) (BitVec.ofNat 64 (d.reg (aperOff w)))
      .low (carried x) fun d x => d.setReg64 (aperOff w) x := by
    simp [Dev.write32At, regWidth_aperOff, aperOff_base, ownRow_aperOff, carried]
  rw [Dev.registerWrite, if_pos ⟨rfl, ha⟩, hw, Dev.write64_low, ofNat_carried]

/-- A 32-bit write of the high half applies it with the low half that is held. -/
theorem Dev.registerWrite_aper_high {d : Dev} {l : W32} (h : get? d.yoke.lowHeld (aperOff w) = some l) (x : W64) :
    d.registerWrite (aperOff w + 4) 4 x = { d with yoke := { d.yoke with
      aper := put d.yoke.aper w.val
        (BitVec.ofNat 64 (l.toNat + x.toNat % 2 ^ 32 * 2 ^ 32) &&& BitVec.ofNat 64 (2 ^ 52 - 2 ^ 21 + 3))
      lowHeld := del d.yoke.lowHeld (aperOff w) } } := by
  have ha : (aperOff w + 4) % 4 = 0 := by unfold aperOff; omega
  have hw : d.write32At (aperOff w + 4) (BitVec.ofNat 32 x.toNat) = d.write64 (aperOff w) (BitVec.ofNat 64 (d.reg (aperOff w)))
      .high (carried x) fun d x => d.setReg64 (aperOff w) x := by
    simp [Dev.write32At, regWidth_aperOff, regWidth_aperOff_high, aperOff_high_base, ownRow_aperOff, carried]
  rw [Dev.registerWrite, if_pos ⟨rfl, ha⟩, hw, Dev.write64_high h, fld_carried, Dev.setReg64_aper]

end

/-! ### The Tape's registers (02 R57) -/

theorem Dev.reg_tpNow (d : Dev) : d.reg 0x0800 = d.tape.now % 2 ^ 64 := by simp [Dev.reg, limN]

theorem Dev.readAccess_tpNow_low (d : Dev) (req : Nat) : d.readAccess req 0x0800 4 = d.tape.now % 2 ^ 32 := by
  have hw : regWidth 0x0800 = some 64 := by decide
  simp [Dev.readAccess, Dev.read32, hw, Dev.reg_tpNow, limN]

theorem Dev.readAccess_tpNow_high {d : Dev} {req : Nat} {v : W32} (h : get? d.tape.latch req = some v) :
    d.readAccess req 0x0804 4 = v.toNat := by
  have hw : regWidth 0x0804 = none := by decide
  simp [Dev.readAccess, Dev.read32, hw, h]

theorem Dev.readAccess_narrow (d : Dev) (req off : Nat) {n : Nat} (h : n < 4) : d.readAccess req off n = 0 := by
  unfold Dev.readAccess
  rw [if_neg (by omega), if_neg (by omega), if_pos h]

/-- TP_NOW_LOW_READ with its answer written out. -/
theorem execTpNowLowRead_eq (req : Nat) (s : State) : execTpNowLowRead req s = s.onDev fun d => { d with
    out := ⟨BitVec.ofNat 64 (d.tape.now % 2 ^ 32), [], false⟩
    tape := { d.tape with latch := put d.tape.latch req (BitVec.ofNat 32 (d.tape.now / 2 ^ 32)) } } := by
  simp only [execTpNowLowRead, Dev.answerRead, Dev.readAccess_tpNow_low]

theorem tpNowLowRead_latches {req : Nat} {s t : State} (h : execTpNowLowRead req s = .next t) :
    t.dev.readAccess req 0x0804 4 = s.dev.tape.now / 2 ^ 32 % 2 ^ 32 := by
  rw [execTpNowLowRead_eq] at h
  cases h
  exact Dev.readAccess_tpNow_high (v := BitVec.ofNat 32 (s.dev.tape.now / 2 ^ 32)) (get?_put_same _ _ _)

theorem execTpNowLowRead_answers (req : Nat) (s : State) : ∃ t, execTpNowLowRead req s = .next t ∧ sameStore s t
    ∧ t.dev = { s.dev with
      out := ⟨BitVec.ofNat 64 (s.dev.tape.now % 2 ^ 32), [], false⟩
      tape := { s.dev.tape with latch := put s.dev.tape.latch req (BitVec.ofNat 32 (s.dev.tape.now / 2 ^ 32)) } } := by
  rw [execTpNowLowRead_eq]
  exact onDev_answers s _

/-! ### YK_ registers -/

theorem Dev.registerWrite_devirqEn (d : Dev) (x : W64) :
    d.registerWrite 0x0014 4 x = { d with yoke := { d.yoke with devirqEn := BitVec.ofNat 3 x.toNat } } := by
  have hw : regWidth 0x0014 = some 32 := by decide
  have hb : BitVec.ofNat 3 (x.toNat % 2 ^ 32) = BitVec.ofNat 3 x.toNat := by
    apply BitVec.eq_of_toNat_eq
    simp only [BitVec.toNat_ofNat]
    omega
  have hs : d.write32At 0x0014 (BitVec.ofNat 32 x.toNat) = d.setReg32 0x0014 (BitVec.ofNat 32 x.toNat) := by
    simp [Dev.write32At, hw]
  rw [Dev.registerWrite, if_pos ⟨rfl, rfl⟩, hs, Dev.setReg32, if_pos rfl, BitVec.toNat_ofNat, hb]

/-- A bit of YK_DEVIRQ after a clear with the bits of `v`, where `set` is what the device sets (00 R13). -/
theorem devirq_cleared_bit (q set : BitVec 3) (v : W32) (same : Bool) {i : Nat} (hi : i < 3) :
    ((q &&& ~~~(BitVec.ofNat 3 v.toNat)) ||| (if same then set else 0)).getLsbD i =
      ((q.getLsbD i && !v.getLsbD i) || (same && set.getLsbD i)) := by
  cases same <;> simp [hi]

/-! ### CR_ registers (17 R518) -/

theorem crMask_bounds {off : Nat} {p : Nat × Nat} (h : crMask off = some p) : 0x3000 ≤ off ∧ off < 0x4000 := by
  by_contra hn
  unfold crMask at h
  rw [if_neg (by omega), if_neg (by omega), if_neg (by omega), if_neg (by omega), if_neg (by omega), if_neg (by omega),
    if_neg (by omega)] at h
  cases h

/-- In the diagnostic state the write sets the register, on a device without the low half that was held. -/
theorem Dev.creaseWrite_diag {d : Dev} {off m : Nat} (hm : crMask off = some (m, 64)) (hd : d.diag = true) (x : W64) :
    ∃ d' : Dev, d'.cr = d.cr ∧ d'.mb = d.mb ∧ d.creaseWrite off .whole x = d'.crSet off (x &&& BitVec.ofNat 64 m) := by
  obtain ⟨hlo, hhi⟩ := crMask_bounds hm
  refine ⟨{ d with yoke := { d.yoke with lowHeld := del d.yoke.lowHeld off } }, rfl, rfl, ?_⟩
  unfold Dev.creaseWrite
  rw [if_neg (by omega), if_neg (by simp [hd]), hm]
  rfl

theorem Dev.creaseWrite_outside {d : Dev} {off : Nat} (hlo : 0x3000 ≤ off) (hhi : off < 0x4000) (hd : d.diag = false)
    (x : W64) :
    d.creaseWrite off .whole x = d.oncePerSec 0xD009 fun d => d.ev 0xD009 (dieSelvage 0) none [off, 1] := by
  unfold Dev.creaseWrite
  rw [if_neg (by omega), if_pos (by simp [hd])]

theorem Dev.crSet_reg (d : Dev) (off : Nat) (v : W64) : getD (d.crSet off v).cr.regs off 0 = v := by
  unfold Dev.crSet
  dsimp only
  split
  · assumption
  · simp

theorem Dev.crSet_changed {d : Dev} {off : Nat} {v : W64} (h : getD d.cr.regs off 0 ≠ v) :
    ∃ d' : Dev, d'.mb = d.mb ∧ d.crSet off v =
      d'.raise 0xD006 (dieSelvage 0) false none [off, (getD d.cr.regs off 0).toNat, v.toNat] := by
  refine ⟨{ d with cr := { d.cr with regs := put d.cr.regs off v } }, rfl, ?_⟩
  unfold Dev.crSet
  rw [if_neg h]
  rfl

theorem Dev.oncePerSec_ev_cr (d : Dev) (key code die : Nat) (l : List Int) :
    (d.oncePerSec key fun d => d.ev code die none l).cr = d.cr := by
  unfold Dev.oncePerSec
  dsimp only
  split
  · rfl
  · simp

theorem Dev.oncePerSec_first {d : Dev} {key : Nat} (h : (getD d.secs key []).contains d.second = false) (f : Dev → Dev) :
    ∃ d' : Dev, d'.mb = d.mb ∧ d.oncePerSec key f = f d' := by
  refine ⟨{ d with secs := put d.secs key (getD d.secs key [] ++ [d.second]) }, rfl, ?_⟩
  unfold Dev.oncePerSec
  simp only [h]
  rfl

/-- In the diagnostic state a CR_ register takes the fields written, and a change is recorded. -/
theorem creaseWrite_in_diag {off : W16} {m : Nat} {s : State} (hm : crMask off.toNat = some (m, 64)) (hd : s.dev.diag = true)
    (x : W64) : ∃ t, execCreaseWrite off .whole x s = .next t ∧ sameStore s t
      ∧ getD t.dev.cr.regs off.toNat 0 = x &&& BitVec.ofNat 64 m
      ∧ (getD s.dev.cr.regs off.toNat 0 ≠ x &&& BitVec.ofNat 64 m →
          recorded 0xD006 none [off.toNat, (getD s.dev.cr.regs off.toNat 0).toNat, (x &&& BitVec.ofNat 64 m).toNat] s t) := by
  obtain ⟨t, hx, hs, ht⟩ := onDev_answers s fun d => d.creaseWrite off.toNat .whole x
  obtain ⟨d', hcr, hmb, hw⟩ := Dev.creaseWrite_diag hm hd x
  rw [hw] at ht
  refine ⟨t, hx, hs, ?_, fun hne => ?_⟩
  · rw [ht, Dev.crSet_reg]
  · rw [← hcr] at hne ⊢
    obtain ⟨d'', hmb', hset⟩ := Dev.crSet_changed hne
    exact recorded_of_raise (hmb'.trans hmb) (ht.trans hset)

/-- Outside it the registers stay, and the first write of a second is recorded. -/
theorem creaseWrite_outside_diag {off : W16} {m : Nat} {s : State} (hm : crMask off.toNat = some (m, 64))
    (hd : s.dev.diag = false) (x : W64) : ∃ t, execCreaseWrite off .whole x s = .next t ∧ sameStore s t
      ∧ t.dev.cr.regs = s.dev.cr.regs
      ∧ ((getD s.dev.secs 0xD009 []).contains (s.dev.tape.now / 1000000000) = false →
          recorded 0xD009 none [off.toNat, 1] s t) := by
  obtain ⟨hlo, hhi⟩ := crMask_bounds hm
  obtain ⟨t, hx, hs, ht⟩ := onDev_answers s fun d => d.creaseWrite off.toNat .whole x
  rw [Dev.creaseWrite_outside hlo hhi hd] at ht
  refine ⟨t, hx, hs, ?_, fun hsec => ?_⟩
  · rw [ht, Dev.oncePerSec_ev_cr]
  · obtain ⟨d', hmb, hev⟩ := Dev.oncePerSec_first hsec fun d => d.ev 0xD009 (dieSelvage 0) none [off.toNat, 1]
    exact recorded_of_raise hmb (ht.trans hev)

/-! ### Reads that clear (00 R14) -/

/-- A read of TP_LATE_n in the update step of an update returns the value before it and leaves the new one. -/
theorem execTpLateRead_update {n : Fin 8} {s : State} {old : W32} (h : get? s.dev.tape.lateWas n.val = some old) :
    ∃ t, execTpLateRead n s true = .next t ∧ sameStore s t
      ∧ t.dev = { s.dev with out := ⟨BitVec.ofNat 64 old.toNat, [], false⟩ } :=
  onDev_answers_of_eq (by simp only [if_true, h]; rfl)

theorem execTpLateRead_clears {n : Fin 8} {s : State} {same : Bool} (h : same = true → get? s.dev.tape.lateWas n.val = none) :
    ∃ t, execTpLateRead n s same = .next t ∧ sameStore s t ∧ t.dev = { s.dev with
      out := ⟨BitVec.ofNat 64 (getD s.dev.tape.late n.val 0).toNat, [], false⟩
      tape := { s.dev.tape with late := put s.dev.tape.late n.val 0, lateWas := del s.dev.tape.lateWas n.val } } := by
  have hn : (if same then get? s.dev.tape.lateWas n.val else none) = none := by cases same <;> simp_all
  exact onDev_answers_of_eq (by simp only [hn]; rfl)

theorem execMbLostRead_update {s : State} {old : Nat} (h : s.dev.mb.lostWas = some old) :
    ∃ t, execMbLostRead s true = .next t ∧ sameStore s t
      ∧ t.dev = { s.dev with out := ⟨BitVec.ofNat 64 (old % 2 ^ 32), [], false⟩ } :=
  onDev_answers_of_eq (by simp only [if_true, h]; rfl)

theorem execMbLostRead_clears {s : State} {same : Bool} (h : same = true → s.dev.mb.lostWas = none) :
    ∃ t, execMbLostRead s same = .next t ∧ sameStore s t ∧ t.dev = { s.dev with
      out := ⟨BitVec.ofNat 64 (s.dev.mb.lost % 2 ^ 32), [], false⟩, mb := { s.dev.mb with lost := 0, lostWas := none } } := by
  have hn : (if same then s.dev.mb.lostWas else none) = none := by cases same <;> simp_all
  exact onDev_answers_of_eq (by simp only [hn]; rfl)

theorem execYkDevirqClear_clears (v : W32) (s : State) (same : Bool) :
    ∃ t, execYkDevirqClear v s same = .next t ∧ sameStore s t
      ∧ t.dev = { s.dev with yoke := { s.dev.yoke with devirq := t.dev.yoke.devirq, devirqSet := t.dev.yoke.devirqSet } }
      ∧ ∀ i, i < 3 → t.dev.yoke.devirq.getLsbD i =
          ((s.dev.yoke.devirq.getLsbD i && !v.getLsbD i) || (same && s.dev.yoke.devirqSet.getLsbD i)) :=
  ⟨_, rfl, ⟨rfl, rfl⟩, rfl, fun _ hi => devirq_cleared_bit _ _ v same hi⟩

/-- Settles O38: one lemma for each register or kind of access. -/
theorem registersTakeTheirWrites : Obligations.RegistersTakeTheirWrites := by
  intro v x s
  refine ⟨fun w => ⟨?_, ?_, fun l hl => ?_⟩, ?_, fun req off n hn => s.dev.readAccess_narrow req off hn,
    fun req t ht => tpNowLowRead_latches ht, execYkDevirqClear_clears v s, fun req => execTpNowLowRead_answers req s,
    fun n same => ⟨execTpLateRead_clears, fun _ => execTpLateRead_update⟩, fun same => execMbLostRead_clears,
    fun _ => execMbLostRead_update, fun same => onDev_answers s _, onDev_answers s _,
    fun off m hm => ⟨fun hd => creaseWrite_in_diag hm hd x, fun hd => creaseWrite_outside_diag hm hd x⟩⟩
  · exact execRegisterWrite_answers (aperOff_toNat w) (s.dev.registerWrite_aper w x)
  · exact execRegisterWrite_answers (aperOff_toNat w) (s.dev.registerWrite_aper_low w x)
  · exact execRegisterWrite_answers (aperOff_high_toNat w) (Dev.registerWrite_aper_high w hl x)
  · exact execRegisterWrite_answers rfl (s.dev.registerWrite_devirqEn x)

end Sys2Proof.Machine

/-! SUPPORT. Arrivals at Knots: which arrival is next, what an arrival does to a counter Knot, and what the action that
issued it observes. -/

namespace Sys2Proof.Machine

/-! ### Changing one launched action -/

@[simp] theorem Dev.updAction_knots (d : Dev) (a : Act) (f : Action → Action) : (d.updAction a f).knots = d.knots := by
  unfold Dev.updAction
  split <;> rfl

@[simp] theorem Dev.updAction_arrivals (d : Dev) (a : Act) (f : Action → Action) :
    (d.updAction a f).arrivals = d.arrivals := by
  unfold Dev.updAction
  split <;> rfl

@[simp] theorem Dev.updAction_stream_gen (d : Dev) (a : Act) (f : Action → Action) :
    ((d.updAction a f).stream a.cs).gen = (d.stream a.cs).gen := by
  unfold Dev.updAction
  split
  · rfl
  · rw [Dev.updStream_same]

/-! ### The generation that an action observes (05 R161) -/

@[simp] theorem Dev.observeGen_knots (d : Dev) (a : Act) (g : W16) : (d.observeGen a g).knots = d.knots :=
  Dev.updAction_knots _ _ _

@[simp] theorem Dev.observeGen_arrivals (d : Dev) (a : Act) (g : W16) : (d.observeGen a g).arrivals = d.arrivals :=
  Dev.updAction_arrivals _ _ _

@[simp] theorem Dev.observeGen_stream_gen (d : Dev) (a : Act) (g : W16) : ((d.observeGen a g).stream a.cs).gen = g := by
  rw [Dev.observeGen, Dev.updAction_stream_gen, Dev.updStream_same]

/-! ### The arrival at a counter Knot (02 R58) -/

/-- A counter Knot after an arrival of `amount`. -/
def Knot.counted (k : Knot) (amount : Nat) : Knot :=
  { k with count := (k.count + amount) % k.target
           gen := BitVec.ofNat 16 (k.gen.toNat + (k.count + amount) / k.target) }

theorem Box.arrive_counter {b : Box} {n : Nat} {k : Knot} (hk : get? b.dev.knots n = some k) (hb : k.barrier = false)
    (ht : 1 ≤ k.target) (amount : Nat) :
    b.arrive n amount = b.onD fun d => { d with knots := put d.knots n (k.counted amount) } := by
  have hcount : k.count + amount - (k.count + amount) / k.target * k.target = (k.count + amount) % k.target :=
    Nat.mod_eq_sub_div_mul.symm
  have hgen : k.gen + BitVec.ofNat 16 ((k.count + amount) / k.target)
      = BitVec.ofNat 16 (k.gen.toNat + (k.count + amount) / k.target) := by
    rw [BitVec.ofNat_add, BitVec.ofNat_toNat, BitVec.setWidth_eq]
  have hne : k.target ≠ 0 := by omega
  simp [Box.arrive, hk, hb, hne, hcount, hgen, Knot.counted]

/-! ### The next arrival of an engine (01 R43; log 65) -/

theorem Dev.arrivalNext_iff (d : Dev) (i : Nat) (x : Arrival) :
    d.arrivalNext i x = true ↔
      ¬∃ y ∈ d.arrivals.take i, dieKnot y.knot = dieKnot x.knot ∧ d.arrivalEngine y.src = d.arrivalEngine x.src := by
  simp [Dev.arrivalNext]

theorem Box.knotArrive_waits {b : Box} {i : Nat} {x : Arrival} (hx : b.dev.arrivals[i]? = some x)
    (hn : b.dev.arrivalNext i x = false) : b.knotArrive i = b := by
  simp [Box.knotArrive, hx, Option.filter, hn]

/-- The device after arrival number `i`, of action `a` at counter Knot `k`: it leaves the list, its action observes the
Knot's GEN, and the Knot counts it. -/
def Dev.countArrival (d : Dev) (i : Nat) (x : Arrival) (a : Act) (k : Knot) : Dev :=
  let d := { d with arrivals := d.arrivals.eraseIdx i }.observeGen a k.gen
  { d with knots := put d.knots x.knot (k.counted x.amount) }

@[simp] theorem Dev.countArrival_knots (d : Dev) (i : Nat) (x : Arrival) (a : Act) (k : Knot) :
    (d.countArrival i x a k).knots = put d.knots x.knot (k.counted x.amount) :=
  congrArg (put · x.knot (k.counted x.amount)) (Dev.observeGen_knots _ a k.gen)

@[simp] theorem Dev.countArrival_arrivals (d : Dev) (i : Nat) (x : Arrival) (a : Act) (k : Knot) :
    (d.countArrival i x a k).arrivals = d.arrivals.eraseIdx i :=
  Dev.observeGen_arrivals _ a k.gen

@[simp] theorem Dev.countArrival_stream_gen (d : Dev) (i : Nat) (x : Arrival) (a : Act) (k : Knot) :
    ((d.countArrival i x a k).stream a.cs).gen = k.gen :=
  Dev.observeGen_stream_gen _ a k.gen

theorem Box.knotArrive_counter {b : Box} {i : Nat} {x : Arrival} {a : Act} {k : Knot} (hx : b.dev.arrivals[i]? = some x)
    (hn : b.dev.arrivalNext i x = true) (hsrc : x.src = .act a) (hk : get? b.dev.knots x.knot = some k)
    (hb : k.barrier = false) (ht : 1 ≤ k.target) : b.knotArrive i = b.onD fun d => d.countArrival i x a k := by
  have happlied : b.knotArrive i = Box.arrive
      (b.onD fun d => { d with arrivals := d.arrivals.eraseIdx i }.observeGen a k.gen) x.knot x.amount := by
    simp [Box.knotArrive, hx, Option.filter, hn, hsrc, hk, Box.onD]
  rw [happlied, Box.arrive_counter (k := k) (by simpa using hk) hb ht]
  rfl

/-! ### The command KNOT_ARRIVE -/

theorem exec_knotArrive (i : Nat) (s : State) :
    exec (.knotArrive i) s = .next (s.setBox (s.box.knotArrive i)) := rfl

/-- Settles O21: an arrival that is not next is not applied (`Box.knotArrive_waits`); the next one is observed by its action
and counted by the Knot (`Box.knotArrive_counter`). -/
theorem counterKnotArrival : Obligations.CounterKnotArrival := by
  intro i x a k s hx hsrc hk hb ht
  refine ⟨fun hbefore => ?_, fun hnone => ?_⟩
  · have hn : s.dev.arrivalNext i x = false := by
      rw [← Bool.not_eq_true, Dev.arrivalNext_iff, not_not]
      exact hbefore
    rw [exec_knotArrive, Box.knotArrive_waits hx hn]
    rfl
  · have hn : s.dev.arrivalNext i x = true := (Dev.arrivalNext_iff ..).2 hnone
    have hexec : exec (.knotArrive i) s = s.onDev fun d => d.countArrival i x a k := by
      rw [exec_knotArrive, Box.knotArrive_counter hx hn hsrc hk hb ht]
      rfl
    obtain ⟨t, hnext, hstore, hdev⟩ := onDev_answers s fun d => d.countArrival i x a k
    refine ⟨t, hexec.trans hnext, ?_, fun j hj => ?_, ?_, ?_, hstore⟩
    · rw [hdev, Dev.countArrival_knots, get?_put_same, Knot.counted]
    · rw [hdev, Dev.countArrival_knots, get?_put_ne _ _ hj]
    · rw [hdev, Dev.countArrival_arrivals]
    · rw [hdev, Dev.countArrival_stream_gen]

end Sys2Proof.Machine

/-! SUPPORT. The front command and the idle step, and the record of an event that more than one change of the device surrounds. -/

namespace Sys2Proof.Machine

open Sys2Proof.Safety

/-- Settles O1: both halves are the two branches of `step`. -/
theorem stepRunsTheFrontCommand : Obligations.StepRunsTheFrontCommand :=
  ⟨fun _ _ => rfl, fun _ => rfl⟩

/-- A command that, in this state, changes only the device. -/
theorem on_answers_onD {s : State} {f : Box → Box} {g : Dev → Dev} (h : f s.box = s.box.onD g) :
    ∃ t, s.on f = .next t ∧ sameStore s t ∧ t.dev = g s.dev := by
  unfold State.on
  rw [h]
  exact ⟨_, rfl, ⟨rfl, rfl⟩, rfl⟩

/-- An event is recorded whatever its command changes beside the Measure Book, before and after. -/
theorem recorded_of_raise_mb {s t : State} {d : Dev} {code die : Nat} {fw : Bool} {ctx : Option Nat} {l : List Int}
    (hmb : d.mb = s.dev.mb) (ht : t.dev.mb = (d.raise code die fw ctx l).mb) : recorded code ctx l s t := by
  obtain ⟨r, hr, h⟩ := recorded_of_raise (s := s) (t := s.setDev (d.raise code die fw ctx l)) (code := code) (ctx := ctx)
    (l := l) hmb rfl
  exact ⟨r, ht ▸ hr, h⟩

end Sys2Proof.Machine

/-! SUPPORT. The Tape and its sources: corrections, PPS edges, the package reference, the packets of the fabric's alignment, and
the pace guard (02 R51 to R67; 12 R377, R378). -/

namespace Sys2Proof.Machine

open Sys2Proof.Safety

/-! ### Corrections (02 R52, R56) -/

/-- A correction may be a step: no schedule runs, steps are allowed and no slew is due. -/
def Dev.maySetTape (d : Dev) : Prop := d.liveCtxs = [] ∧ d.tape.stepAllow = true ∧ d.tape.slewNext = false

theorem Dev.correct_step {d : Dev} {est : Int} (h0 : est ≠ 0) (h : d.maySetTape) :
    d.correct est = Dev.raise { d with tape := { d.tape with now := ((d.tape.now : Int) + est).toNat, offset := 0, slew := 0 } }
      0x9007 d.tapeDie false none [d.tape.now, (((d.tape.now : Int) + est).toNat : Nat)] := by
  obtain ⟨hlive, hallow, hnext⟩ := h
  simp [Dev.correct, h0, hlive, hallow, hnext, Dev.tapeDie]

theorem Dev.correct_slew {d : Dev} {est : Int} (h0 : est ≠ 0) (h : ¬d.maySetTape) :
    d.correct est = { d with tape := { d.tape with offset := est, slew := est, slewNext := false } } := by
  have hn : (d.liveCtxs.isEmpty && d.tape.stepAllow && !d.tape.slewNext) = false := by
    rw [Bool.eq_false_iff]
    intro hc
    simp only [Bool.and_eq_true, List.isEmpty_iff, Bool.not_eq_true'] at hc
    exact h ⟨hc.1.1, hc.1.2, hc.2⟩
  simp [Dev.correct, h0, hn]

/-- What a correction leaves: of the device only the Tape and what an event changes, of the Tape only its count and its slew. -/
theorem Dev.correct_tape (d : Dev) (est : Int) :
    (d.correct est).tape.source = d.tape.source ∧ (d.correct est).tape.ppsSeen = d.tape.ppsSeen := by
  unfold Dev.correct
  split
  · exact ⟨rfl, rfl⟩
  · dsimp only
    split
    · simp
    · exact ⟨rfl, rfl⟩

@[simp] theorem Dev.correct_fab (d : Dev) (est : Int) : (d.correct est).fab = d.fab := by
  unfold Dev.correct
  split
  · rfl
  · dsimp only
    split
    · simp
    · rfl

/-! ### TP_CTRL (02 R57) -/

theorem Dev.tpCtrl_tape (d : Dev) (v : W32) : (d.tpCtrl v).tape.now = d.tape.now
    ∧ (d.tpCtrl v).tape.source = (if fld v 0 2 = 3 then d.tape.source else fld v 0 2)
    ∧ (d.tpCtrl v).tape.ppsFalling = bitOf v 2 ∧ (d.tpCtrl v).tape.stepAllow = bitOf v 3 := by
  unfold Dev.tpCtrl
  generalize (if fld v 0 2 = 3 then d.tape.source else fld v 0 2) = src
  dsimp only
  split
  · rename_i h
    rw [h]
    split <;> exact ⟨rfl, rfl, rfl, rfl⟩
  · split <;> exact ⟨rfl, rfl, rfl, rfl⟩

theorem tpCtrlWrite_answers (v : W32) (s : State) : ∃ t, exec (.tpCtrlWrite v) s = .next t ∧ sameStore s t
    ∧ t.dev.tape.now = s.dev.tape.now ∧ t.dev.tape.source = (if fld v 0 2 = 3 then s.dev.tape.source else fld v 0 2)
    ∧ t.dev.tape.ppsFalling = v.getLsbD 2 ∧ t.dev.tape.stepAllow = v.getLsbD 3 :=
  ⟨_, rfl, ⟨rfl, rfl⟩, s.dev.tpCtrl_tape v⟩

/-! ### PPS (02 R54) -/

/-- The device after an accepted edge, before its correction. -/
def Dev.sawPps (d : Dev) : Dev :=
  { d with tape := { d.tape with lastPps := some d.tape.now, ppsSeen := true, ppsLost := false } }

/-- The device after the correction of an accepted edge: the edge stands at the corrected count. -/
def Dev.ppsCorrected (d : Dev) (est : Int) : Dev :=
  let c := d.sawPps.correct est
  { c with tape := { c.tape with lastPps := some c.tape.now } }

/-- No previous edge lies less than `gap` ns back. -/
theorem TapeSt.noEdgeWithin {t : TapeSt} {gap : Nat} (h : ∀ e, t.lastPps = some e → e + gap ≤ t.now) :
    t.lastPps.any (fun e => decide (t.now < e + gap)) = false := by
  cases he : t.lastPps with
  | none => rfl
  | some e => exact decide_eq_false (Nat.not_lt.2 (h e he))

theorem Dev.ppsEdge_eq {d : Dev} (hp : d.power.pwrGood = true) (hl : ∀ e, d.tape.lastPps = some e → e + 500000000 ≤ d.tape.now) :
    d.ppsEdge (!d.tape.ppsFalling) = if d.tape.source = 1 then d.ppsCorrected (toSecond d.tape.now) else d.sawPps := by
  have htaken : (!d.power.pwrGood || (!d.tape.ppsFalling) == d.tape.ppsFalling
      || d.tape.lastPps.any fun t => decide (d.tape.now < t + 500000000)) = false := by
    rw [hp, TapeSt.noEdgeWithin hl]
    cases d.tape.ppsFalling <;> rfl
  unfold Dev.ppsEdge Dev.ppsCorrected Dev.sawPps
  rw [htaken, if_neg Bool.false_ne_true]

theorem Dev.ppsCorrected_step {d : Dev} {est : Int} (h0 : est ≠ 0) (h : d.maySetTape) :
    (d.ppsCorrected est).tape.now = ((d.tape.now : Int) + est).toNat ∧ ∃ e : Dev, e.mb = d.mb
      ∧ (d.ppsCorrected est).mb = (e.raise 0x9007 d.tapeDie false none
          [d.tape.now, (((d.tape.now : Int) + est).toNat : Nat)]).mb := by
  unfold Dev.ppsCorrected
  rw [Dev.correct_step (d := d.sawPps) h0 h]
  refine ⟨?_, _, ?_, rfl⟩
  · simp only [Dev.raise_tape]
    rfl
  · rfl

theorem Dev.ppsCorrected_slew {d : Dev} {est : Int} (h0 : est ≠ 0) (h : ¬d.maySetTape) :
    (d.ppsCorrected est).tape.now = d.tape.now ∧ (d.ppsCorrected est).tape.slew = est
      ∧ (d.ppsCorrected est).tape.offset = est := by
  unfold Dev.ppsCorrected
  rw [Dev.correct_slew (d := d.sawPps) h0 h]
  exact ⟨rfl, rfl, rfl⟩

theorem toSecond_ne_zero {now : Nat} (h : now % 1000000000 ≠ 0) : toSecond now ≠ 0 := by
  unfold toSecond
  dsimp only
  split <;> omega

theorem toSecond_aligns (now : Nat) :
    ((now : Int) + toSecond now).toNat % 1000000000 = 0 ∧ (((now : Int) + toSecond now).toNat : Int) = now + toSecond now := by
  unfold toSecond
  dsimp only
  split <;> omega

theorem ppsEdge_answers {s : State} (hp : s.dev.power.pwrGood = true)
    (hl : ∀ e, s.dev.tape.lastPps = some e → e + 500000000 ≤ s.dev.tape.now) :
    ∃ t, exec (.ppsEdge (!s.dev.tape.ppsFalling)) s = .next t ∧ sameStore s t ∧ t.dev.tape.ppsSeen = true
      ∧ t.dev.tape.lastPps = some t.dev.tape.now
      ∧ (s.dev.tape.source ≠ 1 → t.dev.tape.now = s.dev.tape.now)
      ∧ (s.dev.tape.source = 1 → s.dev.maySetTape → s.dev.tape.now % 1000000000 ≠ 0 →
          t.dev.tape.now % 1000000000 = 0 ∧ (t.dev.tape.now : Int) = s.dev.tape.now + toSecond s.dev.tape.now
            ∧ recorded 0x9007 none [s.dev.tape.now, t.dev.tape.now] s t)
      ∧ (s.dev.tape.source = 1 → ¬s.dev.maySetTape → s.dev.tape.now % 1000000000 ≠ 0 → t.dev.tape.now = s.dev.tape.now
          ∧ t.dev.tape.slew = toSecond s.dev.tape.now ∧ t.dev.tape.offset = toSecond s.dev.tape.now) := by
  obtain ⟨t, hx, hs, ht⟩ := onDev_answers s fun d => d.ppsEdge (!s.dev.tape.ppsFalling)
  refine ⟨t, hx, hs, ?_⟩
  rw [Dev.ppsEdge_eq hp hl] at ht
  by_cases hsrc : s.dev.tape.source = 1
  · rw [if_pos hsrc] at ht
    rw [ht]
    refine ⟨(s.dev.sawPps.correct_tape _).2, rfl, fun h => absurd hsrc h, fun _ hst hr => ?_,
      fun _ hst hr => Dev.ppsCorrected_slew (toSecond_ne_zero hr) hst⟩
    obtain ⟨hnow, e, he, hmb⟩ := Dev.ppsCorrected_step (toSecond_ne_zero hr) hst
    obtain ⟨hmod, hval⟩ := toSecond_aligns s.dev.tape.now
    rw [hnow]
    exact ⟨hmod, hval, recorded_of_raise_mb he ((congrArg Dev.mb ht).trans hmb)⟩
  · rw [if_neg hsrc] at ht
    rw [ht]
    exact ⟨rfl, rfl, fun _ => rfl, fun h => absurd h hsrc, fun h => absurd h hsrc⟩

theorem ppsTimeout_answers {s : State} (hp : s.dev.power.pwrGood = true) (hsrc : s.dev.tape.source = 1)
    (hlost : s.dev.tape.ppsLost = false) (hw : max s.dev.tape.ppsFrom (s.dev.tape.lastPps.getD 0) + 1500000000 ≤ s.dev.tape.now) :
    ∃ t, exec .ppsTimeout s = .next t ∧ t.dev.tape = { s.dev.tape with ppsLost := true }
      ∧ recorded 0x900A none [((s.dev.tape.lastPps.getD 0 : Nat) : Int)] s t := by
  have hdue : (s.dev.power.pwrGood && s.dev.tape.source == 1 && !s.dev.tape.ppsLost
      && decide (s.dev.tape.ppsWait + 1500000000 ≤ s.dev.tape.now)) = true := by
    rw [hp, hsrc, hlost, decide_eq_true (show s.dev.tape.ppsWait + 1500000000 ≤ s.dev.tape.now from hw)]
    rfl
  obtain ⟨t, hx, -, ht⟩ := onDev_answers s fun d =>
    if d.power.pwrGood && d.tape.source == 1 && !d.tape.ppsLost && d.tape.ppsWait + 1500000000 ≤ d.tape.now then
      ({ d with tape := { d.tape with ppsLost := true } }).ev 0x900A d.tapeDie none [(d.tape.lastPps.getD 0 : Nat)]
    else d
  rw [if_pos hdue, Dev.ev_eq] at ht
  refine ⟨t, hx, ?_, recorded_of_raise (hmb := ?_) ht⟩
  · rw [ht, Dev.raise_tape]
  · rfl

/-! ### The package reference (02 R51) -/

/-- Clearing one bit of the counters that work. -/
theorem counterOk_cleared_bit (c : BitVec 4) (r : Nat) (hr : r < 4) {k : Nat} (hk : k < 4) :
    bitOf (c &&& ~~~(BitVec.ofNat 4 (2 ^ r))) k = (bitOf c k && decide (k ≠ r)) := by
  have key : ∀ (r k : Fin 4) (c : BitVec 4),
      bitOf (c &&& ~~~(BitVec.ofNat 4 (2 ^ r.val))) k.val = (bitOf c k.val && decide (k ≠ r)) := by decide
  simpa [Fin.ext_iff] using key ⟨r, hr⟩ ⟨k, hk⟩ c

/-- The device whose reference counter has failed. -/
def Dev.refFailed (d : Dev) : Dev :=
  { d with tape := { d.tape with counterOk := d.tape.counterOk &&& ~~~(BitVec.ofNat 4 (2 ^ d.tape.ref)) } }

theorem Dev.tapeWorks_refFailed {d : Dev} (hr : d.tape.ref < 4) {k : Nat} (hk : k < 4) :
    d.refFailed.tapeWorks k = (d.tapeWorks k && decide (k ≠ d.tape.ref)) := by
  unfold Dev.tapeWorks
  rw [Dev.refFailed, counterOk_cleared_bit _ _ hr hk]
  simp only [Bool.and_assoc, Bool.and_comm (decide _)]

theorem Dev.tapeFailover_eq {d : Dev} {new : Nat} (hr : d.tape.ref < 4) (hn : new < 4) (hne : new ≠ d.tape.ref)
    (hw : d.tapeWorks new = true) (hlow : ∀ k, k < new → k ≠ d.tape.ref → d.tapeWorks k = false) :
    d.tapeFailover = Dev.raise { d.refFailed with tape := { d.refFailed.tape with ref := new } } 0x900B (dieSelvage new) false
      none [d.tape.ref, new] := by
  have hfind : (List.range 4).find? d.refFailed.tapeWorks = some new := by
    rw [List.find?_range_eq_some]
    refine ⟨?_, List.mem_range.2 hn, fun k hk => ?_⟩
    · simp [Dev.tapeWorks_refFailed hr hn, hw, hne]
    · rw [Dev.tapeWorks_refFailed hr (by omega)]
      by_cases h : k = d.tape.ref
      · simp [h]
      · simp [hlow k hk h]
  have hold : d.refFailed.tapeWorks d.tape.ref = false := by simp [Dev.tapeWorks_refFailed hr hr]
  change d.refFailed.electRef = _
  unfold Dev.electRef
  rw [hfind]
  dsimp only
  rw [if_neg (show ¬new = d.refFailed.tape.ref from hne), if_neg (show ¬d.refFailed.tapeWorks d.refFailed.tape.ref = true by
    rw [show d.refFailed.tape.ref = d.tape.ref from rfl, hold]; exact Bool.false_ne_true), Dev.ev_eq]
  rfl

theorem tapeRefFailover_answers {s : State} {new : Nat} (hp : s.dev.power.pwrGood = true) (hr : s.dev.tape.ref < 4)
    (hn : new < 4) (hne : new ≠ s.dev.tape.ref) (hw : s.dev.tapeWorks new = true)
    (hlow : ∀ k, k < new → k ≠ s.dev.tape.ref → s.dev.tapeWorks k = false) :
    ∃ t, exec .tapeRefFailover s = .next t ∧ sameStore s t ∧ t.dev.tape.ref = new ∧ t.dev.tape.now = s.dev.tape.now
      ∧ bitOf t.dev.tape.counterOk s.dev.tape.ref = false ∧ recorded 0x900B none [s.dev.tape.ref, new] s t := by
  obtain ⟨t, hx, hs, ht⟩ := onDev_answers s fun d => if d.power.pwrGood then d.tapeFailover else d
  rw [if_pos hp, Dev.tapeFailover_eq hr hn hne hw hlow] at ht
  have htape : t.dev.tape = { s.dev.refFailed.tape with ref := new } := by rw [ht, Dev.raise_tape]
  have hbit : bitOf s.dev.refFailed.tape.counterOk s.dev.tape.ref = false := by
    unfold Dev.refFailed
    rw [counterOk_cleared_bit _ _ hr hr, decide_eq_false (fun h => h rfl), Bool.and_false]
  exact ⟨t, hx, hs, by rw [htape], by rw [htape]; rfl, by rw [htape]; exact hbit, recorded_of_raise (by rfl) ht⟩

/-! ### Handing a packet to a Seam (12 R359, R371) -/

/-- A change of the device at its links: only Seams, what they send and the counts of Crease differ, and nothing sent is taken
back. -/
def Dev.linksOnly (d e : Dev) : Prop := ∃ seams tx cr, e = { d with seams := seams, tx := tx, cr := cr } ∧ d.tx ⊆ tx

theorem Dev.linksOnly_refl (d : Dev) : d.linksOnly d := ⟨_, _, _, rfl, fun _ h => h⟩

theorem Dev.linksOnly_trans {d e f : Dev} (h : d.linksOnly e) (h' : e.linksOnly f) : d.linksOnly f := by
  obtain ⟨_, _, _, rfl, hsub⟩ := h
  obtain ⟨_, _, _, rfl, hsub'⟩ := h'
  exact ⟨_, _, _, rfl, fun _ hx => hsub' (hsub hx)⟩

theorem Dev.linksOnly_tx {d e : Dev} (h : d.linksOnly e) : d.tx ⊆ e.tx := by
  obtain ⟨_, _, _, rfl, hsub⟩ := h
  exact hsub

theorem Dev.linksOnly_fab {d e : Dev} (h : d.linksOnly e) : e.fab = d.fab := by
  obtain ⟨_, _, _, rfl, -⟩ := h
  rfl

theorem Dev.linksOnly_setSeam (d : Dev) (p : Nat) (x : Seam) : d.linksOnly (d.setSeam p x) := ⟨_, _, _, rfl, fun _ h => h⟩

theorem Dev.linksOnly_tell (d : Dev) (p : Nat) (x : TxItem) : d.linksOnly (d.tell p x) :=
  ⟨_, _, _, rfl, fun _ h => List.mem_append_left _ h⟩

theorem Dev.linksOnly_setCr (d : Dev) (x : CreaseSt) : d.linksOnly { d with cr := x } := ⟨_, _, _, rfl, fun _ h => h⟩

theorem Dev.linksOnly_crease (d : Dev) (off rate kind : Nat) (configured : Bool) :
    d.linksOnly (d.crease off rate kind configured).1 := by
  unfold Dev.crease
  cases harmed : d.crArmed && configured with
  | false => exact d.linksOnly_refl
  | true =>
    cases hsel : d.creaseSelected off rate (getD d.cr.counts off 0) with
    | false =>
      simp only [hsel]
      exact d.linksOnly_setCr _
    | true =>
      simp only [hsel]
      exact d.linksOnly_setCr _

theorem Dev.linksOnly_creaseFlit (d : Dev) (p : Nat) : d.linksOnly (d.creaseFlit p).1 := d.linksOnly_crease _ _ _ _

theorem Dev.linksOnly_foldl {α : Type} {l : List α} {f : Dev → α → Dev} (h : ∀ d a, Dev.linksOnly d (f d a)) {d e : Dev}
    (he : d.linksOnly e) : d.linksOnly (l.foldl f e) := by
  induction l generalizing e with
  | nil => exact he
  | cons a t ih => exact ih (Dev.linksOnly_trans he (h e a))

theorem Dev.linksOnly_sendFlit (d : Dev) (p kind : Nat) (body : List Byte) : d.linksOnly (d.sendFlit p kind body) := by
  unfold Dev.sendFlit
  generalize (d.seam p).emit d.now kind body (d.lanesOf p) = r
  dsimp only
  refine Dev.linksOnly_trans (d.linksOnly_setSeam p r.1) ?_
  split
  · refine Dev.linksOnly_trans (Dev.linksOnly_creaseFlit _ p) ?_
    split
    · exact Dev.linksOnly_refl _
    · exact Dev.linksOnly_tell _ _ _
  · exact Dev.linksOnly_tell _ _ _

theorem Dev.linksOnly_giveBack (d : Dev) (src : Option Nat) (k : Packet) : d.linksOnly (d.giveBack src k) := by
  cases src with
  | none => exact d.linksOnly_refl
  | some p => exact d.linksOnly_setSeam p _

theorem Dev.linksOnly_startWaiting (d : Dev) (p : Nat) : d.linksOnly (d.startWaiting p) := by
  unfold Dev.startWaiting
  generalize (d.seam p).starts d.now (d.lanesOf p).length [] (d.seam p).waitq.length = r
  split
  · exact d.linksOnly_refl
  · dsimp only
    split
    · exact d.linksOnly_refl
    · exact Dev.linksOnly_foldl (fun d _ => d.linksOnly_giveBack _ _)
        (Dev.linksOnly_foldl (fun d c => d.linksOnly_sendFlit p 1 _) (d.linksOnly_setSeam p _))

/-- A packet that is handed over waits at the Seam, where waiting packets then start. -/
theorem Dev.handPacket_eq (d : Dev) (p : Nat) (k : Packet) :
    ∃ x, d.handPacket p k = ((d.tell p (.packet k)).setSeam p x).startWaiting p := ⟨_, rfl⟩

theorem Dev.linksOnly_handPacket (d : Dev) (p : Nat) (k : Packet) : d.linksOnly (d.handPacket p k) := by
  obtain ⟨x, hx⟩ := d.handPacket_eq p k
  rw [hx]
  exact Dev.linksOnly_trans (d.linksOnly_tell p _) (Dev.linksOnly_trans (Dev.linksOnly_setSeam _ p x) (Dev.linksOnly_startWaiting _ p))

theorem Dev.handPacket_sends (d : Dev) (p : Nat) (k : Packet) : (p, TxItem.packet k) ∈ (d.handPacket p k).tx := by
  obtain ⟨x, hx⟩ := d.handPacket_eq p k
  rw [hx]
  exact Dev.linksOnly_tx (Dev.linksOnly_startWaiting _ p) (List.mem_append_right _ (List.mem_singleton_self _))

/-! ### Fabric alignment (12 R377, R378) -/

theorem Box.packetOf_arrives {ty : Nat} {p : Fin 64} {k : Packet} {s : State} (h : arrives ty p k s) (f : Box → Box) :
    s.box.packetOf ty p k f = f s.box := by
  obtain ⟨hup, hmine, hty, hok⟩ := h
  have hup' : (s.box.dev.seam p.val).up = true := hup
  have hmine' : s.box.dev.delivers k = true := hmine
  simp [Box.packetOf, Box.onPacket, Box.onPacketIn, hty, hup', hmine', hok, Dev.giveBack, Box.onD]

theorem tapeAlignTick_answers {s : State} {p : Nat} (hu : s.dev.fab.upstream = some p) (hp : (s.dev.seam p).up = true) :
    ∃ t, exec .tapeAlignTick s = .next t ∧ sameStore s t ∧ t.dev.fab.align = some s.dev.tape.now
      ∧ (p, TxItem.packet (alignPacket s.dev.fab.deviceId.toNat 0 s.dev.tape.now 0 0 0 0)) ∈ t.dev.tx := by
  obtain ⟨t, hx, hs, ht⟩ := onDev_answers s Dev.alignTick
  have htick : s.dev.alignTick = Dev.handPacket { s.dev with fab := { s.dev.fab with align := some s.dev.tape.now } } p
      (alignPacket s.dev.fab.deviceId.toNat 0 s.dev.tape.now 0 0 0 0) := by
    simp [Dev.alignTick, hu, hp, Dev.myId]
  rw [htick] at ht
  refine ⟨t, hx, hs, ?_, ht ▸ Dev.handPacket_sends _ _ _⟩
  rw [ht, Dev.linksOnly_fab (Dev.linksOnly_handPacket _ _ _)]

theorem Dev.stamp_eq {d : Dev} (h : d.crArmed = false) (jit : Int) : d.stamp jit = (d, d.tape.now) := by
  simp [Dev.stamp, Dev.creaseTape, Dev.crease, h]

theorem tapeAlignRequest_answers {p : Fin 64} {k : Packet} {s : State} (j2 j3 : Int) (h : arrives 0x10 p k s)
    (hreq : bitOf k.hdr 64 = false) (hcr : s.dev.crArmed = false) :
    ∃ t, exec (.tapeAlignRequest p k j2 j3) s = .next t ∧ sameStore s t
      ∧ (p.val, TxItem.packet (alignPacket s.dev.fab.deviceId.toNat 1 (lineN k 0 8) s.dev.tape.now s.dev.tape.now
          s.dev.fab.refId s.dev.fab.distance)) ∈ t.dev.tx := by
  have hbox : s.box.packetOf 0x10 p k (fun b => if bitOf k.hdr 64 then b else b.onD fun d => d.answerAlign p k j2 j3)
      = s.box.onD fun d => d.answerAlign p k j2 j3 := by
    rw [Box.packetOf_arrives h, if_neg (by simp [hreq])]
  obtain ⟨t, hx, hs, ht⟩ := on_answers_onD hbox
  refine ⟨t, hx, hs, ?_⟩
  rw [ht]
  simp only [Dev.answerAlign, Dev.stamp_eq hcr]
  exact Dev.handPacket_sends _ _ _

/-- What holds of both branches holds of a device chosen by a condition. -/
theorem Dev.ite_of (P : Dev → Prop) {c : Prop} [Decidable c] {x y : Dev} (hx : P x) (hy : P y) : P (if c then x else y) := by
  split <;> assumption

/-- The choice of an upstream changes which Seam it is and whether a slew is due, and no other part of the fabric or the Tape. -/
theorem Dev.chooseUpstream_keeps (d : Dev) : d.chooseUpstream.fab.dist = d.fab.dist
    ∧ ∃ b, d.chooseUpstream.tape = { d.tape with slewNext := b } := by
  unfold Dev.chooseUpstream
  refine Dev.ite_of (fun e => e.fab.dist = d.fab.dist ∧ ∃ b, e.tape = { d.tape with slewNext := b }) ⟨rfl, _, rfl⟩ ?_
  rw [Dev.ev_eq, Dev.raise_fab, Dev.raise_tape]
  exact ⟨rfl, _, rfl⟩

theorem Dev.offsetSeen_keeps (d : Dev) (est : Int) : (d.offsetSeen est).fab = d.fab
    ∧ ∃ b l, (d.offsetSeen est).tape = { d.tape with beyondSince := b, alignLost := l } := by
  unfold Dev.offsetSeen
  split
  · exact ⟨rfl, _, _, rfl⟩
  · refine Dev.ite_of (fun e => e.fab = d.fab ∧ ∃ b l, e.tape = { d.tape with beyondSince := b, alignLost := l }) ?_ ⟨rfl, _, _, rfl⟩
    rw [Dev.ev_eq, Dev.raise_fab, Dev.raise_tape]
    exact ⟨rfl, _, _, rfl⟩

/-- The device that has taken what a response advertises. -/
def Dev.heardAlign (d : Dev) (p : Nat) (k : Packet) : Dev :=
  { d with fab := { d.fab with
    dist := put d.fab.dist p (lineN k 24 2, lineN k 26 2)
    align := if d.fab.upstream == some p && d.fab.align == some (lineN k 0 8) then none else d.fab.align } }

/-- The estimate of R378 that a response makes. -/
def Dev.alignOffset (d : Dev) (k : Packet) : Int := alignEst (lineN k 0 8) (lineN k 8 8) (lineN k 16 8) d.tape.now

theorem Dev.takeAlign_dist (d : Dev) (p : Nat) (k : Packet) :
    get? (d.takeAlign p k).fab.dist p = some (lineN k 24 2, lineN k 26 2) := by
  unfold Dev.takeAlign
  dsimp only
  rw [(Dev.chooseUpstream_keeps _).1]
  split
  · rw [(Dev.offsetSeen_keeps _ _).1, Dev.correct_fab, get?_put_same]
  · exact get?_put_same _ _ _

theorem Dev.takeAlign_corrects {d : Dev} {p : Nat} {k : Packet} (hu : d.fab.upstream = some p)
    (ha : d.fab.align = some (lineN k 0 8)) (hsrc : d.tape.source = 2) :
    d.takeAlign p k = (let c := (d.heardAlign p k).correct (d.alignOffset k); c.offsetSeen c.tape.offset).chooseUpstream := by
  simp [Dev.takeAlign, hu, ha, hsrc, Dev.heardAlign, Dev.alignOffset]

theorem tapeAlignResponse_answers {p : Fin 64} {k : Packet} {s : State} (h : arrives 0x10 p k s)
    (hresp : bitOf k.hdr 64 = true) :
    ∃ t, exec (.tapeAlignResponse p k) s = .next t ∧ sameStore s t
      ∧ get? t.dev.fab.dist p.val = some (lineN k 24 2, lineN k 26 2)
      ∧ (s.dev.fab.upstream = some p.val → s.dev.fab.align = some (lineN k 0 8) → s.dev.tape.source = 2 →
          s.dev.alignOffset k ≠ 0 →
          (s.dev.maySetTape → t.dev.tape.now = ((s.dev.tape.now : Int) + s.dev.alignOffset k).toNat)
          ∧ (¬s.dev.maySetTape → t.dev.tape.now = s.dev.tape.now ∧ t.dev.tape.slew = s.dev.alignOffset k
              ∧ t.dev.tape.offset = s.dev.alignOffset k)) := by
  have hbox : s.box.packetOf 0x10 p k (fun b => if bitOf k.hdr 64 then b.onD fun d => d.takeAlign p k else b)
      = s.box.onD fun d => d.takeAlign p k := by
    rw [Box.packetOf_arrives h, if_pos hresp]
  obtain ⟨t, hx, hs, ht⟩ := on_answers_onD hbox
  refine ⟨t, hx, hs, ht ▸ s.dev.takeAlign_dist p k, fun hu ha hsrc h0 => ?_⟩
  rw [ht, Dev.takeAlign_corrects hu ha hsrc]
  generalize s.dev.alignOffset k = est at h0
  obtain ⟨b, hchoose⟩ := (Dev.chooseUpstream_keeps (let c := (s.dev.heardAlign p k).correct est
    c.offsetSeen c.tape.offset)).2
  obtain ⟨e, l, hseen⟩ := (Dev.offsetSeen_keeps ((s.dev.heardAlign p k).correct est)
    ((s.dev.heardAlign p k).correct est).tape.offset).2
  rw [hchoose, hseen]
  refine ⟨fun hst => ?_, fun hst => ?_⟩
  · rw [Dev.correct_step (d := s.dev.heardAlign p k) h0 hst, Dev.raise_tape]
    rfl
  · rw [Dev.correct_slew (d := s.dev.heardAlign p k) h0 hst]
    exact ⟨rfl, rfl, rfl⟩

theorem tapeOffsetTimeout_answers {s : State} {e : Nat} (hsrc : s.dev.tape.source = 2) (hlost : s.dev.tape.alignLost = false)
    (he : s.dev.tape.beyondSince = some e) (ho : 20 < s.dev.tape.offset.natAbs) (hw : e + 1000000 < s.dev.tape.now) :
    ∃ t, exec .tapeOffsetTimeout s = .next t ∧ t.dev.tape = { s.dev.tape with alignLost := true }
      ∧ recorded 0x9008 none [s.dev.tape.source, s.dev.tape.offset] s t := by
  have hdue : (s.dev.tape.source == 2 && !s.dev.tape.alignLost && decide (20 < s.dev.tape.offset.natAbs)
      && s.dev.tape.beyondSince.any fun t => decide (t + 1000000 < s.dev.tape.now)) = true := by
    rw [hsrc, hlost, he, decide_eq_true ho, Option.any_some, decide_eq_true hw]
    rfl
  obtain ⟨t, hx, -, ht⟩ := onDev_answers s fun d =>
    if d.tape.source == 2 && !d.tape.alignLost && decide (20 < d.tape.offset.natAbs)
        && d.tape.beyondSince.any (fun t => t + 1000000 < d.tape.now) then
      ({ d with tape := { d.tape with alignLost := true } }).ev 0x9008 d.tapeDie none [d.tape.source, d.tape.offset]
    else d
  rw [if_pos hdue, Dev.ev_eq] at ht
  exact ⟨t, hx, by rw [ht, Dev.raise_tape], recorded_of_raise (by rfl) ht⟩

/-! ### The pace guard (02 R65 to R67) -/

/-- The device that has read the monitors of the Bolts. -/
def Dev.withRates (d : Dev) (rates : List Nat) : Dev := { d with pace := { d.pace with rates := (List.range 24).zip rates } }

theorem Dev.saturation_pace (d : Dev) (ceil : Nat) :
    ∃ b, (d.saturation ceil).pace = { d.pace with saturated := b } := by
  unfold Dev.saturation
  refine Dev.ite_of (fun e => ∃ b, e.pace = { d.pace with saturated := b }) ?_
    (Dev.ite_of (fun e => ∃ b, e.pace = { d.pace with saturated := b }) ?_ ⟨_, rfl⟩)
  · rw [Dev.evFw_eq, Dev.raise_pace]
    exact ⟨_, rfl⟩
  · rw [Dev.evFw_eq, Dev.raise_pace]
    exact ⟨_, rfl⟩

/-- Of the pace only what the monitors read decides the step rate of the slowest Bolt. -/
theorem Dev.slowestRate_congr {d e : Dev} (h : d.pace.rates = e.pace.rates) : d.slowestRate = e.slowestRate := by
  simp only [Dev.slowestRate, h]

theorem guardStep_raises {v slowest pace ceil : Nat} (h : 100 * slowest < 103 * pace) :
    guardStep v slowest pace ceil = min (v + 5) (max 600 ceil) := by simp [guardStep, h]

theorem guardStep_lowers {v slowest pace ceil : Nat} (h : 106 * pace < 100 * slowest) :
    guardStep v slowest pace ceil = min (max 600 (v - 5)) (max 600 ceil) := by
  have hn : ¬100 * slowest < 103 * pace := by omega
  simp [guardStep, h, hn]

theorem guardStep_holds {v slowest pace ceil : Nat} (h : 103 * pace ≤ 100 * slowest) (h' : 100 * slowest ≤ 106 * pace) :
    guardStep v slowest pace ceil = min v (max 600 ceil) := by
  have hn : ¬100 * slowest < 103 * pace := by omega
  have hn' : ¬106 * pace < 100 * slowest := by omega
  simp [guardStep, hn, hn']

theorem Dev.paceTick_idle {d : Dev} (rates powerAt : List Nat) (hp : d.power.pwrGood = true) (hs : d.serving = true)
    (hc : d.paceClass = 0) : (d.paceTick rates powerAt).pace.vcore = (if d.power.hold then 600 else 650) := by
  have hs' : (d.withRates rates).serving = true := hs
  have hc' : (d.withRates rates).paceClass = 0 := hc
  unfold Dev.withRates at hs' hc'
  simp only [Dev.paceTick, hp, hs', hc', Bool.not_true, Bool.false_eq_true, if_false, if_true]

theorem Dev.paceTick_guards {d : Dev} (rates powerAt : List Nat) (hp : d.power.pwrGood = true) (hs : d.serving = true)
    (hc : d.paceClass ≠ 0) (hj : d.power.jst ≠ 1) : ∃ b, (d.paceTick rates powerAt).pace = { (d.withRates rates).pace with
      saturated := b
      vcore := guardStep d.pace.vcore (d.withRates rates).slowestRate (paceRate d.paceClass) (d.vcoreCeiling powerAt) } := by
  have hs' : (d.withRates rates).serving = true := hs
  have hc' : (d.withRates rates).paceClass = d.paceClass := rfl
  have hj' : (d.withRates rates).throttleCeiling = d.withRates rates := if_neg fun h => hj h.1
  have hv : (d.withRates rates).vcoreCeiling powerAt = d.vcoreCeiling powerAt := rfl
  unfold Dev.withRates at hs' hc' hj' hv ⊢
  simp only [Dev.paceTick, hp, hs', hc', hj', hv, hc, Bool.not_true, Bool.false_eq_true, if_false]
  obtain ⟨b, hb⟩ := Dev.saturation_pace { d with pace := { d.pace with
    rates := (List.range 24).zip rates
    vcore := guardStep d.pace.vcore (d.withRates rates).slowestRate (paceRate d.paceClass) (d.vcoreCeiling powerAt) } }
    (d.vcoreCeiling powerAt)
  exact ⟨b, hb⟩

theorem paceGuardTick_guards (rates powerAt : List Nat) {s : State} (hp : s.dev.power.pwrGood = true)
    (hs : s.dev.serving = true) (hc : s.dev.paceClass ≠ 0) (hj : s.dev.power.jst ≠ 1) :
    ∃ t, exec (.paceGuardTick rates powerAt) s = .next t ∧ sameStore s t ∧ t.dev.pace.rates = (List.range 24).zip rates
      ∧ t.dev.pace.vcore = guardStep s.dev.pace.vcore t.dev.slowestRate (paceRate s.dev.paceClass) (s.dev.vcoreCeiling powerAt) := by
  obtain ⟨t, hx, hss, ht⟩ := onDev_answers s fun d => d.paceTick rates powerAt
  obtain ⟨b, hpace⟩ := Dev.paceTick_guards rates powerAt hp hs hc hj
  rw [← ht] at hpace
  have hrates : t.dev.pace.rates = (s.dev.withRates rates).pace.rates := by rw [hpace]
  refine ⟨t, hx, hss, hrates, ?_⟩
  rw [Dev.slowestRate_congr hrates, hpace]

/-- Settles O40: one lemma for each command of the Tape; the guard's three ranges are the branches of `guardStep`. -/
theorem tapeFollowsItsSource : Obligations.TapeFollowsItsSource := by
  intro s
  refine ⟨fun v => tpCtrlWrite_answers v s, fun hp hl => ppsEdge_answers hp hl, fun hp hsrc hlost hw => ppsTimeout_answers hp hsrc hlost hw,
    fun new hp hr hn hne hw hlow => tapeRefFailover_answers hp hr hn hne hw hlow, fun p hu hp => tapeAlignTick_answers hu hp,
    fun p k j2 j3 h hreq hcr => tapeAlignRequest_answers j2 j3 h hreq hcr, fun p k h hresp => tapeAlignResponse_answers h hresp,
    fun e hsrc hlost he ho hw => tapeOffsetTimeout_answers hsrc hlost he ho hw,
    fun rates powerAt hp hs hc => ?_, fun rates powerAt hp hs hc hj => ?_⟩
  · obtain ⟨t, hx, hss, ht⟩ := onDev_answers s fun d => d.paceTick rates powerAt
    exact ⟨t, hx, hss, ht ▸ Dev.paceTick_idle rates powerAt hp hs hc⟩
  · obtain ⟨t, hx, hss, hrates, hv⟩ := paceGuardTick_guards rates powerAt hp hs hc hj
    exact ⟨t, hx, hss, hrates, fun h => hv.trans (guardStep_raises h), fun h => hv.trans (guardStep_lowers h),
      fun h h' => hv.trans (guardStep_holds h h')⟩

end Sys2Proof.Machine

/-! SUPPORT. A launch on the grid: the checks that a launch makes, each of which leaves the device as it is when it finds nothing,
and the entry of the action in its stream (02 R57, R62, R69; 05 R157, R163). -/

namespace Sys2Proof.Machine

open Sys2Proof.Safety

/-! ### What leaves every stream as it is -/

theorem Dev.stream_updCore_of (d : Dev) (k : Nat) {f : Core → Core} (cs : CS) (h : ∀ c, (f c).stream cs.st = c.stream cs.st) :
    (d.updCore k f).stream cs = d.stream cs := by
  unfold Dev.stream Dev.updCore
  by_cases e : (cs.core : Nat) = k
  · subst e; rw [Dev.setCore_core_same, h]
  · rw [Dev.setCore_core_ne _ _ _ _ e]

@[simp] theorem Core.setHandle_stream (c : Core) (h : Nat) (x : Handle) (st : Str) : (c.setHandle h x).stream st = c.stream st := by
  cases st <;> rfl

@[simp] theorem Dev.updUsers_stream (d : Dev) (core n : Nat) (f : Nat → Nat) (cs : CS) :
    (d.updUsers core n f).stream cs = d.stream cs := by
  unfold Dev.updUsers
  split
  · rfl
  · exact d.stream_updCore_of _ _ fun c => c.setHandle_stream _ _ _

theorem Dev.stream_foldl {α : Type} (l : List α) (f : Dev → α → Dev) (d : Dev) (cs : CS)
    (h : ∀ e a, (f e a).stream cs = e.stream cs) : (l.foldl f d).stream cs = d.stream cs :=
  List.foldlRecOn l f (motive := fun e => e.stream cs = d.stream cs) rfl fun e he a _ => (h e a).trans he

@[simp] theorem Dev.launchAt_stream (d : Dev) (a : Act) (t : Target) (cs : CS) : (d.launchAt a t).stream cs = d.stream cs := by
  cases t <;> rfl

@[simp] theorem Dev.notePatch_stream (d : Dev) (core : Nat) (x : Action) (cs : CS) : (d.notePatch core x).stream cs = d.stream cs := by
  refine Dev.stream_foldl _ _ _ _ fun e r => e.stream_updCore_of _ _ fun c => ?_
  cases c.handle r.h with
  | none => rfl
  | some h => exact c.setHandle_stream _ _ _

@[simp] theorem Dev.arith_stream (d : Dev) (ctx code die : Nat) (eng : Int) (index op fmt : Nat) (cs : CS) :
    (d.arith ctx code die eng index op fmt).stream cs = d.stream cs := by
  unfold Dev.arith Dev.condition Dev.first
  dsimp only
  split
  · rfl
  · rw [Dev.ev_eq]; simp [Dev.stream, Dev.core]; rfl

@[simp] theorem Dev.pressConds_stream (d : Dev) (x : Action) (fmt : Nat) (l : List (Nat × Nat)) (cs : CS) :
    (d.pressConds x fmt l).stream cs = d.stream cs :=
  Dev.stream_foldl _ _ _ _ fun e _ => e.arith_stream _ _ _ _ _ _ _ _

/-! ### An action enters its stream -/

/-- The stream once an action has launched from it. -/
def StreamSt.entered (s : StreamSt) (x : Action) : StreamSt :=
  { s with acts := s.acts ++ [x], count := s.count + 1, pc := s.pc + 1, nxt := none, wait := none, lateBy := (0, 0) }

theorem Dev.enter_stream (d : Dev) (cs : CS) (x : Action) (t : Target) : (d.enter cs x t).stream cs = (d.stream cs).entered x := by
  unfold Dev.enter
  dsimp only
  rw [Dev.updStream_same]
  change StreamSt.entered _ x = _
  congr 1
  have husers : (if Insn.opc x.w = 0x39 then d
      else (handlesNamed cs.core x).foldl (fun d e => d.updUsers e.1 e.2 (· + 1)) d).stream cs = d.stream cs := by
    split
    · rfl
    · exact Dev.stream_foldl _ _ _ _ fun e _ => e.updUsers_stream _ _ _ _
  refine Eq.trans ?_ husers
  generalize (if Insn.opc x.w = 0x39 then d else _) = d1
  have hpatch : ((d1.launchAt ⟨cs, x.id⟩ t).notePatch cs.core x).stream cs = d1.stream cs := by simp
  refine Eq.trans ?_ hpatch
  generalize (d1.launchAt ⟨cs, x.id⟩ t).notePatch cs.core x = d2
  split
  · rfl
  · split
    · split <;> rfl
    · rfl

/-! ### Checks that find nothing -/

theorem Box.touchShape_unchanged {b : Box} {n slot : Nat} (die : Nat) (eng : Int) (hp : ((b.dev.ctx n).shape slot).poison = false)
    (hmax : ∀ v, (b.dev.ctx n).shapeMax slot = some v → ((b.dev.ctx n).shape slot).value.toNat ≤ v) :
    b.touchShape n slot die eng = b := by
  unfold Box.touchShape
  simp only [hp, Bool.false_eq_true, if_false]
  split
  · rfl
  next v hv => rw [if_neg]; have := hmax v hv; omega

/-- An action keeps the array, coefficients and table entry only for its PRESS; they decide no range of an access. -/
theorem Dev.accessBad_cfg (d : Dev) (core : Nat) (x : Action) (cfg : List W32) :
    d.accessBad core { x with cfg := cfg } = d.accessBad core x := by
  unfold Dev.accessBad Dev.ranges Dev.readRanges Dev.writeRanges
  rfl

/-! ### The Tape's record of lateness decides no check -/

section
variable (d : Dev) (T : TapeSt)

theorem Dev.launchVals_tape (n : Nat) (x : NextAct) (r : BitVec 256) :
    ({ d with tape := T } : Dev).launchVals n x r = d.launchVals n x r := rfl
theorem Dev.paramBad_tape (n : Nat) (x : NextAct) (r : BitVec 256) :
    ({ d with tape := T } : Dev).paramBad n x r = d.paramBad n x r := rfl
theorem Dev.accessBad_tape (core : Nat) (x : Action) :
    ({ d with tape := T } : Dev).accessBad core x = d.accessBad core x := rfl
theorem Dev.slotBad_tape (n : Nat) (r : BitVec 256) :
    ({ d with tape := T } : Dev).slotBad n r = d.slotBad n r := rfl
theorem Dev.mkAction_tape (cs : CS) (n : Nat) (x : NextAct) (r : BitVec 256) (l : Nat) (cfg : List W32) :
    ({ d with tape := T } : Dev).mkAction cs n x r l cfg = d.mkAction cs n x r l cfg := rfl
end

/-! ### The launch -/

theorem Dev.creaseTape_unarmed {d : Dev} (align : Bool) (h : d.crArmed = false) : d.creaseTape align = (d, false) := by
  unfold Dev.creaseTape Dev.crease
  simp [h]

/-- A lateness within the slack is recorded with the Tape and nowhere else. -/
theorem Dev.lateness_within {late slack : Nat} (d : Dev) (cs : CS) (n tack input cause : Nat) (h : late ≤ slack) :
    ∃ T, d.lateness cs n tack late slack input cause = { d with tape := T } := by
  unfold Dev.lateness
  dsimp only
  rw [if_pos h]
  exact ⟨_, rfl⟩

/-- The record of a launch that is at most the slack late. -/
theorem Dev.late_within {slack l : Nat} (d : Dev) (cs : CS) (n : Nat) (x : NextAct)
    (h : ∀ e, x.e = some e → e ≤ l ∧ l ≤ e + slack) :
    ∃ T, x.e.elim d (fun e => d.lateness cs n x.tack (l - e) slack x.input x.cause) = { d with tape := T } := by
  cases he : x.e with
  | none => exact ⟨d.tape, rfl⟩
  | some e => exact d.lateness_within cs n _ _ _ (by have := h e he; omega)

theorem Box.touchShapes_unchanged {b : Box} {n : Nat} (die core : Nat) (slots : List Nat)
    (h : ∀ m ∈ slots, ((b.dev.ctx n).shape m).poison = false
      ∧ ∀ v, (b.dev.ctx n).shapeMax m = some v → ((b.dev.ctx n).shape m).value.toNat ≤ v) :
    slots.foldl (fun b s => b.touchShape n s die (b.dev.coreSlot core)) b = b :=
  List.foldlRecOn slots _ (motive := fun e => e = b) rfl fun e he m hm => by
    subst he
    obtain ⟨hp, hmax⟩ := h m hm
    exact Box.touchShape_unchanged _ _ hp hmax

theorem Box.pressAtLaunch_stream (b : Box) (x : Action) (cs : CS) : (b.pressAtLaunch x).dev.stream cs = b.dev.stream cs :=
  Dev.pressConds_stream _ _ _ _ _

/-- A launch whose checks find nothing. -/
theorem Box.launch_enters {b : Box} {cs : CS} {n : Nat} {x : NextAct} {r : BitVec 256} {slack l : Nat}
    (hcr : b.dev.crArmed = false) (hlate : ∀ e, x.e = some e → e ≤ l ∧ l ≤ e + slack)
    (hshape : ∀ m ∈ launchSlots r, ((b.dev.ctx n).shape m).poison = false
      ∧ ∀ v, (b.dev.ctx n).shapeMax m = some v → ((b.dev.ctx n).shape m).value.toNat ≤ v)
    (hlive : (b.dev.ctx n).live = true) (hparam : b.dev.paramBad n (b.dev.launchVals n x r) r = none)
    (haccess : b.dev.accessBad cs.core (b.dev.mkAction cs n (b.dev.launchVals n x r) r l []) = none)
    (hslot : Insn.opc x.w = 0x69 → b.dev.slotBad n r = none) :
    (b.launch cs n x r slack l).store = b.store
      ∧ ∃ cfg, (b.launch cs n x r slack l).dev.stream cs
          = (b.dev.stream cs).entered (b.dev.mkAction cs n (b.dev.launchVals n x r) r l cfg) := by
  obtain ⟨T, hT⟩ := b.dev.late_within cs n x hlate
  have hslot' : (if Insn.opc x.w = 0x69 then b.dev.slotBad n r else none) = none := by
    split
    next h => exact hslot h
    · rfl
  have haccess' : ∀ cfg, b.dev.accessBad cs.core (b.dev.mkAction cs n (b.dev.launchVals n x r) r l cfg) = none := fun cfg =>
    haccess ▸ b.dev.accessBad_cfg cs.core (b.dev.mkAction cs n (b.dev.launchVals n x r) r l []) cfg
  unfold Box.launch
  simp only [Box.onD, Dev.creaseTape_unarmed false hcr, hT]
  rw [Box.touchShapes_unchanged (b := { b with dev := { b.dev with tape := T } }) _ _ _ hshape]
  have hlive' : ¬(!(({ b.dev with tape := T } : Dev).ctx n).live) = true := by
    rw [show ({ b.dev with tape := T } : Dev).ctx n = b.dev.ctx n from rfl, hlive]; decide
  rw [if_neg hlive']
  simp only [Dev.launchVals_tape, Dev.paramBad_tape, Dev.mkAction_tape, Dev.accessBad_tape, Dev.slotBad_tape, hparam, haccess',
    hslot']
  refine ⟨by split <;> rfl, ?_⟩
  by_cases ho : Insn.opc x.w = 0x69
  · simp only [if_pos ho]
    exact ⟨_, (Dev.enter_stream _ _ _ _).trans (congrArg (StreamSt.entered · _) (Box.pressAtLaunch_stream _ _ _))⟩
  · simp only [if_neg ho]
    exact ⟨_, Dev.enter_stream _ _ _ _⟩

/-! ### The action that is next -/

/-- An action whose inputs and shape words are ready launches at the first grid point if its instant is reached. -/
theorem Box.tryLaunch_ready {b : Box} {cs : CS} {n : Nat} {x : NextAct} {r : BitVec 256} (slack report : Nat)
    (hin : b.dev.inputsReady cs n x r = true) (hshape : ∀ m ∈ launchSlots r, (b.dev.ctx n).shapeReady m = true)
    (he : ∀ e, x.e = some e → e ≤ ceilTo 4 b.dev.now) :
    b.tryLaunch cs n x r slack report
      = b.launch cs n { x with cause := b.dev.causeOf n x.input x.cause report } r slack (ceilTo 4 b.dev.now) := by
  have hslots : (launchSlots r).any (fun s => !(b.dev.ctx n).shapeReady s) = false := by
    rw [List.any_eq_false]
    intro m hm
    simp [hshape m hm]
  have hready : b.dev.unready cs n x r = none := by
    unfold Dev.inputsReady at hin
    simp only [Bool.and_eq_true, Bool.or_eq_true, bne_iff_ne] at hin
    obtain ⟨⟨hclear, hroom⟩, hcoll⟩ := hin
    unfold Dev.unready
    rw [hslots, hclear, hroom]
    rcases hcoll with h | h <;> simp [h]
  have hfind : (launchSlots r).find? (fun s => !(b.dev.ctx n).shapeReady s) = none := by
    rw [List.find?_eq_none]
    intro m hm
    simp [hshape m hm]
  have hreached : x.e.getD 0 ≤ ceilTo 4 b.dev.now := by
    cases h : x.e with
    | none => exact Nat.zero_le _
    | some e => exact he e h
  unfold Box.tryLaunch
  simp only [hready, Option.elim_none]
  rw [if_pos ⟨hreached, hin⟩, hfind]

/-- Reaching an update step changes nothing that the stream presents. -/
theorem Dev.offers_reach (d : Dev) (cs : CS) (same : Bool) (n : Nat) (w : W64) (rec : BitVec 256) (tack : BitVec 128) :
    (d.reach cs same).offers cs n w rec tack = d.offers cs n w rec tack := by
  unfold Dev.offers
  rw [Dev.stream_reach]
  rfl

theorem Core.setStream_stream (c : Core) (st : Str) : c.setStream st (c.stream st) = c := by cases st <;> rfl

/-- Putting the stream that stands there back after the update step changes nothing. -/
theorem Dev.updStream_reach_self {d : Dev} {cs : CS} {same : Bool} {f : StreamSt → StreamSt} (h : f (d.stream cs) = d.stream cs) :
    (d.reach cs same).updStream cs f = d.reach cs same := by
  unfold Dev.updStream Dev.setStream
  rw [Dev.stream_reach, h]
  unfold Dev.updCore
  have hs : ((d.reach cs same).core cs.core).stream cs.st = d.stream cs := Dev.stream_reach d cs same
  rw [← hs]
  dsimp only
  rw [Core.setStream_stream, Dev.core_reach]
  unfold Dev.reach Dev.updCore
  simp only [Dev.setCore, put_put_same]

/-- An action that is next, in a queue of its engine, tries to launch. -/
theorem Box.actionLaunch_next {b : Box} {cs : CS} {w : W64} {rec : BitVec 256} {tack : BitVec 128} {same : Bool}
    {report unit n : Nat} {x : NextAct} {r : BitVec 256} (hr : r = if Insn.fmtOf (Insn.opc w) = .C then rec else 0)
    (hc : (b.dev.stream cs).ctx = some n) (ho : b.dev.offers cs n w rec tack = true) (hx : (b.dev.stream cs).nxt = some x)
    (hroom : (b.dev.reach cs same).hasRoom ((b.dev.reach cs same).nextId cs) ((b.dev.reach cs same).target cs.core w r x.unit) = true) :
    b.actionLaunch cs w rec tack same report unit = (b.onD fun d => d.reach cs same).tryLaunch cs n x r (slackNs tack) report := by
  have hput : (b.dev.reach cs same).updStream cs (fun s => { s with nxt := some x }) = b.dev.reach cs same :=
    Dev.updStream_reach_self (by rw [← hx])
  unfold Box.actionLaunch
  rw [hc]
  simp only [ho, hx, Box.onD, Dev.stream_reach, Option.isNone_some, Bool.false_and, Bool.not_true, Bool.false_eq_true, if_false,
    Option.getD_some, ← hr, hroom, if_true, hput]

theorem Dev.offers_next {d : Dev} {cs : CS} {n : Nat} {w : W64} {rec : BitVec 256} {tack : BitVec 128} {x : NextAct}
    (h : d.offers cs n w rec tack = true) (hx : (d.stream cs).nxt = some x) : x.w = w ∧ (d.ctx n).live = true := by
  unfold Dev.offers Dev.issuing at h
  simp only [hx, Bool.and_eq_true, beq_iff_eq] at h
  tauto

/-- A command that, in this state, leaves the bytes. -/
theorem on_answers_store {s : State} {f : Box → Box} (h : (f s.box).store = s.box.store) :
    ∃ t, s.on f = .next t ∧ sameStore s t ∧ t.dev = (f s.box).dev :=
  on_answers_onD (g := fun _ => (f s.box).dev) (by unfold Box.onD; rw [← h])

/-- The first grid point at or after an instant. -/
theorem ceilTo_grid (t : Nat) : ceilTo 4 t % 4 = 0 ∧ t ≤ ceilTo 4 t ∧ ceilTo 4 t < t + 4 := by
  unfold ceilTo; omega

/-- Settles O22: the update step changes nothing that the launch reads, the checks find nothing, and the action enters its stream. -/
theorem launchesStandOnTheGrid : Obligations.LaunchesStandOnTheGrid := by
  unfold Obligations.LaunchesStandOnTheGrid
  intro cs w rec tack same report unit n x s
  dsimp only
  intro hc ho hx hroom hin hshape he hparam haccess hslot hcr
  generalize hr : (if Insn.fmtOf (Insn.opc w) = .C then rec else 0) = r at *
  obtain ⟨hw, hlive⟩ := Dev.offers_next ho hx
  rw [Dev.offers_reach] at ho
  obtain ⟨hstore, cfg, hstream⟩ := Box.launch_enters (b := s.box.onD fun d => d.reach cs same) (cs := cs)
    (x := { x with cause := (s.dev.reach cs same).causeOf n x.input x.cause report }) (slack := slackNs tack)
    (l := ceilTo 4 (s.dev.reach cs same).tape.now) hcr he (fun m hm => (hshape m hm).2) hlive hparam haccess
    (fun h => hslot (hw ▸ h))
  have hlaunch := Box.tryLaunch_ready (b := s.box.onD fun d => d.reach cs same) (slackNs tack) report hin
    (fun m hm => (hshape m hm).1) (fun e h => (he e h).1)
  rw [Dev.stream_reach] at hc hx
  have hrun := (Box.actionLaunch_next (b := s.box) (report := report) (unit := unit) hr.symm hc ho hx hroom).trans hlaunch
  obtain ⟨t, ht, hsame, hdev⟩ := on_answers_store (s := s) (f := fun b => b.actionLaunch cs w rec tack same report unit)
    ((congrArg Box.store hrun).trans hstore)
  replace hstream := (congrArg (fun d => Dev.stream d cs) (hdev.trans (congrArg Box.dev hrun))).trans hstream
  obtain ⟨hgrid, hafter, hsoon⟩ := ceilTo_grid (s.dev.reach cs same).tape.now
  exact ⟨t, cfg, ht, by rw [hstream]; rfl, rfl, rfl, rfl, rfl, hgrid, hafter, hsoon, by rw [hstream]; rfl, by rw [hstream]; rfl,
    by rw [hstream]; rfl, hsame⟩

end Sys2Proof.Machine

/-! SUPPORT. What goes on beside a run leaves it as it is: its state, its stops, its pending commands and its step, and the
completions that are due (05 R168, R174; 15 R446, R456; 17 R556). -/

namespace Sys2Proof.Machine

open Sys2Proof.Safety

/-! ### The run of a context -/

/-- What the end of a run reads of its context, and what it changes. -/
def Ctx.run (c : Ctx) : CtxState × Option Nat × Option Pend × List Pend × Nat := (c.st, c.stop, c.runCmd, c.stopCmds, c.step)

theorem Ctx.run_eq {c : Ctx} {st : CtxState} {stop : Option Nat} {cmd : Option Pend} {cmds : List Pend} {step : Nat}
    (h : c.run = (st, stop, cmd, cmds, step)) : c.st = st ∧ c.stop = stop ∧ c.runCmd = cmd ∧ c.stopCmds = cmds ∧ c.step = step := by
  simpa [Ctx.run] using h

/-- Every context's run is the same, the mode is, and no completion that was due is lost. -/
structure Dev.RunsKept (d e : Dev) : Prop where
  run : ∀ n, (e.ctx n).run = (d.ctx n).run
  bare : e.bare = d.bare
  due : ∀ q x, x ∈ (d.queue q).due → x ∈ (e.queue q).due

namespace Dev.RunsKept

theorem refl (d : Dev) : d.RunsKept d := ⟨fun _ => rfl, rfl, fun _ _ h => h⟩

theorem trans {d e f : Dev} (h : d.RunsKept e) (h' : e.RunsKept f) : d.RunsKept f :=
  ⟨fun n => (h'.run n).trans (h.run n), h'.bare.trans h.bare, fun q x hx => h'.due q x (h.due q x hx)⟩

/-- The same, with the later change first. -/
theorem after {d e f : Dev} (h' : e.RunsKept f) (h : d.RunsKept e) : d.RunsKept f := h.trans h'

theorem st {d e : Dev} (h : d.RunsKept e) (n : Nat) : (e.ctx n).st = (d.ctx n).st := congrArg (·.1) (h.run n)

theorem live {d e : Dev} (h : d.RunsKept e) (n : Nat) : (e.ctx n).live = (d.ctx n).live := by
  unfold Ctx.live
  rw [h.st n]

/-- A change that leaves the contexts and the queues. -/
theorem of_same {d e : Dev} (hc : e.ctxs = d.ctxs) (hq : e.queues = d.queues) (hb : e.bare = d.bare) : d.RunsKept e := by
  refine ⟨fun n => ?_, hb, fun q x hx => ?_⟩
  · simp only [Dev.ctx, hc]
  · simpa only [Dev.queue, hq] using hx

theorem foldl {α : Type} {f : Dev → α → Dev} (h : ∀ (d : Dev) (a : α), d.RunsKept (f d a)) (l : List α) (d : Dev) : d.RunsKept (l.foldl f d) :=
  List.foldlRecOn l f (motive := d.RunsKept) (refl d) fun e he a _ => he.trans (h e a)

/-- The same of a list of changes of a box. -/
theorem foldlBox {α : Type} {f : Box → α → Box} (h : ∀ (b : Box) (a : α), b.dev.RunsKept (f b a).dev) (l : List α) (b : Box) :
    b.dev.RunsKept (l.foldl f b).dev :=
  List.foldlRecOn l f (motive := fun e => b.dev.RunsKept e.dev) (refl b.dev) fun e he a _ => he.trans (h e a)

theorem raise (d : Dev) (code die : Nat) (fw : Bool) (ctx : Option Nat) (l : List Int) : d.RunsKept (d.raise code die fw ctx l) :=
  of_same (by simp) (by simp) (by simp)

theorem ev (d : Dev) (code die : Nat) (ctx : Option Nat) (l : List Int) : d.RunsKept (d.ev code die ctx l) := raise _ _ _ _ _ _
theorem evFw (d : Dev) (code : Nat) (ctx : Option Nat) (l : List Int) : d.RunsKept (d.evFw code ctx l) := raise _ _ _ _ _ _

theorem updCtx (d : Dev) (n : Nat) {f : Ctx → Ctx} (h : ∀ c, (f c).run = c.run) : d.RunsKept (d.updCtx n f) := by
  refine ⟨fun j => ?_, rfl, fun _ _ hx => hx⟩
  unfold Dev.updCtx
  by_cases hj : j = n
  · subst hj; rw [Dev.setCtx_ctx_same, h]
  · rw [Dev.setCtx_ctx_ne _ _ _ _ hj]

theorem complete (d : Dev) (k : Pend) (status event : Nat) (detail : W32) (result : W64) :
    d.RunsKept (d.complete k status event detail result) := by
  refine ⟨fun n => by simp, by simp, fun q x hx => ?_⟩
  cases hb : d.bare with
  | true => simpa [Dev.complete, hb] using hx
  | false =>
    rw [Dev.complete_queue _ _ _ _ _ _ _ hb]
    split
    · exact List.mem_append_left _ hx
    · exact hx

theorem endOpens (d : Dev) (p : OpenCmd → Bool) (status event : Nat) (detail : W32) (result : W64) :
    d.RunsKept (d.endOpens p status event detail result) :=
  after (foldl (fun d (o : OpenCmd) => complete d o.cmd status event detail result) _ _) (of_same rfl rfl rfl)

theorem abandonBaste (d : Dev) (id reason : Nat) : d.RunsKept (d.abandonBaste id reason) := by
  unfold Dev.abandonBaste
  dsimp only
  exact after (endOpens _ _ _ _ _ _) (after (evFw _ _ _ _) (of_same rfl rfl rfl))

/-! ### Writes of device memory -/

theorem copyGranule (b : Box) (g : Nat) : b.dev.RunsKept (b.copyGranule g).dev := by
  unfold Box.copyGranule
  split
  · exact refl _
  · split
    · exact abandonBaste _ _ _
    · exact of_same rfl rfl rfl

theorem wrDev (b : Box) (a : Nat) (l : List PB) : b.dev.RunsKept (b.wrDev a l).dev := by
  unfold Box.wrDev
  dsimp only
  exact trans (foldlBox copyGranule _ b) (of_same rfl rfl rfl)

theorem tWrite (b : Box) (t : Tens) (els : List (Nat × Nat × Bool)) : b.dev.RunsKept (b.tWrite t els).dev :=
  foldlBox (fun b (r : Nat × List PB) => wrDev b r.1 r.2) _ b

theorem undefEls (b : Box) (t : Desc) (first len : Nat) : b.dev.RunsKept (b.undefEls t first len).dev := by
  unfold Box.undefEls
  split
  · exact tWrite b _ _
  · exact refl _

/-! ### Failing collectives -/

theorem linksOnly {d e : Dev} (h : d.linksOnly e) : d.RunsKept e := by
  obtain ⟨_, _, _, rfl, -⟩ := h
  exact of_same rfl rfl rfl

theorem unreachable (d : Dev) (k : Packet) : d.RunsKept (d.unreachable k) := by
  unfold Dev.unreachable
  exact after (ev _ _ _ _ _) (of_same rfl rfl rfl)

theorem sendCtrl (d : Dev) (dst plan inst kind status slip : Nat) : d.RunsKept (d.sendCtrl dst plan inst kind status slip) := by
  unfold Dev.sendCtrl Dev.sendRouted
  split
  · exact refl d
  · split
    · exact linksOnly (d.linksOnly_handPacket _ _)
    · exact unreachable d _

theorem failColl (b : Box) (i : CollInst) (status reporter : Nat) (abort : Bool) :
    b.dev.RunsKept (b.failColl i status reporter abort).dev := by
  have htold : ∀ (l : List Nat) (f : Nat → Nat), b.dev.RunsKept
      (if abort then l.foldl (fun d m => d.sendCtrl (f m) i.plan i.inst 3 status 0) b.dev else b.dev) := by
    intro l f
    split
    · exact foldl (fun d m => sendCtrl d (f m) i.plan i.inst 3 status 0) l b.dev
    · exact refl _
  unfold Box.failColl
  dsimp only
  split
  · refine trans ?_ (undefEls _ _ _ _)
    exact trans (htold _ _) (trans (ev _ _ _ _ _) (of_same rfl rfl rfl))
  · exact trans (htold _ _) (trans (ev _ _ _ _ _) (of_same rfl rfl rfl))

theorem failColls (b : Box) (ctx status : Nat) : b.dev.RunsKept (b.failColls ctx status).dev :=
  foldlBox (fun b i => failColl b i status (getD b.dev.fab.plans i.plan ⟨0, 0, [], 0⟩).self true) _ b

/-! ### Summaries and the event of the end -/

theorem summary (d : Dev) (n code : Nat) (k : CountKind) (len : Nat) : d.RunsKept (d.summary n code k len) := by
  unfold Dev.summary
  dsimp only
  split
  · exact refl d
  · exact ev _ _ _ _ _

theorem chalkSummary (d : Dev) (n : Nat) : d.RunsKept (d.chalkSummary n) := by
  unfold Dev.chalkSummary
  exact foldl (fun d _ => ev d _ _ _ _) _ _

theorem summaries (d : Dev) (n : Nat) : d.RunsKept (d.summaries n) := by
  unfold Dev.summaries
  dsimp only
  refine trans ?_ (updCtx _ n fun _ => rfl)
  refine trans (trans ?_ (summary _ _ _ _ _)) (summary _ _ _ _ _)
  exact trans (trans (trans (summary _ _ _ _ _) (summary _ _ _ _ _)) (summary _ _ _ _ _)) (chalkSummary _ _)

theorem note (d : Dev) (n : Nat) (how : Ending) : d.RunsKept (d.note n how) := by
  cases how with
  | aborted => exact refl d
  | _ => exact ev _ _ _ _ _

/-! ### Handles, streams and work in flight -/

theorem giveFrames (d : Dev) (units : Nat) (spool : Option Nat) : d.RunsKept (d.giveFrames units spool) :=
  foldl (fun d (m : Nat) => show d.RunsKept (d.updSpool m _) from of_same rfl rfl rfl) _ d

theorem dropHandle (d : Dev) (core n : Nat) : d.RunsKept (d.dropHandle core n) := by
  unfold Dev.dropHandle
  split
  · exact refl d
  · dsimp only
    split
    · exact after (giveFrames _ _ _) (of_same rfl rfl rfl)
    · exact of_same rfl rfl rfl

theorem endHandles (d : Dev) (ctx : Nat) : d.RunsKept (d.endHandles ctx) :=
  trans (foldl (fun d (x : Nat × Nat) => dropHandle d x.1 x.2) _ d) (of_same rfl rfl rfl)

theorem unbind (d : Dev) (n : Nat) : d.RunsKept (d.unbind n) := of_same rfl rfl rfl

theorem discard (d : Dev) (n : Nat) : d.RunsKept (d.discard n) := of_same rfl rfl rfl

theorem settleDying (d : Dev) : d.RunsKept d.settleDying := by
  unfold Dev.settleDying
  split
  · exact refl d
  · dsimp only
    exact after (endOpens _ _ _ _ _ _) (of_same rfl rfl rfl)

theorem idleIfLast (d : Dev) : d.RunsKept d.idleIfLast := by
  unfold Dev.idleIfLast
  split
  · exact refl d
  · dsimp only
    generalize (if d.vcoreHeld = true then d.pace.vcore else 650) = v
    split
    · exact of_same rfl rfl rfl
    · exact after (evFw _ _ _ _) (of_same rfl rfl rfl)

theorem losePower (b : Box) (hs : List (Nat × Handle)) : b.dev.RunsKept (b.losePower hs).dev :=
  foldlBox (fun b x => foldlBox (fun b k => by split <;> exact refl _) _ b) _ b

/-! ### Clusters -/

theorem refreshAdvice (d : Dev) : d.RunsKept d.refreshAdvice := by
  unfold Dev.refreshAdvice
  dsimp only
  exact after (foldl (fun d _ => evFw d _ _ _) _ _) (of_same rfl rfl rfl)

theorem queueZeros (d : Dev) (ctx : Nat) (act : Option Act) (core : Nat) (h : Handle) : d.RunsKept (d.queueZeros ctx act core h) := by
  unfold Dev.queueZeros
  split
  · exact of_same rfl rfl rfl
  · exact refl d

theorem remap (b : Box) (r : RetireDue) (spare : Nat) : b.dev.RunsKept (b.remap r spare).dev := by
  unfold Box.remap
  dsimp only
  refine trans ?_ (foldl (fun d (h : Nat × Handle) => queueZeros d h.2.ctx none h.1 h.2) _ _)
  refine trans ?_ (refreshAdvice _)
  refine trans ?_ (evFw _ _ _ _)
  exact after (foldl (fun d _ => evFw d _ _ _) _ _) (of_same rfl rfl rfl)

theorem markReleased (d : Dev) (n k cause : Nat) : d.RunsKept (d.markReleased n k cause) := of_same rfl rfl rfl

theorem releaseHeld (d : Dev) : d.RunsKept d.releaseHeld := by
  refine foldl (fun d n => ?_) _ d
  split
  · split
    · exact refl d
    · exact after (markReleased _ _ _ _) (updCtx d n fun _ => rfl)
  · exact refl d

theorem tryRetire (b : Box) : b.dev.RunsKept b.tryRetire.dev := by
  have hremaps := foldlBox (fun b (r : RetireDue) => remap b r (r.spare.getD 0)) (b.dev.retireDue.filter b.dev.mayRemap) b
  unfold Box.tryRetire
  generalize List.foldl (fun b (r : RetireDue) => b.remap r (r.spare.getD 0)) b _ = e at hremaps ⊢
  exact after (releaseHeld e.dev) hremaps

end Dev.RunsKept

end Sys2Proof.Machine

/-! SUPPORT. The end of a run, the watchdog of a stream, and the hang of an engine (05 R167, R168, R174; 15 R436, R437). -/

namespace Sys2Proof.Machine

open Sys2Proof.Safety

/-! ### The end of a run -/

/-- A change of state, with its record and the Bastes that it abandons. -/
theorem Dev.setSt_runsKept (d : Dev) (n : Nat) (st : CtxState) (opc : Nat) :
    (d.updCtx n fun c => { c with st := st }).RunsKept (d.setSt n st opc) := by
  unfold Dev.setSt
  dsimp only
  split
  next h =>
    refine ⟨fun j => ?_, rfl, fun _ _ hx => hx⟩
    unfold Dev.updCtx
    by_cases hj : j = n
    · subst hj; rw [Dev.setCtx_ctx_same, ← h]
    · rw [Dev.setCtx_ctx_ne _ _ _ _ hj]
  · generalize (d.updCtx n fun c => { c with st := st }) = e
    have hev : e.RunsKept (if e.bare then e else e.evFw 0x0002 (some n) [(d.ctx n).st.num, st.num, opc]) := by
      split
      · exact .refl e
      · exact .evFw _ _ _ _
    split
    · exact hev.trans (.foldl (fun d i => .abandonBaste d i 1) _ _)
    · exact hev

theorem Dev.setSt_run (d : Dev) (n : Nat) (st : CtxState) (opc j : Nat) :
    ((d.setSt n st opc).ctx j).run = if j = n then { d.ctx n with st := st }.run else (d.ctx j).run := by
  rw [(d.setSt_runsKept n st opc).run j]
  unfold Dev.updCtx
  split
  next h => subst h; rw [Dev.setCtx_ctx_same]
  next h => rw [Dev.setCtx_ctx_ne _ _ _ _ h]

/-- What the end of a run does before its completions: the summaries and the event, the handles, the streams and the state. -/
def Dev.beforeEnd (d : Dev) (n : Nat) (how : Ending) (opc : Nat) : Dev :=
  ((((d.summaries n).note n how).endHandles n).unbind n).setSt n .loaded opc

/-- A context whose run has ended: nothing of the run is left in it. -/
def Ctx.cleared (c : Ctx) : Ctx :=
  { c with stop := none, stopFault := none, runCmd := none, stopCmds := [], hold := none, rhold := none, pauseWanted := none
           poisonSeen := false }

/-- The device once the context is cleared; completions follow. -/
def Dev.atEnd (d : Dev) (n : Nat) (how : Ending) (opc : Nat) : Dev :=
  ((d.beforeEnd n how opc).setCtx n ((d.beforeEnd n how opc).ctx n).cleared).idleIfLast

theorem Dev.finishRun_eq (d : Dev) (n : Nat) (how : Ending) (opc : Nat) :
    d.finishRun n how opc = ((d.beforeEnd n how opc).ctx n).stopCmds.foldl (fun d k => d.complete k 0 0)
      (match ((d.beforeEnd n how opc).ctx n).runCmd with
        | some k => (d.atEnd n how opc).complete k how.status how.event 0
            (BitVec.ofNat 64 (limN 32 ((d.beforeEnd n how opc).ctx n).step * 2 ^ 32))
        | none => d.atEnd n how opc) := rfl

theorem Dev.beforeEnd_runsKept (d : Dev) (n : Nat) (how : Ending) :
    d.RunsKept ((((d.summaries n).note n how).endHandles n).unbind n) :=
  (((Dev.RunsKept.summaries d n).trans (.note _ n how)).trans (.endHandles _ n)).trans (.unbind _ n)

theorem Dev.beforeEnd_run (d : Dev) (n : Nat) (how : Ending) (opc j : Nat) :
    ((d.beforeEnd n how opc).ctx j).run = if j = n then { d.ctx n with st := .loaded }.run else (d.ctx j).run := by
  have h := d.beforeEnd_runsKept n how
  unfold Dev.beforeEnd
  rw [Dev.setSt_run, h.run j]
  split
  · exact congrArg (fun r => (CtxState.loaded, r.2)) (h.run n)
  · rfl

theorem Dev.setSt_bare (d : Dev) (n : Nat) (st : CtxState) (opc : Nat) : (d.setSt n st opc).bare = d.bare :=
  (d.setSt_runsKept n st opc).bare

theorem Dev.atEnd_bare (d : Dev) (n : Nat) (how : Ending) (opc : Nat) : (d.atEnd n how opc).bare = d.bare := by
  have hsame : ∀ (e : Dev) (c : Ctx), (e.setCtx n c).bare = e.bare := fun _ _ => rfl
  unfold Dev.atEnd
  rw [(Dev.RunsKept.idleIfLast _).bare, hsame, Dev.beforeEnd, Dev.setSt_bare, (d.beforeEnd_runsKept n how).bare]

theorem Dev.finishRun_keeps (d : Dev) (n : Nat) (how : Ending) (opc : Nat) :
    (d.atEnd n how opc).RunsKept (d.finishRun n how opc) := by
  rw [Dev.finishRun_eq]
  refine .after (.foldl (fun d k => .complete d k 0 0 0 0) _ _) ?_
  split
  · exact .complete _ _ _ _ _ _
  · exact .refl _

theorem Dev.finishRun_run (d : Dev) (n : Nat) (how : Ending) (opc j : Nat) :
    ((d.finishRun n how opc).ctx j).run = if j = n then (.loaded, none, none, [], (d.ctx n).step) else (d.ctx j).run := by
  rw [(d.finishRun_keeps n how opc).run j, Dev.atEnd, (Dev.RunsKept.idleIfLast _).run j]
  have h := d.beforeEnd_run n how opc j
  split
  next hj =>
    subst hj
    rw [if_pos rfl] at h
    rw [Dev.setCtx_ctx_same]
    exact congrArg (fun r => (r.1, none, none, [], r.2.2.2.2)) h
  next hj =>
    rw [if_neg hj] at h
    rw [Dev.setCtx_ctx_ne _ _ _ _ hj, h]

theorem Dev.finishRun_due {d : Dev} {n : Nat} {k : Pend} (how : Ending) (opc : Nat) (hb : d.bare = false)
    (hk : (d.ctx n).runCmd = some k) :
    (⟨k, how.status, how.event, 0, BitVec.ofNat 64 (limN 32 (d.ctx n).step * 2 ^ 32)⟩ : Completion)
      ∈ ((d.finishRun n how opc).queue k.q).due := by
  have hrun := d.beforeEnd_run n how opc n
  rw [if_pos rfl] at hrun
  obtain ⟨-, -, hcmd, -, hstep⟩ := Ctx.run_eq hrun
  have hbare : (d.atEnd n how opc).bare = false := (d.atEnd_bare n how opc).trans hb
  rw [Dev.finishRun_eq]
  simp only [hcmd, hstep, hk]
  generalize d.atEnd n how opc = e at hbare
  refine (Dev.RunsKept.foldl (fun d (k : Pend) => .complete d k 0 0 0 0) _ (e.complete k _ _ _ _)).due _ _ ?_
  rw [Dev.complete_queue _ _ _ _ _ _ _ hbare, if_pos rfl]
  exact List.mem_append_right _ (List.mem_singleton_self _)

theorem Box.finishRun_keeps (b : Box) (n : Nat) (how : Ending) (opc : Nat) :
    (b.dev.finishRun n how opc).RunsKept (b.finishRun n how opc).dev :=
  Dev.RunsKept.losePower (b.onD fun d => d.finishRun n how opc) _

/-- RUN_END of a context that has nothing left to do. -/
theorem runEnd_answers {n : Fin 8} {how : Ending} {s : State} (h : s.dev.endingOf n.val = some how) :
    ∃ t, exec (.runEnd n) s = .next t ∧ (t.dev.ctx n.val).st = .loaded ∧ (t.dev.ctx n.val).stop = none
      ∧ (t.dev.ctx n.val).runCmd = none ∧ (t.dev.ctx n.val).stopCmds = [] ∧ t.pending = s.pending
      ∧ ∀ k, s.dev.bare = false → (s.dev.ctx n.val).runCmd = some k →
          (⟨k, how.status, how.event, 0, BitVec.ofNat 64 (limN 32 (s.dev.ctx n.val).step * 2 ^ 32)⟩ : Completion)
            ∈ (t.dev.queue k.q).due := by
  generalize hopc : (if (s.dev.ctx n).stopCmds.isEmpty then 0 else 0x0303) = opc
  have hexec : exec (.runEnd n) s = .next (s.setBox (s.box.finishRun n how opc).tryRetire) := by
    change execRunEnd n s = _
    unfold execRunEnd
    rw [State.on_eq]
    have h' : s.box.dev.endingOf n = some how := h
    simp only [h']
    rw [← hopc]
    rfl
  have hkeeps : (s.dev.finishRun n how opc).RunsKept (s.box.finishRun n how opc).tryRetire.dev :=
    Dev.RunsKept.after (.tryRetire (s.box.finishRun n how opc)) (Box.finishRun_keeps s.box n how opc)
  have hrun := (hkeeps.run n).trans (s.dev.finishRun_run n how opc n)
  rw [if_pos rfl] at hrun
  obtain ⟨hst, hstop, hcmd, hcmds, -⟩ := Ctx.run_eq hrun
  exact ⟨s.setBox (s.box.finishRun n how opc).tryRetire, hexec, hst, hstop, hcmd, hcmds, rfl,
    fun k hb hk => hkeeps.due _ _ (Dev.finishRun_due how opc hb hk)⟩

/-! ### The watchdog of a stream -/

/-- The report of a wait that is longer than the watchdog. -/
theorem Dev.watch_expired {d : Dev} {cs : CS} {n : Nat} {x : Wait} (hc : (d.stream cs).ctx = some n) (hw : (d.stream cs).wait = some x)
    (h0 : d.watchdog n ≠ 0) (hlong : x.since + d.watchdog n < d.tape.now) (hnew : x.raised = false)
    (hno : ∀ y ∈ (d.stream cs).acts, Insn.opc y.w ≠ 0x42) :
    d.watch cs = (d.updStream cs fun s => { s with wait := some { x with raised := true } }).raise 0xE012 (boltOf cs.core) false
      (some n) [d.coreSlot cs.core, cs.st.num, (d.stream cs).pc, x.item] := by
  have hlate : (d.stream cs).acts.filter (fun a =>
      Insn.opc a.w == 0x42 && a.gen.isSome && !d.released (Insn.kid a.w) (a.gen.getD 0) && d.expired n a.since a.raised) = [] := by
    rw [List.filter_eq_nil_iff]
    intro a ha
    simp [hno a ha]
  have hexp : d.expired n x.since x.raised = true := by
    unfold Dev.expired Dev.now
    simp [h0, hlong, hnew]
  unfold Dev.watch
  simp only [hc, hw, hlate, hexp, if_true, List.foldl_nil, Dev.ev_eq]

theorem streamWatchdog_answers {cs : CS} {n : Nat} {x : Wait} {s : State} (hc : (s.dev.stream cs).ctx = some n)
    (hw : (s.dev.stream cs).wait = some x) (h0 : s.dev.watchdog n ≠ 0) (hlong : x.since + s.dev.watchdog n < s.dev.tape.now)
    (hnew : x.raised = false) (hno : ∀ y ∈ (s.dev.stream cs).acts, Insn.opc y.w ≠ 0x42) :
    ∃ t, exec (.streamWatchdog cs) s = .next t ∧ sameStore s t ∧ (t.dev.stream cs).wait = some { x with raised := true }
      ∧ recorded 0xE012 (some n) [s.dev.coreSlot cs.core, cs.st.num, (s.dev.stream cs).pc, x.item] s t := by
  obtain ⟨t, ht, hs, hdev⟩ := onDev_answers s fun d => d.watch cs
  rw [Dev.watch_expired hc hw h0 hlong hnew hno] at hdev
  refine ⟨t, ht, hs, ?_, recorded_of_raise (by rfl) hdev⟩
  rw [hdev, Dev.raise_stream_of, Dev.updStream_same]

/-! ### A hung engine stops its contexts (15 R436, R437) -/

/-- No context that is neither RUNNING nor STOPPING becomes so. -/
def Dev.NoneRevives (d e : Dev) : Prop := ∀ j, (d.ctx j).live = false → (e.ctx j).live = false

namespace Dev.NoneRevives

theorem refl (d : Dev) : d.NoneRevives d := fun _ h => h

theorem trans {d e f : Dev} (h : d.NoneRevives e) (h' : e.NoneRevives f) : d.NoneRevives f := fun j hj => h' j (h j hj)

/-- The same, with the later change first. -/
theorem after {d e f : Dev} (h' : e.NoneRevives f) (h : d.NoneRevives e) : d.NoneRevives f := h.trans h'

theorem of_kept {d e : Dev} (h : d.RunsKept e) : d.NoneRevives e := fun j hj => (h.live j).trans hj

theorem foldlBox {α : Type} {f : Box → α → Box} (h : ∀ (b : Box) (a : α), b.dev.NoneRevives (f b a).dev) (l : List α) (b : Box) :
    b.dev.NoneRevives (l.foldl f b).dev :=
  List.foldlRecOn l f (motive := fun e => b.dev.NoneRevives e.dev) (refl b.dev) fun e he a _ => he.trans (h e a)

theorem setSt {d : Dev} {n : Nat} (st : CtxState) (opc : Nat) (h : (d.ctx n).live = true) : d.NoneRevives (d.setSt n st opc) := by
  intro j hj
  have hne : j ≠ n := by
    rintro rfl
    simp [hj] at h
  have hrun := d.setSt_run n st opc j
  rw [if_neg hne] at hrun
  obtain ⟨hst, -⟩ := Ctx.run_eq hrun
  unfold Ctx.live at hj ⊢
  rw [hst, hj]

theorem finishRun (d : Dev) (n : Nat) (how : Ending) (opc : Nat) : d.NoneRevives (d.finishRun n how opc) := by
  intro j hj
  have hrun := d.finishRun_run n how opc j
  unfold Ctx.live at hj ⊢
  split at hrun
  · obtain ⟨hst, -⟩ := Ctx.run_eq hrun
    rw [hst]; rfl
  · obtain ⟨hst, -⟩ := Ctx.run_eq hrun
    rw [hst, hj]

end Dev.NoneRevives

/-- Of a context that is stopped at once: how its run ends and what follows. -/
theorem Box.stopNow_live {b : Box} {n : Nat} (how : Ending) (opc : Nat) (h : (b.dev.ctx n).live = true) :
    ∃ e : Dev, b.dev.NoneRevives e ∧ (e.finishRun n how opc).RunsKept (b.stopNow n how opc).dev := by
  have hstop : b.dev.NoneRevives (b.dev.setSt n .stopping opc) := .setSt _ _ h
  have hfail := Dev.RunsKept.failColls (b.onD fun d => d.setSt n .stopping opc) n 6
  unfold Box.stopNow
  rw [if_neg (by simp [h])]
  dsimp only
  generalize (b.onD fun d => d.setSt n .stopping opc).failColls n 6 = c at hfail ⊢
  refine ⟨c.dev.discard n, (hstop.trans (.of_kept hfail)).trans (.of_kept (.discard _ _)), ?_⟩
  have hfinish := Box.finishRun_keeps (c.onD fun d => d.discard n) n how opc
  generalize (c.onD fun d => d.discard n).finishRun n how opc = f at hfinish ⊢
  exact (hfinish.trans (.settleDying f.dev)).trans (.tryRetire (f.onD Dev.settleDying))

theorem Box.stopNow_noneRevives (b : Box) (n : Nat) (how : Ending) (opc : Nat) : b.dev.NoneRevives (b.stopNow n how opc).dev := by
  cases h : (b.dev.ctx n).live with
  | false => simpa [Box.stopNow, h] using Dev.NoneRevives.refl b.dev
  | true =>
    obtain ⟨e, he, hkept⟩ := b.stopNow_live how opc h
    exact (he.trans (.finishRun _ _ _ _)).trans (.of_kept hkept)

/-- A context that is stopped at once is neither RUNNING nor STOPPING. -/
theorem Box.stopNow_dead (b : Box) (n : Nat) (how : Ending) (opc : Nat) : ((b.stopNow n how opc).dev.ctx n).live = false := by
  cases h : (b.dev.ctx n).live with
  | false => exact b.stopNow_noneRevives n how opc n h
  | true =>
    obtain ⟨e, -, hkept⟩ := b.stopNow_live how opc h
    have hrun := e.finishRun_run n how opc n
    rw [if_pos rfl] at hrun
    obtain ⟨hst, -⟩ := Ctx.run_eq hrun
    rw [hkept.live n, Ctx.live, hst]
    rfl

/-- Contexts that are stopped at once one after another are all neither RUNNING nor STOPPING then. -/
theorem Box.faultStops_dead (ns : List Nat) (ev : Nat) (b : Box) :
    ∀ n ∈ ns, ((ns.foldl (fun b n => b.faultStop n ev) b).dev.ctx n).live = false := by
  induction ns generalizing b with
  | nil => simp
  | cons m ms ih =>
    intro n hn
    rw [List.foldl_cons]
    by_cases h : n ∈ ms
    · exact ih _ n h
    · obtain rfl : n = m := by simpa [h] using hn
      exact Dev.NoneRevives.foldlBox (fun b n => b.stopNow_noneRevives n (.fault ev) 0) ms _ n (b.stopNow_dead n (.fault ev) 0)

theorem Box.stopAtBoundary_noneRevives (b : Box) (n : Nat) (fault : Option Nat) (opc : Nat) :
    b.dev.NoneRevives (b.stopAtBoundary n fault opc).dev := by
  unfold Box.stopAtBoundary
  dsimp only
  cases h : (b.dev.ctx n).live with
  | false => exact .refl _
  | true =>
    rw [if_neg (by simp)]
    split
    · exact b.stopNow_noneRevives _ _ _
    · have hupd : ∀ f : Ctx → Ctx, (∀ c, (f c).st = c.st) → b.dev.NoneRevives (b.dev.updCtx n f)
          ∧ ((b.dev.updCtx n f).ctx n).live = true := by
        intro f hf
        have hlive : ((b.dev.updCtx n f).ctx n).live = true := by
          unfold Dev.updCtx Ctx.live at *
          rw [Dev.setCtx_ctx_same, hf, h]
        refine ⟨fun j hj => ?_, hlive⟩
        have hne : j ≠ n := by
          rintro rfl
          simp [hj] at h
        unfold Dev.updCtx
        rw [Dev.setCtx_ctx_ne _ _ _ _ hne, hj]
      obtain ⟨hkeeps, hlive⟩ := hupd (fun c => { c with
        stop := if c.stop.isSome then c.stop else some 0, stopFault := if c.stopFault.isSome then c.stopFault else fault })
        fun _ => rfl
      exact hkeeps.trans (.setSt _ _ hlive)

/-! ### What an engine's hang does beside stopping contexts -/

theorem Dev.RunsKept.damage (d : Dev) : d.RunsKept d.damage := .of_same rfl rfl rfl

theorem Dev.RunsKept.disabled (d : Dev) (e : Engine) (sub : Nat) : d.RunsKept (d.disabled e sub) := by
  unfold Dev.disabled
  exact .after (.refreshAdvice _) (.ev _ _ _ _ _)

theorem Dev.RunsKept.disableEngine (d : Dev) (e : Engine) : d.RunsKept (d.disableEngine e) := by
  cases e with
  | arrayGroup | vector | hem => exact .refl d
  | gme | press | serger | reduction => exact .after (.disabled _ _ _) (.of_same rfl rfl rfl)

theorem Dev.RunsKept.hangCount (d : Dev) (e : Engine) : d.RunsKept (d.hangCount e) := by
  cases e with
  | arrayGroup | vector | hem => exact .refl d
  | gme | press | serger | reduction =>
    unfold Dev.hangCount
    dsimp only
    split
    · exact .after (.disableEngine _ _) (.of_same rfl rfl rfl)
    · exact .of_same rfl rfl rfl

theorem Box.noSpare_noneRevives (b : Box) (r : RetireDue) : b.dev.NoneRevives (b.noSpare r).dev := by
  have hdamage : ∀ (l : List Nat) (d : Dev), d.RunsKept (l.foldl (fun d _ => d.damage) d) := .foldl fun d _ => .damage d
  unfold Box.noSpare
  dsimp only [Box.onD]
  refine .trans (.of_kept ?_) (.foldlBox (fun b n => b.stopAtBoundary_noneRevives n (some 0x7007) 0) _ _)
  dsimp only
  split
  · exact .after (.refreshAdvice _) (.after (hdamage _ _) (.after (.evFw _ _ _ _) (.of_same rfl rfl rfl)))
  · exact .after (.refreshAdvice _) (.after (.evFw _ _ _ _) (.after (hdamage _ _) (.after (.evFw _ _ _ _) (.of_same rfl rfl rfl))))

theorem Box.settleDue_noneRevives (b : Box) : b.dev.NoneRevives b.settleDue.dev := .foldlBox Box.noSpare_noneRevives _ b

theorem Box.due_noneRevives (b : Box) (bolt k trigger : Nat) : b.dev.NoneRevives (b.due bolt k trigger).dev := by
  unfold Box.due
  split
  · exact .refl _
  · exact .after (Box.settleDue_noneRevives _) (.of_kept (.of_same rfl rfl rfl))

theorem Box.checkStrikes_noneRevives (b : Box) (core : Nat) : b.dev.NoneRevives (b.checkStrikes core).dev := by
  unfold Box.checkStrikes
  split
  · exact b.due_noneRevives _ _ _
  · split
    · exact b.due_noneRevives _ _ _
    · exact .refl _

theorem Box.strike_noneRevives (b : Box) (core : Nat) (unresolved : Bool) : b.dev.NoneRevives (b.strike core unresolved).dev := by
  unfold Box.strike
  exact .after (Box.checkStrikes_noneRevives _ core) (.of_kept (.of_same rfl rfl rfl))

theorem engineHang_answers {e : Engine} {s : State} (h : s.dev.hungCtxs e ≠ []) :
    ∃ t, exec (.engineHang e) s = .next t ∧ t.pending = s.pending ∧ ∀ n ∈ s.dev.hungCtxs e, (t.dev.ctx n).live = false := by
  refine ⟨s.setBox (s.box.hang e), rfl, rfl, fun n hn => ?_⟩
  rw [State.setBox_dev]
  unfold Box.hang
  have hne : (s.box.dev.hungCtxs e).isEmpty = false := List.isEmpty_eq_false_iff.mpr h
  simp only [hne, Bool.false_eq_true, if_false]
  generalize (Box.onD s.box _) = b
  have hdead := Box.faultStops_dead (s.box.dev.hungCtxs e) 0x7009 b n hn
  generalize List.foldl (fun (b : Box) (n : Nat) => b.faultStop n 0x7009) b (s.box.dev.hungCtxs e) = c at hdead ⊢
  have hcount : ((c.onD fun d => d.hangCount e).dev.ctx n).live = false := Dev.NoneRevives.of_kept (.hangCount c.dev e) n hdead
  cases strikeCore e with
  | none => exact hcount
  | some k => exact Box.strike_noneRevives _ k false n hcount

end Sys2Proof.Machine

/-! SUPPORT. Run-ahead fetches (02 R77, R78; 11 R329 to R346). -/

namespace Sys2Proof.Machine

open Sys2Proof.Safety

/-! ### An error of a channel leaves the run-ahead buffers (11 R329 to R346) -/

theorem Dev.ahead_foldl {α : Type} {f : Dev → α → Dev} (h : ∀ (d : Dev) (a : α), (f d a).ahead = d.ahead) (l : List α) (d : Dev) :
    (l.foldl f d).ahead = d.ahead :=
  List.foldlRecOn l f (motive := fun e => e.ahead = d.ahead) rfl fun e he a _ => (h e a).trans he

theorem Dev.ev_ahead (d : Dev) (code die : Nat) (ctx : Option Nat) (l : List Int) : (d.ev code die ctx l).ahead = d.ahead :=
  Dev.raise_ahead _ _ _ _ _ _

theorem Dev.refreshAdvice_ahead (d : Dev) : d.refreshAdvice.ahead = d.ahead := by
  unfold Dev.refreshAdvice
  dsimp only
  exact Dev.ahead_foldl (fun d i => Dev.raise_ahead _ _ _ _ _ _) _ _

theorem Dev.failing_ahead (d : Dev) (m l reason : Nat) : (d.failing m l reason).ahead = d.ahead := by
  unfold Dev.failing
  dsimp only
  split
  · rfl
  · rw [Dev.refreshAdvice_ahead, Dev.ev_ahead]; rfl

theorem Dev.startDarning_ahead (d : Dev) (m : Nat) (r : ChanReq) : (d.startDarning m r).ahead = d.ahead := by
  unfold Dev.startDarning
  dsimp only
  rw [Dev.refreshAdvice_ahead, Dev.ev_ahead]; rfl

theorem Dev.sendRouted_ahead (d : Dev) (k : Packet) : (d.sendRouted k).1.ahead = d.ahead := by
  unfold Dev.sendRouted
  split
  next p _ =>
    obtain ⟨_, _, _, h, -⟩ := d.linksOnly_handPacket p k
    rw [h]
  · exact Dev.ev_ahead _ _ _ _ _

theorem Dev.lateNotice_ahead (d : Dev) (die cause ns : Nat) (hit : Near → Bool) : (d.lateNotice die cause ns hit).ahead = d.ahead := by
  unfold Dev.lateNotice
  dsimp only
  rw [Dev.ev_ahead]
  exact Dev.ahead_foldl (fun d m => Dev.ahead_foldl (fun d c => d.sendRouted_ahead _) _ d) _ d

theorem Dev.announceStall_ahead (d : Dev) (m : Nat) (r : ChanReq) : (d.announceStall m r).ahead = d.ahead := by
  unfold Dev.announceStall
  dsimp only
  rw [Dev.ev_ahead, Dev.lateNotice_ahead]; rfl

theorem Dev.cannotMaintain_ahead (d : Dev) (m : Nat) (r : ChanReq) : (d.cannotMaintain m r).ahead = d.ahead := by
  unfold Dev.cannotMaintain Dev.endChan Dev.failCmd
  split
  · split
    · rfl
    · rw [Dev.complete_ahead]; exact Dev.raise_ahead _ _ _ _ _ _
  · split
    · exact d.failing_ahead m _ _
    · rfl

theorem Dev.tryStart_ahead (d : Dev) (m : Nat) (r : ChanReq) : (d.tryStart m r).ahead = d.ahead := by
  unfold Dev.tryStart
  dsimp only
  split
  · rfl
  · split
    · exact Dev.startDarning_ahead _ m r
    · split
      · exact Dev.announceStall_ahead _ m r
      · exact Dev.cannotMaintain_ahead _ m r

theorem Dev.trigger_ahead (d : Dev) (m l t v : Nat) (retire : Bool) : (d.trigger m l t v retire).ahead = d.ahead := by
  unfold Dev.trigger
  dsimp only
  split
  · rfl
  · unfold Dev.request Dev.startNext
    rw [Dev.ahead_foldl (fun d r => d.tryStart_ahead m r)]
    exact Dev.ev_ahead _ _ _ _ _

theorem Dev.correctedAt_ahead (d : Dev) (m ph addr symbols : Nat) : (d.correctedAt m ph addr symbols).ahead = d.ahead := by
  have honce : ∀ (e : Dev) (key code die : Nat) (slots : List Int),
      (e.oncePerSec key fun d => d.ev code die none slots).ahead = e.ahead := by
    intro e key code die slots
    unfold Dev.oncePerSec
    dsimp only
    split
    · rfl
    · exact Dev.ev_ahead _ _ _ _ _
  unfold Dev.correctedAt
  dsimp only
  split
  · split
    · rw [Dev.trigger_ahead, honce]; rfl
    · exact honce _ _ _ _ _
  · exact honce _ _ _ _ _

theorem Dev.uncorrectableAt_ahead (d : Dev) (m ph addr source : Nat) (ctx : Option Nat) :
    (d.uncorrectableAt m ph addr source ctx).ahead = d.ahead := by
  unfold Dev.uncorrectableAt
  dsimp only
  split
  · split
    · rw [Dev.trigger_ahead, Dev.ev_ahead]; rfl
    · exact Dev.ev_ahead _ _ _ _ _
  · exact Dev.ev_ahead _ _ _ _ _

theorem Box.decode_ahead (b : Box) (m ph addr line source : Nat) (ctx : Option Nat) (e : Ecc) :
    (b.decode m ph addr line source ctx e).dev.ahead = b.dev.ahead := by
  unfold Box.decode
  split
  · rfl
  · cases e with
    | ok => rfl
    | corrected n => exact b.dev.correctedAt_ahead m ph addr n
    | uncorrectable =>
      refine (Dev.uncorrectableAt_ahead _ m ph addr source ctx).trans ?_
      unfold Box.markLine
      split <;> rfl

theorem Box.decode_ok (b : Box) (m ph addr line source : Nat) (ctx : Option Nat) : b.decode m ph addr line source ctx .ok = b := by
  unfold Box.decode
  split <;> rfl

/-! ### Run-ahead -/

theorem Dev.mem_keepAhead (d : Dev) (line : Nat) (a : Act) : (⟨line, a⟩ : AheadLine) ∈ (d.keepAhead line a).ahead := by
  unfold Dev.keepAhead
  split
  next h => simpa using h
  · exact List.mem_append_right _ (List.mem_singleton_self _)

/-- A channel that serves a line, or the companion memory of a grant. -/
def Dev.aheadServed (d : Dev) (line : Nat) : Prop :=
  (∃ p, d.placeOf line = some p ∧ d.serves p.spool = true ∧ (d.spool p.spool).stalls p.chan = false)
    ∨ (d.placeOf line = none ∧ d.powered = true ∧ inCompanion line 64 = true ∧ d.granted line 64 false = true ∧ d.yoke.down = none)

/-- The line of a fetch that can be made stands in the buffers. -/
theorem Box.fetchLine_keeps {b : Box} {line : Nat} (a : Act) (ecc : Ecc) (h : b.dev.aheadServed line) :
    (⟨line / 64, a⟩ : AheadLine) ∈ (b.fetchLine line a ecc).dev.ahead
      ∧ (ecc = .ok → (b.fetchLine line a ecc).store = b.store) := by
  unfold Box.fetchLine
  rcases h with ⟨p, hp, hserves, hstall⟩ | ⟨hp, hpower, hwindow, hgrant, hdown⟩
  · simp only [hp, hserves, hstall, Bool.not_false, Bool.and_self, if_true]
    refine ⟨Dev.mem_keepAhead _ _ _, ?_⟩
    rintro rfl
    rw [Box.decode_ok]
    rfl
  · simp only [hp, hpower, hwindow, hgrant, hdown, Option.isNone_none, Bool.and_self, if_true]
    exact ⟨Dev.mem_keepAhead _ _ _, fun _ => rfl⟩

/-- A command that, in this state, changes nothing. -/
theorem on_unchanged {s : State} {f : Box → Box} (h : f s.box = s.box) : s.on f = .next s := by
  unfold State.on
  rw [h]

theorem runAheadFetch_line {x : AheadBy} {a : Act} {line : Nat} {s : State} (ecc : Ecc) (hx : x = .gme a line ∨ x = .press a line)
    (hmay : s.box.mayRunAhead x = true) (hserved : s.dev.aheadServed (line / 64 * 64)) :
    ∃ t, exec (.runAheadFetch x ecc) s = .next t ∧ (⟨line / 64, a⟩ : AheadLine) ∈ t.dev.ahead ∧ (ecc = .ok → sameStore s t) := by
  have hfetch : s.box.runAhead x ecc = s.box.fetchLine (line / 64 * 64) a ecc := by
    unfold Box.runAhead
    rcases hx with rfl | rfl <;> simp [hmay]
  obtain ⟨hmem, hstore⟩ := Box.fetchLine_keeps (b := s.box) a ecc hserved
  rw [← hfetch, Nat.mul_div_cancel _ (by decide)] at hmem
  rw [← hfetch] at hstore
  exact ⟨s.setBox (s.box.runAhead x ecc), rfl, hmem, fun he => ⟨hstore he, rfl⟩⟩

theorem runAheadFetch_decode {cs : CS} {m : Fin 8} {ch : Fin 32} {addr : Nat} {s : State} (ecc : Ecc)
    (hmay : s.box.mayRunAhead (.decode cs m ch addr) = true) :
    ∃ t, exec (.runAheadFetch (.decode cs m ch addr) ecc) s = .next t ∧ t.pending = s.pending ∧ t.dev.ahead = s.dev.ahead
      ∧ (ecc = .ok → t = s) := by
  have hfetch : s.box.runAhead (.decode cs m ch addr) ecc = s.box
      ∨ ∃ ph, s.box.runAhead (.decode cs m ch addr) ecc = s.box.decode m ph addr (2 ^ 52) 3 none ecc := by
    unfold Box.runAhead
    simp only [hmay, Bool.not_true, Bool.false_eq_true, if_false]
    split
    · exact .inl rfl
    · exact .inr ⟨_, rfl⟩
  refine ⟨s.setBox (s.box.runAhead (.decode cs m ch addr) ecc), rfl, rfl, ?_, ?_⟩
  · rw [State.setBox_dev]
    rcases hfetch with h | ⟨ph, h⟩
    · rw [h]; rfl
    · rw [h, Box.decode_ahead]; rfl
  · rintro rfl
    rcases hfetch with h | ⟨ph, h⟩
    · rw [h]; rfl
    · rw [h, Box.decode_ok]; rfl

/-- Settles O35: the end of a run, the watchdog, the hang and run-ahead, each by its lemma. -/
theorem runsAndWaitsEnd : Obligations.RunsAndWaitsEnd := by
  unfold Obligations.RunsAndWaitsEnd
  refine ⟨fun n how s h => runEnd_answers h, fun cs n x s => streamWatchdog_answers, fun e s h => engineHang_answers h,
    fun x ecc s => ⟨fun hno => ⟨s, ?_, rfl⟩, fun hmay => ⟨fun a line hx => ?_, ?_⟩⟩⟩
  · exact on_unchanged (f := fun b => b.runAhead x ecc) (by simp [Box.runAhead, hno])
  · exact runAheadFetch_line ecc hx hmay
  · rintro cs m ch addr rfl
    exact runAheadFetch_decode ecc hmay

end Sys2Proof.Machine

/-! O56. SCHED_RUN publishes the sequence assignments of its context, and a mirror tensor is written for that. Where a
Baste that is being drained protects the granule of the mirror and its pool has no free slot, the write abandons the
Baste (15 R456), so the BASTE_DRAIN ends with event 0xC803: a completion of another command becomes due, which the
statement excludes. -/

namespace Sys2Proof.Machine
open Sys2Proof.Safety

namespace MirrorUnderDrain

/-- SCHED_RUN of context 1 at the run base 100,000 ns, in the management queue. -/
def runCmd : Ici := ⟨8, 7, false, BitVec.ofNat 384 (1 + 100000 * 2 ^ 64)⟩

/-- The BASTE_DRAIN that is going on, from queue 0. -/
def drainCmd : Pend := ⟨0, 0x0702, 3, false⟩

/-- A writable UI32 tensor of one element at address 0. -/
def mirror : Desc := BitVec.ofNat 512 (0x11 * 2 ^ 52 + 2 ^ 58 + 2 ^ 61 + 2 ^ 64 + 2 ^ 256)

/-- A schedule without blocks, cores, Knots and shape words. -/
def image : Image :=
  { major := 5, length := 0, pace := 0, seed := 0, stepPeriod := 0, slipLimit := 1, watchdog := 1, blocks := [], cores := []
    knots := [], shapes := [], descs := [], clusterMap := [], owned := [] }

/-- A Baste in its drain that protects granule 0; the eight slots of its pool hold other granules. -/
def baste : Baste :=
  { Baste.init with st := 3, prot := [0], pool := 2097152, copied := (List.range 8).map fun i => (100 + i, i) }

/-- Context 1 is LOADED, its sequence slot 0 mirrored in the tensor, and SCHED_RUN stands accepted. -/
def dev : Dev :=
  { State.reset.dev with
    power := { State.reset.dev.power with pwrGood := true }
    yoke := { State.reset.dev.yoke with mode := 1, down := none }
    cutter := { State.reset.dev.cutter with st := [(0, 0)], active := some 0 }
    regions := [⟨0, 1, none⟩, ⟨2097152, 1, none⟩]
    ctxs := [(1, { Ctx.init with st := .loaded, img := some image })]
    descs := [(0, .native mirror)]
    seq := { State.reset.dev.seq with assigns := [⟨1, 0, 1, 9, some 0, none, none⟩] }
    bastes := [(2, baste)]
    opens := [⟨drainCmd, .baste 2⟩]
    queues := [(8, { Queue.init with enable := true, log2 := 4, accepted := [iciEntry 0x0302 runCmd] })] }

def state : State := ⟨[], { State.reset.box with dev := dev }⟩

/-- The completions due on a queue in a next state. -/
def dueAfter (q : Nat) : Res → List Completion
  | .next t => (t.dev.queue q).due
  | _ => []

theorem state_performs : performs 0x0302 runCmd true state := by decide +kernel

theorem image_loaded : (state.dev.ctx (payBits runCmd.p 0 0 3)).st = .loaded
    ∧ (state.dev.ctx (payBits runCmd.p 0 0 3)).img = some image := by decide +kernel

theorem run_allowed : (state.dev.takeAccepted 0x0302 runCmd).runBad (payBits runCmd.p 0 0 3) (pay runCmd.p 8 8) = none
    ∧ ((state.dev.takeAccepted 0x0302 runCmd).placeAll (payBits runCmd.p 0 0 3) image.wants []).2.2 = none := by
  decide +kernel

theorem none_due : (state.dev.queue 0).due = [] := by decide +kernel

theorem drain_ends : dueAfter 0 (exec (.schedRun runCmd) state) = [⟨drainCmd, 1, 0xC803, 0, 0⟩] := by decide +kernel

end MirrorUnderDrain

open MirrorUnderDrain in
/-- Refutes O56: SCHED_RUN writes the mirror tensor of a sequence assignment; where a Baste in its drain with a full pool
protects it, the BASTE_DRAIN fails, and its completion is due on queue 0 beside the SCHED_RUN taken from queue 8. -/
theorem not_schedulesLoadRunStopAndUnload : ¬ Obligations.SchedulesLoadRunStopAndUnload := by
  unfold Obligations.SchedulesLoadRunStopAndUnload
  intro h
  obtain ⟨-, hrun, -, -⟩ := h runCmd state
  obtain ⟨hst, himg⟩ := image_loaded
  obtain ⟨hbad, hplace⟩ := run_allowed
  obtain ⟨hstarts, -⟩ := hrun state_performs image hst himg
  obtain ⟨t, ht, -, ⟨-, hothers⟩, -⟩ := hstarts hbad hplace
  have hsame : (t.dev.queue 0).due = [] := by rw [hothers 0 (by decide), none_due]
  have hends : (t.dev.queue 0).due = [⟨drainCmd, 1, 0xC803, 0, 0⟩] := by rw [← drain_ends, ht]; rfl
  simp [hsame] at hends

end Sys2Proof.Machine

/-! SUPPORT. Every command answers a next state with the same queue, and JTAG_TCK_EDGE is the one that can be refused instead: where a
private instruction becomes current in the diagnostic state (16 R498, 18 R543). -/

namespace Sys2Proof.Machine

/-- `r` is a next state that differs from `s` in its device and its memory at most: the commands that wait are the same. -/
def State.Completes (s : State) (r : Res) : Prop := ∃ b, r = .next { s with box := b }

theorem on_completes (s : State) (f : Box → Box) : s.Completes (s.on f) := ⟨_, rfl⟩

theorem onDev_completes (s : State) (f : Dev → Dev) : s.Completes (s.onDev f) := ⟨_, rfl⟩

theorem Dev.privateJtag_iff (d : Dev) (rising : Bool) :
    d.privateJtag rising = true ↔ d.diag = true ∧ rising = false ∧ d.pins.tap = 13 ∧ d.pins.irShift ≠ 255 := by
  simp [Dev.privateJtag, bypassIr, and_assoc]

/-- Without VAUX the edge does nothing and with TRST_N low it resets the controller; after that a private instruction in
the diagnostic state is refused, and every other edge completes. -/
theorem execJtagTckEdge_completes_or_refused (rising tms tdi trstN : Bool) (s : State) :
    s.Completes (execJtagTckEdge rising tms tdi trstN s)
      ∨ execJtagTckEdge rising tms tdi trstN s = .refused .jtagPrivate
        ∧ s.dev.power.vaux.isSome = true ∧ trstN = true ∧ s.dev.privateJtag rising = true := by
  unfold execJtagTckEdge
  split
  case isTrue => exact .inl ⟨s.box, rfl⟩
  case isFalse hvaux =>
    split
    case isTrue => exact .inl (onDev_completes s _)
    case isFalse htrst =>
      split
      case isTrue hprivate => exact .inr ⟨rfl, by simpa [Option.isSome_iff_ne_none] using hvaux, by simpa using htrst, hprivate⟩
      case isFalse =>
        split
        case isTrue => exact .inl (onDev_completes s _)
        case isFalse => exact .inl (on_completes s _)

/-- Every meaning but that of JTAG_TCK_EDGE is a change of the box, by `State.on` or `State.onDev`. -/
theorem exec_completes_or_jtagTckEdge (c : Instr) (s : State) :
    s.Completes (exec c s) ∨ ∃ rising tms tdi trstN, c = .jtagTckEdge rising tms tdi trstN := by
  cases c with
  | jtagTckEdge rising tms tdi trstN => exact .inr ⟨rising, tms, tdi, trstN, rfl⟩
  | _ => exact .inl ⟨_, rfl⟩

/-- Settles O6: a command completes (`exec_completes_or_jtagTckEdge`) or is an edge of TCK, whose one refusal is that of a
private instruction (`Dev.privateJtag_iff`). -/
theorem onlyAPrivateJtagInstructionStops : Obligations.OnlyAPrivateJtagInstructionStops := by
  unfold Obligations.OnlyAPrivateJtagInstructionStops
  intro c s
  obtain ⟨b, hb⟩ | ⟨rising, tms, tdi, trstN, rfl⟩ := exec_completes_or_jtagTckEdge c s
  · exact .inl ⟨_, hb⟩
  · obtain ⟨b, hb⟩ | ⟨hrefused, hvaux, rfl, hprivate⟩ := execJtagTckEdge_completes_or_refused rising tms tdi trstN s
    · exact .inl ⟨_, hb⟩
    · obtain ⟨hdiag, rfl, htap, hir⟩ := (s.dev.privateJtag_iff rising).mp hprivate
      exact .inr ⟨hrefused, ⟨tms, tdi, rfl⟩, hvaux, hdiag, htap, hir⟩

end Sys2Proof.Machine

/-! SUPPORT. The work of an engine on a launched action that is ready: the gate opens for it, its reads meet no error, what it
writes through a handle that stands in the scratchpad leaves the device memory and the device, and what it notes beside that are
counts, records and the Crease's counts (03 R108, R109; 06 R177, R192; 17 R502, R518). -/

namespace Sys2Proof.Machine

open Sys2Proof.Safety

/-! ### What an engine notes about its work -/

/-- Beside the contexts, the Measure Book with the exit from Hold that its records start, and the Crease, nothing differs. -/
def Dev.Noted (d e : Dev) : Prop :=
  ∃ ctxs mb cr wake, e = { d with ctxs := ctxs, mb := mb, cr := cr, power := { d.power with wake := wake } }

namespace Dev.Noted

theorem refl (d : Dev) : d.Noted d := ⟨_, _, _, _, rfl⟩

theorem trans {d e f : Dev} (h : d.Noted e) (h' : e.Noted f) : d.Noted f := by
  obtain ⟨_, _, _, _, rfl⟩ := h
  obtain ⟨_, _, _, _, rfl⟩ := h'
  exact ⟨_, _, _, _, rfl⟩

theorem cores {d e : Dev} (h : d.Noted e) : e.cores = d.cores := by
  obtain ⟨_, _, _, _, rfl⟩ := h
  rfl

theorem core {d e : Dev} (h : d.Noted e) (j : Nat) : e.core j = d.core j := by
  unfold Dev.core
  rw [h.cores]

theorem action {d e : Dev} (h : d.Noted e) (a : Act) : e.action a = d.action a := by
  unfold Dev.action Dev.stream
  rw [h.core]

theorem foldl {α : Type} {f : Dev → α → Dev} (h : ∀ (d : Dev) (a : α), d.Noted (f d a)) (l : List α) (d : Dev) : d.Noted (l.foldl f d) :=
  List.foldlRecOn l f (motive := d.Noted) (refl d) fun e he a _ => he.trans (h e a)

theorem ite {d e f : Dev} (c : Prop) [Decidable c] (h : d.Noted e) (h' : d.Noted f) : d.Noted (if c then e else f) := by
  split
  · exact h
  · exact h'

theorem raise (d : Dev) (code die : Nat) (fw : Bool) (ctx : Option Nat) (l : List Int) : d.Noted (d.raise code die fw ctx l) :=
  ⟨_, _, _, _, d.raise_frame code die fw ctx l⟩

theorem updCtx (d : Dev) (n : Nat) (f : Ctx → Ctx) : d.Noted (d.updCtx n f) := ⟨_, _, _, _, rfl⟩

theorem count (d : Dev) (ctx : Nat) (k : CountKind) (i n : Nat) : d.Noted (d.count ctx k i n) := updCtx _ _ _

theorem condition (d : Dev) (ctx : Nat) (k : CountKind) (i code die : Nat) (eng : Int) (l : List Int) :
    d.Noted (d.condition ctx k i code die eng l) := by
  unfold Dev.condition Dev.first
  exact (count ..).trans (ite _ (refl _) ((updCtx ..).trans (raise ..)))

theorem ariths (d : Dev) (x : Action) (core op fmt : Nat) (codes : List Nat) : d.Noted (d.ariths x core op fmt codes) :=
  foldl (fun d _ => condition d ..) codes d

theorem creaseHs (d : Dev) (bolt unit : Nat) : d.Noted (d.creaseHs bolt unit) := by
  unfold Dev.creaseHs Dev.crease Dev.creaseCount
  dsimp only
  split
  · split <;> exact ⟨_, _, _, _, rfl⟩
  · exact refl d

end Dev.Noted

/-! ### Changing the cores -/

theorem Dev.updAction_onlyCores (d : Dev) (a : Act) (f : Action → Action) :
    d.updAction a f = { d with cores := (d.updAction a f).cores } := by
  unfold Dev.updAction
  split <;> rfl

theorem Dev.action_updAction {d : Dev} {a : Act} {x : Action} {f : Action → Action} (h : d.action a = some x)
    (hid : ∀ y, (f y).id = y.id) : (d.updAction a f).action a = some (f x) := by
  have hsame : ∀ y : Action, (if y.id == a.id then f y else y).id = y.id := by
    intro y
    split
    · exact hid y
    · rfl
  have hx : x.id = a.id := by simpa using List.find?_some h
  unfold Dev.updAction
  rw [h, Option.isNone_some, if_neg (by simp), Dev.action, Dev.updStream_same, List.find?_map]
  have hfind : (d.stream a.cs).acts.find? ((fun y => y.id == a.id) ∘ fun y => if y.id == a.id then f y else y) = some x := by
    rw [← h, Dev.action]
    exact congrArg (List.find? · _) (funext fun y => by simp only [Function.comp_apply, hsame])
  rw [hfind]
  simp [hx]

theorem Dev.action_actDone {d : Dev} {a : Act} {x : Action} (h : d.action a = some x) :
    (d.actDone a).action a = some { x with done := true } :=
  Dev.action_updAction h fun _ => rfl

/-- An engine has noted what it did and done the work of its action. -/
theorem Dev.Noted.actDone {d e : Dev} (h : d.Noted e) (a : Act) : e.actDone a = { d with
    cores := (e.actDone a).cores, ctxs := (e.actDone a).ctxs, mb := (e.actDone a).mb, cr := (e.actDone a).cr
    power := { d.power with wake := (e.actDone a).power.wake } } := by
  obtain ⟨_, _, _, _, rfl⟩ := h
  rw [Dev.actDone, Dev.updAction_onlyCores]

/-! ### Writes through a handle that stands in the scratchpad (06 R177) -/

/-- The handle of the core, if valid, stands in the scratchpad. -/
def Dev.InScratch (d : Dev) (core h : Nat) : Prop := ∀ y, (d.core core).handle h = some y → y.spilled = false

/-- The bytes of device memory and the device are as before. -/
structure Box.ScratchOnly (b c : Box) : Prop where
  dev : c.dev = b.dev
  mem : c.store.mem = b.store.mem

theorem Box.ScratchOnly.refl (b : Box) : b.ScratchOnly b := ⟨rfl, rfl⟩

theorem Box.ScratchOnly.trans {b c e : Box} (h : b.ScratchOnly c) (h' : c.ScratchOnly e) : b.ScratchOnly e :=
  ⟨h'.dev.trans h.dev, h'.mem.trans h.mem⟩

theorem Store.foldl_wrScr_mem {α : Type} (l : List α) (s : Store) (at' : α → Nat) (bytes : α → List PB) :
    (l.foldl (fun s c => s.wrScr (at' c) (bytes c)) s).mem = s.mem :=
  List.foldlRecOn l _ (motive := fun t : Store => t.mem = s.mem) rfl fun _ h _ _ => h

section
variable {b : Box} {core h : Nat} (hs : b.dev.InScratch core h) (ctx : Nat) (act : Act)
include hs

theorem Box.hWrite_scratchOnly (off : Nat) (l : List PB) : b.ScratchOnly (b.hWrite ctx act core h off l) := by
  unfold Box.hWrite
  split
  · exact .refl b
  · next y hy =>
    rw [hs y hy, Bool.not_false, if_pos rfl]
    exact ⟨rfl, Store.foldl_wrScr_mem ..⟩

theorem Box.hPutEls_scratchOnly (f off : Nat) (els : List (Nat × Bool)) : b.ScratchOnly (b.hPutEls ctx act core h f off els) :=
  b.hWrite_scratchOnly hs ctx act off _

theorem Box.hWriteEls_scratchOnly (f off n : Nat) (els : List (Nat × Nat × Bool)) :
    b.ScratchOnly (b.hWriteEls ctx act core h f off n els) :=
  List.foldlRecOn _ _ (motive := b.ScratchOnly) (.refl b) fun _ he _ _ => he.trans (Box.hWrite_scratchOnly (he.dev ▸ hs) ctx act _ _)

theorem Box.maskWrite_scratchOnly {x : Action} (hx : Insn.hd x.w = h) (bit : Nat → Bool × Bool) :
    b.ScratchOnly (b.maskWrite core act x bit) := by
  subst hx
  exact b.hPutEls_scratchOnly hs x.ctx act _ _ _

end

/-! ### The gate of a ready action (05 R163; 06 R186, R190; 14 R405, R407) -/

theorem Box.gate_ready {s : State} {a : Act} {x : Action} {sel : Action → Bool} {reads : Dev → Action → List Rng}
    (h : ready a x (reads s.dev x) s) (hsel : sel x = true) (f : Box → Action → Box) :
    s.box.gate a sel reads f = f s.box x := by
  obtain ⟨hact, hdone, hyoke, hlines, hremote, hgrant, hzero⟩ := h
  have hyoke' : (s.dev.yoke.down.isSome && s.dev.usesCompanion a x) = false := by
    rcases hyoke with h | h <;> simp [h]
  have hfab : (s.dev.fab.remote.any fun r => r.kind == 0 && r.act == some a) = false := by
    simpa using fun r hr => by simpa using hremote r hr
  unfold State.dev at *
  unfold Box.gate
  simp only [hact, hzero, hdone, hsel, hyoke', hfab, hgrant, Nat.not_lt.2 hlines, Bool.not_true, Bool.or_self, Bool.false_eq_true, if_false]

/-- Reads that meet no error change nothing. -/
theorem Box.scrReads_noErrors {ecc : List ScrEcc} (h : noErrors ecc) (b : Box) (core : Nat) (ctx : Option Nat) (reads : Nat → Bool) :
    b.scrReads core ctx reads ecc = b := by
  have hnone : (ecc.filter fun e => (bankOf e).any reads) = [] := by
    rw [List.filter_eq_nil_iff]
    intro e he
    simp [h e he, bankOf]
  rw [Box.scrReads, hnone]
  rfl

theorem Box.workRead_ready {s : State} {a : Act} {x : Action} {sel : Action → Bool} {reads : Dev → Action → List Rng} {ecc : List ScrEcc}
    (h : ready a x (reads s.dev x) s) (hsel : sel x = true) (hecc : noErrors ecc) (f : Box → Action → Box) :
    s.box.workRead a ecc sel reads f = (f s.box x).onD fun d => d.actDone a := by
  rw [Box.workRead, Box.work, Box.gate_ready h hsel, Box.scrReads_noErrors hecc]

/-- What stands after an engine that wrote to the scratchpad, made its notes and did the work of its action. -/
theorem worked_inScratch {s : State} {a : Act} {x : Action} {b : Box} (hx : s.dev.action a = some x) (hmem : b.store.mem = s.store.mem)
    (hdev : s.dev.Noted b.dev) :
    let t := s.setBox (b.onD fun d => d.actDone a)
    workDone a x t ∧ memoryKept s t ∧ onlyCoresAndNotes s t :=
  ⟨Dev.action_actDone ((hdev.action a).trans hx), fun i => congrArg (Mem.byte · i) hmem, rfl, hdev.actDone a⟩

end Sys2Proof.Machine

/-! SUPPORT. The results of the vector unit: which lanes are enabled and what each writes, the one element of a reduction, and the
run of an instruction (04 R131, R132; 05 R162). -/

namespace Sys2Proof.Machine

open Sys2Proof.Safety

/-! ### Operands, element by element -/

/-- Element `i` of an operand; beyond its end, a clean zero. -/
abbrev elAt {α : Type} [OfNat α 0] (l : List (α × Bool)) (i : Nat) : α × Bool := l.getD i (0, false)

theorem eq_map_elAt {α : Type} [OfNat α 0] {l : List (α × Bool)} {n : Nat} (h : l.length = n) : l = (List.range n).map (elAt l) := by
  subst h
  refine List.ext_getElem (by simp) fun i hi _ => ?_
  simp [elAt, hi]

/-- Taking what a test lets through is filtering by the test. -/
theorem filterMap_ite_none {α β : Type} (p : α → Bool) (f : α → β) (l : List α) :
    (l.filterMap fun x => if p x then none else some (f x)) = (l.filter fun x => !p x).map f := by
  induction l with
  | nil => rfl
  | cons x t ih => cases h : p x <;> simp [h, ih]

@[simp] theorem Box.hVals_length (b : Box) (core h f off n : Nat) : (b.hVals core h f off n).length = n := by
  simp [Box.hVals, Box.hEls]

@[simp] theorem Box.vecMask_length (b : Box) (core : Nat) (x : Action) : (b.vecMask core x).length = x.n0 := by
  unfold Box.vecMask
  split
  · simp [Box.hEls]
  · simp

/-! ### Lanes (04 R131) -/

/-- A lane whose mask element is `m` is enabled. -/
def vecOn (r : BitVec 256) (m : Nat × Bool) : Bool := !vMasked r || m.1 != 0 || m.2

theorem not_vecOn (r : BitVec 256) (m : Nat × Bool) : (!vecOn r m) = (vMasked r && m.1 == 0 && !m.2) := by
  simp [vecOn, bne]

/-- The first source, the second and the prior value of the destination; zeros where the operation reads none. -/
def Box.vecA (b : Box) (core : Nat) (x : Action) : List (W32 × Bool) :=
  if vVop x.desc = 0x15 then List.replicate x.n0 (0, false) else b.hVals core (Insn.ha x.w) (vAf x.desc) (vAo x.desc) x.n0
def Box.vecB (b : Box) (core : Nat) (x : Action) : List (W32 × Bool) :=
  if vUsesB (vVop x.desc) then b.hVals core (Insn.hb x.w) (vBf x.desc) (vBo x.desc) x.n0 else List.replicate x.n0 (0, false)
def Box.vecD (b : Box) (core : Nat) (x : Action) : List (W32 × Bool) :=
  if vVop x.desc = 4 then b.hVals core (Insn.hd x.w) (vDf x.desc) (vDo x.desc) x.n0 else List.replicate x.n0 (0, false)

@[simp] theorem Box.vecA_length (b : Box) (core : Nat) (x : Action) : (b.vecA core x).length = x.n0 := by
  unfold Box.vecA; split <;> simp
@[simp] theorem Box.vecB_length (b : Box) (core : Nat) (x : Action) : (b.vecB core x).length = x.n0 := by
  unfold Box.vecB; split <;> simp
@[simp] theorem Box.vecD_length (b : Box) (core : Nat) (x : Action) : (b.vecD core x).length = x.n0 := by
  unfold Box.vecD; split <;> simp

/-- The elements that are enabled. -/
def Box.vecEnabled (b : Box) (core : Nat) (x : Action) : List Nat :=
  (List.range x.n0).filter fun i => vecOn x.desc (elAt (b.vecMask core x) i)

/-- Every enabled element has its lane's result, in order. -/
theorem Box.vecLanes_eq (b : Box) (core : Nat) (x : Action) :
    b.vecLanes core x = (b.vecEnabled core x).map fun i =>
      laneOut x.desc (b.dev.rnd x (vRnd x.desc) (vKey x.desc)) i (elAt (b.vecMask core x) i) (elAt (b.vecA core x) i)
        (elAt (b.vecB core x) i) (elAt (b.vecD core x) i) := by
  have hzip : (((List.range x.n0).zip (b.vecMask core x)).zip ((b.vecA core x).zip ((b.vecB core x).zip (b.vecD core x))))
      = (List.range x.n0).map fun i => ((i, elAt (b.vecMask core x) i),
          (elAt (b.vecA core x) i, (elAt (b.vecB core x) i, elAt (b.vecD core x) i))) := by
    conv_lhs => rw [eq_map_elAt (b.vecMask_length core x), eq_map_elAt (b.vecA_length core x), eq_map_elAt (b.vecB_length core x),
      eq_map_elAt (b.vecD_length core x), ← List.map_id (List.range x.n0)]
    simp only [List.map_map, List.zip_map']
    rfl
  unfold Box.vecLanes
  change (List.filterMap _ (((List.range x.n0).zip (b.vecMask core x)).zip
    ((b.vecA core x).zip ((b.vecB core x).zip (b.vecD core x))))) = _
  rw [hzip, List.filterMap_map, Box.vecEnabled]
  simp only [Function.comp_def, ← not_vecOn, filterMap_ite_none, Bool.not_not]

/-- An operation without a second source reads a clean one. -/
theorem Box.vecB_clean {b : Box} {core : Nat} {x : Action} (h : vUsesB (vVop x.desc) = false) (i : Nat) :
    (elAt (b.vecB core x) i).2 = false := by
  simp [Box.vecB, h]

/-- Every operation but FMA reads a clean prior value. -/
theorem Box.vecD_clean {b : Box} {core : Nat} {x : Action} (h : vVop x.desc ≠ 4) (i : Nat) : (elAt (b.vecD core x) i).2 = false := by
  simp [Box.vecD, h]

/-- VEC_IOTA reads no first source. -/
theorem Box.vecA_clean {b : Box} {core : Nat} {x : Action} (h : vVop x.desc = 0x15) (i : Nat) : (elAt (b.vecA core x) i).2 = false := by
  simp [Box.vecA, h]

/-- What a lane writes: element, code, poison. -/
def LaneOut.el (o : LaneOut) : Nat × Nat × Bool := (o.i, o.code, o.bad)

/-- VEC_CMPGT: whether A exceeds B. -/
theorem laneOut_cmpgt {r : BitVec 256} (h : vVop r = 0x12) (rnd : Rnd) (i : Nat) (m : Nat × Bool) (a b d : W32 × Bool) :
    (laneOut r rnd i m a b d).el = (i, boolN (B32.lt b.1 a.1), a.2 || b.2 || m.2) := by
  unfold laneOut
  dsimp only
  rw [if_pos h]
  rfl

/-- VEC_SEL: A where the mask bit is 1, else B. -/
theorem laneOut_sel {r : BitVec 256} (h : vVop r = 0x13) (rnd : Rnd) (i : Nat) (m : Nat × Bool) (a b d : W32 × Bool) :
    (laneOut r rnd i m a b d).el = (i, ofB32 (vDf r) rnd (handleIndex (vDf r) (vDo r / 64) i) (if m.1 = 1 then a else b).1,
      m.2 || (if m.1 = 1 then a else b).2) := by
  simp [laneOut, LaneOut.el, h, vecEl]

/-- An operation that is neither: its value, poisoned with its mask bit and its sources. -/
theorem laneOut_value {r : BitVec 256} (hcmp : vVop r ≠ 0x12) (hsel : vVop r ≠ 0x13) (rnd : Rnd) (i : Nat) (m : Nat × Bool)
    {a b d : W32 × Bool} (hb : vUsesB (vVop r) = false → b.2 = false) (hd : vVop r ≠ 4 → d.2 = false) :
    (laneOut r rnd i m a b d).el = (i, ofB32 (vDf r) rnd (handleIndex (vDf r) (vDo r / 64) i)
      (vecEl (vVop r) (vScalar r) a.1 b.1 d.1 i).1, m.2 || a.2 || b.2 || d.2) := by
  have hb' : (vUsesB (vVop r) && vVop r != 0x13 && b.2) = b.2 := by
    cases hu : vUsesB (vVop r)
    · simp [hb hu]
    · simp [hsel]
  have hd' : (vVop r == 4 && d.2) = d.2 := by
    by_cases h4 : vVop r = 4
    · simp [h4]
    · simp [hd h4]
  unfold laneOut LaneOut.el
  simp only [hcmp, hsel, if_false, hb', hd']

/-- VEC_IOTA: the index plus SCALAR, poisoned with the mask bit only. -/
theorem laneOut_iota {r : BitVec 256} (h : vVop r = 0x15) (rnd : Rnd) (i : Nat) (m : Nat × Bool) {a b d : W32 × Bool} (ha : a.2 = false) :
    (laneOut r rnd i m a b d).el = (i, ofB32 (vDf r) rnd (handleIndex (vDf r) (vDo r / 64) i) (B32.add (B32.ofInt i) (vScalar r)), m.2) := by
  simp [laneOut, LaneOut.el, h, vecEl, vUsesB, ha]

/-! ### One element of a reduction (04 R132) -/

/-- The values that REDSUM and REDMAX combine: those of the enabled elements, and `z` in place of the others. -/
def Box.vecReduced (b : Box) (core : Nat) (x : Action) (z : W32) : List Tr :=
  (List.range x.n0).map fun i =>
    tr (if vecOn x.desc (elAt (b.vecMask core x) i) then (elAt (b.hVals core (Insn.ha x.w) (vAf x.desc) (vAo x.desc) x.n0) i).1 else z)

/-- An enabled element of them, or its mask bit, is poisoned. -/
def Box.vecLost (b : Box) (core : Nat) (x : Action) : Bool :=
  (List.range x.n0).any fun i => vecOn x.desc (elAt (b.vecMask core x) i)
    && ((elAt (b.hVals core (Insn.ha x.w) (vAf x.desc) (vAo x.desc) x.n0) i).2 || (elAt (b.vecMask core x) i).2)

theorem Box.vecReduce_el (b : Box) (core : Nat) (x : Action) :
    (b.vecReduce core x).el = (0, ofB32 (vDf x.desc) (b.dev.rnd x (vRnd x.desc) (vKey x.desc))
      (handleIndex (vDf x.desc) (vDo x.desc / 64) 0)
      (if vVop x.desc == 0x10 then sumTree (b.vecReduced core x 0) else maxTree (b.vecReduced core x (B32.inf true))).1,
      b.vecLost core x) := by
  have hzip : (b.hVals core (Insn.ha x.w) (vAf x.desc) (vAo x.desc) x.n0).zip (b.vecMask core x)
      = (List.range x.n0).map fun i =>
        (elAt (b.hVals core (Insn.ha x.w) (vAf x.desc) (vAo x.desc) x.n0) i, elAt (b.vecMask core x) i) := by
    conv_lhs => rw [eq_map_elAt (b.hVals_length core (Insn.ha x.w) (vAf x.desc) (vAo x.desc) x.n0),
      eq_map_elAt (b.vecMask_length core x)]
    exact List.zip_map' ..
  have hoff : ∀ (on : Bool) (v z : W32), (if !on then z else v) = if on then v else z := by
    intro on v z
    cases on <;> rfl
  unfold Box.vecReduce LaneOut.el
  dsimp only
  rw [hzip]
  simp only [List.map_map, List.any_map, Function.comp_def, ← not_vecOn, hoff, Bool.not_not]
  cases vVop x.desc == 0x10 <;> rfl

/-! ### The run of an instruction -/

/-- What the instruction writes, lane by lane. -/
def Box.vecOuts (b : Box) (core : Nat) (x : Action) : List LaneOut :=
  if vReduces (vVop x.desc) then [b.vecReduce core x] else b.vecLanes core x

/-- The box after the destination's elements are written. -/
def Box.vecWrite (b : Box) (a : Act) (x : Action) (m : Nat) (els : List (Nat × Nat × Bool)) : Box :=
  if x.n0 = 0 then b else b.hWriteEls x.ctx a a.cs.core (Insn.hd x.w) (vDf x.desc) (vDo x.desc) m els

theorem Box.vecWrite_scratchOnly {b : Box} {a : Act} {x : Action} (hs : b.dev.InScratch a.cs.core (Insn.hd x.w)) (m : Nat)
    (els : List (Nat × Nat × Bool)) : b.ScratchOnly (b.vecWrite a x m els) := by
  unfold Box.vecWrite
  split
  · exact .refl b
  · exact Box.hWriteEls_scratchOnly hs ..

/-- An instruction writes its elements, and beside that makes its notes. -/
theorem Box.vecRun_eq (b : Box) (a : Act) (x : Action) {m : Nat} {els : List (Nat × Nat × Bool)}
    (hm : vOut (vVop x.desc) (vDf x.desc) x.n0 = m) (hels : (b.vecOuts a.cs.core x).map LaneOut.el = els) :
    ∃ notes : Dev → Dev, (∀ d : Dev, d.Noted (notes d)) ∧ b.vecRun a x = (b.vecWrite a x m els).onD notes := by
  subst hm hels
  unfold Box.vecRun Box.vecWrite
  dsimp only
  split
  · exact ⟨id, Dev.Noted.refl, rfl⟩
  · exact ⟨_, fun _ => (Dev.Noted.creaseHs ..).trans (Dev.Noted.ariths ..), rfl⟩

/-! ### TOPK (10 R300) -/

/-- What TOPK writes: the routes of its tokens. -/
theorem Box.topkRun_eq (b : Box) (a : Act) (x : Action) :
    ∃ els, ∃ notes : Dev → Dev, (∀ d : Dev, d.Noted (notes d)) ∧ b.topkRun a x =
      if x.n0 = 0 then b else (b.hPutEls x.ctx a a.cs.core (Insn.hd x.w) 0 (vDo x.desc) els).onD notes := by
  have hroute : ∀ (d : Dev) (t : Nat × Bool × Route), d.Noted (d.routeNotes a.cs.core x t.1 t.2.1 t.2.2) := by
    rintro d ⟨t, bad, route⟩
    cases route with
    | none c => exact .ite _ (.refl d) (.ariths ..)
    | nan c => exact .ite _ (.refl d) ((Dev.Noted.condition ..).trans (.ariths ..))
    | some l c => exact .ite _ (.refl d) ((Dev.Noted.count ..).trans (.ariths ..))
  unfold Box.topkRun
  exact ⟨_, _, fun d => (Dev.Noted.creaseHs ..).trans (.foldl hroute _ _), rfl⟩

theorem Box.topkRun_zero {b : Box} {a : Act} {x : Action} (h : x.n0 = 0) : b.topkRun a x = b := by
  unfold Box.topkRun
  exact if_pos h

theorem Box.topkRun_inScratch {b : Box} {a : Act} {x : Action} (hs : b.dev.InScratch a.cs.core (Insn.hd x.w)) :
    (b.topkRun a x).store.mem = b.store.mem ∧ b.dev.Noted (b.topkRun a x).dev := by
  obtain ⟨els, notes, hnotes, heq⟩ := b.topkRun_eq a x
  rw [heq]
  split
  · exact ⟨rfl, .refl _⟩
  · obtain ⟨hdev, hmem⟩ := b.hPutEls_scratchOnly hs x.ctx a 0 (vDo x.desc) els
    exact ⟨hmem, by rw [Box.onD_dev, hdev]; exact hnotes b.dev⟩

/-! ### The command of an instruction (04 R135) -/

/-- The command completes; the store is the one with the elements written; and if the destination stands in the scratchpad, the work is
done, and beside the cores only notes are left. -/
def vecAnswers (r : Res) (a : Act) (x : Action) (m : Nat) (els : List (Nat × Nat × Bool)) (s : State) : Prop :=
  ∃ t, r = .next t
    ∧ t.store = (if x.n0 = 0 then s.store
        else (s.box.hWriteEls x.ctx a a.cs.core (Insn.hd x.w) (vDf x.desc) (vDo x.desc) m els).store)
    ∧ (inScratch a.cs.core (Insn.hd x.w) s → workDone a x t ∧ memoryKept s t ∧ onlyCoresAndNotes s t)

section
variable {a : Act} {x : Action} {ecc : List ScrEcc} {s : State} (hecc : noErrors ecc) (hready : ready a x (vecReads a.cs.core x) s)
  (hopc : Insn.opc x.w = 0x52) (hturn : s.dev.vecTurn a x = true)
include hecc hready hopc hturn

/-- The gate opens for the instruction whose turn it is. -/
theorem vec_workRead_ready {vop : Nat} (hvop : vVop x.desc = vop) (f : Box → Action → Box) :
    s.box.workRead a ecc (fun x => isOp 0x52 x && vVop x.desc == vop && s.box.dev.vecTurn a x) (fun _ x => vecReads a.cs.core x) f
      = (f s.box x).onD fun d => d.actDone a := by
  unfold State.dev at hturn
  exact Box.workRead_ready hready (by simp [isOp, hopc, hvop, hturn]) hecc f

theorem vec_answers {vop m : Nat} {els : List (Nat × Nat × Bool)} (hvop : vVop x.desc = vop) (hm : vOut vop (vDf x.desc) x.n0 = m)
    (hels : (s.box.vecOuts a.cs.core x).map LaneOut.el = els) : vecAnswers (s.vec a ecc vop) a x m els s := by
  subst hvop
  have hrun : s.vec a ecc (vVop x.desc) = .next (s.setBox ((s.box.vecRun a x).onD fun d => d.actDone a)) := by
    unfold State.vec
    rw [State.on_eq, vec_workRead_ready hecc hready hopc hturn rfl]
  obtain ⟨notes, hnotes, heq⟩ := s.box.vecRun_eq a x hm hels
  rw [heq] at hrun
  refine ⟨_, hrun, ?_, fun hs => ?_⟩
  · change (s.box.vecWrite a x m els).store = _
    unfold Box.vecWrite
    split <;> rfl
  · obtain ⟨hdev, hmem⟩ := s.box.vecWrite_scratchOnly hs m els
    exact worked_inScratch hready.1 hmem (by rw [Box.onD_dev, hdev]; exact hnotes s.dev)

/-- An operation with a result in every enabled element. -/
theorem vec_lanes_answers {vop : Nat} {f : Nat → Nat × Nat × Bool} (hvop : vVop x.desc = vop) (hreduces : vReduces vop = false)
    (hf : ∀ i, (laneOut x.desc (s.dev.rnd x (vRnd x.desc) (vKey x.desc)) i (elAt (s.box.vecMask a.cs.core x) i)
      (elAt (s.box.vecA a.cs.core x) i) (elAt (s.box.vecB a.cs.core x) i) (elAt (s.box.vecD a.cs.core x) i)).el = f i) :
    vecAnswers (s.vec a ecc vop) a x x.n0 ((s.box.vecEnabled a.cs.core x).map f) s := by
  refine vec_answers hecc hready hopc hturn hvop (by simp [vOut, hreduces]) ?_
  rw [Box.vecOuts, hvop, hreduces, if_neg (by simp), Box.vecLanes_eq, List.map_map]
  exact List.map_congr_left fun i _ => hf i

/-- A reduction. -/
theorem vec_reduce_answers {vop : Nat} (hvop : vVop x.desc = vop) (hreduces : vReduces vop = true) :
    vecAnswers (s.vec a ecc vop) a x (if fmtPlanar (vDf x.desc) then x.n0 else 1)
      [(0, ofB32 (vDf x.desc) (s.dev.rnd x (vRnd x.desc) (vKey x.desc)) (handleIndex (vDf x.desc) (vDo x.desc / 64) 0)
        (if vop == 0x10 then sumTree (s.box.vecReduced a.cs.core x 0) else maxTree (s.box.vecReduced a.cs.core x (B32.inf true))).1,
        s.box.vecLost a.cs.core x)] s := by
  refine vec_answers hecc hready hopc hturn hvop ?_ ?_
  · cases h : fmtPlanar (vDf x.desc) <;> simp [vOut, hreduces, h]
  · rw [Box.vecOuts, hvop, hreduces, if_pos rfl, List.map_singleton, Box.vecReduce_el, hvop]
    rfl

theorem topk_answers (hvop : vVop x.desc = 0x14) : ∃ t, exec (.topk a ecc) s = .next t ∧ t.store = (s.box.topkRun a x).store
    ∧ (x.n0 = 0 → t.store = s.store)
    ∧ (inScratch a.cs.core (Insn.hd x.w) s → workDone a x t ∧ memoryKept s t ∧ onlyCoresAndNotes s t) := by
  have hrun : exec (.topk a ecc) s = .next (s.setBox ((s.box.topkRun a x).onD fun d => d.actDone a)) := by
    change execTopk a s ecc = _
    unfold execTopk
    rw [State.on_eq, vec_workRead_ready hecc hready hopc hturn hvop]
  refine ⟨_, hrun, rfl, fun h0 => ?_, fun hs => ?_⟩
  · change (s.box.topkRun a x).store = _
    rw [Box.topkRun_zero h0]
    rfl
  · obtain ⟨hmem, hdev⟩ := Box.topkRun_inScratch (b := s.box) hs
    exact worked_inScratch hready.1 hmem hdev

end

/-! ### The fifteen element-wise operations (05 R162) -/

theorem exec_vectorForms {e} (he : e ∈ vectorForms) (a : Act) (ecc : List ScrEcc) (s : State) :
    exec (e.1 a ecc) s = s.vec a ecc e.2.1 := by
  fin_cases he <;> rfl

/-- Which sources they read, and that each is an operation with a value. -/
theorem vectorForms_sources {e} (he : e ∈ vectorForms) : vUsesB e.2.1 = e.2.2.1 ∧ decide (e.2.1 = 4) = e.2.2.2.1
    ∧ vReduces e.2.1 = false ∧ e.2.1 ≠ 0x12 ∧ e.2.1 ≠ 0x13 ∧ e.2.1 ≠ 0x15 := by
  fin_cases he <;> decide

theorem vecEl_vectorForms {e} (he : e ∈ vectorForms) (s a b d : W32) (i : Nat) : (vecEl e.2.1 s a b d i).1 = e.2.2.2.2 s a b d i := by
  fin_cases he <;> rfl

/-- Settles O27: each operation writes, to every enabled element, the value of its lane (`laneOut_value`). -/
theorem vectorElementsResult : Obligations.VectorElementsResult := by
  unfold Obligations.VectorElementsResult
  intro e he a x ecc s hecc hready hopc hvop hturn
  obtain ⟨husesB, husesD, hreduces, hcmp, hsel, hiota⟩ := vectorForms_sources he
  rw [exec_vectorForms he]
  have hA : s.box.vecA a.cs.core x = s.box.hVals a.cs.core (Insn.ha x.w) (vAf x.desc) (vAo x.desc) x.n0 := by
    rw [Box.vecA, hvop, if_neg hiota]
  have hlanes := vec_lanes_answers hecc hready hopc hturn hvop hreduces fun i =>
    laneOut_value (r := x.desc) (hvop ▸ hcmp) (hvop ▸ hsel) _ i _ (fun h => Box.vecB_clean h i) (fun h => Box.vecD_clean h i)
  simp only [hA, Box.vecB, Box.vecD, hvop, husesB, ← husesD, decide_eq_true_eq, vecEl_vectorForms he] at hlanes ⊢
  exact hlanes

/-! ### The other operations (04 R132; 05 R162; 10 R300) -/

/-- Settles O28: a reduction writes its one element (`vec_reduce_answers`), the others every enabled element (`vec_lanes_answers`),
and TOPK the routes of its tokens (`Box.topkRun_eq`). -/
theorem otherVectorResults : Obligations.OtherVectorResults := by
  unfold Obligations.OtherVectorResults
  intro a x ecc s hecc hready hopc hturn
  refine ⟨fun hvop => ?_, fun hvop => ?_, fun hvop => ?_, fun hvop => ?_, fun hvop => ?_, fun hvop => ?_⟩
  · exact vec_reduce_answers hecc hready hopc hturn hvop rfl
  · exact vec_reduce_answers hecc hready hopc hturn hvop rfl
  · have h := vec_lanes_answers hecc hready hopc hturn hvop rfl fun i => laneOut_cmpgt hvop ..
    simp only [Box.vecA, Box.vecB, hvop] at h
    exact h
  · have h := vec_lanes_answers hecc hready hopc hturn hvop rfl fun i => laneOut_sel hvop ..
    simp only [Box.vecA, Box.vecB, hvop] at h
    exact h
  · exact vec_lanes_answers hecc hready hopc hturn hvop rfl fun i => laneOut_iota hvop _ i _ (Box.vecA_clean hvop i)
  · exact topk_answers hecc hready hopc hturn hvop

end Sys2Proof.Machine

/-! SUPPORT. Array commands enter their core, and its accumulation groups start, are fed, take steps and drain (04 R113 to R123,
R134, R135; 08 R255). -/

namespace Sys2Proof.Machine

open Sys2Proof.Safety

/-! ### Changing one core -/

@[simp] theorem Dev.updCore_same (d : Dev) (c : Nat) (f : Core → Core) : (d.updCore c f).core c = f (d.core c) :=
  d.setCore_core_same c _

theorem onlyCore_updCore (s : State) (c : Nat) (f : Core → Core) : onlyCore c s (s.setDev (s.dev.updCore c f)) :=
  ⟨⟨rfl, rfl⟩, rfl, fun _ hj => Dev.setCore_core_ne _ _ _ _ hj⟩

theorem onlyActs_actDone (s : State) (a : Act) : onlyActs s (s.setDev (s.dev.actDone a)) :=
  ⟨⟨rfl, rfl⟩, Dev.updAction_onlyCores ..⟩

/-! ### Entering a command (04 R117, R135; 08 R255) -/

/-- The command that an action leaves in its core. -/
def Core.arrCmd (x : Action) (st : Str) (part : Nat) : ArrCmd :=
  { st := st, id := x.id, ctx := x.ctx, e := x.e.getD x.launch, chalk := part, m := (arrOpOf x part).m, n := (arrOpOf x part).n
    k := (arrOpOf x part).k, next := 0, drained := 0, verdicts := 0, hits := [] }

theorem Core.enqueue_eq (c : Core) (x : Action) (st : Str) (part : Nat) :
    c.enqueue x st part = { c with arrq := c.arrq ++ [Core.arrCmd x st part] } := rfl

@[simp] theorem Core.enqueue_stream (c : Core) (x : Action) (st st' : Str) (part : Nat) :
    (c.enqueue x st part).stream st' = c.stream st' := by
  cases st' <;> rfl

/-- A command enters the core behind the others. -/
theorem enters_enqueue {a : Act} {x : Action} {s : State} {r : Res} {part : Nat} (hx : s.dev.action a = some x) (hid : x.id = a.id)
    (hr : r = .next (s.setDev (s.dev.updCore a.cs.core fun c => c.enqueue x a.cs.st part))) :
    ∃ t q, r = .next t ∧ onlyCore a.cs.core s t
      ∧ (t.dev.core a.cs.core).arrq = (s.dev.core a.cs.core).arrq ++ [q]
      ∧ t.dev.core a.cs.core = { s.dev.core a.cs.core with arrq := (s.dev.core a.cs.core).arrq ++ [q] }
      ∧ q.st = a.cs.st ∧ q.id = a.id ∧ q.ctx = x.ctx ∧ q.e = x.e.getD x.launch ∧ q.chalk = part
      ∧ q.m = (arrOpOf x part).m ∧ q.n = (arrOpOf x part).n ∧ q.k = (arrOpOf x part).k ∧ q.next = 0 ∧ q.drained = 0
      ∧ t.dev.action a = some x := by
  have hcore : (s.dev.updCore a.cs.core fun c => c.enqueue x a.cs.st part).core a.cs.core
      = { s.dev.core a.cs.core with arrq := (s.dev.core a.cs.core).arrq ++ [Core.arrCmd x a.cs.st part] } := by
    rw [Dev.updCore_same, Core.enqueue_eq]
  have hact : (s.dev.updCore a.cs.core fun c => c.enqueue x a.cs.st part).action a = some x := by
    rw [← hx, Dev.action, Dev.stream_updCore_of _ _ _ fun c => c.enqueue_stream ..]
    rfl
  exact ⟨_, Core.arrCmd x a.cs.st part, hr, onlyCore_updCore .., congrArg Core.arrq hcore, hcore, rfl, hid, rfl, rfl, rfl, rfl, rfl, rfl,
    rfl, rfl, hact⟩

section
variable {b : Box} {a : Act} {x : Action} (hnew : (b.dev.core a.cs.core).findCmd a.cs.st a.id = none)
include hnew

theorem Box.arrEnter_empty (h : (arrParams x).m = 0 ∨ (arrParams x).n = 0) :
    b.arrEnter a x = b.onD fun d => d.actDone a := by
  simp [Box.arrEnter, hnew, h]

theorem Box.arrEnter_enqueues (hm : (arrParams x).m ≠ 0) (hn : (arrParams x).n ≠ 0) :
    b.arrEnter a x = b.onD fun d => d.updCore a.cs.core fun c => c.enqueue x a.cs.st 0 := by
  simp [Box.arrEnter, hnew, hm, hn]

/-- A CHALK in fallback, or without rows, writes its mask at once. -/
theorem Box.chalkEnter_mask (h : x.val = 1 ∨ x.n0 = 0) :
    b.chalkEnter a x = (b.maskWrite a.cs.core a x fun _ => (decide (x.val = 1), false)).onD fun d => d.actDone a := by
  unfold Box.chalkEnter
  simp only [hnew, Option.isSome_none, Bool.false_eq_true, if_false]
  by_cases hv : x.val = 1
  · rw [if_pos hv, decide_eq_true hv]
  · rw [if_neg hv, if_pos (h.resolve_left hv), decide_eq_false hv]

theorem Box.chalkEnter_enqueues (hv : x.val ≠ 1) (hn : x.n0 ≠ 0) :
    b.chalkEnter a x = b.onD fun d => d.updCore a.cs.core fun c => c.enqueue x a.cs.st 1 := by
  unfold Box.chalkEnter
  simp only [hnew, Option.isSome_none, Bool.false_eq_true, if_false]
  rw [if_neg hv, if_neg hn]

end

theorem exec_arr_ready {a : Act} {x : Action} {s : State} (h : ready a x ((arrParams x).reads a.cs.core) s) (hopc : Insn.opc x.w = 0x50) :
    exec (.arr a) s = .next (s.setBox (s.box.arrEnter a x)) := by
  change s.on (fun b => b.gate a _ (fun _ x => (arrParams x).reads a.cs.core) _) = _
  rw [State.on_eq, Box.gate_ready h (by simp [isOp, hopc])]

theorem exec_chalk_ready {a : Act} {x : Action} {s : State} (h : ready a x (chalkReads a.cs.core x) s) (hopc : Insn.opc x.w = 0x51) :
    exec (.chalk a) s = .next (s.setBox (s.box.chalkEnter a x)) := by
  change s.on (fun b => b.gate a _ (fun _ x => chalkReads a.cs.core x) _) = _
  rw [State.on_eq, Box.gate_ready h (by simp [isOp, hopc])]

/-- Settles O24: by the four ways in which the engine takes the action (`Box.arrEnter_empty`, `Box.arrEnter_enqueues`,
`Box.chalkEnter_mask`, `Box.chalkEnter_enqueues`). -/
theorem arrayCommandsEnterTheirCore : Obligations.ArrayCommandsEnterTheirCore := by
  unfold Obligations.ArrayCommandsEnterTheirCore
  intro a x s hnew hid
  refine ⟨fun hready hopc => ⟨fun hempty => ?_, fun ⟨hm, hn⟩ => ?_⟩, fun hready hopc => ⟨fun hmask => ?_, fun ⟨hv, hn⟩ => ?_⟩⟩
  · refine ⟨s.setDev (s.dev.actDone a), ?_, Dev.action_actDone hready.1, onlyActs_actDone s a⟩
    rw [exec_arr_ready hready hopc, Box.arrEnter_empty hnew hempty]
    rfl
  · refine enters_enqueue hready.1 hid ?_
    rw [exec_arr_ready hready hopc, Box.arrEnter_enqueues hnew hm hn]
    rfl
  · refine ⟨_, exec_chalk_ready hready hopc, ?_, fun hs => ?_⟩
    · rw [Box.chalkEnter_mask hnew hmask]
      rfl
    · obtain ⟨hdev, hmem⟩ := s.box.maskWrite_scratchOnly hs a rfl fun _ => (decide (x.val = 1), false)
      rw [Box.chalkEnter_mask hnew hmask]
      obtain ⟨hdone, hkept, -⟩ := worked_inScratch (b := s.box.maskWrite a.cs.core a x fun _ => (decide (x.val = 1), false)) hready.1 hmem
        (hdev ▸ .refl s.dev)
      exact ⟨hdone, hkept⟩
  · refine enters_enqueue hready.1 hid ?_
    rw [exec_chalk_ready hready hopc, Box.chalkEnter_enqueues hnew hv hn]
    rfl

end Sys2Proof.Machine

/-! SUPPORT. The accumulation groups of a core: a group's start, the reads of its entries and tiles, a step within a window, and
the drain of an ended group (04 R113, R115, R118, R122, R123, R127, R134, R135). -/

namespace Sys2Proof.Machine

open Sys2Proof.Safety

/-! ### Banks and array commands of a core -/

/-- What a change of one core keeps of that core, it keeps of every core. -/
theorem Dev.updCore_keeps {α : Type} (d : Dev) (k : Nat) {f : Core → Core} (p : Core → α) (h : ∀ c, p (f c) = p c) (j : Nat) :
    p ((d.updCore k f).core j) = p (d.core j) := by
  by_cases hj : j = k
  · rw [hj, Dev.updCore_same, h]
  · rw [Dev.updCore, Dev.setCore_core_ne _ _ _ _ hj]

@[simp] theorem Core.bank_setBank_same (c : Core) (side : Bool) (x : Bank) : (c.setBank side x).bank side = x := by
  cases side <;> rfl

@[simp] theorem Core.setBank_wq (c : Core) (side : Bool) (x : Bank) : (c.setBank side x).wq = c.wq := by
  cases side <;> rfl

@[simp] theorem Core.bank_updCmd (c : Core) (st : Str) (id : Nat) (f : ArrCmd → ArrCmd) (side : Bool) :
    (c.updCmd st id f).bank side = c.bank side := by
  cases side <;> rfl

theorem Core.feedFrom_bank (c : Core) (cmd : Str × Nat × Nat) (gw : Nat) (side : Bool) :
    (c.feedFrom cmd gw).bank side = c.bank side := by
  unfold Core.feedFrom
  split <;> cases side <;> rfl

@[simp] theorem Core.setStream_bank (c : Core) (st : Str) (x : StreamSt) (side : Bool) : (c.setStream st x).bank side = c.bank side := by
  cases st <;> cases side <;> rfl

@[simp] theorem Core.enqueue_bank (c : Core) (x : Action) (st : Str) (part : Nat) (side : Bool) :
    (c.enqueue x st part).bank side = c.bank side := by
  cases side <;> rfl

@[simp] theorem Dev.actDone_bank (d : Dev) (a : Act) (j : Nat) (side : Bool) :
    ((d.actDone a).core j).bank side = (d.core j).bank side := by
  unfold Dev.actDone Dev.updAction
  split
  · rfl
  · exact d.updCore_keeps _ (·.bank side) (fun c => c.setStream_bank ..) j

/-! ### The start of a group (04 R115, R135, R140) -/

/-- The group of a command that starts next, sampled or not. -/
def ArrCmd.nextGrp (cmd : ArrCmd) (sampled : Bool) : Grp :=
  { st := cmd.st, id := cmd.id, chalk := cmd.chalk, mb := cmd.next / cmd.nBlocks, nb := cmd.next % cmd.nBlocks, win := 0, quad := 0
    sub := 0, sampled := sampled, ended := false }

/-- The core with a group on its next bank, fed from window `gw` on. -/
def Core.withGroup (c : Core) (side : Bool) (cmd : ArrCmd) (g : Grp) (acc : Tbl Elem) (gw now : Nat) : Core :=
  { ((c.setBank side ⟨some g, acc⟩).updCmd cmd.st cmd.id fun x =>
      { x with next := x.next + 1, verdicts := x.verdicts + boolN g.sampled }).feedFrom (cmd.st, cmd.id, cmd.chalk) gw with
    nextB := !side, held := [], lastGroup := now }

theorem Core.withGroup_bank (c : Core) (side : Bool) (cmd : ArrCmd) (g : Grp) (acc : Tbl Elem) (gw now : Nat) :
    (c.withGroup side cmd g acc gw now).bank side = ⟨some g, acc⟩ := by
  have hfeed (c : Core) (next : Bool) (now : Nat) : { c with nextB := next, held := [], lastGroup := now }.bank side = c.bank side := by
    cases side <;> rfl
  rw [Core.withGroup, hfeed, Core.feedFrom_bank, Core.bank_updCmd, Core.bank_setBank_same]

/-- The counts of sampling when a group is selected: sampled, or skipped with a reason. -/
def Dev.sampleCounted (d : Dev) (sampled selected : Bool) (skip : Option Nat) : Dev :=
  if sampled then d.shadowCount 0 else if selected then d.shadowCount (skip.getD 4) else d

/-- The partner's shadow region takes a sampled group. -/
def Dev.shadowTaken (d : Dev) (core : Nat) (cmd : ArrCmd) (g : Grp) (acc : Tbl Elem) : Dev :=
  if g.sampled then d.updCore (partnerOf core) fun c => { c with shadow := some (newShadow core cmd g.mb g.nb acc) } else d

theorem Dev.shadowTaken_keeps {α : Type} (d : Dev) (core : Nat) (cmd : ArrCmd) (g : Grp) (acc : Tbl Elem) (p : Core → α)
    (hp : ∀ c h, p { c with shadow := h } = p c) (j : Nat) : p ((d.shadowTaken core cmd g acc).core j) = p (d.core j) := by
  unfold Dev.shadowTaken
  split
  · exact d.updCore_keeps _ p (fun c => hp c _) j
  · rfl

/-- A group with inner elements stands on its bank with its initial accumulators; the next group goes to the other bank. -/
theorem Box.startGroup_core (b : Box) (core : Nat) (cmd : ArrCmd) (x : Action) (sample : Bool) (hk : (arrOpOf x cmd.chalk).k ≠ 0) :
    ∃ sampled, ((b.startGroup core cmd x sample).dev.core core).bank (b.dev.core core).nextB
        = ⟨some (cmd.nextGrp sampled),
            b.initAcc (arrOpOf x cmd.chalk) core (cmd.next / cmd.nBlocks) (cmd.next % cmd.nBlocks)⟩
      ∧ ((b.startGroup core cmd x sample).dev.core core).nextB = !(b.dev.core core).nextB := by
  have hdev : ∃ sampled selected skip gw now, (b.startGroup core cmd x sample).dev
      = ((b.dev.sampleCounted sampled selected skip).updCore core fun c => c.withGroup (b.dev.core core).nextB cmd (cmd.nextGrp sampled)
          (b.initAcc (arrOpOf x cmd.chalk) core (cmd.next / cmd.nBlocks) (cmd.next % cmd.nBlocks)) gw now).shadowTaken core cmd
            (cmd.nextGrp sampled) (b.initAcc (arrOpOf x cmd.chalk) core (cmd.next / cmd.nBlocks) (cmd.next % cmd.nBlocks)) :=
    ⟨_, _, _, _, _, if_neg hk⟩
  obtain ⟨sampled, selected, skip, gw, now, hdev⟩ := hdev
  refine ⟨sampled, ?_, ?_⟩
  · rw [hdev, Dev.shadowTaken_keeps _ _ _ _ _ (·.bank _) fun c h => by cases (b.dev.core core).nextB <;> rfl, Dev.updCore_same]
    exact Core.withGroup_bank ..
  · rw [hdev, Dev.shadowTaken_keeps _ _ _ _ _ (·.nextB) fun c h => rfl, Dev.updCore_same]
    rfl

theorem exec_accumGroupStart {core : Fin 6144} {sample : Bool} {ecc : List ScrEcc} {s : State} {cmd : ArrCmd} {x : Action}
    (hecc : noErrors ecc) (hstart : (s.dev.core core).canStart = true) (hshadow : s.dev.shadowReady core = false)
    (hnext : (s.dev.core core).nextCmd = some cmd) (hx : s.dev.action (cmd.act core) = some x) :
    exec (.accumGroupStart core sample ecc) s = .next (s.setBox (s.box.startGroup core cmd x sample)) := by
  change execAccumGroupStart core sample s ecc = _
  unfold State.dev at *
  unfold execAccumGroupStart
  rw [State.on_eq]
  simp only [hstart, hshadow, hnext, hx, Box.scrReads_noErrors hecc, Bool.not_true, Bool.or_self, Bool.false_eq_true, if_false]

/-! ### Fills (04 R122, R123) -/

/-- A read that meets no error puts its entry or tile in the core's queues. -/
theorem exec_bobbinFill {core : Fin 6144} {unit : Fin 17} {s : State} {x : Action} {o : ArrOp} {c : Core}
    (hfeed : s.dev.feeding core = some (x, o)) (hfill : (s.dev.core core).fill o unit = some c) :
    exec (.bobbinFill core unit .ok) s = .next (s.setDev ((s.dev.setCore core c).creaseHs (boltOf core) 1)) := by
  change execBobbinFill core unit .ok s = _
  unfold State.dev at *
  unfold execBobbinFill
  rw [State.on_eq]
  simp only [hfeed, hfill]
  rfl

/-! ### A step within a window (04 R111, R115, R127) -/

/-- The entries of the rows of a group that the core holds. -/
def Core.grpEntries (c : Core) (o : ArrOp) (mb : Nat) : List Entry :=
  (List.range 16).map fun r => if r < o.rowsIn mb then c.held.getD r [] else []

/-- What a step takes of the held entries and of the tile of the group's quad; its products run over a compressed operand. -/
def Box.stepInput (b : Box) (core : Nat) (g : Grp) (o : ArrOp) : StepIn :=
  let ents := (b.dev.core core).grpEntries o g.mb
  let tile := b.wTile o core g.nb g.quad g.win
  { quad := g.quad, byRow := o.comp == 2, kept := o.nm
    ents := if o.comp == 2 then o.slice g.sub ents else ents
    tile := if o.comp == 2 then tile else o.slice g.sub tile }

/-- The step is the last one of the quad's window. -/
abbrev Box.stepThrough (b : Box) (core : Nat) (g : Grp) (o : ArrOp) : Prop :=
  o.stepsOf (if o.comp == 2 then (b.dev.core core).grpEntries o g.mb else b.wTile o core g.nb g.quad g.win) ≤ g.sub + 1

/-- The core after a step of a quad's window: the tile leaves the queue with the last one, and the group moves to the next quad or to
the quad's next step. -/
def Core.stepped (c : Core) (side : Bool) (gw : Nat) (g : Grp) (acc : Tbl Elem) (through : Prop) [Decidable through] : Core :=
  { c.popEntries gw with wq := if through then c.wq.drop 1 else c.wq }.setBank side
    ⟨some { g with quad := if through then g.quad + 1 else g.quad, sub := if through then 0 else g.sub + 1 }, acc⟩

/-- What a step that is not a window's first notes: the conditions of its products, and position codes of the weights beyond K. -/
def Dev.stepNotes (d : Dev) (core : Nat) (x : Action) (o : ArrOp) (sub : Nat) (conds : List Nat) (tile : List Entry) : Dev :=
  let d := (d.creaseHs (boltOf core) 0).ariths x core (Insn.opc x.w) o.df conds
  if o.comp = 1 ∧ sub = 0 then d.countBeyond core x o (beyond o tile) else d

theorem Dev.Noted.stepNotes (d : Dev) (core : Nat) (x : Action) (o : ArrOp) (sub : Nat) (conds : List Nat) (tile : List Entry) :
    d.Noted (d.stepNotes core x o sub conds tile) := by
  have hconds : d.Noted ((d.creaseHs (boltOf core) 0).ariths x core (Insn.opc x.w) o.df conds) := (creaseHs ..).trans (ariths ..)
  exact .ite _ (hconds.trans (.foldl (fun _ _ => condition ..) _ _)) hconds

/-- A step within a window that is not the group's last quad changes its core, and beside that makes its notes. -/
theorem Box.stepAt_within {b : Box} {core : Nat} {side : Bool} {g : Grp} {o : ArrOp} (x : Action) (err : List (Nat × W32))
    (hin : g.quad ≠ 0 ∨ g.sub ≠ 0) (hsampled : g.sampled = false)
    (hwq : (b.dev.core core).wq.head? = some (8 * (o.firstWin g.mb g.nb + g.win) + g.quad))
    (hmore : b.stepThrough core g o → g.quad + 1 < o.quads g.nb) :
    b.stepAt core side g x o g.win err = b.onD fun d =>
      (d.setCore core ((b.dev.core core).stepped side (o.firstWin g.mb g.nb + g.win) g
        (upset (stepBank ((b.dev.core core).bank side).acc (b.stepInput core g o)).1 err) (b.stepThrough core g o))).stepNotes core x o
          g.sub (stepBank ((b.dev.core core).bank side).acc (b.stepInput core g o)).2 (b.wTile o core g.nb g.quad g.win) := by
  have hfirst : (g.quad == 0 && g.sub == 0) = false := by
    simpa [Classical.or_iff_not_imp_left] using hin
  have hlast : ¬(b.stepThrough core g o ∧ g.quad + 1 = o.quads g.nb) := fun ⟨h, h'⟩ => by have := hmore h; omega
  unfold Box.stepThrough Core.grpEntries at hlast
  unfold Box.stepAt
  simp only [Core.stepped, hfirst, hsampled, hwq, hlast, Bool.not_false, Bool.true_or, BEq.rfl, Bool.and_self, Bool.not_true, Bool.false_eq_true,
    and_false, false_and, if_false, if_true]
  rfl

theorem Box.stepAt_within_core {b : Box} {core : Nat} {side : Bool} {g : Grp} {o : ArrOp} (x : Action) (err : List (Nat × W32))
    (hin : g.quad ≠ 0 ∨ g.sub ≠ 0) (hsampled : g.sampled = false)
    (hwq : (b.dev.core core).wq.head? = some (8 * (o.firstWin g.mb g.nb + g.win) + g.quad))
    (hmore : b.stepThrough core g o → g.quad + 1 < o.quads g.nb) :
    (b.stepAt core side g x o g.win err).dev.core core = (b.dev.core core).stepped side (o.firstWin g.mb g.nb + g.win) g
        (upset (stepBank ((b.dev.core core).bank side).acc (b.stepInput core g o)).1 err) (b.stepThrough core g o)
      ∧ (b.stepAt core side g x o g.win err).store = b.store := by
  rw [Box.stepAt_within x err hin hsampled hwq hmore, Box.onD_dev, (Dev.Noted.stepNotes ..).core, Dev.setCore_core_same]
  exact ⟨rfl, rfl⟩

theorem Core.stepped_bank (c : Core) (side : Bool) (gw : Nat) (g : Grp) (acc : Tbl Elem) (through : Prop) [Decidable through] :
    (c.stepped side gw g acc through).bank side =
      ⟨some { g with quad := if through then g.quad + 1 else g.quad, sub := if through then 0 else g.sub + 1 }, acc⟩ :=
  Core.bank_setBank_same ..

theorem Core.stepped_wq (c : Core) (side : Bool) (gw : Nat) (g : Grp) (acc : Tbl Elem) (through : Prop) [Decidable through] :
    (c.stepped side gw g acc through).wq = if through then c.wq.drop 1 else c.wq :=
  Core.setBank_wq ..

theorem exec_arrayStep_within {core : Fin 6144} {s : State} {side : Bool} {g : Grp} {x : Action} {o : ArrOp} (err : List (Nat × W32))
    (hprogress : s.dev.inProgress core = some (side, g, x, o)) (hin : g.quad ≠ 0 ∨ g.sub ≠ 0) :
    exec (.arrayStep core err) s = .next (s.setBox (s.box.stepAt core side g x o g.win err)) := by
  change execArrayStep core err s = _
  unfold State.dev at hprogress
  unfold execArrayStep
  rw [State.on_eq]
  simp only [hprogress, if_pos hin]

/-! ### The drain of a group (04 R117, R118, R134; 08 R255) -/

/-- Device memory is as before, and of every core at most the banks and the array commands differ. -/
structure Box.DrainsTo (b c : Box) : Prop where
  mem : c.store.mem = b.store.mem
  core : ∀ j, ∃ A B q, c.dev.core j = { b.dev.core j with bankA := A, bankB := B, arrq := q }

namespace Box.DrainsTo

theorem refl (b : Box) : b.DrainsTo b := ⟨rfl, fun _ => ⟨_, _, _, rfl⟩⟩

theorem trans {b c e : Box} (h : b.DrainsTo c) (h' : c.DrainsTo e) : b.DrainsTo e := by
  refine ⟨h'.mem.trans h.mem, fun j => ?_⟩
  obtain ⟨_, _, _, hc⟩ := h.core j
  obtain ⟨_, _, _, he⟩ := h'.core j
  exact ⟨_, _, _, by rw [he, hc]⟩

theorem of_scratchOnly {b c : Box} (h : b.ScratchOnly c) : b.DrainsTo c :=
  ⟨h.mem, fun j => ⟨_, _, _, by rw [h.dev]⟩⟩

theorem onD_noted {b : Box} {f : Dev → Dev} (h : b.dev.Noted (f b.dev)) : b.DrainsTo (b.onD f) :=
  ⟨rfl, fun j => ⟨_, _, _, h.core j⟩⟩

theorem updCore (b : Box) (k : Nat) {f : Core → Core} (h : ∀ c, ∃ A B q, f c = { c with bankA := A, bankB := B, arrq := q }) :
    b.DrainsTo (b.onD fun d => d.updCore k f) := by
  refine ⟨rfl, fun j => ?_⟩
  by_cases hj : j = k
  · obtain ⟨A, B, q, hf⟩ := h (b.dev.core k)
    exact ⟨A, B, q, by rw [hj, Box.onD_dev, Dev.updCore_same, hf]⟩
  · exact ⟨_, _, _, Dev.setCore_core_ne _ _ _ _ hj⟩

theorem action {b c : Box} (h : b.DrainsTo c) (a : Act) : c.dev.action a = b.dev.action a := by
  obtain ⟨_, _, _, hc⟩ := h.core a.cs.core
  unfold Dev.action Dev.stream
  rw [hc]
  cases a.cs.st <;> rfl

theorem inScratch {b c : Box} (h : b.DrainsTo c) {core hd : Nat} (hs : b.dev.InScratch core hd) : c.dev.InScratch core hd := by
  obtain ⟨_, _, _, hc⟩ := h.core core
  unfold Dev.InScratch
  rw [hc]
  exact hs

end Box.DrainsTo

theorem Box.deliver_drainsTo {b : Box} {core : Nat} {x : Action} {part : Nat} (hs : b.dev.InScratch core (arrOpOf x part).hd) (st : Str)
    (mb nb : Nat) (acc : Tbl Elem) : b.DrainsTo (b.deliver core x st part mb nb acc) := by
  unfold Box.deliver
  dsimp only
  split
  · exact .updCore b core fun c => ⟨_, _, _, rfl⟩
  · exact .of_scratchOnly (Box.hWriteEls_scratchOnly hs ..)

/-- The box when the values of a group are delivered and its bank is empty again. -/
def Box.drained (b : Box) (core : Nat) (side : Bool) (g : Grp) (x : Action) (conds : List Nat) : Box :=
  ((b.deliver core x g.st g.chalk g.mb g.nb ((b.dev.core core).bank side).acc).onD fun d =>
    d.ariths x core (Insn.opc x.w) (arrOpOf x g.chalk).df conds).onD fun d => d.updCore core fun c =>
      (c.setBank side .init).updCmd g.st g.id fun y => { y with drained := y.drained + 1 }

theorem Box.drained_drainsTo {b : Box} {core : Nat} {g : Grp} {x : Action} (hs : b.dev.InScratch core (arrOpOf x g.chalk).hd) (side : Bool)
    (conds : List Nat) : b.DrainsTo (b.drained core side g x conds) := by
  have hclear (c : Core) : ∃ A B q, (c.setBank side .init).updCmd g.st g.id (fun y => { y with drained := y.drained + 1 })
      = { c with bankA := A, bankB := B, arrq := q } := by
    cases side <;> exact ⟨_, _, _, rfl⟩
  exact (Box.deliver_drainsTo hs ..).trans (.trans (.onD_noted (.ariths ..)) (.updCore _ core hclear))

theorem Box.drained_bank (b : Box) (core : Nat) (side : Bool) (g : Grp) (x : Action) (conds : List Nat) :
    ((b.drained core side g x conds).dev.core core).bank side = .init := by
  rw [Box.drained, Box.onD_dev, Dev.updCore_same, Core.bank_updCmd, Core.bank_setBank_same]

theorem Box.drainBank_eq (b : Box) (core : Nat) (side : Bool) (g : Grp) (x : Action) :
    ∃ conds, b.drainBank core side g x = (b.drained core side g x conds).finishCmd core g.st g.id := ⟨_, rfl⟩

/-- The box when a command has left its core. -/
def Box.cmdLeft (b : Box) (core : Nat) (st : Str) (id : Nat) : Box :=
  b.onD fun d => d.updCore core fun c => { c with arrq := c.arrq.filter fun y => !(y.st == st && y.id == id) }

theorem Box.cmdLeft_bank (b : Box) (core : Nat) (st : Str) (id j : Nat) (side : Bool) :
    ((b.cmdLeft core st id).dev.core j).bank side = (b.dev.core j).bank side :=
  b.dev.updCore_keeps core (·.bank side) (fun c => by cases side <;> rfl) j

theorem Box.cmdLeft_drainsTo (b : Box) (core : Nat) (st : Str) (id : Nat) : b.DrainsTo (b.cmdLeft core st id) :=
  .updCore b core fun _ => ⟨_, _, _, rfl⟩

/-- The end of a command leaves the banks, and the device memory if the mask of a CHALK goes to the scratchpad. -/
theorem Box.finishCmd_keeps {b : Box} {core : Nat} {st : Str} {id : Nat} {x : Action} (hx : b.dev.action ⟨mkCS core st, id⟩ = some x)
    (hs : b.dev.InScratch core (Insn.hd x.w)) (side : Bool) :
    ((b.finishCmd core st id).dev.core core).bank side = (b.dev.core core).bank side
      ∧ (b.finishCmd core st id).store.mem = b.store.mem := by
  have hleft := b.cmdLeft_bank core st id core side
  unfold Box.finishCmd
  dsimp only
  rw [hx]
  cases (b.dev.core core).findCmd st id with
  | none => exact ⟨rfl, rfl⟩
  | some cmd =>
    dsimp only
    split
    · split
      · exact ⟨((b.cmdLeft core st id).dev.updCore_keeps core (·.bank side) (fun c => c.enqueue_bank ..) core).trans hleft, rfl⟩
      · rw [Box.onD_dev, Dev.actDone_bank]
        split
        · obtain ⟨hdev, hmem⟩ := Box.maskWrite_scratchOnly ((b.cmdLeft_drainsTo core st id).inScratch hs) ⟨mkCS core st, id⟩ rfl (hitBit cmd)
          exact ⟨(congrArg (fun d => (Dev.core d core).bank side) hdev).trans hleft, hmem⟩
        · exact ⟨hleft, rfl⟩
    · exact ⟨rfl, rfl⟩

/-- A drain whose destination and mask stand in the scratchpad leaves the bank empty, and the device memory as it is. -/
theorem Box.drainBank_empties {b : Box} {core : Nat} {side : Bool} {g : Grp} {x : Action} (hx : b.dev.action ⟨mkCS core g.st, g.id⟩ = some x)
    (hs : b.dev.InScratch core (arrOpOf x g.chalk).hd) (hmask : b.dev.InScratch core (Insn.hd x.w)) :
    ((b.drainBank core side g x).dev.core core).bank side = .init ∧ (b.drainBank core side g x).store.mem = b.store.mem := by
  obtain ⟨conds, heq⟩ := b.drainBank_eq core side g x
  have hdrains := Box.drained_drainsTo hs side conds
  obtain ⟨hbank, hmem⟩ := Box.finishCmd_keeps ((hdrains.action _).trans hx) (hdrains.inScratch hmask) side
  rw [heq]
  exact ⟨hbank.trans (b.drained_bank ..), hmem.trans hdrains.mem⟩

theorem exec_groupDrain {core : Fin 6144} {s : State} {side : Bool} {g : Grp} {x : Action}
    (hdrain : (s.dev.core core).draining = some side) (hg : ((s.dev.core core).bank side).grp = some g)
    (hx : s.dev.action ⟨mkCS core g.st, g.id⟩ = some x) :
    exec (.groupDrain core) s = .next (s.setBox (s.box.drainBank core side g x)) := by
  change execGroupDrain core s = _
  unfold State.dev at *
  unfold execGroupDrain
  rw [State.on_eq]
  simp only [hdrain, hg, hx]

/-- Settles O25: a group starts (`Box.startGroup_core`), is fed (`exec_bobbinFill`), takes a step within a window (`Box.stepAt_within`)
and drains (`Box.drainBank_empties`). -/
theorem accumulationGroupsRun : Obligations.AccumulationGroupsRun := by
  unfold Obligations.AccumulationGroupsRun
  intro core s
  refine ⟨fun cmd x sample ecc hecc hstart hshadow hnext hx hk => ?_, fun x o c unit hfeed hfill => ?_,
    fun side g x o err hprogress hin hsampled => ?_, fun side g x hdrain hg hx => ?_⟩
  · obtain ⟨sampled, hbank, hnextB⟩ := s.box.startGroup_core core cmd x sample hk
    exact ⟨_, _, exec_accumGroupStart hecc hstart hshadow hnext hx, ⟨rfl, rfl⟩, congrArg Bank.grp hbank, rfl, rfl, rfl, rfl, rfl, rfl, rfl, rfl,
      congrArg Bank.acc hbank, hnextB⟩
  · refine ⟨_, exec_bobbinFill hfeed hfill, ?_, rfl, rfl⟩
    rw [State.setDev_dev, (Dev.Noted.creaseHs ..).core, Dev.setCore_core_same]
  · intro ents tile byRow through hwq hmore
    obtain ⟨hcore, hstore⟩ := Box.stepAt_within_core (b := s.box) x err hin hsampled hwq hmore
    have hbank := (congrArg (Core.bank · side) hcore).trans (Core.stepped_bank ..)
    refine ⟨_, exec_arrayStep_within err hprogress hin, ⟨hstore, rfl⟩, congrArg Bank.grp hbank,
      (congrArg Core.wq hcore).trans (Core.stepped_wq ..), fun herr => ?_⟩
    subst herr
    exact congrArg Bank.acc hbank
  · refine ⟨_, exec_groupDrain hdrain hg hx, rfl, fun hs hmask => ?_⟩
    obtain ⟨hbank, hmem⟩ := Box.drainBank_empties (b := s.box) (side := side) hx hs hmask
    exact ⟨congrArg Bank.grp hbank, fun i => congrArg (Mem.byte · i) hmem⟩

end Sys2Proof.Machine

/-! SUPPORT. The fields of an instruction word, read back from the word that places them (05 R149, R150). -/

namespace Sys2Proof

open Sys2Proof.Safety

/-- A bit is its field of one bit. -/
theorem bitOf_of_fld {n : Nat} {w : BitVec n} {i : Nat} {b : Bool} (h : fld w i 1 = b.toNat) : bitOf w i = b := by
  unfold fld at h
  rw [Nat.shiftRight_eq_div_pow] at h
  rw [bitOf, Nat.testBit_eq_decide_div_mod_eq, ← Nat.pow_one 2, h]
  cases b <;> rfl

/-- The immediate of format S, sign-extended, is its two's complement reading. -/
theorem sext_toNat (imm : BitVec 23) : sext 23 imm.toNat = imm.toInt := by
  have hlt := imm.isLt
  unfold sext
  rw [Nat.mod_eq_of_lt hlt, BitVec.toInt_eq_toNat_cond]
  split <;> split <;> omega

section
variable (opc : BitVec 8) (g pn : Bool) (psel : BitVec 3) (tidx : BitVec 12)

theorem wordOf_toNat {rest : Nat} (h : rest < 2 ^ 39) : (wordOf opc g pn psel tidx rest).toNat =
    opc.toNat * 2 ^ 56 + g.toNat * 2 ^ 55 + pn.toNat * 2 ^ 54 + psel.toNat * 2 ^ 51 + tidx.toNat * 2 ^ 39 + rest := by
  have hopc := opc.isLt
  have hg := g.toNat_le
  have hpn := pn.toNat_le
  have hpsel := psel.isLt
  have htidx := tidx.isLt
  rw [wordOf, BitVec.toNat_ofNat, Nat.mod_eq_of_lt]
  omega

/-- The fields common to all instructions. -/
theorem wordOf_common {rest : Nat} (h : rest < 2 ^ 39) :
    Insn.opc (wordOf opc g pn psel tidx rest) = opc.toNat ∧ Insn.g (wordOf opc g pn psel tidx rest) = g
      ∧ Insn.pn (wordOf opc g pn psel tidx rest) = pn ∧ Insn.psel (wordOf opc g pn psel tidx rest) = psel.toNat
      ∧ Insn.tidx (wordOf opc g pn psel tidx rest) = tidx.toNat := by
  have hopc := opc.isLt
  have hg := g.toNat_le
  have hpn := pn.toNat_le
  have hpsel := psel.isLt
  have htidx := tidx.isLt
  refine ⟨?_, bitOf_of_fld ?_, bitOf_of_fld ?_, ?_, ?_⟩ <;>
    (simp only [Insn.opc, Insn.psel, Insn.tidx, fld, wordOf_toNat opc g pn psel tidx h, Nat.shiftRight_eq_div_pow]; omega)

/-- A field below bit 39 is that of the format's part. -/
theorem fld_wordOf_rest {rest lo len : Nat} (h : rest < 2 ^ 39) (hlen : lo + len ≤ 39) :
    fld (wordOf opc g pn psel tidx rest) lo len = rest / 2 ^ lo % 2 ^ len := by
  have hsplit : ∃ k, (wordOf opc g pn psel tidx rest).toNat = rest + 2 ^ lo * (2 ^ len * k) := by
    refine ⟨2 ^ (39 - (lo + len)) *
      (opc.toNat * 2 ^ 17 + g.toNat * 2 ^ 16 + pn.toNat * 2 ^ 15 + psel.toNat * 2 ^ 12 + tidx.toNat), ?_⟩
    rw [wordOf_toNat opc g pn psel tidx h, ← Nat.mul_assoc, ← Nat.mul_assoc, ← Nat.pow_add, ← Nat.pow_add,
      Nat.add_sub_cancel' hlen]
    omega
  obtain ⟨k, hk⟩ := hsplit
  rw [fld, hk, Nat.shiftRight_eq_div_pow, Nat.add_mul_div_left _ _ (by positivity), Nat.add_mul_mod_self_left]

/-- Format C. -/
theorem wordOf_formatC (ridx : BitVec 12) (ha hb hc hd : BitVec 6) {rest : Nat}
    (hrest : rest = ridx.toNat * 2 ^ 27 + ha.toNat * 2 ^ 21 + hb.toNat * 2 ^ 15 + hc.toNat * 2 ^ 9 + hd.toNat * 2 ^ 3) :
    rest < 2 ^ 39 ∧ Insn.ridx (wordOf opc g pn psel tidx rest) = ridx.toNat ∧ Insn.ha (wordOf opc g pn psel tidx rest) = ha.toNat
      ∧ Insn.hb (wordOf opc g pn psel tidx rest) = hb.toNat ∧ Insn.hc (wordOf opc g pn psel tidx rest) = hc.toNat
      ∧ Insn.hd (wordOf opc g pn psel tidx rest) = hd.toNat := by
  have hridx := ridx.isLt
  have hha := ha.isLt
  have hhb := hb.isLt
  have hhc := hc.isLt
  have hhd := hd.isLt
  have hlt : rest < 2 ^ 39 := by omega
  refine ⟨hlt, ?_, ?_, ?_, ?_, ?_⟩
  all_goals
    refine (fld_wordOf_rest opc g pn psel tidx hlt (by decide)).trans ?_
    omega

/-- Format S. -/
theorem wordOf_formatS (sd sa sb : BitVec 5) (is : Bool) (imm : BitVec 23) {rest : Nat}
    (hrest : rest = sd.toNat * 2 ^ 34 + sa.toNat * 2 ^ 29 + sb.toNat * 2 ^ 24 + is.toNat * 2 ^ 23 + imm.toNat) :
    rest < 2 ^ 39 ∧ Insn.sd (wordOf opc g pn psel tidx rest) = sd.toNat ∧ Insn.sa (wordOf opc g pn psel tidx rest) = sa.toNat
      ∧ Insn.sb (wordOf opc g pn psel tidx rest) = sb.toNat ∧ Insn.is (wordOf opc g pn psel tidx rest) = is
      ∧ Insn.imm (wordOf opc g pn psel tidx rest) = imm.toNat := by
  have hsd := sd.isLt
  have hsa := sa.isLt
  have hsb := sb.isLt
  have his := is.toNat_le
  have himm := imm.isLt
  have hlt : rest < 2 ^ 39 := by omega
  refine ⟨hlt, ?_, ?_, ?_, bitOf_of_fld ?_, ?_⟩
  all_goals
    refine (fld_wordOf_rest opc g pn psel tidx hlt (by decide)).trans ?_
    omega

/-- Format K. -/
theorem wordOf_formatK (kid : BitVec 14) (sa sb : BitVec 5) (rs rmt : Bool) (imm : BitVec 13) {rest : Nat}
    (hrest : rest = kid.toNat * 2 ^ 25 + sa.toNat * 2 ^ 20 + rs.toNat * 2 ^ 19 + sb.toNat * 2 ^ 14 + rmt.toNat * 2 ^ 13 + imm.toNat) :
    rest < 2 ^ 39 ∧ Insn.kid (wordOf opc g pn psel tidx rest) = kid.toNat ∧ Insn.ksa (wordOf opc g pn psel tidx rest) = sa.toNat
      ∧ Insn.krs (wordOf opc g pn psel tidx rest) = rs ∧ Insn.ksb (wordOf opc g pn psel tidx rest) = sb.toNat
      ∧ Insn.krmt (wordOf opc g pn psel tidx rest) = rmt ∧ Insn.kimm (wordOf opc g pn psel tidx rest) = imm.toNat := by
  have hkid := kid.isLt
  have hsa := sa.isLt
  have hsb := sb.isLt
  have hrs := rs.toNat_le
  have hrmt := rmt.toNat_le
  have himm := imm.isLt
  have hlt : rest < 2 ^ 39 := by omega
  refine ⟨hlt, ?_, ?_, bitOf_of_fld ?_, ?_, bitOf_of_fld ?_, ?_⟩
  all_goals
    refine (fld_wordOf_rest opc g pn psel tidx hlt (by decide)).trans ?_
    omega

end

/-- Settles O8: the fields of each format stand below bit 39, the common ones above it. -/
theorem instructionWordsDecode : Obligations.InstructionWordsDecode := by
  unfold Obligations.InstructionWordsDecode
  intro opc g pn psel tidx
  refine ⟨fun ridx ha hb hc hd => ?_, fun sd sa sb is imm => ?_, fun kid sa sb rs rmt imm => ?_⟩
  · obtain ⟨hlt, hfields⟩ := wordOf_formatC opc g pn psel tidx ridx ha hb hc hd rfl
    exact ⟨wordOf_common opc g pn psel tidx hlt, hfields⟩
  · obtain ⟨hlt, hsd, hsa, hsb, his, himm⟩ := wordOf_formatS opc g pn psel tidx sd sa sb is imm rfl
    refine ⟨wordOf_common opc g pn psel tidx hlt, hsd, hsa, hsb, his, himm, ?_⟩
    rw [Insn.simm, himm, sext_toNat]
  · obtain ⟨hlt, hfields⟩ := wordOf_formatK opc g pn psel tidx kid sa sb rs rmt imm rfl
    exact ⟨wordOf_common opc g pn psel tidx hlt, hfields⟩

end Sys2Proof

/-! SUPPORT. What an instruction of a stream that is not an action leaves: a scalar written, a predicate or a loop counter written, or
the stream moved on (05 R149, R150, R159). -/

namespace Sys2Proof.Machine

open Sys2Proof.Safety

/-! ### The command of an instruction that is issued -/

section
variable {cs : CS} {w : W64} {o : Nat} {s : State} (h : issues cs w o s)
include h

theorem onDev_issue_run (f : Dev → Dev) : (s.onDev fun d => d.issue cs w o f) = .next (s.setDev (f s.dev)) := by
  rw [State.onDev_eq, Dev.issue_run _ _ _ _ _ h.1 h.2]

theorem onDev_issueS_run (same : Bool) (f : Dev → Dev) :
    (s.onDev fun d => d.issueS cs w same o f) = .next (s.setDev (f (s.dev.reach cs same))) :=
  onDev_issue_run h _

end

section
variable {cs : CS} {w : W64} {o : Nat} {s : State} (hp : s.dev.presented cs w o = true) (hg : (s.dev.stream cs).guard w = false)
include hp hg

theorem onDev_issue_skip (f : Dev → Dev) : (s.onDev fun d => d.issue cs w o f) = .next (s.setDev (s.dev.advance cs)) := by
  rw [State.onDev_eq, Dev.issue_skip _ _ _ _ _ hp hg]

/-- An instruction whose effect reaches beyond the device. -/
theorem on_issue_skip (f : Box → Box) :
    (s.on fun b => if b.dev.presented cs w o then (if (b.dev.stream cs).guard w then f b else b.onD fun d => d.advance cs) else b)
      = .next (s.setDev (s.dev.advance cs)) := by
  unfold State.dev at hp hg
  rw [State.on_eq]
  simp only [hp, hg, if_true, Bool.false_eq_true, if_false]
  rfl

end

/-! ### Changing a stream after its access reached an update step -/

theorem onlyStream_reach_updStream (s : State) (cs : CS) (same : Bool) (f : StreamSt → StreamSt) :
    onlyStream cs s (s.setDev ((s.dev.reach cs same).updStream cs f)) := by
  refine ⟨⟨⟨rfl, rfl⟩, rfl, fun j hj => ?_⟩, f (s.dev.stream cs), (s.dev.core cs.core).shared, ((s.dev.core cs.core).reach cs.st same).cyc, ?_⟩
  · exact (Dev.setCore_core_ne _ _ _ _ hj).trans (Dev.setCore_core_ne _ _ _ _ hj)
  · change ((s.dev.reach cs same).updStream cs f).core cs.core = _
    unfold Dev.updStream Dev.setStream
    rw [Dev.stream_reach]
    unfold Dev.updCore
    rw [Dev.setCore_core_same, Dev.core_reach]
    unfold Core.reach
    obtain ⟨c, st⟩ := cs
    split <;> cases st <;> rfl

/-- What stands after a change of a stream that leaves its scalars. -/
theorem sameScalars_reach_updStream (s : State) (cs : CS) (same : Bool) {f : StreamSt → StreamSt} (hf : ∀ x, (f x).s = x.s) :
    sameScalars cs s (s.setDev ((s.dev.reach cs same).updStream cs f)) := fun n =>
  (Dev.sreg_updStream _ _ _ (hf _) n).trans (Dev.sreg_reach ..)

theorem sameScalars_updStream (s : State) (cs : CS) {f : StreamSt → StreamSt} (hf : ∀ x, (f x).s = x.s) :
    sameScalars cs s (s.setDev (s.dev.updStream cs f)) := fun n => Dev.sreg_updStream _ _ _ (hf _) n

theorem stream_reach_updStream (s : State) (cs : CS) (same : Bool) (f : StreamSt → StreamSt) :
    (s.setDev ((s.dev.reach cs same).updStream cs f)).dev.stream cs = f (s.dev.stream cs) := by
  rw [State.setDev_dev, Dev.updStream_same, Dev.stream_reach]

theorem stream_updStream (s : State) (cs : CS) (f : StreamSt → StreamSt) :
    (s.setDev (s.dev.updStream cs f)).dev.stream cs = f (s.dev.stream cs) := Dev.updStream_same ..

/-! ### An instruction that writes a scalar (05 R147, R159) -/

/-- The stream of a device after a scalar is written and the stream changed. -/
theorem stream_setSreg_updStream (s : State) (cs : CS) (same : Bool) (n : Nat) (v : W32) (f : StreamSt → StreamSt) :
    ∃ a, (s.setDev (((s.dev.reach cs same).setSreg cs n v).updStream cs f)).dev.stream cs = f { s.dev.stream cs with s := a } := by
  refine ⟨(((s.dev.reach cs same).setSreg cs n v).stream cs).s, ?_⟩
  rw [State.setDev_dev, Dev.updStream_same]
  conv_lhs => rw [Dev.stream_setSreg, Dev.stream_reach]

/-- A scalar written, and the stream at its next instruction: what the statements say of it. -/
theorem scalarWritten (s : State) (cs : CS) (same : Bool) (n : Nat) (v : W32) :
    let t := s.setDev (((s.dev.reach cs same).setSreg cs n v).advance cs)
    wroteScalar cs same n v s t ∧ movedOn cs s t ∧ samePreds cs s t ∧ sameLoops cs s t ∧ onlyStream cs s t := by
  intro t
  obtain ⟨a, hstream⟩ := stream_setSreg_updStream s cs same n v StreamSt.next
  refine ⟨wroteScalar_setSreg s cs same n v _ fun _ => rfl, ⟨a, _, _, hstream⟩, ?_, fun m => ?_, onlyStream_setSreg s cs same n v _⟩
  · exact (congrArg StreamSt.p hstream :)
  · exact (congrArg (StreamSt.lcr · m) hstream :)

/-! ### ADD to MAXU -/

theorem add_eq_word (a b : W32) : a + b = word (a.toNat + b.toNat) := by
  simp [word, BitVec.ofNat_add]

theorem sub_eq_word (a b : W32) : a - b = word (a.toNat + (2 ^ 32 - b.toNat)) :=
  BitVec.eq_of_toNat_eq (by rw [BitVec.toNat_sub, word, BitVec.toNat_ofNat, Nat.add_comm])

theorem mul_eq_word (a b : W32) : a * b = word (a.toNat * b.toNat) :=
  BitVec.eq_of_toNat_eq (by rw [BitVec.toNat_mul, word, BitVec.toNat_ofNat])

/-- A word whose value is a number below 2^32. -/
theorem eq_word {a : W32} {n : Nat} (h : a.toNat = n) : a = word n := by
  subst h
  simp [word]

theorem shl_eq_word (a b : W32) : a <<< shamt b = word (a.toNat * 2 ^ (b.toNat % 32)) :=
  BitVec.eq_of_toNat_eq (by rw [BitVec.toNat_shiftLeft, Nat.shiftLeft_eq, word, BitVec.toNat_ofNat, shamt])

theorem shr_eq_word (a b : W32) : a >>> shamt b = word (a.toNat / 2 ^ (b.toNat % 32)) :=
  eq_word (by rw [BitVec.toNat_ushiftRight, Nat.shiftRight_eq_div_pow, shamt])

theorem sar_eq_ofInt (a b : W32) : a.sshiftRight (shamt b) = BitVec.ofInt 32 (a.toInt / 2 ^ (b.toNat % 32)) := by
  rw [BitVec.sshiftRight, Int.shiftRight_eq_div_pow, shamt]
  norm_cast

theorem minS_eq (a b : W32) : minS a b = if a.toInt ≤ b.toInt then a else b := by
  unfold minS
  rcases lt_trichotomy a.toInt b.toInt with h | h | h
  · rw [if_pos h, if_pos h.le]
  · rw [BitVec.eq_of_toInt_eq h, ite_self, ite_self]
  · rw [if_neg h.not_gt, if_neg h.not_ge]

theorem maxS_eq (a b : W32) : maxS a b = if a.toInt ≤ b.toInt then b else a := by
  unfold maxS
  rcases lt_trichotomy a.toInt b.toInt with h | h | h
  · rw [if_pos h, if_pos h.le]
  · rw [BitVec.eq_of_toInt_eq h, ite_self, ite_self]
  · rw [if_neg h.not_gt, if_neg h.not_ge]

theorem minU_eq_word (a b : W32) : minU a b = word (min a.toNat b.toNat) := by
  unfold minU
  split
  next h => exact eq_word (by omega)
  next h => exact eq_word (by omega)

theorem maxU_eq_word (a b : W32) : maxU a b = word (max a.toNat b.toNat) := by
  unfold maxU
  split
  next h => exact eq_word (by omega)
  next h => exact eq_word (by omega)

theorem exec_aluForms {e} (he : e ∈ aluForms) (cs : CS) (w : W64) (same : Bool) (s : State) :
    exec (e.1 cs w same) s = s.onDev fun d => d.alu cs w same e.2.1 e.2.2 := by
  have hop : ∀ {o : Nat} {f g : W32 → W32 → W32}, (∀ a b, f a b = g a b) →
      (s.onDev fun d => d.alu cs w same o f) = s.onDev fun d => d.alu cs w same o g := by
    intro o f g h
    rw [funext₂ h]
  fin_cases he
  · exact hop add_eq_word
  · exact hop sub_eq_word
  · exact hop mul_eq_word
  · exact hop fun a b => eq_word (BitVec.toNat_and a b)
  · exact hop fun a b => eq_word (BitVec.toNat_or a b)
  · exact hop fun a b => eq_word (BitVec.toNat_xor a b)
  · exact hop shl_eq_word
  · exact hop shr_eq_word
  · exact hop sar_eq_ofInt
  · exact hop minS_eq
  · exact hop maxS_eq
  · exact hop minU_eq_word
  · exact hop maxU_eq_word

/-- Settles O10: each form is one operation on two operands (`exec_aluForms`), whose result is written (`scalarWritten`). -/
theorem scalarArithmeticResults : Obligations.ScalarArithmeticResults := by
  unfold Obligations.ScalarArithmeticResults
  intro e he cs w same s h
  rw [exec_aluForms he]
  exact ⟨_, onDev_issueS_run h same _, scalarWritten s cs same ..⟩

end Sys2Proof.Machine

/-! SUPPORT. LI, LIH, GETLC and GETS: what they write, and two streams that write one shared scalar (00 R562; 05 R147, R160, R161). -/

namespace Sys2Proof.Machine

open Sys2Proof.Safety

/-! ### One scalar written (05 R159) -/

theorem load_writes {cs : CS} {w : W64} {o : Nat} {s : State} (h : issues cs w o s) (same : Bool) (v : Dev → W32) :
    ∃ t, (s.onDev fun d => d.load cs w same o v) = .next t ∧ wroteScalar cs same (Insn.sd w) (v (s.dev.reach cs same)) s t
      ∧ movedOn cs s t ∧ samePreds cs s t ∧ sameLoops cs s t ∧ onlyStream cs s t :=
  ⟨_, onDev_issueS_run h same _, scalarWritten s cs same _ _⟩

theorem lihValue_high (old : W32) (w : W64) : fld (lihValue old w) 16 16 = Insn.imm w % 2 ^ 16 := by
  unfold fld lihValue
  rw [BitVec.toNat_ofNat, Nat.shiftRight_eq_div_pow]
  omega

theorem lihValue_low (old : W32) (w : W64) : fld (lihValue old w) 0 16 = fld old 0 16 := by
  unfold fld lihValue
  rw [BitVec.toNat_ofNat, Nat.shiftRight_zero, Nat.shiftRight_zero]
  omega

/-! ### Two streams write one shared scalar in one update step (05 R147) -/

/-- Every stream of a core reads the same in a shared scalar. -/
theorem Dev.sreg_shared {n : Nat} (hn : 24 ≤ n) (d : Dev) (cs : CS) : d.sreg cs n = getD (d.core cs.core).shared n 0 :=
  if_neg (by omega)

/-- A core whose present update step has one write of shared scalar `n`, by stream `st`, before which it held `old`. -/
structure Core.OneWrite (c : Core) (st : Str) (n : Nat) (old v : W32) : Prop where
  streams : c.cyc.streams = [st]
  before : c.cyc.before = [(n, old)]
  rank : c.cyc.rank = [(n, strRank st)]
  shared : getD c.shared n 0 = v

section
variable {c : Core} {st st' : Str} {n : Nat} {old v : W32} (h : c.OneWrite st n old v) (hst : st' ≠ st)
include h hst

/-- Another stream's access reaches that same update step. -/
theorem Core.OneWrite.reach : c.reach st' true = { c with cyc := { c.cyc with streams := [st, st'] } } := by
  unfold Core.reach
  rw [if_pos (by simp [h.streams, hst]), h.streams]
  rfl

/-- There it reads the value before the write. -/
theorem Core.OneWrite.seen (hn : 24 ≤ n) : (c.reach st' true).seen st' n = old := by
  rw [h.reach hst, Core.seen, if_neg (by omega), h.before]
  simp [get?]

/-- Of the two writes the one that comes later in the order B, F, U stands. -/
theorem Core.OneWrite.second_write (hn : 24 ≤ n) (v' : W32) :
    getD ((c.reach st' true).setSreg st' n v').shared n 0 = if strRank st < strRank st' then v' else v := by
  have hrank : strRank st ≠ strRank st' := by
    revert hst
    cases st <;> cases st' <;> decide
  rw [h.reach hst, Core.setSreg, if_neg (by omega), Core.putShared_shared]
  rcases Nat.lt_or_gt_of_ne hrank with hlt | hgt
  · rw [if_neg (by simp [h.rank, get?, hlt.le]), if_pos hlt, getD_put_same]
  · rw [if_pos (by simpa [h.rank, get?] using hgt), if_neg hgt.not_gt]
    exact h.shared

end

/-- A stream's first write of an update step. -/
theorem Core.oneWrite_first (c : Core) (st : Str) {n : Nat} (hn : 24 ≤ n) (v : W32) (x : StreamSt) :
    (((c.reach st false).setSreg st n v).setStream st x).OneWrite st n (getD c.shared n 0) v := by
  rw [Core.setSreg, if_neg (by omega)]
  cases st <;> exact ⟨rfl, rfl, rfl, getD_put_same _ _ _ _⟩

/-- What a stream presents rests on its own registers, the contexts and the Tape. -/
theorem Dev.presented_congr {d e : Dev} {cs : CS} (hstream : e.stream cs = d.stream cs) (hctxs : e.ctxs = d.ctxs)
    (htape : e.tape = d.tape) (w : W64) (o : Nat) : e.presented cs w o = d.presented cs w o := by
  have hctx : ∀ n, e.ctx n = d.ctx n := fun n => congrArg (fun t => getD t n Ctx.init) hctxs
  have hnow : e.now = d.now := congrArg TapeSt.now htape
  unfold Dev.presented Dev.mayIssue Dev.issuing Dev.insnAt
  simp only [hstream, hctx, hnow]

/-- LI, core by core. -/
theorem li_core {cs : CS} {w : W64} {s : State} (h : issues cs w 0x1D s) (same : Bool) :
    ∃ t x, exec (.li cs w same) s = .next t ∧ t.dev.ctxs = s.dev.ctxs ∧ t.dev.tape = s.dev.tape
      ∧ t.dev.core cs.core = (((s.dev.core cs.core).reach cs.st same).setSreg cs.st (Insn.sd w)
          (BitVec.ofInt 32 (Insn.simm w))).setStream cs.st x := by
  refine ⟨_, ((((s.dev.core cs.core).reach cs.st same).setSreg cs.st (Insn.sd w) (BitVec.ofInt 32 (Insn.simm w))).stream cs.st).next,
    onDev_issueS_run h same _, rfl, rfl, ?_⟩
  rw [State.setDev_dev]
  unfold Dev.advance Dev.updStream Dev.setStream Dev.stream Dev.setSreg Dev.reach Dev.updCore
  simp only [Dev.setCore_core_same]

theorem li_by_two_streams {k : Fin 6144} {st₁ st₂ : Str} (hst : st₂ ≠ st₁) {w₁ w₂ : W64} {s : State} (h₁ : issues ⟨k, st₁⟩ w₁ 0x1D s)
    (h₂ : issues ⟨k, st₂⟩ w₂ 0x1D s) (hn : 24 ≤ Insn.sd w₁) (hsd : Insn.sd w₂ = Insn.sd w₁) :
    ∃ t u, exec (.li ⟨k, st₁⟩ w₁ false) s = .next t ∧ exec (.li ⟨k, st₂⟩ w₂ true) t = .next u
      ∧ scalarRead ⟨k, st₂⟩ true t (Insn.sd w₁) = s.dev.sreg ⟨k, st₁⟩ (Insn.sd w₁)
      ∧ scalarRead ⟨k, st₂⟩ false t (Insn.sd w₁) = BitVec.ofInt 32 (Insn.simm w₁)
      ∧ u.dev.sreg ⟨k, st₁⟩ (Insn.sd w₁)
          = if strRank st₁ < strRank st₂ then BitVec.ofInt 32 (Insn.simm w₂) else BitVec.ofInt 32 (Insn.simm w₁) := by
  obtain ⟨t, x, ht, hctxs, htape, hcore⟩ := li_core h₁ false
  have hone := (s.dev.core k).oneWrite_first st₁ hn (BitVec.ofInt 32 (Insn.simm w₁)) x
  rw [← hcore] at hone
  have hstream : t.dev.stream ⟨k, st₂⟩ = s.dev.stream ⟨k, st₂⟩ := by
    unfold Dev.stream
    rw [hcore, Core.setStream_ne _ _ hst, Core.setSreg_ne _ _ _ hst, Core.reach_stream]
  have h₂' : issues ⟨k, st₂⟩ w₂ 0x1D t := by
    rw [issues, Dev.presented_congr hstream hctxs htape, hstream]
    exact h₂
  obtain ⟨u, y, hu, -, -, hcore'⟩ := li_core h₂' true
  rw [hsd] at hcore'
  refine ⟨t, u, ht, hu, ?_, ?_, ?_⟩
  · rw [scalarRead, Dev.seen, Dev.core_reach, hone.seen hst hn, Dev.sreg_shared hn]
  · rw [scalarRead, Dev.seen, Dev.core_reach, Core.seen_reach_new, Core.sreg, if_neg (by omega)]
    exact hone.shared
  · rw [Dev.sreg_shared hn, hcore', Core.setStream_shared, hone.second_write hst hn]

/-- The order B, F, U. -/
theorem strRank_lt_iff {st₁ st₂ : Str} (hst : st₁ ≠ st₂) : strRank st₁ < strRank st₂ ↔ st₁ = .B ∨ st₂ = .U := by
  revert hst
  cases st₁ <;> cases st₂ <;> decide

/-- Settles O11: each form writes one scalar (`load_writes`); of two writes in one update step the later stream's stands (`li_by_two_streams`). -/
theorem scalarLoadResults : Obligations.ScalarLoadResults := by
  unfold Obligations.ScalarLoadResults
  refine ⟨fun cs w same s => ⟨fun h => load_writes h same _, fun h => ?_, fun h => ?_⟩, ?_⟩
  · obtain ⟨t, ht, hwrote⟩ := load_writes h same fun d => lihValue (d.seen cs (Insn.sd w)) w
    exact ⟨t, _, ht, lihValue_high _ w, lihValue_low _ w, hwrote⟩
  · obtain ⟨t, ht, hwrote⟩ := load_writes h same fun d => (d.stream cs).lcr (Insn.sa w % 4)
    rw [Dev.stream_reach] at hwrote
    exact ⟨t, ht, hwrote⟩
  · rintro ⟨k, st₁⟩ ⟨-, st₂⟩ w₁ w₂ s rfl hst h₁ h₂ hn hsd
    obtain ⟨t, u, ht, hu, hold, hnew, hlast⟩ := li_by_two_streams (Ne.symm hst) h₁ h₂ hn hsd
    refine ⟨t, u, ht, hu, hold, hnew, fun hlater => ?_, fun hlater => ?_⟩
    · rw [hlast, if_pos ((strRank_lt_iff hst).mpr hlater)]; rfl
    · rw [hlast, if_neg (mt (strRank_lt_iff hst).mp hlater)]; rfl

end Sys2Proof.Machine

/-! SUPPORT. GETS: the special registers, and the latch of the Tape's high half (05 R160, R161). -/

namespace Sys2Proof.Machine

open Sys2Proof.Safety

/-- The stream with another latched high half of the Tape. -/
def StreamSt.latched (x : StreamSt) (v : W32) : StreamSt := { x with tapeHi := v }

/-- What the latch holds after a read of a code. -/
def Dev.tapeHiAfter (d : Dev) (cs : CS) (code : Nat) : W32 :=
  if code = 3 then BitVec.ofNat 32 (d.now / 2 ^ 32) else (d.stream cs).tapeHi

theorem Dev.latchTape_reach (d : Dev) (cs : CS) (same : Bool) (code : Nat) :
    (d.reach cs same).latchTape cs code = (d.reach cs same).updStream cs (·.latched (d.tapeHiAfter cs code)) := by
  unfold Dev.latchTape Dev.tapeHiAfter
  split
  · rfl
  · exact (Dev.updStream_reach_self (f := (·.latched (d.stream cs).tapeHi)) rfl).symm

/-- Latching and writing a scalar commute. -/
theorem Dev.setSreg_latched (d : Dev) (cs : CS) (n : Nat) (v t : W32) :
    (d.updStream cs (·.latched t)).setSreg cs n v = (d.setSreg cs n v).updStream cs (·.latched t) := by
  have hcore : ∀ (c : Core) (st : Str), (c.setStream st ((c.stream st).latched t)).setSreg st n v
      = (c.setSreg st n v).setStream st (((c.setSreg st n v).stream st).latched t) := by
    intro c st
    unfold Core.setSreg Core.putShared
    dsimp only
    split
    · cases st <;> rfl
    · have hcyc : (c.setStream st ((c.stream st).latched t)).cyc = c.cyc := by cases st <;> rfl
      rw [hcyc, Core.setStream_shared]
      split <;> cases st <;> rfl
  unfold Dev.updStream Dev.setStream Dev.stream Dev.setSreg Dev.updCore
  simp only [Dev.setCore_core_same, hcore]
  simp only [Dev.setCore, put_put_same]

theorem word_toNat {n : Nat} (v : BitVec n) : word v.toNat = v.setWidth 32 :=
  BitVec.eq_of_toNat_eq (by simp [word])

@[simp] theorem Dev.special_reach (d : Dev) (cs : CS) (same : Bool) (code : Nat) :
    (d.reach cs same).special cs code = d.special cs code := by
  unfold Dev.special
  rw [Dev.stream_reach]
  rfl

section
variable {cs : CS} {w : W64} {s : State} (h : issues cs w 0x1F s) (same : Bool)
include h

theorem gets_writes (hgen : Insn.imm w % 16 = 6 → (s.dev.stream cs).genPending = false) :
    exec (.gets cs w same) s = .next (s.setDev (((s.dev.reach cs same).setSreg cs (Insn.sd w) (s.dev.special cs (Insn.imm w % 16))).updStream cs
      fun x => (x.latched (s.dev.tapeHiAfter cs (Insn.imm w % 16))).next)) := by
  refine (onDev_issueS_run h same _).trans ?_
  dsimp only
  rw [Dev.stream_reach, if_neg (by rintro ⟨h6, hp⟩; simp [hgen h6] at hp), Dev.latchTape_reach, Dev.setSreg_latched, Dev.special_reach]
  unfold Dev.advance
  rw [Dev.updStream_updStream]

theorem gets_waits (h6 : Insn.imm w % 16 = 6) (hgen : (s.dev.stream cs).genPending = true) :
    exec (.gets cs w same) s = .next (s.setDev (s.dev.reach cs same)) := by
  refine (onDev_issueS_run h same _).trans ?_
  dsimp only
  rw [Dev.stream_reach, if_pos ⟨h6, hgen⟩]

end

/-- An access that reaches an update step and changes nothing else. -/
theorem onlyStream_reach (s : State) (cs : CS) (same : Bool) : onlyStream cs s (s.setDev (s.dev.reach cs same)) := by
  have h := onlyStream_reach_updStream s cs same id
  rwa [Dev.updStream_reach_self rfl] at h

/-- Settles O12: the special register is written and the latch follows (`gets_writes`), or the read waits (`gets_waits`). -/
theorem specialRegisterReads : Obligations.SpecialRegisterReads := by
  unfold Obligations.SpecialRegisterReads
  intro cs w same s h
  refine ⟨fun hgen => ⟨_, gets_writes h same hgen, ?_, ?_⟩, fun h6 hgen => ⟨_, gets_waits h same h6 hgen, ?_⟩⟩
  · have hspecial := wroteScalar_setSreg s cs same (Insn.sd w) (s.dev.special cs (Insn.imm w % 16))
      (fun x => (x.latched (s.dev.tapeHiAfter cs (Insn.imm w % 16))).next) fun _ => rfl
    convert hspecial using 1
    unfold Dev.special
    split
    case h_7 h6 => rw [h6]; exact word_toNat _
    case h_9 h8 => rw [h8]; exact word_toNat _
    case h_10 h0 h1 h2 h3 h4 h5 h6 h7 h8 =>
      rw [if_neg h0, if_neg h1, if_neg h2, if_neg h3, if_neg h4, if_neg h5, if_neg h6, if_neg h7, if_neg h8]
    all_goals
      rw [‹Insn.imm w % 16 = _›]
      rfl
  · obtain ⟨a, hstream⟩ := stream_setSreg_updStream s cs same (Insn.sd w) (s.dev.special cs (Insn.imm w % 16))
      fun x => (x.latched (s.dev.tapeHiAfter cs (Insn.imm w % 16))).next
    refine ⟨?_, ?_, ?_, ?_, ?_⟩
    · exact (congrArg StreamSt.tapeHi hstream :)
    · exact (congrArg StreamSt.pc hstream :)
    · exact (congrArg StreamSt.p hstream :)
    · exact fun m => (congrArg (StreamSt.lcr · m) hstream :)
    · exact onlyStream_setSreg s cs same _ _ _
  · exact ⟨Dev.stream_reach .., fun n => Dev.sreg_reach .., onlyStream_reach s cs same⟩

end Sys2Proof.Machine

/-! SUPPORT. Comparisons, predicates, branches and loop counters, and the instructions whose guard fails (05 R149, R150, R159). -/

namespace Sys2Proof.Machine

open Sys2Proof.Safety

/-! ### A predicate written -/

/-- What the statements say of a stream that has written predicate `k` and moved on. -/
theorem predWritten {cs : CS} {s t : State} {k : Nat} {v : Bool} (hk : k < 8)
    (hstream : t.dev.stream cs = ((s.dev.stream cs).setPred k v).next) :
    (∀ n, n < 8 → (t.dev.stream cs).pred n = if n = k then v else (s.dev.stream cs).pred n)
      ∧ movedOn cs s t ∧ sameLoops cs s t := by
  refine ⟨fun n hn => ?_, ⟨_, _, _, hstream⟩, fun n => by rw [hstream]; rfl⟩
  rw [hstream]
  exact StreamSt.pred_setPred _ k n v hk hn

theorem exec_cmpForms {e} (he : e ∈ cmpForms) (cs : CS) (w : W64) (same : Bool) (s : State) :
    ∃ f : W32 → W32 → Bool, (exec (e.1 cs w same) s = s.onDev fun d => d.compare cs w same e.2.1 f)
      ∧ ∀ a b, f a b = true ↔ e.2.2 a b := by
  fin_cases he
  · exact ⟨condEq, rfl, fun a b => beq_iff_eq⟩
  · exact ⟨condNe, rfl, fun a b => bne_iff_ne⟩
  · exact ⟨condLt, rfl, fun a b => decide_eq_true_iff⟩
  · exact ⟨condGe, rfl, fun a b => decide_eq_true_iff⟩
  · exact ⟨condLtu, rfl, fun a b => decide_eq_true_iff⟩
  · exact ⟨condGeu, rfl, fun a b => decide_eq_true_iff⟩

theorem compare_run {cs : CS} {w : W64} {o : Nat} {s : State} (h : issues cs w o s) (same : Bool) (f : W32 → W32 → Bool) :
    (s.onDev fun d => d.compare cs w same o f) = .next (s.setDev ((s.dev.reach cs same).updStream cs fun x =>
      (x.setPred (Insn.sd w % 8) (f (scalarRead cs same s (Insn.sa w)) (secondOperand cs w same s))).next)) := by
  refine (onDev_issueS_run h same _).trans ?_
  unfold Dev.advance
  rw [Dev.updStream_updStream]
  rfl

/-- Settles O13: each form is one condition on two operands (`exec_cmpForms`), written to a predicate (`predWritten`). -/
theorem comparisonResults : Obligations.ComparisonResults := by
  unfold Obligations.ComparisonResults
  intro e he cs w same s h
  obtain ⟨f, hexec, hf⟩ := exec_cmpForms he cs w same s
  have hk : Insn.sd w % 8 < 8 := Nat.mod_lt _ (by decide)
  obtain ⟨hpred, hmoved, hloops⟩ := predWritten hk (stream_reach_updStream s cs same fun x =>
    (x.setPred (Insn.sd w % 8) (f (scalarRead cs same s (Insn.sa w)) (secondOperand cs w same s))).next)
  refine ⟨_, hexec.trans (compare_run h same f), ?_, fun n hn hne => ?_, hmoved, sameScalars_reach_updStream s cs same fun _ => rfl, hloops,
    onlyStream_reach_updStream s cs same _⟩
  · rw [hpred _ hk, if_pos rfl]
    exact hf _ _
  · rw [hpred n hn, if_neg hne]

/-- An instruction that writes a predicate from the stream's own registers. -/
theorem predicate_writes {cs : CS} {w : W64} {o : Nat} {s : State} (h : issues cs w o s) (v : StreamSt → Bool) :
    ∃ t, (s.onDev fun d => d.issue cs w o fun d => (d.updStream cs fun x => x.setPred (Insn.sd w % 8) (v x)).advance cs) = .next t
      ∧ (∀ n, n < 8 → (t.dev.stream cs).pred n = if n = Insn.sd w % 8 then v (s.dev.stream cs) else (s.dev.stream cs).pred n)
      ∧ movedOn cs s t ∧ sameScalars cs s t ∧ sameLoops cs s t ∧ onlyStream cs s t := by
  refine ⟨_, onDev_issue_run h _, ?_⟩
  unfold Dev.advance
  rw [Dev.updStream_updStream]
  obtain ⟨hpred, hmoved, hloops⟩ := predWritten (Nat.mod_lt _ (by decide)) (stream_updStream s cs fun x =>
    (x.setPred (Insn.sd w % 8) (v x)).next)
  exact ⟨hpred, hmoved, sameScalars_updStream s cs fun _ => rfl, hloops, onlyStream_updStream s cs _⟩

/-- Settles O14: each form writes one predicate (`predicate_writes`). -/
theorem predicateResults : Obligations.PredicateResults := by
  unfold Obligations.PredicateResults
  intro cs w s
  exact ⟨fun h => predicate_writes h _, fun h => predicate_writes h _, fun h => predicate_writes h _, fun h => predicate_writes h _,
    fun h => predicate_writes h _⟩

/-! ### Branches and loop counters -/

theorem jump_pc {x : StreamSt} {i : Int} (h : 0 ≤ (x.pc : Int) + i) : ((x.jump i).pc : Int) = x.pc + i := Int.toNat_of_nonneg h

section
variable {cs : CS} {w : W64} {s : State}

theorem nop_moves (h : issues cs w 0x01 s) : ∃ t, exec (.nop cs w) s = .next t
    ∧ movedOn cs s t ∧ sameScalars cs s t ∧ samePreds cs s t ∧ sameLoops cs s t ∧ onlyStream cs s t := by
  have hstream := stream_updStream s cs StreamSt.next
  exact ⟨_, onDev_issue_run h _, ⟨_, _, _, hstream⟩, sameScalars_updStream s cs fun _ => rfl, (congrArg StreamSt.p hstream :),
    fun n => (congrArg (StreamSt.lcr · n) hstream :), onlyStream_updStream s cs _⟩

theorem jmp_moves (h : issues cs w 0x02 s) (hpc : 0 ≤ ((s.dev.stream cs).pc : Int) + Insn.simm w) : ∃ t, exec (.jmp cs w) s = .next t
    ∧ ((t.dev.stream cs).pc : Int) = (s.dev.stream cs).pc + Insn.simm w
    ∧ sameScalars cs s t ∧ samePreds cs s t ∧ sameLoops cs s t ∧ onlyStream cs s t := by
  have hstream := stream_updStream s cs (·.jump (Insn.simm w))
  refine ⟨_, onDev_issue_run h _, ?_, sameScalars_updStream s cs fun _ => rfl, (congrArg StreamSt.p hstream :),
    fun n => (congrArg (StreamSt.lcr · n) hstream :), onlyStream_updStream s cs _⟩
  rw [hstream]
  exact jump_pc hpc

/-- The stream after a LOOP whose counter has become `v`. -/
def StreamSt.looped (x : StreamSt) (w : W64) (v : W32) (again : Prop) [Decidable again] : StreamSt :=
  if again then (x.setLcr (Insn.sd w % 4) v).jump (Insn.simm w) else (x.setLcr (Insn.sd w % 4) v).next

theorem exec_loop (h : issues cs w 0x03 s) (same : Bool) :
    exec (.loop cs w same) s = .next (s.setDev ((s.dev.reach cs same).updStream cs fun x =>
      x.looped w (word (((s.dev.stream cs).lcr (Insn.sd w % 4)).toNat + 1))
        ((word (((s.dev.stream cs).lcr (Insn.sd w % 4)).toNat + 1)).toNat < (scalarRead cs same s (Insn.sb w)).toNat))) := by
  refine (onDev_issueS_run h same _).trans ?_
  dsimp only
  rw [Dev.stream_reach, add_eq_word, show (1 : W32).toNat = 1 from rfl, scalarRead]
  unfold Dev.advance StreamSt.looped
  rw [Dev.updStream_updStream, Dev.updStream_updStream]
  split <;> rfl

theorem loop_result (h : issues cs w 0x03 s) (same : Bool) (hpc : 0 ≤ ((s.dev.stream cs).pc : Int) + Insn.simm w) :
    let x := s.dev.stream cs
    let v := word ((x.lcr (Insn.sd w % 4)).toNat + 1)
    ∃ t, exec (.loop cs w same) s = .next t ∧ (t.dev.stream cs).lcr (Insn.sd w % 4) = v
      ∧ ((t.dev.stream cs).pc : Int) = (if v.toNat < (scalarRead cs same s (Insn.sb w)).toNat then (x.pc : Int) + Insn.simm w else (x.pc : Int) + 1)
      ∧ (∀ n, n ≠ Insn.sd w % 4 → (t.dev.stream cs).lcr n = x.lcr n)
      ∧ sameScalars cs s t ∧ samePreds cs s t ∧ onlyStream cs s t := by
  intro x v
  have hlc : ∀ (again : Prop) [Decidable again] n, (x.looped w v again).lcr n = if n = Insn.sd w % 4 then v else x.lcr n := by
    intro again _ n
    unfold StreamSt.looped
    split <;> exact StreamSt.lcr_setLcr x _ n v
  have hstream := stream_reach_updStream s cs same fun x =>
    x.looped w v (v.toNat < (scalarRead cs same s (Insn.sb w)).toNat)
  refine ⟨_, exec_loop h same, ?_, ?_, fun n hn => ?_, sameScalars_reach_updStream s cs same fun x => ?_, ?_,
    onlyStream_reach_updStream s cs same _⟩
  · rw [hstream, hlc, if_pos rfl]
  · rw [hstream]
    unfold StreamSt.looped
    split
    · exact jump_pc hpc
    · exact Int.natCast_succ x.pc
  · rw [hstream, hlc, if_neg hn]
  · unfold StreamSt.looped
    split <;> rfl
  · rw [samePreds, hstream]
    unfold StreamSt.looped
    split <;> rfl

theorem setlc_result (h : issues cs w 0x04 s) (same : Bool) : ∃ t, exec (.setlc cs w same) s = .next t
    ∧ (∀ n, (t.dev.stream cs).lcr n =
        if n = Insn.sd w % 4 then (if Insn.is w then word (Insn.imm w) else scalarRead cs same s (Insn.sa w)) else (s.dev.stream cs).lcr n)
    ∧ movedOn cs s t ∧ sameScalars cs s t ∧ samePreds cs s t ∧ onlyStream cs s t := by
  refine ⟨_, onDev_issueS_run h same _, ?_⟩
  unfold Dev.advance
  rw [Dev.updStream_updStream]
  have hstream := stream_reach_updStream s cs same fun x =>
    (x.setLcr (Insn.sd w % 4) (if Insn.is w then word (Insn.imm w) else scalarRead cs same s (Insn.sa w))).next
  refine ⟨fun n => ?_, ⟨_, _, _, hstream⟩, sameScalars_reach_updStream s cs same fun _ => rfl, (congrArg StreamSt.p hstream :),
    onlyStream_reach_updStream s cs same _⟩
  exact (congrArg (StreamSt.lcr · n) hstream).trans (StreamSt.lcr_setLcr _ _ n _)

end

/-- Settles O15, one lemma for each instruction. -/
theorem flowResults : Obligations.FlowResults := by
  unfold Obligations.FlowResults
  intro cs w same s
  exact ⟨nop_moves, jmp_moves, fun h => loop_result h same, fun h => setlc_result h same⟩

/-! ### A guard that fails (05 R149) -/

theorem exec_issueForms_skip {e} (he : e ∈ issueForms) {cs : CS} {w : W64} {s : State} (same : Bool)
    (hp : s.dev.presented cs w e.2 = true) (hg : (s.dev.stream cs).guard w = false) :
    exec (e.1 cs w same) s = .next (s.setDev (s.dev.advance cs)) := by
  rw [issueForms, List.mem_append, List.mem_append] at he
  obtain (he | he) | he := he
  · obtain ⟨form, hform, rfl⟩ := List.mem_map.mp he
    exact (exec_aluForms hform cs w same s).trans (onDev_issue_skip hp hg _)
  · obtain ⟨form, hform, rfl⟩ := List.mem_map.mp he
    obtain ⟨f, hexec, -⟩ := exec_cmpForms hform cs w same s
    exact hexec.trans (onDev_issue_skip hp hg _)
  · fin_cases he
    on_goal 7 => exact on_issue_skip hp hg fun b => b.abort cs w
    on_goal 16 => exact on_issue_skip hp hg fun b => b.swld cs w same
    all_goals exact onDev_issue_skip hp hg _

/-- Settles O16: every form only moves the stream on (`exec_issueForms_skip`). -/
theorem guardedOffInstructionsDoNothing : Obligations.GuardedOffInstructionsDoNothing := by
  unfold Obligations.GuardedOffInstructionsDoNothing
  intro e he cs w same s hp hg hpn
  have hguard : (s.dev.stream cs).guard w = false := by simp [StreamSt.guard, hg, hpn]
  exact ⟨_, exec_issueForms_skip he same hp hguard, stream_updStream s cs _, sameScalars_updStream s cs fun _ => rfl,
    onlyStream_updStream s cs _⟩

end Sys2Proof.Machine

/-! SUPPORT. STOP, ABORT and FENCE, and the instructions that wait: KWAIT and SWLD (05 R158, R161, R165, R167, R168). -/

namespace Sys2Proof.Machine

open Sys2Proof.Safety

theorem on_issue_run {cs : CS} {w : W64} {o : Nat} {s : State} (h : issues cs w o s) (f : Box → Box) :
    (s.on fun b => if b.dev.presented cs w o then (if (b.dev.stream cs).guard w then f b else b.onD fun d => d.advance cs) else b)
      = .next (s.setBox (f s.box)) := by
  obtain ⟨hp, hg⟩ := h
  unfold State.dev at hp hg
  rw [State.on_eq]
  simp only [hp, hg, if_true]

/-! ### STOP, FENCE, ABORT -/

section
variable {cs : CS} {w : W64} {s : State}

theorem fence_run (h : issues cs w 0x09 s) :
    exec (.fence cs w) s = .next (s.setDev (if (s.dev.stream cs).acts.isEmpty then s.dev.advance cs else s.dev)) :=
  onDev_issue_run h _

theorem abort_run (h : issues cs w 0x07 s) : exec (.abort cs w) s = .next (s.setBox (s.box.abort cs w)) :=
  on_issue_run h fun b => b.abort cs w

theorem Box.abort_stops {b : Box} {n : Nat} (h : (b.dev.stream cs).ctx = some n) : ((b.abort cs w).dev.ctx n).live = false := by
  unfold Box.abort
  simp only [h, Option.elim_some]
  exact Box.stopNow_dead _ _ _ _

/-- Of a stream that no context uses. -/
theorem Box.abort_ends {b : Box} (h : (b.dev.stream cs).ctx = none) :
    ((b.abort cs w).dev.stream cs).ended = true ∧ (b.abort cs w).store = b.store := by
  unfold Box.abort
  simp only [h, Option.elim_none, Box.onD_dev, Box.onD_store, Dev.ev_eq, Dev.raise_stream_of, Dev.updStream_same, and_self]

end

/-- Settles O17: of a live context ABORT is a stop at once (`Box.stopNow_dead`). -/
theorem stopAbortAndFence : Obligations.StopAbortAndFence := by
  unfold Obligations.StopAbortAndFence
  intro cs w s
  refine ⟨fun h => ?_, fun h hacts => ?_, fun h hacts => ?_, fun h n hn _ => ?_, fun h hn => ?_⟩
  · exact ⟨_, onDev_issue_run h _, stream_updStream s cs _, sameScalars_updStream s cs fun _ => rfl, onlyStream_updStream s cs _⟩
  · have hrun := fence_run h
    rw [hacts, if_pos (by rfl)] at hrun
    exact ⟨_, hrun, stream_updStream s cs _, sameScalars_updStream s cs fun _ => rfl, onlyStream_updStream s cs _⟩
  · rw [fence_run h, if_neg (by simpa using hacts)]
    rfl
  · exact ⟨_, abort_run h, Box.abort_stops hn, rfl⟩
  · obtain ⟨hended, hstore⟩ := Box.abort_ends (b := s.box) (w := w) hn
    exact ⟨_, abort_run h, hended, hstore, rfl⟩

/-! ### Waits (05 R167) -/

/-- The stream waits, since `now`, on a Knot or a shape word. -/
def StreamSt.waiting (x : StreamSt) (now : Nat) (knot : Bool) (item : Nat) : StreamSt :=
  { x with wait := if (x.wait.any fun y => y.knot == knot && y.item == item) = true then x.wait else some ⟨now, knot, item, false⟩ }

/-- The wait that stands names what the stream waits for. -/
theorem StreamSt.waiting_wait (x : StreamSt) (now : Nat) (knot : Bool) (item : Nat) :
    ∃ y, (x.waiting now knot item).wait = some y ∧ y.knot = knot ∧ y.item = item := by
  unfold StreamSt.waiting
  dsimp only
  split
  next h =>
    cases hw : x.wait with
    | none => simp [hw] at h
    | some y => exact ⟨y, rfl, by simpa [hw] using h⟩
  · exact ⟨_, rfl, rfl, rfl⟩

/-! ### KWAIT (05 R161) -/

section
variable {cs : CS} {w : W64} {s : State}

theorem knotOperand_reach (same : Bool) : (s.dev.reach cs same).knotOperand cs w
    = word (Insn.kimm w + if Insn.krs w then (scalarRead cs same s (Insn.ksa w)).toNat else 0) := by
  unfold Dev.knotOperand scalarRead word
  split
  · rw [BitVec.ofNat_add, BitVec.ofNat_toNat, BitVec.setWidth_eq]
  · simp

/-- The generation that KWAIT awaits has gone by. -/
theorem Dev.released_iff {d : Dev} {k : Nat} {g : W16} : d.released k g = true ↔ 1 ≤ (d.genSeen k - g).toNat ∧ (d.genSeen k - g).toNat ≤ 32767 := by
  simp [Dev.released]

theorem kwait_run (h : issues cs w 0x41 s) (same : Bool) :
    exec (.kwait cs w same) s = .next (s.setDev (if s.dev.released (Insn.kid w)
        ((word (Insn.kimm w + if Insn.krs w then (scalarRead cs same s (Insn.ksa w)).toNat else 0)).setWidth 16)
      then (s.dev.reach cs same).updStream cs StreamSt.next
      else (s.dev.reach cs same).updStream cs (·.waiting s.dev.now true (Insn.kid w)))) := by
  refine (onDev_issueS_run h same _).trans ?_
  dsimp only
  rw [knotOperand_reach]
  rfl

end

/-! ### SWLD (05 R158) -/

section
variable {cs : CS} {w : W64} {s : State} {n : Nat} (h : issues cs w 0x30 s) (hn : (s.dev.stream cs).ctx = some n) (same : Bool)
include h hn

theorem swld_waits (hready : (s.dev.ctx n).shapeReady (Insn.imm w % 4096) = false) :
    exec (.swld cs w same) s = .next (s.setDev (s.dev.updStream cs (·.waiting s.dev.now false (Insn.imm w % 4096)))) := by
  refine (on_issue_run h fun b => b.swld cs w same).trans ?_
  unfold State.dev at hn hready
  unfold Box.swld
  simp only [hn, hready, Bool.not_false, if_true]
  rfl

theorem swld_reads (hready : (s.dev.ctx n).shapeReady (Insn.imm w % 4096) = true) :
    exec (.swld cs w same) s = .next (s.setBox ((s.box.onD fun d => ((d.reach cs same).setSreg cs (Insn.sd w)
      ((d.ctx n).shapeValue (Insn.imm w % 4096))).advance cs).touchShape n (Insn.imm w % 4096) (boltOf cs.core)
        (s.dev.coreSlot cs.core))) := by
  refine (on_issue_run h fun b => b.swld cs w same).trans ?_
  unfold State.dev at hn hready
  unfold Box.swld
  simp only [hn, hready, Bool.not_true, Bool.false_eq_true, if_false]
  rfl

end

/-- Reading a slot that is not poisoned leaves the bytes and the cores. -/
theorem Box.touchShape_notes {b : Box} {n slot : Nat} (die : Nat) (eng : Int) (hp : ((b.dev.ctx n).shape slot).poison = false) :
    (b.touchShape n slot die eng).store = b.store ∧ b.dev.Noted (b.touchShape n slot die eng).dev := by
  unfold Box.touchShape
  dsimp only
  rw [if_neg (by simp [hp])]
  split
  · exact ⟨rfl, .refl _⟩
  · split
    · exact ⟨rfl, (Dev.Noted.updCtx ..).trans (.raise ..)⟩
    · exact ⟨rfl, .refl _⟩

/-- What a reader of a ready slot that is not poisoned gets. -/
theorem Ctx.shapeValue_clean {c : Ctx} {slot : Nat} (hp : (c.shape slot).poison = false) :
    c.shapeValue slot = (c.shapeMax slot).elim (c.shape slot).value fun m => word (min (c.shape slot).value.toNat m) := by
  unfold Ctx.shapeValue
  dsimp only
  rw [if_neg (by simp [hp])]
  cases c.shapeMax slot with
  | none => rfl
  | some m =>
    dsimp only [Option.elim]
    split
    next hm => rw [Nat.min_eq_right hm.le, word]
    next hm => exact eq_word (Nat.min_eq_left (Nat.le_of_not_lt hm)).symm

/-- What a stream has written stands as long as the cores do. -/
theorem wroteScalar_of_cores {cs : CS} {same : Bool} {n : Nat} {v : W32} {s t u : State} (h : wroteScalar cs same n v s t)
    (hcore : ∀ j, u.dev.core j = t.dev.core j) : wroteScalar cs same n v s u := by
  have hsreg : ∀ m, u.dev.sreg cs m = t.dev.sreg cs m := fun m => congrArg (Core.sreg · cs.st m) (hcore cs.core)
  simpa only [wroteScalar, hsreg] using h

/-- A ready slot that is not poisoned: the scalar is written and the stream moves on. -/
theorem swld_result {cs : CS} {w : W64} {s : State} {n : Nat} (h : issues cs w 0x30 s) (hn : (s.dev.stream cs).ctx = some n) (same : Bool)
    (hready : (s.dev.ctx n).shapeReady (Insn.imm w % 4096) = true) (hp : ((s.dev.ctx n).shape (Insn.imm w % 4096)).poison = false) :
    ∃ t, exec (.swld cs w same) s = .next t ∧ wroteScalar cs same (Insn.sd w) ((s.dev.ctx n).shapeValue (Insn.imm w % 4096)) s t
      ∧ movedOn cs s t ∧ samePreds cs s t ∧ sameLoops cs s t ∧ sameStore s t := by
  obtain ⟨hwrote, hmoved, hpreds, hloops, -⟩ := scalarWritten s cs same (Insn.sd w) ((s.dev.ctx n).shapeValue (Insn.imm w % 4096))
  obtain ⟨hstore, hnoted⟩ := Box.touchShape_notes (n := n) (slot := Insn.imm w % 4096) (b := s.box.onD fun d => ((d.reach cs same).setSreg cs (Insn.sd w)
      ((d.ctx n).shapeValue (Insn.imm w % 4096))).advance cs) (boltOf cs.core) (s.dev.coreSlot cs.core) hp
  have hstream := congrArg (Core.stream · cs.st) (hnoted.core cs.core)
  refine ⟨_, swld_reads h hn same hready, wroteScalar_of_cores hwrote hnoted.core, ?_, ?_, fun m => ?_, hstore, rfl⟩
  · obtain ⟨a, p, l, ht⟩ := hmoved
    exact ⟨a, p, l, hstream.trans ht⟩
  · exact (congrArg StreamSt.p hstream).trans hpreds
  · exact (congrArg (StreamSt.lcr · m) hstream).trans (hloops m)

/-- Settles O18: KWAIT passes or waits (`kwait_run`); SWLD reads a ready slot (`swld_result`) or waits (`swld_waits`). -/
theorem waitingInstructions : Obligations.WaitingInstructions := by
  unfold Obligations.WaitingInstructions
  intro cs w same s
  refine ⟨fun h => ⟨fun hgap => ?_, fun hgap => ?_⟩, fun h n hn => ⟨fun hready hp => ?_, fun hready => ?_⟩⟩
  · have hrun := kwait_run h same
    rw [if_pos (Dev.released_iff.mpr hgap)] at hrun
    exact ⟨_, hrun, stream_reach_updStream s cs same _, sameScalars_reach_updStream s cs same fun _ => rfl, onlyStream_reach_updStream s cs same _⟩
  · have hrun := kwait_run h same
    rw [if_neg (mt Dev.released_iff.mp hgap)] at hrun
    have hstream := stream_reach_updStream s cs same (·.waiting s.dev.now true (Insn.kid w))
    refine ⟨_, hrun, (congrArg StreamSt.pc hstream :), ?_, sameScalars_reach_updStream s cs same fun _ => rfl,
      onlyStream_reach_updStream s cs same _⟩
    dsimp only
    rw [hstream]
    exact StreamSt.waiting_wait ..
  · have hresult := swld_result h hn same (by simpa [Ctx.shapeReady] using hready) hp
    rw [Ctx.shapeValue_clean hp] at hresult
    cases hmost : (s.dev.ctx n).shapeMax (Insn.imm w % 4096) <;> rw [hmost] at hresult <;> exact hresult
  · have hstream := stream_updStream s cs (·.waiting s.dev.now false (Insn.imm w % 4096))
    refine ⟨_, swld_waits h hn same ?_, (congrArg StreamSt.pc hstream :), ?_, sameScalars_updStream s cs fun _ => rfl,
      onlyStream_updStream s cs _⟩
    · simpa [Ctx.shapeReady] using hready
    · dsimp only
      rw [hstream]
      exact StreamSt.waiting_wait ..

end Sys2Proof.Machine

/-! O19. HFREE takes the power from the banks of the handles that its core's table lists under the number. A state may list
a number twice, and then the statement's hypothesis on `Core.handle`, which reads the first entry, says nothing of the second one. -/

namespace Sys2Proof.Machine

open Sys2Proof.Safety

namespace HandleListedTwice

/-- HFREE of handle 0 by stream F of core 0. -/
def act : Act := ⟨⟨0, .F⟩, 1⟩

def freeing : Action :=
  { id := 1, w := BitVec.ofNat 64 (0x39 * 2 ^ 56), index := 0, desc := 0, e := none, launch := 0, tack := 0, n0 := 0, n1 := 0, n2 := 0
    val := 0, dev := 0, unit := 0, ctx := 0, step := 0, reads := [], writes := [], done := false, gen := none, since := 0
    raised := false, fetched := 0, cfg := [], input := 0, cause := 0, cyc := 0 }

/-- A valid handle of one line in a bank. -/
def handleIn (bank : Nat) : Handle :=
  { ctx := 0, spilled := false, level := 1, log2nb := 0, firstBank := bank, bankOff := 0, lines := 1, zero := false, users := 0
    backing := 0, listed := false, valid := true, patched := [] }

/-- The table of core 0 lists handle 0 in bank 20, which the shadow region keeps powered, and again in bank 3. -/
def dev : Dev :=
  { State.reset.dev with
    cores := [(0, { Core.init with sf := { StreamSt.init with acts := [freeing] }, handles := [(0, handleIn 20), (0, handleIn 3)] })] }

/-- The first byte of bank 3. -/
def addr : Nat := scrAddr 0 3 0

/-- That byte differs from what it is once its content is lost. -/
def state : State :=
  ⟨[], { State.reset.box with
    dev := dev
    store := { State.reset.store with scratch := State.reset.store.scratch.setByte addr (Config.freeByte 0 addr + 1) } }⟩

theorem state_ready : ready act freeing [] state := by decide +kernel

theorem state_memoryOk : memoryOk state := by
  have hscratch : state.store.scratch.wf = true := Mem.setByte_wf _ _ _ (by decide)
  have hmem : state.store.mem.wf = true := by decide
  rw [memoryOk, Store.wf, hmem, hscratch]
  rfl

theorem handle_first : (state.dev.core act.cs.core).handle 0 = some (handleIn 20) := by decide +kernel

/-- The byte before the HFREE and after it. -/
theorem byte_before : state.store.scratch.byte addr = Config.freeByte 0 addr + 1 := by
  rw [show state.store.scratch = State.reset.store.scratch.setByte addr (Config.freeByte 0 addr + 1) from rfl,
    Mem.byte_setByte _ _ _ _ (by decide), if_pos rfl]

theorem byte_after {t : State} (ht : exec (.hfree act) state = .next t) : t.store.scratch.byte addr = Config.freeByte 0 addr := by
  obtain rfl := Host.Outcome.next.inj ht
  rfl

end HandleListedTwice

open HandleListedTwice in
/-- Refutes O19: the handle that `Core.handle` reads does not occupy bank 3, and HFREE loses the content of that bank all the same, for
the second entry of the same number. -/
theorem not_smallActionsDoTheirWork : ¬ Obligations.SmallActionsDoTheirWork := by
  unfold Obligations.SmallActionsDoTheirWork
  intro h
  obtain ⟨-, -, hfree, -, -⟩ := h act freeing state state_ready
  have hunused : ∀ y, (state.dev.core act.cs.core).handle (Insn.hd freeing.w) = some y → y = handleIn 20 := fun y hy =>
    Option.some.inj (hy.symm.trans handle_first)
  obtain ⟨t, ht, -, -, -, hbytes, -, -⟩ := hfree (by decide) (fun y hy => by rw [hunused y hy]; rfl) state_memoryOk
  have hkept := hbytes 3 0 (by decide) (by decide) (.inr fun y hy => by rw [hunused y hy]; rfl)
  have hsame : Config.freeByte 0 addr = Config.freeByte 0 addr + 1 := (byte_after ht).symm.trans (hkept.trans byte_before)
  have hne : ∀ b : Byte, b ≠ b + 1 := by decide
  exact hne _ hsame

end Sys2Proof.Machine

/-! SUPPORT. The completion of an action: it leaves its stream (05 R163; 06 R178). -/

namespace Sys2Proof.Machine

@[simp] theorem Dev.endOpens_stream (d : Dev) (p : OpenCmd → Bool) (status event : Nat) (detail : W32) (result : W64) (cs : CS) :
    (d.endOpens p status event detail result).stream cs = d.stream cs :=
  Dev.stream_foldl _ _ _ _ fun e _ => e.complete_stream_of ..

@[simp] theorem Dev.settleDying_stream (d : Dev) (cs : CS) : d.settleDying.stream cs = d.stream cs := by
  unfold Dev.settleDying
  dsimp only
  split
  · rfl
  · exact Dev.endOpens_stream ..

/-- The stream when one of its actions has completed. -/
def StreamSt.left (x : StreamSt) (id : Nat) : StreamSt := { x with acts := x.acts.filter fun y => y.id != id }

theorem Dev.actionComplete_stream {d : Dev} {a : Act} {x : Action} (hx : d.action a = some x) (hmay : d.mayComplete a x = true) :
    (d.actionComplete a).stream a.cs = (d.stream a.cs).left a.id := by
  unfold Dev.actionComplete
  simp only [hx, hmay, Bool.not_true, Bool.false_eq_true, if_false]
  rw [Dev.settleDying_stream, Dev.updStream_same]
  refine congrArg (StreamSt.left · a.id) ?_
  have husers : ∀ hs : List (Nat × Nat), (hs.foldl (fun d e => d.updUsers e.1 e.2 (· - 1)) d).stream a.cs = d.stream a.cs := fun hs =>
    Dev.stream_foldl _ _ _ _ fun e _ => e.updUsers_stream ..
  split
  · exact husers _
  · exact husers _

theorem StreamSt.left_find (x : StreamSt) (id : Nat) : ((x.left id).acts.find? fun y => y.id == id) = none := by
  rw [List.find?_eq_none]
  intro y hy
  simpa [StreamSt.left] using (List.mem_filter.mp hy).2

/-- Settles O23: what completes leaves its stream, and nothing else in it changes (`Dev.actionComplete_stream`). -/
theorem actionsCompleteAndReleaseTheirHandles : Obligations.ActionsCompleteAndReleaseTheirHandles := by
  unfold Obligations.ActionsCompleteAndReleaseTheirHandles
  intro a x s hx hmay
  have hstream := Dev.actionComplete_stream hx hmay
  refine ⟨_, s.onDev_eq _, ?_, (congrArg StreamSt.acts hstream :), (congrArg StreamSt.pc hstream :), rfl, rfl⟩
  rw [State.setDev_dev, Dev.action, hstream]
  exact StreamSt.left_find ..

end Sys2Proof.Machine

/-! SUPPORT. COPY, XFER, LOAD and STORE of a ready action: the bytes that move, and what is left beside them (05 R156, R157; 07 R211 to
R213). -/

namespace Sys2Proof.Machine

open Sys2Proof.Safety

/-! ### COPY and XFER -/

/-- What a COPY or XFER to core `dst` answers. -/
def copyAnswers (r : Res) (a : Act) (x : Action) (dst : Nat) (s : State) : Prop :=
  ∃ t, r = .next t
    ∧ t.store = (if x.n0 = 0 then s.store else (s.box.hWrite x.ctx a dst (Insn.hd x.w) (64 * recN x.desc 14 2)
        (s.box.hBytes a.cs.core (Insn.ha x.w) (64 * recN x.desc 12 2) x.n0)).store)
    ∧ (inScratch dst (Insn.hd x.w) s → workDone a x t ∧ memoryKept s t ∧ t.pending = s.pending
        ∧ t.dev = { s.dev with cores := t.dev.cores })

section
variable {a : Act} {x : Action} {s : State}

theorem Box.copyRun_store (b : Box) : (b.copyRun a x).store = (if x.n0 = 0 then b.store else
    (b.hWrite x.ctx a (cpDest a.cs.core x) (Insn.hd x.w) (cpDo x.desc) (b.hBytes a.cs.core (Insn.ha x.w) (cpAo x.desc) x.n0)).store) := by
  unfold Box.copyRun
  split <;> rfl

theorem Box.copyRun_scratchOnly {b : Box} (hs : b.dev.InScratch (cpDest a.cs.core x) (Insn.hd x.w)) : b.ScratchOnly (b.copyRun a x) := by
  unfold Box.copyRun
  split
  · exact .refl b
  · exact b.hWrite_scratchOnly hs x.ctx a _ _

theorem copy_answers {r : Res} (hx : s.dev.action a = some x)
    (hrun : r = .next (s.setBox ((s.box.copyRun a x).onD fun d => d.actDone a))) : copyAnswers r a x (cpDest a.cs.core x) s := by
  refine ⟨_, hrun, s.box.copyRun_store, fun hs => ?_⟩
  obtain ⟨hdev, hmem⟩ := Box.copyRun_scratchOnly (b := s.box) hs
  rw [workDone, State.setBox_dev, Box.onD_dev, hdev]
  exact ⟨Dev.action_actDone hx, fun i => congrArg (Mem.byte · i) hmem, rfl, Dev.updAction_onlyCores ..⟩

theorem exec_copy {ecc : List ScrEcc} (hecc : noErrors ecc) (hready : ready a x (copyReads a.cs.core x) s) (hopc : Insn.opc x.w = 0x58) :
    exec (.copy a ecc) s = .next (s.setBox ((s.box.copyRun a x).onD fun d => d.actDone a)) := by
  change execCopy a s ecc = _
  unfold execCopy
  rw [State.on_eq, Box.workRead_ready hready (by simp [isOp, hopc]) hecc]

theorem exec_xfer {ecc : List ScrEcc} (hecc : noErrors ecc) (hready : ready a x (copyReads a.cs.core x) s) (hopc : Insn.opc x.w = 0x59) :
    exec (.xfer a ecc) s = .next (s.setBox ((s.box.copyRun a x).onD fun d => d.actDone a)) := by
  change execXfer a s ecc = _
  unfold execXfer
  rw [State.on_eq, Box.workRead_ready hready (by simp [isOp, hopc]) hecc]

theorem cpDest_copy (core : Nat) (h : Insn.opc x.w = 0x58) : cpDest core x = core := if_neg (by simp [isOp, h])

theorem cpDest_xfer (core : Nat) (h : Insn.opc x.w = 0x59) : cpDest core x = x.n1 := if_pos (by simp [isOp, h])

/-! ### LOAD -/

theorem exec_load (hready : ready a x [] s) (hopc : Insn.opc x.w = 0x5A) (hturn : s.dev.loadTurn a x = true) :
    exec (.load a) s = .next (s.setBox ((s.box.loadRun a x).onD fun d => d.actDone a)) := by
  change execLoad a s = _
  unfold State.dev at hturn
  unfold execLoad
  rw [State.on_eq, Box.work, Box.gate_ready hready (by simp [isOp, hopc, hturn])]

/-- A plain load writes its elements, and beside that makes its notes. -/
theorem Box.loadRun_plain {b : Box} {y : Tens} (hcomp : lsComp x.desc = 0) (hy : b.dev.tens (lsDesc x.desc) = some y)
    (hfault : b.dev.tFault y false (sliceLins y.d x) (lsPlanes x.desc) = none) :
    b.loadRun a x = if x.n1 = 0 then b else
      (b.hPutEls x.ctx a a.cs.core (Insn.hd x.w) (lsHf x.desc) (lsHo x.desc) ((b.loadEls y x).map (·.1))).onD fun d =>
        d.ariths x a.cs.core 0x5A (lsHf x.desc) ((b.loadEls y x).flatMap (·.2)) := by
  unfold Box.loadRun Box.loadPlain
  simp only [hcomp, if_true, hy, hfault]

theorem load_answers {y : Tens} (hready : ready a x [] s) (hopc : Insn.opc x.w = 0x5A) (hcomp : lsComp x.desc = 0)
    (hy : s.dev.tens (lsDesc x.desc) = some y) (hfault : s.dev.tFault y false (sliceLins y.d x) (lsPlanes x.desc) = none) :
    ∃ t, exec (.load a) s = .next t
      ∧ t.store = (if x.n1 = 0 then s.store else (s.box.hPutEls x.ctx a a.cs.core (Insn.hd x.w) (lsHf x.desc) (lsHo x.desc)
          ((s.box.loadEls y x).map (·.1))).store)
      ∧ (inScratch a.cs.core (Insn.hd x.w) s → workDone a x t ∧ memoryKept s t ∧ onlyCoresAndNotes s t) := by
  have hrun := Box.loadRun_plain (a := a) (b := s.box) hcomp hy hfault
  refine ⟨_, exec_load hready hopc (by simp [Dev.loadTurn, hcomp]), ?_, fun hs => ?_⟩
  · rw [State.setBox_store, Box.onD_store, hrun]
    split <;> rfl
  · refine worked_inScratch hready.1 ?_ ?_
    · rw [hrun]
      split
      · rfl
      · exact (s.box.hPutEls_scratchOnly hs ..).mem
    · rw [hrun]
      split
      · exact .refl _
      · rw [Box.onD_dev, (s.box.hPutEls_scratchOnly hs ..).dev]
        exact .ariths ..

/-! ### STORE -/

theorem exec_store {ecc : List ScrEcc} (hecc : noErrors ecc) (hready : ready a x (s.dev.lsReads a.cs.core x) s) (hopc : Insn.opc x.w = 0x5B) :
    exec (.store a ecc) s = .next (s.setBox ((s.box.storeRun a x).onD fun d => d.actDone a)) := by
  change execStore a s ecc = _
  unfold execStore
  rw [State.on_eq, Box.workRead_ready (reads := fun d x => d.lsReads a.cs.core x) hready (by simp [isOp, hopc]) hecc]

/-- A plain store makes its notes and writes its elements. -/
theorem Box.storeRun_plain {b : Box} {y : Tens} (hn : x.n1 ≠ 0) (hcomp : lsComp x.desc = 0) (hy : b.dev.tens (lsDesc x.desc) = some y)
    (hfault : b.dev.tFault y true (sliceLins y.d x) = none) :
    b.storeRun a x =
      let c := b.onD fun d => d.ariths x a.cs.core 0x5B (dFmt y.d) ((b.storeEls a.cs.core y x).flatMap (·.2))
      c.engPut x.ctx (boltOf a.cs.core) (c.dev.coreSlot a.cs.core) y ((b.storeEls a.cs.core y x).map (·.1)) := by
  unfold Box.storeRun Box.storePlain
  simp only [if_neg hn, hcomp, if_true, hy, hfault]

theorem Box.storeRun_empty {b : Box} (hn : x.n1 = 0) : b.storeRun a x = b := if_pos hn

end

/-- Settles O30: one lemma for each mover; the compressed forms are the model's own run. -/
theorem moversMoveBytes : Obligations.MoversMoveBytes := by
  unfold Obligations.MoversMoveBytes
  intro a x ecc s hecc
  refine ⟨fun hready hopc => ?_, fun hready hopc => ?_, fun hready hopc hcomp y hy hfault => load_answers hready hopc hcomp hy hfault,
    fun hready hopc hcomp hturn => ⟨_, exec_load hready hopc ?_, rfl⟩, fun hready hopc hcomp y hy hfault =>
      ⟨_, exec_store hecc hready hopc, fun hn => ?_, fun hn => ?_⟩,
    fun hready hopc _ => ⟨_, exec_store hecc hready hopc, rfl⟩⟩
  · have h := copy_answers hready.1 (exec_copy hecc hready hopc)
    rw [cpDest_copy _ hopc] at h
    exact h
  · have h := copy_answers hready.1 (exec_xfer hecc hready hopc)
    rw [cpDest_xfer _ hopc] at h
    exact h
  · simp [Dev.loadTurn, hturn]
  · rw [State.setBox_store, Box.onD_store, Box.storeRun_empty hn]
    rfl
  · exact congrArg (Box.onD · fun d => d.actDone a) (Box.storeRun_plain (b := s.box) hn hcomp hy hfault)

end Sys2Proof.Machine

/-! SUPPORT. An ICI command that is performed: its checks find nothing, what it writes stands, and its completion is due (14 R407, R410,
R417 to R422, R559). -/

namespace Sys2Proof.Machine

open Sys2Proof.Safety

/-! ### Performing a command -/

section
variable {opc : Nat} {c : Ici} {needs : Bool} {s : State} (h : performs opc c needs s)
include h

/-- An accepted command that nothing holds back takes its effect, its entry taken from the accepted ones. -/
theorem ici_performs (f : Pend → Box → Box) :
    s.ici opc c needs f = .next (s.setBox (f (Ici.pend opc c) (s.box.onD fun d => d.takeAccepted opc c))) := by
  obtain ⟨hserving, haccepted, hhold, hwaits, hspare⟩ := h
  have hfields : (spareFields opc).find? (fun s => payBits c.p s.1 s.2.1 s.2.2 != 0) = none := by
    rw [List.find?_eq_none]
    intro f hf
    simp [hspare f hf]
  unfold State.dev at hserving haccepted hhold hwaits
  unfold State.ici Box.ici
  rw [State.on_eq]
  simp only [hserving, haccepted, hhold, hwaits, hfields, Bool.true_or, Bool.not_true, Bool.or_self, Bool.false_eq_true, if_true, if_false]

theorem performs_bare : (s.dev.takeAccepted opc c).bare = false := by
  obtain ⟨hserving, -⟩ := h
  unfold Dev.serving Dev.ready at hserving
  have hmode : s.dev.yoke.mode = 1 := by
    simp only [Bool.and_eq_true, beq_iff_eq] at hserving
    exact hserving.1.1
  change (s.dev.yoke.mode == 2) = false
  rw [hmode]
  rfl

end

/-- Checks of fields that find nothing. -/
theorem Box.fields_pass {b : Box} {k : Pend} {ctx : Option Nat} {l : List (Bool × Nat)} (h : ∀ x ∈ l, x.1 = true) (f : Box → Box) :
    b.fields k ctx l f = f b := by
  have hnone : firstField l = none := by
    unfold firstField
    rw [Option.map_eq_none_iff, List.find?_eq_none]
    intro x hx
    simp [h x hx]
  unfold Box.fields
  rw [hnone]

/-- A check of an address that the command may write. -/
theorem Box.withAddr_writable {b : Box} {a n : Nat} (h : writable b.dev a n) (k : Pend) (ctx : Option Nat) (byte : Nat) (f : Box → Box) :
    b.withAddr k ctx byte a n 64 true f = f b := by
  obtain ⟨halign, hmem, -⟩ := h
  unfold Box.withAddr
  rw [if_neg, if_neg]
  · rintro ⟨hn, hin, hno⟩
    simp [(hmem hn).2 hin] at hno
  · rintro (hno | ⟨hn, hno⟩)
    · exact hno halign
    · simp [(hmem hn).1] at hno

/-! ### Completing (14 R417, R420) -/

theorem Dev.complete_onlyQueues (d : Dev) (k : Pend) (st ev : Nat) (x : W32) (y : W64) :
    ∃ queues, d.complete k st ev x y = { d with queues := queues } := by
  unfold Dev.complete
  split <;> exact ⟨_, rfl⟩

theorem takeAccepted_queue (d : Dev) (opc : Nat) (c : Ici) (j : Nat) : (d.takeAccepted opc c).queue j =
    if j = c.q.val then { d.queue j with accepted := (d.queue j).accepted.eraseP (spells opc c) } else d.queue j := by
  unfold Dev.takeAccepted Dev.updQueue
  by_cases hj : j = c.q.val
  · subst hj
    rw [if_pos rfl, Dev.setQueue_queue_same]
  · rw [if_neg hj, Dev.setQueue_queue_ne _ _ _ _ hj]

/-- A success with a value, of a command that has left the queues otherwise as they were. -/
theorem answers_ok {opc : Nat} {c : Ici} {s : State} {b : Box} (hqueues : b.dev.queues = (s.dev.takeAccepted opc c).queues)
    (hbare : b.dev.bare = false) (x : W32) (y : W64) : answers opc c 0 0 x y s (s.setBox (b.ok (Ici.pend opc c) x y)) := by
  have hqueue : ∀ j, b.dev.queue j = (s.dev.takeAccepted opc c).queue j := fun j => congrArg (fun t => getD t j Queue.init) hqueues
  have hdue := fun j => b.dev.complete_queue (Ici.pend opc c) 0 0 x y j hbare
  refine ⟨(hdue c.q.val).trans ((if_pos rfl).trans ?_), fun j hj => (hdue j).trans ((if_neg hj).trans ?_)⟩
  · rw [hqueue, takeAccepted_queue, if_pos rfl]
  · rw [hqueue, takeAccepted_queue, if_neg hj]

/-- A success of a command that changed the queues, and what a write recalls. -/
theorem onlyAnswered_ok {s : State} {b : Box} (hdev : ∃ queues ahead caches directory, b.dev = { s.dev with
      queues := queues, ahead := ahead, caches := caches, yoke := { s.dev.yoke with directory := directory } })
    (k : Pend) (x : W32) (y : W64) : onlyAnswered s (s.setBox (b.ok k x y)) := by
  obtain ⟨queues, ahead, caches, directory, hdev⟩ := hdev
  obtain ⟨queues', hcomplete⟩ := b.dev.complete_onlyQueues k 0 0 x y
  have ht : (s.setBox (b.ok k x y)).dev = { b.dev with queues := queues' } := hcomplete
  exact ⟨rfl, by rw [ht, hdev]⟩

/-- A success that changed nothing else. -/
theorem ok_unchanged {opc : Nat} {c : Ici} {needs : Bool} {s : State} (h : performs opc c needs s) (x : W32) (y : W64) :
    let t := s.setBox ((s.box.onD fun d => d.takeAccepted opc c).ok (Ici.pend opc c) x y)
    sameStore s t ∧ onlyAnswered s t ∧ answers opc c 0 0 x y s t := by
  refine ⟨⟨rfl, rfl⟩, onlyAnswered_ok ?_ .., answers_ok ?_ ?_ x y⟩
  · exact ⟨_, _, _, _, rfl⟩
  · rfl
  · exact performs_bare h

/-! ### Writing a result (14 R410; 15 R455) -/

theorem Box.copyGranules_unprotected {b : Box} {l : List Nat} (h : ∀ g ∈ l, b.dev.protector g = none) : l.foldl Box.copyGranule b = b := by
  induction l with
  | nil => rfl
  | cons g t ih =>
    obtain ⟨hg, ht⟩ := List.forall_mem_cons.mp h
    rw [List.foldl_cons, Box.copyGranule, hg]
    exact ih ht

/-- The device after a write: the lines that buffers, caches and the companion lose. -/
def Dev.recalled (d : Dev) (ls : List Nat) : Dev :=
  { d with
    ahead := d.ahead.filter fun x => !ls.contains x.line
    caches := d.caches.map fun g => (g.1, g.2.map fun e => (e.1, e.2.filter fun x => !ls.contains x))
    yoke := { d.yoke with directory := d.yoke.directory.filter fun x => !ls.contains x } }

theorem Box.wrClean_unprotected {b : Box} {a : Nat} {l : List Byte} (h : ∀ g ∈ granulesOf a l.length, b.dev.protector g = none) :
    b.wrClean a l = ⟨b.store.wrMem a (clean l), b.dev.recalled (linesOf a l.length)⟩ := by
  have hlen : (clean l).length = l.length := List.length_map ..
  unfold Box.wrClean Box.wrDev
  rw [hlen, Box.copyGranules_unprotected h]
  rfl

theorem clean_bytes (l : List Byte) : (clean l).map (·.1) = l := by
  simp [clean, Function.comp_def]

/-- Bytes written to device memory stand there, and no others change. -/
theorem wrote_wrMem {s t : State} {a : Nat} {l : List Byte} (hok : memoryOk s) (hstore : t.store = s.store.wrMem a (clean l)) :
    wrote a l s t := by
  have hwf : s.store.mem.wf = true := by
    simp only [memoryOk, Store.wf, Bool.and_eq_true] at hok
    exact hok.1
  have hmem : t.store.mem = s.store.mem.write a l := by
    rw [hstore]
    exact congrArg (s.store.mem.write a) (clean_bytes l)
  refine ⟨?_, fun i hi => ?_, by rw [hstore]; rfl⟩
  · rw [hmem]
    exact Mem.read_write _ _ _ hwf
  · rw [hmem, Mem.byte_write _ _ _ _ hwf, if_neg hi]

/-- A result written and a success, by a command that has changed nothing else. -/
theorem ok_wrote {opc : Nat} {c : Ici} {needs : Bool} {s : State} (h : performs opc c needs s) (hok : memoryOk s) {a : Nat} {l : List Byte}
    (hwr : writable (s.dev.takeAccepted opc c) a l.length) (x : W32) (y : W64) :
    let t := s.setBox (((s.box.onD fun d => d.takeAccepted opc c).wrClean a l).ok (Ici.pend opc c) x y)
    wrote a l s t ∧ onlyAnswered s t ∧ answers opc c 0 0 x y s t := by
  obtain ⟨-, -, hprot⟩ := hwr
  rw [Box.wrClean_unprotected (b := s.box.onD fun d => d.takeAccepted opc c) hprot]
  refine ⟨wrote_wrMem hok rfl, onlyAnswered_ok ?_ .., answers_ok ?_ ?_ x y⟩
  · exact ⟨_, _, _, _, rfl⟩
  · rfl
  · exact performs_bare h

end Sys2Proof.Machine

/-! SUPPORT. The queries: each writes its record at the address that it names (07 R209; 09 R296; 14 R427; 16 R499, R500; 17 R507,
R524). -/

namespace Sys2Proof.Machine

open Sys2Proof.Safety

/-! ### The table of queries -/

/-- The box of a command that has left the accepted entries. -/
def State.performing (s : State) (opc : Nat) (c : Ici) : Box := s.box.onD fun d => d.takeAccepted opc c

/-- The query gives the bytes `l` of the device at the address in payload bytes 8 to 15. -/
def gives (opc : Nat) (c : Ici) (l : Dev → List Byte) (s : State) (r : Res) : Prop :=
  ∃ ctx, r = .next (s.setBox ((s.performing opc c).giveBytes (Ici.pend opc c) ctx 8 (pay c.p 8 8) l))

section
variable {opc : Nat} {c : Ici} {needs : Bool} {s : State} (h : performs opc c needs s)
include h

theorem ici_gives (ctx : Option Nat) (l : Dev → List Byte) :
    gives opc c l s (s.ici opc c needs fun k b => b.giveBytes k ctx 8 (pay c.p 8 8) l) := ⟨ctx, ici_performs h _⟩

/-- A command whose checks of fields find nothing. -/
theorem ici_fields {ctx : Option Nat} {checks : Box → List (Bool × Nat)} (hchecks : ∀ x ∈ checks (s.performing opc c), x.1 = true)
    (f : Pend → Box → Box) :
    (s.ici opc c needs fun k b => b.fields k ctx (checks b) (f k)) = .next (s.setBox (f (Ici.pend opc c) (s.performing opc c))) :=
  (ici_performs h _).trans
    (congrArg (fun b => (Host.Outcome.next (s.setBox b) : Res)) (Box.fields_pass hchecks (f (Ici.pend opc c))))

theorem ici_fields_gives {ctx : Option Nat} {checks : Box → List (Bool × Nat)}
    (hchecks : ∀ x ∈ checks (s.performing opc c), x.1 = true) (l : Dev → List Byte) :
    gives opc c l s (s.ici opc c needs fun k b => b.fields k ctx (checks b) fun b => b.giveBytes k ctx 8 (pay c.p 8 8) l) :=
  ⟨ctx, ici_fields h hchecks fun k b => b.giveBytes k ctx 8 (pay c.p 8 8) l⟩

/-- A query that names a context, which must not be EMPTY. -/
theorem ici_filled_gives (hfilled : ((s.dev.takeAccepted opc c).ctx (payBits c.p 0 0 3)).st ≠ .empty) (l : Dev → List Byte) :
    gives opc c l s (s.ici opc c needs fun k b => b.fields k (some (payBits c.p 0 0 3)) [((b.dev.ctx (payBits c.p 0 0 3)).st != .empty, 0)]
      fun b => b.giveBytes k (some (payBits c.p 0 0 3)) 8 (pay c.p 8 8) l) :=
  ici_fields_gives h (checks := fun b => [((b.dev.ctx (payBits c.p 0 0 3)).st != .empty, 0)])
    (List.forall_mem_singleton.mpr (bne_iff_ne.mpr hfilled)) l

/-- The record given stands at its address, and the query has succeeded. -/
theorem gives_wrote {l : Dev → List Byte} {r : Res} (hr : gives opc c l s r) (hok : memoryOk s)
    (hwr : writable (s.dev.takeAccepted opc c) (pay c.p 8 8) (l (s.dev.takeAccepted opc c)).length) :
    ∃ t, r = .next t ∧ wrote (pay c.p 8 8) (l (s.dev.takeAccepted opc c)) s t ∧ onlyAnswered s t ∧ succeeds opc c s t := by
  obtain ⟨ctx, rfl⟩ := hr
  refine ⟨_, rfl, ?_⟩
  have hwr' : writable (s.performing opc c).dev (pay c.p 8 8) (l (s.performing opc c).dev).length := hwr
  unfold Box.giveBytes
  rw [Box.withAddr_writable hwr']
  exact ok_wrote h hok hwr 0 0

end

/-- What a query of `n` entries does: with none it succeeds at once. -/
def gaveSome (opc : Nat) (c : Ici) (n : Nat) (l : Dev → List Byte) (s : State) (r : Res) : Prop :=
  if n = 0 then r = .next (s.setBox ((s.performing opc c).ok (Ici.pend opc c))) else gives opc c l s r

section
variable {opc : Nat} {c : Ici} {needs : Bool} {s : State} (h : performs opc c needs s)
include h

theorem ici_fields_gaveSome {ctx : Option Nat} {checks : Box → List (Bool × Nat)}
    (hchecks : ∀ x ∈ checks (s.performing opc c), x.1 = true) (n : Nat) (l : Dev → List Byte) :
    gaveSome opc c n l s (s.ici opc c needs fun k b => b.fields k ctx (checks b) fun b =>
      if n = 0 then b.ok k else b.giveBytes k ctx 8 (pay c.p 8 8) l) := by
  have hrun := ici_fields h (ctx := ctx) hchecks fun k b => if n = 0 then b.ok k else b.giveBytes k ctx 8 (pay c.p 8 8) l
  unfold gaveSome
  split
  next hn => simpa only [hn, if_true] using hrun
  next hn =>
    simp only [hn, if_false] at hrun ⊢
    exact ⟨ctx, hrun⟩

theorem gaveSome_none {n : Nat} (hn : n = 0) {l : Dev → List Byte} {r : Res} (hr : gaveSome opc c n l s r) :
    ∃ t, r = .next t ∧ sameStore s t ∧ onlyAnswered s t ∧ succeeds opc c s t :=
  ⟨_, (if_pos hn).mp hr, ok_unchanged h 0 0⟩

theorem gaveSome_wrote {n : Nat} {l : Dev → List Byte} {r : Res} (hr : gaveSome opc c n l s r) (hl : n = 0 → ∀ d, l d = [])
    (hok : memoryOk s) (hwr : writable (s.dev.takeAccepted opc c) (pay c.p 8 8) (l (s.dev.takeAccepted opc c)).length) :
    ∃ t, r = .next t ∧ wrote (pay c.p 8 8) (l (s.dev.takeAccepted opc c)) s t ∧ onlyAnswered s t ∧ succeeds opc c s t := by
  unfold gaveSome at hr
  split at hr
  next hn =>
    obtain ⟨hstore, hrest⟩ := ok_unchanged h 0 0
    refine ⟨_, hr, ?_, hrest⟩
    rw [hl hn]
    refine ⟨rfl, fun i _ => ?_, rfl⟩
    exact congrArg (fun x : Store => x.mem.byte i) hstore.1
  next => exact gives_wrote h hr hok hwr

end

/-! ### PRESS_SLOT_QUERY, SEQ_QUERY, CHALK_QUERY: the entries of a range (08 R266; 09 R296; 10 R319) -/

theorem execPressSlotQuery_gaveSome {c : Ici} {s : State} (h : performs 0x0A03 c (inSpools (pay c.p 8 8)) s)
    (hfilled : (s.dev.ctx (payBits c.p 0 0 3)).st ≠ .empty) (hrange : pay c.p 1 1 + pay c.p 2 1 ≤ 64) :
    gaveSome 0x0A03 c (pay c.p 2 1)
      (fun d => (span (pay c.p 1 1) (pay c.p 2 1)).flatMap fun i => (getD (d.ctx (payBits c.p 0 0 3)).slots i ⟨0, 0, 0⟩).bytes)
      s (exec (.pressSlotQuery c) s) := by
  refine ici_fields_gaveSome h (ctx := some (payBits c.p 0 0 3)) (checks := fun b =>
    [((b.dev.ctx (payBits c.p 0 0 3)).st != .empty, 0), (decide (pay c.p 2 1 ≤ 64), 2),
      (decide (pay c.p 1 1 + pay c.p 2 1 ≤ 64), 2)]) ?_ _ _
  simp only [List.forall_mem_cons, bne_iff_ne, decide_eq_true_eq]
  exact ⟨hfilled, by omega, hrange, List.forall_mem_nil _⟩

theorem execSeqQuery_gaveSome {c : Ici} {s : State} (h : performs 0x0B04 c (inSpools (pay c.p 8 8)) s)
    (hrange : pay c.p 0 1 + pay c.p 2 2 ≤ 256) :
    gaveSome 0x0B04 c (pay c.p 2 2) (fun d => (span (pay c.p 0 1) (pay c.p 2 2)).flatMap d.seqEntry) s (exec (.seqQuery c) s) := by
  refine ici_fields_gaveSome h (ctx := none) (checks := fun _ => [(decide (pay c.p 0 1 + pay c.p 2 2 ≤ 256), 2)]) ?_ _ _
  exact List.forall_mem_singleton.mpr (decide_eq_true hrange)

theorem execChalkQuery_gaveSome {c : Ici} {s : State} (h : performs 0x0C02 c (inSpools (pay c.p 8 8)) s)
    (hfilled : (s.dev.ctx (payBits c.p 0 0 3)).st ≠ .empty) (hrange : pay c.p 2 2 + pay c.p 4 2 ≤ 256) :
    gaveSome 0x0C02 c (pay c.p 4 2)
      (fun d => (span (pay c.p 2 2) (pay c.p 4 2)).flatMap fun i => (d.ctx (payBits c.p 0 0 3)).chalkEntry i)
      s (exec (.chalkQuery c) s) := by
  refine ici_fields_gaveSome h (ctx := some (payBits c.p 0 0 3)) (checks := fun b =>
    [((b.dev.ctx (payBits c.p 0 0 3)).st != .empty, 0), (decide (pay c.p 2 2 + pay c.p 4 2 ≤ 256), 4)]) ?_ _ _
  simp only [List.forall_mem_cons, bne_iff_ne, decide_eq_true_eq]
  exact ⟨hfilled, hrange, List.forall_mem_nil _⟩

/-! ### The table (14 R427 and the sections of its rows) -/

/-- What the table says of one of its rows. -/
def writesRecord (f : Nat × (Ici → Instr) × (Ici → Dev → Bool) × (Ici → Dev → List Byte)) : Prop :=
  ∀ (c : Ici) (s : State), performs f.1 c (inSpools (pay c.p 8 8)) s → memoryOk s →
    f.2.2.1 c (s.dev.takeAccepted f.1 c) = true →
    writable (s.dev.takeAccepted f.1 c) (pay c.p 8 8) (f.2.2.2 c (s.dev.takeAccepted f.1 c)).length →
    ∃ t, exec (f.2.1 c) s = .next t ∧ wrote (pay c.p 8 8) (f.2.2.2 c (s.dev.takeAccepted f.1 c)) s t ∧ onlyAnswered s t
      ∧ succeeds f.1 c s t

/-- A query that, with its fields in range, gives the bytes of its record. -/
theorem writesRecord_of_gives {opc : Nat} {q : Ici → Instr} {inRange : Ici → Dev → Bool} {l : Ici → Dev → List Byte}
    (hgives : ∀ c s, performs opc c (inSpools (pay c.p 8 8)) s → inRange c (s.dev.takeAccepted opc c) = true →
      gives opc c (l c) s (exec (q c) s)) : writesRecord (opc, q, inRange, l) :=
  fun c s h hok hrange hwr => gives_wrote h (hgives c s h hrange) hok hwr

/-- A query of a range of entries. -/
theorem writesRecord_of_gaveSome {opc : Nat} {q : Ici → Instr} {inRange : Ici → Dev → Bool} {first n : Ici → Nat}
    {entry : Ici → Dev → Nat → List Byte}
    (hgave : ∀ c s, performs opc c (inSpools (pay c.p 8 8)) s → inRange c (s.dev.takeAccepted opc c) = true →
      gaveSome opc c (n c) (fun d => (span (first c) (n c)).flatMap (entry c d)) s (exec (q c) s)) :
    writesRecord (opc, q, inRange, fun c d => (span (first c) (n c)).flatMap (entry c d)) :=
  fun c s h hok hrange hwr => gaveSome_wrote h (hgave c s h hrange) (fun hn d => by dsimp only; rw [hn]; rfl) hok hwr

theorem queryForm_writesRecord {f : Nat × (Ici → Instr) × (Ici → Dev → Bool) × (Ici → Dev → List Byte)} (hf : queryForm f) :
    writesRecord f := by
  simp only [queryForm, List.mem_cons, List.not_mem_nil, or_false] at hf
  obtain rfl | rfl | rfl | rfl | rfl | rfl | rfl | rfl | rfl | rfl | rfl | rfl | rfl | rfl | rfl | rfl | rfl | rfl := hf
  · exact writesRecord_of_gives fun c _ h hrange =>
      ici_fields_gives h (checks := fun _ => [(decide (payBits c.p 0 0 4 ≤ 8), 0)]) (List.forall_mem_singleton.mpr hrange) _
  · exact writesRecord_of_gives fun _ _ h _ => ici_gives h none _
  · exact writesRecord_of_gives fun _ _ h _ => ici_gives h none _
  · exact writesRecord_of_gives fun _ _ h _ => ici_gives h none _
  · refine writesRecord_of_gives fun c _ h hrange => ici_fields_gives h (checks := fun _ =>
      [(decide (pay c.p 0 1 < 64), 0), (decide (pay c.p 1 1 ≤ 64 ∧ pay c.p 0 1 + pay c.p 1 1 ≤ 64), 1)]) ?_ _
    obtain ⟨hfirst, hcount⟩ := of_decide_eq_true hrange
    simp only [List.forall_mem_cons, decide_eq_true_eq]
    exact ⟨hfirst, ⟨by omega, hcount⟩, List.forall_mem_nil _⟩
  · exact writesRecord_of_gives fun _ _ h _ => ici_gives h none _
  · exact writesRecord_of_gives fun _ _ h _ => ici_gives h none _
  · exact writesRecord_of_gives fun _ _ h _ => ici_gives h none _
  · exact writesRecord_of_gives fun _ _ h _ => ici_gives h none _
  · exact writesRecord_of_gives fun _ _ h _ => ici_gives h none _
  · exact writesRecord_of_gives fun _ _ h _ => ici_gives h none _
  · refine writesRecord_of_gives fun c _ h hrange => ici_fields_gives h (checks := fun _ =>
      [(decide (pay c.p 0 1 ≤ 3), 0), (decide (pay c.p 2 2 < targetCount (pay c.p 0 1)), 2)]) ?_ _
    obtain ⟨hkind, htarget⟩ := of_decide_eq_true hrange
    simp only [List.forall_mem_cons, decide_eq_true_eq]
    exact ⟨hkind, htarget, List.forall_mem_nil _⟩
  · refine writesRecord_of_gaveSome fun c _ h hrange => ?_
    obtain ⟨hfilled, hcount⟩ := Bool.and_eq_true_iff.mp hrange
    exact execPressSlotQuery_gaveSome h (bne_iff_ne.mp hfilled) (of_decide_eq_true hcount)
  · exact writesRecord_of_gives fun _ _ h hrange => ici_filled_gives h (bne_iff_ne.mp hrange) _
  · exact writesRecord_of_gaveSome fun _ _ h hrange => execSeqQuery_gaveSome h (of_decide_eq_true hrange)
  · exact writesRecord_of_gives fun _ _ h hrange => ici_filled_gives h (bne_iff_ne.mp hrange) _
  · refine writesRecord_of_gaveSome fun c _ h hrange => ?_
    obtain ⟨hfilled, hcount⟩ := Bool.and_eq_true_iff.mp hrange
    exact execChalkQuery_gaveSome h (bne_iff_ne.mp hfilled) (of_decide_eq_true hcount)
  · exact writesRecord_of_gives fun _ _ h hrange => ici_filled_gives h (bne_iff_ne.mp hrange) _

/-! ### DESC_QUERY, IDENTITY_CERT, SCHED_QUERY (07 R209; 16 R500; 05 R174) -/

theorem entryBytes_length (e : Option DescEntry) : (entryBytes e).length = 64 := by
  cases e with
  | none => exact List.length_replicate
  | some e =>
    cases e with
    | native x => exact leBytes_length ..
    | forerunner x => exact leBytes_length ..
    | pair p => rw [entryBytes, List.length_append, leBytes_length, zeros, List.length_replicate]

theorem execDescQuery_wrote {c : Ici} {s : State} (h : performs 0x0203 c (inSpools (pay c.p 8 8)) s) (hok : memoryOk s)
    (hindex : pay c.p 0 2 < 32768) (hwr : writable (s.dev.takeAccepted 0x0203 c) (pay c.p 8 8) 64) :
    ∃ t, exec (.descQuery c) s = .next t ∧ wrote (pay c.p 8 8) (entryBytes (get? s.dev.descs (pay c.p 0 2))) s t ∧ onlyAnswered s t
      ∧ answers 0x0203 c 0 0 0 (BitVec.ofNat 64 (entryKind (get? s.dev.descs (pay c.p 0 2)))) s t := by
  have hrun : exec (.descQuery c) s = _ := ici_fields h (ctx := none) (checks := fun _ => [(decide (pay c.p 0 2 < tableSize), 0)])
    (List.forall_mem_singleton.mpr (decide_eq_true hindex)) fun k b => b.withAddr k none 8 (pay c.p 8 8) 64 64 true fun b =>
      (b.wrClean (pay c.p 8 8) (entryBytes (get? b.dev.descs (pay c.p 0 2)))).ok k 0
        (BitVec.ofNat 64 (entryKind (get? b.dev.descs (pay c.p 0 2))))
  have haddr : writable (s.performing 0x0203 c).dev (pay c.p 8 8) 64 := hwr
  rw [Box.withAddr_writable haddr] at hrun
  refine ⟨_, hrun, ok_wrote h hok ?_ 0 _⟩
  rw [entryBytes_length]
  exact hwr

/-- IDENTITY_CERT with a capacity that holds the chain, and an address that may be written. -/
theorem Box.identityCert_fits {b : Box} {p : BitVec 384} (hcapacity : b.dev.fw.chain.length ≤ pay p 16 4)
    (hwr : writable b.dev (pay p 8 8) b.dev.fw.chain.length) (k : Pend) :
    b.identityCert k p = (b.wrClean (pay p 8 8) b.dev.fw.chain).ok k 0 (BitVec.ofNat 64 b.dev.fw.chain.length) := by
  unfold Box.identityCert
  dsimp only
  rw [Box.fields_pass, Box.withAddr_writable hwr]
  simp only [List.forall_mem_singleton, decide_eq_true_eq]
  exact hcapacity

theorem performing_fw (s : State) (opc : Nat) (c : Ici) : (s.performing opc c).dev.fw = s.dev.fw := rfl

theorem execIdentityCert_wrote {c : Ici} {s : State} (h : performs 0x0802 c (inSpools (pay c.p 8 8)) s) (hok : memoryOk s)
    (hcapacity : s.dev.fw.chain.length ≤ pay c.p 16 4)
    (hwr : writable (s.dev.takeAccepted 0x0802 c) (pay c.p 8 8) s.dev.fw.chain.length) :
    ∃ t, exec (.identityCert c) s = .next t ∧ wrote (pay c.p 8 8) s.dev.fw.chain s t ∧ onlyAnswered s t
      ∧ answers 0x0802 c 0 0 0 (BitVec.ofNat 64 s.dev.fw.chain.length) s t := by
  have hrun : exec (.identityCert c) s = .next (s.setBox ((s.performing 0x0802 c).identityCert (Ici.pend 0x0802 c) c.p)) :=
    ici_performs h _
  rw [Box.identityCert_fits, performing_fw] at hrun
  · exact ⟨_, hrun, ok_wrote h hok hwr 0 _⟩
  · rw [performing_fw]
    exact hcapacity
  · rw [performing_fw]
    exact hwr

theorem execSchedQuery_answers {c : Ici} {s : State} (h : performs 0x0305 c false s) :
    let x := s.dev.ctx (payBits c.p 0 0 3)
    ∃ t, exec (.schedQuery c) s = .next t ∧ sameStore s t ∧ onlyAnswered s t
      ∧ answers 0x0305 c 0 0 0 (BitVec.ofNat 64 (x.st.num + x.step % 2 ^ 32 * 2 ^ 32)) s t :=
  ⟨_, ici_performs h fun k b => b.ok k 0 (schedInfo (b.dev.ctx (payBits c.p 0 0 3))), ok_unchanged h 0 _⟩

/-! ### MB_QUERY (17 R507, R524) -/

theorem padTo_length (n : Nat) (l : List Byte) : (padTo n l).length = n := by
  simp only [padTo, zeros, List.length_take, List.length_append, List.length_replicate]
  omega

theorem Dev.recBytes_length (d : Dev) (seq : Nat) : (d.recBytes seq).length = 512 := by
  unfold Dev.recBytes
  cases d.recAt seq with
  | none => exact List.length_replicate
  | some r => exact padTo_length ..

theorem recBytes_flatMap_length (d : Dev) (first n : Nat) : ((span first n).flatMap d.recBytes).length = 512 * n := by
  rw [List.length_flatMap, List.map_congr_left fun i _ => d.recBytes_length i, List.map_const', List.sum_replicate, span_length,
    Nat.mul_comm, smul_eq_mul]

theorem execMbQuery_wrote {c : Ici} {s : State} (h : performs 0x0902 c true s) (hok : memoryOk s) (hcount : pay c.p 8 4 ≤ 8192)
    (hwr : writable (s.dev.takeAccepted 0x0902 c) (pay c.p 16 8) (512 * pay c.p 8 4)) :
    let d := (s.dev.takeAccepted 0x0902 c).mbDrainAll
    let seqs := span (pay c.p 0 8) (pay c.p 8 4)
    ∃ t, exec (.mbQuery c) s = .next t ∧ t.pending = s.pending ∧ wrote (pay c.p 16 8) (seqs.flatMap d.recBytes) s t ∧ t.dev.mb = d.mb
      ∧ answers 0x0902 c 0 0 (BitVec.ofNat 32 (seqs.filter fun i => (d.recAt i).isSome).length) (BitVec.ofNat 64 d.mb.head) s t := by
  intro d seqs
  have hrun : exec (.mbQuery c) s = _ := ici_fields h (ctx := none) (checks := fun _ => [(decide (pay c.p 8 4 ≤ 8192), 8)])
    (List.forall_mem_singleton.mpr (decide_eq_true hcount)) fun k b =>
      b.withAddr k none 16 (pay c.p 16 8) (512 * pay c.p 8 4) 64 true fun b =>
        ((b.onD Dev.mbDrainAll).wrClean (pay c.p 16 8) (seqs.map b.dev.mbDrainAll.recBytes).flatten).ok k
          (BitVec.ofNat 32 (seqs.filter fun i => (b.dev.mbDrainAll.recAt i).isSome).length) (BitVec.ofNat 64 b.dev.mbDrainAll.mb.head)
  have haddr : writable (s.performing 0x0902 c).dev (pay c.p 16 8) (512 * pay c.p 8 4) := hwr
  have hframe : d = { s.dev.takeAccepted 0x0902 c with mb := d.mb } := Dev.mbDrainAll_frame _
  have hprot : ∀ g ∈ granulesOf (pay c.p 16 8) (seqs.flatMap d.recBytes).length, d.protector g = none := by
    rw [recBytes_flatMap_length, hframe]
    exact hwr.2.2
  have hdrained : (s.performing 0x0902 c).dev.mbDrainAll = d := rfl
  rw [Box.withAddr_writable haddr, hdrained, ← List.flatMap_def,
    Box.wrClean_unprotected (b := (s.performing 0x0902 c).onD Dev.mbDrainAll) hprot] at hrun
  refine ⟨_, hrun, rfl, wrote_wrMem hok rfl, Dev.complete_mb .., answers_ok ?_ ?_ _ _⟩
  · exact (congrArg Dev.queues hframe :)
  · exact (congrArg Dev.bare hframe :).trans (performs_bare h)

/-- Settles O52: every row of the table gives its record, a query of no entries succeeds at once, and DESC_QUERY, IDENTITY_CERT,
SCHED_QUERY and MB_QUERY answer with their values. -/
theorem queriesWriteTheirRecords : Obligations.QueriesWriteTheirRecords := by
  unfold Obligations.QueriesWriteTheirRecords
  refine ⟨fun f hf => queryForm_writesRecord hf, fun c s => ⟨fun h hfilled hrange hn => ?_, fun h hrange hn => ?_,
      fun h hfilled hrange hn => ?_⟩,
    fun c s h hok hindex hwr => execDescQuery_wrote h hok hindex hwr,
    fun c s h hok hcapacity hwr => execIdentityCert_wrote h hok hcapacity hwr,
    fun c s h => execSchedQuery_answers h, fun c s h hok hcount hwr => execMbQuery_wrote h hok hcount hwr⟩
  · exact gaveSome_none h hn (execPressSlotQuery_gaveSome h hfilled (by omega))
  · exact gaveSome_none h hn (execSeqQuery_gaveSome h (by omega))
  · exact gaveSome_none h hn (execChalkQuery_gaveSome h hfilled (by omega))

end Sys2Proof.Machine

/-! O20. A handle that becomes valid lets the remote writes that wait go out, those of other handles too (12 R375). Where such a
write of the HMAP's own context reaches no device, the context stops at once (05 R561), and the HMAP is discarded with its work. -/

namespace Sys2Proof.Machine

open Sys2Proof.Safety

namespace HmapBesideLostWrite

/-- HMAP of handle 2 by stream F of core 0, for context 0. -/
def act : Act := ⟨⟨0, .F⟩, 1⟩

/-- It asks for one line in one bank, without ZERO. -/
def mapping : Action :=
  { id := 1, w := BitVec.ofNat 64 (0x38 * 2 ^ 56 + 2 * 2 ^ 3), index := 0, desc := 0x38, e := none, launch := 0, tack := 0, n0 := 64
    n1 := 0, n2 := 0, val := 0, dev := 0, unit := 0, ctx := 0, step := 0, reads := [], writes := [], done := false, gen := none, since := 0
    raised := false, fetched := 0, cfg := [], input := 0, cause := 0, cyc := 0 }

/-- The first line of bank 0, where the handle is placed. -/
def placed : Handle :=
  { ctx := 0, spilled := false, level := 1, log2nb := 0, firstBank := 0, bankOff := 0, lines := 1, zero := false, users := 0
    backing := 0, listed := false, valid := true, patched := [] }

/-- A line that context 0 wrote to a level-4 backing on device 5, and that the spill port of core 0 has not sent yet. -/
def waiting : RemoteReq := { kind := 1, tag := 0, dev := 5, addr := 2 ^ 40, len := 64, act := none, ctx := 0, port := some 0 }

/-- Context 0 runs, and no route leads to device 5. -/
def dev : Dev :=
  { State.reset.dev with
    ctxs := [(0, { Ctx.init with st := .running })]
    cores := [(0, { Core.init with sf := { StreamSt.init with ctx := some 0, acts := [mapping] } })]
    remotes := [⟨2 ^ 40, 1, 5, true, true, 0⟩]
    fab := { State.reset.dev.fab with waitWr := [waiting] } }

def state : State := ⟨[], { State.reset.box with dev := dev }⟩

/-- The HMAP in a next state. -/
def actionAfter : Res → Option Action
  | .next t => t.dev.action act
  | _ => none

theorem state_ready : ready act mapping [] state := by decide +kernel

theorem hmap_placed : (state.dev.core act.cs.core).handle (Insn.hd mapping.w) = none ∧ state.dev.hmapTurn act mapping = true
    ∧ state.dev.findPlace act.cs.core mapping.ctx (wantOf mapping) false = some placed := by decide +kernel

theorem hmap_discarded : actionAfter (exec (.hmap act) state) = none := by decide +kernel

end HmapBesideLostWrite

open HmapBesideLostWrite in
/-- Refutes O20: the handle has its place and comes first, but the write that waits goes out with the HMAP, is lost, and stops the
context; the HMAP is no launched action any more, so its work does not stand as done. -/
theorem not_handlesArePlacedByHmap : ¬ Obligations.HandlesArePlacedByHmap := by
  unfold Obligations.HandlesArePlacedByHmap
  intro h
  obtain ⟨-, hplaces⟩ := h act mapping placed [] state state_ready (by decide) (by decide)
  obtain ⟨hnone, hturn, hplace⟩ := hmap_placed
  obtain ⟨t, ht, hdone, -⟩ := hplaces hnone hturn (List.forall_mem_nil _) hplace rfl
  have hgone : t.dev.action act = none := by rw [← hmap_discarded, ht]; rfl
  rw [workDone, hgone] at hdone
  cases hdone

end Sys2Proof.Machine

/-! SUPPORT. The commands of a gather-and-merge engine whose turn has come: the action leaves the engine's queue and its work is done on
the state without it (07 R197, R217; 08 R235, R245; 10 R303, R310). -/

namespace Sys2Proof.Machine

open Sys2Proof.Safety

/-! ### Leaving the queue of a GME -/

/-- The box when the action has left the queue of its GME. -/
def Box.leftGme (b : Box) (a : Act) (x : Action) : Box := b.onD fun d => d.gmeLeave a x.unit

/-- The answer of a command that left `b` and has done the work of its action. -/
def gmeAnswer (a : Act) (b : Box) (s : State) : Res := .next (s.setBox (b.onD fun d => d.actDone a))

/-- A command that leaves the state as it is and has done the work of its action. -/
theorem gmeAnswer_leftGme {a : Act} {x : Action} {s : State} (hx : s.dev.action a = some x) :
    ∃ t, gmeAnswer a (s.box.leftGme a x) s = .next t ∧ sameStore s t ∧ workDone a x t
      ∧ t.dev = { s.dev with cores := t.dev.cores, gmes := t.dev.gmes, ahead := t.dev.ahead } := by
  refine ⟨_, rfl, ⟨rfl, rfl⟩, ?_, ?_⟩
  · exact Dev.action_actDone (d := s.dev.gmeLeave a x.unit) hx
  · rw [State.setBox_dev, Box.onD_dev, Dev.actDone, Dev.updAction_onlyCores]
    rfl

section
variable {a : Act} {x : Action} {s : State} (hready : ready a x [] s) (hturn : s.dev.gmeTurn a x.unit = true)
include hready hturn

/-- The turn of a GREQ: with an empty tensor nothing is done, else the operation's work. -/
theorem greq_answers {op : Nat} {sel : Action → Bool} (hopc : Insn.opc x.w = 0x60) (hop : gqOp x.desc = op) (hsel : sel x = true)
    (f : Box → Action → Box) :
    .next (s.setBox (s.box.greq a op sel f))
      = gmeAnswer a (if s.dev.namesEmpty x.desc then s.box.leftGme a x else f (s.box.leftGme a x) x) s := by
  unfold State.dev at hturn
  rw [Box.greq, Box.work, Box.gate_ready hready (by simp [isOp, hopc, hop, hsel, hturn])]
  rfl

theorem audit_answers (hopc : Insn.opc x.w = 0x61) : exec (.audit a) s
    = gmeAnswer a (if s.dev.namesEmpty x.desc then s.box.leftGme a x else (s.box.leftGme a x).auditRun a x) s := by
  change execAudit a s = _
  unfold State.dev at hturn
  rw [execAudit, State.on_eq, Box.work, Box.gate_ready hready (by simp [isOp, hopc, hturn])]
  rfl

/-- The operations with a COUNT: with COUNT 0, too, nothing is done. -/
theorem greq_counted_answers {op : Nat} {sel : Action → Bool} (hopc : Insn.opc x.w = 0x60) (hop : gqOp x.desc = op)
    (hsel : sel x = true) (f : Box → Action → Box) :
    .next (s.setBox (s.box.greq a op sel fun b x => if x.n1 = 0 then b else f b x))
      = gmeAnswer a (if s.dev.namesEmpty x.desc = true ∨ x.n1 = 0 then s.box.leftGme a x else f (s.box.leftGme a x) x) s := by
  rw [greq_answers hready hturn hopc hop hsel, ite_or]

theorem greq_counted_works {op : Nat} {sel : Action → Bool} (hopc : Insn.opc x.w = 0x60) (hop : gqOp x.desc = op) (hsel : sel x = true)
    (hempty : s.dev.namesEmpty x.desc = false) (hn : x.n1 ≠ 0) (f : Box → Action → Box) :
    .next (s.setBox (s.box.greq a op sel fun b x => if x.n1 = 0 then b else f b x)) = gmeAnswer a (f (s.box.leftGme a x) x) s := by
  rw [greq_counted_answers hready hturn hopc hop hsel, if_neg (by simp [hempty, hn])]

theorem greq_counted_idles {op : Nat} {sel : Action → Bool} (hopc : Insn.opc x.w = 0x60) (hop : gqOp x.desc = op) (hsel : sel x = true)
    (hnothing : s.dev.namesEmpty x.desc = true ∨ x.n1 = 0) (f : Box → Action → Box) :
    .next (s.setBox (s.box.greq a op sel fun b x => if x.n1 = 0 then b else f b x)) = gmeAnswer a (s.box.leftGme a x) s := by
  rw [greq_counted_answers hready hturn hopc hop hsel, if_pos hnothing]

end

/-- A GREQ that its operation does not select now changes nothing. -/
theorem greq_waits {a : Act} {x : Action} {s : State} (hready : ready a x [] s) {op : Nat} {sel : Action → Bool} (hsel : sel x = false)
    (f : Box → Action → Box) : .next (s.setBox (s.box.greq a op sel f)) = (.next s : Res) := by
  obtain ⟨hact, -, -, -, -, -, hzero⟩ := hready
  unfold State.dev at hact hzero
  rw [Box.greq, Box.work, Box.gate]
  simp only [hact, hzero, hsel, Bool.and_false, Bool.false_and, Bool.not_false, Bool.or_true, Bool.true_or, Bool.false_eq_true, if_true,
    if_false]
  rfl

/-- Each form of the table is a GREQ of its operation, with a COUNT. -/
theorem exec_greqForms {e : (Act → Instr) × Nat × (Act → Box → Action → Box)} (he : e ∈ greqForms) (a : Act) (s : State) :
    exec (e.1 a) s = .next (s.setBox (s.box.greq a e.2.1 (fun _ => true) fun b x => if x.n1 = 0 then b else e.2.2 a b x)) := by
  simp only [greqForms, List.mem_cons, List.not_mem_nil, or_false] at he
  obtain rfl | rfl | rfl | rfl | rfl | rfl | rfl := he <;> rfl

/-! ### Permuting copies (07 R217) -/

section
variable {a : Act} {x : Action} {s : State} (hready : ready a x [] s) (hturn : s.dev.gmeTurn a x.unit = true)
  (hopc : Insn.opc x.w = 0x60) (hop : gqOp x.desc = 3)
include hready hturn hopc hop

theorem greqCopy_unbounced_answers (hempty : s.dev.namesEmpty x.desc = false) (hneeds : s.dev.needsBounce x = false) :
    exec (.greqCopy a) s = gmeAnswer a ((s.box.leftGme a x).copyPairRun x) s := by
  have hleft : (s.box.leftGme a x).dev.needsBounce x = false := hneeds
  unfold State.dev at hneeds
  change execGreqCopy a s = _
  rw [execGreqCopy, State.on_eq, greq_answers hready hturn hopc hop (by rw [hneeds]; rfl)]
  simp only [hempty, hleft, Bool.false_eq_true, if_false]

/-- A copy that takes the buffer of Serger `k`. -/
theorem greqCopy_bounced_answers {k : Nat} (hempty : s.dev.namesEmpty x.desc = false) (hneeds : s.dev.needsBounce x = true)
    (hfree : s.dev.freeBounce x.unit = some k) : exec (.greqCopy a) s
      = gmeAnswer a (((s.box.leftGme a x).onD fun d => { d with bounce := put d.bounce k a }).copyPairRun x) s := by
  have hleft : (s.box.leftGme a x).dev.needsBounce x = true := hneeds
  have hleftFree : (s.box.leftGme a x).dev.freeBounce x.unit = some k := hfree
  unfold State.dev at hfree
  change execGreqCopy a s = _
  rw [execGreqCopy, State.on_eq, greq_answers hready hturn hopc hop (by rw [hfree, Option.isSome_some, Bool.or_true])]
  simp only [hempty, hleft, hleftFree, Bool.false_eq_true, if_true, if_false, Option.elim_some]

end

theorem greqCopy_waits {a : Act} {x : Action} {s : State} (hready : ready a x [] s) (hneeds : s.dev.needsBounce x = true)
    (hfree : s.dev.freeBounce x.unit = none) : exec (.greqCopy a) s = .next s := by
  unfold State.dev at hneeds hfree
  change execGreqCopy a s = _
  rw [execGreqCopy, State.on_eq, greq_waits hready (by rw [hneeds, hfree]; rfl)]

/-! ### LISTCLR (08 R245) -/

theorem listclr_answers {a : Act} {x : Action} {s : State} (hready : ready a x [] s) (hturn : s.dev.gmeTurn a x.unit = true)
    (hopc : Insn.opc x.w = 0x60) (hop : gqOp x.desc = 0xA) (hempty : s.dev.namesEmpty x.desc = false) {side : Desc}
    (hside : s.dev.native (gqDs x.desc) = some side) :
    let p := s.dev.overflowList x (gqDs x.desc) side
    let fl := ((s.store.rdMem (p.1 + 16) 1).head?).getD (0, false)
    exec (.listclr a) s = gmeAnswer a ((s.box.leftGme a x).engWrite x.ctx (unitDie x.unit) (gmeOf x.unit) p.1
      ((clean (leBytes 8 0 ++ leBytes 8 p.2)) ++ [(fl.1 &&& 0xFE, fl.2)])) s := by
  have hrun : exec (.listclr a) s = _ := greq_answers hready hturn hopc hop (sel := fun _ => true) rfl fun b x => b.listclrRun x
  have hleft : (s.box.leftGme a x).dev.native (gqDs x.desc) = some side := hside
  rw [hrun, if_neg (by simp [hempty]), Box.listclrRun, hleft]
  rfl

/-- Settles O31: every command is one turn of its engine (`greq_answers`, `audit_answers`), or waits for a buffer (`greqCopy_waits`). -/
theorem mergeEnginesRunTheirOperation : Obligations.MergeEnginesRunTheirOperation := by
  unfold Obligations.MergeEnginesRunTheirOperation
  intro a x s hready hturn b done empty
  have hdone : ∀ {c : Instr} {b' : Box}, exec c s = gmeAnswer a b' s → done c b' := fun hrun => ⟨_, hrun, rfl⟩
  refine ⟨fun e he hopc hop => ?_, fun hopc hop hempty => ?_, fun hopc hop => ⟨fun hempty hneeds => ?_, fun k hempty hneeds hfree => ?_,
    fun hneeds hfree => greqCopy_waits hready hneeds hfree⟩, fun hopc hop hempty side hside => ?_,
    fun hopc => ⟨fun hempty => ?_, fun hempty => ?_⟩⟩
  · have hrun := exec_greqForms he a s
    refine ⟨fun hempty hn => hdone (hrun.trans (greq_counted_works hready hturn hopc hop rfl hempty hn _)),
      fun hempty => hdone (hrun.trans (greq_counted_idles hready hturn hopc hop rfl (.inl hempty) _)), fun hn => ?_⟩
    rw [hrun, greq_counted_idles hready hturn hopc hop rfl (.inr hn)]
    exact gmeAnswer_leftGme hready.1
  · have hreplays : s.dev.assigns x = false → (!s.box.dev.assigns x) = true := fun h => (Bool.not_eq_true' _).mpr h
    exact ⟨fun hassigns hn => hdone (greq_counted_works hready hturn hopc hop (sel := s.box.dev.assigns) hassigns hempty hn _),
      fun hassigns hn => hdone (greq_counted_works hready hturn hopc hop (sel := fun x => !s.box.dev.assigns x) (hreplays hassigns) hempty hn _),
      fun hassigns hn => hdone (greq_counted_idles hready hturn hopc hop (sel := s.box.dev.assigns) hassigns (.inr hn) _),
      fun hassigns hn => hdone (greq_counted_idles hready hturn hopc hop (sel := fun x => !s.box.dev.assigns x) (hreplays hassigns) (.inr hn) _)⟩
  · exact hdone (greqCopy_unbounced_answers hready hturn hopc hop hempty hneeds)
  · exact hdone (greqCopy_bounced_answers hready hturn hopc hop hempty hneeds hfree)
  · exact hdone (listclr_answers hready hturn hopc hop hempty hside)
  · exact hdone ((audit_answers hready hturn hopc).trans (by rw [show s.dev.namesEmpty x.desc = false from hempty]; rfl))
  · exact hdone ((audit_answers hready hturn hopc).trans (by rw [show s.dev.namesEmpty x.desc = true from hempty]; rfl))

end Sys2Proof.Machine

/-! SUPPORT. The fields of a record of bytes: which bytes stand at an offset, and the number that they spell (00 R8; 07 R209; 09 R296; 11 R352;
12 R395, R397; 14 R427; 15 R471; 16 R490, R500; 18 R552). -/

namespace Sys2Proof.Machine

/-! ### Numbers as bytes -/

theorem leBytes_take {n m : Nat} (h : n ≤ m) (v : Nat) : (leBytes m v).take n = leBytes n v := by
  induction n generalizing m v with
  | zero => rfl
  | succ n ih =>
    obtain ⟨m, rfl⟩ := Nat.exists_eq_add_of_le' h
    rw [← Nat.add_assoc, leBytes, List.take_succ_cons, ih (by omega), leBytes]

theorem leBytes_drop (o m v : Nat) : (leBytes m v).drop o = leBytes (m - o) (v / 2 ^ (8 * o)) := by
  induction o generalizing m v with
  | zero => simp
  | succ o ih =>
    cases m with
    | zero => simp [leBytes]
    | succ m => rw [leBytes, List.drop_succ_cons, ih, Nat.div_div_eq_div_mul, Nat.mul_succ, Nat.add_comm _ 8, Nat.pow_add, Nat.add_sub_add_right]

theorem leNat_leBytes_toNat {w n : Nat} (x : BitVec w) (hw : w ≤ 8 * n) : leNat (leBytes n x.toNat) = x.toNat := by
  rw [leNat_leBytes, show 256 = 2 ^ 8 from rfl, ← Nat.pow_mul]
  exact Nat.mod_eq_of_lt (x.isLt.trans_le (Nat.pow_le_pow_right Nat.two_pos hw))

theorem leNat_zeros (n : Nat) : leNat (zeros n) = 0 := by
  induction n with
  | zero => rfl
  | succ n ih =>
    rw [zeros, List.replicate_succ, leNat, ← zeros, ih]
    rfl

theorem leNat_append_zeros (l : List Byte) (n : Nat) : leNat (l ++ zeros n) = leNat l := by
  induction l with
  | nil => exact leNat_zeros n
  | cons x t ih => rw [List.cons_append, leNat, leNat, ih]

@[simp] theorem zeros_length (n : Nat) : (zeros n).length = n := List.length_replicate

/-- The numbers below a bound, cut at one of them. -/
theorem range_eq_append_cons (i k : Nat) : List.range (i + k + 1) = List.range i ++ i :: (List.range k).map (i + 1 + ·) := by
  rw [Nat.add_assoc, List.range_add, List.range_succ_eq_map]
  simp [Function.comp_def, Nat.add_comm, Nat.add_left_comm]

theorem flatMap_range_length {w : Nat} {f : Nat → List Byte} (hw : ∀ i, (f i).length = w) (n : Nat) :
    ((List.range n).flatMap f).length = w * n := by
  rw [List.length_flatMap, List.map_congr_left fun i _ => hw i, List.map_const', List.sum_replicate, List.length_range, smul_eq_mul,
    Nat.mul_comm]

/-! ### Bytes that stand at an offset -/

/-- The bytes `l` stand in `bs` from offset `o` on. -/
def StandsAt (bs : List Byte) (o : Nat) (l : List Byte) : Prop := ∃ pre post, bs = pre ++ (l ++ post) ∧ pre.length = o

namespace StandsAt

variable {bs l m : List Byte} {o p n v : Nat}

theorem refl (bs : List Byte) : StandsAt bs 0 bs := ⟨[], [], by simp, rfl⟩

theorem trans (h : StandsAt bs o l) (h' : StandsAt l p m) : StandsAt bs (o + p) m := by
  obtain ⟨pre, post, rfl, rfl⟩ := h
  obtain ⟨pre', post', rfl, rfl⟩ := h'
  exact ⟨pre ++ pre', post' ++ post, by simp, by simp⟩

/-- Two pieces, one after the other, stand each at its place. -/
theorem append_iff : StandsAt bs o (l ++ m) ↔ StandsAt bs o l ∧ StandsAt bs (o + l.length) m := by
  refine ⟨fun h => ⟨h.trans ⟨[], m, rfl, rfl⟩, h.trans ⟨l, [], by simp, rfl⟩⟩, ?_⟩
  rintro ⟨⟨pre, post, rfl, rfl⟩, pre', post', h, hlen⟩
  rw [← List.append_assoc] at h
  obtain ⟨-, rfl⟩ := List.append_inj h (by rw [List.length_append, hlen])
  exact ⟨pre, post', by simp, rfl⟩

/-- A record filled up with zeros begins with what was filled up. -/
theorem padTo (h : l.length ≤ n) : StandsAt (padTo n l) 0 l := by
  have hlen : (l ++ zeros (n - l.length)).length = n := by rw [List.length_append, zeros_length, Nat.add_sub_cancel' h]
  rw [Machine.padTo, List.take_of_length_le hlen.le]
  exact ⟨[], _, rfl, rfl⟩

/-- Pieces of one size stand at their numbers' places. -/
theorem flatMap_range {w i : Nat} {f : Nat → List Byte} (h : StandsAt bs o ((List.range n).flatMap f)) (hw : ∀ i, (f i).length = w)
    (hi : i < n) (hp : o + w * i = p) : StandsAt bs p (f i) := by
  subst hp
  obtain ⟨k, rfl⟩ := Nat.exists_eq_add_of_lt hi
  refine h.trans ⟨(List.range i).flatMap f, ((List.range k).map (i + 1 + ·)).flatMap f, ?_, flatMap_range_length hw i⟩
  rw [range_eq_append_cons, List.flatMap_append, List.flatMap_cons]

theorem bytes (h : StandsAt bs o l) (hn : l.length = n) : (bs.drop o).take n = l := by
  obtain ⟨pre, post, rfl, rfl⟩ := h
  subst hn
  simp

theorem take (h : StandsAt bs 0 l) (hn : l.length = n) : bs.take n = l := h.bytes hn

theorem leAt (h : StandsAt bs o (leBytes n v)) : leAt bs o n = v % 2 ^ (8 * n) := by
  rw [Machine.leAt, h.bytes (leBytes_length n v), leNat_leBytes, Nat.pow_mul]

theorem leAt_of_lt (h : StandsAt bs o (leBytes n v)) (hv : v < 2 ^ (8 * n)) : Machine.leAt bs o n = v := h.leAt.trans (Nat.mod_eq_of_lt hv)

theorem leAt_toNat {w : Nat} {x : BitVec w} (h : StandsAt bs o (leBytes n x.toNat)) (hw : w ≤ 8 * n) : Machine.leAt bs o n = x.toNat := by
  rw [Machine.leAt, h.bytes (leBytes_length n _), leNat_leBytes_toNat x hw]

end StandsAt

/-! ### The records of the device's queries -/

theorem CtxState.num_lt (st : CtxState) : st.num < 256 := by cases st <;> decide

theorem Dev.infoBytes_fields (d : Dev) :
    d.infoBytes.length = 64 ∧ leAt d.infoBytes 0 8 = d.rdYkId % 2 ^ 64 ∧ leAt d.infoBytes 8 8 = d.rdSpares % 2 ^ 64
      ∧ leAt d.infoBytes 16 1 = (d.fw.pattern.level - 2) % 256 ∧ leAt d.infoBytes 17 1 = d.fw.pattern.level % 256
      ∧ leAt d.infoBytes 18 1 = d.rdYkStatus / 4 % 4 ∧ ∀ n, n < 8 → leAt d.infoBytes (24 + n) 1 = (d.ctx n).st.num := by
  have hctx : ∀ n, (leBytes 1 (d.ctx n).st.num).length = 1 := fun n => leBytes_length 1 _
  have h := StandsAt.refl d.infoBytes
  unfold Dev.infoBytes at h ⊢
  simp only [StandsAt.append_iff, List.length_append, leBytes_length, zeros_length, flatMap_range_length hctx, and_assoc, true_and] at h ⊢
  obtain ⟨hid, hspares, hlow, hhigh, hcutter, -, hctxs, -⟩ := h
  exact ⟨hid.leAt, hspares.leAt, hlow.leAt, hhigh.leAt, hcutter.leAt_of_lt ((Nat.mod_lt _ (by decide)).trans (by decide)),
    fun n hn => (hctxs.flatMap_range hctx hn (by omega)).leAt_of_lt (CtxState.num_lt _)⟩

theorem Dev.spoolInfo_fields (d : Dev) :
    d.spoolInfo.length = 64 ∧ (∀ m, m < 8 → leAt d.spoolInfo (4 * m) 4 = (d.spool m).free % 2 ^ 32)
      ∧ leAt d.spoolInfo 32 4 = d.regions.length % 2 ^ 32 := by
  have hfree : ∀ m, (leBytes 4 (d.spool m).free).length = 4 := fun m => leBytes_length 4 _
  have h : StandsAt d.spoolInfo 0 _ := StandsAt.padTo (by simp [flatMap_range_length hfree, leBytes_length])
  simp only [StandsAt.append_iff, flatMap_range_length hfree] at h
  obtain ⟨hspools, hregions⟩ := h
  exact ⟨padTo_length .., fun m hm => (hspools.flatMap_range hfree hm (by omega)).leAt, hregions.leAt⟩

/-- The health record of a channel (11 R352). -/
theorem Dev.healthRec_fields (d : Dev) (m ph : Nat) :
    let c := (d.spool m).chan ph
    let l := d.healthRec m ph
    l.length = 32 ∧ leAt l 0 1 = ph % 256 ∧ leAt l 1 1 = c.role % 256 ∧ leAt l 4 4 = c.corr % 2 ^ 32 ∧ leAt l 8 4 = c.unc % 2 ^ 32
      ∧ leAt l 16 2 = c.retrains % 65536 ∧ leAt l 18 2 = c.darnings % 65536 ∧ (c.lastErr = none → leAt l 24 8 = 2 ^ 64 - 1) := by
  intro c l
  have h : StandsAt l 0 (d.healthRec m ph) := StandsAt.refl _
  have hlen : l.length = (d.healthRec m ph).length := rfl
  unfold Dev.healthRec at h hlen
  simp only [StandsAt.append_iff, List.length_append, leBytes_length, zeros_length, and_assoc] at h hlen
  obtain ⟨hph, hrole, -, -, hcorr, hunc, -, -, hretrains, hdarnings, -, herr⟩ := h
  refine ⟨hlen, hph.leAt, hrole.leAt, hcorr.leAt, hunc.leAt, hretrains.leAt, hdarnings.leAt, fun hnone => ?_⟩
  rw [show ((d.spool m).chan ph).lastErr = none from hnone] at herr
  exact herr.leAt

/-- The status record of a Seam (12 R397). -/
theorem Dev.seamRec_fields (d : Dev) (p : Nat) :
    let x := d.seam p
    let l := d.seamRec p
    l.length = 32 ∧ leAt l 0 1 = p % 256 ∧ leAt l 1 1 = x.st % 256 ∧ leAt l 2 1 = x.width % 256
      ∧ leAt l 3 1 = (x.active.toNat + 16 * x.failed.toNat) % 256 ∧ leAt l 4 2 = x.partner.toNat ∧ leAt l 6 1 = x.pseam % 256
      ∧ leAt l 7 1 = x.level % 256 ∧ leAt l 8 4 = x.crcFail % 2 ^ 32 ∧ leAt l 12 4 = x.replays % 2 ^ 32
      ∧ leAt l 16 4 = x.retrains % 2 ^ 32 ∧ leAt l 20 4 = x.fecCorr % 2 ^ 32 ∧ leAt l 24 4 = x.fecUnc % 2 ^ 32 := by
  intro x l
  have h : StandsAt l 0 (d.seamRec p) := StandsAt.refl _
  have hlen : l.length = (d.seamRec p).length := rfl
  unfold Dev.seamRec at h hlen
  simp only [StandsAt.append_iff, List.length_append, leBytes_length, zeros_length, and_assoc] at h hlen
  obtain ⟨hp, hst, hwidth, hlanes, hpartner, hpseam, hlevel, hcrc, hreplays, hretrains, hcorr, hunc, -⟩ := h
  exact ⟨hlen, hp.leAt, hst.leAt, hwidth.leAt, hlanes.leAt, hpartner.leAt_toNat (by decide), hpseam.leAt, hlevel.leAt, hcrc.leAt,
    hreplays.leAt, hretrains.leAt, hcorr.leAt, hunc.leAt⟩

/-! ### Power and telemetry (18 R552) -/

theorem Dev.powerWord_length (d : Dev) : d.powerWord.length = 4 := leBytes_length 4 _

theorem Dev.railWords_length (d : Dev) : d.railWords.length = 20 :=
  flatMap_range_length (w := 4) (fun r => by rw [List.length_append, leBytes_length, leBytes_length]) 5

theorem Dev.powerRec_fields (d : Dev) :
    d.powerRec.length = 64 ∧ leAt d.powerRec 0 1 = (if d.power.hold then 2 else if d.liveCtxs.isEmpty then 1 else 0)
      ∧ leAt d.powerRec 1 1 = d.power.jst % 256 ∧ leAt d.powerRec 2 2 = d.pace.vcore % 65536 ∧ leAt d.powerRec 4 2 = d.power.plimit % 65536
      ∧ leAt d.powerRec 32 4 = d.power.limits % 2 ^ 32 ∧ leAt d.powerRec 40 8 = d.power.energy / 200000 % 2 ^ 64 := by
  have h := StandsAt.refl d.powerRec
  unfold Dev.powerRec at h ⊢
  simp only [StandsAt.append_iff, List.length_append, leBytes_length, zeros_length, Dev.powerWord_length, Dev.railWords_length,
    and_assoc, true_and] at h ⊢
  obtain ⟨hstate, hjst, hvcore, hplimit, -, -, -, hlimits, -, henergy, -⟩ := h
  have hlt : d.powerState < 256 := by
    unfold Dev.powerState
    split_ifs <;> decide
  exact ⟨hstate.leAt_of_lt hlt, hjst.leAt, hvcore.leAt, hplimit.leAt, hlimits.leAt, henergy.leAt⟩

theorem tempBytes_length (l : List W16) (i : Nat) : (tempBytes l i).length = 2 := leBytes_length 2 _

theorem Dev.telemetry_fields (d : Dev) :
    d.telemetry.length = 128 ∧ (∀ i, i < 24 → leAt d.telemetry (2 * i) 2 = ((d.power.bolts[i]?).getD 0x8000).toNat)
      ∧ (∀ i, i < 4 → leAt d.telemetry (48 + 2 * i) 2 = ((d.power.selv[i]?).getD 0x8000).toNat)
      ∧ (∀ m, m < 8 → leAt d.telemetry (56 + 2 * m) 2 = (d.spool m).temp.toNat) ∧ leAt d.telemetry 72 1 = d.power.jst % 256 := by
  have hspool : ∀ m, (leBytes 2 (d.spool m).temp.toNat).length = 2 := fun m => leBytes_length 2 _
  have h := StandsAt.refl d.telemetry
  unfold Dev.telemetry at h ⊢
  simp only [StandsAt.append_iff, List.length_append, leBytes_length, zeros_length, Dev.powerWord_length, Dev.railWords_length,
    flatMap_range_length (tempBytes_length _), flatMap_range_length hspool, and_assoc, true_and] at h ⊢
  obtain ⟨hbolts, hselvages, hspools, hjst, -⟩ := h
  exact ⟨fun i hi => (hbolts.flatMap_range (tempBytes_length _) hi (by omega)).leAt_toNat (by decide),
    fun i hi => (hselvages.flatMap_range (tempBytes_length _) hi (by omega)).leAt_toNat (by decide),
    fun m hm => (hspools.flatMap_range hspool hm (by omega)).leAt_toNat (by decide), hjst.leAt⟩

/-! ### Health, firmware and attestation (15 R471; 16 R490, R500) -/

theorem Dev.healthBytes_fields (d : Dev) :
    d.healthBytes.length = 64 ∧ leAt d.healthBytes 0 4 = d.health.hours % 2 ^ 32 ∧ leAt d.healthBytes 4 4 = d.health.faults % 2 ^ 32
      ∧ leAt d.healthBytes 8 8 = d.rdSpares % 2 ^ 64 ∧ leAt d.healthBytes 18 2 = d.health.retired.length % 65536
      ∧ leAt d.healthBytes 28 4 = d.health.advice.toNat ∧ leAt d.healthBytes 32 4 = d.health.interval % 2 ^ 32
      ∧ leAt d.healthBytes 40 8 = d.tape.now % 2 ^ 64 := by
  have h : StandsAt d.healthBytes 0 _ := StandsAt.padTo (by simp [leBytes_length])
  simp only [StandsAt.append_iff, List.length_append, leBytes_length, zeros_length, and_assoc] at h
  obtain ⟨hhours, hfaults, hspares, -, -, hretired, -, -, -, hadvice, hinterval, -, hnow⟩ := h
  exact ⟨padTo_length .., hhours.leAt, hfaults.leAt, hspares.leAt, hretired.leAt, hadvice.leAt_toNat (by decide), hinterval.leAt, hnow.leAt⟩

theorem Dev.fwInfo_fields (d : Dev) :
    d.fwInfo.length = 128 ∧ leAt d.fwInfo 16 4 = d.fw.pattern.version.toNat ∧ leAt d.fwInfo 20 2 = d.fw.pattern.level % 65536
      ∧ leAt d.fwInfo 24 2 = d.fw.svnThimble % 65536 ∧ leAt d.fwInfo 26 2 = d.fw.svnPattern % 65536
      ∧ leAt d.fwInfo 32 1 = d.fw.prefer % 256 ∧ leAt d.fwInfo 33 1 = d.fw.booted % 256 ∧ leAt d.fwInfo 36 4 = d.fw.bootCount % 2 ^ 32
      ∧ leAt d.fwInfo 40 8 = d.fw.dirGen 0 % 2 ^ 64 ∧ leAt d.fwInfo 48 8 = d.fw.dirGen 1 % 2 ^ 64 := by
  have hvers : ∀ v : Nat → Nat, ((List.range 4).flatMap fun s => leBytes 4 (v s)).length = 16 := fun v =>
    flatMap_range_length (fun s => leBytes_length 4 (v s)) 4
  have h : StandsAt d.fwInfo 0 _ := StandsAt.padTo (by simp [leBytes_length])
  simp only [StandsAt.append_iff, List.length_append, leBytes_length, zeros_length, hvers, and_assoc] at h
  obtain ⟨-, hversion, hlevel, -, -, hthimble, hpattern, -, -, hprefer, hbooted, -, -, hcount, hgen0, hgen1, -⟩ := h
  exact ⟨padTo_length .., hversion.leAt_toNat (by decide), hlevel.leAt, hthimble.leAt, hpattern.leAt, hprefer.leAt, hbooted.leAt, hcount.leAt,
    hgen0.leAt, hgen1.leAt⟩

theorem Dev.attestReport_body (d : Dev) (mask : Nat) (nonce : List Byte) : StandsAt (d.attestReport mask nonce) 0 (d.attestBody mask nonce) := by
  have hlen : (d.attestBody mask nonce).length = 832 := padTo_length ..
  have h : StandsAt (d.attestReport mask nonce) 0 _ := StandsAt.padTo (by rw [List.length_append, hlen, leBytes_length]; decide)
  exact (StandsAt.append_iff.mp h).1

theorem Dev.attestReport_fields (d : Dev) (mask : Nat) {nonce : List Byte} (hnonce : nonce.length = 64) :
    let l := d.attestReport mask nonce
    l.length = 5504 ∧ l.take 8 = asciiBytes "FVKATTST" ∧ leAt l 8 2 = 1 ∧ leAt l 10 2 = d.fab.deviceId.toNat ∧ leAt l 12 2 = 0x2480
      ∧ leAt l 16 8 = d.tape.now % 2 ^ 64 ∧ leAt l 32 4 = d.fw.bootCount % 2 ^ 32 ∧ (l.drop 48).take 64 = nonce
      ∧ leAt l 176 64 = d.fw.mPattern.toNat ∧ leAt l 240 64 = d.fw.identityHash.toNat
      ∧ ∀ n, n < 8 → leAt l (304 + 64 * n) 64 = if mask.testBit n then (getD d.fw.mSched n 0).toNat else 0 := by
  intro l
  have hmagic : (asciiBytes "FVKATTST").length = 8 := rfl
  have hsched : ∀ n, (leBytes 64 (if mask.testBit n then (getD d.fw.mSched n 0).toNat else 0)).length = 64 := fun n => leBytes_length 64 _
  have hbody : StandsAt (d.attestBody mask nonce) 0 _ :=
    StandsAt.padTo (by simp only [List.length_append, leBytes_length, zeros_length, flatMap_range_length hsched, hnonce, hmagic]; decide)
  have h := (d.attestReport_body mask nonce).trans hbody
  simp only [StandsAt.append_iff, List.length_append, leBytes_length, zeros_length, hmagic, hnonce, and_assoc] at h
  obtain ⟨hhead, hformat, hid, hpart, -, -, hnow, -, -, -, -, -, hboot, -, hnonce', -, hpattern, hidentity, hscheds⟩ := h
  refine ⟨padTo_length .., hhead.take hmagic, hformat.leAt, hid.leAt_toNat (by decide), hpart.leAt, hnow.leAt, hboot.leAt,
    hnonce'.bytes hnonce, hpattern.leAt_toNat (by decide), hidentity.leAt_toNat (by decide), fun n hn => ?_⟩
  have h' := hscheds.flatMap_range hsched hn rfl
  by_cases hbit : mask.testBit n = true
  · simp only [hbit, if_true] at h' ⊢
    exact h'.leAt_toNat (by decide)
  · simp only [hbit, Bool.false_eq_true, if_false] at h' ⊢
    exact h'.leAt.trans (Nat.zero_mod _)

/-! ### Entries of tables (07 R209; 08 R263, R266; 09 R296) -/

theorem entryBytes_fields (x : Desc) (p : BitVec 128) :
    entryBytes none = zeros 64 ∧ leAt (entryBytes (some (.native x))) 0 64 = x.toNat
      ∧ leAt (entryBytes (some (.forerunner x))) 0 64 = x.toNat ∧ leAt (entryBytes (some (.pair p))) 0 64 = p.toNat := by
  have hdesc : leAt (leBytes 64 x.toNat) 0 64 = x.toNat := (StandsAt.refl _).leAt_toNat (by decide)
  have hpair : leAt (entryBytes (some (.pair p))) 0 64 = leNat (leBytes 16 p.toNat ++ zeros 48) :=
    congrArg leNat ((StandsAt.refl _).bytes (entryBytes_length _))
  refine ⟨rfl, hdesc, hdesc, hpair.trans ?_⟩
  rw [leNat_append_zeros, leNat_leBytes_toNat p (by decide)]

theorem OSlot.bytes_fields (o : OSlot) : o.bytes.length = 64 ∧ leAt o.bytes 36 4 = o.p1.toNat ∧ leAt o.bytes 40 4 = o.p2.toNat
    ∧ leAt o.bytes 0 36 = fld o.e 0 288 ∧ leAt o.bytes 44 20 = fld o.e 352 160 := by
  have h := StandsAt.refl o.bytes
  unfold OSlot.bytes at h ⊢
  simp only [leBytes_take (show 36 ≤ 64 by decide), leBytes_drop, StandsAt.append_iff, List.length_append, leBytes_length, and_assoc,
    true_and] at h ⊢
  obtain ⟨hlow, hp1, hp2, hhigh⟩ := h
  refine ⟨hp1.leAt_toNat (by decide), hp2.leAt_toNat (by decide), hlow.leAt.trans ?_, hhigh.leAt.trans ?_⟩
  · rw [fld, Nat.shiftRight_zero]
  · rw [fld, Nat.shiftRight_eq_div_pow]

theorem countBytes_fields (tb : Tbl Nat) {n : Nat} (hn : n ≤ 16) :
    (countBytes tb n).length = 64 ∧ ∀ i, i < n → leAt (countBytes tb n) (4 * i) 4 = getD tb i 0 % 2 ^ 32 := by
  have hcount : ∀ i, (leBytes 4 (getD tb i 0)).length = 4 := fun i => leBytes_length 4 _
  have h : StandsAt (countBytes tb n) 0 _ := StandsAt.padTo (by rw [flatMap_range_length hcount]; omega)
  exact ⟨padTo_length .., fun i hi => (h.flatMap_range hcount hi (Nat.zero_add _)).leAt⟩

theorem Ctx.chalkEntry_fields (c : Ctx) (i : Nat) :
    let y := getD c.chalk i .init
    let l := c.chalkEntry i
    l.length = 32 ∧ leAt l 0 4 = y.sumP % 2 ^ 32 ∧ leAt l 4 4 = y.aud % 2 ^ 32 ∧ leAt l 8 4 = y.miss % 2 ^ 32
      ∧ leAt l 12 4 = y.unaud % 2 ^ 32 ∧ leAt l 16 4 = boolN y.flag ∧ leAt l 20 4 = c.step % 2 ^ 32 := by
  intro y l
  have h : StandsAt l 0 _ := StandsAt.padTo (by simp [leBytes_length])
  simp only [StandsAt.append_iff, List.length_append, leBytes_length, and_assoc] at h
  obtain ⟨hsum, haud, hmiss, hunaud, hflag, hstep⟩ := h
  have hlt : boolN y.flag < 2 ^ 32 := by
    unfold boolN
    split <;> decide
  exact ⟨padTo_length .., hsum.leAt, haud.leAt, hmiss.leAt, hunaud.leAt, hflag.leAt_of_lt hlt, hstep.leAt⟩

/-- Settles O53, one lemma for each record. -/
theorem queryRecordsHoldTheirFields : Obligations.QueryRecordsHoldTheirFields := by
  unfold Obligations.QueryRecordsHoldTheirFields
  intro d
  exact ⟨d.infoBytes_fields, d.spoolInfo_fields, d.healthRec_fields, d.seamRec_fields, d.powerRec_fields, d.telemetry_fields,
    d.healthBytes_fields, d.fwInfo_fields, fun mask _ hnonce => d.attestReport_fields mask hnonce, entryBytes_fields, OSlot.bytes_fields,
    fun tb _ hn => countBytes_fields tb hn, Ctx.chalkEntry_fields⟩

end Sys2Proof.Machine

/-! SUPPORT. The descriptor commands: tables after many writes and after a removal, what a command reads from memory, a failure with its event,
and each command of group 0x02 (07 R201 to R210, R215, R217, R225, R226; 14 R420, R421). -/

namespace Sys2Proof.Machine

open Sys2Proof.Safety

/-! ### Tables and sets after many changes -/

section
variable {α β : Type} {key : β → Nat} {val : β → α}

theorem get?_foldl_put_of_not_mem {n : Nat} {l : List β} (h : n ∉ l.map key) (t : Tbl α) :
    get? (l.foldl (fun t x => put t (key x) (val x)) t) n = get? t n := by
  induction l generalizing t with
  | nil => rfl
  | cons x l ih =>
    obtain ⟨hx, hl⟩ := not_or.mp (mt List.mem_cons.mpr h)
    rw [List.foldl_cons, ih hl, get?_put_ne _ _ hx]

theorem get?_foldl_put_of_mem {x : β} {l : List β} (hnodup : (l.map key).Nodup) (hx : x ∈ l) (t : Tbl α) :
    get? (l.foldl (fun t x => put t (key x) (val x)) t) (key x) = some (val x) := by
  induction l generalizing t with
  | nil => exact absurd hx List.not_mem_nil
  | cons y l ih =>
    obtain ⟨hy, hl⟩ := List.nodup_cons.mp hnodup
    rw [List.foldl_cons]
    rcases List.mem_cons.mp hx with rfl | hmem
    · rw [get?_foldl_put_of_not_mem hy, get?_put_same]
    · exact ih hl hmem _

theorem get?_filter_key (t : Tbl α) (p : Nat → Bool) (n : Nat) :
    get? (t.filter fun e => p e.1) n = if p n then get? t n else none := by
  induction t with
  | nil => simp [get?]
  | cons e t ih =>
    obtain ⟨k, v⟩ := e
    by_cases hk : k = n
    · subst hk
      by_cases hp : p k = true
      · simp [hp, get?]
      · simpa [hp] using ih
    · by_cases hp : p k = true <;> simp [hp, get?, hk, ih]

end

theorem mem_foldl_addSet {l t : List Nat} {n : Nat} : n ∈ l.foldl addSet t ↔ n ∈ l ∨ n ∈ t := by
  induction l generalizing t with
  | nil => simp
  | cons x l ih =>
    rw [List.foldl_cons, ih, mem_addSet, List.mem_cons]
    tauto

theorem span_nodup (a n : Nat) : (span a n).Nodup := List.nodup_range.map fun _ _ h => Nat.add_left_cancel h

/-! ### What a command reads, and how it fails (14 R407, R420, R421; 15 R438) -/

theorem firstField_eq_none {l : List (Bool × Nat)} : firstField l = none ↔ ∀ x ∈ l, x.1 = true := by
  simp [firstField]

/-- A check of an address that the command may read. -/
theorem Box.withAddr_readable {s : State} {b : Box} {a n al : Nat} {l : List Byte} (h : readable s b.dev a n al l) (k : Pend)
    (ctx : Option Nat) (byte : Nat) (f : Box → Box) : b.withAddr k ctx byte a n al false f = f b := by
  obtain ⟨halign, hmem, -⟩ := h
  unfold Box.withAddr
  rw [if_neg, if_neg]
  · rintro ⟨hn, hin, hno⟩
    simp [(hmem hn).2 hin] at hno
  · rintro (hno | ⟨hn, hno⟩)
    · exact hno halign
    · simp [(hmem hn).1] at hno

theorem bytesOf_rdMem (s : Store) (a n : Nat) : bytesOf (s.rdMem a n) = s.mem.read a n := by
  rw [bytesOf, Store.rdMem, List.map_fst_zip]
  rw [Mem.read_length, List.length_map, span_length]

/-- The bytes that the command reads, none of them poisoned. -/
theorem Box.withData_readable {s : State} {b : Box} {d : Dev} {a n al : Nat} {l : List Byte} (h : readable s d a n al l)
    (hstore : b.store = s.store) (k : Pend) (f : List Byte → Box → Box) : b.withData k a n f = f l b := by
  obtain ⟨-, -, hclean, rfl⟩ := h
  unfold Box.withData
  dsimp only
  rw [hstore, hclean, bytesOf_rdMem]
  rfl

/-- The device with another descriptor table, and with another forerunner page table. -/
def Dev.withDescs (d : Dev) (t : Tbl DescEntry) : Dev := { d with descs := t }
def Dev.withCompat (d : Dev) (t : Tbl CompatPage) : Dev := { d with compat := t }

/-- A completion of a command on a device whose queues are those that the command left. -/
theorem answers_of_complete {opc : Nat} {c : Ici} {s t : State} {d : Dev} {st ev : Nat} {x : W32} {y : W64}
    (ht : t.dev = d.complete (Ici.pend opc c) st ev x y) (hqueues : d.queues = (s.dev.takeAccepted opc c).queues) (hbare : d.bare = false) :
    answers opc c st ev x y s t := by
  have hqueue : ∀ j, d.queue j = (s.dev.takeAccepted opc c).queue j := fun j => congrArg (fun t => getD t j Queue.init) hqueues
  have hdue := fun j => d.complete_queue (Ici.pend opc c) st ev x y j hbare
  unfold answers
  rw [ht]
  refine ⟨(hdue c.q.val).trans ((if_pos rfl).trans ?_), fun j hj => (hdue j).trans ((if_neg hj).trans ?_)⟩
  · rw [hqueue, takeAccepted_queue, if_pos rfl]
  · rw [hqueue, takeAccepted_queue, if_neg hj]

section
variable {opc : Nat} {c : Ici} {needs : Bool} {s : State} (h : performs opc c needs s)
include h

/-- A success of a command that has left the queues otherwise as they were. -/
theorem okCmd_answers {d : Dev} (hqueues : d.queues = (s.dev.takeAccepted opc c).queues) (hyoke : d.yoke = s.dev.yoke) :
    let t := s.setDev (d.okCmd (Ici.pend opc c))
    sameStore s t ∧ succeeds opc c s t ∧ t.dev = { d with queues := t.dev.queues } := by
  obtain ⟨queues, hok⟩ := d.complete_onlyQueues (Ici.pend opc c) 0 0 0 0
  refine ⟨⟨rfl, rfl⟩, answers_of_complete rfl hqueues ((congrArg (fun y : YokeSt => y.mode == 2) hyoke).trans (performs_bare h)), ?_⟩
  rw [State.setDev_dev, Dev.okCmd, hok]

/-- A failure leaves its event and its completion, and nothing else of the tables of 07. -/
theorem failCmd_answers (ev : Nat) (slots : List Int) (detail : W32) :
    let t := s.setDev ((s.dev.takeAccepted opc c).failCmd (Ici.pend opc c) ev none slots detail)
    sameStore s t ∧ t.dev.descs = s.dev.descs ∧ t.dev.compat = s.dev.compat ∧ answers opc c 1 ev detail 0 s t
      ∧ recorded ev none slots s t := by
  have hfail : (s.dev.takeAccepted opc c).failCmd (Ici.pend opc c) ev none slots detail
      = ((s.dev.takeAccepted opc c).raise ev (s.dev.takeAccepted opc c).fwDie true none slots).complete (Ici.pend opc c) 1 ev detail := rfl
  refine ⟨⟨rfl, rfl⟩, ?_, ?_, answers_of_complete hfail (Dev.raise_queues ..) ((Dev.raise_bare_of ..).trans (performs_bare h)),
    recorded_of_raise_mb (d := s.dev.takeAccepted opc c) rfl ((congrArg Dev.mb hfail).trans (Dev.complete_mb ..))⟩
  · rw [State.setDev_dev, hfail, Dev.complete_descs, Dev.raise_descs]
    rfl
  · rw [State.setDev_dev, hfail, Dev.complete_compat, Dev.raise_compat]
    rfl

/-- A success that changed the descriptor table. -/
theorem okCmd_descs (descs : Tbl DescEntry) :
    let t := s.setDev (((s.dev.takeAccepted opc c).withDescs descs).okCmd (Ici.pend opc c))
    sameStore s t ∧ succeeds opc c s t ∧ t.dev = { s.dev with queues := t.dev.queues, descs := t.dev.descs } ∧ t.dev.descs = descs := by
  intro t
  obtain ⟨hstore, hok, hdev⟩ := okCmd_answers h (d := (s.dev.takeAccepted opc c).withDescs descs) rfl rfl
  have hdescs : t.dev.descs = descs := congrArg Dev.descs hdev
  refine ⟨hstore, hok, ?_, hdescs⟩
  rw [hdescs]
  exact hdev

/-- A success that changed the forerunner page table. -/
theorem okCmd_compat (compat : Tbl CompatPage) :
    let t := s.setDev (((s.dev.takeAccepted opc c).withCompat compat).okCmd (Ici.pend opc c))
    sameStore s t ∧ succeeds opc c s t ∧ t.dev = { s.dev with queues := t.dev.queues, compat := t.dev.compat } ∧ t.dev.compat = compat := by
  intro t
  obtain ⟨hstore, hok, hdev⟩ := okCmd_answers h (d := (s.dev.takeAccepted opc c).withCompat compat) rfl rfl
  have hcompat : t.dev.compat = compat := congrArg Dev.compat hdev
  refine ⟨hstore, hok, ?_, hcompat⟩
  rw [hcompat]
  exact hdev

end

/-! ### DESC_CREATE (07 R201, R207, R225) -/

/-- The check of a descriptor in either form. -/
def Dev.descFault (d : Dev) (form : Bool) (x : Desc) : Option DescFault := if form then forerunnerFault x else d.nativeFault x

/-- The entry of a descriptor in either form. -/
def descEntry (form : Bool) (x : Desc) : DescEntry := if form then .forerunner x else .native x

/-- Descriptor `i` of an array. -/
def descAt (l : List Byte) (i : Nat) : Desc := BitVec.ofNat 512 (leAt l (64 * i) 64)

/-- The descriptors of an array with the indices that they take. -/
theorem span_zip_descArray (l : List Byte) (first count : Nat) :
    (span first (descArray l count).length).zip (descArray l count) = (List.range count).map fun i => (first + i, descAt l i) := by
  rw [descArray, List.length_map, List.length_range, span, List.zip_map']
  rfl

theorem Dev.createDescs_succeeds {d : Dev} {form : Bool} {l : List Byte} {count : Nat}
    (hgood : ∀ i, i < count → d.descFault form (descAt l i) = none) (k : Pend) (first : Nat) :
    d.createDescs k first form (descArray l count)
      = (d.withDescs ((List.range count).foldl (fun t i => put t (first + i) (descEntry form (descAt l i))) d.descs)).okCmd k := by
  unfold Dev.createDescs
  rw [span_zip_descArray]
  dsimp only
  rw [List.findSome?_map, List.foldl_map]
  have hnone : (List.range count).findSome? ((fun e : Nat × Desc =>
      (if form then forerunnerFault e.2 else d.nativeFault e.2).map fun f => (e.1, f)) ∘ fun i => (first + i, descAt l i)) = none := by
    rw [List.findSome?_eq_none_iff]
    intro i hi
    exact congrArg (Option.map _) (hgood i (List.mem_range.mp hi))
  rw [hnone]
  rfl

/-- The first descriptor that is not valid, at index `first + i`, fails the command. -/
theorem Dev.createDescs_fails {d : Dev} {form : Bool} {l : List Byte} {count i : Nat} {f : DescFault} (hi : i < count)
    (hgood : ∀ j, j < i → d.descFault form (descAt l j) = none) (hbad : d.descFault form (descAt l i) = some f) (k : Pend) (first : Nat) :
    d.createDescs k first form (descArray l count)
      = d.failCmd k f.1 none (((first + i : Nat) : Int) :: f.2) (BitVec.ofNat 32 (first + i)) := by
  unfold Dev.createDescs
  rw [span_zip_descArray]
  dsimp only
  rw [List.findSome?_map]
  have hsome : (List.range count).findSome? ((fun e : Nat × Desc =>
      (if form then forerunnerFault e.2 else d.nativeFault e.2).map fun f => (e.1, f)) ∘ fun i => (first + i, descAt l i))
        = some (first + i, f) := by
    obtain ⟨m, rfl⟩ := Nat.exists_eq_add_of_lt hi
    rw [range_eq_append_cons, List.findSome?_eq_some_iff]
    exact ⟨_, i, _, rfl, congrArg (Option.map _) hbad, fun j hj => congrArg (Option.map _) (hgood j (List.mem_range.mp hj))⟩
  rw [hsome]

section
variable {c : Ici} {s : State} {l : List Byte} (h : performs 0x0201 c (inSpools (pay c.p 0 8) && pay c.p 10 2 != 0) s)
  (hcount : pay c.p 10 2 ≤ 256) (hread : readable s (s.dev.takeAccepted 0x0201 c) (pay c.p 0 8) (64 * pay c.p 10 2) 64 l)
  (hrange : pay c.p 8 2 + pay c.p 10 2 ≤ 32768)
  (hfree : ∀ i, pay c.p 8 2 ≤ i → i < pay c.p 8 2 + pay c.p 10 2 → has s.dev.descs i = false)
include h hcount hread hrange hfree

/-- With its fields in range and its indices free, the command takes its array. -/
theorem exec_descCreate : exec (.descCreate c) s = .next (s.setDev
    ((s.dev.takeAccepted 0x0201 c).createDescs (Ici.pend 0x0201 c) (pay c.p 8 2) (bitOf c.p 96) (descArray l (pay c.p 10 2)))) := by
  have hnone : (span (pay c.p 8 2) (pay c.p 10 2)).find? (fun i => tableSize ≤ i || has (s.performing 0x0201 c).dev.descs i) = none := by
    rw [List.find?_eq_none]
    intro i hi
    obtain ⟨hlo, hhi⟩ := mem_span.mp hi
    have hhas : has (s.performing 0x0201 c).dev.descs i = false := hfree i hlo hhi
    rw [hhas, Bool.or_false, decide_eq_true_eq, tableSize]
    omega
  have hread' : readable s (s.performing 0x0201 c).dev (pay c.p 0 8) (64 * pay c.p 10 2) 64 l := hread
  refine (ici_performs h fun k b => b.descCreate k c.p).trans (congrArg (fun b => (.next (s.setBox b) : Res)) ?_)
  change (s.performing 0x0201 c).descCreate (Ici.pend 0x0201 c) c.p = _
  unfold Box.descCreate
  rw [Box.fields_pass (List.forall_mem_singleton.mpr (decide_eq_true hcount)), Box.withAddr_readable hread', hnone]
  dsimp only
  rw [Box.withData_readable (b := s.performing 0x0201 c) hread' rfl]
  rfl

theorem descCreate_answers :
    let d := s.dev.takeAccepted 0x0201 c
    let form := bitOf c.p 96
    let first := pay c.p 8 2
    let count := pay c.p 10 2
    ((∀ i, i < count → d.descFault form (descAt l i) = none) →
      ∃ t, exec (.descCreate c) s = .next t ∧ sameStore s t ∧ succeeds 0x0201 c s t
        ∧ t.dev = { s.dev with queues := t.dev.queues, descs := t.dev.descs }
        ∧ (∀ i, i < count → get? t.dev.descs (first + i) = some (descEntry form (descAt l i)))
        ∧ ∀ i, i < first ∨ first + count ≤ i → get? t.dev.descs i = get? s.dev.descs i)
    ∧ (∀ i f, i < count → (∀ j, j < i → d.descFault form (descAt l j) = none) → d.descFault form (descAt l i) = some f →
      ∃ t, exec (.descCreate c) s = .next t ∧ sameStore s t ∧ t.dev.descs = s.dev.descs
        ∧ answers 0x0201 c 1 f.1 (BitVec.ofNat 32 (first + i)) 0 s t ∧ recorded f.1 none (((first + i : Nat) : Int) :: f.2) s t) := by
  intro d form first count
  have hrun := exec_descCreate h hcount hread hrange hfree
  refine ⟨fun hgood => ?_, fun i f hi hgood hbad => ?_⟩
  · rw [Dev.createDescs_succeeds hgood] at hrun
    obtain ⟨hstore, hok, hdev, hdescs⟩ := okCmd_descs h
      ((List.range count).foldl (fun t i => put t (first + i) (descEntry form (descAt l i))) d.descs)
    refine ⟨_, hrun, hstore, hok, hdev, fun i hi => ?_, fun i hi => ?_⟩
    · rw [hdescs]
      exact get?_foldl_put_of_mem (key := (first + ·)) (span_nodup first count) (List.mem_range.mpr hi) d.descs
    · rw [hdescs]
      refine get?_foldl_put_of_not_mem (key := (first + ·)) (fun hmem => ?_) d.descs
      obtain ⟨hlo, hhi⟩ := mem_span.mp hmem
      omega
  · rw [Dev.createDescs_fails hi hgood hbad] at hrun
    obtain ⟨hstore, hdescs, -, hanswers, hrecorded⟩ :=
      failCmd_answers h f.1 (((first + i : Nat) : Int) :: f.2) (BitVec.ofNat 32 (first + i))
    exact ⟨_, hrun, hstore, hdescs, hanswers, hrecorded⟩

end

/-! ### DESC_DESTROY (07 R208) -/

/-- The end of the one command that is open. -/
theorem Dev.endOpens_single {d : Dev} {o : OpenCmd} (hopens : d.opens = [o]) {p : OpenCmd → Bool} (hp : p o = true) (st ev : Nat) :
    d.endOpens p st ev = ({ d with opens := [] } : Dev).complete o.cmd st ev := by
  unfold Dev.endOpens
  simp [hopens, hp]

/-- With nothing launched, the entries that one command destroys become empty at once. -/
theorem Dev.settleDying_idle {d : Dev} {k : Pend} {first count : Nat} {l : List Nat} (hacts : d.allActs = []) (hdying : d.dying = [])
    (hopens : d.opens = []) (hl : ∀ i, first ≤ i → i < first + count → has d.descs i = true → i ∈ l) :
    ({ d with dying := l, opens := [⟨k, .destroy first count⟩] } : Dev).settleDying
      = (d.withDescs (d.descs.filter fun e => !l.contains e.1)).okCmd k := by
  have hall : (span first count).all (fun i => !has (d.descs.filter fun e => !l.contains e.1) i) = true := by
    rw [List.all_eq_true]
    intro i hi
    obtain ⟨hlo, hhi⟩ := mem_span.mp hi
    rw [has, get?_filter_key d.descs (fun n => !l.contains n)]
    by_cases hmem : i ∈ l
    · simp [hmem]
    · have hhas : ¬has d.descs i = true := fun hhas => hmem (hl i hlo hhi hhas)
      simpa [hmem, has] using hhas
  have hrest : ({ d with descs := d.descs.filter (fun e => !l.contains e.1), dying := [], opens := [] } : Dev)
      = d.withDescs (d.descs.filter fun e => !l.contains e.1) :=
    congrArg₂ (fun x y => ({ d with descs := d.descs.filter (fun e => !l.contains e.1), dying := x, opens := y } : Dev)) hdying.symm hopens.symm
  have hnothing : (([] : List Nat).contains) = fun _ => false := rfl
  have hacts' : ({ d with dying := l, opens := [⟨k, .destroy first count⟩] } : Dev).allActs = [] := hacts
  unfold Dev.settleDying
  rw [hacts', List.isEmpty_cons, Bool.and_false, if_neg Bool.false_ne_true, List.flatMap_nil]
  dsimp only
  rw [hnothing]
  simp only [Bool.not_false, List.filter_true, List.filter_false]
  rw [Dev.okCmd, ← hrest]
  refine Dev.endOpens_single (o := ⟨k, .destroy first count⟩) rfl ?_ 0 0
  exact hall

/-- The filled entries of a range, which DESC_DESTROY makes empty. -/
def Dev.filledIn (d : Dev) (first count : Nat) : List Nat := ((span first count).filter fun i => has d.descs i).foldl addSet []

theorem Dev.mem_filledIn {d : Dev} {first count i : Nat} :
    i ∈ d.filledIn first count ↔ (first ≤ i ∧ i < first + count) ∧ has d.descs i = true := by
  simp [Dev.filledIn, mem_foldl_addSet, mem_span]

/-- The descriptor table without the entries of a range. -/
theorem Dev.get?_without_filledIn (d : Dev) (first count i : Nat) :
    get? (d.descs.filter fun e => !(d.filledIn first count).contains e.1) i
      = if first ≤ i ∧ i < first + count then none else get? d.descs i := by
  rw [get?_filter_key d.descs (fun n => !(d.filledIn first count).contains n)]
  have hmem := d.mem_filledIn (first := first) (count := count) (i := i)
  by_cases hi : first ≤ i ∧ i < first + count
  · rw [if_pos hi]
    cases hget : get? d.descs i with
    | none => split <;> rfl
    | some e => simp [hmem, hi, has, hget]
  · rw [if_neg hi]
    simp [hmem, hi]

/-- A range that nothing names, with nothing launched and no other command open: its entries become empty at once. -/
theorem Box.descDestroy_idle {b : Box} {k : Pend} {p : BitVec 384} (hrange : pay p 0 2 + pay p 2 2 ≤ 32768)
    (hunused : ∀ i, pay p 0 2 ≤ i → i < pay p 0 2 + pay p 2 2 → b.dev.descUser i = none) (hacts : b.dev.allActs = [])
    (hdying : b.dev.dying = []) (hopens : b.dev.opens = []) :
    b.descDestroy k p = b.onD fun d =>
      (d.withDescs (d.descs.filter fun e => !(d.filledIn (pay p 0 2) (pay p 2 2)).contains e.1)).okCmd k := by
  have hnone : (span (pay p 0 2) (pay p 2 2)).findSome? (fun i => (b.dev.descUser i).map fun u => (i, u)) = none := by
    rw [List.findSome?_eq_none_iff]
    intro i hi
    obtain ⟨hlo, hhi⟩ := mem_span.mp hi
    rw [hunused i hlo hhi]
    rfl
  unfold Box.descDestroy
  rw [Box.fields_pass (List.forall_mem_singleton.mpr (decide_eq_true (by rw [tableSize]; omega)))]
  unfold Box.onD
  simp only [hnone, hdying, hopens, List.nil_append]
  rw [← Dev.settleDying_idle (k := k) hacts hdying hopens fun i hlo hhi hhas => Dev.mem_filledIn.mpr ⟨⟨hlo, hhi⟩, hhas⟩]
  rfl

theorem execDescDestroy_answers {c : Ici} {s : State} (h : performs 0x0202 c false s) (hrange : pay c.p 0 2 + pay c.p 2 2 ≤ 32768)
    (hunused : ∀ i, pay c.p 0 2 ≤ i → i < pay c.p 0 2 + pay c.p 2 2 → s.dev.descUser i = none) (hacts : s.dev.allActs = [])
    (hdying : s.dev.dying = []) (hopens : s.dev.opens = []) :
    let first := pay c.p 0 2
    let count := pay c.p 2 2
    ∃ t, exec (.descDestroy c) s = .next t ∧ sameStore s t ∧ succeeds 0x0202 c s t
      ∧ t.dev = { s.dev with queues := t.dev.queues, descs := t.dev.descs }
      ∧ (∀ i, first ≤ i → i < first + count → get? t.dev.descs i = none)
      ∧ ∀ i, i < first ∨ first + count ≤ i → get? t.dev.descs i = get? s.dev.descs i := by
  intro first count
  have hrun : exec (.descDestroy c) s = .next (s.setBox ((s.performing 0x0202 c).descDestroy (Ici.pend 0x0202 c) c.p)) :=
    ici_performs h fun k b => b.descDestroy k c.p
  rw [Box.descDestroy_idle (b := s.performing 0x0202 c) hrange hunused hacts hdying hopens] at hrun
  obtain ⟨hstore, hok, hdev, hdescs⟩ := okCmd_descs h (s.dev.descs.filter fun e => !(s.dev.filledIn first count).contains e.1)
  have hget := fun i => (congrArg (get? · i) hdescs).trans (s.dev.get?_without_filledIn first count i)
  exact ⟨_, hrun, hstore, hok, hdev, fun i hlo hhi => (hget i).trans (if_pos ⟨hlo, hhi⟩),
    fun i hi => (hget i).trans (if_neg (by omega))⟩

/-! ### PAIR_CREATE (07 R215, R217) -/

theorem Dev.native_of_get? {d : Dev} {i : Nat} {x : Desc} (h : get? d.descs i = some (.native x)) : d.native i = some x := by
  unfold Dev.native
  rw [h]

theorem execPairCreate_answers {c : Ici} {s : State} (h : performs 0x0204 c false s) {x y : Desc} (hi : pay c.p 0 2 < 32768)
    (hsi : pay c.p 2 2 < 32768) (hdi : pay c.p 4 2 < 32768) (hfree : has s.dev.descs (pay c.p 0 2) = false)
    (hx : get? s.dev.descs (pay c.p 2 2) = some (.native x)) (hy : get? s.dev.descs (pay c.p 4 2) = some (.native y))
    (hrules : ∀ b ∈ pairRules x y (payBits c.p 6 0 18), b = true) (hoverlap : overlapBytes x y ≤ 4194304) :
    ∃ t, exec (.pairCreate c) s = .next t ∧ sameStore s t ∧ succeeds 0x0204 c s t
      ∧ t.dev = { s.dev with queues := t.dev.queues, descs := t.dev.descs }
      ∧ get? t.dev.descs (pay c.p 0 2) = some (.pair (BitVec.ofNat 128 (fld c.p 0 128)))
      ∧ ∀ j, j ≠ pay c.p 0 2 → get? t.dev.descs j = get? s.dev.descs j := by
  have hrun : exec (.pairCreate c) s
      = .next (s.setDev ((s.dev.takeAccepted 0x0204 c).pairCreate (Ici.pend 0x0204 c) c.p)) := ici_performs h _
  have hfields : firstField [(decide (pay c.p 0 2 < tableSize), 0), (decide (pay c.p 2 2 < tableSize), 2),
      (decide (pay c.p 4 2 < tableSize), 4)] = none := by
    simp [firstField_eq_none, tableSize, hi, hsi, hdi]
  have hnone : ((List.range 5).zip (pairRules x y (payBits c.p 6 0 18))).find? (fun x => !x.2) = none := by
    rw [List.find?_eq_none]
    intro e he
    simp [hrules e.2 (List.of_mem_zip he).2]
  have hfree' : has (s.dev.takeAccepted 0x0204 c).descs (pay c.p 0 2) = false := hfree
  have hx' : (s.dev.takeAccepted 0x0204 c).native (pay c.p 2 2) = some x := Dev.native_of_get? hx
  have hy' : (s.dev.takeAccepted 0x0204 c).native (pay c.p 4 2) = some y := Dev.native_of_get? hy
  have hpair : (s.dev.takeAccepted 0x0204 c).pairCreate (Ici.pend 0x0204 c) c.p
      = ((s.dev.takeAccepted 0x0204 c).withDescs
          (put s.dev.descs (pay c.p 0 2) (.pair (BitVec.ofNat 128 (fld c.p 0 128))))).okCmd (Ici.pend 0x0204 c) := by
    unfold Dev.pairCreate
    simp only [hfields, hfree', hx', hy', hnone, if_neg (Nat.not_lt.mpr hoverlap), Bool.false_eq_true, if_false]
    rfl
  rw [hpair] at hrun
  obtain ⟨hstore, hok, hdev, hdescs⟩ := okCmd_descs h (put s.dev.descs (pay c.p 0 2) (.pair (BitVec.ofNat 128 (fld c.p 0 128))))
  refine ⟨_, hrun, hstore, hok, hdev, ?_, fun j hj => ?_⟩
  · rw [hdescs, get?_put_same]
  · rw [hdescs, get?_put_ne _ _ hj]

/-! ### COMPAT_MAP, COMPAT_UNMAP (07 R226) -/

/-- The address of the 2 MiB that COMPAT_MAP gives to page `q`. -/
def compatTarget (p : BitVec 384) (q : Nat) : Nat := pay p 8 8 + (q - pay p 0 4) * unit2M

/-- A range of pages below 524,288, each of which may stand at its place. -/
theorem Dev.compatMap_placed {d : Dev} {k : Pend} {p : BitVec 384} (halign : pay p 8 8 % unit2M = 0)
    (hrange : pay p 0 4 + pay p 4 4 ≤ compatPages) (hplaced : ∀ q, pay p 0 4 ≤ q → q < pay p 0 4 + pay p 4 4 →
      d.placed (compatTarget p q) (compatTarget p q + unit2M - 1) (bitOf p 129) = true) :
    d.compatMap k p = (d.withCompat ((span (pay p 0 4) (pay p 4 4)).foldl
      (fun t q => put t q ⟨compatTarget p q, bitOf p 128, bitOf p 129⟩) d.compat)).okCmd k := by
  have hcount : min (pay p 4 4) (compatPages - pay p 0 4) = pay p 4 4 := Nat.min_eq_left (Nat.le_sub_of_add_le' hrange)
  have hnone : (span (pay p 0 4) (pay p 4 4)).find?
      (fun q => !d.placed (compatTarget p q) (compatTarget p q + unit2M - 1) (bitOf p 129)) = none := by
    rw [List.find?_eq_none]
    intro q hq
    obtain ⟨hlo, hhi⟩ := mem_span.mp hq
    simp [hplaced q hlo hhi]
  unfold compatTarget at hnone ⊢
  unfold Dev.compatMap
  dsimp only
  rw [if_neg (not_not.mpr halign), hcount, hnone, if_neg fun hout => absurd hout.1 (Nat.not_lt.mpr hrange)]
  rfl

theorem execCompatMap_answers {c : Ici} {s : State} (h : performs 0x0205 c false s) (halign : pay c.p 8 8 % 2097152 = 0)
    (hrange : pay c.p 0 4 + pay c.p 4 4 ≤ 524288) :
    let d := s.dev.takeAccepted 0x0205 c
    let first := pay c.p 0 4
    let count := pay c.p 4 4
    let at' := fun (q : Nat) => pay c.p 8 8 + (q - first) * 2097152
    (∀ q, first ≤ q → q < first + count → d.placed (at' q) (at' q + 2097152 - 1) (bitOf c.p 129) = true) →
    ∃ t, exec (.compatMap c) s = .next t ∧ sameStore s t ∧ succeeds 0x0205 c s t
      ∧ t.dev = { s.dev with queues := t.dev.queues, compat := t.dev.compat }
      ∧ (∀ q, first ≤ q → q < first + count → get? t.dev.compat q = some ⟨at' q, bitOf c.p 128, bitOf c.p 129⟩)
      ∧ ∀ q, q < first ∨ first + count ≤ q → get? t.dev.compat q = get? s.dev.compat q := by
  intro d first count at' hplaced
  have hrun : exec (.compatMap c) s = .next (s.setDev (d.compatMap (Ici.pend 0x0205 c) c.p)) := ici_performs h _
  rw [Dev.compatMap_placed halign hrange hplaced] at hrun
  obtain ⟨hstore, hok, hdev, hcompat⟩ := okCmd_compat h ((span first count).foldl
    (fun t q => put t q ⟨compatTarget c.p q, bitOf c.p 128, bitOf c.p 129⟩) s.dev.compat)
  have hkeys : (span first count).map id = span first count := List.map_id _
  refine ⟨_, hrun, hstore, hok, hdev, fun q hlo hhi => (congrArg (get? · q) hcompat).trans ?_,
    fun q hq => (congrArg (get? · q) hcompat).trans ?_⟩
  · exact get?_foldl_put_of_mem (key := id) (hkeys.symm ▸ span_nodup first count) (mem_span.mpr ⟨hlo, hhi⟩) s.dev.compat
  · refine get?_foldl_put_of_not_mem (key := id) (fun hmem => ?_) s.dev.compat
    rw [hkeys, mem_span] at hmem
    omega

/-- The checks of COMPAT_UNMAP's fields. -/
def compatUnmapChecks (p : BitVec 384) : List (Bool × Nat) :=
  [(decide (pay p 0 4 < compatPages), 0), (decide (pay p 0 4 + pay p 4 4 ≤ compatPages), 4)]

section
variable {c : Ici} {s : State} (h : performs 0x0206 c false s)
include h

theorem exec_compatUnmap : exec (.compatUnmap c) s = .next (s.setDev (match firstField (compatUnmapChecks c.p) with
    | some byte => (s.dev.takeAccepted 0x0206 c).badField (Ici.pend 0x0206 c) none byte
    | none => ((s.dev.takeAccepted 0x0206 c).withCompat
        (s.dev.compat.filter fun e => !(pay c.p 0 4 ≤ e.1 && e.1 < pay c.p 0 4 + pay c.p 4 4))).okCmd (Ici.pend 0x0206 c))) :=
  ici_performs h _

theorem execCompatUnmap_removes (hfirst : pay c.p 0 4 < 524288) (hrange : pay c.p 0 4 + pay c.p 4 4 ≤ 524288) :
    let first := pay c.p 0 4
    let count := pay c.p 4 4
    ∃ t, exec (.compatUnmap c) s = .next t ∧ sameStore s t ∧ succeeds 0x0206 c s t
      ∧ t.dev = { s.dev with queues := t.dev.queues, compat := t.dev.compat }
      ∧ (∀ q, first ≤ q → q < first + count → get? t.dev.compat q = none)
      ∧ ∀ q, q < first ∨ first + count ≤ q → get? t.dev.compat q = get? s.dev.compat q := by
  intro first count
  have hrun := exec_compatUnmap h
  have hpass : firstField (compatUnmapChecks c.p) = none := by
    simp [firstField_eq_none, compatUnmapChecks, compatPages, hfirst, hrange]
  rw [hpass] at hrun
  obtain ⟨hstore, hok, hdev, hcompat⟩ := okCmd_compat h (s.dev.compat.filter fun e => !(first ≤ e.1 && e.1 < first + count))
  have hget := fun q => (congrArg (get? · q) hcompat).trans
    (get?_filter_key s.dev.compat (fun n => !(first ≤ n && n < first + count)) q)
  exact ⟨_, hrun, hstore, hok, hdev, fun q hlo hhi => (hget q).trans (if_neg (by simp [hlo, hhi])),
    fun q hq => (hget q).trans (if_pos (by simp; omega))⟩

theorem execCompatUnmap_fails (hout : 524288 ≤ pay c.p 0 4 ∨ 524288 < pay c.p 0 4 + pay c.p 4 4) :
    ∃ t, exec (.compatUnmap c) s = .next t ∧ sameStore s t ∧ t.dev.compat = s.dev.compat ∧ answers 0x0206 c 1 0x2011 0 0 s t := by
  have hrun := exec_compatUnmap h
  cases hfield : firstField (compatUnmapChecks c.p) with
  | none =>
    have hpass := firstField_eq_none.mp hfield
    have hfirst : pay c.p 0 4 < 524288 := of_decide_eq_true (hpass _ List.mem_cons_self)
    have hrange : pay c.p 0 4 + pay c.p 4 4 ≤ 524288 := of_decide_eq_true (hpass _ (List.mem_cons_of_mem _ List.mem_cons_self))
    omega
  | some byte =>
    have hbad : (s.dev.takeAccepted 0x0206 c).badField (Ici.pend 0x0206 c) none byte
        = (s.dev.takeAccepted 0x0206 c).failCmd (Ici.pend 0x0206 c) 0x2011 none [0x0206, byte] := by
      simp [Dev.badField, groupEvent, Ici.pend]
    rw [hfield] at hrun
    dsimp only at hrun
    rw [hbad] at hrun
    obtain ⟨hstore, -, hcompat, hanswers, -⟩ := failCmd_answers h 0x2011 [0x0206, byte] 0
    exact ⟨_, hrun, hstore, hcompat, hanswers⟩

end

/-- Settles O55, one lemma for each command. -/
theorem descriptorCommandsAct : Obligations.DescriptorCommandsAct := by
  unfold Obligations.DescriptorCommandsAct
  intro c s
  refine ⟨fun h l hcount hread hrange hfree => descCreate_answers h hcount hread hrange hfree,
    fun h hrange hunused hacts hdying hopens => execDescDestroy_answers h hrange hunused hacts hdying hopens,
    fun h x y hi hsi hdi hfree hx hy hrules hoverlap => execPairCreate_answers h hi hsi hdi hfree hx hy hrules hoverlap,
    fun h halign hrange => execCompatMap_answers h halign hrange, fun h =>
      ⟨fun hfirst hrange => execCompatUnmap_removes h hfirst hrange, fun hout => execCompatUnmap_fails h hout⟩⟩

end Sys2Proof.Machine

/-! SUPPORT. What a context's stop and a cluster's retirement leave as they are: the records of the tests and the mode of the
device (05 R174; 15 R444 to R447; 17 R523). -/

namespace Sys2Proof.Machine

/-- The same records of tests and the same mode. -/
structure Dev.TestsKept (d e : Dev) : Prop where
  tests : e.tests = d.tests
  bare : e.bare = d.bare

namespace Dev.TestsKept

theorem refl (d : Dev) : d.TestsKept d := ⟨rfl, rfl⟩

theorem trans {d e f : Dev} (h : d.TestsKept e) (h' : e.TestsKept f) : d.TestsKept f :=
  ⟨h'.tests.trans h.tests, h'.bare.trans h.bare⟩

/-- The same, with the later change first. -/
theorem after {d e f : Dev} (h' : e.TestsKept f) (h : d.TestsKept e) : d.TestsKept f := h.trans h'

theorem foldl {α : Type} {f : Dev → α → Dev} (h : ∀ (d : Dev) (a : α), d.TestsKept (f d a)) (l : List α) (d : Dev) :
    d.TestsKept (l.foldl f d) :=
  List.foldlRecOn l f (motive := d.TestsKept) (refl d) fun e he a _ => he.trans (h e a)

theorem foldlBox {α : Type} {f : Box → α → Box} (h : ∀ (b : Box) (a : α), b.dev.TestsKept (f b a).dev) (l : List α) (b : Box) :
    b.dev.TestsKept (l.foldl f b).dev :=
  List.foldlRecOn l f (motive := fun e => b.dev.TestsKept e.dev) (refl b.dev) fun e he a _ => he.trans (h e a)

theorem raise (d : Dev) (code die : Nat) (fw : Bool) (ctx : Option Nat) (l : List Int) : d.TestsKept (d.raise code die fw ctx l) :=
  ⟨Dev.raise_tests .., Dev.raise_bare_of ..⟩

theorem complete (d : Dev) (k : Pend) (status event : Nat) (detail : W32) (result : W64) :
    d.TestsKept (d.complete k status event detail result) := ⟨Dev.complete_tests .., Dev.complete_bare_of ..⟩

theorem endOpens (d : Dev) (p : OpenCmd → Bool) (status event : Nat) (detail : W32) (result : W64) :
    d.TestsKept (d.endOpens p status event detail result) :=
  after (foldl (fun d (o : OpenCmd) => complete d o.cmd status event detail result) _ _) ⟨rfl, rfl⟩

theorem abandonBaste (d : Dev) (id reason : Nat) : d.TestsKept (d.abandonBaste id reason) := by
  unfold Dev.abandonBaste
  dsimp only
  exact after (endOpens ..) (after (raise ..) ⟨rfl, rfl⟩)

/-! ### Writes of device memory, and collectives that fail -/

theorem copyGranule (b : Box) (g : Nat) : b.dev.TestsKept (b.copyGranule g).dev := by
  unfold Box.copyGranule
  split
  · exact refl _
  · split
    · exact abandonBaste ..
    · exact ⟨rfl, rfl⟩

theorem wrDev (b : Box) (a : Nat) (l : List PB) : b.dev.TestsKept (b.wrDev a l).dev :=
  trans (foldlBox copyGranule (granulesOf a l.length) b) ⟨rfl, rfl⟩

theorem undefEls (b : Box) (t : Desc) (first len : Nat) : b.dev.TestsKept (b.undefEls t first len).dev := by
  unfold Box.undefEls
  split
  · exact foldlBox (fun b (r : Nat × List PB) => wrDev b r.1 r.2) _ b
  · exact refl _

theorem linksOnly {d e : Dev} (h : d.linksOnly e) : d.TestsKept e := by
  obtain ⟨_, _, _, rfl, -⟩ := h
  exact ⟨rfl, rfl⟩

theorem sendCtrl (d : Dev) (dst plan inst kind status slip : Nat) : d.TestsKept (d.sendCtrl dst plan inst kind status slip) := by
  unfold Dev.sendCtrl Dev.sendRouted
  split
  · exact refl d
  · split
    · exact linksOnly (d.linksOnly_handPacket _ _)
    · exact after (raise ..) ⟨rfl, rfl⟩

theorem failColl (b : Box) (i : CollInst) (status reporter : Nat) (abort : Bool) :
    b.dev.TestsKept (b.failColl i status reporter abort).dev := by
  have htold : ∀ (l : List Nat) (f : Nat → Nat), b.dev.TestsKept
      (if abort then l.foldl (fun d m => d.sendCtrl (f m) i.plan i.inst 3 status 0) b.dev else b.dev) := by
    intro l f
    split
    · exact foldl (fun d m => sendCtrl d (f m) i.plan i.inst 3 status 0) l b.dev
    · exact refl _
  unfold Box.failColl
  dsimp only
  split
  · refine trans ?_ (undefEls ..)
    exact trans (htold _ _) (trans (raise ..) ⟨rfl, rfl⟩)
  · exact trans (htold _ _) (trans (raise ..) ⟨rfl, rfl⟩)

theorem failColls (b : Box) (ctx status : Nat) : b.dev.TestsKept (b.failColls ctx status).dev :=
  foldlBox (fun b i => failColl b i status (getD b.dev.fab.plans i.plan ⟨0, 0, [], 0⟩).self true) _ b

/-! ### The end of a run -/

theorem setSt (d : Dev) (n : Nat) (st : CtxState) (opc : Nat) : d.TestsKept (d.setSt n st opc) := by
  have hraised : ∀ slots, d.TestsKept (if (d.updCtx n fun c => { c with st := st }).bare then d.updCtx n fun c => { c with st := st }
      else (d.updCtx n fun c => { c with st := st }).evFw 0x0002 (some n) slots) := by
    intro slots
    split
    · exact ⟨rfl, rfl⟩
    · exact after (raise ..) ⟨rfl, rfl⟩
  unfold Dev.setSt
  dsimp only
  split
  · exact refl d
  · split
    · exact trans (hraised _) (foldl (fun d i => abandonBaste d i 1) _ _)
    · exact hraised _

theorem summary (d : Dev) (n code : Nat) (k : CountKind) (len : Nat) : d.TestsKept (d.summary n code k len) := by
  unfold Dev.summary
  dsimp only
  split
  · exact refl d
  · exact raise ..

theorem summaries (d : Dev) (n : Nat) : d.TestsKept (d.summaries n) := by
  have hchalk : ∀ d : Dev, d.TestsKept (d.chalkSummary n) := fun d => foldl (fun d _ => raise d ..) _ d
  have hupd : ∀ (d : Dev) (f : Ctx → Ctx), d.TestsKept (d.updCtx n f) := fun _ _ => ⟨rfl, rfl⟩
  unfold Dev.summaries
  dsimp only
  refine trans (trans (trans ?_ (summary ..)) (summary ..)) (hupd _ _)
  exact trans (trans (trans (summary ..) (summary ..)) (summary ..)) (hchalk _)

theorem note (d : Dev) (n : Nat) (how : Ending) : d.TestsKept (d.note n how) := by
  cases how with
  | aborted => exact refl d
  | _ => exact raise ..

theorem endHandles (d : Dev) (ctx : Nat) : d.TestsKept (d.endHandles ctx) := by
  refine trans (foldl (fun d (x : Nat × Nat) => ?_) _ d) ⟨rfl, rfl⟩
  unfold Dev.dropHandle
  split
  · exact refl d
  · dsimp only
    split
    · exact after (foldl (fun d (m : Nat) => show d.TestsKept (d.updSpool m _) from ⟨rfl, rfl⟩) _ _) ⟨rfl, rfl⟩
    · exact ⟨rfl, rfl⟩

theorem idleIfLast (d : Dev) : d.TestsKept d.idleIfLast := by
  unfold Dev.idleIfLast
  split
  · exact refl d
  · dsimp only
    generalize (if d.vcoreHeld = true then d.pace.vcore else 650) = v
    split
    · exact ⟨rfl, rfl⟩
    · exact after (raise ..) ⟨rfl, rfl⟩

theorem finishRun (d : Dev) (n : Nat) (how : Ending) (opc : Nat) : d.TestsKept (d.finishRun n how opc) := by
  have hunbind : ∀ d : Dev, d.TestsKept (d.unbind n) := fun _ => ⟨rfl, rfl⟩
  have hset : ∀ (d : Dev) (c : Ctx), d.TestsKept (d.setCtx n c) := fun _ _ => ⟨rfl, rfl⟩
  have hbefore : d.TestsKept (d.beforeEnd n how opc) :=
    trans (trans (trans (trans (summaries d n) (note ..)) (endHandles ..)) (hunbind _)) (setSt ..)
  have hend : d.TestsKept (d.atEnd n how opc) := trans (trans hbefore (hset _ _)) (idleIfLast _)
  rw [Dev.finishRun_eq]
  refine trans hend (after (foldl (fun d k => complete d k 0 0 0 0) _ _) ?_)
  split
  · exact complete ..
  · exact refl _

theorem boxFinishRun (b : Box) (n : Nat) (how : Ending) (opc : Nat) : b.dev.TestsKept (b.finishRun n how opc).dev := by
  have hpower : ∀ (b : Box) (hs : List (Nat × Handle)), b.dev.TestsKept (b.losePower hs).dev := fun b hs =>
    foldlBox (fun b _ => foldlBox (fun b _ => by split <;> exact refl _) _ b) hs b
  exact trans (finishRun b.dev n how opc) (hpower (b.onD fun d => d.finishRun n how opc) _)

theorem settleDying (d : Dev) : d.TestsKept d.settleDying := by
  unfold Dev.settleDying
  split
  · exact refl d
  · exact after (endOpens ..) ⟨rfl, rfl⟩

/-! ### Clusters that retire -/

theorem refreshAdvice (d : Dev) : d.TestsKept d.refreshAdvice :=
  after (foldl (fun d _ => raise d ..) _ _) ⟨rfl, rfl⟩

theorem queueZeros (d : Dev) (ctx : Nat) (act : Option Act) (core : Nat) (h : Handle) : d.TestsKept (d.queueZeros ctx act core h) := by
  unfold Dev.queueZeros
  split
  · exact ⟨rfl, rfl⟩
  · exact refl d

theorem remap (b : Box) (r : RetireDue) (spare : Nat) : b.dev.TestsKept (b.remap r spare).dev := by
  unfold Box.remap
  dsimp only
  refine trans ?_ (foldl (fun d (h : Nat × Handle) => queueZeros d h.2.ctx none h.1 h.2) _ _)
  refine trans (trans ?_ (raise ..)) (refreshAdvice _)
  exact after (foldl (fun d _ => raise d ..) _ _) ⟨rfl, rfl⟩

theorem releaseHeld (d : Dev) : d.TestsKept d.releaseHeld := by
  refine foldl (fun d n => ?_) _ d
  split
  · split
    · exact refl d
    · exact ⟨rfl, rfl⟩
  · exact refl d

theorem tryRetire (b : Box) : b.dev.TestsKept b.tryRetire.dev := by
  have hremaps := foldlBox (fun b (r : RetireDue) => remap b r (r.spare.getD 0)) (b.dev.retireDue.filter b.dev.mayRemap) b
  unfold Box.tryRetire
  rw [Box.onD_dev]
  exact trans hremaps (releaseHeld _)

/-! ### Stops -/

theorem stopNow (b : Box) (n : Nat) (how : Ending) (opc : Nat) : b.dev.TestsKept (b.stopNow n how opc).dev := by
  have hstop := trans (setSt b.dev n .stopping opc) (failColls (b.onD fun d => d.setSt n .stopping opc) n 6)
  unfold Box.stopNow
  split
  · exact refl _
  · dsimp only
    generalize (b.onD fun d => d.setSt n .stopping opc).failColls n 6 = c at hstop ⊢
    have hdiscard : c.dev.TestsKept (c.dev.discard n) := ⟨rfl, rfl⟩
    have hrun := trans (trans hstop hdiscard) (boxFinishRun (c.onD fun d => d.discard n) n how opc)
    generalize (c.onD fun d => d.discard n).finishRun n how opc = f at hrun ⊢
    exact trans (trans hrun (settleDying f.dev)) (tryRetire (f.onD Dev.settleDying))

theorem stopAtBoundary (b : Box) (n : Nat) (fault : Option Nat) (opc : Nat) : b.dev.TestsKept (b.stopAtBoundary n fault opc).dev := by
  unfold Box.stopAtBoundary
  dsimp only
  split
  · exact refl _
  · split
    · exact stopNow ..
    · exact after (setSt ..) ⟨rfl, rfl⟩

theorem noSpare (b : Box) (r : RetireDue) : b.dev.TestsKept (b.noSpare r).dev := by
  have hdamage : ∀ (l : List Nat) (d : Dev), d.TestsKept (l.foldl (fun d _ => d.damage) d) := foldl fun _ _ => ⟨rfl, rfl⟩
  unfold Box.noSpare
  dsimp only [Box.onD]
  refine trans ?_ (foldlBox (fun b n => stopAtBoundary b n (some 0x7007) 0) _ _)
  dsimp only
  split
  · exact after (refreshAdvice _) (after (hdamage _ _) (after (raise ..) ⟨rfl, rfl⟩))
  · exact after (refreshAdvice _) (after (raise ..) (after (hdamage _ _) (after (raise ..) ⟨rfl, rfl⟩)))

theorem due (b : Box) (bolt k trigger : Nat) : b.dev.TestsKept (b.due bolt k trigger).dev := by
  unfold Box.due
  split
  · exact refl _
  · exact after (foldlBox noSpare _ _) ⟨rfl, rfl⟩

theorem disableEngine (d : Dev) (e : Engine) : d.TestsKept (d.disableEngine e) := by
  have hdisabled : ∀ (d : Dev) (sub : Nat), d.TestsKept (d.disabled e sub) := fun d _ => after (refreshAdvice _) (raise d ..)
  cases e with
  | arrayGroup | vector | hem => exact refl d
  | gme | press | serger | reduction => exact after (hdisabled _ _) ⟨rfl, rfl⟩

end Dev.TestsKept

end Sys2Proof.Machine

/-! SUPPORT. The commands that set what a context holds: Press slots and programs, layers of Chalk, sequence slots and stages (08 R265;
09 R292 to R295; 10 R313 to R318). -/

namespace Sys2Proof.Machine

open Sys2Proof.Safety

/-! ### Tables after many changes of entries -/

section
variable {α β : Type} {key : β → Nat} {f : β → α → α} {v : α}

theorem get?_foldl_upd_of_not_mem {n : Nat} {l : List β} (h : n ∉ l.map key) (t : Tbl α) :
    get? (l.foldl (fun t x => upd t (key x) v (f x)) t) n = get? t n := by
  induction l generalizing t with
  | nil => rfl
  | cons x l ih =>
    obtain ⟨hx, hl⟩ := not_or.mp (mt List.mem_cons.mpr h)
    rw [List.foldl_cons, ih hl, upd, get?_put_ne _ _ hx]

theorem getD_foldl_upd_of_mem {x : β} {l : List β} (hnodup : (l.map key).Nodup) (hx : x ∈ l) (t : Tbl α) :
    getD (l.foldl (fun t x => upd t (key x) v (f x)) t) (key x) v = f x (getD t (key x) v) := by
  induction l generalizing t with
  | nil => exact absurd hx List.not_mem_nil
  | cons y l ih =>
    obtain ⟨hy, hl⟩ := List.nodup_cons.mp hnodup
    rw [List.foldl_cons]
    rcases List.mem_cons.mp hx with rfl | hmem
    · rw [getD, get?_foldl_upd_of_not_mem hy, ← getD, upd, getD_put_same]
    · have hne : key x ≠ key y := fun heq => hy (heq ▸ List.mem_map_of_mem hmem)
      rw [ih hl hmem, upd, getD_put_ne _ _ _ hne]

end

/-! ### Performing a command that sets what a context holds -/

/-- The device with other sequence slots. -/
def Dev.withSeq (d : Dev) (x : SeqSt) : Dev := { d with seq := x }

section
variable {opc : Nat} {c : Ici} {needs : Bool} {s : State} (h : performs opc c needs s)
include h

/-- The next state of a command, from the box that it makes of the one it is performed on. -/
theorem ici_performing {f : Pend → Box → Box} {b : Box} (hb : f (Ici.pend opc c) (s.performing opc c) = b) :
    s.ici opc c needs f = .next (s.setBox b) := hb ▸ ici_performs h f

/-- A command with nothing to set succeeds and changes nothing else. -/
theorem ici_sets_none {f : Pend → Box → Box}
    (hf : f (Ici.pend opc c) (s.performing opc c) = (s.performing opc c).ok (Ici.pend opc c)) :
    ∃ t, s.ici opc c needs f = .next t ∧ sameStore s t ∧ onlyAnswered s t ∧ succeeds opc c s t :=
  ⟨_, ici_performing h hf, ok_unchanged h 0 0⟩

/-- A command that changes one context, and succeeds. -/
theorem ici_sets_ctx {f : Pend → Box → Box} {n : Nat} {g : Ctx → Ctx} (hf : f (Ici.pend opc c) (s.performing opc c)
      = (s.performing opc c).onD fun d => (d.updCtx n g).okCmd (Ici.pend opc c)) :
    ∃ t, s.ici opc c needs f = .next t ∧ sameStore s t ∧ succeeds opc c s t ∧ t.dev.ctx n = g (s.dev.ctx n) := by
  obtain ⟨hstore, hok, hdev⟩ := okCmd_answers h (d := (s.dev.takeAccepted opc c).updCtx n g) rfl rfl
  exact ⟨_, ici_performing h hf, hstore, hok, (congrArg (·.ctx n) hdev).trans (Dev.setCtx_ctx_same ..)⟩

/-- A success that changed the sequence slots. -/
theorem okCmd_seq (x : SeqSt) :
    let t := s.setDev (((s.dev.takeAccepted opc c).withSeq x).okCmd (Ici.pend opc c))
    sameStore s t ∧ succeeds opc c s t ∧ t.dev = { s.dev with queues := t.dev.queues, seq := t.dev.seq } ∧ t.dev.seq = x := by
  intro t
  obtain ⟨hstore, hok, hdev⟩ := okCmd_answers h (d := (s.dev.takeAccepted opc c).withSeq x) rfl rfl
  have hseq : t.dev.seq = x := congrArg Dev.seq hdev
  refine ⟨hstore, hok, ?_, hseq⟩
  rw [hseq]
  exact hdev

/-- A command that changes the sequence slots, and succeeds. -/
theorem ici_sets_seq {f : Pend → Box → Box} {x : SeqSt} (hf : f (Ici.pend opc c) (s.performing opc c)
      = (s.performing opc c).onD fun d => (d.withSeq x).okCmd (Ici.pend opc c)) :
    ∃ t, s.ici opc c needs f = .next t ∧ sameStore s t ∧ succeeds opc c s t
      ∧ t.dev = { s.dev with queues := t.dev.queues, seq := t.dev.seq } ∧ t.dev.seq = x :=
  ⟨_, ici_performing h hf, okCmd_seq h x⟩

end

/-- A LOADED or RUNNING context may be set. -/
theorem performing_settable {s : State} {n : Nat} (hst : (s.dev.ctx n).st = .loaded ∨ (s.dev.ctx n).st = .running) (opc : Nat) (c : Ici) :
    (s.performing opc c).dev.settable n = true := by
  change ((s.dev.ctx n).st == .loaded || (s.dev.ctx n).st == .running) = true
  rcases hst with hst | hst <;> rw [hst] <;> rfl

/-- Payload data that the command may read, and that is not poisoned. -/
theorem performing_reads {s : State} {opc : Nat} {c : Ici} {a n al : Nat} {l : List Byte}
    (hread : readable s (s.dev.takeAccepted opc c) a n al l) (k : Pend) (ctx : Option Nat) (byte : Nat) (f : List Byte → Box → Box) :
    ((s.performing opc c).withAddr k ctx byte a n al false fun b => b.withData k a n f) = f l (s.performing opc c) := by
  have hread' : readable s (s.performing opc c).dev a n al l := hread
  rw [Box.withAddr_readable hread', Box.withData_readable (b := s.performing opc c) hread' rfl]

/-! ### PRESS_SLOT_SET (09 R292, R295) -/

/-- Entries that begin at slot `first`. -/
def slotEntries (first cnt : Nat) (l : List Byte) : List (Nat × BitVec 512) := (List.range cnt).map fun i => (first + i, entry512 l i)

/-- A LOADED context takes the entries at once, and keeps P1 and P2. -/
theorem Ctx.setSlots_loaded {x : Ctx} (hst : x.st = .loaded) (first cnt : Nat) (l : List Byte) :
    let y := x.setSlots (slotEntries first cnt l)
    y = { x with slots := y.slots }
      ∧ (∀ i, i < cnt → getD y.slots (first + i) ⟨0, 0, 0⟩ = { getD x.slots (first + i) ⟨0, 0, 0⟩ with e := entry512 l i })
      ∧ ∀ i, i < first ∨ first + cnt ≤ i → get? y.slots i = get? x.slots i := by
  have hset : x.setSlots (slotEntries first cnt l) = { x with
      slots := (List.range cnt).foldl (fun t i => upd t (first + i) ⟨0, 0, 0⟩ fun o => o.place (entry512 l i) false) x.slots } := by
    unfold Ctx.setSlots slotEntries
    rw [if_neg (by rw [hst]; decide), List.foldl_map]
  rw [hset]
  refine ⟨rfl, fun i hi => getD_foldl_upd_of_mem (key := (first + ·)) (span_nodup first cnt) (List.mem_range.mpr hi) x.slots,
    fun i hi => get?_foldl_upd_of_not_mem (key := (first + ·)) (fun hmem => ?_) x.slots⟩
  have := mem_span.mp hmem
  omega

section
variable {c : Ici} {s : State} (h : performs 0x0A01 c (inSpools (pay c.p 8 8)) s)
include h

theorem pressSlotSet_none (hst : (s.dev.ctx (payBits c.p 0 0 3)).st = .loaded ∨ (s.dev.ctx (payBits c.p 0 0 3)).st = .running)
    (hfirst : pay c.p 1 1 ≤ 64) (hcnt : pay c.p 2 1 = 0) :
    ∃ t, exec (.pressSlotSet c) s = .next t ∧ sameStore s t ∧ onlyAnswered s t ∧ succeeds 0x0A01 c s t := by
  refine ici_sets_none h (f := fun k b => b.pressSlotSet k c.p) ?_
  unfold Box.pressSlotSet
  rw [Box.fields_pass (by simp [performing_settable hst, hfirst, hcnt])]
  exact if_pos hcnt

/-- Entries that pass their checks are set. -/
theorem pressSlotSet_sets {l : List Byte} (hst : (s.dev.ctx (payBits c.p 0 0 3)).st = .loaded ∨ (s.dev.ctx (payBits c.p 0 0 3)).st = .running)
    (hcnt : pay c.p 2 1 ≠ 0) (hrange : pay c.p 1 1 + pay c.p 2 1 ≤ 64)
    (hread : readable s (s.dev.takeAccepted 0x0A01 c) (pay c.p 8 8) (64 * pay c.p 2 1) 64 l)
    (hgood : ∀ i, i < pay c.p 2 1 → slotFault (entry512 l i) = none) :
    ∃ t, exec (.pressSlotSet c) s = .next t ∧ sameStore s t ∧ succeeds 0x0A01 c s t
      ∧ t.dev.ctx (payBits c.p 0 0 3) = (s.dev.ctx (payBits c.p 0 0 3)).setSlots (slotEntries (pay c.p 1 1) (pay c.p 2 1) l) := by
  have hnone : (slotEntries (pay c.p 1 1) (pay c.p 2 1) l).find? (fun e => (slotFault e.2).isSome) = none := by
    simp only [slotEntries, List.find?_eq_none, List.forall_mem_map, List.mem_range]
    intro i hi
    simp [hgood i hi]
  refine ici_sets_ctx h (f := fun k b => b.pressSlotSet k c.p) (g := fun x => x.setSlots (slotEntries (pay c.p 1 1) (pay c.p 2 1) l)) ?_
  have hmost : pay c.p 2 1 ≤ 64 := by omega
  unfold Box.pressSlotSet
  rw [Box.fields_pass (by simp [performing_settable hst, hmost, hrange]), if_neg hcnt, performing_reads hread]
  unfold slotEntries at hnone ⊢
  dsimp only
  rw [hnone]

theorem execPressSlotSet_answers {l : List Byte} (hcnt : pay c.p 2 1 ≠ 0) (hrange : pay c.p 1 1 + pay c.p 2 1 ≤ 64)
    (hread : readable s (s.dev.takeAccepted 0x0A01 c) (pay c.p 8 8) (64 * pay c.p 2 1) 64 l)
    (hgood : ∀ i, i < pay c.p 2 1 → slotFault (entry512 l i) = none) :
    let n := payBits c.p 0 0 3
    let first := pay c.p 1 1
    let cnt := pay c.p 2 1
    let x := s.dev.ctx n
    (x.st = .loaded → ∃ t, exec (.pressSlotSet c) s = .next t ∧ sameStore s t ∧ succeeds 0x0A01 c s t
      ∧ t.dev.ctx n = { x with slots := (t.dev.ctx n).slots }
      ∧ (∀ i, i < cnt → (getD (t.dev.ctx n).slots (first + i) ⟨0, 0, 0⟩) = { getD x.slots (first + i) ⟨0, 0, 0⟩ with e := entry512 l i })
      ∧ ∀ i, i < first ∨ first + cnt ≤ i → get? (t.dev.ctx n).slots i = get? x.slots i)
    ∧ (x.st = .running → ∃ t, exec (.pressSlotSet c) s = .next t ∧ sameStore s t ∧ succeeds 0x0A01 c s t
      ∧ t.dev.ctx n = { x with slotPend := x.slotPend ++ (List.range cnt).map fun i => (first + i, entry512 l i) }) := by
  intro n first cnt x
  refine ⟨fun hst => ?_, fun hst => ?_⟩
  · obtain ⟨t, hrun, hstore, hok, hctx⟩ := pressSlotSet_sets h (.inl hst) hcnt hrange hread hgood
    refine ⟨t, hrun, hstore, hok, ?_⟩
    rw [hctx]
    exact Ctx.setSlots_loaded hst first cnt l
  · obtain ⟨t, hrun, hstore, hok, hctx⟩ := pressSlotSet_sets h (.inr hst) hcnt hrange hread hgood
    exact ⟨t, hrun, hstore, hok, hctx.trans (if_pos hst)⟩

end

/-! ### PRESS_PROGRAM_SET (09 R293, R295) -/

section
variable {c : Ici} {s : State} (h : performs 0x0A02 c (inSpools (pay c.p 8 8)) s)
include h

theorem pressProgramSet_sets {l : List Byte}
    (hst : (s.dev.ctx (payBits c.p 0 0 3)).st = .loaded ∨ (s.dev.ctx (payBits c.p 0 0 3)).st = .running) (hi : pay c.p 1 1 ≤ 15)
    (hread : readable s (s.dev.takeAccepted 0x0A02 c) (pay c.p 8 8) 192 64 l)
    (hgood : progFault (BitVec.ofNat 1536 (leNat l)) = none) :
    ∃ t, exec (.pressProgramSet c) s = .next t ∧ sameStore s t ∧ succeeds 0x0A02 c s t
      ∧ t.dev.ctx (payBits c.p 0 0 3) = (s.dev.ctx (payBits c.p 0 0 3)).setProg (pay c.p 1 1) (BitVec.ofNat 1536 (leNat l)) := by
  refine ici_sets_ctx h (f := fun k b => b.pressProgramSet k c.p) (g := fun x => x.setProg (pay c.p 1 1) (BitVec.ofNat 1536 (leNat l))) ?_
  unfold Box.pressProgramSet
  rw [Box.fields_pass (by simp [performing_settable hst, hi]), performing_reads hread]
  dsimp only
  rw [hgood]

theorem execPressProgramSet_answers {l : List Byte} (hi : pay c.p 1 1 ≤ 15)
    (hread : readable s (s.dev.takeAccepted 0x0A02 c) (pay c.p 8 8) 192 64 l)
    (hgood : progFault (BitVec.ofNat 1536 (leNat l)) = none) :
    let n := payBits c.p 0 0 3
    let i := pay c.p 1 1
    let e : BitVec 1536 := BitVec.ofNat 1536 (leNat l)
    let x := s.dev.ctx n
    (x.st = .loaded → ∃ t, exec (.pressProgramSet c) s = .next t ∧ sameStore s t ∧ succeeds 0x0A02 c s t
      ∧ t.dev.ctx n = { x with progs := put x.progs i e })
    ∧ (x.st = .running → ∃ t, exec (.pressProgramSet c) s = .next t ∧ sameStore s t ∧ succeeds 0x0A02 c s t
      ∧ t.dev.ctx n = { x with progPend := x.progPend ++ [(i, e)] }) := by
  intro n i e x
  refine ⟨fun hst => ?_, fun hst => ?_⟩
  · obtain ⟨t, hrun, hstore, hok, hctx⟩ := pressProgramSet_sets h (.inl hst) hi hread hgood
    exact ⟨t, hrun, hstore, hok, hctx.trans (if_neg (by rw [show (s.dev.ctx (payBits c.p 0 0 3)).st = .loaded from hst]; decide))⟩
  · obtain ⟨t, hrun, hstore, hok, hctx⟩ := pressProgramSet_sets h (.inr hst) hi hread hgood
    exact ⟨t, hrun, hstore, hok, hctx.trans (if_pos hst)⟩

end

/-! ### SEQ_ASSIGN and SEQ_RELEASE (10 R313) -/

/-- What SEQ_ASSIGN's payload assigns. -/
def seqAssignment (p : BitVec 384) : SeqAssignment :=
  { ctx := payBits p 0 0 3, first := pay p 1 1, count := pay p 2 2, lmax := pay p 4 4, mirror := named (pay p 8 2)
    total := named (pay p 10 2), base := named (pay p 12 2) }

/-- The slots of a new assignment have length 0, the others keep theirs. -/
theorem SeqSt.assign_slots (x : SeqSt) (a : SeqAssignment) :
    (∀ q, a.first ≤ q → q < a.first + a.count → get? (x.assign a).slots q = some ⟨0, 0, 0⟩)
      ∧ ∀ q, q < a.first ∨ a.first + a.count ≤ q → get? (x.assign a).slots q = get? x.slots q := by
  have hkeys : (span a.first a.count).map id = span a.first a.count := List.map_id _
  refine ⟨fun q hlo hhi => ?_, fun q hq => get?_foldl_put_of_not_mem (key := id) (fun hmem => ?_) x.slots⟩
  · exact get?_foldl_put_of_mem (key := id) (val := fun _ => ⟨0, 0, 0⟩) (hkeys.symm ▸ span_nodup ..) (mem_span.mpr ⟨hlo, hhi⟩) x.slots
  · rw [hkeys, mem_span] at hmem
    omega

/-- The state of the context and the range of slots pass their checks. -/
theorem seqAssign_fields {c : Ici} {s : State} (hst : (s.dev.ctx (payBits c.p 0 0 3)).st = .loaded)
    (hrange : pay c.p 1 1 + pay c.p 2 2 ≤ 256) (f : Box → Box) :
    (s.performing 0x0B01 c).fields (Ici.pend 0x0B01 c) (some (payBits c.p 0 0 3))
    [(((s.performing 0x0B01 c).dev.ctx (payBits c.p 0 0 3)).st == .loaded, 0), (decide (pay c.p 1 1 + pay c.p 2 2 ≤ 256), 2)] f
      = f (s.performing 0x0B01 c) := by
  have hst' : ((s.performing 0x0B01 c).dev.ctx (payBits c.p 0 0 3)).st = .loaded := hst
  exact Box.fields_pass (by simp [hst', hrange]) f

section
variable {c : Ici} {s : State} (h : performs 0x0B01 c false s) (hst : (s.dev.ctx (payBits c.p 0 0 3)).st = .loaded)
  (hrange : pay c.p 1 1 + pay c.p 2 2 ≤ 256)
include h hst hrange

theorem seqAssign_none (hcnt : pay c.p 2 2 = 0) :
    ∃ t, exec (.seqAssign c) s = .next t ∧ sameStore s t ∧ onlyAnswered s t ∧ succeeds 0x0B01 c s t := by
  refine ici_sets_none h (f := fun k b => b.seqAssign k c.p) ?_
  unfold Box.seqAssign
  rw [seqAssign_fields hst hrange]
  exact if_pos hcnt

theorem seqAssign_assigns (hcnt : pay c.p 2 2 ≠ 0)
    (hfree : ∀ q, pay c.p 1 1 ≤ q → q < pay c.p 1 1 + pay c.p 2 2 → s.dev.seq.assigned q = none) (hmin : 1 ≤ pay c.p 4 4)
    (hmax : pay c.p 4 4 < 2 ^ 31) (hmirror : s.dev.mirrorFits (pay c.p 8 2) (pay c.p 2 2) = true)
    (htotal : pay c.p 10 2 ≤ 4095 ∨ pay c.p 10 2 = 0xFFFF) (hbase : pay c.p 12 2 + pay c.p 2 2 - 1 ≤ 4095 ∨ pay c.p 12 2 = 0xFFFF) :
    ∃ t, exec (.seqAssign c) s = .next t ∧ sameStore s t ∧ succeeds 0x0B01 c s t
      ∧ t.dev = { s.dev with queues := t.dev.queues, seq := t.dev.seq } ∧ t.dev.seq = s.dev.seq.assign (seqAssignment c.p) := by
  have hfree' : ((span (pay c.p 1 1) (pay c.p 2 2)).all fun q => ((s.performing 0x0B01 c).dev.seq.assigned q).isNone) = true := by
    rw [List.all_eq_true]
    intro q hq
    obtain ⟨hlo, hhi⟩ := mem_span.mp hq
    exact Option.isNone_iff_eq_none.mpr (hfree q hlo hhi)
  have hmirror' : (s.performing 0x0B01 c).dev.mirrorFits (pay c.p 8 2) (pay c.p 2 2) = true := hmirror
  refine ici_sets_seq h (f := fun k b => b.seqAssign k c.p) ?_
  unfold Box.seqAssign
  rw [seqAssign_fields hst hrange]
  dsimp only
  rw [if_neg hcnt, Box.fields_pass]
  · rfl
  · simp only [List.forall_mem_cons, decide_eq_true_eq]
    exact ⟨hfree', ⟨hmin, hmax⟩, hmirror', htotal, hbase, nofun⟩

end

/-- Without the assignments that begin in a range. -/
def SeqSt.release (x : SeqSt) (first cnt : Nat) : SeqSt :=
  if cnt = 0 then x else { x with assigns := x.assigns.filter fun a => !(first ≤ a.first && a.first < first + cnt) }

theorem SeqSt.release_slots (x : SeqSt) (first cnt : Nat) : (x.release first cnt).slots = x.slots := by
  unfold SeqSt.release
  split <;> rfl

section
variable {c : Ici} {s : State} (hst : (s.dev.ctx (payBits c.p 0 0 3)).st = .empty ∨ (s.dev.ctx (payBits c.p 0 0 3)).st = .loaded)
  (hrange : pay c.p 1 1 + pay c.p 2 2 ≤ 256)
  (hwhole : pay c.p 2 2 = 0 ∨ s.dev.seq.coversWhole (payBits c.p 0 0 3) (pay c.p 1 1) (pay c.p 2 2) = true)
include hst hrange hwhole

/-- A range of whole assignments, or an empty one, is released. -/
theorem seqRelease_performing : (s.performing 0x0B02 c).seqRelease (Ici.pend 0x0B02 c) c.p
    = (s.performing 0x0B02 c).onD fun d => (d.withSeq (s.dev.seq.release (pay c.p 1 1) (pay c.p 2 2))).okCmd (Ici.pend 0x0B02 c) := by
  have hst' : (((s.performing 0x0B02 c).dev.ctx (payBits c.p 0 0 3)).st == .empty
      || ((s.performing 0x0B02 c).dev.ctx (payBits c.p 0 0 3)).st == .loaded) = true := by
    change ((s.dev.ctx (payBits c.p 0 0 3)).st == .empty || (s.dev.ctx (payBits c.p 0 0 3)).st == .loaded) = true
    rcases hst with hst | hst <;> rw [hst] <;> rfl
  unfold Box.seqRelease SeqSt.release
  dsimp only
  rw [Box.fields_pass (by simp [hst', hrange])]
  by_cases hcnt : pay c.p 2 2 = 0
  · rw [if_pos hcnt, if_pos hcnt]
    rfl
  · have hwhole' : (s.performing 0x0B02 c).dev.seq.coversWhole (payBits c.p 0 0 3) (pay c.p 1 1) (pay c.p 2 2) = true :=
      hwhole.resolve_left hcnt
    rw [if_neg hcnt, if_neg hcnt, Box.fields_pass (List.forall_mem_singleton.mpr hwhole')]
    rfl

theorem execSeqRelease_answers (h : performs 0x0B02 c false s) :
    let first := pay c.p 1 1
    let cnt := pay c.p 2 2
    ∃ t, exec (.seqRelease c) s = .next t ∧ sameStore s t ∧ succeeds 0x0B02 c s t
      ∧ t.dev = { s.dev with queues := t.dev.queues, seq := t.dev.seq } ∧ t.dev.seq.slots = s.dev.seq.slots
      ∧ (cnt = 0 → t.dev.seq = s.dev.seq)
      ∧ (cnt ≠ 0 → t.dev.seq.assigns = s.dev.seq.assigns.filter fun a => !(first ≤ a.first && a.first < first + cnt)) := by
  intro first cnt
  obtain ⟨t, hrun, hstore, hok, hdev, hseq⟩ :=
    ici_sets_seq h (f := fun k b => b.seqRelease k c.p) (seqRelease_performing hst hrange hwhole)
  exact ⟨t, hrun, hstore, hok, hdev, (congrArg SeqSt.slots hseq).trans (SeqSt.release_slots ..), fun hcnt => hseq.trans (if_pos hcnt),
    fun hcnt => congrArg SeqSt.assigns (hseq.trans (if_neg hcnt))⟩

end

/-! ### SEQ_STAGE (10 R318) -/

section
variable {c : Ici} {s : State} (h : performs 0x0B03 c (inSpools (pay c.p 8 8)) s)
  (hst : (s.dev.ctx (payBits c.p 0 0 3)).st = .loaded ∨ (s.dev.ctx (payBits c.p 0 0 3)).st = .running) (hrange : pay c.p 4 2 ≤ 256)
include h hst hrange

theorem seqStage_none (hcnt : pay c.p 4 2 = 0) :
    ∃ t, exec (.seqStage c) s = .next t ∧ sameStore s t ∧ onlyAnswered s t ∧ succeeds 0x0B03 c s t := by
  refine ici_sets_none h (f := fun k b => b.seqStage k c.p) ?_
  unfold Box.seqStage
  rw [Box.fields_pass (by simp [performing_settable hst, hrange])]
  exact if_pos hcnt

theorem seqStage_queues {l : List Byte} (hcnt : pay c.p 4 2 ≠ 0) (hroom : (s.dev.ctx (payBits c.p 0 0 3)).stages.length < 4)
    (hread : readable s (s.dev.takeAccepted 0x0B03 c) (pay c.p 8 8) (16 * pay c.p 4 2) 64 l)
    (hgood : s.dev.seq.stageFault (payBits c.p 0 0 3) (stageEntries l (pay c.p 4 2)) = none) :
    ∃ t, exec (.seqStage c) s = .next t ∧ sameStore s t ∧ succeeds 0x0B03 c s t ∧ t.dev.ctx (payBits c.p 0 0 3)
      = { s.dev.ctx (payBits c.p 0 0 3) with stages := (s.dev.ctx (payBits c.p 0 0 3)).stages ++ [stageEntries l (pay c.p 4 2)] } := by
  have hroom' : ((s.performing 0x0B03 c).dev.ctx (payBits c.p 0 0 3)).stages.length < 4 := hroom
  have hgood' : (s.performing 0x0B03 c).dev.seq.stageFault (payBits c.p 0 0 3) (stageEntries l (pay c.p 4 2)) = none := hgood
  refine ici_sets_ctx h (f := fun k b => b.seqStage k c.p)
    (g := fun x => { x with stages := x.stages ++ [stageEntries l (pay c.p 4 2)] }) ?_
  unfold Box.seqStage
  rw [Box.fields_pass (by simp [performing_settable hst, hrange]), if_neg hcnt, Box.fields_pass (by simp [hroom']), performing_reads hread]
  dsimp only
  rw [hgood']

end

/-! ### CHALK_CONFIG (08 R264, R265) -/

/-- The layers that a payload names take its fields, the others keep theirs. -/
theorem Ctx.chalkApply_layers (x : Ctx) (p : BitVec 384) :
    let first := pay p 2 2
    let cnt := pay p 4 2
    let y := x.chalkApply p
    y = { x with chalk := y.chalk }
      ∧ (∀ i, first ≤ i → i < first + cnt → getD y.chalk i .init = { getD x.chalk i .init with
          al := payBits p 6 0 4, fb := bitOf p 56, missLimit := BitVec.ofNat 32 (pay p 8 4), eps := BitVec.ofNat 32 (pay p 12 4)
          minSample := pay p 16 4 })
      ∧ ∀ i, i < first ∨ first + cnt ≤ i → get? y.chalk i = get? x.chalk i := by
  intro first cnt y
  have hkeys : (span first cnt).map id = span first cnt := List.map_id _
  refine ⟨rfl, fun i hlo hhi => ?_, fun i hi => get?_foldl_upd_of_not_mem (key := id) (fun hmem => ?_) x.chalk⟩
  · exact getD_foldl_upd_of_mem (key := id) (hkeys.symm ▸ span_nodup ..) (mem_span.mpr ⟨hlo, hhi⟩) x.chalk
  · rw [List.map_id] at hmem
    have hin : first ≤ i ∧ i < first + cnt := mem_span.mp hmem
    omega

section
variable {c : Ici} {s : State} (h : performs 0x0C01 c false s)
include h

theorem chalkConfig_none (hst : (s.dev.ctx (payBits c.p 0 0 3)).st = .loaded ∨ (s.dev.ctx (payBits c.p 0 0 3)).st = .running)
    (hfirst : pay c.p 2 2 ≤ 256) (hcnt : pay c.p 4 2 = 0) :
    ∃ t, exec (.chalkConfig c) s = .next t ∧ sameStore s t ∧ onlyAnswered s t ∧ succeeds 0x0C01 c s t := by
  refine ici_sets_none h (f := fun k b => b.chalkConfig k c.p) ?_
  unfold Box.chalkConfig
  rw [Box.fields_pass (by simp [performing_settable hst, hfirst, hcnt])]
  exact if_pos hcnt

/-- In RUNNING the payload waits for the boundary, in LOADED its layers take it at once. -/
theorem chalkConfig_sets (hst : (s.dev.ctx (payBits c.p 0 0 3)).st = .loaded ∨ (s.dev.ctx (payBits c.p 0 0 3)).st = .running)
    (hcnt : pay c.p 4 2 ≠ 0) (hrange : pay c.p 2 2 + pay c.p 4 2 ≤ 256) (hal : payBits c.p 6 0 4 ≤ 10)
    (hlimit : unitRange (BitVec.ofNat 32 (pay c.p 8 4)) = true) (heps : notNeg (BitVec.ofNat 32 (pay c.p 12 4)) = true) :
    let x := s.dev.ctx (payBits c.p 0 0 3)
    ∃ t, exec (.chalkConfig c) s = .next t ∧ sameStore s t ∧ succeeds 0x0C01 c s t ∧ t.dev.ctx (payBits c.p 0 0 3)
      = if x.st = .running then { x with chalkPend := x.chalkPend ++ [c.p] } else x.chalkApply c.p := by
  refine ici_sets_ctx h (f := fun k b => b.chalkConfig k c.p)
    (g := fun x => if x.st = .running then { x with chalkPend := x.chalkPend ++ [c.p] } else x.chalkApply c.p) ?_
  unfold Box.chalkConfig
  rw [Box.fields_pass (by simp [performing_settable hst, hrange]), if_neg hcnt, Box.fields_pass (by simp [hal, hlimit, heps])]

theorem execChalkConfig_answers (hcnt : pay c.p 4 2 ≠ 0) (hrange : pay c.p 2 2 + pay c.p 4 2 ≤ 256) (hal : payBits c.p 6 0 4 ≤ 10)
    (hlimit : unitRange (BitVec.ofNat 32 (pay c.p 8 4)) = true) (heps : notNeg (BitVec.ofNat 32 (pay c.p 12 4)) = true) :
    let n := payBits c.p 0 0 3
    let first := pay c.p 2 2
    let cnt := pay c.p 4 2
    let x := s.dev.ctx n
    (x.st = .loaded → ∃ t, exec (.chalkConfig c) s = .next t ∧ sameStore s t ∧ succeeds 0x0C01 c s t
      ∧ t.dev.ctx n = { x with chalk := (t.dev.ctx n).chalk }
      ∧ (∀ i, first ≤ i → i < first + cnt → getD (t.dev.ctx n).chalk i .init = { getD x.chalk i .init with
          al := payBits c.p 6 0 4, fb := bitOf c.p 56, missLimit := BitVec.ofNat 32 (pay c.p 8 4)
          eps := BitVec.ofNat 32 (pay c.p 12 4), minSample := pay c.p 16 4 })
      ∧ ∀ i, i < first ∨ first + cnt ≤ i → get? (t.dev.ctx n).chalk i = get? x.chalk i)
    ∧ (x.st = .running → ∃ t, exec (.chalkConfig c) s = .next t ∧ sameStore s t ∧ succeeds 0x0C01 c s t
      ∧ t.dev.ctx n = { x with chalkPend := x.chalkPend ++ [c.p] }) := by
  intro n first cnt x
  refine ⟨fun hst => ?_, fun hst => ?_⟩
  · obtain ⟨t, hrun, hstore, hok, hctx⟩ := chalkConfig_sets h (.inl hst) hcnt hrange hal hlimit heps
    have happly : t.dev.ctx n = x.chalkApply c.p := hctx.trans (if_neg fun hrunning => by rw [hst] at hrunning; cases hrunning)
    refine ⟨t, hrun, hstore, hok, ?_⟩
    rw [happly]
    exact x.chalkApply_layers c.p
  · obtain ⟨t, hrun, hstore, hok, hctx⟩ := chalkConfig_sets h (.inr hst) hcnt hrange hal hlimit heps
    exact ⟨t, hrun, hstore, hok, hctx.trans (if_pos hst)⟩

end

end Sys2Proof.Machine

/-! SUPPORT. The recorder's commands: triggers that are loaded, and records that are erased (17 R513, R517). -/

namespace Sys2Proof.Machine

open Sys2Proof.Safety

/-- An event is recorded whatever else of the Measure Book its command changes, beside the ring and the next SEQ. -/
theorem recorded_of_raise_ring {s t : State} {d : Dev} {code die : Nat} {fw : Bool} {ctx : Option Nat} {l : List Int}
    (hhead : d.mb.head = s.dev.mb.head) (ht : t.dev.mb.ring = (d.raise code die fw ctx l).mb.ring) : recorded code ctx l s t :=
  ⟨d.form code die fw ctx l (d.trigFor code ctx), ht ▸ d.form_mem_raise_ring code die fw ctx l, hhead.ge, rfl, rfl, rfl⟩

/-- A command that changes the Measure Book among other things, and succeeds. -/
theorem ici_sets_mb {opc : Nat} {c : Ici} {needs : Bool} {s : State} (h : performs opc c needs s) {f : Pend → Box → Box} {d : Dev}
    (hf : f (Ici.pend opc c) (s.performing opc c) = (s.performing opc c).onD fun _ => d.okCmd (Ici.pend opc c))
    (hqueues : d.queues = (s.dev.takeAccepted opc c).queues) (hyoke : d.yoke = s.dev.yoke) :
    ∃ t, s.ici opc c needs f = .next t ∧ sameStore s t ∧ succeeds opc c s t ∧ t.dev.mb = d.mb := by
  obtain ⟨hstore, hok, -⟩ := okCmd_answers h hqueues hyoke
  exact ⟨_, ici_performing h hf, hstore, hok, Dev.complete_mb ..⟩

/-! ### MB_TRIGGER_SET (17 R513, R524) -/

/-- The triggers that the entries of a range make. -/
def triggersAfter (t : Tbl (BitVec 1280)) (first n : Nat) (l : List Byte) : Tbl (BitVec 1280) :=
  (List.range n).foldl (fun t i => put t (first + i) (trigOf l i)) t

theorem triggersAfter_get? (t : Tbl (BitVec 1280)) (first n : Nat) (l : List Byte) :
    (∀ i, i < n → get? (triggersAfter t first n l) (first + i) = some (trigOf l i))
      ∧ ∀ i, i < first ∨ first + n ≤ i → get? (triggersAfter t first n l) i = get? t i := by
  refine ⟨fun i hi => get?_foldl_put_of_mem (key := (first + ·)) (span_nodup first n) (List.mem_range.mpr hi) t,
    fun i hi => get?_foldl_put_of_not_mem (key := (first + ·)) (fun hmem => ?_) t⟩
  have hin := mem_span.mp hmem
  omega

theorem Dev.setTriggers_trigs (d : Dev) (first n : Nat) (l : List Byte) :
    (d.setTriggers first n ((List.range n).map fun i => (first + i, trigOf l i))).mb.trigs = triggersAfter d.mb.trigs first n l :=
  List.foldl_map

section
variable {c : Ici} {s : State} (h : performs 0x0901 c (inSpools (pay c.p 8 8)) s) (hrange : pay c.p 0 1 + pay c.p 2 2 ≤ 256)
include h hrange

theorem mbTriggerSet_none (hn : pay c.p 2 2 = 0) :
    ∃ t, exec (.mbTriggerSet c) s = .next t ∧ sameStore s t ∧ onlyAnswered s t ∧ succeeds 0x0901 c s t := by
  refine ici_sets_none h (f := fun k b => b.triggerSet k c.p) ?_
  unfold Box.triggerSet
  rw [Box.fields_pass (by simp [hn, (Nat.le_add_right _ _).trans hrange])]
  exact if_pos hn

theorem mbTriggerSet_loads {l : List Byte} (hn : pay c.p 2 2 ≠ 0)
    (hread : readable s (s.dev.takeAccepted 0x0901 c) (pay c.p 8 8) (160 * pay c.p 2 2) 64 l)
    (hgood : ∀ i, i < pay c.p 2 2 → trigFault (trigOf l i) = none) :
    let first := pay c.p 0 1
    let n := pay c.p 2 2
    ∃ t, exec (.mbTriggerSet c) s = .next t ∧ sameStore s t ∧ succeeds 0x0901 c s t
      ∧ (∀ i, i < n → get? t.dev.mb.trigs (first + i) = some (trigOf l i))
      ∧ (∀ i, i < first ∨ first + n ≤ i → get? t.dev.mb.trigs i = get? s.dev.mb.trigs i)
      ∧ recorded 0xD004 none [first, n, (t.dev.mb.trigs.filter fun e => trigEnabled e.2).length] s t := by
  intro first n
  have hmost : n ≤ 256 := (Nat.le_add_left _ _).trans hrange
  have hnone : ((List.range n).map fun i => (first + i, trigOf l i)).findSome? (fun e => trigFault e.2) = none := by
    rw [List.findSome?_map, List.findSome?_eq_none_iff]
    exact fun i hi => hgood i (List.mem_range.mp hi)
  let d := (s.dev.takeAccepted 0x0901 c).setTriggers first n ((List.range n).map fun i => (first + i, trigOf l i))
  have hset : (s.performing 0x0901 c).triggerSet (Ici.pend 0x0901 c) c.p
      = (s.performing 0x0901 c).onD fun _ => d.okCmd (Ici.pend 0x0901 c) := by
    unfold Box.triggerSet
    dsimp only
    rw [Box.fields_pass (by simp [hmost, hrange, n]), if_neg hn, performing_reads hread, hnone]
    rfl
  obtain ⟨t, hrun, hstore, hok, hmb⟩ := ici_sets_mb h (f := fun k b => b.triggerSet k c.p) hset (Dev.raise_queues ..) (Dev.raise_yoke ..)
  have htrigs : t.dev.mb.trigs = triggersAfter s.dev.mb.trigs first n l :=
    (congrArg MbSt.trigs hmb).trans ((s.dev.takeAccepted 0x0901 c).setTriggers_trigs first n l)
  obtain ⟨hin, hout⟩ := triggersAfter_get? s.dev.mb.trigs first n l
  refine ⟨t, hrun, hstore, hok, fun i hi => htrigs ▸ hin i hi, fun i hi => htrigs ▸ hout i hi, ?_⟩
  rw [hmb]
  refine recorded_of_raise_ring (d := s.dev.takeAccepted 0x0901 c) (die := (s.dev.takeAccepted 0x0901 c).fwDie) (fw := true) rfl ?_
  rw [hmb]
  rfl

end

/-! ### MB_CLEAR (17 R517) -/

/-- Every record of the Measure Book, and the next one, has SEQ `m` or a later one. -/
structure MbSt.From (x : MbSt) (m : Nat) : Prop where
  kept : ∀ r ∈ x.ring ++ x.region, m ≤ r.seq
  next : m ≤ x.head

namespace MbSt.From

theorem append {x : MbSt} {m : Nat} {r : Rec} (h : x.From m) (hr : m ≤ r.seq) : (x.append r).From m := by
  refine ⟨fun y hy => ?_, Nat.le_succ_of_le hr⟩
  rcases List.mem_append.mp hy with hring | hregion
  · rcases MbSt.mem_append_ring.mp hring with ⟨hold, -⟩ | rfl
    · exact h.kept y (List.mem_append_left _ hold)
    · exact hr
  · exact h.kept y (List.mem_append_right _ hregion)

/-- Draining copies records of the ring, of which the last `n` of the region are kept. -/
theorem drained {x : MbSt} {m : Nat} (h : x.From m) (n : Nat) (p : Rec → Bool) :
    ({ x with region := lastN n (x.region ++ x.ring.filter p), drained := x.head, lostFrom := none } : MbSt).From m := by
  refine ⟨fun r hr => h.kept r ?_, h.next⟩
  rcases List.mem_append.mp hr with hring | hregion
  · exact List.mem_append_left _ hring
  · rcases List.mem_append.mp (List.mem_of_mem_drop hregion) with hold | hnew
    · exact List.mem_append_right _ hold
    · exact List.mem_append_left _ (List.mem_of_mem_filter hnew)

theorem drainAll {d : Dev} {m : Nat} (h : d.mb.From m) : d.mbDrainAll.mb.From m := by
  have hdrained := h.drained 2097152 fun r => d.mb.drained ≤ r.seq
  unfold Dev.mbDrainAll
  split
  · exact h
  · dsimp only
    split
    · exact hdrained
    · exact hdrained.append h.next

theorem raise {d : Dev} {m : Nat} (h : d.mb.From m) (code die : Nat) (fw : Bool) (ctx : Option Nat) (l : List Int) :
    (d.raise code die fw ctx l).mb.From m := by
  have hkept : (d.keep (d.form code die fw ctx l (d.trigFor code ctx))).mb.From m := h.append h.next
  unfold Dev.raise
  dsimp only
  split
  · unfold Dev.mbDrainer
    split
    · exact hkept
    · exact hkept.drainAll
  · exact hkept

end MbSt.From

/-- The Measure Book without the records below a limit. -/
def MbSt.cut (x : MbSt) (m : Nat) : MbSt :=
  { x with ring := x.ring.filter fun r => m ≤ r.seq, region := x.region.filter fun r => m ≤ r.seq }

theorem MbSt.from_cut {x : MbSt} {m : Nat} (hm : m ≤ x.head) : (x.cut m).From m := by
  refine ⟨fun r hr => ?_, hm⟩
  rw [MbSt.cut, ← List.filter_append] at hr
  exact of_decide_eq_true (List.mem_filter.mp hr).2

/-- The device on which an accepted token was used, the records below a limit erased. -/
def Dev.cleared (d : Dev) (m : Nat) : Dev := { d with fw := { d.fw with challenge := d.fw.challenge + 1 }, mb := d.mb.cut m }

theorem mbClear_erases {c : Ici} {s : State} {l : List Byte} (h : performs 0x0903 c true s) (hlen : pay c.p 8 4 = 7296)
    (hread : readable s (s.dev.takeAccepted 0x0903 c) (pay c.p 0 8) 7296 64 l) (htoken : s.dev.tokenFault l 2 = none) :
    let lim := min (pay c.p 16 8) s.dev.mb.head
    ∃ t, exec (.mbClear c) s = .next t ∧ sameStore s t ∧ succeeds 0x0903 c s t ∧ (∀ r ∈ t.dev.mb.ring ++ t.dev.mb.region, lim ≤ r.seq)
      ∧ recorded 0xD003 none [s.dev.mbOldest, lim, s.dev.tokenKey l] s t := by
  intro lim
  let d := (s.dev.takeAccepted 0x0903 c).cleared lim
  let e := d.raise 0xD003 (thimbleDie d.fw.roots) true none [s.dev.mbOldest, lim, s.dev.tokenKey l]
  have htoken' : (s.performing 0x0903 c).dev.tokenFault l 2 = none := htoken
  have hclear : (s.performing 0x0903 c).mbClear (Ici.pend 0x0903 c) c.p
      = (s.performing 0x0903 c).onD fun _ => e.okCmd (Ici.pend 0x0903 c) := by
    unfold Box.mbClear
    dsimp only
    rw [Box.fields_pass (by simp [hlen])]
    unfold Box.withToken
    rw [performing_reads hread, htoken']
    rfl
  obtain ⟨t, hrun, hstore, hok, hmb⟩ := ici_sets_mb h (f := fun k b => b.mbClear k c.p) hclear (Dev.raise_queues ..) (Dev.raise_yoke ..)
  have hcut : d.mb.From lim := MbSt.from_cut (Nat.min_le_right _ _)
  refine ⟨t, hrun, hstore, hok, ?_, recorded_of_raise_ring (d := d) rfl (congrArg MbSt.ring hmb)⟩
  rw [hmb]
  exact (hcut.raise ..).kept

end Sys2Proof.Machine

/-! SUPPORT. TEST_RUN: the fields of a result record, the record that a run of the suites keeps, and what a failing suite leaves
(17 R521 to R523). -/

namespace Sys2Proof.Machine

open Sys2Proof.Safety

/-! ### Records of tests (17 R523) -/

theorem leNat_drop (l : List Byte) (o : Nat) : leNat (l.drop o) = leNat l / 256 ^ o := by
  induction o generalizing l with
  | zero => simp
  | succ o ih =>
    cases l with
    | nil => simp [leNat]
    | cons x t =>
      have hx := x.isLt
      rw [List.drop_succ_cons, ih, leNat, Nat.pow_succ', ← Nat.div_div_eq_div_mul, Nat.add_mul_div_left _ _ (by decide),
        Nat.div_eq_of_lt hx, Nat.zero_add]

theorem leNat_take (l : List Byte) (n : Nat) : leNat (l.take n) = leNat l % 256 ^ n := by
  induction n generalizing l with
  | zero => simp [leNat, Nat.mod_one]
  | succ n ih =>
    cases l with
    | nil => simp [leNat]
    | cons x t =>
      have hx := x.isLt
      rw [List.take_succ_cons, leNat, leNat, ih, Nat.pow_succ', Nat.mod_mul, Nat.add_mul_mod_self_left, Nat.mod_eq_of_lt hx,
        Nat.add_mul_div_left _ _ (by decide), Nat.div_eq_of_lt hx, Nat.zero_add]

/-- Whole bytes of a word that a byte string spells. -/
theorem fld_ofNat_leNat {w o n : Nat} (h : 8 * o + 8 * n ≤ w) (l : List Byte) :
    fld (BitVec.ofNat w (leNat l)) (8 * o) (8 * n) = leAt l o n := by
  have hpow : ∀ k, 256 ^ k = 2 ^ (8 * k) := fun k => by rw [Nat.pow_mul]
  rw [leAt, leNat_take, leNat_drop, hpow, hpow, fld, BitVec.toNat_ofNat, Nat.shiftRight_eq_div_pow]
  obtain ⟨k, rfl⟩ := Nat.exists_eq_add_of_le h
  rw [Nat.add_assoc, Nat.pow_add 2 (8 * o), Nat.mod_mul_right_div_self, Nat.pow_add, Nat.mod_mul_right_mod]

theorem Dev.keepTest_kept (d : Dev) (kind number mask origin : Nat) (fault : Option TestFault) :
    get? (d.keepTest kind number mask origin fault).tests (testKey kind number) = some (d.testRecord kind number mask origin fault) :=
  get?_put_same ..

theorem Dev.testRecord_fields (d : Dev) {kind number mask : Nat} (hkind : kind < 2 ^ 8) (hnumber : number < 2 ^ 16) (hmask : mask < 2 ^ 32)
    (origin : Nat) (fault : Option TestFault) :
    let r := d.testRecord kind number mask origin fault
    fld r 0 8 = kind ∧ fld r 8 8 = boolN fault.isSome ∧ fld r 16 16 = number ∧ fld r 32 32 = mask ∧ fld r 128 64 = d.now % 2 ^ 64 := by
  have hfields : StandsAt (testBytes kind number mask origin d.now d.testDuration fault) 0 _ :=
    StandsAt.padTo (by simp [leBytes_length])
  simp only [StandsAt.append_iff, List.length_append, leBytes_length, and_assoc] at hfields
  obtain ⟨hk, hfault, hnum, hm, -, -, -, -, htape, -⟩ := hfields
  have hlt : boolN fault.isSome < 2 ^ 8 := by cases fault <;> simp [boolN]
  exact ⟨(fld_ofNat_leNat (o := 0) (n := 1) (by decide) _).trans (hk.leAt_of_lt hkind),
    (fld_ofNat_leNat (o := 1) (n := 1) (by decide) _).trans (hfault.leAt_of_lt hlt),
    (fld_ofNat_leNat (o := 2) (n := 2) (by decide) _).trans (hnum.leAt_of_lt hnumber),
    (fld_ofNat_leNat (o := 4) (n := 4) (by decide) _).trans (hm.leAt_of_lt hmask),
    (fld_ofNat_leNat (o := 16) (n := 8) (by decide) _).trans htape.leAt⟩

/-- The suites of one target have the numbers 0 to 6. -/
theorem suiteMask_lt (kind : Nat) (p : Nat → Bool) : suiteMask ((suitesOf kind).filter p) < 2 ^ 32 := by
  have hsum : suiteMask ((suitesOf kind).filter p) ≤ ((suitesOf kind).map (2 ^ ·)).sum := by
    rw [suiteMask, sumN, ← List.sum_eq_foldl]
    exact (List.filter_sublist.map _).sum_le_sum fun _ _ => Nat.zero_le _
  have hall : ((suitesOf kind).map (2 ^ ·)).sum ≤ 64 := by
    unfold suitesOf
    split
    · decide
    · split <;> decide
  omega

/-! ### TEST_RUN (17 R521, R522) -/

/-- The suites of a target that a mask names. -/
def suitesRun (kind mask : Nat) : List Nat := (suitesOf kind).filter fun i => mask.testBit i

/-- The box once its suites have run: the SCRATCH suite loses the banks of its cluster (06 R187). -/
def Box.suitesHaveRun (b : Box) (kind number mask : Nat) : Box :=
  match b.dev.targetCluster kind number with
  | some t => if kind ≤ 1 ∧ (suitesRun kind mask).contains 2 then b.onS fun s => s.scratchLost (16 * t.1 + t.2) else b
  | none => b

theorem Box.suitesHaveRun_loses (b : Box) (kind number mask : Nat) :
    (b.suitesHaveRun kind number mask).dev = b.dev ∧ (b.suitesHaveRun kind number mask).store.mem = b.store.mem := by
  unfold Box.suitesHaveRun
  split
  · split <;> exact ⟨rfl, rfl⟩
  · exact ⟨rfl, rfl⟩

/-- The device once a run has passed: its record is kept and its event raised. -/
def Dev.tested (d : Dev) (kind number mask : Nat) : Dev :=
  (d.keepTest kind number (suiteMask (suitesRun kind mask)) 0 none).evFw 0xD00A none
    [kind, number, suiteMask (suitesRun kind mask), d.testDuration]

theorem Box.runTest_passes {b : Box} {k : Pend} {kind number mask : Nat}
    (hpass : ∀ i ∈ suitesRun kind mask, Config.suitePass b.dev.mb.head kind number i = true) :
    b.runTest k kind number mask = (b.suitesHaveRun kind number mask).onD fun d => (d.tested kind number mask).okCmd k := by
  have hnone : (suitesRun kind mask).find? (fun i => !Config.suitePass b.dev.mb.head kind number i) = none := by
    rw [List.find?_eq_none]
    intro i hi
    simp [hpass i hi]
  unfold suitesRun at hnone
  unfold Box.runTest
  dsimp only
  rw [hnone]
  rfl

/-- What a failing suite does to its target leaves the records of the tests. -/
theorem Dev.TestsKept.testFailed (b : Box) (kind number suite : Nat) : b.dev.TestsKept (b.testFailed kind number suite).dev := by
  unfold Box.testFailed
  split
  · cases b.dev.targetCluster kind number with
    | none => exact refl _
    | some t => exact due ..
  · split
    · exact refl _
    · split
      · exact refl _
      · exact disableEngine ..

/-- A run in which a suite fails keeps a failed record, and completes with RESULT 1. -/
theorem Box.runTest_fails {b : Box} {k : Pend} {kind number mask : Nat}
    (hfail : ∃ i ∈ suitesRun kind mask, Config.suitePass b.dev.mb.head kind number i = false) :
    ∃ (b' : Box) (fault : TestFault), b.runTest k kind number mask = b'.ok k 0 1
      ∧ (b.dev.keepTest kind number (suiteMask (suitesRun kind mask)) 0 (some fault)).TestsKept b'.dev := by
  obtain ⟨i, hi⟩ : ∃ i, (suitesRun kind mask).find? (fun i => !Config.suitePass b.dev.mb.head kind number i) = some i := by
    rw [← Option.isSome_iff_exists, List.find?_isSome]
    obtain ⟨i, hmem, hno⟩ := hfail
    exact ⟨i, hmem, by rw [hno]; rfl⟩
  have hrun : ∃ fault slots, b.runTest k kind number mask = (((b.suitesHaveRun kind number mask).onD fun d =>
      (d.keepTest kind number (suiteMask (suitesRun kind mask)) 0 (some fault)).evFw 0xD00B none slots).testFailed kind number i).ok k 0 1 := by
    unfold suitesRun at hi ⊢
    unfold Box.runTest
    dsimp only
    rw [hi]
    exact ⟨_, _, rfl⟩
  obtain ⟨fault, slots, hrun⟩ := hrun
  refine ⟨_, fault, hrun, .after (.testFailed _ _ _ _) ?_⟩
  rw [Box.onD_dev, (b.suitesHaveRun_loses kind number mask).1]
  exact .raise ..

theorem targetCount_le (kind : Nat) : targetCount kind ≤ 432 := by
  unfold targetCount
  split
  · decide
  · split
    · decide
    · split <;> decide

/-- A success leaves a completion with status 0. -/
theorem ended_of_okCmd {t : State} {d : Dev} {opc : Nat} {c : Ici} {x : W32} {y : W64} (hbare : d.bare = false)
    (ht : t.dev = d.okCmd (Ici.pend opc c) x y) : ended opc c 0 0 t := by
  have hdue := (d.complete_queue (Ici.pend opc c) 0 0 x y c.q.val hbare).trans (if_pos rfl)
  refine ⟨⟨Ici.pend opc c, 0, 0, x, y⟩, ?_, rfl, rfl, rfl⟩
  rw [ht, Dev.okCmd, hdue]
  exact List.mem_append_right _ (List.mem_singleton_self _)

section
variable {c : Ici} {s : State} (h : performs 0x0904 c true s) (hkind : pay c.p 0 1 ≤ 3)
  (hnumber : pay c.p 2 2 < targetCount (pay c.p 0 1)) (hfree : s.dev.targetFree (pay c.p 0 1) (pay c.p 2 2) = true)
include h hkind hnumber hfree

/-- A free target is tested as ACTION says. -/
theorem exec_testRun (hact : pay c.p 1 1 = 0 ∨ pay c.p 1 1 = 1 ∧ pay c.p 0 1 = 0) :
    exec (.testRun c) s = .next (s.setBox (if pay c.p 1 1 = 1 then
      ((s.performing 0x0904 c).due (pay c.p 2 2 / 16) (pay c.p 2 2 % 16) 5).ok (Ici.pend 0x0904 c)
      else (s.performing 0x0904 c).runTest (Ici.pend 0x0904 c) (pay c.p 0 1) (pay c.p 2 2) (pay c.p 4 4))) := by
  have hfree' : (s.performing 0x0904 c).dev.targetFree (pay c.p 0 1) (pay c.p 2 2) = true := hfree
  refine ici_performing h (f := fun k b => b.testRun k c.p) ?_
  unfold Box.testRun
  dsimp only
  rw [Box.fields_pass]
  simp [hkind, hnumber, hfree', hact]

/-- ACTION 1 makes the cluster due, and completes. -/
theorem testRun_due (hact : pay c.p 1 1 = 1) (hcluster : pay c.p 0 1 = 0) :
    ∃ t, exec (.testRun c) s = .next t ∧ t.pending = s.pending ∧ ended 0x0904 c 0 0 t := by
  have hrun := exec_testRun h hkind hnumber hfree (.inr ⟨hact, hcluster⟩)
  rw [if_pos hact] at hrun
  have hkept := Dev.TestsKept.due (s.performing 0x0904 c) (pay c.p 2 2 / 16) (pay c.p 2 2 % 16) 5
  exact ⟨_, hrun, rfl, ended_of_okCmd (hkept.bare.trans (performs_bare h)) rfl⟩

theorem testRun_passes (hact : pay c.p 1 1 = 0) :
    let kind := pay c.p 0 1
    let number := pay c.p 2 2
    let run := suitesRun kind (pay c.p 4 4)
    (∀ i ∈ run, Config.suitePass s.dev.mb.head kind number i = true) → ∃ t, exec (.testRun c) s = .next t ∧ t.pending = s.pending
      ∧ ended 0x0904 c 0 0 t
      ∧ get? t.dev.tests (testKey kind number) = some ((s.dev.takeAccepted 0x0904 c).testRecord kind number (suiteMask run) 0 none)
      ∧ memoryKept s t ∧ succeeds 0x0904 c s t ∧ ∃ us, recorded 0xD00A none [kind, number, suiteMask run, us] s t := by
  intro kind number run hpass
  obtain ⟨hdev, hmem⟩ := (s.performing 0x0904 c).suitesHaveRun_loses kind number (pay c.p 4 4)
  have hrun := exec_testRun h hkind hnumber hfree (.inl hact)
  rw [if_neg (by rw [hact]; decide), Box.runTest_passes (b := s.performing 0x0904 c) hpass] at hrun
  generalize htbox : s.setBox _ = t at hrun
  have ht : t.dev = ((s.dev.takeAccepted 0x0904 c).tested kind number (pay c.p 4 4)).okCmd (Ici.pend 0x0904 c) := by
    rw [← htbox, State.setBox_dev, Box.onD_dev, hdev]
    rfl
  have hbare : ((s.dev.takeAccepted 0x0904 c).tested kind number (pay c.p 4 4)).bare = false :=
    (Dev.raise_bare_of ..).trans (performs_bare h)
  have hmb : t.dev.mb = ((s.dev.takeAccepted 0x0904 c).tested kind number (pay c.p 4 4)).mb :=
    (congrArg Dev.mb ht).trans (Dev.complete_mb ..)
  refine ⟨t, hrun, by rw [← htbox]; rfl, ended_of_okCmd hbare ht, ?_, fun a => ?_, answers_of_complete ht (Dev.raise_queues ..) hbare, _,
    recorded_of_raise_mb (d := (s.dev.takeAccepted 0x0904 c).keepTest kind number (suiteMask run) 0 none) rfl hmb⟩
  · rw [ht, Dev.okCmd, Dev.complete_tests, Dev.tested, Dev.evFw_eq, Dev.raise_tests, Dev.keepTest_kept]
  · rw [← htbox, State.setBox_store, Box.onD_store, hmem]
    rfl

theorem testRun_fails (hact : pay c.p 1 1 = 0) :
    let kind := pay c.p 0 1
    let number := pay c.p 2 2
    let run := suitesRun kind (pay c.p 4 4)
    (∃ i ∈ run, Config.suitePass s.dev.mb.head kind number i = false) → ∃ t fault, exec (.testRun c) s = .next t ∧ t.pending = s.pending
      ∧ ended 0x0904 c 0 0 t
      ∧ get? t.dev.tests (testKey kind number)
          = some ((s.dev.takeAccepted 0x0904 c).testRecord kind number (suiteMask run) 0 (some fault)) := by
  intro kind number run hfail
  obtain ⟨b, fault, htest, hkept⟩ := Box.runTest_fails (b := s.performing 0x0904 c) (k := Ici.pend 0x0904 c) hfail
  have hrun := exec_testRun h hkind hnumber hfree (.inl hact)
  rw [if_neg (by rw [hact]; decide), htest] at hrun
  refine ⟨_, fault, hrun, rfl, ended_of_okCmd (hkept.bare.trans (performs_bare h)) rfl, ?_⟩
  rw [State.setBox_dev, Box.ok, Box.onD_dev, Dev.okCmd, Dev.complete_tests, hkept.tests]
  exact Dev.keepTest_kept ..

/-- The record of a run of the suites, passed or failed. -/
theorem testRun_tests (hact : pay c.p 1 1 = 0) :
    let kind := pay c.p 0 1
    let number := pay c.p 2 2
    let run := suitesRun kind (pay c.p 4 4)
    ∃ t r, exec (.testRun c) s = .next t ∧ t.pending = s.pending ∧ ended 0x0904 c 0 0 t
      ∧ get? t.dev.tests (testKey kind number) = some r ∧ fld r 0 8 = kind ∧ fld r 16 16 = number ∧ fld r 32 32 = suiteMask run
      ∧ fld r 128 64 = s.dev.tape.now % 2 ^ 64
      ∧ ((∀ i ∈ run, Config.suitePass s.dev.mb.head kind number i = true) → fld r 8 8 = 0 ∧ memoryKept s t ∧ succeeds 0x0904 c s t
        ∧ ∃ us, recorded 0xD00A none [kind, number, suiteMask run, us] s t)
      ∧ ((∃ i ∈ run, Config.suitePass s.dev.mb.head kind number i = false) → fld r 8 8 = 1) := by
  intro kind number run
  have hcount : number < 2 ^ 16 := (hnumber.trans_le (targetCount_le kind)).trans (by decide)
  have hfields := (s.dev.takeAccepted 0x0904 c).testRecord_fields (kind := kind) (hkind.trans_lt (by decide)) hcount
    (suiteMask_lt kind fun i => (pay c.p 4 4).testBit i) 0
  by_cases hpass : ∀ i ∈ run, Config.suitePass s.dev.mb.head kind number i = true
  · obtain ⟨t, hrun, hpending, hended, htests, hmem, hok, hevent⟩ := testRun_passes h hkind hnumber hfree hact hpass
    obtain ⟨hk, hresult, hnum, hmask, htape⟩ := hfields none
    exact ⟨t, _, hrun, hpending, hended, htests, hk, hnum, hmask, htape, fun _ => ⟨hresult, hmem, hok, hevent⟩,
      fun ⟨i, hi, hno⟩ => absurd (hpass i hi) (by rw [hno]; decide)⟩
  · have hfail : ∃ i ∈ run, Config.suitePass s.dev.mb.head kind number i = false := by simpa using hpass
    obtain ⟨t, fault, hrun, hpending, hended, htests⟩ := testRun_fails h hkind hnumber hfree hact hfail
    obtain ⟨hk, hresult, hnum, hmask, htape⟩ := hfields (some fault)
    exact ⟨t, _, hrun, hpending, hended, htests, hk, hnum, hmask, htape, fun hall => absurd hall hpass, fun _ => hresult⟩

end

/-- Settles O60, by one lemma for each command and each state of its context. -/
theorem recorderTestPressAndSequenceCommandsAct : Obligations.RecorderTestPressAndSequenceCommandsAct := by
  unfold Obligations.RecorderTestPressAndSequenceCommandsAct
  intro c s
  refine ⟨fun h l hrange => ⟨mbTriggerSet_none h hrange, mbTriggerSet_loads h hrange⟩,
    fun h l hlen hread htoken => mbClear_erases h hlen hread htoken,
    fun h hkind hnumber hfree => ⟨testRun_tests h hkind hnumber hfree, testRun_due h hkind hnumber hfree⟩,
    fun h l hcnt hrange hread hgood => execPressSlotSet_answers h hcnt hrange hread hgood,
    fun h l hi hread hgood => execPressProgramSet_answers h hi hread hgood,
    fun h hst hrange => ⟨seqAssign_none h hst hrange, fun hcnt hfree hmin hmax hmirror htotal hbase => ?_⟩,
    fun h hst hrange hwhole => execSeqRelease_answers hst hrange hwhole h,
    fun h l hst hrange => ⟨seqStage_none h hst hrange, seqStage_queues h hst hrange⟩,
    fun hst => ⟨fun h => pressSlotSet_none h hst, fun h => chalkConfig_none h hst⟩,
    fun h hcnt hrange hal hlimit heps => execChalkConfig_answers h hcnt hrange hal hlimit heps⟩
  obtain ⟨t, hrun, hstore, hok, hdev, hseq⟩ := seqAssign_assigns h hst hrange hcnt hfree hmin hmax hmirror htotal hbase
  obtain ⟨hin, hout⟩ := s.dev.seq.assign_slots (seqAssignment c.p)
  exact ⟨t, hrun, hstore, hok, hdev, congrArg SeqSt.assigns hseq, hseq ▸ hin, hseq ▸ hout⟩

end Sys2Proof.Machine

/-! SUPPORT. The Hems: what HEMF leaves in the Hem row by row, what HEMB does with it, and the stop at a missing entry (09 R271, R275 to
R277). -/

namespace Sys2Proof.Machine

open Sys2Proof.Safety

/-! ### Work of a Hem that leaves device memory -/

/-- The Hem once a command has left its queue. -/
def Hem.left (a : Act) (h : Hem) : Hem := { h with q := h.q.filter (·.a != a) }

/-- Device memory and the cores are as before, and `f` is what became of Hem `cl`. -/
structure Box.HemWorks (cl : Nat) (f : Hem → Hem) (b c : Box) : Prop where
  mem : c.store.mem = b.store.mem
  cores : c.dev.cores = b.dev.cores
  hem : c.dev.hem cl = f (b.dev.hem cl)

theorem Dev.Noted.hem {d e : Dev} (h : d.Noted e) (cl : Nat) : e.hem cl = d.hem cl := by
  obtain ⟨_, _, _, _, rfl⟩ := h
  rfl

theorem Dev.Noted.hemConds (d : Dev) (cl : Nat) (x : Action) (fmt : Nat) (codes : List Nat) : d.Noted (d.hemConds cl x fmt codes) :=
  foldl (fun d _ => condition d ..) codes d

theorem Dev.inScratch_of_cores {d e : Dev} {core h : Nat} (hcores : e.cores = d.cores) (hs : d.InScratch core h) : e.InScratch core h := by
  unfold Dev.InScratch Dev.core at *
  rwa [hcores]

namespace Box.HemWorks

variable {cl : Nat} {f g : Hem → Hem} {b c e : Box}

theorem refl (b : Box) : b.HemWorks cl id b := ⟨rfl, rfl, rfl⟩

theorem trans (h : b.HemWorks cl f c) (h' : c.HemWorks cl g e) : b.HemWorks cl (g ∘ f) e :=
  ⟨h'.mem.trans h.mem, h'.cores.trans h.cores, h'.hem.trans (congrArg g h.hem)⟩

theorem inScratch {core h : Nat} (hw : b.HemWorks cl f c) (hs : b.dev.InScratch core h) : c.dev.InScratch core h :=
  Dev.inScratch_of_cores hw.cores hs

theorem noted {notes : Dev → Dev} (hw : b.HemWorks cl f c) (h : ∀ d : Dev, d.Noted (notes d)) : b.HemWorks cl f (c.onD notes) :=
  hw.trans (g := id) ⟨rfl, (h c.dev).cores, (h c.dev).hem cl⟩

theorem scratchOnly (hw : b.HemWorks cl f c) (h : c.ScratchOnly e) : b.HemWorks cl f e :=
  hw.trans (g := id) ⟨h.mem, congrArg Dev.cores h.dev, congrArg (Dev.hem · cl) h.dev⟩

theorem updHem (hw : b.HemWorks cl f c) (g : Hem → Hem) : b.HemWorks cl (g ∘ f) (c.onD fun d => d.updHem cl g) :=
  hw.trans ⟨rfl, rfl, Dev.updHem_hem_same ..⟩

theorem hemLeave {a : Act} (hw : b.HemWorks (clusterOf a.cs.core) f c) :
    b.HemWorks (clusterOf a.cs.core) (Hem.left a ∘ f) (c.onD fun d => d.hemLeave a) :=
  hw.updHem (Hem.left a)

end Box.HemWorks

theorem Dev.actDone_hem (d : Dev) (a : Act) (cl : Nat) : (d.actDone a).hem cl = d.hem cl := by
  rw [Dev.actDone, Dev.updAction_onlyCores]
  rfl

theorem Dev.actDone_ctx (d : Dev) (a : Act) (n : Nat) : (d.actDone a).ctx n = d.ctx n := by
  rw [Dev.actDone, Dev.updAction_onlyCores]
  rfl

/-- What stands after the work of a Hem's command that left device memory. -/
theorem Box.HemWorks.workDone {s : State} {a : Act} {x : Action} {cl : Nat} {f : Hem → Hem} {b : Box} (h : s.box.HemWorks cl f b)
    (hx : s.dev.action a = some x) :
    let t := s.setBox (b.onD fun d => d.actDone a)
    workDone a x t ∧ memoryKept s t ∧ t.dev.hem cl = f (s.dev.hem cl) := by
  have haction : b.dev.action a = some x := by
    rw [← hx]
    unfold Dev.action Dev.stream Dev.core
    rw [h.cores]
    rfl
  exact ⟨Dev.action_actDone haction, fun i => congrArg (Mem.byte · i) h.mem, (Dev.actDone_hem ..).trans h.hem⟩

/-! ### HEMF (09 R276) -/

/-- The statistics of a row, as its entry holds them. -/
def Action.hemEntry (x : Action) (i : HemIn) (row : Nat) : HemEntry :=
  let y := hemRowF x.desc i row
  ⟨y.1.a, y.1.b, x.ctx, y.2⟩

/-- The Hem once it holds the entry of a row. -/
def Hem.keepRow (x : Action) (i : HemIn) (h : Hem) (row : Nat) : Hem :=
  { h with ents := put h.ents (hemSoff x.desc + row) (x.hemEntry i row) }

/-- The Hem once it holds the entries of the first `n` rows. -/
def Hem.keepRows (x : Action) (i : HemIn) (h : Hem) (n : Nat) : Hem := (List.range n).foldl (Hem.keepRow x i) h

theorem Hem.keepRows_succ (x : Action) (i : HemIn) (h : Hem) (n : Nat) : h.keepRows x i (n + 1) = (h.keepRows x i n).keepRow x i n := by
  rw [Hem.keepRows, List.range_succ, List.foldl_append]
  rfl

theorem Hem.keepRows_q (x : Action) (i : HemIn) (h : Hem) (n : Nat) : (h.keepRows x i n).q = h.q := by
  induction n with
  | zero => rfl
  | succ n ih =>
    rw [Hem.keepRows_succ]
    exact ih

theorem Hem.keepRows_ents (x : Action) (i : HemIn) (h : Hem) {n row : Nat} (hrow : row < n) :
    get? (h.keepRows x i n).ents (hemSoff x.desc + row) = some (x.hemEntry i row) := by
  induction n with
  | zero => omega
  | succ n ih =>
    rw [Hem.keepRows_succ]
    by_cases heq : row = n
    · subst heq
      exact get?_put_same ..
    · exact (get?_put_ne _ _ (by omega)).trans (ih (by omega))

section
variable {a : Act} {x : Action} {i : HemIn} {b : Box}

theorem Box.hemfRow_works (hs : b.dev.InScratch a.cs.core (Insn.hd x.w)) (row : Nat) :
    b.HemWorks (clusterOf a.cs.core) (Hem.keepRow x i · row) (Box.hemfRow a x i b row) := by
  have hentry := fun codes => ((HemWorks.refl (cl := clusterOf a.cs.core) b).noted
    fun d => .hemConds d (clusterOf a.cs.core) x (hemYf x.desc) codes).updHem (Hem.keepRow x i · row)
  unfold Box.hemfRow
  exact (hentry _).scratchOnly (Box.hWriteEls_scratchOnly ((hentry _).inScratch hs) ..)

theorem Box.hemfRows_works (hs : b.dev.InScratch a.cs.core (Insn.hd x.w)) (n : Nat) :
    b.HemWorks (clusterOf a.cs.core) (Hem.keepRows x i · n) ((List.range n).foldl (Box.hemfRow a x i) b) := by
  induction n with
  | zero => exact .refl b
  | succ n ih =>
    simp only [Hem.keepRows_succ, List.range_succ, List.foldl_append, List.foldl_cons, List.foldl_nil]
    exact ih.trans (Box.hemfRow_works (ih.inScratch hs) n)

/-- HEMF keeps the statistics of its rows and leaves the queue. -/
theorem Box.hemfRun_works (hs : b.dev.InScratch a.cs.core (Insn.hd x.w)) :
    b.HemWorks (clusterOf a.cs.core) (fun h => (h.keepRows x (b.hemIn a.cs.core x) x.n0).left a) (b.hemfRun a x) := by
  have hcrease := (HemWorks.refl (cl := clusterOf a.cs.core) b).noted fun d => .creaseHs d (boltOf a.cs.core) 3
  exact (hcrease.trans (Box.hemfRows_works (hcrease.inScratch hs) x.n0)).hemLeave

/-! ### HEMB (09 R275, R277) -/

theorem Box.HemWorks.hemAccum {cl : Nat} {f : Hem → Hem} {c : Box} (hw : b.HemWorks cl f c) (hs : b.dev.InScratch a.cs.core (Insn.hc x.w))
    (off : Nat) (add : List W32) (bad : Bool) : b.HemWorks cl f (c.hemAccum a x off add bad) := by
  have hnotes := fun codes => hw.noted fun d => .hemConds d (clusterOf a.cs.core) x 0 codes
  unfold Box.hemAccum
  split
  · exact hw
  · exact (hnotes _).scratchOnly (Box.hPutEls_scratchOnly ((hnotes _).inScratch hs) ..)

section
variable (hd : b.dev.InScratch a.cs.core (Insn.hd x.w)) (hc : b.dev.InScratch a.cs.core (Insn.hc x.w))
include hd hc

theorem Box.hembRow_works (cl row : Nat) : b.HemWorks cl id (Box.hembRow a x i b row) := by
  have hnotes := fun codes => (HemWorks.refl (cl := cl) b).noted
    fun d => .hemConds d (clusterOf a.cs.core) x (hemDxf x.desc) codes
  unfold Box.hembRow
  dsimp only
  split
  · exact .refl b
  · have hdx := fun codes n els => (hnotes codes).scratchOnly
      (Box.hWriteEls_scratchOnly ((hnotes codes).inScratch hd) x.ctx a (hemDxf x.desc) 0 n els)
    exact ((hdx _ _ _).hemAccum hc ..).hemAccum hc ..

theorem Box.hembRows_works (cl : Nat) (rows : List Nat) : b.HemWorks cl id (rows.foldl (Box.hembRow a x i) b) :=
  List.foldlRecOn rows _ (motive := b.HemWorks cl id) (.refl b) fun _ h row _ =>
    h.trans (Box.hembRow_works (h.inScratch hd) (h.inScratch hc) cl row)

/-- HEMB with all its entries leaves the queue. -/
theorem Box.hembRun_works (hmiss : b.dev.hemMissing (clusterOf a.cs.core) x = none) :
    b.HemWorks (clusterOf a.cs.core) (Hem.left a) (b.hembRun a x) := by
  have hcrease := (HemWorks.refl (cl := clusterOf a.cs.core) b).noted fun d => .creaseHs d (boltOf a.cs.core) 3
  unfold Box.hembRun
  simp only [hmiss]
  exact (hcrease.trans (Box.hembRows_works (hcrease.inScratch hd) (hcrease.inScratch hc) _ _)).hemLeave

end

/-- HEMB with a missing entry does the rows before it and stops its context. -/
theorem Box.hembRun_missing {row : Nat} (hmiss : b.dev.hemMissing (clusterOf a.cs.core) x = some row) :
    b.hembRun a x = ((List.range row).foldl (Box.hembRow a x (b.hemIn a.cs.core x))
      (b.onD fun d => d.creaseHs (boltOf a.cs.core) 3)).hemFault (clusterOf a.cs.core) x row := by
  unfold Box.hembRun
  simp only [hmiss, Option.getD_some]

theorem Box.hemFault_dead (b : Box) (cl : Nat) (x : Action) (row : Nat) : ((b.hemFault cl x row).dev.ctx x.ctx).live = false :=
  Box.stopNow_dead ..

end

/-! ### The commands -/

section
variable {a : Act} {x : Action} {ecc : List ScrEcc} {s : State} (hecc : noErrors ecc) (hready : ready a x (hemReads a.cs.core x) s)
  (hturn : s.dev.hemTurn a = true)
include hecc hready hturn

theorem exec_hemf (hopc : Insn.opc x.w = 0x53) :
    exec (.hemf a ecc) s = .next (s.setBox ((s.box.hemfRun a x).onD fun d => d.actDone a)) := by
  unfold State.dev at hturn
  change execHemf a s ecc = _
  rw [execHemf, State.on_eq, Box.workRead_ready hready (by simp [isOp, hopc, hturn]) hecc]

theorem exec_hemb (hopc : Insn.opc x.w = 0x54) :
    exec (.hemb a ecc) s = .next (s.setBox ((s.box.hembRun a x).onD fun d => d.actDone a)) := by
  unfold State.dev at hturn
  change execHemb a s ecc = _
  rw [execHemb, State.on_eq, Box.workRead_ready hready (by simp [isOp, hopc, hturn]) hecc]

end

/-- Settles O29: HEMF keeps the entries of its rows (`Box.hemfRun_works`, `Hem.keepRows_ents`); HEMB leaves the queue
(`Box.hembRun_works`), or stops its context at the first missing entry (`Box.hembRun_missing`). -/
theorem hemRowsAndStatistics : Obligations.HemRowsAndStatistics := by
  unfold Obligations.HemRowsAndStatistics
  intro a x ecc s hecc hready hturn cl
  refine ⟨fun hopc => ⟨_, exec_hemf hecc hready hturn hopc, rfl, fun hd => ?_⟩,
    fun hopc hmiss => ⟨_, exec_hemb hecc hready hturn hopc, rfl, fun hd hc => ?_⟩,
    fun hopc row hmiss => ⟨_, exec_hemb hecc hready hturn hopc, ?_⟩⟩
  · obtain ⟨hdone, hmem, hhem⟩ := (Box.hemfRun_works (b := s.box) hd).workDone hready.1
    refine ⟨hdone, hmem, fun row hrow => ?_, ?_⟩
    · rw [hhem]
      exact Hem.keepRows_ents x _ _ hrow
    · rw [hhem, Hem.left, Hem.keepRows_q]
  · obtain ⟨hdone, hmem, hhem⟩ := (Box.hembRun_works (b := s.box) hd hc hmiss).workDone hready.1
    exact ⟨hdone, hmem, congrArg Hem.q hhem⟩
  · rw [Box.hembRun_missing (b := s.box) hmiss, State.setBox_dev, Box.onD_dev, Dev.actDone_ctx]
    exact ⟨Box.hemFault_dead .., rfl⟩

end Sys2Proof.Machine

/-! SUPPORT. The Presses: the turn of a PRESS, which leaves its queue, and the norm phase over clean elements (09 R279, R281, R287,
R290). -/

namespace Sys2Proof.Machine

open Sys2Proof.Safety

/-- The box when the action has left the queue of its Press. -/
def Box.leftPress (b : Box) (a : Act) (x : Action) : Box := b.onD fun d => d.pressLeave a x.unit

/-- The command that a PRESS of the record takes: the norm phase or the update phase. -/
def pressCommand (a : Act) (x : Action) : Instr := if prNorm x.desc then .pressNorm a else .pressUpdate a

/-- What the command does with COUNT not 0. -/
def Box.pressRun (b : Box) (a : Act) (x : Action) : Box := if prNorm x.desc then b.pressNormRun x else b.pressUpdateRun a x

/-- A turn of a Press: with COUNT 0 nothing is done, else the work of the phase. -/
theorem press_answers {a : Act} {x : Action} {s : State} (hready : ready a x [] s) (hopc : Insn.opc x.w = 0x69)
    (hturn : s.dev.pressTurn a x.unit = true) :
    exec (pressCommand a x) s = .next (s.setBox ((if x.n1 = 0 then s.box.leftPress a x else (s.box.leftPress a x).pressRun a x).onD
      fun d => d.actDone a)) := by
  unfold State.dev at hturn
  unfold pressCommand Box.pressRun
  cases hnorm : prNorm x.desc with
  | true =>
    change execPressNorm a s = _
    rw [execPressNorm, State.on_eq, Box.work, Box.gate_ready hready (by simp [isOp, hopc, hnorm, hturn])]
    rfl
  | false =>
    change execPressUpdate a s = _
    rw [execPressUpdate, State.on_eq, Box.work, Box.gate_ready hready (by simp [isOp, hopc, hnorm, hturn])]
    rfl

/-- A PRESS that does nothing but leave its queue. -/
theorem leftPress_only {a : Act} {x : Action} {s : State} (hx : s.dev.action a = some x) :
    let t := s.setBox ((s.box.leftPress a x).onD fun d => d.actDone a)
    workDone a x t ∧ sameStore s t
      ∧ t.dev = { s.dev with cores := t.dev.cores, presses := t.dev.presses, ahead := t.dev.ahead } := by
  refine ⟨?_, ⟨rfl, rfl⟩, ?_⟩
  · exact Dev.action_actDone (d := s.dev.pressLeave a x.unit) hx
  · rw [State.setBox_dev, Box.onD_dev, Dev.actDone, Dev.updAction_onlyCores]
    rfl

/-- The elements of the range that are not frozen. -/
def Box.openEls (b : Box) (x : Action) : List Nat := (span x.n0 x.n1).filter fun e => !b.frozen x.desc e

/-- The norm phase over clean elements adds their sum of squares to a clean element. -/
theorem Box.pressNormRun_clean {b : Box} {x : Action} {tg tn : Tens} (hg : b.dev.named (prDg x.desc) = some tg)
    (hn : b.dev.named (prDn x.desc) = some tn) (hclean : ∀ e ∈ b.openEls x, (b.tVal tg e).poison = false)
    (hold : (b.tVal tn (prNidx x.desc)).poison = false) :
    let y := pAdd (pc (b.tVal tn (prNidx x.desc)).v) (b.normSum tg x.press.gscale (b.openEls x))
    b.pressNormRun x = (b.onD fun d => d.pressConds x 0 y.2).engPut x.ctx (pressDie x.unit) (pressOf x.unit) tn
      [(prNidx x.desc, y.1.toNat, false)] := by
  have hnone : ((b.openEls x).any fun e => (b.tVal tg e).poison) = false := by
    rw [List.any_eq_false]
    intro e he
    simp [hclean e he]
  have hall : ((b.openEls x).filter fun e => !(b.tVal tg e).poison) = b.openEls x := by
    rw [List.filter_eq_self]
    intro e he
    simp [hclean e he]
  unfold Box.openEls at hnone hall
  unfold Box.pressNormRun
  simp only [hg, hn, hnone, hall, hold, Bool.or_self]
  rfl

/-- Settles O32: each command is one turn of its Press (`press_answers`); over clean elements the norm phase writes the sum
(`Box.pressNormRun_clean`). -/
theorem pressActionsRun : Obligations.PressActionsRun := by
  unfold Obligations.PressActionsRun
  intro a x s hready hopc hturn b c
  have hrun : exec c s = _ := press_answers hready hopc hturn
  refine ⟨fun hn => ⟨_, hrun, ?_⟩, fun hn hnorm => ⟨_, hrun, ?_⟩, fun hn hnorm tg tn hg htn hclean hold => ⟨_, hrun, ?_⟩⟩
  · rw [if_pos hn]
    exact leftPress_only hready.1
  · rw [if_neg hn, Box.pressRun, hnorm, if_neg Bool.false_ne_true]
    rfl
  · rw [if_neg hn, Box.pressRun, if_pos hnorm, Box.pressNormRun_clean (b := s.box.leftPress a x) hg htn hclean hold]
    rfl

end Sys2Proof.Machine

/-! SUPPORT. The upkeep of the Spools' channels: what it leaves of the device, how long a record stays in the ring when others follow it,
and what becomes of a request for a channel (11 R340 to R346; 17 R506 to R508). -/

namespace Sys2Proof.Machine

open Sys2Proof.Safety

/-! ### A record that others follow (17 R506, R508) -/

/-- At most `n` records have been appended, and an old one is gone only when its slot was taken. -/
structure MbSt.Appended (n : Nat) (x y : MbSt) : Prop where
  later : x.head ≤ y.head
  most : y.head ≤ x.head + n
  kept : ∀ r ∈ x.ring, y.head ≤ r.seq + 8192 → r ∈ y.ring

namespace MbSt.Appended

theorem refl (x : MbSt) : x.Appended 0 x := ⟨Nat.le_refl _, Nat.le_refl _, fun _ h _ => h⟩

theorem trans {n k : Nat} {x y z : MbSt} (h : x.Appended n y) (h' : y.Appended k z) : x.Appended (n + k) z := by
  have hyz := h'.later
  have hmost := h'.most
  have hxy := h.most
  exact ⟨h.later.trans hyz, by omega, fun r hr hz => h'.kept r (h.kept r hr (hyz.trans hz)) hz⟩

theorem append {x : MbSt} {r : Rec} (hr : r.seq = x.head) : x.Appended 1 (x.append r) := by
  have hhead : (x.append r).head = x.head + 1 := congrArg (· + 1) hr
  exact ⟨by omega, by omega, fun y hy hz => MbSt.mem_append_ring.mpr (.inl ⟨hy, by omega⟩)⟩

theorem drainAll (d : Dev) : d.mb.Appended 1 d.mbDrainAll.mb := by
  have hnone : d.mb.Appended 1 d.mb := ⟨Nat.le_refl _, Nat.le_succ _, fun _ h _ => h⟩
  unfold Dev.mbDrainAll
  split
  · exact hnone
  · dsimp only
    split
    · exact ⟨hnone.later, hnone.most, hnone.kept⟩
    · refine ⟨Nat.le_succ _, Nat.le_refl _, fun r hr hz => MbSt.mem_append_ring.mpr (.inl ⟨hr, hz⟩)⟩

theorem raise (d : Dev) (code die : Nat) (fw : Bool) (ctx : Option Nat) (l : List Int) :
    d.mb.Appended 2 (d.raise code die fw ctx l).mb := by
  have hkeep : d.mb.Appended 1 (d.keep (d.form code die fw ctx l (d.trigFor code ctx))).mb := append rfl
  have hone : d.mb.Appended 2 (d.keep (d.form code die fw ctx l (d.trigFor code ctx))).mb :=
    ⟨hkeep.later, hkeep.most.trans (Nat.le_succ _), hkeep.kept⟩
  unfold Dev.raise
  dsimp only
  split
  · unfold Dev.mbDrainer
    split
    · exact hone
    · exact hkeep.trans (drainAll _)
  · exact hone

theorem foldl_raise {α : Type} {f : Dev → α → Dev} (h : ∀ (d : Dev) (a : α), d.mb.Appended 2 (f d a).mb) (l : List α) (d : Dev) :
    d.mb.Appended (2 * l.length) (l.foldl f d).mb := by
  induction l generalizing d with
  | nil => exact refl _
  | cons a t ih =>
    have hlen : 2 * (a :: t).length = 2 + 2 * t.length := by rw [List.length_cons]; omega
    rw [hlen]
    exact (h d a).trans (ih _)

end MbSt.Appended

/-- An event is recorded, its record being one of the last 8,192. -/
theorem recorded_of_appended {s t : State} {d : Dev} {n code die : Nat} {fw : Bool} {ctx : Option Nat} {l : List Int}
    (hmb : d.mb = s.dev.mb) (ht : (d.raise code die fw ctx l).mb.Appended n t.dev.mb) (hn : n ≤ 8190) : recorded code ctx l s t := by
  have hring := d.form_mem_raise_ring code die fw ctx l
  have hraise := (MbSt.Appended.raise d code die fw ctx l).most
  have hmost := ht.most
  refine ⟨_, ht.kept _ hring ?_, le_of_eq (congrArg MbSt.head hmb.symm), rfl, rfl, rfl⟩
  change t.dev.mb.head ≤ d.mb.head + 8192
  omega

theorem Dev.refreshAdvice_appended (d : Dev) : d.mb.Appended 12 d.refreshAdvice.mb := by
  have hadvice : ∀ (p : Nat → Bool) (f : Nat → List Int) (e : Dev), e.mb = d.mb →
      d.mb.Appended 12 (((List.range 6).filter p).foldl (fun d i => d.evFw 0x700D none (f i)) e).mb := by
    intro p f e he
    obtain ⟨hlater, hmost, hkept⟩ := MbSt.Appended.foldl_raise (f := fun (d : Dev) i => d.evFw 0x700D none (f i))
      (fun d i => .raise d ..) ((List.range 6).filter p) e
    rw [he] at hlater hmost hkept
    exact ⟨hlater, hmost.trans (Nat.add_le_add_left (Nat.mul_le_mul_left 2 (List.length_filter_le ..)) _), hkept⟩
  exact hadvice _ _ _ rfl

/-! ### What the upkeep leaves (11 R340 to R346) -/

/-- Beside the Spools, the service advice, and the Measure Book with the exit from Hold that its records start, nothing differs. -/
def Dev.Maintained (d e : Dev) : Prop :=
  ∃ spools health mb wake, e = { d with spools := spools, health := health, mb := mb, power := { d.power with wake := wake } }

namespace Dev.Maintained

theorem refl (d : Dev) : d.Maintained d := ⟨_, _, _, _, rfl⟩

theorem trans {d e f : Dev} (h : d.Maintained e) (h' : e.Maintained f) : d.Maintained f := by
  obtain ⟨_, _, _, _, rfl⟩ := h
  obtain ⟨_, _, _, _, rfl⟩ := h'
  exact ⟨_, _, _, _, rfl⟩

theorem raise (d : Dev) (code die : Nat) (fw : Bool) (ctx : Option Nat) (l : List Int) : d.Maintained (d.raise code die fw ctx l) :=
  ⟨_, _, _, _, d.raise_frame code die fw ctx l⟩

theorem setSpool (d : Dev) (m : Nat) (x : Spool) : d.Maintained (d.setSpool m x) := ⟨_, _, _, _, rfl⟩

theorem updSpool (d : Dev) (m : Nat) (f : Spool → Spool) : d.Maintained (d.updSpool m f) := setSpool ..

theorem refreshAdvice (d : Dev) : d.Maintained d.refreshAdvice := by
  unfold Dev.refreshAdvice
  exact trans ⟨_, _, _, _, rfl⟩ (List.foldlRecOn _ _ (motive := Dev.Maintained _) (refl _) fun _ he _ _ => he.trans (raise ..))

theorem startDarning (d : Dev) (m : Nat) (r : ChanReq) : d.Maintained (d.startDarning m r) :=
  ((setSpool ..).trans (raise ..)).trans (refreshAdvice _)

end Dev.Maintained

@[simp] theorem Dev.refreshAdvice_spool (d : Dev) (j : Nat) : d.refreshAdvice.spool j = d.spool j := by
  unfold Dev.refreshAdvice
  exact List.foldlRecOn _ _ (motive := fun e : Dev => e.spool j = d.spool j) rfl fun _ he _ _ => (Dev.raise_spool_of ..).trans he

@[simp] theorem Dev.updSpool_spool_same (d : Dev) (m : Nat) (f : Spool → Spool) : (d.updSpool m f).spool m = f (d.spool m) :=
  Dev.setSpool_spool_same ..

/-! ### Requests (11 R340, R344, R345) -/

/-- What becomes of a request does not depend on the requests that wait. -/
theorem Dev.chanChoice_congr {d e : Dev} {m : Nat} {l : List ChanReq} (hspool : e.spool m = { d.spool m with waiting := l })
    (hctxs : e.ctxs = d.ctxs) (htape : e.tape = d.tape) (r : ChanReq) : e.chanChoice m r = d.chanChoice m r := by
  unfold Dev.chanChoice Dev.inplaceOk Dev.heldBy Dev.now
  rw [hspool, hctxs, htape]
  rfl

/-- The Darning that a request starts (R342; log 37). -/
def Spool.darningFor (s : Spool) (r : ChanReq) (now : Nat) : Darn :=
  { logical := r.logical, src := s.phys r.logical, tgt := s.spares.headD 0, mark := 0, retire := r.retire, start := now
    mode := r.mode, byCmd := r.byCmd }

/-- A Spool whose Darning begins (R342). -/
def Spool.darningBegun (s : Spool) (r : ChanReq) (now : Nat) : Spool :=
  let x := s.darningFor r now
  ((({ s with darn := some x }).updChan x.src fun c => { c with darnings := satAdd 16 c.darnings 1 }).updChan x.tgt fun c =>
    { c with role := 2, darnings := satAdd 16 c.darnings 1 })

/-- The event of a Darning's begin, on the device whose Spool has begun it. -/
theorem Dev.startDarning_eq (d : Dev) (m : Nat) (r : ChanReq) : d.startDarning m r =
    ((d.setSpool m ((d.spool m).darningBegun r d.now)).ev 0x4004 (dieSpool m) none
      [m, r.logical, (d.spool m).phys r.logical, ((d.spool m).spares.headD 0 : Nat), boolN r.retire]).refreshAdvice := rfl

@[simp] theorem Dev.startDarning_spool (d : Dev) (m : Nat) (r : ChanReq) :
    (d.startDarning m r).spool m = (d.spool m).darningBegun r d.now := by
  rw [Dev.startDarning_eq, Dev.refreshAdvice_spool, Dev.ev_eq, Dev.raise_spool_of, Dev.setSpool_spool_same]

theorem Dev.startDarning_recorded {s t : State} {d : Dev} {m : Nat} {r : ChanReq} (hmb : d.mb = s.dev.mb) (ht : t.dev = d.startDarning m r) :
    recorded 0x4004 none [m, r.logical, (d.spool m).phys r.logical, ((d.spool m).spares.headD 0 : Nat), boolN r.retire] s t := by
  refine recorded_of_appended (d := d.setSpool m ((d.spool m).darningBegun r d.now)) (n := 12) (die := dieSpool m) (fw := false) hmb ?_ (by decide)
  rw [ht, Dev.startDarning_eq]
  exact Dev.refreshAdvice_appended _

/-- Which collectives are near depends on the fabric, the cores and the contexts (R75). -/
theorem Dev.nearColls_congr {d e : Dev} (hfab : e.fab = d.fab) (hcores : e.cores = d.cores) (hctxs : e.ctxs = d.ctxs) :
    e.nearColls = d.nearColls := by
  unfold Dev.nearColls Dev.plan Dev.ctx
  rw [hfab, hcores, hctxs]

/-- With no collective near, a lateness notice is its event (02 R75). -/
theorem Dev.lateNotice_quiet {d : Dev} (h : d.nearColls = []) (die cause ns : Nat) (hit : Near → Bool) :
    d.lateNotice die cause ns hit = d.ev 0x900C die none [ns, cause] := by
  unfold Dev.lateNotice
  rw [h]
  rfl

/-- A Spool whose retrain in place has been announced for a Tape value. -/
def Spool.stallAnnounced (s : Spool) (r : ChanReq) (notice : Nat) : Spool :=
  { s with inplace := some ⟨r.logical, notice, none, r.byCmd⟩ }

/-- The Tape value that the notice of a retrain in place names (R345; log 36). -/
def Dev.stallNotice (d : Dev) : Nat := d.now + 100000 + (Config.freeWord d.mb.head 0x4007).toNat % 100001

theorem Dev.stallNotice_bounds (d : Dev) : d.now + 100000 ≤ d.stallNotice ∧ d.stallNotice ≤ d.now + 200000 := by
  unfold Dev.stallNotice
  omega

section
variable {d : Dev} (hnear : d.nearColls = []) (m : Nat) (r : ChanReq)
include hnear

theorem Dev.announceStall_quiet : ∃ slots slots', d.announceStall m r =
    ((d.setSpool m ((d.spool m).stallAnnounced r d.stallNotice)).ev 0x900C (dieSpool m) none slots).ev 0x4007 (dieSpool m) none slots' := by
  have hquiet : (d.setSpool m ((d.spool m).stallAnnounced r d.stallNotice)).nearColls = [] :=
    (Dev.nearColls_congr rfl rfl rfl).trans hnear
  exact ⟨_, _, congrArg (fun e : Dev => e.ev 0x4007 (dieSpool m) none [m, r.logical, (e.spool m).phys r.logical, d.stallNotice])
    (Dev.lateNotice_quiet hquiet ..)⟩

theorem Dev.Maintained.announceStall : d.Maintained (d.announceStall m r) := by
  obtain ⟨slots, slots', heq⟩ := Dev.announceStall_quiet hnear m r
  rw [heq]
  exact ((setSpool ..).trans (raise ..)).trans (raise ..)

theorem Dev.announceStall_spool : (d.announceStall m r).spool m = (d.spool m).stallAnnounced r d.stallNotice := by
  obtain ⟨slots, slots', heq⟩ := Dev.announceStall_quiet hnear m r
  rw [heq, Dev.ev_eq, Dev.raise_spool_of, Dev.ev_eq, Dev.raise_spool_of, Dev.setSpool_spool_same]

end

end Sys2Proof.Machine

/-! SUPPORT. The commands of the Spools: regions with their frames, what a request for a channel starts, and the record of a channel test
(11 R323 to R328, R340 to R349, R352). -/

namespace Sys2Proof.Machine

open Sys2Proof.Safety

/-! ### Frames (11 R323) -/

theorem Dev.foldl_updSpool (f : Nat → Spool → Spool) (l : List Nat) (d : Dev) : l.foldl (fun d m => d.updSpool m (f m)) d =
    { d with spools := l.foldl (fun t m => upd t m .init (f m)) d.spools } := by
  induction l generalizing d with
  | nil => rfl
  | cons m t ih => exact ih _

/-- The Spools with other counts of free frames. -/
def withFree (f : Nat → Nat → Nat) (t : Tbl Spool) : Tbl Spool :=
  (List.range 8).foldl (fun t m => upd t m .init fun s => { s with free := f m s.free }) t

theorem Dev.takeFrames_eq (d : Dev) (units : Nat) (spool : Option Nat) :
    d.takeFrames units spool = { d with spools := withFree (fun m n => n - framesIn units spool m) d.spools } :=
  Dev.foldl_updSpool ..

theorem Dev.giveFrames_eq (d : Dev) (units : Nat) (spool : Option Nat) :
    d.giveFrames units spool = { d with spools := withFree (fun m n => n + framesIn units spool m) d.spools } :=
  Dev.foldl_updSpool ..

theorem spool_withFree {d e : Dev} {f : Nat → Nat → Nat} (he : e.spools = withFree f d.spools) {m : Nat} (hm : m < 8) :
    e.spool m = { d.spool m with free := f m (d.spool m).free } := by
  unfold Dev.spool
  rw [he]
  exact getD_foldl_upd_of_mem (key := id) (by rw [List.map_id]; exact List.nodup_range) (List.mem_range.mpr hm) d.spools

/-- The device with a new region and its frames taken. -/
def Dev.withRegion (d : Dev) (r : Region) : Dev :=
  { d with spools := withFree (fun m n => n - framesIn r.units r.spool m) d.spools, regions := d.regions ++ [r] }

/-- The device without a region, its frames given back. -/
def Dev.withoutRegion (d : Dev) (r : Region) : Dev :=
  { d with
    spools := withFree (fun m n => n + framesIn r.units r.spool m) d.spools
    regions := d.regions.filter (·.base != r.base) }

theorem Dev.withRegion_free (d : Dev) (r : Region) {m : Nat} (hm : m < 8) :
    ((d.withRegion r).spool m).free = (d.spool m).free - framesIn r.units r.spool m :=
  congrArg Spool.free (spool_withFree (d := d) (f := fun m n => n - framesIn r.units r.spool m) rfl hm)

theorem Dev.withoutRegion_free (d : Dev) (r : Region) {m : Nat} (hm : m < 8) :
    ((d.withoutRegion r).spool m).free = (d.spool m).free + framesIn r.units r.spool m :=
  congrArg Spool.free (spool_withFree (d := d) (f := fun m n => n + framesIn r.units r.spool m) rfl hm)

/-! ### A failure and a command that goes on -/

theorem taken_of_queues {opc : Nat} {c : Ici} {s t : State} (h : t.dev.queues = (s.dev.takeAccepted opc c).queues) : taken opc c s t := by
  have hqueue : ∀ j, t.dev.queue j = (s.dev.takeAccepted opc c).queue j := fun j => congrArg (fun t => getD t j Queue.init) h
  refine ⟨?_, fun j hj => ?_⟩
  · rw [hqueue, takeAccepted_queue, if_pos rfl]
  · rw [hqueue, takeAccepted_queue, if_neg hj]

section
variable {opc : Nat} {c : Ici} {needs : Bool} {s : State} (h : performs opc c needs s)
include h

/-- A command that fails with its event leaves regions and Spools. -/
theorem ici_fails {f : Pend → Box → Box} {ev : Nat} {slots : List Int} (hf : f (Ici.pend opc c) (s.performing opc c)
      = (s.performing opc c).fail (Ici.pend opc c) ev none slots) :
    ∃ t, s.ici opc c needs f = .next t ∧ sameStore s t ∧ t.dev.regions = s.dev.regions ∧ t.dev.spools = s.dev.spools
      ∧ answers opc c 1 ev 0 0 s t ∧ recorded ev none slots s t := by
  obtain ⟨hstore, -, -, hans, hrec⟩ := failCmd_answers h ev slots 0
  refine ⟨_, ici_performing h hf, hstore, ?_, ?_, hans, hrec⟩
  · exact (Dev.complete_regions ..).trans (Dev.raise_regions ..)
  · exact (Dev.complete_spools ..).trans (Dev.raise_spools ..)

end

theorem Dev.protector_congr {d e : Dev} (h : e.bastes = d.bastes) (g : Nat) : e.protector g = d.protector g := by
  unfold Dev.protector
  rw [h]

/-- A result written and a success, of a command that has changed the device otherwise. -/
theorem ok_wrote_of_protector {opc : Nat} {c : Ici} {s : State} (hok : memoryOk s) {d : Dev} {a : Nat} {l : List Byte}
    (hprot : ∀ g ∈ granulesOf a l.length, d.protector g = none) (hqueues : d.queues = (s.dev.takeAccepted opc c).queues)
    (hbare : d.bare = false) :
    let t := s.setBox ((Box.wrClean ⟨s.store, d⟩ a l).ok (Ici.pend opc c))
    wrote a l s t ∧ succeeds opc c s t ∧ t.dev.mb = d.mb := by
  rw [Box.wrClean_unprotected (b := ⟨s.store, d⟩) hprot]
  exact ⟨wrote_wrMem hok rfl, answers_ok hqueues hbare 0 0, Dev.complete_mb ..⟩

/-! ### SPOOL_ALLOC (11 R323 to R327) -/

/-- The memory of a new region: zeros, or content that is undefined. -/
def Store.newRegion (x : Store) (zero : Bool) (a n : Nat) : Store := if zero then x.zeroMem a n else x.undefMem a n

theorem Store.newRegion_byte_outside {x : Store} (hx : x.wf = true) (zero : Bool) {a n i : Nat} (hi : ¬(a ≤ i ∧ i < a + n)) :
    (x.newRegion zero a n).mem.byte i = x.mem.byte i := by
  obtain ⟨hmem, -⟩ := (Store.wf_iff x).mp hx
  cases zero with
  | false => exact (Mem.byte_undefine _ _ _ _ _ hmem).trans (if_neg hi)
  | true => exact (Mem.byte_zero _ _ _ _ hmem).trans (if_neg hi)

theorem Store.newRegion_byte_zero {x : Store} (hx : x.wf = true) {a n i : Nat} (hi : a ≤ i ∧ i < a + n) :
    (x.newRegion true a n).mem.byte i = 0 := by
  obtain ⟨hmem, -⟩ := (Store.wf_iff x).mp hx
  exact (Mem.byte_zero _ _ _ _ hmem).trans (if_pos hi)

/-- The Spool to which an allocation keeps, or none (R326). -/
def allocSpool (p : BitVec 384) : Option Nat := if payBits p 12 0 1 = 1 then some (payBits p 13 0 3) else none

/-- The region that an allocation makes. -/
def allocRegion (p : BitVec 384) : Region := ⟨pay p 0 8, pay p 8 4, allocSpool p⟩

section
variable {c : Ici} {s : State} (h : performs 0x0401 c (bitOf c.p 97) s) (hlow : 1 ≤ pay c.p 8 4) (hhigh : pay c.p 8 4 ≤ 293888)
  (hmode : payBits c.p 12 0 1 = 0 → payBits c.p 13 0 3 = 0)
include hlow hhigh hmode

/-- The checks of the fields find nothing; then the range decides. -/
theorem performing_spoolAlloc : (s.performing 0x0401 c).spoolAlloc (Ici.pend 0x0401 c) c.p =
    match (s.dev.takeAccepted 0x0401 c).allocFault (pay c.p 0 8) (pay c.p 8 4) (allocSpool c.p) with
    | some why => (s.performing 0x0401 c).fail (Ici.pend 0x0401 c) 0x4010 none
        [pay c.p 0 8, pay c.p 8 4, payBits c.p 12 0 1, payBits c.p 13 0 3, why]
    | none => Box.ok ⟨s.store.newRegion (bitOf c.p 97) (pay c.p 0 8) (pay c.p 8 4 * unit2M),
        (s.dev.takeAccepted 0x0401 c).withRegion (allocRegion c.p)⟩ (Ici.pend 0x0401 c) := by
  have hbit : payBits c.p 12 0 1 < 2 := Nat.mod_lt _ (by decide)
  unfold Box.spoolAlloc
  dsimp only
  rw [Box.fields_pass]
  · simp only [Dev.takeFrames_eq]
    rfl
  · simp only [List.forall_mem_cons, decide_eq_true_eq, Bool.or_eq_true, beq_iff_eq]
    exact ⟨⟨hlow, hhigh⟩, by omega, List.forall_mem_nil _⟩

include h

theorem spoolAlloc_allocates (hok : memoryOk s)
    (hfault : (s.dev.takeAccepted 0x0401 c).allocFault (pay c.p 0 8) (pay c.p 8 4) (allocSpool c.p) = none) :
    ∃ t, exec (.spoolAlloc c) s = .next t ∧ t.pending = s.pending ∧ succeeds 0x0401 c s t
      ∧ t.dev.regions = s.dev.regions ++ [allocRegion c.p] ∧ memSame (pay c.p 0 8) (pay c.p 8 4 * 2097152) s t
      ∧ (∀ m, m < 8 → (t.dev.spool m).free = (s.dev.spool m).free - framesIn (pay c.p 8 4) (allocSpool c.p) m)
      ∧ (bitOf c.p 97 = true → ∀ x, pay c.p 0 8 ≤ x → x < pay c.p 0 8 + pay c.p 8 4 * 2097152 → t.store.mem.byte x = 0) := by
  have halloc := performing_spoolAlloc (s := s) hlow hhigh hmode
  simp only [hfault] at halloc
  refine ⟨_, ici_performing h (f := fun k b => b.spoolAlloc k c.p) halloc, rfl, answers_ok ?_ ?_ 0 0,
    Dev.complete_regions .., fun i hi => Store.newRegion_byte_outside hok _ hi, fun m hm => ?_, fun hzero x hlo hhi => ?_⟩
  · rfl
  · exact performs_bare h
  · exact (congrArg Spool.free (Dev.complete_spool_of ..)).trans ((s.dev.takeAccepted 0x0401 c).withRegion_free _ hm)
  · exact (congrArg (fun z => (s.store.newRegion z (pay c.p 0 8) (pay c.p 8 4 * unit2M)).mem.byte x) hzero).trans
      (Store.newRegion_byte_zero hok ⟨hlo, hhi⟩)

theorem spoolAlloc_fails {why : Nat}
    (hfault : (s.dev.takeAccepted 0x0401 c).allocFault (pay c.p 0 8) (pay c.p 8 4) (allocSpool c.p) = some why) :
    ∃ t, exec (.spoolAlloc c) s = .next t ∧ sameStore s t ∧ t.dev.regions = s.dev.regions ∧ answers 0x0401 c 1 0x4010 0 0 s t
      ∧ recorded 0x4010 none [pay c.p 0 8, pay c.p 8 4, payBits c.p 12 0 1, payBits c.p 13 0 3, why] s t := by
  have halloc := performing_spoolAlloc (s := s) hlow hhigh hmode
  simp only [hfault] at halloc
  obtain ⟨t, hrun, hstore, hregions, -, hans, hrec⟩ := ici_fails h (f := fun k b => b.spoolAlloc k c.p) halloc
  exact ⟨t, hrun, hstore, hregions, hans, hrec⟩

end

/-! ### SPOOL_FREE (11 R328) -/

section
variable {c : Ici} {s : State} {r : Region} (h : performs 0x0402 c false s)
  (hfind : s.dev.regions.find? (fun r => r.base == pay c.p 0 8) = some r)
include h hfind

omit h in
theorem performing_spoolFree : (s.performing 0x0402 c).spoolFree (Ici.pend 0x0402 c) c.p =
    match (s.dev.takeAccepted 0x0402 c).regionUse r with
    | some u => (s.performing 0x0402 c).fail (Ici.pend 0x0402 c) 0x4011 none [r.base, u]
    | none => (s.performing 0x0402 c).onD fun _ => ((s.dev.takeAccepted 0x0402 c).withoutRegion r).okCmd (Ici.pend 0x0402 c) := by
  have hbase : r.base = pay c.p 0 8 := by simpa using List.find?_some hfind
  have hfind' : (s.performing 0x0402 c).dev.regions.find? (·.base == pay c.p 0 8) = some r := hfind
  unfold Box.spoolFree
  dsimp only
  rw [hfind', ← hbase]
  simp only [Dev.giveFrames_eq]
  rfl

theorem spoolFree_frees (huse : (s.dev.takeAccepted 0x0402 c).regionUse r = none) :
    ∃ t, exec (.spoolFree c) s = .next t ∧ sameStore s t ∧ succeeds 0x0402 c s t
      ∧ t.dev.regions = s.dev.regions.filter (fun x => x.base != r.base)
      ∧ ∀ m, m < 8 → (t.dev.spool m).free = (s.dev.spool m).free + framesIn r.units r.spool m := by
  have hfreed := performing_spoolFree hfind
  rw [huse] at hfreed
  obtain ⟨hstore, hok, hdev⟩ := okCmd_answers h (d := (s.dev.takeAccepted 0x0402 c).withoutRegion r) rfl rfl
  refine ⟨_, ici_performing h (f := fun k b => b.spoolFree k c.p) hfreed, hstore, hok, congrArg Dev.regions hdev, fun m hm => ?_⟩
  exact (congrArg Spool.free (Dev.complete_spool_of ..)).trans ((s.dev.takeAccepted 0x0402 c).withoutRegion_free r hm)

theorem spoolFree_fails {u : Nat} (huse : (s.dev.takeAccepted 0x0402 c).regionUse r = some u) :
    ∃ t, exec (.spoolFree c) s = .next t ∧ sameStore s t ∧ t.dev.regions = s.dev.regions
      ∧ answers 0x0402 c 1 0x4011 0 0 s t ∧ recorded 0x4011 none [r.base, u] s t := by
  have hfail := performing_spoolFree hfind
  rw [huse] at hfail
  obtain ⟨t, hrun, hstore, hregions, -, hans, hrec⟩ := ici_fails h (f := fun k b => b.spoolFree k c.p) hfail
  exact ⟨t, hrun, hstore, hregions, hans, hrec⟩

end

/-! ### CHAN_RETRAIN, CHAN_RETIRE (11 R340, R342, R345, R352) -/

/-- The command waits for its action. -/
def Dev.opened (d : Dev) (k : Pend) (m l : Nat) : Dev := { d with opens := d.opens ++ [⟨k, .channel m l⟩] }

/-- The device with the request of the command, before it is tried and after it has left the waiting ones. -/
def State.requested (s : State) (opc : Nat) (c : Ici) (m : Nat) (r : ChanReq) : Dev :=
  ((s.dev.takeAccepted opc c).opened (Ici.pend opc c) m r.logical).updSpool m fun x => { x with waiting := x.waiting ++ [r] }
def State.tried (s : State) (opc : Nat) (c : Ici) (m : Nat) (r : ChanReq) : Dev :=
  (s.requested opc c m r).updSpool m fun x => { x with waiting := x.waiting.erase r }

theorem State.tried_frame (s : State) (opc : Nat) (c : Ici) (m : Nat) (r : ChanReq) :
    ∃ queues opens spools, s.tried opc c m r = { s.dev with queues := queues, opens := opens, spools := spools } := ⟨_, _, _, rfl⟩

/-- A request that can be met is made, and the command stays open. -/
theorem chanCommand_requests {opc : Nat} {c : Ici} {s : State} (h : performs opc c true s) {m : Nat} {r : ChanReq} 
    {f : Pend → Box → Box} {byte : Int}
    (hf : f (Ici.pend opc c) (s.performing opc c) = (s.performing opc c).chanCommand (Ici.pend opc c) m r byte)
    (hmet : s.dev.chanChoice m r ≠ 3) :
    s.ici opc c true f = .next (s.setDev (((s.dev.takeAccepted opc c).opened (Ici.pend opc c) m r.logical).request m r)) := by
  have hchoice : (s.performing opc c).dev.chanChoice m r ≠ 3 := hmet
  rw [Box.chanCommand, if_neg hchoice] at hf
  exact ici_performing h hf

/-- A request that cannot be met fails. -/
theorem chanCommand_fails {opc : Nat} {c : Ici} {s : State} {m : Nat} {r : ChanReq} {f : Pend → Box → Box} {byte : Int}
    (hf : f (Ici.pend opc c) (s.performing opc c) = (s.performing opc c).chanCommand (Ici.pend opc c) m r byte)
    (hfail : s.dev.chanChoice m r = 3) :
    f (Ici.pend opc c) (s.performing opc c) = (s.performing opc c).bad (Ici.pend opc c) none byte := by
  have hchoice : (s.performing opc c).dev.chanChoice m r = 3 := hfail
  rw [hf, Box.chanCommand, if_pos hchoice]

/-- What a command that went on with upkeep leaves. -/
theorem taken_of_maintained {opc : Nat} {c : Ici} {s t : State} {m : Nat} {r : ChanReq}
    (ht : (s.tried opc c m r).Maintained t.dev) :
    taken opc c s t ∧ t.dev.opens = s.dev.opens ++ [⟨Ici.pend opc c, .channel m r.logical⟩] := by
  obtain ⟨_, _, _, _, ht⟩ := ht
  exact ⟨taken_of_queues (congrArg Dev.queues ht :), (congrArg Dev.opens ht :)⟩

section
variable {opc : Nat} {c : Ici} {s : State} {m : Nat} {r : ChanReq} (hidle : (s.dev.spool m).waiting = [])
include hidle

theorem requested_spool : (s.requested opc c m r).spool m = { s.dev.spool m with waiting := [r] } := by
  refine (Dev.updSpool_spool_same ..).trans ?_
  change ({ s.dev.spool m with waiting := (s.dev.spool m).waiting ++ [r] } : Spool) = _
  rw [hidle]
  rfl

theorem tried_spool : (s.tried opc c m r).spool m = s.dev.spool m := by
  refine (Dev.updSpool_spool_same ..).trans ?_
  rw [requested_spool hidle]
  simp only [List.erase_cons_head]
  rw [← hidle]

/-- The one request that waits is tried. -/
theorem request_eq : ((s.dev.takeAccepted opc c).opened (Ici.pend opc c) m r.logical).request m r =
    if s.dev.chanChoice m r = 0 then s.requested opc c m r
    else if s.dev.chanChoice m r = 1 then (s.tried opc c m r).startDarning m r
    else if s.dev.chanChoice m r = 2 then (s.tried opc c m r).announceStall m r
    else (s.tried opc c m r).cannotMaintain m r := by
  have hspool := requested_spool (opc := opc) (c := c) (r := r) hidle
  have hchoice : (s.requested opc c m r).chanChoice m r = s.dev.chanChoice m r := Dev.chanChoice_congr hspool rfl rfl r
  change (s.requested opc c m r).startNext m = _
  unfold Dev.startNext
  rw [hspool, List.foldl_cons, List.foldl_nil, Dev.tryStart, hchoice]
  rfl

/-- A request that waits. -/
theorem request_waits (hwait : s.dev.chanChoice m r = 0) :
    let t := s.setDev (((s.dev.takeAccepted opc c).opened (Ici.pend opc c) m r.logical).request m r)
    sameStore s t ∧ taken opc c s t ∧ (t.dev.spool m).waiting = [r]
      ∧ t.dev.opens = s.dev.opens ++ [⟨Ici.pend opc c, .channel m r.logical⟩] := by
  intro t
  have hstore : sameStore s t := ⟨rfl, rfl⟩
  have ht : t.dev = s.requested opc c m r := (request_eq hidle).trans (if_pos hwait)
  clear_value t
  refine ⟨hstore, taken_of_queues (congrArg Dev.queues ht :), ?_, (congrArg Dev.opens ht :)⟩
  rw [ht, requested_spool hidle]

/-- A request that starts a Darning. -/
theorem request_darns (hdarn : s.dev.chanChoice m r = 1) :
    let x := s.dev.spool m
    let t := s.setDev (((s.dev.takeAccepted opc c).opened (Ici.pend opc c) m r.logical).request m r)
    sameStore s t ∧ taken opc c s t ∧ (t.dev.spool m).waiting = []
      ∧ t.dev.opens = s.dev.opens ++ [⟨Ici.pend opc c, .channel m r.logical⟩]
      ∧ (t.dev.spool m).darn = some (x.darningFor r s.dev.now)
      ∧ recorded 0x4004 none [m, r.logical, x.phys r.logical, (x.spares.headD 0 : Nat), boolN r.retire] s t := by
  intro x t
  have hstore : sameStore s t := ⟨rfl, rfl⟩
  have ht : t.dev = (s.tried opc c m r).startDarning m r := by
    refine (request_eq hidle).trans ?_
    rw [hdarn, if_neg (by decide), if_pos rfl]
  clear_value t
  have hspool : t.dev.spool m = x.darningBegun r s.dev.now := by
    rw [ht, Dev.startDarning_spool, tried_spool hidle]
    rfl
  obtain ⟨htaken, hopens⟩ := taken_of_maintained (t := t) (by rw [ht]; exact .startDarning ..)
  refine ⟨hstore, htaken, ?_, hopens, ?_, ?_⟩
  · rw [hspool]
    exact hidle
  · rw [hspool]
    rfl
  · obtain ⟨_, _, _, htried⟩ := s.tried_frame opc c m r
    have hrec := Dev.startDarning_recorded (congrArg Dev.mb htried :) ht
    rwa [tried_spool hidle] at hrec

/-- A request whose retrain in place is announced, with no collective near. -/
theorem request_announces (hstall : s.dev.chanChoice m r = 2) (hnear : s.dev.nearColls = []) :
    let t := s.setDev (((s.dev.takeAccepted opc c).opened (Ici.pend opc c) m r.logical).request m r)
    sameStore s t ∧ (t.dev.spool m).waiting = [] ∧ t.dev.opens = s.dev.opens ++ [⟨Ici.pend opc c, .channel m r.logical⟩]
      ∧ ∃ y, (t.dev.spool m).inplace = some y ∧ y.logical = r.logical ∧ s.dev.tape.now + 100000 ≤ y.notice
        ∧ y.notice ≤ s.dev.tape.now + 200000 := by
  intro t
  have hstore : sameStore s t := ⟨rfl, rfl⟩
  have ht : t.dev = (s.tried opc c m r).announceStall m r := by
    refine (request_eq hidle).trans ?_
    rw [hstall, if_neg (by decide), if_neg (by decide), if_pos rfl]
  clear_value t
  obtain ⟨_, _, _, htried⟩ := s.tried_frame opc c m r
  have hquiet : (s.tried opc c m r).nearColls = [] :=
    (Dev.nearColls_congr (congrArg Dev.fab htried :) (congrArg Dev.cores htried :) (congrArg Dev.ctxs htried :)).trans hnear
  obtain ⟨-, hopens⟩ := taken_of_maintained (t := t) (by rw [ht]; exact .announceStall hquiet m r)
  have hspool := Dev.announceStall_spool hquiet m r
  rw [← ht, tried_spool hidle] at hspool
  have hnow : (s.tried opc c m r).now = s.dev.tape.now := (congrArg Dev.now htried :)
  obtain ⟨hsoonest, hlatest⟩ := (s.tried opc c m r).stallNotice_bounds
  rw [hnow] at hsoonest hlatest
  generalize (s.tried opc c m r).stallNotice = notice at hspool hsoonest hlatest
  rw [hspool]
  exact ⟨hstore, hidle, hopens, _, rfl, rfl, hsoonest, hlatest⟩

end

/-- A field of a Spool command out of range fails with event 0x4013 (R352). -/
theorem Box.bad_of_spoolCommand {k : Pend} (hk : k.opc / 256 = 4) (b : Box) (byte : Int) :
    b.bad k none byte = b.fail k 0x4013 none [k.opc, byte] := by
  have hevent : groupEvent k.opc = 0x4013 := by
    unfold groupEvent
    rw [hk]
    rfl
  unfold Box.bad Box.fail Dev.badField
  rw [hevent, hk]
  rfl

/-- Each of the two commands, its fields in range, makes its request or fails. -/
theorem exec_chanForms {f : Nat × (Ici → Instr) × Bool}
    (hf : f ∈ ([(0x0404, Instr.chanRetrain, false), (0x0405, Instr.chanRetire, true)] : List (Nat × (Ici → Instr) × Bool)))
    {c : Ici} {s : State} (hl : pay c.p 1 1 < 32) (hmode : (if f.2.2 then 0 else pay c.p 2 1) ≤ 2) :
    ∃ g : Pend → Box → Box, exec (f.2.1 c) s = s.ici f.1 c true g
      ∧ g (Ici.pend f.1 c) (s.performing f.1 c) = (s.performing f.1 c).chanCommand (Ici.pend f.1 c) (payBits c.p 0 0 3)
          ⟨pay c.p 1 1, f.2.2, if f.2.2 then 0 else pay c.p 2 1, true⟩ (if f.2.2 then 1 else 2)
      ∧ f.1 / 256 = 4 := by
  simp only [List.mem_cons, List.not_mem_nil, or_false] at hf
  obtain rfl | rfl := hf
  · refine ⟨fun k b => b.chanRetrain k c.p, rfl, Box.fields_pass ?_ _, by decide⟩
    simp only [List.forall_mem_cons, decide_eq_true_eq]
    exact ⟨hl, hmode, List.forall_mem_nil _⟩
  · refine ⟨fun k b => b.chanRetire k c.p, rfl, Box.fields_pass ?_ _, by decide⟩
    exact List.forall_mem_singleton.mpr (decide_eq_true hl)

/-! ### CHAN_TEST (11 R347 to R349, R352) -/

/-- What the test of a physical channel finds: nothing where its role lets none run (R348). -/
def Spool.testFound (s : Spool) (ph pattern passes : Nat) (reads : List TestRead) : TestObs :=
  if !s.untestable ph then testFinds pattern (reads.filter (·.pass < passes)) else .none

/-- The STATUS of the test. -/
def Spool.testResult (s : Spool) (ph pattern passes : Nat) (reads : List TestRead) : Nat :=
  if !s.untestable ph then testStatus (s.testFound ph pattern passes reads) else 3

/-- The record of the test. -/
def Spool.testBlock (s : Spool) (ph pattern passes : Nat) (reads : List TestRead) : List Byte :=
  testRecord pattern (if !s.untestable ph then passes else 0) (s.testResult ph pattern passes reads)
    (if !s.untestable ph then passes * s.testBytes ph else 0) (s.testFound ph pattern passes reads)

theorem testRecord_fields (pattern passes status bytes : Nat) (r : TestObs) :
    let l := testRecord pattern passes status bytes r
    l.length = 64 ∧ leAt l 0 1 = pattern % 256 ∧ leAt l 1 1 = passes % 256 ∧ leAt l 2 1 = status % 256 := by
  intro l
  have h : StandsAt l 0 (testRecord pattern passes status bytes r) := StandsAt.refl _
  have hlen : l.length = (testRecord pattern passes status bytes r).length := rfl
  unfold testRecord at h hlen
  simp only [StandsAt.append_iff, List.length_append, leBytes_length, zeros_length, and_assoc] at h hlen
  obtain ⟨hpattern, hpasses, hstatus, -⟩ := h
  exact ⟨hlen, hpattern.leAt, hpasses.leAt, hstatus.leAt⟩

theorem testStatus_le (r : TestObs) : testStatus r ≤ 2 := by
  unfold testStatus
  split
  · exact Nat.le_refl _
  · split <;> decide

/-- The record of a test within the ranges of its fields. -/
theorem Spool.testBlock_fields (s : Spool) (ph : Nat) {pattern passes : Nat} (hpattern : pattern < 256) (hpasses : passes < 256)
    (reads : List TestRead) :
    let l := s.testBlock ph pattern passes reads
    l.length = 64 ∧ leAt l 0 1 = pattern ∧ leAt l 1 1 = (if s.untestable ph then 0 else passes)
      ∧ leAt l 2 1 = if s.untestable ph then 3 else testStatus (testFinds pattern (reads.filter (·.pass < passes))) := by
  have hle := testStatus_le (testFinds pattern (reads.filter (·.pass < passes)))
  unfold Spool.testBlock Spool.testResult Spool.testFound
  obtain ⟨hlen, h0, h1, h2⟩ := testRecord_fields pattern (if !s.untestable ph then passes else 0) _ _ _
  refine ⟨hlen, h0.trans (Nat.mod_eq_of_lt hpattern), h1.trans ?_, h2.trans ?_⟩ <;> cases s.untestable ph
  · exact Nat.mod_eq_of_lt hpasses
  · rfl
  · exact Nat.mod_eq_of_lt (by simpa using hle.trans_lt (by decide))
  · rfl

/-- The device with the result of a test: the lanes that showed an error, and event 0x400F (R349). -/
def Dev.channelTested (d : Dev) (m ph pattern passes : Nat) (reads : List TestRead) : Dev :=
  let x := d.spool m
  let r := x.testFound ph pattern passes reads
  (d.updSpool m fun s => s.updChan ph fun c => { c with lanes := c.lanes ||| r.lanes }).ev 0x400F (dieSpool m) none
    [m, ph, pattern, x.testResult ph pattern passes reads, r.rawBits]

theorem recordedAny_of_channelTested {s t : State} {d : Dev} {m ph pattern passes : Nat} {reads : List TestRead} (hmb : d.mb = s.dev.mb)
    (ht : t.dev.mb = (d.channelTested m ph pattern passes reads).mb) : recordedAny 0x400F s t := by
  obtain ⟨r, hring, hseq, hcode, -⟩ := recorded_of_raise_mb (d := d.updSpool m _) hmb ht
  exact ⟨r, hring, hseq, hcode⟩

theorem Dev.channelTested_keeps (d : Dev) (m ph pattern passes : Nat) (reads : List TestRead) :
    let e := d.channelTested m ph pattern passes reads
    e.queues = d.queues ∧ e.bastes = d.bastes ∧ e.bare = d.bare :=
  ⟨Dev.raise_queues .., Dev.raise_bastes .., Dev.raise_bare_of ..⟩

section
variable {c : Ici} {s : State} (h : performs 0x0406 c true s)
  (hph : pay c.p 1 1 < 34) (hpattern : pay c.p 2 1 ≤ 5) (hpasses : 1 ≤ pay c.p 3 1)
  (hfree : (s.dev.spool (payBits c.p 0 0 3)).logical (pay c.p 1 1) = none ∨ s.dev.runningCtxs = [])
  (hwr : writable (s.dev.takeAccepted 0x0406 c) (pay c.p 8 8) 64)
include hph hpattern hpasses hfree hwr

theorem performing_chanTest (reads : List TestRead) : (s.performing 0x0406 c).chanTest (Ici.pend 0x0406 c) c.p reads =
    (Box.wrClean ⟨s.store, (s.dev.takeAccepted 0x0406 c).channelTested (payBits c.p 0 0 3) (pay c.p 1 1) (pay c.p 2 1) (pay c.p 3 1) reads⟩
      (pay c.p 8 8) ((s.dev.spool (payBits c.p 0 0 3)).testBlock (pay c.p 1 1) (pay c.p 2 1) (pay c.p 3 1) reads)).ok
        (Ici.pend 0x0406 c) := by
  have haddr : writable (s.performing 0x0406 c).dev (pay c.p 8 8) 64 := hwr
  have hspool : (s.performing 0x0406 c).dev.spool (payBits c.p 0 0 3) = s.dev.spool (payBits c.p 0 0 3) := rfl
  have hidle : ¬(((s.dev.spool (payBits c.p 0 0 3)).logical (pay c.p 1 1)).isSome ∧ !(s.performing 0x0406 c).dev.runningCtxs.isEmpty) := by
    rintro ⟨hsome, hrunning⟩
    rcases hfree with hnone | hnone
    · simp [hnone] at hsome
    · simp [show (s.performing 0x0406 c).dev.runningCtxs = [] from hnone] at hrunning
  unfold Box.chanTest
  dsimp only
  rw [Box.fields_pass, hspool, if_neg hidle, Box.withAddr_writable haddr]
  · rfl
  · simp only [List.forall_mem_cons, decide_eq_true_eq]
    exact ⟨hph, hpattern, hpasses, List.forall_mem_nil _⟩

include h

theorem chanTest_answers (hok : memoryOk s) (reads : List TestRead) :
    let x := s.dev.spool (payBits c.p 0 0 3)
    let l := x.testBlock (pay c.p 1 1) (pay c.p 2 1) (pay c.p 3 1) reads
    ∃ t, exec (.chanTest c reads) s = .next t ∧ t.pending = s.pending ∧ succeeds 0x0406 c s t ∧ wrote (pay c.p 8 8) l s t
      ∧ recordedAny 0x400F s t := by
  intro x l
  have hlen : l.length = 64 := (testRecord_fields ..).1
  have htest : (s.performing 0x0406 c).chanTest (Ici.pend 0x0406 c) c.p reads = (Box.wrClean ⟨s.store, (s.dev.takeAccepted 0x0406 c).channelTested
      (payBits c.p 0 0 3) (pay c.p 1 1) (pay c.p 2 1) (pay c.p 3 1) reads⟩ (pay c.p 8 8) l).ok (Ici.pend 0x0406 c) :=
    performing_chanTest hph hpattern hpasses hfree hwr reads
  clear_value l
  obtain ⟨hqueues, hbastes, hbare⟩ := (s.dev.takeAccepted 0x0406 c).channelTested_keeps (payBits c.p 0 0 3) (pay c.p 1 1) (pay c.p 2 1)
    (pay c.p 3 1) reads
  obtain ⟨-, -, hprot⟩ := hwr
  rw [← hlen] at hprot
  obtain ⟨hwrote, hans, hmb⟩ := ok_wrote_of_protector hok (fun g hg => (Dev.protector_congr hbastes g).trans (hprot g hg))
    hqueues (hbare.trans (performs_bare h))
  have hbook : (s.dev.takeAccepted 0x0406 c).mb = s.dev.mb := rfl
  have hrec := recordedAny_of_channelTested hbook hmb
  exact ⟨_, ici_performing h (f := fun k b => b.chanTest k c.p reads) htest, rfl, hans, hwrote, hrec⟩

end

/-- Settles O57, by one lemma for each command and each answer to it. -/
theorem spoolCommandsAct : Obligations.SpoolCommandsAct := by
  unfold Obligations.SpoolCommandsAct
  intro c s
  refine ⟨fun h hok => ?_, fun h r hfind => ?_, fun f hf h => ?_, fun h hok reads => ?_⟩
  · intro d a units spool hlow hhigh hmode
    exact ⟨spoolAlloc_allocates h hlow hhigh hmode hok, fun why => spoolAlloc_fails h hlow hhigh hmode⟩
  · exact ⟨spoolFree_frees h hfind, fun u => spoolFree_fails h hfind⟩
  · intro m l r x hl hmode hidle
    obtain ⟨g, hexec, hg, hgroup⟩ := exec_chanForms hf hl hmode
    rw [hexec]
    refine ⟨fun hwait => ?_, fun hdarn => ?_, fun hstall hnear => ?_, fun hfail => ?_⟩
    · exact ⟨_, chanCommand_requests h hg (by rw [hwait]; decide), request_waits hidle hwait⟩
    · obtain ⟨hstore, htaken, hwaiting, hopens, hbegun, hrec⟩ := request_darns hidle hdarn
      exact ⟨_, _, chanCommand_requests h hg (by rw [hdarn]; decide), hstore, htaken, hwaiting, hopens, hbegun, rfl, rfl, rfl, rfl, hrec⟩
    · obtain ⟨hstore, hwaiting, hopens, y, hinplace, hlogical, hsoonest, hlatest⟩ := request_announces hidle hstall hnear
      exact ⟨_, y, chanCommand_requests h hg (by rw [hstall]; decide), hstore, hwaiting, hinplace, hlogical, hsoonest, hlatest, hopens⟩
    · obtain ⟨t, hrun, hstore, -, hspools, hans, hrec⟩ := ici_fails h ((chanCommand_fails hg hfail).trans (Box.bad_of_spoolCommand hgroup _ _))
      exact ⟨t, hrun, hstore, hans, (congrArg (fun t => (getD t m Spool.init).waiting) hspools).trans hidle, hrec⟩
  · intro d m ph x res st hph hpattern hpasses hfree hwr
    obtain ⟨t, hrun, hpending, hans, hwrote, hrec⟩ := chanTest_answers h hph hpattern hpasses hfree hwr hok reads
    obtain ⟨hlen, h0, h1, h2⟩ := x.testBlock_fields ph (hpattern.trans_lt (by decide)) (Nat.mod_lt _ (by decide)) reads
    exact ⟨t, _, hrun, hpending, hans, hwrote, hlen, h0, h1, h2, hrec⟩

end Sys2Proof.Machine

/-! O41. The poison mark of a line goes with its channel (11 R331). Where a physical channel in service stands in the table as an idle spare
too, the retirement that an uncorrectable read asks for lets a request that waited before it take that very channel as the target of its
Darning; the channel then holds the lines of the other logical channel, and the read answers without poison. The statement speaks of every state
with powered memory; a channel table that names a channel in service as a spare is a state that no boot of the device produces. -/

namespace Sys2Proof.Machine

open Sys2Proof.Safety

/-! ### Retirements (11 R340, R344) -/

theorem Dev.chanChoice_retire {r : ChanReq} (hretire : r.retire = true) (d : Dev) (m : Nat) : d.chanChoice m r =
    if (d.spool m).spares.isEmpty then 3
    else if (d.spool m).darn.isNone && !(d.spool m).inplace.any (·.logical == r.logical) then 1 else 0 := by
  unfold Dev.chanChoice
  dsimp only
  rw [hretire, Bool.true_or, if_pos rfl]
  cases (d.spool m).spares.isEmpty <;> rfl

section
variable {d : Dev} {m : Nat} {r : ChanReq} (hretire : r.retire = true) (hspare : (d.spool m).spares.isEmpty = false)
include hretire hspare

/-- A retirement begins its Darning when there is a spare and no other maintenance. -/
theorem Dev.tryStart_darns (hdarn : (d.spool m).darn = none) (hinplace : (d.spool m).inplace = none) :
    d.tryStart m r = (d.updSpool m fun s => { s with waiting := s.waiting.erase r }).startDarning m r := by
  have hchoice : d.chanChoice m r = 1 := by
    rw [Dev.chanChoice_retire hretire, hspare, hdarn, hinplace]
    rfl
  rw [Dev.tryStart, hchoice, if_neg (by decide), if_pos rfl]

/-- A retirement waits while another Darning runs. -/
theorem Dev.tryStart_waits {x : Darn} (hdarn : (d.spool m).darn = some x) : d.tryStart m r = d := by
  have hchoice : d.chanChoice m r = 0 := by
    rw [Dev.chanChoice_retire hretire, hspare, hdarn]
    rfl
  rw [Dev.tryStart, hchoice, if_pos rfl]

end

/-- A Spool that has counted an uncorrectable line (R331, R333). -/
def Spool.lineFailed (s : Spool) (ph addr now : Nat) : Spool :=
  s.updChan ph fun c => { c with
    unc := satAdd 32 c.unc 1, lastErr := some addr
    uncLog := (c.uncLog.filter fun e => now < e.2 + 86400000000000) ++ [(addr, now)] }

/-- The lines of a channel that were uncorrectable in a day. -/
def Spool.failedLines (s : Spool) (ph : Nat) : Nat := (((s.chan ph).uncLog.map (·.1)).eraseDups).length

/-- The third uncorrectable line of a channel in a day asks for its retirement. -/
theorem Dev.uncorrectableAt_triggers {d : Dev} {m ph addr l : Nat} (hl : ((d.spool m).lineFailed ph addr d.now).logical ph = some l)
    (hn : 3 ≤ ((d.spool m).lineFailed ph addr d.now).failedLines ph) (source : Nat) (ctx : Option Nat) :
    ∃ slots, d.uncorrectableAt m ph addr source ctx = ((d.setSpool m ((d.spool m).lineFailed ph addr d.now)).ev 0x4002 (dieSpool m) ctx
      slots).trigger m l 2 (((d.spool m).lineFailed ph addr d.now).failedLines ph) true := by
  have hspool : (d.updSpool m fun s => s.lineFailed ph addr d.now).spool m = (d.spool m).lineFailed ph addr d.now :=
    Dev.updSpool_spool_same ..
  unfold Spool.failedLines at hn ⊢
  unfold Spool.lineFailed at hspool hl hn ⊢
  unfold Dev.uncorrectableAt
  dsimp only
  rw [hspool, hl]
  dsimp only
  rw [if_pos hn]
  exact ⟨_, rfl⟩

/-- A retirement that is not under way yet is requested, with event 0x4003. -/
theorem Dev.trigger_requests {d : Dev} {m l : Nat} (hidle : (d.spool m).hasAction l true = false)
    (hrole : (((d.spool m).chan ((d.spool m).phys l)).role == 4) = false) (t v : Nat) :
    d.trigger m l t v true = (d.ev 0x4003 (dieSpool m) none [m, l, (d.spool m).phys l, t, v]).request m ⟨l, true, 0, false⟩ := by
  unfold Dev.trigger
  dsimp only
  rw [hidle, hrole]
  rfl

theorem Box.decode_uncorrectable {b : Box} {m ph addr line : Nat} (h : b.marked m ph addr line = false) (source : Nat) (ctx : Option Nat) :
    b.decode m ph addr line source ctx .uncorrectable
      = (b.markLine m ph addr line).onD fun d => d.uncorrectableAt m ph addr source ctx := by
  rw [Box.decode, if_neg (by rw [h]; decide)]

/-- A place depends on the regions and the handles only. -/
theorem Dev.Maintained.placeOf {d e : Dev} (h : d.Maintained e) (a : Nat) : e.placeOf a = d.placeOf a := by
  obtain ⟨_, _, _, _, rfl⟩ := h
  rfl

/-- A read of a line answers with the mark that all its bytes have. -/
theorem anyBad_marked (l : List PB) (bad : Bool) (hl : l ≠ []) : anyBad (l.map fun y => (y.1, bad)) = bad := by
  obtain ⟨x, t, rfl⟩ := List.exists_cons_of_ne_nil hl
  cases bad <;> simp [anyBad]

namespace UncorrectableInSpare

/-- The retirement of logical channel 5 waits. -/
def waiting : ChanReq := ⟨5, true, 0, false⟩

/-- Physical channel 0 is the channel of logical channel 0 and an idle spare; three lines of it have been uncorrectable. -/
def spool0 : Spool := { Spool.init with
  chans := [(0, { Chan.init 1 with uncLog := [(64, 0), (128, 0), (192, 0)] })], waiting := [waiting] }

/-- A powered device with a region of 2 MiB in Spool 0. -/
def dev : Dev :=
  { State.reset.dev with
    power := { State.reset.dev.power with pwrGood := true, off := false, hold := false }
    regions := [⟨0, 1, some 0⟩], spools := [(0, spool0)] }

def state : State := ⟨[], { State.reset.box with dev := dev }⟩

/-- A read of the line at address 0, which its channel cannot correct. -/
def read : SpoolAcc :=
  { line := 0, write := none, mask := 0, poison := false, ctx := none, spool := 0, chan := 0, addr := 0, ecc := .uncorrectable
    targetFails := none }

theorem read_channel : state.dev.channelOf read.line = some (read.spool.val, read.chan.val) := by decide +kernel

theorem read_served : state.dev.serves read.spool.val = true ∧ (state.dev.spool read.spool.val).stalls read.chan.val = false := by decide +kernel

theorem read_place : dev.placeOf 0 = some (placeIn 0 (some 0) 0) := by decide +kernel

/-- The channel address of the line, which is the base die's choice. -/
def addr : Nat := dev.accAddr read

theorem line_held : dev.holdsLine 0 0 addr 0 = true := by
  have haddr : (placeIn 0 (some 0) 0).addr = addr := by
    unfold addr Dev.accAddr
    rw [show dev.placeOf read.line = _ from read_place]
    rfl
  have hholds : (dev.spool 0).holdsFor 0 = some 0 := by decide +kernel
  unfold Dev.holdsLine
  rw [read_place, Option.any_some, haddr, hholds, beq_self_eq_true]
  rfl

/-- The retirement that the error asks for. -/
def asked : ChanReq := ⟨0, true, 0, false⟩

/-- The Spool with the error counted and both retirements waiting. -/
def spoolAsked (a : Nat) : Spool := { spool0.lineFailed 0 a dev.now with waiting := [waiting, asked] }

/-- The Darning of the first retirement takes the channel for its spare. -/
def spoolAfter (a : Nat) : Spool := { spoolAsked a with waiting := [asked] }.darningBegun waiting dev.now

theorem spool0_lines (a : Nat) : 3 ≤ (spool0.lineFailed 0 a dev.now).failedLines 0 := by
  change 3 ≤ [64, 128, 192, a].eraseDups.length
  simp [List.eraseDups_cons]

/-- Of the two retirements the first begins its Darning, and the other waits. -/
theorem startNext_asked {d : Dev} {a : Nat} (hspool : d.spool 0 = spoolAsked a) (hnow : d.now = dev.now) :
    (d.startNext 0).spool 0 = spoolAfter a ∧ d.Maintained (d.startNext 0) := by
  have hfirst : d.tryStart 0 waiting = (d.updSpool 0 fun s => { s with waiting := s.waiting.erase waiting }).startDarning 0 waiting :=
    Dev.tryStart_darns rfl (by rw [hspool]; rfl) (by rw [hspool]; rfl) (by rw [hspool]; rfl)
  have hafter : (d.tryStart 0 waiting).spool 0 = spoolAfter a := by
    rw [hfirst, Dev.startDarning_spool, Dev.updSpool_spool_same, hspool]
    exact congrArg _ hnow
  have hsecond : (d.tryStart 0 waiting).tryStart 0 asked = d.tryStart 0 waiting :=
    Dev.tryStart_waits rfl (by rw [hafter]; rfl) (by rw [hafter]; rfl)
  have hboth : d.startNext 0 = d.tryStart 0 waiting := by
    unfold Dev.startNext
    rw [hspool, show (spoolAsked a).waiting = [waiting, asked] from rfl, List.foldl_cons, List.foldl_cons, List.foldl_nil, hsecond]
  rw [hboth]
  exact ⟨hafter, hfirst ▸ (Dev.Maintained.updSpool ..).trans (.startDarning ..)⟩

/-- The retirement that the error asks for is requested, behind the one that waits. -/
theorem trigger_asked {d : Dev} {a : Nat} (hspool : d.spool 0 = spool0.lineFailed 0 a dev.now) (hnow : d.now = dev.now) (v : Nat) :
    (d.trigger 0 0 2 v true).spool 0 = spoolAfter a ∧ d.Maintained (d.trigger 0 0 2 v true) := by
  rw [Dev.trigger_requests (by rw [hspool]; rfl) (by rw [hspool]; rfl)]
  generalize hslots : ([_, _, _, _, _] : List Int) = slots
  have hasked : ((d.ev 0x4003 (dieSpool 0) none slots).updSpool 0 fun s => { s with waiting := s.waiting ++ [asked] }).spool 0
      = spoolAsked a := by
    rw [Dev.updSpool_spool_same, Dev.ev_eq, Dev.raise_spool_of, hspool]
    rfl
  obtain ⟨hafter, hkept⟩ := startNext_asked hasked ((Dev.raise_now_of ..).trans hnow)
  exact ⟨hafter, ((Dev.Maintained.raise ..).trans (.updSpool ..)).trans hkept⟩

/-- The device after the error. -/
def failed (a : Nat) : Dev := dev.uncorrectableAt 0 0 a 0 none

theorem dev_spool : dev.spool 0 = spool0 := rfl

theorem failed_spool (a : Nat) : (failed a).spool 0 = spoolAfter a ∧ dev.Maintained (failed a) := by
  obtain ⟨slots, hfailed⟩ := Dev.uncorrectableAt_triggers (d := dev) (m := 0) (ph := 0) (addr := a) (l := 0) rfl (spool0_lines a) 0 none
  rw [dev_spool] at hfailed
  have hspool : ((dev.setSpool 0 (spool0.lineFailed 0 a dev.now)).ev 0x4002 (dieSpool 0) none slots).spool 0
      = spool0.lineFailed 0 a dev.now := by
    rw [Dev.ev_eq, Dev.raise_spool_of, Dev.setSpool_spool_same]
  obtain ⟨hafter, hkept⟩ := trigger_asked hspool (Dev.raise_now_of ..) ((spool0.lineFailed 0 a dev.now).failedLines 0)
  unfold failed
  rw [hfailed]
  exact ⟨hafter, ((Dev.Maintained.setSpool ..).trans (.raise ..)).trans hkept⟩

theorem failed_unmarked (store : Store) (a : Nat) : (Box.mk store (failed a)).marked 0 0 a 0 = false := by
  obtain ⟨hspool, hkept⟩ := failed_spool a
  have hholds : (spoolAfter a).holdsFor 0 = some 5 := rfl
  have hlost : (failed a).holdsLine 0 0 a 0 = false := by
    unfold Dev.holdsLine
    rw [hkept.placeOf, read_place, hspool, hholds]
    rfl
  unfold Box.marked
  rw [hlost, hspool]
  rfl

/-- What the decoder leaves: the line poisoned, and the device after the error. -/
theorem read_decoded : (state.box.onD fun d => d.creaseMem 0 0).decode 0 0 addr 0 0 none .uncorrectable
    = ⟨state.store.poisonMem 0, failed addr⟩ := by
  have hcrease : state.box.onD (fun d => d.creaseMem 0 0) = state.box := rfl
  have hheld : state.box.dev.holdsLine 0 0 addr 0 = true := line_held
  have hunmarked : state.box.marked 0 0 addr 0 = false := by
    unfold Box.marked
    rw [hheld]
    rfl
  rw [hcrease, Box.decode_uncorrectable hunmarked, Box.markLine, if_pos hheld]
  rfl

theorem read_answers : exec (.spoolAccess read) state = .next (state.setBox
    ((Box.mk (state.store.poisonMem 0) (failed addr)).answerLine (((state.store.poisonMem 0).rdMem 0 64).map fun y => (y.1, false)))) := by
  obtain ⟨hserves, hstalls⟩ := read_served
  have hnamed : state.box.dev.accNamed read = true := by decide +kernel
  have hserve : state.box.serveLine read =
      let b := (state.box.onD fun d => d.creaseMem 0 0).decode 0 0 addr 0 0 none .uncorrectable
      b.answerLine ((b.store.rdMem 0 64).map fun y => (y.1, b.marked 0 0 addr 0)) := rfl
  rw [read_decoded] at hserve
  dsimp only at hserve
  rw [failed_unmarked] at hserve
  unfold State.dev at hserves hstalls
  change execSpoolAccess read state = _
  rw [execSpoolAccess, State.on_eq]
  simp only [hnamed, hserves, hstalls, hserve, Bool.not_true, Bool.false_eq_true, if_false, if_true]

end UncorrectableInSpare

open UncorrectableInSpare in
/-- Refutes O41: the line keeps its poison mark, and the read that found the error answers without it, for the channel has become the
target of another channel's Darning meanwhile. -/
theorem not_channelsServeAndReportErrors : ¬ Obligations.ChannelsServeAndReportErrors := by
  unfold Obligations.ChannelsServeAndReportErrors
  intro h
  obtain ⟨hread, -⟩ := h.1 read state read_channel
  obtain ⟨t, ht, -, -, -, -, hunc⟩ := hread read_served rfl line_held (by decide +kernel)
  obtain ⟨-, -, herr, -⟩ := hunc rfl
  obtain rfl := Host.Outcome.next.inj (ht.symm.trans read_answers)
  have hclean := anyBad_marked ((state.store.poisonMem 0).rdMem 0 64) false (List.ne_nil_of_length_pos (by decide +kernel))
  rw [State.setBox_dev, Box.answerLine, Box.onD_dev, hclean] at herr
  cases herr

end Sys2Proof.Machine

/-! SUPPORT. A command's entry and what the device reads of it (14 R419, R422), and the queue of waiting commands, which no command
changes. -/

namespace Sys2Proof.Machine

theorem boolN_eq_toNat (b : Bool) : boolN b = b.toNat := by cases b <;> rfl

section
variable {opc : Nat} (h : opc < 65536) (c : Ici)
include h

/-- The parts of an entry do not overlap. -/
theorem iciEntry_toNat : (iciEntry opc c).toNat = opc + c.irq.toNat * 2 ^ 17 + c.tag.toNat * 2 ^ 32 + c.p.toNat * 2 ^ 128 := by
  have htag := c.tag.isLt
  have hp := c.p.isLt
  have hirq := c.irq.toNat_le
  rw [iciEntry, boolN_eq_toNat, BitVec.toNat_ofNat, Nat.mod_eq_of_lt (by omega)]

/-- A field below the payload depends on the header alone. -/
theorem fld_iciEntry_header {lo len : Nat} (hlen : lo + len ≤ 128) :
    fld (iciEntry opc c) lo len = (opc + c.irq.toNat * 2 ^ 17 + c.tag.toNat * 2 ^ 32) / 2 ^ lo % 2 ^ len := by
  obtain ⟨r, hr⟩ := Nat.exists_eq_add_of_le hlen
  rw [fld, iciEntry_toNat h, Nat.shiftRight_eq_div_pow, hr, show c.p.toNat * 2 ^ (lo + len + r) = 2 ^ lo * (2 ^ len * (2 ^ r * c.p.toNat)) by ring,
    Nat.add_mul_div_left _ _ (Nat.two_pow_pos lo), Nat.add_mul_mod_self_left]

/-- What the device reads of an entry it was given: the command, and 0 everywhere else (14 R419). -/
theorem iciEntry_header : entryOpc (iciEntry opc c) = opc ∧ fld (iciEntry opc c) 32 32 = c.tag.toNat ∧ entryFence (iciEntry opc c) = false
    ∧ bitOf (iciEntry opc c) 17 = c.irq ∧ fld (iciEntry opc c) 18 6 = 0 ∧ fld (iciEntry opc c) 24 8 = 0 ∧ entryDeadline (iciEntry opc c) = 0 := by
  have htag := c.tag.isLt
  have hirq := c.irq.toNat_le
  refine ⟨?_, ?_, bitOf_of_fld ?_, bitOf_of_fld ?_, ?_, ?_, ?_⟩
  all_goals
    simp only [entryOpc, entryDeadline, fld_iciEntry_header h c, Nat.reduceAdd, Nat.reduceLeDiff, Bool.toNat_false]
    omega

theorem entryPay_iciEntry : entryPay (iciEntry opc c) = c.p := by
  have htag := c.tag.isLt
  have hp := c.p.isLt
  have hirq := c.irq.toNat_le
  have hfld : fld (iciEntry opc c) 128 384 = c.p.toNat := by
    rw [fld, iciEntry_toNat h, Nat.shiftRight_eq_div_pow]
    omega
  rw [entryPay, hfld, BitVec.ofNat_toNat, BitVec.setWidth_eq]

end

theorem spells_iff {opc : Nat} {c : Ici} {e : BitVec 512} :
    spells opc c e = true ↔ entryOpc e = opc ∧ fld e 32 32 = c.tag.toNat ∧ bitOf e 17 = c.irq ∧ entryPay e = c.p := by
  simp only [spells, Bool.and_eq_true, beq_iff_eq, and_assoc]

/-- An entry spells one command of a queue. -/
theorem spells_unique {opc opc' : Nat} {c c' : Ici} {e : BitVec 512} (hq : c'.q = c.q) (h : spells opc c e = true) (h' : spells opc' c' e = true) :
    opc' = opc ∧ c' = c := by
  obtain ⟨hopc, htag, hirq, hpay⟩ := spells_iff.mp h
  obtain ⟨hopc', htag', hirq', hpay'⟩ := spells_iff.mp h'
  refine ⟨hopc'.symm.trans hopc, ?_⟩
  obtain ⟨q, tag, irq, p⟩ := c
  obtain ⟨q', tag', irq', p'⟩ := c'
  obtain rfl := BitVec.eq_of_toNat_eq (htag.symm.trans htag')
  obtain rfl := hirq.symm.trans hirq'
  obtain rfl := hpay.symm.trans hpay'
  rw [show q' = q from hq]

/-- Settles O7: the fields of an entry stand at the bits of 14 R419 (`iciEntry_header`, `entryPay_iciEntry`), and a command is what its
fields say (`spells_unique`). -/
theorem iciEntryDecodes : Obligations.IciEntryDecodes := by
  unfold Obligations.IciEntryDecodes
  intro opc c h
  obtain ⟨hopc, htag, hfence, hirq, hflags, hreserved, hdeadline⟩ := iciEntry_header h c
  have hpay := entryPay_iciEntry h c
  have hspells : spells opc c (iciEntry opc c) = true := spells_iff.mpr ⟨hopc, htag, hirq, hpay⟩
  have hpend : entryPend c.q.val (iciEntry opc c) = Ici.pend opc c := by
    rw [entryPend, hopc, htag, hirq, BitVec.ofNat_toNat, BitVec.setWidth_eq, Ici.pend]
  exact ⟨hopc, hpend, hpay, hfence, hdeadline, hflags, hreserved, hspells, fun o' c' hq h' => spells_unique hq hspells h'⟩

/-- Settles O5: a command completes with the queue as it was (`State.Completes`), and the one that may be refused instead does so too
when it is not refused. -/
theorem execLeavesTheQueueAlone : Obligations.ExecLeavesTheQueueAlone := by
  unfold Obligations.ExecLeavesTheQueueAlone
  intro c s t ht
  have hcompletes : s.Completes (.next t) := by
    obtain hc | ⟨rising, tms, tdi, trstN, rfl⟩ := exec_completes_or_jtagTckEdge c s
    · exact ht ▸ hc
    · obtain hc | ⟨hrefused, -⟩ := execJtagTckEdge_completes_or_refused rising tms tdi trstN s
      · exact ht ▸ hc
      · cases ht.symm.trans hrefused
  obtain ⟨b, hb⟩ := hcompletes
  rw [Host.Outcome.next.inj hb]

end Sys2Proof.Machine

/-! SUPPORT. The recorder by itself: periodic triggers, the drainer, the Crease summary, the hour mark and the end of the diagnostic
state (15 R471; 16 R498; 17 R507, R516, R518, R521). -/

namespace Sys2Proof.Machine

open Sys2Proof.Safety

/-! ### Periodic triggers (17 R516) -/

theorem Dev.periodic_due {d : Dev} {n : Nat} {x : BitVec 1280} (hx : get? d.mb.trigs n = some x) (hp : d.powered = true)
    (hon : trigEnabled x = true) (hper : trigPeriodic x = true) (hperiod : trigPeriod x ≠ 0) (hnow : d.tape.now % trigPeriod x = 0) :
    d.periodic n = d.keep (d.form 0xD001 (dieSelvage 0) false none [] (some (n, x))) := by
  simp [Dev.periodic, hx, hp, hon, hper, hperiod, Dev.now, hnow]

/-- An event's trigger is one that matches it, and a periodic one matches none. -/
theorem Dev.trigFor_not_periodic {d : Dev} {code : Nat} {ctx : Option Nat} {e : Nat × BitVec 1280} (h : d.trigFor code ctx = some e) :
    trigPeriodic e.2 = false := by
  have hmatch := List.find?_some h
  simp only [trigMatches, Bool.and_eq_true, Bool.not_eq_true'] at hmatch
  obtain ⟨⟨⟨-, hnot⟩, -⟩, -⟩ := hmatch
  exact hnot

/-- Settles O47: the record that is kept is the one that is formed (`Dev.periodic_due`), and no event's trigger is periodic
(`Dev.trigFor_not_periodic`). -/
theorem periodicTriggersRecord : Obligations.PeriodicTriggersRecord := by
  unfold Obligations.PeriodicTriggersRecord
  refine ⟨fun n x s hx hp hon hper hperiod hnow => ?_, fun code ctx e s h => Dev.trigFor_not_periodic h⟩
  obtain ⟨t, ht, hstore, hdev⟩ := onDev_answers_of_eq (s := s) (f := fun d => d.periodic n.val)
    (Dev.periodic_due hx hp hon hper hperiod hnow)
  refine ⟨t, ht, hstore, ?_, s.dev.form 0xD001 (dieSelvage 0) false none [] (some (n.val, x)), ?_, rfl, rfl, rfl, rfl, rfl⟩
  · rw [hdev]
    rfl
  · rw [hdev]
    exact MbSt.mem_append_ring.mpr (.inr rfl)

/-! ### The drainer (17 R507) -/

theorem lastN_of_length_le {α : Type} {n : Nat} {l : List α} (h : l.length ≤ n) : lastN n l = l := by
  rw [lastN, Nat.sub_eq_zero_of_le h, List.drop_zero]

/-- Appending a record to a drained ring loses nothing that awaited draining. -/
theorem MbSt.append_lostFrom {m : MbSt} {r : Rec} (h : r.seq = m.drained) (hnone : m.lostFrom = none) : (m.append r).lostFrom = none := by
  have hgone : ((m.ring.filter fun x => x.seq + 8192 ≤ r.seq).map (·.seq)).filter (m.drained ≤ ·) = [] := by
    simp only [List.filter_eq_nil_iff, List.mem_map, List.mem_filter, decide_eq_true_eq]
    rintro _ ⟨x, ⟨-, hx⟩, rfl⟩
    omega
  simp only [MbSt.append, hnone, hgone]
  rfl

theorem Dev.mbPaused_eq_false {d : Dev} (h : ∀ i, i < 8 → (d.spool i).therm ≠ 4) : d.mbPaused = false := by
  simpa [Dev.mbPaused] using h

/-- The drainer, not paused, takes all that awaits it to the region. -/
theorem Dev.mbDrainAll_drains {d : Dev} (hp : d.mbPaused = false) (hroom : d.mb.region.length + d.mb.ring.length ≤ 2097152) :
    d.mbDrainAll.mb.drained = d.mb.head ∧ d.mbDrainAll.mb.lostFrom = none
      ∧ d.mbDrainAll.mb.region = d.mb.region ++ d.mb.ring.filter (fun r => d.mb.drained ≤ r.seq) := by
  have hfits : (d.mb.region ++ d.mb.ring.filter (fun r => d.mb.drained ≤ r.seq)).length ≤ 2097152 := by
    rw [List.length_append]
    exact (Nat.add_le_add_left (List.length_filter_le ..) _).trans hroom
  unfold Dev.mbDrainAll
  simp only [hp, Bool.false_eq_true, if_false, lastN_of_length_le hfits]
  split
  · exact ⟨rfl, rfl, rfl⟩
  · exact ⟨rfl, MbSt.append_lostFrom rfl rfl, rfl⟩

theorem mbDrain_answers {s : State} (hp : s.dev.powered = true) (hhold : s.dev.power.hold = false) (hnew : s.dev.mb.drained < s.dev.mb.head)
    (htrip : ∀ i, i < 8 → (s.dev.spool i).therm ≠ 4) (hroom : s.dev.mb.region.length + s.dev.mb.ring.length ≤ 2097152) :
    ∃ t, exec .mbDrain s = .next t ∧ sameStore s t ∧ t.dev = { s.dev with mb := t.dev.mb } ∧ t.dev.mb.drained = s.dev.mb.head
      ∧ t.dev.mb.lostFrom = none ∧ t.dev.mb.region = s.dev.mb.region ++ s.dev.mb.ring.filter (fun r => s.dev.mb.drained ≤ r.seq) := by
  have hrun : (if s.dev.powered && decide (s.dev.mb.drained < s.dev.mb.head) then s.dev.mbDrainer else s.dev) = s.dev.mbDrainAll := by
    simp [hp, hnew, Dev.mbDrainer, hhold]
  obtain ⟨t, ht, hstore, hdev⟩ := onDev_answers_of_eq (s := s) (f := fun d => if d.powered && decide (d.mb.drained < d.mb.head) then d.mbDrainer else d) hrun
  refine ⟨t, ht, hstore, ?_, ?_⟩
  · rw [hdev]
    exact s.dev.mbDrainAll_frame
  · rw [hdev]
    exact Dev.mbDrainAll_drains (Dev.mbPaused_eq_false htrip) hroom

/-! ### The Crease summary and the hour mark (15 R471; 17 R518) -/

theorem getD_filter_key_lt {α : Type} (t : Tbl α) {n i : Nat} (h : i < n) (v : α) : getD (t.filter fun e => n ≤ e.1) i v = v := by
  have hget := get?_filter_key t (fun k => decide (n ≤ k)) i
  simp only [decide_eq_true_eq, Nat.not_le.mpr h, if_false] at hget
  rw [getD, hget]
  rfl

theorem creaseSummary_answers {s : State} (harmed : s.dev.crArmed = true) (hconf : s.dev.crConfigured = true)
    (hdue : s.dev.cr.last + 1000000000 ≤ s.dev.tape.now) :
    ∃ t, exec .creaseSummary s = .next t ∧ sameStore s t ∧ t.dev.cr.last = s.dev.tape.now
      ∧ recorded 0xD007 none ((List.range 7).map fun i => ((getD s.dev.cr.counts i 0 : Nat) : Int)) s t
      ∧ (∀ i, i < 7 → getD t.dev.cr.counts i 0 = 0) := by
  have hrun : s.dev.creaseSummary = (let d := s.dev.ev 0xD007 (dieSelvage 0) none ((List.range 7).map fun i => ((getD s.dev.cr.counts i 0 : Nat) : Int))
      { d with cr := { d.cr with last := d.now, counts := d.cr.counts.filter fun e => 7 ≤ e.1 } }) := by
    simp only [Dev.creaseSummary, harmed, hconf, Dev.now, hdue, Bool.and_self, decide_true, if_true]
  obtain ⟨t, ht, hstore, hdev⟩ := onDev_answers_of_eq (s := s) (f := Dev.creaseSummary) hrun
  refine ⟨t, ht, hstore, ?_, recorded_of_raise_mb (d := s.dev) rfl (by rw [hdev]; rfl), fun i hi => ?_⟩
  · rw [hdev]
    simp [Dev.now]
  · rw [hdev]
    exact getD_filter_key_lt _ hi 0

theorem hourMark_answers {s : State} (hp : s.dev.power.pwrGood = true) :
    ∃ t, exec .hourMark s = .next t ∧ sameStore s t
      ∧ t.dev.health = { s.dev.health with hours := satAdd 32 s.dev.health.hours 1 }
      ∧ recorded 0x0003 none [satAdd 32 s.dev.health.hours 1, s.dev.tape.now] s t := by
  change ∃ t, execHourMark s = _ ∧ _
  obtain ⟨t, ht, hstore, hdev⟩ := onDev_answers s fun d =>
    if !d.power.pwrGood then d
    else
      let h := satAdd 32 d.health.hours 1
      ({ d with health := { d.health with hours := h } }).evFw 0x0003 none [h, d.now]
  simp only [hp, Bool.not_true, Bool.false_eq_true, if_false, Dev.evFw_eq] at hdev
  refine ⟨t, ht, hstore, ?_, recorded_of_raise (d := { s.dev with health := { s.dev.health with hours := satAdd 32 s.dev.health.hours 1 } }) rfl hdev⟩
  rw [hdev, Dev.raise_health]

/-! ### The end of the diagnostic state (16 R498; 17 R521) -/

theorem recordedAny_of_recorded {code : Nat} {ctx : Option Nat} {l : List Int} {s t : State} (h : recorded code ctx l s t) : recordedAny code s t := by
  obtain ⟨r, hr, hseq, hcode, -⟩ := h
  exact ⟨r, hr, hseq, hcode⟩

/-- A later event's record follows one of the numbers that the ring had. -/
theorem recordedAny_of_appended {s t : State} {d : Dev} {n k code die : Nat} {fw : Bool} {ctx : Option Nat} {l : List Int}
    (hmb : s.dev.mb.Appended n d.mb) (ht : (d.raise code die fw ctx l).mb.Appended k t.dev.mb) (hk : k ≤ 8190) : recordedAny code s t := by
  obtain ⟨r, hr, hseq, hcode, -⟩ := recorded_of_appended (s := ⟨[], ⟨s.store, d⟩⟩) (t := t) rfl ht hk
  exact ⟨r, hr, hmb.later.trans hseq, hcode⟩

/-- The two events of the end of the diagnostic state. -/
def Dev.diagEvents (d : Dev) (reason : Nat) : Dev :=
  (d.evTh 0x800E [reason]).ev 0xD008 (dieSelvage 0) none
    ((reason : Int) :: (List.range 7).map fun k => ((getD (d.evTh 0x800E [reason]).cr.counts (k + 16) 0 : Nat) : Int))

theorem Dev.endDiag_diag {d : Dev} (h : d.diag = true) (reason : Nat) :
    d.endDiag reason = { d.diagEvents reason with fw := { (d.diagEvents reason).fw with diagEnd := none }, cr := .init } := by
  unfold Dev.endDiag
  rw [h]
  rfl

theorem Dev.endDiag_recorded {s t : State} {d : Dev} {n reason : Nat} (h : d.diag = true) (hmb : d.mb = s.dev.mb)
    (ht : (d.endDiag reason).mb.Appended n t.dev.mb) (hn : n ≤ 8000) : recorded 0x800E none [reason] s t ∧ recordedAny 0xD008 s t := by
  rw [Dev.endDiag_diag h] at ht
  refine ⟨recorded_of_appended (n := 2 + n) hmb ((MbSt.Appended.raise ..).trans ht) (by omega), ?_⟩
  exact recordedAny_of_appended (hmb ▸ MbSt.Appended.raise ..) ht (by omega)

theorem diagExpiry_answers {s : State} {e : Nat} (he : s.dev.fw.diagEnd = some e) (hnow : e ≤ s.dev.tape.now) :
    ∃ t, exec .diagExpiry s = .next t ∧ sameStore s t
      ∧ t.dev.fw.diagEnd = none ∧ t.dev.cr = CreaseSt.init ∧ recorded 0x800E none [0] s t ∧ recordedAny 0xD008 s t := by
  have hdiag : s.dev.diag = true := by rw [Dev.diag, he]; rfl
  have hrun : (if s.dev.fw.diagEnd.any fun t => decide (t ≤ s.dev.now) then s.dev.endDiag 0 else s.dev) = s.dev.endDiag 0 := by
    simp [he, Dev.now, hnow]
  obtain ⟨t, ht, hstore, hdev⟩ := onDev_answers_of_eq (s := s) (f := fun d => if d.fw.diagEnd.any fun t => decide (t ≤ d.now) then d.endDiag 0 else d) hrun
  refine ⟨t, ht, hstore, ?_, ?_, Dev.endDiag_recorded (n := 0) hdiag rfl (hdev ▸ .refl _) (by omega)⟩
  all_goals rw [hdev, Dev.endDiag_diag hdiag]

/-- Settles O50: the four commands, each on the condition that makes it act. -/
theorem recorderClocksAndDiagnosis : Obligations.RecorderClocksAndDiagnosis := by
  unfold Obligations.RecorderClocksAndDiagnosis
  exact fun s => ⟨mbDrain_answers, creaseSummary_answers, hourMark_answers, fun e => diagExpiry_answers⟩

end Sys2Proof.Machine

/-! SUPPORT. Interrupt messages on their way to the companion, the low field of a register, and the entry to bare mode
(14 R405, R412, R418, R429). -/

namespace Sys2Proof.Machine

open Sys2Proof.Safety

/-! ### Interrupt messages (14 R405, R412, R418) -/

/-- Sending the messages leaves the device but for the messages. -/
theorem Box.flushMsgs_frame (b : Box) : ∃ msgs, b.flushMsgs.dev = { b.dev with yoke := { b.dev.yoke with msgs := msgs } } := by
  unfold Box.flushMsgs
  split
  · exact ⟨b.dev.yoke.msgs, rfl⟩
  · exact ⟨[], rfl⟩

/-- Without a message to send, or with the Yoke down, nothing is written. -/
theorem Box.flushMsgs_store {b : Box} (h : b.dev.yoke.msgs = []) : b.flushMsgs.store = b.store := by
  unfold Box.flushMsgs
  split
  · rfl
  · rw [h]
    rfl

theorem Box.flushMsgs_sent {b : Box} (h : b.dev.yoke.down = none) : b.flushMsgs.dev.yoke.msgs = [] := by
  simp [Box.flushMsgs, h]

/-- The one message that waits stands in companion memory, and no other byte differs. -/
theorem Box.flushMsgs_one {b : Box} {a : Nat} {v : W32} (hup : b.dev.yoke.down = none) (hmsgs : b.dev.yoke.msgs = [(a, v)]) :
    b.flushMsgs.store = b.store.wrMem (companionBase + a % 2 ^ 48) (clean (leBytes 4 v.toNat)) := by
  simp [Box.flushMsgs, hup, hmsgs]

theorem read_wrMem_clean {s : Store} (hs : s.wf = true) (a : Nat) {l : List Byte} {n : Nat} (hn : l.length = n) :
    (s.wrMem a (clean l)).mem.read a n = l := by
  subst hn
  have hmem : (s.wrMem a (clean l)).mem = s.mem.write a l := congrArg (s.mem.write a) (clean_bytes l)
  rw [hmem]
  exact Mem.read_write s.mem a l ((Store.wf_iff s).mp hs).1

/-! ### The lowest field of a register -/

/-- Fields above the lowest do not reach it. -/
theorem packFields_low {n : Nat} {l : List (Nat × Nat)} (h : ∀ e ∈ l, n ≤ e.2) (v : Nat) : packFields ((v, 0) :: l) % 2 ^ n = v % 2 ^ n := by
  have hfold : ∀ (l : List (Nat × Nat)), (∀ e ∈ l, n ≤ e.2) → ∀ a, l.foldl (fun a x => a + x.1 * 2 ^ x.2) a % 2 ^ n = a % 2 ^ n := by
    intro l hl
    induction l with
    | nil => exact fun a => rfl
    | cons e t ih =>
      intro a
      obtain ⟨k, hk⟩ := Nat.exists_eq_add_of_le (hl e List.mem_cons_self)
      rw [List.foldl_cons, ih (fun e he => hl e (List.mem_cons_of_mem _ he)), hk, pow_add, ← mul_assoc, mul_comm e.1, mul_assoc,
        Nat.add_mul_mod_self_left]
  rw [packFields, List.foldl_cons, hfold l h, Nat.zero_add, pow_zero, mul_one]

/-! ### The entry to bare mode (14 R429) -/

theorem Dev.foldl_updQueue (f : Nat → Queue → Queue) (l : List Nat) (d : Dev) :
    ∃ queues, l.foldl (fun d q => d.updQueue q (f q)) d = { d with queues := queues } := by
  induction l generalizing d with
  | nil => exact ⟨d.queues, rfl⟩
  | cons q t ih =>
    obtain ⟨queues, h⟩ := ih (d.updQueue q (f q))
    exact ⟨queues, h⟩

/-- The device in bare mode, its queues halted, before the interrupt and the record. -/
def Dev.bareWith (d : Dev) (queues : Tbl Queue) : Dev :=
  { d with yoke := { d.yoke with mode := 2, bareTape := d.now, bareCause := d.cutter.lastEv }, queues := queues }

theorem Dev.enterBare_eq (d : Dev) :
    ∃ queues, d.enterBare = ((d.bareWith queues).setDevirq 0).raise 0x100D (dieSelvage 0) false none [d.tape.now, d.runningMask] := by
  obtain ⟨queues, h⟩ := Dev.foldl_updQueue (fun _ x => { x with halted := true }) (List.range 9)
    { d with yoke := { d.yoke with mode := 2, bareTape := d.now, bareCause := d.cutter.lastEv } }
  refine ⟨queues, ?_⟩
  unfold Dev.enterBare
  dsimp only
  rw [h, Dev.ev_eq]
  rfl

theorem Dev.setDevirq_bit (d : Dev) {i : Nat} (hi : i < 3) : bitOf (d.setDevirq i).yoke.devirq i = true := by
  have hbit : ((BitVec.ofNat 3 (2 ^ i)).toNat).testBit i = true := by
    interval_cases i <;> rfl
  rw [bitOf, Dev.setDevirq, BitVec.toNat_or, Nat.testBit_or, hbit, Bool.or_true]

/-- A bit that becomes set while enabled puts the device's message behind those that wait (14 R412). -/
theorem Dev.setDevirq_msgs {d : Dev} {i : Nat} (hclear : bitOf d.yoke.devirq i = false) (hon : bitOf d.yoke.devirqEn i = true)
    (haddr : d.yoke.devirqAddr ≠ 0) :
    (d.setDevirq i).yoke.msgs = d.yoke.msgs ++ [(d.yoke.devirqAddr.toNat / 4 * 4, d.yoke.devirqData)] := by
  simpa [Dev.setDevirq, hclear, hon] using haddr

theorem Dev.reg_mode {d : Dev} (h : d.yoke.mode = 2) : d.reg 0x0008 % 4 = 2 := by
  have hlow := packFields_low (n := 2) (l := [(limN 2 d.cutterNo, 2), (limN 4 d.yoke.width, 4)]) (by simp) (limN 2 d.yoke.mode)
  rw [h] at hlow
  simpa [Dev.reg, Dev.rdYkStatus, h, limN] using hlow

theorem Dev.reg_bare {d : Dev} (h : d.yoke.mode = 2) : d.reg 0x2000 % 2 = 1 := by
  have hbare : d.bare = true := by rw [Dev.bare, h]; rfl
  have hlow := packFields_low (n := 1) (v := boolN d.bare)
    (l := (boolN (d.yoke.draining && !d.drained), 1) :: (boolN d.drained, 2) :: (boolN d.mb.flushed, 3)
      :: (List.range 8).map fun n => (boolN (d.ctx n).live, 16 + n)) (by simp; omega)
  rw [hbare] at hlow
  simpa [Dev.reg, Dev.rdBmStatus, hbare, boolN] using hlow

theorem Dev.reg_devirq {d : Dev} (h : bitOf d.yoke.devirq 0 = true) : d.reg 0x0010 % 2 = 1 := by
  rw [bitOf, Nat.testBit_zero] at h
  simpa [Dev.reg] using h

/-- Settles O46: the registers after `Dev.enterBare`, and the message that its interrupt bit sends. -/
theorem bareModeIsEntered : Obligations.BareModeIsEntered := by
  unfold Obligations.BareModeIsEntered
  intro s hready hpowered hnone
  obtain ⟨queues, henter⟩ := s.dev.enterBare_eq
  obtain ⟨msgs, hflush⟩ := (s.box.onD Dev.enterBare).flushMsgs_frame
  have hrun : (if s.box.dev.ready && s.box.dev.powered && s.box.dev.noCutter then (s.box.onD Dev.enterBare).flushMsgs else s.box)
      = (s.box.onD Dev.enterBare).flushMsgs := if_pos (by
    change (s.dev.ready && s.dev.powered && s.dev.noCutter) = true
    rw [hready, hpowered, hnone]
    rfl)
  refine ⟨s.setBox (s.box.onD Dev.enterBare).flushMsgs, congrArg (fun b => Host.Outcome.next (s.setBox b)) hrun, ?_⟩
  have hdev : (s.setBox (s.box.onD Dev.enterBare).flushMsgs).dev = { s.dev.enterBare with yoke := { s.dev.enterBare.yoke with msgs := msgs } } := hflush
  have hyoke : s.dev.enterBare.yoke = ((s.dev.bareWith queues).setDevirq 0).yoke := by rw [henter, Dev.raise_yoke]
  have hmode : (s.setBox (s.box.onD Dev.enterBare).flushMsgs).dev.yoke.mode = 2 := by
    rw [hdev, hyoke]
    rfl
  refine ⟨Dev.reg_mode hmode, Dev.reg_bare hmode, Dev.reg_devirq ?_, ?_, ?_⟩
  · rw [hdev, hyoke]
    exact Dev.setDevirq_bit _ (by decide)
  · exact recorded_of_raise_mb (d := (s.dev.bareWith queues).setDevirq 0) rfl (by rw [hdev, henter])
  · intro hclear hon haddr hup hmsgs hok
    have hsent : (s.box.onD Dev.enterBare).dev.yoke.msgs = [(s.dev.yoke.devirqAddr.toNat / 4 * 4, s.dev.yoke.devirqData)] := by
      change s.dev.enterBare.yoke.msgs = _
      rw [hyoke, Dev.setDevirq_msgs (d := s.dev.bareWith queues) hclear hon haddr]
      change s.dev.yoke.msgs ++ _ = _
      rw [hmsgs]
      rfl
    have hstore := Box.flushMsgs_one (b := s.box.onD Dev.enterBare) (by change s.dev.enterBare.yoke.down = none; rw [hyoke]; exact hup) hsent
    rw [State.setBox_store, hstore]
    exact read_wrMem_clean hok _ (leBytes_length _ _)

end Sys2Proof.Machine

/-! SUPPORT. Bastes and their pools: abandoning one, and the copy of a granule with and without a free slot (15 R452, R455, R456). -/

namespace Sys2Proof.Machine

open Sys2Proof.Safety

/-! ### Abandoning a Baste (15 R452, R456) -/

/-- The command of a Baste's ID that is still open. -/
def opensBaste (id : Nat) (o : OpenCmd) : Bool := match o.kind with | .baste i => i == id | _ => false

/-- A Baste without protection, and event 0xC803. -/
def Dev.abandoned (d : Dev) (id reason : Nat) : Dev :=
  (d.setBaste id { d.baste id with st := 5, prot := [], copied := [], auto := none }).evFw 0xC803 none [id, reason]

theorem Dev.abandonBaste_eq (d : Dev) (id reason : Nat) :
    d.abandonBaste id reason = (d.abandoned id reason).endOpens (opensBaste id) 1 0xC803 := rfl

/-- Ending commands changes the open ones and the queues. -/
theorem Dev.endOpens_frame (d : Dev) (p : OpenCmd → Bool) (status event : Nat) (x : W32) (y : W64) :
    ∃ queues, d.endOpens p status event x y = { d with queues := queues, opens := d.opens.filter fun o => !p o } := by
  have hfold : ∀ (l : List OpenCmd) (e : Dev), ∃ queues, l.foldl (fun d o => d.complete o.cmd status event x y) e = { e with queues := queues } := by
    intro l
    induction l with
    | nil => exact fun e => ⟨e.queues, rfl⟩
    | cons o t ih =>
      intro e
      obtain ⟨queues, h⟩ := e.complete_onlyQueues o.cmd status event x y
      obtain ⟨queues', h'⟩ := ih { e with queues := queues }
      exact ⟨queues', by rw [List.foldl_cons, h, h']⟩
  exact hfold _ _

/-- Without an open command that it ends, nothing changes. -/
theorem Dev.endOpens_none {d : Dev} {p : OpenCmd → Bool} (h : ∀ o ∈ d.opens, p o = false) (status event : Nat) (x : W32) (y : W64) :
    d.endOpens p status event x y = d := by
  have hhit : d.opens.filter p = [] := List.filter_eq_nil_iff.mpr fun o ho => by simp [h o ho]
  have hrest : (d.opens.filter fun o => !p o) = d.opens := List.filter_eq_self.mpr fun o ho => by simp [h o ho]
  simp only [Dev.endOpens, hhit, hrest, List.foldl_nil]

/-- What an abandoned Baste leaves. -/
theorem Dev.abandonBaste_baste (d : Dev) (id reason : Nat) :
    (d.abandonBaste id reason).baste id = { d.baste id with st := 5, prot := [], copied := [], auto := none } := by
  obtain ⟨queues, h⟩ := (d.abandoned id reason).endOpens_frame (opensBaste id) 1 0xC803 0 0
  rw [Dev.abandonBaste_eq, h]
  change (d.abandoned id reason).baste id = _
  rw [Dev.abandoned, Dev.evFw_eq, Dev.raise_baste_of, Dev.setBaste_baste_same]

theorem Dev.abandonBaste_mb (d : Dev) (id reason : Nat) : (d.abandonBaste id reason).mb = (d.abandoned id reason).mb := by
  obtain ⟨queues, h⟩ := (d.abandoned id reason).endOpens_frame (opensBaste id) 1 0xC803 0 0
  rw [Dev.abandonBaste_eq, h]

theorem recorded_of_abandonBaste {s t : State} {d : Dev} {id reason : Nat} (hmb : d.mb = s.dev.mb) (ht : t.dev.mb = (d.abandonBaste id reason).mb) :
    recorded 0xC803 none [id, reason] s t :=
  recorded_of_raise_mb (d := d.setBaste id { d.baste id with st := 5, prot := [], copied := [], auto := none }) hmb
    (ht.trans (d.abandonBaste_mb id reason))

/-! ### The copy of a granule (15 R455, R456) -/

theorem Box.copyGranule_full {b : Box} {g id : Nat} {x : Baste} (hx : b.dev.protector g = some (id, x))
    (hfull : ∀ i, i < b.dev.poolSlots x → ∃ e ∈ x.copied, e.2 = i) : b.copyGranule g = b.onD fun d => d.abandonBaste id 0 := by
  have hnone : (List.range (b.dev.poolSlots x)).find? (fun i => !(x.copied.any fun e => e.2 == i)) = none := by
    simpa using hfull
  simp only [Box.copyGranule, hx, hnone]

/-- Abandoned for a full pool. -/
def basteAbandoned (id : Nat) (s t : State) : Prop :=
  (t.dev.baste id).st = 5 ∧ (t.dev.baste id).prot = [] ∧ (t.dev.baste id).copied = [] ∧ recorded 0xC803 none [id, 0] s t

theorem basteAbandoned_of_abandonBaste {s t : State} {id : Nat} (hbastes : t.dev.bastes = (s.dev.abandonBaste id 0).bastes)
    (hmb : t.dev.mb = (s.dev.abandonBaste id 0).mb) : basteAbandoned id s t := by
  have hbaste : t.dev.baste id = { s.dev.baste id with st := 5, prot := [], copied := [], auto := none } := by
    rw [← s.dev.abandonBaste_baste id 0, Dev.baste, Dev.baste, hbastes]
  exact ⟨by rw [hbaste], by rw [hbaste], by rw [hbaste], recorded_of_abandonBaste rfl hmb⟩

/-- A write through the aperture that may land is made; the companion keeps its lines (14 R408, R410). -/
theorem Box.aperture_write {b : Box} {off : Nat} {l : List Byte} {a : Nat} (ha : a = aperTarget (getD b.dev.yoke.aper (off / 2 ^ 36) 0) + off % 2 ^ 36)
    (hup : b.dev.yoke.down = none) (hhold : b.dev.power.hold = false)
    (hfault : b.dev.aperFault (getD b.dev.yoke.aper (off / 2 ^ 36) 0) a l.length true = none) (htrip : b.dev.tripHolds a l.length = false) :
    b.aperture off l.length (some l) = (b.wrClean a l).onD fun d => { d with yoke := { d.yoke with directory := b.dev.yoke.directory } } := by
  subst ha
  simp only [Box.aperture, hup, hhold, Option.isSome_some, Option.isSome_none, hfault, htrip, Bool.false_eq_true, if_false]

section
variable {g id : Nat} {x : Baste} {s : State} (hx : s.dev.protector g = some (id, x)) (hfull : ∀ i, i < s.dev.poolSlots x → ∃ e ∈ x.copied, e.2 = i)
include hx hfull

theorem basteGranuleCopy_full : ∃ t, exec (.basteGranuleCopy g) s = .next t ∧ sameStore s t ∧ basteAbandoned id s t := by
  obtain ⟨t, ht, hstore, hdev⟩ := on_answers_onD (s := s) (f := fun b => b.copyGranule g) (Box.copyGranule_full (b := s.box) hx hfull)
  exact ⟨t, ht, hstore, basteAbandoned_of_abandonBaste (congrArg Dev.bastes hdev) (congrArg Dev.mb hdev)⟩

/-- A write that meets the one protected granule abandons the Baste and is then made. -/
theorem Box.wrClean_full {a : Nat} {l : List Byte} (hg : granulesOf a l.length = [g]) :
    s.box.wrClean a l = ⟨s.store.wrMem a (clean l), (s.dev.abandonBaste id 0).recalled (linesOf a l.length)⟩ := by
  have hlen : (clean l).length = l.length := List.length_map ..
  rw [Box.wrClean, Box.wrDev, hlen, hg, List.foldl_cons, List.foldl_nil, Box.copyGranule_full (b := s.box) hx hfull]
  rfl

theorem apertureAccess_full {off : BitVec 40} {l : List Byte} {a : Nat} {r : W64} (hr : r = getD s.dev.yoke.aper (off.toNat / 2 ^ 36) 0)
    (ha : a = aperTarget r + off.toNat % 2 ^ 36) (hup : s.dev.yoke.down = none) (hhold : s.dev.power.hold = false)
    (hfault : s.dev.aperFault r a l.length true = none) (hg : granulesOf a l.length = [g]) (htrip : s.dev.tripHolds a l.length = false)
    (hok : memoryOk s) :
    ∃ t, exec (.apertureAccess off l.length (some l)) s = .next t ∧ basteAbandoned id s t ∧ t.store.mem.read a l.length = l := by
  subst hr
  have hwrite := Box.aperture_write (b := s.box) ha hup hhold hfault htrip
  rw [Box.wrClean_full hx hfull hg] at hwrite
  refine ⟨_, congrArg (fun b => Host.Outcome.next (s.setBox b)) hwrite, ?_, read_wrMem_clean hok a rfl⟩
  generalize hd : s.dev.abandonBaste id 0 = d
  exact basteAbandoned_of_abandonBaste (by rw [hd]; rfl) (by rw [hd]; rfl)
end

/-- Settles O45. -/
theorem poolFullAbandonsTheBaste : Obligations.PoolFullAbandonsTheBaste := by
  unfold Obligations.PoolFullAbandonsTheBaste
  intro g id x s hx _ hfull
  obtain ⟨t, ht, hstore, hst, hprot, hcopied, hrec⟩ := basteGranuleCopy_full hx hfull
  refine ⟨⟨t, ht, hstore, hst, hprot, hcopied, hrec⟩, fun off l hup hhold hfault hg htrip hok => ?_⟩
  obtain ⟨t, ht, ⟨hst, hprot, hcopied, hrec⟩, hread⟩ := apertureAccess_full hx hfull rfl rfl hup hhold hfault hg htrip hok
  exact ⟨t, ht, hst, hprot, hcopied, hrec, hread⟩

end Sys2Proof.Machine

/-! SUPPORT. The life of a Baste: taking, copying, draining, restoring, releasing (15 R452 to R462). -/

namespace Sys2Proof.Machine

open Sys2Proof.Safety

/-! ### Commands that change the device and succeed, or stay open -/

section
variable {opc : Nat} {c : Ici} {needs : Bool} {s : State} (h : performs opc c needs s)
include h

/-- A command that changes the device and succeeds. -/
theorem ici_sets {f : Pend → Box → Box} {d : Dev} (hf : f (Ici.pend opc c) (s.performing opc c)
      = (s.performing opc c).onD fun _ => d.okCmd (Ici.pend opc c)) (hqueues : d.queues = (s.dev.takeAccepted opc c).queues)
    (hbare : d.bare = false) :
    ∃ t, s.ici opc c needs f = .next t ∧ sameStore s t ∧ succeeds opc c s t ∧ t.dev = { d with queues := t.dev.queues } := by
  obtain ⟨queues, hok⟩ := d.complete_onlyQueues (Ici.pend opc c) 0 0 0 0
  refine ⟨_, ici_performing h hf, ⟨rfl, rfl⟩, answers_of_complete (d := d) rfl hqueues hbare, ?_⟩
  rw [State.setBox_dev, Box.onD_dev, Dev.okCmd, hok]

/-- A command that changes the device and stays open. -/
theorem ici_opens {f : Pend → Box → Box} {d : Dev} (hf : f (Ici.pend opc c) (s.performing opc c) = (s.performing opc c).onD fun _ => d)
    (hqueues : d.queues = (s.dev.takeAccepted opc c).queues) :
    ∃ t, s.ici opc c needs f = .next t ∧ sameStore s t ∧ taken opc c s t ∧ t.dev = d :=
  ⟨_, ici_performing h hf, ⟨rfl, rfl⟩, taken_of_queues hqueues, rfl⟩

end

/-- Ending the one open command that the condition selects. -/
theorem Dev.endOpens_one {d : Dev} {l : List OpenCmd} {o : OpenCmd} {p : OpenCmd → Bool} (hopens : d.opens = l ++ [o])
    (hl : ∀ x ∈ l, p x = false) (ho : p o = true) (status event : Nat) (x : W32) (y : W64) :
    d.endOpens p status event x y = ({ d with opens := l } : Dev).complete o.cmd status event x y := by
  have hhit : d.opens.filter p = [o] := by
    rw [hopens, List.filter_append, List.filter_eq_nil_iff.mpr fun x hx => by simp [hl x hx]]
    simp [ho]
  have hrest : (d.opens.filter fun o => !p o) = l := by
    rw [hopens, List.filter_append, List.filter_eq_self.mpr fun x hx => by simp [hl x hx]]
    simp [ho]
  simp only [Dev.endOpens, hhit, hrest, List.foldl_cons, List.foldl_nil]

/-! ### BASTE_TAKE (15 R452, R453) -/

/-- A Baste that has been asked for. -/
def basteAsked (p : BitVec 384) (rs : List (Nat × Nat)) : Baste :=
  { Baste.init with
    st := 1, ctx := payBits p 0 0 3, ranges := rs, pool := pay p 16 8, auto := none, jobs := pay p 6 2, costFloor := pay p 32 4 }

/-- The device that holds it, its command open. -/
def Dev.basteOpened (d : Dev) (k : Pend) (p : BitVec 384) (rs : List (Nat × Nat)) : Dev :=
  { (d.setBaste (payBits p 1 0 4) (basteAsked p rs)) with opens := d.opens ++ [⟨k, .baste (payBits p 1 0 4)⟩] }

section
variable {b : Box} {k : Pend} {p : BitVec 384} {l : List Byte}

theorem Box.basteTake_passes (hst : (b.dev.ctx (payBits p 0 0 3)).st ≠ .stopping) (hempty : (b.dev.baste (payBits p 1 0 4)).st = 0)
    (hfew : b.dev.openBastes.length < 4) (hcnt : 1 ≤ pay p 4 2) (hcnt' : pay p 4 2 ≤ 256) (hjobs : 1 ≤ pay p 6 2) (hjobs' : pay p 6 2 ≤ 8192)
    (hread : ∀ f : List Byte → Box → Box, (b.withAddr k none 8 (pay p 8 8) (16 * pay p 4 2) 64 false fun b => b.withData k (pay p 8 8) (16 * pay p 4 2) f) = f l b)
    (hspare : rangesSpare l (pay p 4 2) = true) (hranges : b.dev.rangesOk (rangeEntries l (pay p 4 2)) = true)
    (hpool : b.dev.poolOk (pay p 16 8) (rangeEntries l (pay p 4 2)) = true) (hauto : payBits p 2 0 1 = 0) (hdest : pay p 24 8 = 0) :
    b.basteTake k p = b.onD fun d =>
      if (d.ctx (payBits p 0 0 3)).st = .running then d.basteOpened k p (rangeEntries l (pay p 4 2))
      else (d.basteOpened k p (rangeEntries l (pay p 4 2))).protectBaste (payBits p 1 0 4) := by
  unfold Box.basteTake
  rw [Box.fields_pass (by simp [hst, hempty, hfew, hcnt, hcnt', hjobs, hjobs'])]
  simp only [hread]
  rw [Box.fields_pass (by simp [hspare, hranges, hpool, hauto, hdest])]
  simp only [hauto, Nat.zero_ne_one, if_false]
  rfl

end

/-- The protection of a Baste without AUTO_DRAIN: every granule of its ranges, from now on. -/
def Dev.basteProtected (d : Dev) (id : Nat) : Dev :=
  let x := d.baste id
  let gs := x.ranges.flatMap rangeGranules
  (d.setBaste id { x with
    st := 2, step := (d.ctx x.ctx).step, tape := d.now, prot := gs, delay := d.freeDelay 0x453 10000, auto := none, dest := none, drainStart := d.now
    done := [], poison := [], drained := 0, phase := 0, cur := none, dataOff := 0 }).evFw 0xC800 (some x.ctx)
      [id, (d.ctx x.ctx).step, gs.length, d.freeDelay 0x453 10000]

/-- The command `opc` of a Baste's ID that is still open. -/
def opensBasteBy (id opc : Nat) (o : OpenCmd) : Bool := match o.kind with | .baste i => i == id && o.cmd.opc == opc | _ => false

theorem opensBasteBy_of_kind_ne {id opc : Nat} {o : OpenCmd} (h : o.kind ≠ .baste id) : opensBasteBy id opc o = false := by
  unfold opensBasteBy
  split
  · next i hi =>
    have hne : i ≠ id := fun he => h (he ▸ hi)
    simp [hne]
  · rfl

theorem Dev.protectBaste_eq {d : Dev} {id : Nat} (h : (d.baste id).auto = none) :
    d.protectBaste id = (d.basteProtected id).endOpens (opensBasteBy id 0x0701) 0 0 := by
  unfold Dev.protectBaste
  dsimp only
  rw [h]
  rfl

/-- A Baste that was just asked for, whose context does not run: it is protected, and its command has succeeded. -/
theorem Dev.basteOpened_protectBaste {d : Dev} {k : Pend} {p : BitVec 384} {rs : List (Nat × Nat)} (hopc : k.opc = 0x0701)
    (hopens : ∀ o ∈ d.opens, o.kind ≠ .baste (payBits p 1 0 4)) : (d.basteOpened k p rs).protectBaste (payBits p 1 0 4)
      = ({ (d.basteOpened k p rs).basteProtected (payBits p 1 0 4) with opens := d.opens } : Dev).okCmd k := by
  have hauto : ((d.basteOpened k p rs).baste (payBits p 1 0 4)).auto = none := by
    change ((d.setBaste _ _).baste _).auto = none
    rw [Dev.setBaste_baste_same]
    rfl
  rw [Dev.protectBaste_eq hauto]
  have hkeep : ((d.basteOpened k p rs).basteProtected (payBits p 1 0 4)).opens = d.opens ++ [⟨k, .baste (payBits p 1 0 4)⟩] := by
    rw [Dev.basteProtected, Dev.evFw_eq, Dev.raise_opens]
    rfl
  rw [Dev.endOpens_one hkeep (fun o ho => opensBasteBy_of_kind_ne (hopens o ho)) (by simp [opensBasteBy, hopc])]
  rfl

/-- A BASTE_TAKE that meets its conditions. -/
def takeBegun (p : BitVec 384) (k : Pend) (rs : List (Nat × Nat)) (d : Dev) : Dev :=
  if (d.ctx (payBits p 0 0 3)).st = .running then d.basteOpened k p rs else (d.basteOpened k p rs).protectBaste (payBits p 1 0 4)

section
variable {c : Ici} {s : State} {rs : List (Nat × Nat)} (h : performs 0x0701 c true s)
  (hpass : (s.performing 0x0701 c).basteTake (Ici.pend 0x0701 c) c.p = (s.performing 0x0701 c).onD (takeBegun c.p (Ici.pend 0x0701 c) rs))
include h hpass

/-- While the context runs, the Baste waits for its take point. -/
theorem basteTake_pending (hrun : ((s.dev.takeAccepted 0x0701 c).ctx (payBits c.p 0 0 3)).st = .running) :
    ∃ t, exec (.basteTake c) s = .next t ∧ sameStore s t ∧ t.dev.baste (payBits c.p 1 0 4) = basteAsked c.p rs ∧ taken 0x0701 c s t := by
  obtain ⟨t, ht, hstore, htaken, hdev⟩ := ici_opens h (f := fun k b => b.basteTake k c.p)
    (d := (s.dev.takeAccepted 0x0701 c).basteOpened (Ici.pend 0x0701 c) c.p rs)
    (hpass.trans (congrArg (fun e => Box.onD _ fun _ => e) (if_pos hrun))) rfl
  exact ⟨t, ht, hstore, by rw [hdev]; exact Dev.setBaste_baste_same .., htaken⟩

/-- Else it is protected at once. -/
theorem basteTake_protected (hrun : ((s.dev.takeAccepted 0x0701 c).ctx (payBits c.p 0 0 3)).st ≠ .running)
    (hopens : ∀ o ∈ (s.dev.takeAccepted 0x0701 c).opens, o.kind ≠ .baste (payBits c.p 1 0 4)) :
    ∃ t, exec (.basteTake c) s = .next t ∧ sameStore s t
      ∧ ((t.dev.baste (payBits c.p 1 0 4)).ranges = rs ∧ (t.dev.baste (payBits c.p 1 0 4)).pool = pay c.p 16 8
        ∧ (t.dev.baste (payBits c.p 1 0 4)).st = 2 ∧ (t.dev.baste (payBits c.p 1 0 4)).prot = rs.flatMap rangeGranules)
      ∧ succeeds 0x0701 c s t ∧ recordedAny 0xC800 s t := by
  generalize hd : (s.dev.takeAccepted 0x0701 c).basteOpened (Ici.pend 0x0701 c) c.p rs = d
  have hasked : d.baste (payBits c.p 1 0 4) = basteAsked c.p rs := by
    rw [← hd]
    exact Dev.setBaste_baste_same ..
  obtain ⟨t, ht, hstore, hok, hdev⟩ := ici_sets h (f := fun k b => b.basteTake k c.p)
    (d := { d.basteProtected (payBits c.p 1 0 4) with opens := (s.dev.takeAccepted 0x0701 c).opens })
    (hpass.trans (congrArg (fun e => Box.onD _ fun _ => e) ((if_neg hrun).trans (hd ▸ Dev.basteOpened_protectBaste rfl hopens))))
    (by rw [← hd]; exact Dev.raise_queues ..) ((Dev.raise_bare_of ..).trans (hd ▸ performs_bare h))
  have hbaste : t.dev.baste (payBits c.p 1 0 4) = (d.basteProtected (payBits c.p 1 0 4)).baste (payBits c.p 1 0 4) := by
    rw [hdev]
    rfl
  rw [Dev.basteProtected, Dev.evFw_eq, Dev.raise_baste_of, Dev.setBaste_baste_same, hasked] at hbaste
  have hmb : t.dev.mb = (d.basteProtected (payBits c.p 1 0 4)).mb := by
    rw [hdev]
  rw [Dev.basteProtected, Dev.evFw_eq] at hmb
  exact ⟨t, ht, hstore, by simp [hbaste, basteAsked], hok, recordedAny_of_recorded (recorded_of_raise_mb (hd ▸ rfl) hmb)⟩
end

/-! ### The copy of a granule into a free slot (15 R455) -/

theorem memSame_wrMem {s t : State} {a : Nat} {l : List PB} (hok : memoryOk s) (hstore : t.store = s.store.wrMem a l) : memSame a l.length s t := by
  intro i hi
  rw [hstore, Store.wrMem_byte _ _ _ _ hok, if_neg hi]

theorem rdMem_length (s : Store) (a n : Nat) : (s.rdMem a n).length = n := by
  have h := congrArg List.length (bytesOf_rdMem s a n)
  rwa [bytesOf, List.length_map, Mem.read_length] at h

/-- Bytes copied within device memory. -/
theorem read_wrMem_rdMem {s : Store} (hok : s.wf = true) (a b n : Nat) : (s.wrMem a (s.rdMem b n)).mem.read a n = s.mem.read b n := by
  have hmem : (s.wrMem a (s.rdMem b n)).mem = s.mem.write a (s.mem.read b n) := congrArg (s.mem.write a) (bytesOf_rdMem s b n)
  have hread := s.mem.read_write a (s.mem.read b n) ((Store.wf_iff s).mp hok).1
  rwa [Mem.read_length, ← hmem] at hread

theorem basteGranuleCopy_slot {g id i : Nat} {x : Baste} {s : State} (hx : s.dev.protector g = some (id, x)) (hok : memoryOk s)
    (hfree : (List.range (s.dev.poolSlots x)).find? (fun i => !(x.copied.any fun e => e.2 == i)) = some i) :
    ∃ t, exec (.basteGranuleCopy g) s = .next t ∧ get? (t.dev.baste id).copied g = some i
      ∧ t.store.mem.read (x.pool + i * granule) granule = s.store.mem.read (g * granule) granule ∧ memSame (x.pool + i * granule) granule s t := by
  have hcopy : s.box.copyGranule g = ⟨s.store.wrMem (x.pool + i * granule) (s.store.rdMem (g * granule) granule), s.dev.setBaste id { x with
      copied := put x.copied g i, copies := x.copies + 1, copyWait := x.copyWait + s.dev.freeDelay (0x455 + x.copies) 50000 }⟩ := by
    have hx' : s.box.dev.protector g = some (id, x) := hx
    have hfree' : (List.range (s.box.dev.poolSlots x)).find? (fun i => !(x.copied.any fun e => e.2 == i)) = some i := hfree
    simp only [Box.copyGranule, hx', hfree']
    rfl
  refine ⟨_, congrArg (fun b => Host.Outcome.next (s.setBox b)) hcopy, ?_, read_wrMem_rdMem hok .., ?_⟩
  · rw [State.setBox_dev, Dev.setBaste_baste_same]
    exact get?_put_same ..
  · have hsame := memSame_wrMem (t := s.setBox ⟨s.store.wrMem (x.pool + i * granule) (s.store.rdMem (g * granule) granule), s.dev⟩) hok rfl
    rw [rdMem_length] at hsame
    exact hsame

/-! ### BASTE_DRAIN (15 R457) -/

theorem basteDrain_answers {c : Ici} {s : State} (h : performs 0x0702 c true s) {id : Nat} (hid : id = payBits c.p 0 0 4) {x : Baste}
    (hx : x = (s.dev.takeAccepted 0x0702 c).baste id) (hst : x.st = 2)
    (hdest : (s.dev.takeAccepted 0x0702 c).destOk (pay c.p 8 8) (imageLen x.imageRanges.length x.left.length (s.box.poisonCount x)) = true) :
    ∃ t, exec (.basteDrain c) s = .next t ∧ sameStore s t ∧ (t.dev.baste id).st = 3 ∧ (t.dev.baste id).dest = some (pay c.p 8 8)
      ∧ (t.dev.baste id).prot = x.prot ∧ taken 0x0702 c s t := by
  subst hid
  generalize hd : s.dev.takeAccepted 0x0702 c = d at hx hdest
  have hrun : (s.performing 0x0702 c).basteDrain (Ici.pend 0x0702 c) c.p = (s.performing 0x0702 c).onD fun _ =>
      { d.setBaste (payBits c.p 0 0 4) { x with
          st := 3, dest := some (pay c.p 8 8), drainStart := d.now, done := [], poison := [], phase := 0, cur := none, dataOff := 0 } with
        opens := d.opens ++ [⟨Ici.pend 0x0702 c, .baste (payBits c.p 0 0 4)⟩] } := by
    have hdev : (s.performing 0x0702 c).dev = d := hd
    have hcount : (s.performing 0x0702 c).poisonCount x = s.box.poisonCount x := rfl
    unfold Box.basteDrain
    dsimp only
    rw [hdev, ← hx, Box.fields_pass (by simp [hst, hcount, hdest])]
    subst hd hx
    rfl
  obtain ⟨t, ht, hstore, htaken, hdev⟩ := ici_opens h (f := fun k b => b.basteDrain k c.p) hrun (by rw [hd]; rfl)
  have hbaste : t.dev.baste (payBits c.p 0 0 4) = _ := (congrArg (Dev.baste · _) hdev).trans (Dev.setBaste_baste_same ..)
  exact ⟨t, ht, hstore, by rw [hbaste], by rw [hbaste], by rw [hbaste], htaken⟩

/-! ### BASTE_GRANULE_DRAINED (15 R457, R460) -/

/-- A drain that may move: the device is not in Hold, no Spool is in Trip, and the Baste is DRAINING. -/
def Dev.drainMoves (d : Dev) (id : Nat) : Prop := d.power.hold = false ∧ (∀ m, m < 8 → (d.spool m).therm ≠ 4) ∧ (d.baste id).st = 3

section
variable {b : Box} {id : Nat} (h : b.dev.drainMoves id)
include h

theorem Box.drainStep_passes : ¬((b.dev.baste id).st ≠ 3 ∨ b.dev.power.hold ∨ (List.range 8).any (fun m => (b.dev.spool m).therm == 4)) := by
  obtain ⟨hhold, htrip, hst⟩ := h
  have hnone : ((List.range 8).any fun m => (b.dev.spool m).therm == 4) = false := by simpa using htrip
  simp [hst, hhold, hnone]

theorem Box.drainStep_refused {st : Nat} (hcur : (b.dev.baste id).cur ≠ none) : b.drainStep id (some st) = b.onD fun d => d.failDrain id st := by
  unfold Box.drainStep
  dsimp only
  rw [if_neg (Box.drainStep_passes h), if_pos (Option.isSome_iff_ne_none.mpr hcur)]

theorem Box.drainStep_begins (hcur : (b.dev.baste id).cur = none) : b.drainStep id none = b.drainNext id (b.dev.baste id) := by
  unfold Box.drainStep
  dsimp only
  rw [if_neg (Box.drainStep_passes h), if_neg (by simp [hcur])]

theorem Box.drainStep_acknowledged (hcur : (b.dev.baste id).cur ≠ none) (hbusy : b.dev.drainBusy id = false) : b.drainStep id none =
    if ((b.drainAck id (b.dev.baste id)).dev.baste id).st = 3
      then (b.drainAck id (b.dev.baste id)).drainNext id ((b.drainAck id (b.dev.baste id)).dev.baste id) else b.drainAck id (b.dev.baste id) := by
  unfold Box.drainStep
  dsimp only
  rw [if_neg (Box.drainStep_passes h), if_pos (Option.isSome_iff_ne_none.mpr hcur), hbusy]
  rfl

end

theorem exec_basteGranuleDrained {s : State} {id : Fin 16} {fail : Option (Fin 8)} {b : Box} (hpowered : s.dev.powered = true)
    (hb : s.box.drainStep id.val (fail.map (·.val)) = b) : exec (.basteGranuleDrained id fail) s = .next (s.setBox b) := by
  subst hb
  exact congrArg (fun b => Host.Outcome.next (s.setBox b)) (if_pos hpowered)

/-- A Baste whose drain has stopped, and the device without the writes of that drain. -/
def Baste.stopped (x : Baste) : Baste := { x with st := 2, auto := none, dest := none, phase := 0, cur := none, done := [], poison := [] }

def Dev.drainStopped (d : Dev) (id : Nat) : Dev :=
  { d.setBaste id (d.baste id).stopped with fab := { d.fab with
      remote := d.fab.remote.filter fun r => !r.ofDrain id, waitWr := d.fab.waitWr.filter fun r => !r.ofDrain id } }

/-- The device after a refused write of a drain, before its command ends. -/
def Dev.drainFailed (d : Dev) (id status : Nat) : Dev :=
  (d.drainStopped id).evFw 0xC802 none
    [id, ((if (d.baste id).phase = 0 then (d.baste id).done.length else 0xFFFFFFFF : Nat) : Int), status]

theorem Dev.drainFailed_baste (d : Dev) (id status : Nat) : (d.drainFailed id status).baste id = (d.baste id).stopped := by
  rw [Dev.drainFailed, Dev.evFw_eq, Dev.raise_baste_of]
  exact Dev.setBaste_baste_same ..

theorem Dev.failDrain_eq {d : Dev} {id status : Nat} (h : (d.baste id).st = 3) :
    d.failDrain id status = (d.drainFailed id status).endOpens (opensBasteBy id 0x0702) 1 0xC802 := by
  unfold Dev.failDrain
  dsimp only
  rw [if_neg (by simp [h])]
  rfl

theorem basteGranuleDrained_refused {s : State} {id : Fin 16} (e : Fin 8) (hpowered : s.dev.powered = true) (hmoves : s.dev.drainMoves id.val)
    (hcur : (s.dev.baste id.val).cur ≠ none) :
    ∃ t, exec (.basteGranuleDrained id (some e)) s = .next t ∧ sameStore s t
      ∧ (t.dev.baste id.val).st = 2 ∧ (t.dev.baste id.val).prot = (s.dev.baste id.val).prot ∧ recordedAny 0xC802 s t := by
  obtain ⟨queues, hend⟩ := (s.dev.drainFailed id.val e.val).endOpens_frame (opensBasteBy id.val 0x0702) 1 0xC802 0 0
  have hfail := (Dev.failDrain_eq (status := e.val) hmoves.2.2).trans hend
  refine ⟨_, exec_basteGranuleDrained hpowered ((Box.drainStep_refused (b := s.box) hmoves hcur).trans
    (congrArg (fun d => Box.onD _ fun _ => d) hfail)), ⟨rfl, rfl⟩, ?_⟩
  have hbaste := s.dev.drainFailed_baste id.val e.val
  exact ⟨congrArg Baste.st hbaste, (congrArg Baste.prot hbaste).trans rfl, recordedAny_of_appended (d := s.dev.drainStopped id.val) (.refl _) (.refl _) (by decide)⟩

/-- A header that is acknowledged: the Baste is DRAINED, event 0xC801. -/
def Dev.headerDrained (d : Dev) (id : Nat) (x : Baste) : Dev :=
  (d.setBaste id { x with st := 4, prot := [], copied := [], cur := none, phase := 0 }).evFw 0xC801 none
    [id, x.dest.getD 0, x.dataOff + x.done.length * granule, (d.now - x.drainStart) / 1000, x.copies, x.copyWait]

theorem Dev.headerDrained_baste (d : Dev) (id : Nat) (x : Baste) :
    (d.headerDrained id x).baste id = { x with st := 4, prot := [], copied := [], cur := none, phase := 0 } := by
  rw [Dev.headerDrained, Dev.evFw_eq, Dev.raise_baste_of, Dev.setBaste_baste_same]

theorem Box.drainAck_header {b : Box} {id : Nat} {x : Baste} (h : x.phase = 2) : b.drainAck id x = b.onD fun d =>
    ((d.headerDrained id x).endOpens (opensBasteBy id 0x0702) 0 0).interval x := by
  unfold Box.drainAck
  rw [if_neg (by omega), if_neg (by omega)]
  rfl

/-- The device with the interval that is advised now. -/
def Dev.withInterval (d : Dev) (v us : Nat) : Dev := { d with health := { d.health with interval := v, stepUs := us } }

theorem Dev.interval_eq (d : Dev) (x : Baste) : d.interval x = d ∨ (∃ v us, d.interval x = d.withInterval v us)
    ∨ ∃ v us l, d.interval x = (d.withInterval v us).evFw 0xC807 (some x.ctx) l := by
  unfold Dev.interval
  dsimp only
  generalize min (2 ^ 32 - 1) (d.suggest x (d.ctx x.ctx).stepSpan.1 (d.ctx x.ctx).stepSpan.2) = v
  split
  · exact .inl rfl
  · split
    · exact .inr (.inl ⟨v, _, rfl⟩)
    · exact .inr (.inr ⟨v, _, _, rfl⟩)

/-- The suggested interval changes no Baste, and may add event 0xC807. -/
theorem Dev.interval_frame (d : Dev) (x : Baste) : (d.interval x).bastes = d.bastes ∧ d.mb.Appended 2 (d.interval x).mb := by
  have hnone : d.mb.Appended 2 d.mb := ⟨Nat.le_refl _, Nat.le_add_right .., fun _ h _ => h⟩
  rcases d.interval_eq x with h | ⟨v, us, h⟩ | ⟨v, us, l, h⟩
  · rw [h]
    exact ⟨rfl, hnone⟩
  · rw [h]
    exact ⟨rfl, hnone⟩
  · rw [h, Dev.evFw_eq]
    exact ⟨Dev.raise_bastes .., .raise (d.withInterval v us) ..⟩

theorem basteGranuleDrained_header {s : State} {id : Fin 16} (hpowered : s.dev.powered = true) (hmoves : s.dev.drainMoves id.val)
    (hcur : (s.dev.baste id.val).cur ≠ none) (hphase : (s.dev.baste id.val).phase = 2) (hbusy : s.dev.drainBusy id.val = false) :
    ∃ t, exec (.basteGranuleDrained id none) s = .next t ∧ sameStore s t
      ∧ (t.dev.baste id.val).st = 4 ∧ (t.dev.baste id.val).prot = [] ∧ recordedAny 0xC801 s t := by
  obtain ⟨queues, hend⟩ := (s.dev.headerDrained id.val (s.dev.baste id.val)).endOpens_frame (opensBasteBy id.val 0x0702) 0 0 0 0
  generalize hd : (s.dev.headerDrained id.val (s.dev.baste id.val)).endOpens (opensBasteBy id.val 0x0702) 0 0 = d at hend
  obtain ⟨hbastes, hmb⟩ := d.interval_frame (s.dev.baste id.val)
  have hack : s.box.drainAck id.val (s.dev.baste id.val) = ⟨s.store, d.interval (s.dev.baste id.val)⟩ := by
    rw [Box.drainAck_header hphase, ← hd]
    rfl
  have hbaste : (d.interval (s.dev.baste id.val)).baste id.val =
      { s.dev.baste id.val with st := 4, prot := [], copied := [], cur := none, phase := 0 } := by
    rw [Dev.baste, hbastes, hend]
    exact s.dev.headerDrained_baste ..
  have hstep := Box.drainStep_acknowledged (b := s.box) hmoves hcur hbusy
  rw [show s.box.dev = s.dev from rfl, hack, if_neg (by simp [hbaste])] at hstep
  refine ⟨_, exec_basteGranuleDrained hpowered hstep, ⟨rfl, rfl⟩, congrArg Baste.st hbaste, congrArg Baste.prot hbaste, ?_⟩
  have hraised : d.mb = (s.dev.headerDrained id.val (s.dev.baste id.val)).mb := by rw [hend]
  rw [hraised] at hmb
  exact recordedAny_of_appended (d := s.dev.setBaste id.val _) (.refl _) hmb (by decide)

/-! The drain writes its next granule. -/

theorem mem_of_mem_put {α : Type} {t : Tbl α} {n : Nat} {v : α} {e : Nat × α} (h : e ∈ put t n v) : e = (n, v) ∨ e ∈ t := by
  induction t with
  | nil => exact .inl (List.mem_singleton.mp h)
  | cons f t ih =>
    unfold put at h
    split at h
    · exact List.mem_cons.mp h
    · split at h
      · exact (List.mem_cons.mp h).imp_right (List.mem_cons_of_mem _)
      · rcases List.mem_cons.mp h with h | h
        · exact .inr (h ▸ List.mem_cons_self ..)
        · exact (ih h).imp_right (List.mem_cons_of_mem _)

theorem mem_of_get? {α : Type} {t : Tbl α} {n : Nat} {v : α} (h : get? t n = some v) : (n, v) ∈ t := by
  induction t with
  | nil => cases h
  | cons f t ih =>
    unfold get? at h
    split at h
    · next hk =>
      cases h
      exact hk ▸ List.mem_cons_self ..
    · exact List.mem_cons_of_mem _ (ih h)

/-- What a drain notes of its Baste protects no further granule. -/
theorem Dev.protector_setBaste {d : Dev} {id g : Nat} {y : Baste} (hst : (d.baste id).st ≠ 0) (hy : y.st = (d.baste id).st)
    (hprot : y.prot = (d.baste id).prot) (hcopied : y.copied = (d.baste id).copied) (h : d.protector g = none) :
    (d.setBaste id y).protector g = none := by
  have hmem : (id, d.baste id) ∈ d.bastes := by
    cases hx : get? d.bastes id with
    | none => simp [Dev.baste, getD, hx, Baste.init] at hst
    | some x => simpa [Dev.baste, getD, hx] using mem_of_get? hx
  unfold Dev.protector at h ⊢
  rw [List.find?_eq_none] at h ⊢
  intro e he
  rcases mem_of_mem_put he with rfl | he
  · have hno := h _ hmem
    dsimp only at hno ⊢
    rwa [hy, hprot, hcopied]
  · exact h e he

theorem granuleBytes_length (s : Store) (a : Nat) : (s.granuleBytes a).length = granule := by
  have hline : ∀ i, (if s.memPoison.contains (a / 64 + i) then zeros 64 else s.mem.read (a + 64 * i) 64).length = 64 := by
    intro i
    split
    · exact List.length_replicate
    · exact Mem.read_length ..
  simp only [Store.granuleBytes, List.length_flatMap, hline, List.map_const', List.sum_replicate, List.length_range, granule]
  rfl

theorem Box.drainWrite_companion {b : Box} {id a : Nat} {l : List Byte} (h : inCompanion a l.length = true)
    (hprot : ∀ g ∈ granulesOf a l.length, b.dev.protector g = none) :
    b.drainWrite id a l = ⟨b.store.wrMem a (clean l), b.dev.recalled (linesOf a l.length)⟩ := by
  unfold Box.drainWrite
  rw [if_pos h, Box.wrClean_unprotected hprot]

theorem Box.drainNext_granule {b : Box} {id g dest : Nat} {x : Baste} {rest : List Nat} (hphase : x.phase = 0) (hdone : x.done ≠ [])
    (hleft : x.left = g :: rest) (hdest : x.dest = some dest) (hok : b.dev.destOk dest (x.dataOff + x.imageGranules.length * granule) = true) :
    b.drainNext id x = (b.onD fun d => d.setBaste id { x with cur := some g }).drainWrite id (dest + x.dataOff + x.done.length * granule)
      (b.store.granuleBytes (x.source g)) := by
  unfold Box.drainNext
  dsimp only
  rw [if_neg (by simp [hdone] : ¬(x.phase = 0 ∧ x.done.isEmpty = true))]
  rw [hdest, Option.getD_some, hok, if_neg (by decide), if_pos hphase, hleft]
  rfl

theorem basteGranuleDrained_next {s : State} {id : Fin 16} {g dest : Nat} {rest : List Nat} {x : Baste} (hx : s.dev.baste id.val = x)
    (hpowered : s.dev.powered = true) (hmoves : s.dev.drainMoves id.val) (hcur : x.cur = none) (hphase : x.phase = 0) (hdone : x.done ≠ [])
    (hleft : x.left = g :: rest) (hdest : x.dest = some dest) (hok : memoryOk s)
    (hroom : s.dev.destOk dest (x.dataOff + x.imageGranules.length * granule) = true)
    (hin : inCompanion (dest + x.dataOff + x.done.length * granule) granule = true)
    (hprot : ∀ h ∈ granulesOf (dest + x.dataOff + x.done.length * granule) granule, s.dev.protector h = none) :
    ∃ t, exec (.basteGranuleDrained id none) s = .next t
      ∧ wrote (dest + x.dataOff + x.done.length * granule) (s.store.granuleBytes (x.source g)) s t ∧ (t.dev.baste id.val).cur = some g := by
  subst hx
  have hlen := granuleBytes_length s.store ((s.dev.baste id.val).source g)
  have hst : (s.dev.baste id.val).st ≠ 0 := by simp [hmoves.2.2]
  have hstep : s.box.drainStep id.val none = (s.box.onD fun d => d.setBaste id.val { s.dev.baste id.val with cur := some g }).drainWrite id.val
      (dest + (s.dev.baste id.val).dataOff + (s.dev.baste id.val).done.length * granule) (s.store.granuleBytes ((s.dev.baste id.val).source g)) :=
    (Box.drainStep_begins (b := s.box) hmoves hcur).trans (Box.drainNext_granule hphase hdone hleft hdest hroom)
  generalize dest + (s.dev.baste id.val).dataOff + (s.dev.baste id.val).done.length * granule = a at hin hprot hstep ⊢
  rw [← hlen] at hin hprot
  generalize s.store.granuleBytes ((s.dev.baste id.val).source g) = l at hin hprot hstep ⊢
  rw [Box.drainWrite_companion hin fun h hh => Dev.protector_setBaste (y := { s.dev.baste id.val with cur := some g }) hst rfl rfl rfl (hprot h hh)] at hstep
  exact ⟨_, exec_basteGranuleDrained hpowered hstep, wrote_wrMem hok rfl, congrArg Baste.cur (Dev.setBaste_baste_same s.dev ..)⟩

/-! ### BASTE_RELEASE (15 R462) -/

/-- The device without the Baste: its protection, where there is some, is lifted first. -/
def Dev.basteReleased (d : Dev) (id : Nat) : Dev := (if 1 ≤ (d.baste id).st ∧ (d.baste id).st ≤ 3 then d.abandoned id 3 else d).setBaste id .init

theorem Dev.abandonBaste_unasked {d : Dev} {id reason : Nat} (h : ∀ o ∈ d.opens, o.kind ≠ .baste id) :
    d.abandonBaste id reason = d.abandoned id reason := by
  rw [Dev.abandonBaste_eq]
  refine Dev.endOpens_none (fun o ho => ?_) ..
  rw [Dev.abandoned, Dev.evFw_eq, Dev.raise_opens] at ho
  unfold opensBaste
  split
  · next i hi => exact beq_false_of_ne fun he => h o ho (he ▸ hi)
  · rfl

/-- What BASTE_RELEASE does. -/
def releaseRun (id : Nat) (k : Pend) (b : Box) : Box := b.onD fun d =>
  ((if 1 ≤ (d.baste id).st ∧ (d.baste id).st ≤ 3 then d.abandonBaste id 3 else d).setBaste id .init).okCmd k

theorem basteRelease_answers {c : Ici} {s : State} (h : performs 0x0704 c true s) {d : Dev} (hd : s.dev.takeAccepted 0x0704 c = d) {id : Nat}
    (hid : payBits c.p 0 0 4 = id) (hopens : ∀ o ∈ d.opens, o.kind ≠ .baste id) :
    ∃ t, exec (.basteRelease c) s = .next t ∧ sameStore s t ∧ t.dev.baste id = Baste.init ∧ succeeds 0x0704 c s t
      ∧ (1 ≤ (d.baste id).st → (d.baste id).st ≤ 3 → recorded 0xC803 none [id, 3] s t) := by
  subst hid
  have hrun : releaseRun (payBits c.p 0 0 4) (Ici.pend 0x0704 c) (s.performing 0x0704 c)
      = (s.performing 0x0704 c).onD fun _ => (d.basteReleased (payBits c.p 0 0 4)).okCmd (Ici.pend 0x0704 c) := by
    rw [Dev.basteReleased, ← Dev.abandonBaste_unasked hopens]
    subst hd
    rfl
  have hkept : (d.basteReleased (payBits c.p 0 0 4)).queues = d.queues ∧ (d.basteReleased (payBits c.p 0 0 4)).bare = d.bare := by
    unfold Dev.basteReleased
    split
    · exact ⟨Dev.raise_queues .., Dev.raise_bare_of ..⟩
    · exact ⟨rfl, rfl⟩
  obtain ⟨t, ht, hstore, hok, hdev⟩ := ici_sets h (f := releaseRun (payBits c.p 0 0 4)) hrun (hkept.1.trans (hd ▸ rfl)) (hkept.2.trans (hd ▸ performs_bare h))
  have hbastes : t.dev.baste (payBits c.p 0 0 4) = (d.basteReleased (payBits c.p 0 0 4)).baste (payBits c.p 0 0 4) := by rw [hdev]; rfl
  refine ⟨t, ht, hstore, hbastes.trans (Dev.setBaste_baste_same ..), hok, fun hlo hhi => ?_⟩
  have hmb : t.dev.mb = (d.basteReleased (payBits c.p 0 0 4)).mb := by rw [hdev]
  rw [Dev.basteReleased, if_pos ⟨hlo, hhi⟩] at hmb
  exact recorded_of_raise_mb (d := d.setBaste (payBits c.p 0 0 4) _) (hd ▸ rfl) hmb

/-! ### BASTE_RESTORE (15 R461, R470) -/

/-- Aligned units: one of them covers itself alone. -/
theorem span_unit {u a : Nat} (hpos : 0 < u) (h : a % u = 0) : span (a / u) ((a + u - 1) / u - a / u + 1) = [a / u] := by
  obtain ⟨k, rfl⟩ := Nat.dvd_of_mod_eq_zero h
  have hlast : (u * k + u - 1) / u = k := by
    rw [Nat.add_sub_assoc hpos, Nat.mul_add_div hpos, Nat.div_eq_of_lt (by omega), Nat.add_zero]
  rw [hlast, Nat.mul_div_cancel_left _ hpos, Nat.sub_self]
  rfl

/-- A granule lies in one granule. -/
theorem granulesOf_whole {a : Nat} (h : a % granule = 0) : granulesOf a granule = [a / granule] := by
  have hpos : 0 < granule := by decide
  rw [granulesOf, if_neg (Nat.pos_iff_ne_zero.mp hpos), span_unit hpos h]

/-- Devices that differ only in the lines that a write recalls. -/
def Dev.onlyRecalled (d e : Dev) : Prop := ∃ ahead caches directory, e = { d with
  ahead := ahead, caches := caches, yoke := { d.yoke with directory := directory } }

theorem Dev.onlyRecalled_refl (d : Dev) : d.onlyRecalled d := ⟨_, _, _, rfl⟩

theorem Dev.onlyRecalled_trans {d e f : Dev} (h : d.onlyRecalled e) (h' : e.onlyRecalled f) : d.onlyRecalled f := by
  obtain ⟨_, _, _, rfl⟩ := h
  obtain ⟨_, _, _, rfl⟩ := h'
  exact ⟨_, _, _, rfl⟩

theorem Dev.onlyRecalled_targetOk {d e : Dev} (h : d.onlyRecalled e) (x : Int) : e.targetOk x = d.targetOk x := by
  obtain ⟨_, _, _, rfl⟩ := h
  rfl

/-- No Baste protects a target granule. -/
theorem Dev.protector_of_targetOk {d : Dev} {x : Int} (h : d.targetOk x = true) : ∀ g ∈ granulesOf x.toNat granule, d.protector g = none := by
  simp only [Dev.targetOk, Bool.and_eq_true, beq_iff_eq, Bool.not_eq_true', List.any_eq_false] at h
  obtain ⟨⟨⟨-, halign⟩, -⟩, hprot⟩ := h
  rw [granulesOf_whole halign]
  intro g hg
  rw [List.mem_singleton.mp hg, Dev.protector, List.find?_eq_none]
  intro e he hno
  exact hprot e he (Bool.and_eq_true_iff.mp (Bool.and_eq_true_iff.mp hno).1)

/-- The granule of the image at index `i`. -/
def Box.imageGranule (b : Box) (a off i : Nat) : List Byte := bytesOf (b.store.rdMem (a + off + i * granule) granule)

section
variable {b : Box} {k : Pend} {a off digests : Nat} {t : List Byte} {verify : Bool} {x : Int} {xs : List Int} {i : Nat}

theorem Box.imageGranule_length : (b.imageGranule a off i).length = granule := by
  rw [Box.imageGranule, bytesOf_rdMem, Mem.read_length]

theorem Box.restoreFrom_match (h : sha3_512 (b.imageGranule a off i) = (t.drop (digests + 64 * i)).take 64) :
    b.restoreFrom k a off digests t verify (x :: xs) i =
      (if verify then b else b.wrClean x.toNat (b.imageGranule a off i)).restoreFrom k a off digests t verify xs (i + 1) := if_pos h

theorem Box.restoreFrom_mismatch (h : sha3_512 (b.imageGranule a off i) ≠ (t.drop (digests + 64 * i)).take 64) :
    (b.restoreFrom k a off digests t verify (x :: xs) i).2 = false := congrArg Prod.snd (if_neg h)

/-- A granule written to a target recalls lines and changes nothing else of the device. -/
theorem Box.wrClean_target (h : b.dev.targetOk x = true) : b.dev.onlyRecalled (b.wrClean x.toNat (b.imageGranule a off i)).dev := by
  have hprot : ∀ g ∈ granulesOf x.toNat (b.imageGranule a off i).length, b.dev.protector g = none := by
    rw [Box.imageGranule_length]
    exact Dev.protector_of_targetOk h
  rw [Box.wrClean_unprotected hprot]
  exact ⟨_, _, _, rfl⟩

end

/-- A restore that finds every digest right writes granules that no Baste protects, and with VERIFY nothing. -/
theorem Box.restoreFrom_ok {k : Pend} {a off digests : Nat} {t : List Byte} {verify : Bool} (xs : List Int) :
    ∀ (b : Box) (i : Nat), (∀ x ∈ xs, b.dev.targetOk x = true) → (b.restoreFrom k a off digests t verify xs i).2 = true →
      b.dev.onlyRecalled (b.restoreFrom k a off digests t verify xs i).1.dev
        ∧ (verify = true → (b.restoreFrom k a off digests t verify xs i).1 = b) := by
  induction xs with
  | nil => exact fun b i _ _ => ⟨b.dev.onlyRecalled_refl, fun _ => rfl⟩
  | cons x xs ih =>
    intro b i htargets hok
    obtain ⟨hx, hxs⟩ := List.forall_mem_cons.mp htargets
    by_cases hsha : sha3_512 (b.imageGranule a off i) = (t.drop (digests + 64 * i)).take 64
    · rw [Box.restoreFrom_match hsha] at hok ⊢
      cases verify with
      | true => exact ih b (i + 1) hxs hok
      | false =>
        have hrec : b.dev.onlyRecalled (b.wrClean x.toNat (b.imageGranule a off i)).dev := Box.wrClean_target hx
        obtain ⟨hrest, -⟩ := ih _ (i + 1) (fun y hy => (Dev.onlyRecalled_targetOk hrec y).trans (hxs y hy)) hok
        exact ⟨Dev.onlyRecalled_trans hrec hrest, fun h => absurd h (by decide)⟩
    · rw [Box.restoreFrom_mismatch hsha] at hok
      exact absurd hok (by decide)

/-- Bytes without poison: the first poisoned one lies behind them. -/
theorem firstPoison_clean {l : List PB} (h : anyBad l = false) (a : Nat) : firstPoison a l = a + l.length := by
  rw [firstPoison, List.takeWhile_eq_self_iff.mpr]
  intro x hx
  simpa using List.any_eq_false.mp h x hx

theorem anyBad_rdMem {s : Store} {a n : Nat} : anyBad (s.rdMem a n) = false ↔ ∀ x ∈ span a n, s.memPoison.contains (x / 64) = false := by
  have hmarks : (s.rdMem a n).map (·.2) = (span a n).map fun x => s.memPoison.contains (x / 64) := by
    rw [Store.rdMem, List.map_snd_zip]
    rw [Mem.read_length, List.length_map, span_length]
  have hany : anyBad (s.rdMem a n) = ((s.rdMem a n).map (·.2)).any id := by rw [List.any_map]; rfl
  rw [hany, hmarks, List.any_map]
  simp

/-- Within bytes without poison every part is without. -/
theorem anyBad_rdMem_part {s : Store} {a n b m : Nat} (h : anyBad (s.rdMem a n) = false) (hlo : a ≤ b) (hhi : b + m ≤ a + n) :
    anyBad (s.rdMem b m) = false := by
  rw [anyBad_rdMem] at h ⊢
  intro x hx
  obtain ⟨h1, h2⟩ := mem_span.mp hx
  exact h x (mem_span.mpr ⟨by omega, by omega⟩)

/-- An image that passes its checks: what the restore leaves, and the record and value of its success. -/
def Box.restored (r : Box) (a : Nat) (delta : Int) (verify : Bool) (h t : List Byte) : Box :=
  (if verify then r else r.markPoison (restoreTargets (rangeEntries t (leAt h 32 4)) delta)
      (t.drop (16 * (rangeEntries t (leAt h 32 4)).length + 64 * leAt h 36 4)) (leAt h 40 4)).onD fun d =>
    d.evFw 0xC804 none [a, leAt h 10 2, leAt h 16 8, leAt h 36 4]

section
variable {s : State} {b : Box} {k : Pend} {a : Nat} {delta : Int} {verify : Bool} {h t : List Byte}

theorem Box.restoreWith_ok (hstore : b.store = s.store) (hsha : sha3_512 (h.take 64 ++ zeros 64 ++ h.drop 128 ++ t) = (h.drop 64).take 64)
    (himage : imageOk h t (rangeEntries t (leAt h 32 4)) = true)
    (htargets : (restoreTargets (rangeEntries t (leAt h 32 4)) delta).all b.dev.targetOk = true)
    (hread : ∃ l, readable s b.dev a (leAt h 56 8) 1 l) {r : Box}
    (hr : b.restoreFrom k a (leAt h 48 8) (16 * (rangeEntries t (leAt h 32 4)).length) t verify
      (restoreTargets (rangeEntries t (leAt h 32 4)) delta) 0 = (r, true)) :
    b.restoreWith k a delta verify h t = (r.restored a delta verify h t).ok k 0 (BitVec.ofNat 64 (leAt h 16 8)) := by
  obtain ⟨l, hread⟩ := hread
  have hlen : leAt h 56 8 = leAt h 48 8 + leAt h 36 4 * granule := by
    simp only [imageOk, Bool.and_eq_true, beq_iff_eq] at himage
    exact himage.1.2
  have hclean : firstPoison (a + leAt h 48 8) (b.store.rdMem (a + leAt h 48 8) (leAt h 36 4 * granule)) =
      a + leAt h 48 8 + leAt h 36 4 * granule := by
    rw [firstPoison_clean, rdMem_length]
    rw [hstore]
    exact anyBad_rdMem_part hread.2.2.1 (by omega) (by omega)
  unfold Box.restoreWith
  refine (if_neg (not_not_intro hsha)).trans ((Box.fields_pass ?_ _).trans ((Box.withAddr_readable hread k none 0 _).trans
    ((if_neg ?_).trans ?_)))
  · simp [himage, htargets]
  · rw [hclean]
    exact Nat.lt_irrefl _
  · rw [hr]
    rfl
end

theorem Box.markPoison_dev (b : Box) (targets : List Int) (l : List Byte) (n : Nat) : (b.markPoison targets l n).dev = b.dev := by
  unfold Box.markPoison
  generalize List.range n = es
  induction es generalizing b with
  | nil => rfl
  | cons e es ih =>
    rw [List.foldl_cons, ih]
    split <;> rfl

/-- A restore leaves the queues, and adds event 0xC804 to the Measure Book. -/
theorem Box.restored_dev {d : Dev} {r : Box} (hr : d.onlyRecalled r.dev) (a : Nat) (delta : Int) (verify : Bool) (h t : List Byte) :
    ∃ e : Dev, e.mb = d.mb ∧ e.queues = d.queues ∧ e.bare = d.bare
      ∧ (r.restored a delta verify h t).dev = e.evFw 0xC804 none [a, leAt h 10 2, leAt h 16 8, leAt h 36 4] := by
  obtain ⟨_, _, _, hdev⟩ := hr
  refine ⟨r.dev, by rw [hdev], by rw [hdev], by rw [hdev]; rfl, ?_⟩
  unfold Box.restored
  cases verify with
  | true => rfl
  | false => exact congrArg (fun d : Dev => d.evFw 0xC804 none _) (Box.markPoison_dev ..)

/-- A header and tables that the command may read, of a level that the device knows, while no context is live. -/
theorem Box.basteRestore_reads {s : State} {b : Box} {k : Pend} {p : BitVec 384} {h t : List Byte} (hstore : b.store = s.store)
    (hlive : b.dev.liveCtxs = []) (hdelta : (BitVec.ofNat 64 (pay p 8 8)).toInt % (granule : Int) = 0)
    (hhead : readable s b.dev (pay p 0 8) 256 1 h) (hmagic : h.take 8 = asciiBytes "FVKBASTE")
    (hlo : b.dev.levels.1 ≤ leAt h 8 2) (hhi : leAt h 8 2 ≤ b.dev.levels.2)
    (htables : readable s b.dev (pay p 0 8 + 256) (16 * leAt h 32 4 + 64 * leAt h 36 4 + 8 * leAt h 40 4) 1 t) :
    b.basteRestore k p = b.restoreWith k (pay p 0 8) (BitVec.ofNat 64 (pay p 8 8)).toInt (payBits p 16 0 1 == 1) h t := by
  unfold Box.basteRestore
  refine (Box.fields_pass ?_ _).trans ((Box.withAddr_readable hhead k none 0 _).trans ((Box.withData_readable hhead hstore k _).trans
    ((Box.fields_pass ?_ _).trans ((Box.withAddr_readable htables k none 0 _).trans (Box.withData_readable htables hstore k _)))))
  · simp [hlive, hdelta]
  · simp [hmagic, hlo, hhi]

section
variable {c : Ici} {s : State} (hp : performs 0x0703 c true s) {h t : List Byte}
include hp

theorem basteRestore_answers (hrun : ∃ r, (s.dev.takeAccepted 0x0703 c).onlyRecalled r.dev
      ∧ (s.performing 0x0703 c).basteRestore (Ici.pend 0x0703 c) c.p
        = (r.restored (pay c.p 0 8) (BitVec.ofNat 64 (pay c.p 8 8)).toInt (payBits c.p 16 0 1 == 1) h t).ok (Ici.pend 0x0703 c) 0
            (BitVec.ofNat 64 (leAt h 16 8))
      ∧ ((payBits c.p 16 0 1 == 1) = true → r = s.performing 0x0703 c)) :
    ∃ u, exec (.basteRestore c) s = .next u ∧ u.pending = s.pending
      ∧ recorded 0xC804 none [(pay c.p 0 8 : Nat), leAt h 10 2, leAt h 16 8, leAt h 36 4] s u
      ∧ answers 0x0703 c 0 0 0 (BitVec.ofNat 64 (leAt h 16 8)) s u ∧ ((payBits c.p 16 0 1 == 1) = true → sameStore s u) := by
  obtain ⟨r, hr, hrun, hverify⟩ := hrun
  obtain ⟨e, hmb, hqueues, hbare, hdev⟩ := Box.restored_dev hr (pay c.p 0 8) (BitVec.ofNat 64 (pay c.p 8 8)).toInt (payBits c.p 16 0 1 == 1) h t
  have hexec := ici_performing hp (f := fun k b => b.basteRestore k c.p) hrun
  generalize hbox : r.restored (pay c.p 0 8) (BitVec.ofNat 64 (pay c.p 8 8)).toInt (payBits c.p 16 0 1 == 1) h t = b at hdev hexec
  refine ⟨_, hexec, rfl, ?_, answers_ok ?_ ?_ 0 _, fun hv => ⟨?_, rfl⟩⟩
  · exact recorded_of_raise_mb (d := e) (hmb.trans rfl) ((Dev.complete_mb ..).trans (congrArg Dev.mb hdev))
  · rw [hdev]
    exact (Dev.raise_queues ..).trans hqueues
  · rw [hdev]
    exact (Dev.raise_bare_of ..).trans (hbare.trans (performs_bare hp))
  · change b.store = s.store
    rw [← hbox, hverify hv, Box.restored, if_pos hv]
    rfl
end

/-- Settles O48. -/
theorem bastesFollowTheirCommands : Obligations.BastesFollowTheirCommands := by
  unfold Obligations.BastesFollowTheirCommands
  refine ⟨?_, fun g id i x s hx hok hfree => basteGranuleCopy_slot hx hok hfree, fun c s h hst hdest => basteDrain_answers h rfl rfl hst hdest,
    fun id s hpowered hhold htherm hst => ?_, ?_, fun c s h hopens => basteRelease_answers h rfl rfl hopens⟩
  · intro c l s h d n id cnt rs hst hempty hfew hcnt hcnt' hjobs hjobs' hread hspare hranges hpool hauto hdest hopens
    have hpass := Box.basteTake_passes (b := s.performing 0x0701 c) (k := Ici.pend 0x0701 c) (p := c.p) (l := l) hst hempty hfew hcnt hcnt' hjobs
      hjobs' (fun f => performing_reads hread _ none 8 f) hspare hranges hpool hauto hdest
    by_cases hrun : (d.ctx n).st = .running
    · obtain ⟨t, ht, hstore, hbaste, htaken⟩ := basteTake_pending h hpass hrun
      exact ⟨t, ht, hstore, congrArg Baste.ranges hbaste, congrArg Baste.pool hbaste, fun _ => ⟨congrArg Baste.st hbaste, htaken⟩,
        fun hno => absurd hrun hno⟩
    · obtain ⟨t, ht, hstore, ⟨hrs, hp, hst', hprot⟩, hok, hrec⟩ := basteTake_protected h hpass hrun hopens
      exact ⟨t, ht, hstore, hrs, hp, fun hyes => absurd hyes hrun, fun _ => ⟨hst', hprot, hok, hrec⟩⟩
  · have hmoves : s.dev.drainMoves id.val := ⟨hhold, htherm, hst⟩
    refine ⟨fun e hcur => basteGranuleDrained_refused e hpowered hmoves hcur, ?_,
      fun hcur hphase hbusy => basteGranuleDrained_header hpowered hmoves hcur hphase hbusy⟩
    intro g rest dest hcur hphase hdone hleft hdest hok a hroom hin hprot
    exact basteGranuleDrained_next rfl hpowered hmoves hcur hphase hdone hleft hdest hok hroom hin hprot
  · intro c h tb s hp d a delta n rs verify hlive hdelta hhead hmagic hlo hhi htables hsha himage htargets hread hok
    refine basteRestore_answers (t := tb) hp ?_
    have hrun := Box.restoreFrom_ok _ (s.performing 0x0703 c) 0 (List.all_eq_true.mp htargets) hok
    refine ⟨_, hrun.1, ?_, hrun.2⟩
    exact (Box.basteRestore_reads (s := s) (b := s.performing 0x0703 c) rfl hlive hdelta hhead hmagic hlo hhi htables).trans
      (Box.restoreWith_ok (s := s) (b := s.performing 0x0703 c) rfl hsha himage htargets hread (Prod.ext rfl hok))

end Sys2Proof.Machine

/-! SUPPORT. The administration of queues and companion grants (14 R413, R425, R427, R428). -/

namespace Sys2Proof.Machine

open Sys2Proof.Safety

/-- The first field that a check finds out of range. -/
theorem Box.fields_bad {b : Box} {k : Pend} {ctx : Option Nat} {l : List (Bool × Nat)} {byte : Nat} (h : firstField l = some byte) (f : Box → Box) :
    b.fields k ctx l f = b.bad k ctx byte := by
  unfold Box.fields
  rw [h]

/-- A field out of range of an administration command. -/
theorem Box.bad_of_adminCommand {k : Pend} (hk : k.opc / 256 = 1) (b : Box) (byte : Int) :
    b.bad k none byte = b.fail k 0x1009 none [k.opc, byte] := by
  have hevent : groupEvent k.opc = 0x1009 := by rw [groupEvent, hk, if_pos rfl]
  rw [Box.bad, Box.fail]
  unfold Dev.badField
  rw [hevent, if_neg (by rw [hk]; decide)]

/-! ### Commands of the management queue about a context queue -/

theorem payBits_lt (p : BitVec 384) (o lo len : Nat) : payBits p o lo len < 2 ^ len := Nat.mod_lt _ (Nat.two_pow_pos len)

/-- A context queue is not the management queue. -/
theorem payBits_ne_mgmt (p : BitVec 384) : payBits p 0 0 3 ≠ 8 := Nat.ne_of_lt (payBits_lt p 0 0 3)

/-- A device that has other queues. -/
theorem Dev.onlyQueues_of_eq {d e : Dev} {queues : Tbl Queue} (h : e = { d with queues := queues }) : e = { d with queues := e.queues } := by rw [h]

section
variable {opc : Nat} {c : Ici} {s : State} (hq : c.q = 8)
include hq

theorem pend_q_mgmt : (Ici.pend opc c).q = 8 := congrArg Fin.val hq

theorem takeAccepted_queue_ctx : (s.dev.takeAccepted opc c).queue (payBits c.p 0 0 3) = s.dev.queue (payBits c.p 0 0 3) := by
  rw [takeAccepted_queue, if_neg (by rw [hq]; exact payBits_ne_mgmt c.p)]

/-- A success of the management queue that changed a context queue. -/
theorem mgmt_changes_queue {needs : Bool} (h : performs opc c needs s) {f : Pend → Box → Box} (g : Queue → Queue)
    (hf : f (Ici.pend opc c) (s.performing opc c) = (s.performing opc c).onD fun d => (d.updQueue (payBits c.p 0 0 3) g).okCmd (Ici.pend opc c)) :
    ∃ t, s.ici opc c needs f = .next t ∧ sameStore s t ∧ t.dev = { s.dev with queues := t.dev.queues }
      ∧ t.dev.queue (payBits c.p 0 0 3) = g (s.dev.queue (payBits c.p 0 0 3)) ∧ ended opc c 0 0 t
      ∧ ∀ j, j ≠ payBits c.p 0 0 3 → j ≠ 8 → t.dev.queue j = s.dev.queue j := by
  have hbare : ((s.dev.takeAccepted opc c).updQueue (payBits c.p 0 0 3) g).bare = false := performs_bare h
  have hdue := fun j => Dev.complete_queue _ (Ici.pend opc c) 0 0 0 0 j hbare
  obtain ⟨queues, hok⟩ := ((s.dev.takeAccepted opc c).updQueue (payBits c.p 0 0 3) g).complete_onlyQueues (Ici.pend opc c) 0 0 0 0
  refine ⟨_, ici_performing h hf, ⟨rfl, rfl⟩, ?_, ?_, ended_of_okCmd hbare rfl, fun j hj hj' => ?_⟩
  · exact Dev.onlyQueues_of_eq (d := s.dev) hok
  · refine (hdue _).trans ((if_neg (by rw [pend_q_mgmt hq]; exact payBits_ne_mgmt c.p)).trans ?_)
    rw [Dev.updQueue, Dev.setQueue_queue_same, takeAccepted_queue_ctx hq]
  · refine (hdue j).trans ((if_neg (by rwa [pend_q_mgmt hq])).trans ?_)
    rw [Dev.updQueue, Dev.setQueue_queue_ne _ _ _ _ hj, takeAccepted_queue, if_neg (by rwa [hq])]

end

/-! ### QUEUE_CREATE -/

theorem queueCreate_answers {c : Ici} {s : State} (h : performs 0x0101 c false s) (hq : c.q = 8) (hoff : (s.dev.queue (payBits c.p 0 0 3)).enable = false)
    (hrings : s.dev.ringsOk (pay c.p 8 8) (pay c.p 16 8) (payBits c.p 1 0 4) = true) (hirq : pay c.p 24 8 % 4 = 0) :
    ∃ t, exec (.queueCreate c) s = .next t ∧ sameStore s t ∧ t.dev = { s.dev with queues := t.dev.queues }
      ∧ t.dev.queue (payBits c.p 0 0 3) = createdQueue (s.dev.queue (payBits c.p 0 0 3)) c.p ∧ ended 0x0101 c 0 0 t
      ∧ ∀ j, j ≠ payBits c.p 0 0 3 → j ≠ 8 → t.dev.queue j = s.dev.queue j := by
  refine mgmt_changes_queue hq h (f := fun k b => b.queueCreate k c.p) (fun x => createdQueue x c.p) ?_
  have hoff' : ((s.performing 0x0101 c).dev.queue (payBits c.p 0 0 3)).enable = false := by rw [← hoff]; exact congrArg Queue.enable (takeAccepted_queue_ctx hq)
  have hrings' : (s.performing 0x0101 c).dev.ringsOk (qcSq c.p) (qcCq c.p) (qcLog2 c.p) = true := hrings
  simp only [Dev.ringsOk, Bool.and_eq_true, decide_eq_true_eq, beq_iff_eq] at hrings'
  obtain ⟨⟨⟨⟨hlog, hsq⟩, hcq⟩, hsqIn⟩, hcqIn⟩ := hrings'
  unfold Box.queueCreate
  dsimp only
  rw [Box.fields_pass]
  simp [hoff', hlog, hsq, hcq, hsqIn, hcqIn, hirq]

/-! ### QUEUE_DELETE -/

/-- A QUEUE_DELETE that has begun. -/
def Dev.deletionOpened (d : Dev) (k : Pend) (n : Nat) : Dev := { d with opens := d.opens ++ [⟨k, .queueDelete n⟩] }

theorem Dev.deletionOpened_deleting {d : Dev} {q : Nat} (h : d.deleting q = false) (k : Pend) (n : Nat) :
    (d.deletionOpened k n).deleting q = (q == n) := by
  have hopen : (d.deletionOpened k n).deleting q = (d.deleting q || (OpenKind.queueDelete n == .queueDelete q)) := by
    simp [Dev.deletionOpened, Dev.deleting]
  rw [hopen, h, Bool.false_or, Bool.eq_iff_iff, beq_iff_eq, beq_iff_eq, OpenKind.queueDelete.injEq]
  exact eq_comm

/-- A command of another queue that stays open leaves the queue as empty as it was. -/
theorem Dev.deletionOpened_empty (d : Dev) {k : Pend} {n : Nat} (h : k.q ≠ n) : (d.deletionOpened k n).queueEmpty n = d.queueEmpty n := by
  have hopens : ((d.deletionOpened k n).opens.filter (·.cmd.q == n)) = d.opens.filter (·.cmd.q == n) := by
    simp [Dev.deletionOpened, h]
  unfold Dev.queueEmpty Dev.inflight
  rw [hopens]
  rfl

section
variable {d : Dev} {k : Pend} {n : Nat} (hk : k.q ≠ n) (hnone : ∀ j, d.deleting j = false)
include hk hnone

/-- A queue that is not empty: its deletion waits. -/
theorem Dev.settleDeletes_waits (h : d.queueEmpty n = false) : (d.deletionOpened k n).settleDeletes = d.deletionOpened k n := by
  have hgone : ((List.range 8).filter fun q => (d.deletionOpened k n).deleting q && (d.deletionOpened k n).queueEmpty q) = [] := by
    rw [List.filter_eq_nil_iff]
    intro q _ hq
    rw [Dev.deletionOpened_deleting (hnone q), Bool.and_eq_true, beq_iff_eq] at hq
    obtain ⟨rfl, hq⟩ := hq
    rw [Dev.deletionOpened_empty d hk, h] at hq
    exact absurd hq (by decide)
  unfold Dev.settleDeletes
  rw [hgone]
  rfl

/-- An empty queue is disabled, and the command completes. -/
theorem Dev.settleDeletes_settles (hn : n < 8) (h : d.queueEmpty n = true) : (d.deletionOpened k n).settleDeletes =
    (d.updQueue n fun x => { x with enable := false, error := false }).okCmd k := by
  have hgone : ((List.range 8).filter fun q => (d.deletionOpened k n).deleting q && (d.deletionOpened k n).queueEmpty q) = [n] := by
    have hself : ((List.range 8).filter fun q => (d.deletionOpened k n).deleting q && (d.deletionOpened k n).queueEmpty q)
        = (List.range 8).filter (· == n) := by
      refine List.filter_congr fun q _ => ?_
      rw [Dev.deletionOpened_deleting (hnone q)]
      by_cases hq : q = n
      · rw [hq, Dev.deletionOpened_empty d hk, h, Bool.and_true]
      · rw [beq_false_of_ne hq, Bool.false_and]
    rw [hself, List.filter_beq, List.count_eq_one_of_mem List.nodup_range (List.mem_range.mpr hn)]
    rfl
  unfold Dev.settleDeletes
  rw [hgone, List.foldl_cons, List.foldl_nil]
  refine Dev.endOpens_one (d := (d.deletionOpened k n).updQueue n _) (p := fun o => o.kind == .queueDelete n) (o := ⟨k, .queueDelete n⟩) rfl
    (fun o ho => ?_) (beq_self_eq_true (OpenKind.queueDelete n)) ..
  exact List.any_eq_false.mp (hnone n) o ho |> eq_false_of_ne_true

end

theorem ended_of_answers {opc : Nat} {c : Ici} {st ev : Nat} {x : W32} {y : W64} {s t : State} (h : answers opc c st ev x y s t) :
    ended opc c st ev t := by
  obtain ⟨hqueue, -⟩ := h
  refine ⟨⟨Ici.pend opc c, st, ev, x, y⟩, ?_, rfl, rfl, rfl⟩
  rw [hqueue]
  exact List.mem_append_right _ (List.mem_singleton_self _)

section
variable {c : Ici} {s : State}

/-- A queue whose context does not run is deleted when it is empty. -/
theorem queueDelete_passes (hlive : (s.dev.ctx (payBits c.p 0 0 3)).live = false) :
    (s.performing 0x0102 c).queueDelete (Ici.pend 0x0102 c) c.p = (s.performing 0x0102 c).onD fun d =>
      if (d.queue (payBits c.p 0 0 3)).enable then (d.deletionOpened (Ici.pend 0x0102 c) (payBits c.p 0 0 3)).settleDeletes
      else d.okCmd (Ici.pend 0x0102 c) := by
  have hlive' : ((s.performing 0x0102 c).dev.ctx (payBits c.p 0 0 3)).live = false := hlive
  unfold Box.queueDelete
  dsimp only
  rw [Box.fields_pass (by simp [hlive'])]
  rfl

variable (h : performs 0x0102 c false s) (hq : c.q = 8) (hnone : ∀ j, s.dev.deleting j = false)

theorem takeAccepted_queueEmpty (hq : c.q = 8) :
    (s.dev.takeAccepted 0x0102 c).queueEmpty (payBits c.p 0 0 3) = s.dev.queueEmpty (payBits c.p 0 0 3) := by
  unfold Dev.queueEmpty Dev.inflight
  rw [takeAccepted_queue_ctx hq]
  rfl

include h hq hnone

theorem queueDelete_deletes (hlive : (s.dev.ctx (payBits c.p 0 0 3)).live = false)
    (hdone : (s.dev.queue (payBits c.p 0 0 3)).enable = false ∨ s.dev.queueEmpty (payBits c.p 0 0 3) = true) :
    ∃ t, exec (.queueDelete c) s = .next t ∧ sameStore s t ∧ t.dev = { s.dev with queues := t.dev.queues }
      ∧ (t.dev.queue (payBits c.p 0 0 3)).enable = false ∧ ended 0x0102 c 0 0 t := by
  have hpass := queueDelete_passes hlive
  have hqueue : (s.performing 0x0102 c).dev.queue (payBits c.p 0 0 3) = s.dev.queue (payBits c.p 0 0 3) := takeAccepted_queue_ctx hq
  cases hon : (s.dev.queue (payBits c.p 0 0 3)).enable with
  | false =>
    obtain ⟨t, ht, hstore, hok, hdev⟩ := ici_sets h (f := fun k b => b.queueDelete k c.p) (d := s.dev.takeAccepted 0x0102 c)
      (hpass.trans (congrArg (fun e => Box.onD _ fun _ => e) (if_neg (by rw [hqueue, hon]; decide)))) rfl (performs_bare h)
    have hsame := hok.2 (payBits c.p 0 0 3) (by rw [hq]; exact payBits_ne_mgmt c.p)
    exact ⟨t, ht, hstore, hdev, by rw [hsame, hon], ended_of_answers hok⟩
  | true =>
    have hempty := (takeAccepted_queueEmpty (s := s) hq).trans (hdone.resolve_left (by rw [hon]; decide))
    have hsettles := Dev.settleDeletes_settles (d := s.dev.takeAccepted 0x0102 c) (k := Ici.pend 0x0102 c)
      (by rw [pend_q_mgmt hq]; exact (payBits_ne_mgmt c.p).symm) hnone (payBits_lt c.p 0 0 3) hempty
    obtain ⟨t, ht, hstore, hdev, hset, hended, -⟩ := mgmt_changes_queue hq h (f := fun k b => b.queueDelete k c.p)
      (fun x => { x with enable := false, error := false })
      (hpass.trans (congrArg (fun e => Box.onD _ fun _ => e) ((if_pos (by rw [hqueue, hon])).trans hsettles)))
    exact ⟨t, ht, hstore, hdev, by rw [hset], hended⟩

theorem queueDelete_waits (hlive : (s.dev.ctx (payBits c.p 0 0 3)).live = false)
    (hon : (s.dev.queue (payBits c.p 0 0 3)).enable = true) (hempty : s.dev.queueEmpty (payBits c.p 0 0 3) = false) :
    ∃ t, exec (.queueDelete c) s = .next t ∧ sameStore s t
      ∧ t.dev.opens = s.dev.opens ++ [⟨Ici.pend 0x0102 c, .queueDelete (payBits c.p 0 0 3)⟩] ∧ taken 0x0102 c s t := by
  have hqueue : (s.performing 0x0102 c).dev.queue (payBits c.p 0 0 3) = s.dev.queue (payBits c.p 0 0 3) := takeAccepted_queue_ctx hq
  have hwaits := Dev.settleDeletes_waits (d := s.dev.takeAccepted 0x0102 c) (k := Ici.pend 0x0102 c)
    (by rw [pend_q_mgmt hq]; exact (payBits_ne_mgmt c.p).symm) hnone ((takeAccepted_queueEmpty (s := s) hq).trans hempty)
  obtain ⟨t, ht, hstore, htaken, hdev⟩ := ici_opens h (f := fun k b => b.queueDelete k c.p)
    ((queueDelete_passes hlive).trans (congrArg (fun e => Box.onD _ fun _ => e) ((if_pos (by rw [hqueue, hon])).trans hwaits))) rfl
  exact ⟨t, ht, hstore, congrArg Dev.opens hdev, htaken⟩

end

theorem queueDelete_fails {c : Ici} {s : State} (h : performs 0x0102 c false s) (hlive : (s.dev.ctx (payBits c.p 0 0 3)).live = true) :
    ∃ t, exec (.queueDelete c) s = .next t ∧ sameStore s t ∧ answers 0x0102 c 1 0x1009 0 0 s t ∧ recorded 0x1009 none [0x0102, 0] s t := by
  have hfail : (s.performing 0x0102 c).queueDelete (Ici.pend 0x0102 c) c.p = (s.performing 0x0102 c).fail (Ici.pend 0x0102 c) 0x1009 none [0x0102, 0] := by
    have hlive' : ((s.performing 0x0102 c).dev.ctx (payBits c.p 0 0 3)).live = true := hlive
    unfold Box.queueDelete
    dsimp only
    rw [Box.fields_bad (byte := 0) (by simp [firstField, hlive']), Box.bad_of_adminCommand (by norm_num [Ici.pend])]
    rfl
  obtain ⟨t, ht, hstore, -, -, hans, hrec⟩ := ici_fails h (f := fun k b => b.queueDelete k c.p) hfail
  exact ⟨t, ht, hstore, hans, hrec⟩

/-! ### Companion grants (14 R427) -/

theorem inCompanion_empty {a n : Nat} (h : inCompanion a n = true) : inCompanion a 0 = true := by
  simp only [inCompanion, Bool.and_eq_true, decide_eq_true_eq] at h ⊢
  omega

section
variable {c : Ici} {s : State} (h : performs 0x0106 c false s) (halign : pay c.p 0 8 % 4096 = 0)
  (hin : inCompanion (pay c.p 0 8) (pay c.p 8 4 * 4096) = true) (hlo : 1 ≤ pay c.p 8 4) (hhi : pay c.p 8 4 ≤ 2 ^ 28)
include h halign hin hlo hhi

theorem companionMap_adds (hfree : ∀ g ∈ s.dev.grants, g.overlaps (pay c.p 0 8) (pay c.p 8 4 * 4096) = false)
    (hroom : s.dev.grants.length < 1024) (hperm : payBits c.p 12 0 2 ≠ 0) :
    ∃ t, exec (.companionMap c) s = .next t ∧ sameStore s t ∧ succeeds 0x0106 c s t
      ∧ t.dev = { s.dev with
          queues := t.dev.queues, grants := s.dev.grants ++ [⟨pay c.p 0 8, pay c.p 8 4, bitOf c.p 96, bitOf c.p 97⟩] } := by
  have hrun : (s.performing 0x0106 c).companionMap (Ici.pend 0x0106 c) c.p = (s.performing 0x0106 c).onD fun _ =>
      ({ s.dev.takeAccepted 0x0106 c with
        grants := s.dev.grants ++ [⟨pay c.p 0 8, pay c.p 8 4, bitOf c.p 96, bitOf c.p 97⟩] } : Dev).okCmd (Ici.pend 0x0106 c) := by
    have hgrants : (s.performing 0x0106 c).dev.grants = s.dev.grants := rfl
    unfold Box.companionMap
    dsimp only
    rw [hgrants, Box.fields_pass]
    · rfl
    · simpa [halign, inCompanion_empty hin, hin, hlo, hperm, hroom] using ⟨hhi, hfree⟩
  obtain ⟨t, ht, hstore, hok, hdev⟩ := ici_sets h (f := fun k b => b.companionMap k c.p) hrun rfl (performs_bare h)
  exact ⟨t, ht, hstore, hok, hdev⟩

theorem companionMap_fails (hperm : payBits c.p 12 0 2 = 0) :
    ∃ t, exec (.companionMap c) s = .next t ∧ sameStore s t ∧ t.dev.grants = s.dev.grants
      ∧ answers 0x0106 c 1 0x1009 0 0 s t ∧ recorded 0x1009 none [0x0106, 12] s t := by
  have hfail : (s.performing 0x0106 c).companionMap (Ici.pend 0x0106 c) c.p
      = (s.performing 0x0106 c).fail (Ici.pend 0x0106 c) 0x1009 none [0x0106, 12] := by
    have hhi' : pay c.p 8 4 ≤ 268435456 := hhi
    unfold Box.companionMap
    dsimp only
    rw [Box.fields_bad (byte := 12) (by simp [firstField, halign, inCompanion_empty hin, hin, hlo, hperm, hhi']), Box.bad_of_adminCommand (by norm_num [Ici.pend])]
    rfl
  obtain ⟨hstore, -, -, hans, hrec⟩ := failCmd_answers h 0x1009 [0x0106, 12] 0
  exact ⟨_, ici_performing h (f := fun k b => b.companionMap k c.p) hfail, hstore, (Dev.complete_grants ..).trans (Dev.raise_grants ..), hans, hrec⟩

end

/-- The grant that a base names, when no other has it. -/
theorem find?_eq_some_of_unique {l : List Grant} {g : Grant} (hg : g ∈ l) (honly : ∀ h ∈ l, h.base = g.base → h = g) :
    l.find? (·.base == g.base) = some g := by
  have hsome : (l.find? (·.base == g.base)).isSome := List.find?_isSome.mpr ⟨g, hg, beq_self_eq_true _⟩
  obtain ⟨x, hx⟩ := Option.isSome_iff_exists.mp hsome
  rw [hx, honly x (List.mem_of_find?_eq_some hx) (by simpa using List.find?_some hx)]

theorem companionUnmap_removes {c : Ici} {s : State} (h : performs 0x0107 c false s) {g : Grant} (hg : g ∈ s.dev.grants)
    (hbase : g.base = pay c.p 0 8) (honly : ∀ h ∈ s.dev.grants, h.base = g.base → h = g)
    (hdescs : (s.dev.takeAccepted 0x0107 c).descTouches g.base (g.units * 4096) = false)
    (hrings : (s.dev.takeAccepted 0x0107 c).ringTouches g.base (g.units * 4096) = false)
    (hspills : (s.dev.takeAccepted 0x0107 c).spillTouches g.base (g.units * 4096) = false) :
    ∃ t, exec (.companionUnmap c) s = .next t ∧ sameStore s t ∧ succeeds 0x0107 c s t
      ∧ t.dev = { s.dev with queues := t.dev.queues, grants := s.dev.grants.filter fun h => h.base != g.base } := by
  have hrun : (s.performing 0x0107 c).companionUnmap (Ici.pend 0x0107 c) c.p = (s.performing 0x0107 c).onD fun _ =>
      ({ s.dev.takeAccepted 0x0107 c with grants := s.dev.grants.filter fun h => h.base != g.base } : Dev).okCmd (Ici.pend 0x0107 c) := by
    have hfind : (s.performing 0x0107 c).dev.grants.find? (·.base == pay c.p 0 8) = some g := hbase ▸ find?_eq_some_of_unique hg honly
    have hclear : ((s.performing 0x0107 c).dev.descTouches (pay c.p 0 8) (g.units * 4096)
        || (s.performing 0x0107 c).dev.ringTouches (pay c.p 0 8) (g.units * 4096)
        || (s.performing 0x0107 c).dev.spillTouches (pay c.p 0 8) (g.units * 4096)) = false := by
      rw [hbase] at hdescs hrings hspills
      simp only [Bool.or_eq_false_iff]
      exact ⟨⟨hdescs, hrings⟩, hspills⟩
    unfold Box.companionUnmap
    simp only [hfind, hclear, hbase]
    rfl
  obtain ⟨t, ht, hstore, hok, hdev⟩ := ici_sets h (f := fun k b => b.companionUnmap k c.p) hrun rfl (performs_bare h)
  exact ⟨t, ht, hstore, hok, hdev⟩

/-- Settles O54. -/
theorem administrationCommandsAct : Obligations.AdministrationCommandsAct := by
  unfold Obligations.AdministrationCommandsAct
  intro c s
  refine ⟨fun h => ⟨_, ici_performs h fun k b => b.ok k, ok_unchanged h 0 0⟩,
    fun h hq hoff hrings hirq => queueCreate_answers h hq hoff hrings hirq, fun h hq hnone => ?_, fun h halign hin hlo hhi hfree hroom => ?_,
    fun h g hg hbase honly hdescs hrings hspills => companionUnmap_removes h hg hbase honly hdescs hrings hspills⟩
  · exact ⟨fun hlive hdone => queueDelete_deletes h hq hnone hlive hdone, fun hlive hon hempty => queueDelete_waits h hq hnone hlive hon hempty,
      fun hlive => queueDelete_fails h hlive⟩
  · exact ⟨fun hperm => companionMap_adds h halign hin hlo hhi hfree hroom hperm, fun hperm => companionMap_fails h halign hin hlo hhi hperm⟩

end Sys2Proof.Machine

/-! SUPPORT. Commands about power states, containment, shadowing, rotation and firmware (15 R443, R444, R468; 16 R490 to R498; 18 R530,
R534). -/

namespace Sys2Proof.Machine

open Sys2Proof.Safety

/-! ### A command that records an event and succeeds -/

/-- A change of the device, at the device that it changes. -/
theorem Box.onD_at (b : Box) (f : Dev → Dev) : b.onD f = b.onD fun _ => f b.dev := rfl

/-- An event raised after others is recorded. -/
theorem recorded_of_later {s t : State} {d : Dev} {code die : Nat} {fw : Bool} {ctx : Option Nat} {l : List Int} (hmb : s.dev.mb.head ≤ d.mb.head)
    (ht : t.dev.mb = (d.raise code die fw ctx l).mb) : recorded code ctx l s t :=
  ⟨d.form code die fw ctx l (d.trigFor code ctx), ht ▸ d.form_mem_raise_ring code die fw ctx l, hmb, rfl, rfl, rfl⟩

section
variable {opc : Nat} {c : Ici} {needs : Bool} {s : State} (h : performs opc c needs s)
include h

theorem ici_notes {f : Pend → Box → Box} {d : Dev} {code die : Nat} {fw : Bool} {ctx : Option Nat} {l : List Int}
    (hf : f (Ici.pend opc c) (s.performing opc c) = (s.performing opc c).onD fun _ => (d.raise code die fw ctx l).okCmd (Ici.pend opc c))
    (hqueues : d.queues = (s.dev.takeAccepted opc c).queues) (hyoke : d.yoke = s.dev.yoke) (hmb : d.mb = s.dev.mb) :
    ∃ t, s.ici opc c needs f = .next t ∧ sameStore s t ∧ succeeds opc c s t ∧ recorded code ctx l s t
      ∧ t.dev = { d.raise code die fw ctx l with queues := t.dev.queues } := by
  have hbare : (d.raise code die fw ctx l).bare = false :=
    (Dev.raise_bare_of ..).trans ((congrArg (fun y : YokeSt => y.mode == 2) hyoke).trans (performs_bare h))
  obtain ⟨t, ht, hstore, hok, hdev⟩ := ici_sets h hf ((Dev.raise_queues ..).trans hqueues) hbare
  exact ⟨t, ht, hstore, hok, recorded_of_raise_mb hmb (by rw [hdev]), hdev⟩

end

/-! ### POWER_STATE_SET, POWER_LIMIT_SET (18 R530, R534) -/

/-- Out of Hold, with VCORE at 0.650 V. -/
def Dev.outOfHold (d : Dev) : Dev := { d with power := { d.power with hold := false, wake := none }, pace := { d.pace with vcore := 650 } }

/-- Leaving Hold while no packet waits in a Seam's buffer. -/
theorem Box.leaveHold_eq {b : Box} {cause : Nat} (hcore : b.dev.vcoreHeld = false) (hheld : ∀ p, p < 64 → (b.dev.seam p).held = []) :
    b.leaveHold cause = b.onD fun d => d.outOfHold.evFw 0x6001 none [2, 1, cause] := by
  have hserve : ∀ (l : List Nat) (b : Box), (∀ p ∈ l, (b.dev.seam p).held = []) → l.foldl Box.serveAllHeld b = b := by
    intro l
    induction l with
    | nil => exact fun b _ => rfl
    | cons p l ih =>
      intro b hb
      obtain ⟨hp, hl⟩ := List.forall_mem_cons.mp hb
      rw [List.foldl_cons, Box.serveAllHeld, hp]
      exact ih b hl
  unfold Box.leaveHold
  dsimp only
  rw [hserve]
  · simp only [Box.onD, hcore]
    rfl
  · intro p hp
    rw [Box.onD_dev, Dev.evFw_eq, Dev.raise_seam_of]
    exact hheld p (List.mem_range.mp hp)

/-- In Hold, with VCORE at 0.600 V and the Hems' side memory lost. -/
def Dev.inHold (d : Dev) : Dev :=
  { d with hems := d.hems.map fun e => (e.1, { e.2 with ents := [] }), power := { d.power with hold := true, wake := none }, pace := { d.pace with vcore := 600 } }

/-- Off. -/
def Dev.turnedOff (d : Dev) : Dev := { d with power := { d.power with off := true } }

/-- A field out of range of a power command. -/
theorem Box.bad_of_powerCommand {k : Pend} (hk : k.opc / 256 = 6) (b : Box) (byte : Int) : b.bad k none byte = b.fail k 0x600A none [k.opc, byte] := by
  have hevent : groupEvent k.opc = 0x600A := by
    unfold groupEvent
    rw [hk]
    rfl
  unfold Box.bad Box.fail Dev.badField
  rw [hevent, hk]
  rfl

section
variable {c : Ici} {s : State}

theorem powerSet_fields {st : Nat} (hst : pay c.p 0 1 = st) (hlo : 1 ≤ st) (hhi : st ≤ 3) (b : Box) (k : Pend) : b.powerSet k c.p =
    if st = 1 then (if b.dev.power.hold then b.leaveHold 0 else b).ok k
    else if st = 2 ∧ b.dev.power.hold then b.ok k
    else if !b.dev.mayHold then b.bad k none 0
    else if st = 2 then b.enterHold.ok k
    else (b.onD Dev.enterOff).ok k := by
  subst hst
  unfold Box.powerSet
  exact Box.fields_pass (by simp [hlo, hhi]) _

theorem performing_hold (opc : Nat) : (s.performing opc c).dev.power.hold = s.dev.power.hold := rfl
theorem performing_mayHold (opc : Nat) : (s.performing opc c).dev.mayHold = s.dev.mayHold := rfl

variable (h : performs 0x0601 c false s)
include h

/-- The device stands in the state already. -/
theorem powerStateSet_stays (hst : pay c.p 0 1 = 1 ∧ s.dev.power.hold = false ∨ pay c.p 0 1 = 2 ∧ s.dev.power.hold = true) :
    ∃ t, exec (.powerStateSet c) s = .next t ∧ sameStore s t ∧ onlyAnswered s t ∧ succeeds 0x0601 c s t := by
  refine ici_sets_none h (f := fun k b => b.powerSet k c.p) ?_
  rcases hst with ⟨hst, hhold⟩ | ⟨hst, hhold⟩
  · rw [powerSet_fields hst (by decide) (by decide), if_pos rfl, performing_hold, hhold]
    rfl
  · rw [powerSet_fields hst (by decide) (by decide), if_neg (by decide), performing_hold, hhold, if_pos ⟨rfl, rfl⟩]

/-- From Hold to Idle. -/
theorem powerStateSet_idle (hst : pay c.p 0 1 = 1) (hhold : s.dev.power.hold = true) (hheld : ∀ p, p < 64 → (s.dev.seam p).held = []) :
    ∃ t, exec (.powerStateSet c) s = .next t ∧ sameStore s t ∧ t.dev.power.hold = false ∧ t.dev.pace.vcore = 650
      ∧ recorded 0x6001 none [2, 1, 0] s t ∧ succeeds 0x0601 c s t := by
  have hcore : (s.performing 0x0601 c).dev.vcoreHeld = false := by
    have hserving := h.1
    simp only [Dev.serving, Bool.and_eq_true] at hserving
    have hbare : (s.performing 0x0601 c).dev.bare = false := performs_bare h
    have hactive : s.dev.cutter.active.isNone = false := by simpa [Option.isSome_iff_ne_none] using hserving.1.2
    exact Bool.or_eq_false_iff.mpr ⟨hbare, hactive⟩
  have hrun : (s.performing 0x0601 c).powerSet (Ici.pend 0x0601 c) c.p = (s.performing 0x0601 c).onD fun _ =>
      ((s.dev.takeAccepted 0x0601 c).outOfHold.raise 0x6001 (s.dev.takeAccepted 0x0601 c).outOfHold.fwDie true none [2, 1, 0]).okCmd
        (Ici.pend 0x0601 c) := by
    rw [powerSet_fields hst (by decide) (by decide), if_pos rfl, performing_hold, hhold, if_pos rfl, Box.leaveHold_eq hcore hheld]
    rfl
  obtain ⟨t, ht, hstore, hok, hrec, hdev⟩ := ici_notes h (f := fun k b => b.powerSet k c.p) hrun rfl rfl rfl
  refine ⟨t, ht, hstore, ?_, ?_, hrec, hok⟩
  · rw [hdev]
    exact Dev.raise_power_hold ..
  · rw [hdev]
    exact congrArg PaceSt.vcore (Dev.raise_pace ..)

/-- From Idle to Hold. -/
theorem powerStateSet_hold (hst : pay c.p 0 1 = 2) (hhold : s.dev.power.hold = false) (hmay : s.dev.mayHold = true) :
    ∃ t, exec (.powerStateSet c) s = .next t ∧ t.pending = s.pending ∧ memoryKept s t ∧ t.dev.power.hold = true ∧ t.dev.pace.vcore = 600
      ∧ recorded 0x6001 none [1, 2, 0] s t ∧ succeeds 0x0601 c s t := by
  have hframe := (s.dev.takeAccepted 0x0601 c).mbDrainAll_frame
  have hlater := (MbSt.Appended.drainAll (s.dev.takeAccepted 0x0601 c)).later
  have hrun : (s.performing 0x0601 c).powerSet (Ici.pend 0x0601 c) c.p
      = (⟨s.store.lostScr 0 (6144 * 2097152), (s.dev.takeAccepted 0x0601 c).mbDrainAll.inHold.evFw 0x6001 none [1, 2, 0]⟩ : Box).ok (Ici.pend 0x0601 c) := by
    rw [powerSet_fields hst (by decide) (by decide), if_neg (by decide), performing_hold, hhold, if_neg (by decide), performing_mayHold, hmay,
      if_neg (by decide), if_pos rfl]
    rfl
  generalize (s.dev.takeAccepted 0x0601 c).mbDrainAll = d at hframe hlater hrun
  refine ⟨_, ici_performing h (f := fun k b => b.powerSet k c.p) hrun, rfl, fun _ => rfl, ?_, ?_,
    recorded_of_later (d := d.inHold) hlater (Dev.complete_mb ..), answers_ok ?_ ?_ 0 0⟩
  · exact (congrArg PowerSt.hold (Dev.complete_power ..)).trans (Dev.raise_power_hold ..)
  · exact (congrArg PaceSt.vcore ((Dev.complete_pace ..).trans (Dev.raise_pace ..)) :)
  · exact (Dev.raise_queues ..).trans (by rw [Dev.inHold, hframe])
  · refine (Dev.raise_bare_of ..).trans (Eq.trans ?_ (performs_bare h))
    rw [Dev.inHold, hframe]
    rfl

/-- To Off. -/
theorem powerStateSet_off (hst : pay c.p 0 1 = 3) (hmay : s.dev.mayHold = true) :
    ∃ t, exec (.powerStateSet c) s = .next t ∧ sameStore s t ∧ t.dev.power.off = true
      ∧ recorded 0x6001 none [s.dev.powerState, 3, 0] s t ∧ succeeds 0x0601 c s t := by
  have hrun : (s.performing 0x0601 c).powerSet (Ici.pend 0x0601 c) c.p = (s.performing 0x0601 c).onD fun _ =>
      ((s.dev.takeAccepted 0x0601 c).turnedOff.raise 0x6001 (s.dev.takeAccepted 0x0601 c).turnedOff.fwDie true none [s.dev.powerState, 3, 0]).okCmd
        (Ici.pend 0x0601 c) := by
    rw [powerSet_fields hst (by decide) (by decide), if_neg (by decide), if_neg (by simp), performing_mayHold, hmay, if_neg (by decide),
      if_neg (by decide)]
    rfl
  obtain ⟨t, ht, hstore, hok, hrec, hdev⟩ := ici_notes h (f := fun k b => b.powerSet k c.p) hrun rfl rfl rfl
  refine ⟨t, ht, hstore, ?_, hrec, hok⟩
  rw [hdev]
  exact Dev.raise_power_off ..

/-- A state that 18 R534 forbids now. -/
theorem powerStateSet_fails (hst : pay c.p 0 1 = 2 ∧ s.dev.power.hold = false ∨ pay c.p 0 1 = 3) (hmay : s.dev.mayHold = false) :
    ∃ t, exec (.powerStateSet c) s = .next t ∧ sameStore s t ∧ t.dev.power.hold = s.dev.power.hold ∧ t.dev.power.off = s.dev.power.off
      ∧ answers 0x0601 c 1 0x600A 0 0 s t ∧ recorded 0x600A none [0x0601, 0] s t := by
  have hfail : (s.performing 0x0601 c).powerSet (Ici.pend 0x0601 c) c.p = (s.performing 0x0601 c).fail (Ici.pend 0x0601 c) 0x600A none [0x0601, 0] := by
    refine Eq.trans ?_ (Box.bad_of_powerCommand (k := Ici.pend 0x0601 c) (by norm_num [Ici.pend]) (s.performing 0x0601 c) 0)
    rcases hst with ⟨hst, hhold⟩ | hst
    · rw [powerSet_fields hst (by decide) (by decide), if_neg (by decide), performing_hold, hhold, if_neg (by decide), performing_mayHold, hmay]
      rfl
    · rw [powerSet_fields hst (by decide) (by decide), if_neg (by decide), if_neg (by simp), performing_mayHold, hmay]
      rfl
  obtain ⟨hstore, -, -, hans, hrec⟩ := failCmd_answers h 0x600A [0x0601, 0] 0
  refine ⟨_, ici_performing h (f := fun k b => b.powerSet k c.p) hfail, hstore, ?_, ?_, hans, hrec⟩
  · exact (congrArg PowerSt.hold (Dev.complete_power ..)).trans (Dev.raise_power_hold ..)
  · exact (congrArg PowerSt.off (Dev.complete_power ..)).trans (Dev.raise_power_off ..)

end

/-- The power limit. -/
def Dev.withLimit (d : Dev) (v : Nat) : Dev := { d with power := { d.power with plimit := v } }

/-- What POWER_LIMIT_SET does. -/
def limitRun (v : Nat) (k : Pend) (b : Box) : Box :=
  b.fields k none [(decide (1200 ≤ v ∧ v ≤ 2900), 0)] fun b => b.onD fun d => ((d.withLimit v).evFw 0x6002 none [d.power.plimit, v]).okCmd k

theorem powerLimitSet_answers {c : Ici} {s : State} (h : performs 0x0602 c false s) (hlo : 1200 ≤ pay c.p 0 4) (hhi : pay c.p 0 4 ≤ 2900) :
    ∃ t, exec (.powerLimitSet c) s = .next t ∧ sameStore s t ∧ t.dev.power.plimit = pay c.p 0 4
      ∧ recorded 0x6002 none [s.dev.power.plimit, pay c.p 0 4] s t ∧ succeeds 0x0602 c s t := by
  have hrun : limitRun (pay c.p 0 4) (Ici.pend 0x0602 c) (s.performing 0x0602 c) = (s.performing 0x0602 c).onD fun _ =>
      (((s.dev.takeAccepted 0x0602 c).withLimit (pay c.p 0 4)).raise 0x6002
        ((s.dev.takeAccepted 0x0602 c).withLimit (pay c.p 0 4)).fwDie true none [s.dev.power.plimit, pay c.p 0 4]).okCmd (Ici.pend 0x0602 c) :=
    Box.fields_pass (by simp [hlo, hhi]) _
  obtain ⟨t, ht, hstore, hok, hrec, hdev⟩ := ici_notes h (f := limitRun (pay c.p 0 4)) hrun rfl rfl rfl
  refine ⟨t, ht, hstore, ?_, hrec, hok⟩
  rw [hdev]
  exact Dev.raise_power_plimit ..

/-! ### CONTAIN_CONFIG, SHADOW_CONFIG (15 R443, R444) -/

theorem containConfig_answers {c : Ici} {s : State} (h : performs 0x0706 c false s) : ∃ t, exec (.containConfig c) s = .next t ∧ sameStore s t
    ∧ succeeds 0x0706 c s t ∧ t.dev = { s.dev with queues := t.dev.queues, containReset := bitOf c.p 0 } := by
  obtain ⟨hstore, hok, hdev⟩ := okCmd_answers h (d := { s.dev.takeAccepted 0x0706 c with containReset := bitOf c.p 0 }) rfl rfl
  exact ⟨_, ici_performs h _, hstore, hok, hdev⟩

/-- The shadow configuration of a payload. -/
def Dev.withShadow (d : Dev) (p : BitVec 384) : Dev := { d with shadow := { d.shadow with
  rate := pay p 0 1, idle := bitOf p 8, strikeLimit := pay p 2 2, unresLimit := pay p 4 2, window := pay p 8 4, interval := pay p 12 4
  seed := BitVec.ofNat 64 (pay p 16 8) } }

theorem Box.shadowConfig_passes {b : Box} {k : Pend} {p : BitVec 384} (hrate : pay p 0 1 ≤ 20) (hstrike : 1 ≤ pay p 2 2) (hstrike' : pay p 2 2 ≤ 255)
    (hunres : 1 ≤ pay p 4 2) (hunres' : pay p 4 2 ≤ 255) (hwindow : 1 ≤ pay p 8 4) (hwindow' : pay p 8 4 ≤ 8760) (hint : 10 ≤ pay p 12 4)
    (hint' : pay p 12 4 ≤ 1000000) :
    b.shadowConfig k p = ((b.dev.cores.map (·.1)).foldl Box.checkStrikes (b.onD fun d => d.withShadow p)).ok k := by
  unfold Box.shadowConfig
  exact Box.fields_pass (by simp [hrate, hstrike, hstrike', hunres, hunres', hwindow, hwindow', hint, hint']) _

theorem Dev.TestsKept.checkStrikes (b : Box) (core : Nat) : b.dev.TestsKept (b.checkStrikes core).dev := by
  unfold Box.checkStrikes
  split
  · exact .due ..
  · split
    · exact .due ..
    · exact .refl _

/-- Without strikes no limit is met. -/
theorem Box.checkStrikes_none {b : Box} (hnone : ∀ e ∈ b.dev.cores, e.2.strikes = []) (hlimit : 1 ≤ b.dev.shadow.strikeLimit)
    (hlimit' : 1 ≤ b.dev.shadow.unresLimit) (core : Nat) : b.checkStrikes core = b := by
  have hcore : (b.dev.core core).strikes = [] := by
    rw [Dev.core, getD]
    cases hx : get? b.dev.cores core with
    | none => rfl
    | some x => exact hnone _ (mem_of_get? hx)
  have hcount : ∀ u, b.dev.strikesIn core u = 0 := fun u => by rw [Dev.strikesIn, hcore]; rfl
  unfold Box.checkStrikes
  rw [hcount, hcount, if_neg (by omega), if_neg (by omega)]

theorem Box.checkAllStrikes_none {b : Box} (hnone : ∀ e ∈ b.dev.cores, e.2.strikes = []) (hlimit : 1 ≤ b.dev.shadow.strikeLimit)
    (hlimit' : 1 ≤ b.dev.shadow.unresLimit) (l : List Nat) : l.foldl Box.checkStrikes b = b := by
  induction l with
  | nil => rfl
  | cons core l ih => rw [List.foldl_cons, Box.checkStrikes_none hnone hlimit hlimit', ih]

section
variable {c : Ici} {s : State} (h : performs 0x0707 c false s) (hpass : (s.performing 0x0707 c).shadowConfig (Ici.pend 0x0707 c) c.p
  = ((s.dev.cores.map (·.1)).foldl Box.checkStrikes ((s.performing 0x0707 c).onD fun d => d.withShadow c.p)).ok (Ici.pend 0x0707 c))
include h hpass

theorem shadowConfig_ends : ∃ t, exec (.shadowConfig c) s = .next t ∧ t.pending = s.pending ∧ ended 0x0707 c 0 0 t := by
  have hkept := Dev.TestsKept.foldlBox Dev.TestsKept.checkStrikes (s.dev.cores.map (·.1)) ((s.performing 0x0707 c).onD fun d => d.withShadow c.p)
  refine ⟨_, ici_performing h (f := fun k b => b.shadowConfig k c.p) hpass, rfl, ended_of_okCmd (hkept.bare.trans (performs_bare h)) rfl⟩

theorem shadowConfig_quiet (hnone : ∀ e ∈ s.dev.cores, e.2.strikes = []) (hlimit : 1 ≤ pay c.p 2 2) (hlimit' : 1 ≤ pay c.p 4 2) :
    ∃ t, exec (.shadowConfig c) s = .next t ∧ sameStore s t ∧ succeeds 0x0707 c s t
      ∧ t.dev = { s.dev.withShadow c.p with queues := t.dev.queues } := by
  rw [Box.checkAllStrikes_none (b := (s.performing 0x0707 c).onD fun d => d.withShadow c.p) hnone hlimit hlimit'] at hpass
  obtain ⟨hstore, hok, hdev⟩ := okCmd_answers h (d := (s.dev.takeAccepted 0x0707 c).withShadow c.p) rfl rfl
  exact ⟨_, ici_performing h (f := fun k b => b.shadowConfig k c.p) hpass, hstore, hok, hdev⟩

end

/-! ### CUTTER_ROTATE (15 R468) -/

/-- The rank-1 standby has the baton, the old active Cutter is a standby. -/
def Dev.handedOver (d : Dev) (a b : Nat) : Dev :=
  ({ d with cutter := { d.cutter with st := put d.cutter.st a 1, lastRot := d.now, rotDue := none } } : Dev).becomeActive b

theorem Dev.updateStep_none {d : Dev} (h : d.fw.upd = none) : d.updateStep = d := by
  unfold Dev.updateStep
  rw [h]

theorem Dev.rotate_eq {d : Dev} {a b reason : Nat} {rest : List Nat} (hactive : d.cutter.active = some a) (hstandby : d.standbys = b :: rest)
    (hupd : d.fw.upd = none) : d.rotate reason = (d.handedOver a b).evFw 0x7004 none [a, b, reason] := by
  unfold Dev.rotate
  simp only [hactive, hstandby]
  refine Dev.updateStep_none ?_
  rw [Dev.evFw_eq, Dev.raise_fw]
  exact hupd

/-- A standby is not the active Cutter. -/
theorem Dev.standbys_ne {d : Dev} {a b : Nat} (hactive : d.cutter.active = some a) (hb : b ∈ d.standbys) : b ≠ a := by
  have hno : d.cutterNo = a := by rw [Dev.cutterNo, hactive]; rfl
  simp only [Dev.standbys, List.mem_filter, List.mem_map, List.mem_range, hno] at hb
  obtain ⟨⟨r, hr, rfl⟩, -⟩ := hb
  omega

section
variable {c : Ici} {s : State} (hperiod : pay c.p 2 2 ≤ 8760)
include hperiod

theorem cutterRotate_passes (hact : pay c.p 0 1 ≤ 1) : (s.performing 0x0708 c).cutterRotate (Ici.pend 0x0708 c) c.p = (s.performing 0x0708 c).onD fun d =>
    if pay c.p 0 1 = 0 then (d.requestRotation 0).okCmd (Ici.pend 0x0708 c)
    else ({ d with cutter := { d.cutter with period := pay c.p 2 2 } } : Dev).okCmd (Ici.pend 0x0708 c) := by
  unfold Box.cutterRotate
  exact Box.fields_pass (by simp [hact, hperiod]) _

variable (h : performs 0x0708 c false s)
include h

/-- Action 1 sets the period. -/
theorem cutterRotate_period (hact : pay c.p 0 1 = 1) : ∃ t, exec (.cutterRotate c) s = .next t ∧ sameStore s t ∧ succeeds 0x0708 c s t
    ∧ t.dev = { s.dev with queues := t.dev.queues, cutter := { s.dev.cutter with period := pay c.p 2 2 } } := by
  obtain ⟨t, ht, hstore, hok, hdev⟩ := ici_sets h (f := fun k b => b.cutterRotate k c.p)
    (d := { s.dev.takeAccepted 0x0708 c with cutter := { s.dev.cutter with period := pay c.p 2 2 } })
    ((cutterRotate_passes hperiod (by omega)).trans (congrArg (fun e => Box.onD _ fun _ => e) (if_neg (by omega)))) rfl (performs_bare h)
  exact ⟨t, ht, hstore, hok, hdev⟩

variable (hact : pay c.p 0 1 = 0) (hupd : s.dev.fw.upd = none)
include hact hupd

/-- Without a RUNNING context the rotation acts at once. -/
theorem cutterRotate_now {a b : Nat} {rest : List Nat} (hruns : s.dev.runningCtxs = []) (hactive : s.dev.cutter.active = some a)
    (hstandby : s.dev.standbys = b :: rest) :
    ∃ t, exec (.cutterRotate c) s = .next t ∧ sameStore s t ∧ succeeds 0x0708 c s t
      ∧ t.dev.cutter.active = some b ∧ getD t.dev.cutter.st b 2 = 0 ∧ getD t.dev.cutter.st a 2 = 1 ∧ recorded 0x7004 none [a, b, 0] s t := by
  have hrequest : (s.dev.takeAccepted 0x0708 c).requestRotation 0 = ((s.dev.takeAccepted 0x0708 c).handedOver a b).evFw 0x7004 none [a, b, 0] := by
    have hupd' : (s.dev.takeAccepted 0x0708 c).fw.upd = none := hupd
    have hlowest : (s.dev.takeAccepted 0x0708 c).lowestRunning = none := congrArg List.head? hruns
    refine Eq.trans ?_ (Dev.rotate_eq (d := s.dev.takeAccepted 0x0708 c) (reason := 0) hactive hstandby hupd)
    rw [Dev.requestRotation, hupd', hlowest]
    rfl
  obtain ⟨t, ht, hstore, hok, hrec, hdev⟩ := ici_notes h (f := fun k b => b.cutterRotate k c.p) ((cutterRotate_passes hperiod (by omega)).trans
    (congrArg (fun e => Box.onD _ fun _ => e) ((if_pos hact).trans (congrArg (fun d : Dev => d.okCmd _) hrequest)))) rfl rfl rfl
  have hcutter : t.dev.cutter = ((s.dev.takeAccepted 0x0708 c).handedOver a b).cutter := by
    rw [hdev]
    exact Dev.raise_cutter ..
  have hne : a ≠ b := (Dev.standbys_ne hactive (hstandby ▸ List.mem_cons_self ..)).symm
  refine ⟨t, ht, hstore, hok, by rw [hcutter]; rfl, ?_, ?_, hrec⟩
  · rw [hcutter]
    exact getD_put_same ..
  · rw [hcutter]
    exact (getD_put_ne _ _ _ hne).trans (getD_put_same ..)

/-- While a context runs it waits for the boundary. -/
theorem cutterRotate_waits (hruns : s.dev.runningCtxs ≠ []) : ∃ t, exec (.cutterRotate c) s = .next t ∧ sameStore s t ∧ succeeds 0x0708 c s t
    ∧ t.dev = { s.dev with queues := t.dev.queues, cutter := { s.dev.cutter with rotDue := some 0 } } := by
  have hrequest : (s.dev.takeAccepted 0x0708 c).requestRotation 0
      = { s.dev.takeAccepted 0x0708 c with cutter := { s.dev.cutter with rotDue := some 0 } } := by
    have hupd' : (s.dev.takeAccepted 0x0708 c).fw.upd = none := hupd
    have hlowest : (s.dev.takeAccepted 0x0708 c).lowestRunning.isNone = false := by
      change s.dev.runningCtxs.head?.isNone = false
      simpa using hruns
    rw [Dev.requestRotation, hupd', hlowest]
    rfl
  obtain ⟨t, ht, hstore, hok, hdev⟩ := ici_sets h (f := fun k b => b.cutterRotate k c.p) ((cutterRotate_passes hperiod (by omega)).trans
    (congrArg (fun e => Box.onD _ fun _ => e) ((if_pos hact).trans (congrArg (fun d : Dev => d.okCmd _) hrequest)))) rfl (performs_bare h)
  exact ⟨t, ht, hstore, hok, hdev⟩

end

/-! ### ATTEST_REPORT (16 R490) -/

theorem attestReport_answers {c : Ici} {s : State} (h : performs 0x0801 c (inSpools (pay c.p 8 8) || inSpools (pay c.p 16 8)) s) (hok : memoryOk s)
    {nonce : List Byte} (hread : readable s (s.dev.takeAccepted 0x0801 c) (pay c.p 8 8) 64 64 nonce)
    (hwr : writable (s.dev.takeAccepted 0x0801 c) (pay c.p 16 8) 5504) :
    ∃ t, exec (.attestReport c) s = .next t ∧ t.pending = s.pending ∧ succeeds 0x0801 c s t ∧ t.dev.fw.signs = s.dev.fw.signs + 1
      ∧ wrote (pay c.p 16 8) ((s.dev.takeAccepted 0x0801 c).attestReport (pay c.p 0 1) nonce) s t := by
  have hlen : ((s.dev.takeAccepted 0x0801 c).attestReport (pay c.p 0 1) nonce).length = 5504 := padTo_length ..
  have hrun : (s.performing 0x0801 c).attest (Ici.pend 0x0801 c) c.p
      = ((s.performing 0x0801 c).wrClean (pay c.p 16 8) ((s.dev.takeAccepted 0x0801 c).attestReport (pay c.p 0 1) nonce)).onD fun d =>
        ({ d with fw := { d.fw with signs := d.fw.signs + 1 } } : Dev).okCmd (Ici.pend 0x0801 c) := by
    unfold Box.attest
    exact (Box.withAddr_readable (b := s.performing 0x0801 c) hread _ none 8 _).trans
      ((Box.withAddr_writable (b := s.performing 0x0801 c) hwr _ none 16 _).trans (Box.withData_readable (b := s.performing 0x0801 c) hread rfl _ _))
  rw [← hlen] at hwr
  generalize (s.dev.takeAccepted 0x0801 c).attestReport (pay c.p 0 1) nonce = l at hrun hwr ⊢
  rw [Box.wrClean_unprotected (b := s.performing 0x0801 c) hwr.2.2] at hrun
  refine ⟨_, ici_performing h (f := fun k b => b.attest k c.p) hrun, rfl, answers_of_complete rfl rfl (performs_bare h), ?_, wrote_wrMem hok rfl⟩
  exact congrArg FwSt.signs (Dev.complete_fw ..)

/-! ### PATTERN_UPDATE, THIMBLE_UPDATE (16 R491, R494) -/

/-- An update that has begun. -/
def Dev.updateBegun (d : Dev) (k : Pend) (u : Update) : Dev := { d with
  opens := d.opens ++ [⟨k, .update⟩], fw := { d.fw with upd := some u }, cutter := { d.cutter with held := d.cutter.rotDue, rotDue := none } }

theorem Box.withImage_accepted {s : State} {b : Box} {k : Pend} {a n kind : Nat} {l : List Byte} (hread : readable s b.dev a n 64 l)
    (hstore : b.store = s.store) (hgood : b.dev.fw.imgReason l kind = 0) (bad : Nat → Box → Box) (f : List Byte → Box → Box) :
    b.withImage k a n kind bad f = f (imgBytes l) b :=
  (Box.withAddr_readable hread k none 0 _).trans ((Box.withData_readable hread hstore k _).trans (if_pos hgood))

/-- The update that the command asks for. -/
def askedUpdate (p : BitVec 384) (thimble : Bool) (new old : FwImg) : Update :=
  { thimble := thimble, new := new, old := old, persist := bitOf p 96, raiseSvn := bitOf p 97, fail := none, root := none }

theorem Box.startUpdate_accepted {s : State} {b : Box} {k : Pend} {p : BitVec 384} {kind : Nat} {l : List Byte} (hfree : b.dev.updateFree = true)
    (hread : readable s b.dev (pay p 0 8) (pay p 8 4) 64 l) (hstore : b.store = s.store) (hgood : b.dev.fw.imgReason l kind = 0)
    (hfits : (kind == 1 || fitsPattern (imgOf (imgBytes l)) (if kind = 1 then b.dev.thimbleImg else b.dev.fw.pattern)) = true) :
    b.startUpdate kind k p = b.onD fun _ => (b.dev.updateBegun k
      (askedUpdate p (kind == 1) (imgOf (imgBytes l)) (if kind = 1 then b.dev.thimbleImg else b.dev.fw.pattern))).advanceUpdate := by
  unfold Box.startUpdate
  refine (Box.fields_pass (by simp [hfree]) _).trans ((Box.withImage_accepted hread hstore hgood _ _).trans ((Box.fields_pass ?_ _).trans rfl))
  simpa using hfits

theorem Dev.standbys_lt {d : Dev} {b : Nat} (hb : b ∈ d.standbys) : b < 4 := by
  simp only [Dev.standbys, List.mem_filter, List.mem_map] at hb
  obtain ⟨⟨r, -, rfl⟩, -⟩ := hb
  exact Nat.mod_lt _ (by decide)

theorem Update.target_new {u : Update} (h : u.fail = none) : u.target = u.new := by rw [Update.target, h]; rfl

section
variable {d : Dev} {u : Update} (hupd : d.fw.upd = some u) (hfail : u.fail = none)
include hupd hfail

/-- A Pattern update that no Cutter has begun restarts the rank-1 standby. -/
theorem Dev.updateStep_first (hpattern : u.thimble = false) (hnew : u.new ≠ d.fw.pattern) (himgs : ∀ i, i < 4 → getD d.fw.cutImg i .none ≠ u.new) :
    d.updateStep = d.standbys.head?.elim d fun b => d.restartCutter b u.new := by
  have hnone : ((List.range 4).any fun s => getD d.cutter.st s 3 == 2 && getD d.fw.cutImg s .none == u.new) = false := by
    rw [List.any_eq_false]
    intro i hi
    simp [himgs i (List.mem_range.mp hi)]
  unfold Dev.updateStep
  rw [hupd]
  dsimp only
  rw [Update.target_new hfail, hpattern, hnone, if_neg (by decide), if_neg hnew.symm]
  cases hstandby : d.standbys with
  | nil => rfl
  | cons b rest =>
    have hb : getD d.fw.cutImg b .none ≠ u.new := himgs b (Dev.standbys_lt (hstandby ▸ List.mem_cons_self ..))
    exact if_neg hb

/-- It goes no further than that. -/
theorem Dev.advanceUpdate_pattern (hpattern : u.thimble = false) (hrot : d.cutter.rotDue = none) (hnew : u.new ≠ d.fw.pattern)
    (himgs : ∀ i, i < 4 → getD d.fw.cutImg i .none ≠ u.new) :
    d.advanceUpdate = d.standbys.head?.elim d fun b => d.restartCutter b u.new := by
  have hstep := Dev.updateStep_first hupd hfail hpattern hnew himgs
  have hsame : d.updateStep.cutter.rotDue = none ∧ d.updateStep.fw.pattern = d.fw.pattern := by
    rw [hstep]
    cases d.standbys.head? <;> exact ⟨hrot, rfl⟩
  have hmore : d.updateStep.updateDone u = false := by
    have hne : (d.fw.pattern == u.new) = false := beq_false_of_ne hnew.symm
    rw [Dev.updateDone, hpattern, hsame.2, Update.target_new hfail, hne]
    rfl
  rw [← hstep]
  unfold Dev.advanceUpdate
  rw [hupd]
  simp [hpattern, hsame.1, hmore]

/-- A Thimble update restarts the lowest root that lacks the image. -/
theorem Dev.advanceUpdate_thimble {r : Nat} (hthimble : u.thimble = true)
    (hroot : (List.range 4).find? (fun i => bitOf d.fw.roots i && getD d.fw.rootImg i .none != u.new) = some r) :
    d.advanceUpdate = { d with fw := { d.fw with upd := some { u with root := some r } } } := by
  have htarget := Update.target_new hfail
  have hstep : d.rootStep u = { d with fw := { d.fw with upd := some { u with root := some r } } } := by
    unfold Dev.rootStep
    rw [htarget, hroot]
  have hmore : (d.rootStep u).updateDone u = false := by
    have hr := List.find?_some hroot
    have hmem := List.mem_of_find?_eq_some hroot
    simp only [Bool.and_eq_true, bne_iff_ne] at hr
    rw [Dev.updateDone, hthimble, if_pos rfl, htarget, hstep, List.all_eq_false]
    exact ⟨r, hmem, by simp [hr.1, hr.2]⟩
  rw [← hstep]
  unfold Dev.advanceUpdate
  rw [hupd]
  simp [hthimble, hmore]

end

section
variable {c : Ici} {s : State} {l : List Byte} (hfree : s.dev.updateFree = true)
include hfree

theorem patternUpdate_answers (h : performs 0x0803 c true s)
    (hread : readable s (s.dev.takeAccepted 0x0803 c) (pay c.p 0 8) (pay c.p 8 4) 64 l) (hgood : s.dev.fw.imgReason l 2 = 0)
    (hfits : fitsPattern (imgOf (imgBytes l)) s.dev.fw.pattern = true) (hnew : imgOf (imgBytes l) ≠ s.dev.fw.pattern)
    (himgs : ∀ i, i < 4 → getD s.dev.fw.cutImg i .none ≠ imgOf (imgBytes l)) :
    ∃ t, exec (.patternUpdate c) s = .next t ∧ sameStore s t ∧ taken 0x0803 c s t
      ∧ t.dev.fw.upd = some (askedUpdate c.p false (imgOf (imgBytes l)) s.dev.fw.pattern)
      ∧ t.dev.opens = s.dev.opens ++ [⟨Ici.pend 0x0803 c, .update⟩]
      ∧ ∀ b rest, s.dev.standbys = b :: rest → getD t.dev.cutter.st b 2 = 2 ∧ getD t.dev.fw.cutImg b .none = imgOf (imgBytes l) := by
  have hbegun := (Box.startUpdate_accepted (b := s.performing 0x0803 c) (k := Ici.pend 0x0803 c) (p := c.p) (kind := 2) hfree hread rfl hgood hfits).trans
    (congrArg (fun e => (s.performing 0x0803 c).onD fun _ => e) (Dev.advanceUpdate_pattern
      (d := (s.dev.takeAccepted 0x0803 c).updateBegun (Ici.pend 0x0803 c) (askedUpdate c.p false (imgOf (imgBytes l)) s.dev.fw.pattern))
      rfl rfl rfl rfl hnew himgs))
  have hstandbys : ((s.dev.takeAccepted 0x0803 c).updateBegun (Ici.pend 0x0803 c)
      (askedUpdate c.p false (imgOf (imgBytes l)) s.dev.fw.pattern)).standbys = s.dev.standbys := rfl
  generalize hd : (s.dev.takeAccepted 0x0803 c).updateBegun (Ici.pend 0x0803 c) (askedUpdate c.p false (imgOf (imgBytes l)) s.dev.fw.pattern) = d at hstandbys
  have hbegun' : (s.performing 0x0803 c).startUpdate 2 (Ici.pend 0x0803 c) c.p = (s.performing 0x0803 c).onD fun _ =>
      s.dev.standbys.head?.elim d fun b => d.restartCutter b (imgOf (imgBytes l)) := by
    rw [← hstandbys, ← hd]
    exact hbegun
  cases hlist : s.dev.standbys with
  | nil =>
    rw [hlist] at hbegun'
    obtain ⟨t, ht, hstore, htaken, hdev⟩ := ici_opens h (f := fun k b => b.startUpdate 2 k c.p) hbegun' (hd ▸ rfl)
    exact ⟨t, ht, hstore, htaken, by rw [hdev, ← hd]; rfl, by rw [hdev, ← hd]; rfl, fun b rest hno => absurd hno (by simp)⟩
  | cons b rest =>
    rw [hlist] at hbegun'
    obtain ⟨t, ht, hstore, htaken, hdev⟩ := ici_opens h (f := fun k b => b.startUpdate 2 k c.p) hbegun' (hd ▸ rfl)
    refine ⟨t, ht, hstore, htaken, by rw [hdev, ← hd]; rfl, by rw [hdev, ← hd]; rfl, fun b' rest' heq => ?_⟩
    obtain rfl : b = b' := (List.cons.inj heq).1
    rw [hdev]
    exact ⟨getD_put_same .., getD_put_same ..⟩

theorem thimbleUpdate_answers (h : performs 0x0804 c true s) {r : Nat}
    (hread : readable s (s.dev.takeAccepted 0x0804 c) (pay c.p 0 8) (pay c.p 8 4) 64 l) (hgood : s.dev.fw.imgReason l 1 = 0)
    (hroot : (List.range 4).find? (fun i => bitOf s.dev.fw.roots i && getD s.dev.fw.rootImg i .none != imgOf (imgBytes l)) = some r) :
    ∃ t, exec (.thimbleUpdate c) s = .next t ∧ sameStore s t ∧ taken 0x0804 c s t
      ∧ t.dev.fw.upd = some { askedUpdate c.p true (imgOf (imgBytes l)) s.dev.thimbleImg with root := some r }
      ∧ t.dev.opens = s.dev.opens ++ [⟨Ici.pend 0x0804 c, .update⟩] := by
  have hbegun := (Box.startUpdate_accepted (b := s.performing 0x0804 c) (k := Ici.pend 0x0804 c) (p := c.p) (kind := 1) hfree hread rfl hgood rfl).trans
    (congrArg (fun e => (s.performing 0x0804 c).onD fun _ => e) (Dev.advanceUpdate_thimble
      (d := (s.dev.takeAccepted 0x0804 c).updateBegun (Ici.pend 0x0804 c) (askedUpdate c.p true (imgOf (imgBytes l)) s.dev.thimbleImg))
      rfl rfl rfl hroot))
  obtain ⟨t, ht, hstore, htaken, hdev⟩ := ici_opens h (f := fun k b => b.startUpdate 1 k c.p) hbegun rfl
  exact ⟨t, ht, hstore, htaken, congrArg (fun d : Dev => d.fw.upd) hdev, congrArg Dev.opens hdev⟩

end

/-! ### FLASH_WRITE (16 R496) -/

/-- The device with other firmware state. -/
def Dev.withFw (d : Dev) (w : FwSt) : Dev := { d with fw := w }

theorem Dev.flashWrite_good {d : Dev} {k : Pend} {f slot : Nat} {l : List Byte} {w : FwSt} (hw : d.fw.putImage f slot l = w)
    (hgood : w.imgReason (w.slotBytes f slot) slot = 0) :
    d.flashWrite k f slot false l = ((d.withFw w).evTh 0x800B [f, slot, w.dirGen f, 0]).okCmd k := by
  subst hw
  unfold Dev.flashWrite
  exact if_neg (not_not_intro hgood)

theorem flashWrite_answers {c : Ici} {s : State} {l : List Byte} {w : FwSt} (h : performs 0x0805 c (inSpools (pay c.p 0 8)) s)
    (hw : s.dev.fw.putImage (payBits c.p 12 0 1) (pay c.p 13 1) (imgBytes l) = w) (hslot : pay c.p 13 1 = 1 ∨ pay c.p 13 1 = 2)
    (hflash : payBits c.p 12 0 1 ≠ s.dev.fw.prefer) (hupd : s.dev.fw.upd = none) (hprefer : bitOf c.p 112 = false)
    (hread : readable s (s.dev.takeAccepted 0x0805 c) (pay c.p 0 8) (pay c.p 8 4) 64 l) (hgood : s.dev.fw.imgReason l (pay c.p 13 1) = 0)
    (hback : w.imgReason (w.slotBytes (payBits c.p 12 0 1) (pay c.p 13 1)) (pay c.p 13 1) = 0) :
    ∃ t, exec (.flashWrite c) s = .next t ∧ sameStore s t ∧ succeeds 0x0805 c s t ∧ t.dev.fw = w
      ∧ recorded 0x800B none [payBits c.p 12 0 1, pay c.p 13 1, w.dirGen (payBits c.p 12 0 1), 0] s t := by
  have hrun : (s.performing 0x0805 c).flashCmd (Ici.pend 0x0805 c) c.p = (s.performing 0x0805 c).onD fun _ =>
      (((s.dev.takeAccepted 0x0805 c).withFw w).evTh 0x800B [payBits c.p 12 0 1, pay c.p 13 1, w.dirGen (payBits c.p 12 0 1), 0]).okCmd (Ici.pend 0x0805 c) := by
    have hwrite : (s.dev.takeAccepted 0x0805 c).flashWrite (Ici.pend 0x0805 c) (payBits c.p 12 0 1) (pay c.p 13 1) (bitOf c.p 112) (imgBytes l) =
        (((s.dev.takeAccepted 0x0805 c).withFw w).evTh 0x800B [payBits c.p 12 0 1, pay c.p 13 1, w.dirGen (payBits c.p 12 0 1), 0]).okCmd
          (Ici.pend 0x0805 c) := by
      rw [hprefer]
      exact Dev.flashWrite_good (d := s.dev.takeAccepted 0x0805 c) hw hback
    unfold Box.flashCmd
    refine (Box.fields_pass ?_ _).trans ((Box.withImage_accepted (b := s.performing 0x0805 c) hread rfl hgood _ _).trans
      ((Box.onD_at _ _).trans (congrArg (fun e => (s.performing 0x0805 c).onD fun _ => e) hwrite)))
    · have hupd' : (s.performing 0x0805 c).dev.fw.upd = none := hupd
      have hflash' : payBits c.p 12 0 1 ≠ (s.performing 0x0805 c).dev.fw.prefer := hflash
      simp [hslot, hflash', hupd']
  obtain ⟨t, ht, hstore, hok, hrec, hdev⟩ := ici_notes h (f := fun k b => b.flashCmd k c.p) hrun rfl rfl rfl
  refine ⟨t, ht, hstore, hok, ?_, hrec⟩
  rw [hdev]
  exact Dev.raise_fw ..

/-! ### DIAG_AUTHORISE (16 R498) -/

/-- The end of the diagnostic state leaves the queues, and the device serves. -/
theorem Dev.endDiag_kept (d : Dev) (reason : Nat) : (d.endDiag reason).queues = d.queues ∧ (d.endDiag reason).bare = d.bare := by
  cases h : d.diag with
  | false =>
    have hsame : d.endDiag reason = d := by unfold Dev.endDiag; rw [h]; rfl
    rw [hsame]
    exact ⟨rfl, rfl⟩
  | true =>
    rw [Dev.endDiag_diag h]
    change (d.diagEvents reason).queues = _ ∧ (d.diagEvents reason).bare = _
    simp [Dev.diagEvents, Dev.evTh]

theorem Dev.endDiag_diagEnd (d : Dev) (reason : Nat) : (d.endDiag reason).fw.diagEnd = none := by
  cases h : d.diag with
  | false =>
    have hsame : d.endDiag reason = d := by unfold Dev.endDiag; rw [h]; rfl
    rw [hsame]
    simpa [Dev.diag] using h
  | true => rw [Dev.endDiag_diag h]

section
variable {c : Ici} {s : State} (h : performs 0x0806 c (inSpools (pay c.p 0 8)) s)
include h

/-- Address 0 ends the diagnostic state. -/
theorem diagAuthorise_ends (haddr : pay c.p 0 8 = 0) (hlen : pay c.p 8 4 = 0) :
    ∃ t, exec (.diagAuthorise c) s = .next t ∧ sameStore s t ∧ succeeds 0x0806 c s t
      ∧ t.dev.fw.diagEnd = none ∧ (s.dev.diag = true → t.dev.cr = CreaseSt.init ∧ recorded 0x800E none [1] s t) := by
  have hrun : (s.performing 0x0806 c).diagAuthorise (Ici.pend 0x0806 c) c.p = (s.performing 0x0806 c).onD fun _ =>
      ((s.dev.takeAccepted 0x0806 c).endDiag 1).okCmd (Ici.pend 0x0806 c) := by
    unfold Box.diagAuthorise
    exact (Box.fields_pass (by simp [haddr, hlen]) _).trans (if_pos haddr)
  obtain ⟨hqueues, hbare⟩ := (s.dev.takeAccepted 0x0806 c).endDiag_kept 1
  have hend := (s.dev.takeAccepted 0x0806 c).endDiag_diagEnd 1
  obtain ⟨t, ht, hstore, hok, hdev⟩ := ici_sets h (f := fun k b => b.diagAuthorise k c.p) hrun hqueues (hbare.trans (performs_bare h))
  refine ⟨t, ht, hstore, hok, by rw [hdev]; exact hend, fun hdiag => ⟨?_, ?_⟩⟩
  · rw [hdev, Dev.endDiag_diag (d := s.dev.takeAccepted 0x0806 c) hdiag]
  · have hmb : t.dev.mb = ((s.dev.takeAccepted 0x0806 c).endDiag 1).mb := by rw [hdev]
    exact (Dev.endDiag_recorded (d := s.dev.takeAccepted 0x0806 c) (n := 0) hdiag rfl (hmb ▸ .refl _) (by decide)).1

/-- The diagnostic state of a token, which draws a new challenge. -/
def Dev.diagUntil (d : Dev) (e : Nat) : Dev := { d with fw := { d.fw with diagEnd := some e, challenge := d.fw.challenge + 1 } }

theorem diagAuthorise_begins {l : List Byte} (haddr : pay c.p 0 8 ≠ 0) (hlen : pay c.p 8 4 = 7296)
    (hread : readable s (s.dev.takeAccepted 0x0806 c) (pay c.p 0 8) 7296 64 l) (htoken : s.dev.tokenFault l 1 = none) :
    ∃ t, exec (.diagAuthorise c) s = .next t ∧ sameStore s t ∧ succeeds 0x0806 c s t
      ∧ t.dev.fw.diagEnd = some (s.dev.tape.now + leAt l 12 4 * 1000000000) ∧ t.dev.fw.challenge = s.dev.fw.challenge + 1
      ∧ recorded 0x800D none [leAt l 12 4, s.dev.tokenKey l] s t := by
  have htoken' : (s.performing 0x0806 c).dev.tokenFault l 1 = none := htoken
  have hrun : (s.performing 0x0806 c).diagAuthorise (Ici.pend 0x0806 c) c.p = (s.performing 0x0806 c).onD fun _ =>
      (((s.dev.takeAccepted 0x0806 c).diagUntil (s.dev.tape.now + leAt l 12 4 * 1000000000)).evTh 0x800D [leAt l 12 4, s.dev.tokenKey l]).okCmd
        (Ici.pend 0x0806 c) := by
    unfold Box.diagAuthorise Box.withToken
    refine (Box.fields_pass (by simp [haddr, hlen]) _).trans ((if_neg haddr).trans ((Box.withAddr_readable (b := s.performing 0x0806 c) hread _ none 0 _).trans
      ((Box.withData_readable (b := s.performing 0x0806 c) hread rfl _ _).trans ?_)))
    rw [htoken']
    rfl
  obtain ⟨t, ht, hstore, hok, hrec, hdev⟩ := ici_notes h (f := fun k b => b.diagAuthorise k c.p) hrun rfl rfl rfl
  have hfw : t.dev.fw = ((s.dev.takeAccepted 0x0806 c).diagUntil (s.dev.tape.now + leAt l 12 4 * 1000000000)).fw := by
    rw [hdev]
    exact Dev.raise_fw ..
  exact ⟨t, ht, hstore, hok, by rw [hfw]; rfl, by rw [hfw]; rfl, hrec⟩

end

/-- Settles O59. -/
theorem powerShadowAndSecurityCommandsAct : Obligations.PowerShadowAndSecurityCommandsAct := by
  unfold Obligations.PowerShadowAndSecurityCommandsAct
  intro c s
  refine ⟨fun h => ?_, fun h hlo hhi => powerLimitSet_answers h hlo hhi, fun h => containConfig_answers h, ?_, fun h hperiod => ?_,
    fun h hok nonce hread hwr => attestReport_answers h hok hread hwr, fun l hfree => ?_, ?_, fun h => ?_⟩
  · exact ⟨fun hst hhold => powerStateSet_stays h (.inl ⟨hst, hhold⟩), fun hst hhold => powerStateSet_stays h (.inr ⟨hst, hhold⟩),
      fun hst hhold hheld => powerStateSet_idle h hst hhold hheld, fun hst hhold hmay => powerStateSet_hold h hst hhold hmay,
      fun hst hmay => powerStateSet_off h hst hmay, fun hst hmay => powerStateSet_fails h hst hmay⟩
  · intro h hrate hstrike hstrike' hunres hunres' hwindow hwindow' hint hint' x
    have hpass := Box.shadowConfig_passes (b := s.performing 0x0707 c) (k := Ici.pend 0x0707 c) hrate hstrike hstrike' hunres hunres' hwindow hwindow'
      hint hint'
    obtain ⟨t, ht, hpending, hended⟩ := shadowConfig_ends h hpass
    refine ⟨t, ht, hpending, hended, fun hnone => ?_⟩
    obtain ⟨t', ht', hquiet⟩ := shadowConfig_quiet h hpass hnone hstrike hunres
    obtain rfl : t = t' := Host.Outcome.next.inj (ht.symm.trans ht')
    exact hquiet
  · exact ⟨fun hact => cutterRotate_period hperiod h hact,
      fun a b rest hact hupd hruns hactive hstandby => cutterRotate_now hperiod h hact hupd hruns hactive hstandby,
      fun hact hupd hruns => cutterRotate_waits hperiod h hact hupd hruns⟩
  · exact ⟨fun h hread hgood hfits hnew himgs => patternUpdate_answers hfree h hread hgood hfits hnew himgs,
      fun r h hread hgood hroot => thimbleUpdate_answers hfree h hread hgood hroot⟩
  · intro h l f slot w hslot hflash hupd hprefer hread hgood hback
    exact flashWrite_answers h rfl hslot hflash hupd hprefer hread hgood hback
  · exact ⟨fun haddr hlen => diagAuthorise_ends h haddr hlen, fun l haddr hlen hread htoken => diagAuthorise_begins h haddr hlen hread htoken⟩

end Sys2Proof.Machine

/-! SUPPORT. What the work of the fabric leaves as it is: the mode of the device, the states of the links, the routing table and the
notices seen (12 R356, R364 to R368). -/

namespace Sys2Proof.Machine

open Sys2Proof.Safety

/-- The same mode, and every link in the same state. -/
structure Dev.LinksKept (d e : Dev) : Prop where
  bare : e.bare = d.bare
  st : ∀ p, (e.seam p).st = (d.seam p).st

namespace Dev.LinksKept

theorem refl (d : Dev) : d.LinksKept d := ⟨rfl, fun _ => rfl⟩

theorem trans {d e f : Dev} (h : d.LinksKept e) (h' : e.LinksKept f) : d.LinksKept f :=
  ⟨h'.bare.trans h.bare, fun p => (h'.st p).trans (h.st p)⟩

end Dev.LinksKept

/-- The same, with the routing table and the notices seen. -/
structure Dev.NetKept (d e : Dev) : Prop extends Dev.LinksKept d e where
  routes : e.fab.routes = d.fab.routes
  seen : e.fab.seen = d.fab.seen

namespace Dev.NetKept

theorem refl (d : Dev) : d.NetKept d := ⟨.refl d, rfl, rfl⟩

theorem trans {d e f : Dev} (h : d.NetKept e) (h' : e.NetKept f) : d.NetKept f :=
  ⟨h.toLinksKept.trans h'.toLinksKept, h'.routes.trans h.routes, h'.seen.trans h.seen⟩

/-- The same, with the later change first. -/
theorem after {d e f : Dev} (h' : e.NetKept f) (h : d.NetKept e) : d.NetKept f := h.trans h'

/-- A change that touches neither the links nor the fabric. -/
theorem of_same {d e : Dev} (hs : e.seams = d.seams) (hf : e.fab = d.fab) (hb : e.bare = d.bare) : d.NetKept e :=
  ⟨⟨hb, fun p => congrArg (fun t => (getD t p (if p = 64 then Seam.yoke else .init)).st) hs⟩, congrArg FabSt.routes hf, congrArg FabSt.seen hf⟩

/-- A change of the fabric's other parts. -/
theorem fab {d : Dev} {x : FabSt} (hr : x.routes = d.fab.routes) (hs : x.seen = d.fab.seen) : d.NetKept { d with fab := x } :=
  ⟨⟨rfl, fun _ => rfl⟩, hr, hs⟩

theorem foldl {α : Type} {f : Dev → α → Dev} (h : ∀ (d : Dev) (a : α), d.NetKept (f d a)) (l : List α) (d : Dev) : d.NetKept (l.foldl f d) :=
  List.foldlRecOn l f (motive := d.NetKept) (refl d) fun e he a _ => he.trans (h e a)

theorem foldlBox {α : Type} {f : Box → α → Box} (h : ∀ (b : Box) (a : α), b.dev.NetKept (f b a).dev) (l : List α) (b : Box) :
    b.dev.NetKept (l.foldl f b).dev :=
  List.foldlRecOn l f (motive := fun e => b.dev.NetKept e.dev) (refl b.dev) fun e he a _ => he.trans (h e a)

theorem raise (d : Dev) (code die : Nat) (fw : Bool) (ctx : Option Nat) (l : List Int) : d.NetKept (d.raise code die fw ctx l) :=
  of_same (Dev.raise_seams ..) (Dev.raise_fab ..) (Dev.raise_bare_of ..)

theorem complete (d : Dev) (k : Pend) (status event : Nat) (detail : W32) (result : W64) :
    d.NetKept (d.complete k status event detail result) :=
  of_same (Dev.complete_seams ..) (Dev.complete_fab ..) (Dev.complete_bare_of ..)

theorem endOpens (d : Dev) (p : OpenCmd → Bool) (status event : Nat) (detail : W32) (result : W64) :
    d.NetKept (d.endOpens p status event detail result) :=
  after (foldl (fun d (o : OpenCmd) => complete d o.cmd status event detail result) _ _) (of_same rfl rfl rfl)

theorem abandonBaste (d : Dev) (id reason : Nat) : d.NetKept (d.abandonBaste id reason) := by
  unfold Dev.abandonBaste
  dsimp only
  exact after (endOpens ..) (after (raise ..) (of_same rfl rfl rfl))

theorem oncePerSec {f : Dev → Dev} (h : ∀ d : Dev, d.NetKept (f d)) (d : Dev) (key : Nat) : d.NetKept (d.oncePerSec key f) := by
  unfold Dev.oncePerSec
  dsimp only
  split
  · exact of_same rfl rfl rfl
  · exact after (h _) (of_same rfl rfl rfl)

/-! ### Sending -/

theorem setSeam {d : Dev} {p : Nat} {x : Seam} (h : x.st = (d.seam p).st) : d.NetKept (d.setSeam p x) := by
  refine ⟨⟨rfl, fun j => ?_⟩, rfl, rfl⟩
  by_cases hj : j = p
  · rw [hj, Dev.setSeam_seam_same, h]
  · rw [Dev.setSeam_seam_ne _ _ _ _ hj]

theorem updSeam {d : Dev} {p : Nat} {f : Seam → Seam} (h : ∀ x, (f x).st = x.st) : d.NetKept (d.updSeam p f) := setSeam (h _)

theorem tell (d : Dev) (p : Nat) (x : TxItem) : d.NetKept (d.tell p x) := of_same rfl rfl rfl

theorem crease (d : Dev) (off rate kind : Nat) (configured : Bool) : d.NetKept (d.crease off rate kind configured).1 := by
  have hcr : ∀ x : CreaseSt, d.NetKept { d with cr := x } := fun _ => of_same rfl rfl rfl
  unfold Dev.crease
  cases harmed : d.crArmed && configured with
  | false => exact refl d
  | true =>
    cases hsel : d.creaseSelected off rate (getD d.cr.counts off 0) <;>
    · simp only [hsel]
      exact hcr _

theorem sendFlit (d : Dev) (p kind : Nat) (body : List Byte) : d.NetKept (d.sendFlit p kind body) := by
  unfold Dev.sendFlit
  generalize hemit : (d.seam p).emit d.now kind body (d.lanesOf p) = r
  have hsent : d.NetKept (d.setSeam p r.1) := setSeam (hemit ▸ rfl)
  dsimp only
  generalize d.setSeam p r.1 = e at hsent ⊢
  have hcrease : e.NetKept (e.creaseFlit p).1 := crease ..
  split
  · split
    · exact hsent.trans hcrease
    · exact (hsent.trans hcrease).trans (tell ..)
  · exact hsent.trans (tell ..)

theorem giveBack (d : Dev) (src : Option Nat) (k : Packet) : d.NetKept (d.giveBack src k) := by
  cases src with
  | none => exact refl d
  | some p => exact updSeam (f := fun s => { s with returns := put s.returns k.vc (getD s.returns k.vc 0 + k.units.length) }) fun _ => rfl

/-- Packets that start leave the link in its state. -/
theorem starts_st (now width : Nat) (n : Nat) (s : Seam) (l : List (Packet × Option Nat)) : (s.starts now width l n).1.st = s.st := by
  induction n generalizing s l with
  | zero => rfl
  | succ n ih =>
    unfold Seam.starts
    split
    · rfl
    · exact ih _ _

theorem startWaiting (d : Dev) (p : Nat) : d.NetKept (d.startWaiting p) := by
  unfold Dev.startWaiting
  split
  · exact refl d
  · dsimp only
    generalize hr : (d.seam p).starts d.now (d.lanesOf p).length [] (d.seam p).waitq.length = r
    have hst : r.1.st = (d.seam p).st := hr ▸ starts_st ..
    split
    · exact refl d
    · exact after (foldl (fun d e => giveBack d _ _) _ _) (after (foldl (fun d c => sendFlit d p 1 _) _ _) (setSeam hst))

theorem handFrom (d : Dev) (src : Option Nat) (p : Nat) (k : Packet) : d.NetKept (d.handFrom src p k) :=
  ((tell d p _).trans (updSeam (f := fun s => { s with waitq := s.waitq ++ [(k, src)] }) fun _ => rfl)).trans (startWaiting ..)

theorem unreachable (d : Dev) (k : Packet) : d.NetKept (d.unreachable k) := after (raise ..) (fab rfl rfl)

theorem sendRouted (d : Dev) (k : Packet) : d.NetKept (d.sendRouted k).1 := by
  unfold Dev.sendRouted
  split
  · exact handFrom ..
  · exact unreachable d k

theorem sendCtrl (d : Dev) (dst plan inst kind status slip : Nat) : d.NetKept (d.sendCtrl dst plan inst kind status slip) := by
  unfold Dev.sendCtrl
  split
  · exact refl d
  · exact sendRouted ..

/-! ### Writes of device memory, and collectives that fail -/

theorem copyGranule (b : Box) (g : Nat) : b.dev.NetKept (b.copyGranule g).dev := by
  unfold Box.copyGranule
  split
  · exact refl _
  · split
    · exact abandonBaste ..
    · exact of_same rfl rfl rfl

theorem wrDev (b : Box) (a : Nat) (l : List PB) : b.dev.NetKept (b.wrDev a l).dev :=
  trans (foldlBox copyGranule (granulesOf a l.length) b) (of_same rfl rfl rfl)

theorem undefEls (b : Box) (t : Desc) (first len : Nat) : b.dev.NetKept (b.undefEls t first len).dev := by
  unfold Box.undefEls
  split
  · exact foldlBox (fun b (r : Nat × List PB) => wrDev b r.1 r.2) _ b
  · exact refl _

theorem failColl (b : Box) (i : CollInst) (status reporter : Nat) (abort : Bool) :
    b.dev.NetKept (b.failColl i status reporter abort).dev := by
  have htold : ∀ (l : List Nat) (f : Nat → Nat), b.dev.NetKept
      (if abort then l.foldl (fun d m => d.sendCtrl (f m) i.plan i.inst 3 status 0) b.dev else b.dev) := by
    intro l f
    split
    · exact foldl (fun d m => sendCtrl d (f m) i.plan i.inst 3 status 0) l b.dev
    · exact refl _
  have hgone : ∀ (d : Dev) (l : List CollInst) (x : HealthSt), d.NetKept { d with fab := { d.fab with insts := l }, health := x } :=
    fun _ _ _ => ⟨⟨rfl, fun _ => rfl⟩, rfl, rfl⟩
  unfold Box.failColl
  dsimp only
  split
  · refine trans ?_ (undefEls ..)
    exact trans (htold _ _) (trans (raise ..) (hgone ..))
  · exact trans (htold _ _) (trans (raise ..) (hgone ..))

theorem failColls (b : Box) (ctx status : Nat) : b.dev.NetKept (b.failColls ctx status).dev :=
  foldlBox (fun b i => failColl b i status (getD b.dev.fab.plans i.plan ⟨0, 0, [], 0⟩).self true) _ b

/-! ### The end of a run -/

theorem setSt (d : Dev) (n : Nat) (st : CtxState) (opc : Nat) : d.NetKept (d.setSt n st opc) := by
  have hupd : d.NetKept (d.updCtx n fun c => { c with st := st }) := of_same rfl rfl rfl
  have hraised : ∀ slots, d.NetKept (if (d.updCtx n fun c => { c with st := st }).bare then d.updCtx n fun c => { c with st := st }
      else (d.updCtx n fun c => { c with st := st }).evFw 0x0002 (some n) slots) := by
    intro slots
    split
    · exact hupd
    · exact hupd.trans (raise ..)
  unfold Dev.setSt
  dsimp only
  split
  · exact refl d
  · split
    · exact trans (hraised _) (foldl (fun d i => abandonBaste d i 1) _ _)
    · exact hraised _

theorem summary (d : Dev) (n code : Nat) (k : CountKind) (len : Nat) : d.NetKept (d.summary n code k len) := by
  unfold Dev.summary
  dsimp only
  split
  · exact refl d
  · exact raise ..

theorem summaries (d : Dev) (n : Nat) : d.NetKept (d.summaries n) := by
  have hchalk : ∀ d : Dev, d.NetKept (d.chalkSummary n) := fun d => foldl (fun d _ => raise d ..) _ d
  have hupd : ∀ (d : Dev) (f : Ctx → Ctx), d.NetKept (d.updCtx n f) := fun _ _ => of_same rfl rfl rfl
  unfold Dev.summaries
  dsimp only
  refine trans (trans (trans ?_ (summary ..)) (summary ..)) (hupd _ _)
  exact trans (trans (trans (summary ..) (summary ..)) (summary ..)) (hchalk _)

theorem note (d : Dev) (n : Nat) (how : Ending) : d.NetKept (d.note n how) := by
  cases how with
  | aborted => exact refl d
  | _ => exact raise ..

theorem endHandles (d : Dev) (ctx : Nat) : d.NetKept (d.endHandles ctx) := by
  refine trans (foldl (fun d (x : Nat × Nat) => ?_) _ d) (of_same rfl rfl rfl)
  unfold Dev.dropHandle
  split
  · exact refl d
  · dsimp only
    split
    · exact after (foldl (fun d (m : Nat) => show d.NetKept (d.updSpool m _) from of_same rfl rfl rfl) _ _) (of_same rfl rfl rfl)
    · exact of_same rfl rfl rfl

theorem idleIfLast (d : Dev) : d.NetKept d.idleIfLast := by
  unfold Dev.idleIfLast
  split
  · exact refl d
  · dsimp only
    generalize (if d.vcoreHeld = true then d.pace.vcore else 650) = v
    split
    · exact of_same rfl rfl rfl
    · exact after (raise ..) (of_same rfl rfl rfl)

theorem finishRun (d : Dev) (n : Nat) (how : Ending) (opc : Nat) : d.NetKept (d.finishRun n how opc) := by
  have hunbind : ∀ d : Dev, d.NetKept (d.unbind n) := fun _ => of_same rfl rfl rfl
  have hset : ∀ (d : Dev) (c : Ctx), d.NetKept (d.setCtx n c) := fun _ _ => of_same rfl rfl rfl
  have hbefore : d.NetKept (d.beforeEnd n how opc) :=
    trans (trans (trans (trans (summaries d n) (note ..)) (endHandles ..)) (hunbind _)) (setSt ..)
  have hend : d.NetKept (d.atEnd n how opc) := trans (trans hbefore (hset _ _)) (idleIfLast _)
  rw [Dev.finishRun_eq]
  refine trans hend (after (foldl (fun d k => complete d k 0 0 0 0) _ _) ?_)
  split
  · exact complete ..
  · exact refl _

theorem boxFinishRun (b : Box) (n : Nat) (how : Ending) (opc : Nat) : b.dev.NetKept (b.finishRun n how opc).dev := by
  have hpower : ∀ (b : Box) (hs : List (Nat × Handle)), b.dev.NetKept (b.losePower hs).dev := fun b hs =>
    foldlBox (fun b _ => foldlBox (fun b _ => by split <;> exact refl _) _ b) hs b
  exact trans (finishRun b.dev n how opc) (hpower (b.onD fun d => d.finishRun n how opc) _)

theorem settleDying (d : Dev) : d.NetKept d.settleDying := by
  unfold Dev.settleDying
  split
  · exact refl d
  · exact after (endOpens ..) (of_same rfl rfl rfl)

/-! ### Clusters that retire -/

theorem refreshAdvice (d : Dev) : d.NetKept d.refreshAdvice :=
  after (foldl (fun d _ => raise d ..) _ _) (of_same rfl rfl rfl)

theorem queueZeros (d : Dev) (ctx : Nat) (act : Option Act) (core : Nat) (h : Handle) : d.NetKept (d.queueZeros ctx act core h) := by
  unfold Dev.queueZeros
  split
  · exact fab rfl rfl
  · exact refl d

theorem remap (b : Box) (r : RetireDue) (spare : Nat) : b.dev.NetKept (b.remap r spare).dev := by
  unfold Box.remap
  dsimp only
  refine trans ?_ (foldl (fun d (h : Nat × Handle) => queueZeros d h.2.ctx none h.1 h.2) _ _)
  refine trans (trans ?_ (raise ..)) (refreshAdvice _)
  exact after (foldl (fun d _ => raise d ..) _ _) (of_same rfl rfl rfl)

theorem releaseHeld (d : Dev) : d.NetKept d.releaseHeld := by
  refine foldl (fun d n => ?_) _ d
  split
  · split
    · exact refl d
    · exact of_same rfl rfl rfl
  · exact refl d

theorem tryRetire (b : Box) : b.dev.NetKept b.tryRetire.dev := by
  have hremaps := foldlBox (fun b (r : RetireDue) => remap b r (r.spare.getD 0)) (b.dev.retireDue.filter b.dev.mayRemap) b
  unfold Box.tryRetire
  rw [Box.onD_dev]
  exact trans hremaps (releaseHeld _)

theorem discard (d : Dev) (n : Nat) : d.NetKept (d.discard n) := ⟨⟨rfl, fun _ => rfl⟩, rfl, rfl⟩

theorem stopNow (b : Box) (n : Nat) (how : Ending) (opc : Nat) : b.dev.NetKept (b.stopNow n how opc).dev := by
  have hstop := trans (setSt b.dev n .stopping opc) (failColls (b.onD fun d => d.setSt n .stopping opc) n 6)
  unfold Box.stopNow
  split
  · exact refl _
  · dsimp only
    generalize (b.onD fun d => d.setSt n .stopping opc).failColls n 6 = c at hstop ⊢
    have hrun := trans (trans hstop (discard c.dev n)) (boxFinishRun (c.onD fun d => d.discard n) n how opc)
    generalize (c.onD fun d => d.discard n).finishRun n how opc = f at hrun ⊢
    exact trans (trans hrun (settleDying f.dev)) (tryRetire (f.onD Dev.settleDying))

theorem faultStop (b : Box) (n ev : Nat) : b.dev.NetKept (b.faultStop n ev).dev := stopNow ..

/-- An event and the stop that it is recorded for. -/
theorem evStop (b : Box) (code die : Nat) (ctx : Option Nat) (l : List Int) (n ev : Nat) :
    b.dev.NetKept ((b.onD fun d => d.ev code die ctx l).faultStop n ev).dev :=
  trans (raise b.dev code die false ctx l) (faultStop (b.onD fun d => d.ev code die ctx l) n ev)

theorem collFail (b : Box) (i : CollInst) (status reporter : Nat) (abort : Bool) :
    b.dev.NetKept (b.collFail i status reporter abort).dev := trans (failColl ..) (faultStop ..)

/-! ### Requests that end -/

theorem failDrain (d : Dev) (id status : Nat) : d.NetKept (d.failDrain id status) := by
  unfold Dev.failDrain
  dsimp only
  split
  · exact refl d
  · exact after (endOpens ..) (after (raise ..) (fab (d := d.setBaste id _) rfl rfl |> fun h => ⟨⟨rfl, fun _ => rfl⟩, h.routes, h.seen⟩))

theorem remoteFailed (b : Box) (r : RemoteReq) (status : Nat) : b.dev.NetKept (b.remoteFailed r status).dev := by
  unfold Box.remoteFailed
  split
  · exact failDrain ..
  · dsimp only
    exact evStop ..

theorem sendRemote (b : Box) (r : RemoteReq) (tag : Nat) : b.dev.NetKept (b.sendRemote r tag).dev := by
  have hsent := sendRouted b.dev (b.remotePacket { r with tag := tag })
  unfold Box.sendRemote
  dsimp only
  generalize b.dev.sendRouted (b.remotePacket { r with tag := tag }) = x at hsent ⊢
  split
  · exact hsent.trans (fab rfl rfl)
  · exact hsent.trans (remoteFailed (b.withDev x.1) _ 3)

theorem pumpWrites (n : Nat) (b : Box) : b.dev.NetKept (b.pumpWrites n).dev := by
  induction n generalizing b with
  | zero => exact refl _
  | succ n ih =>
    unfold Box.pumpWrites
    split
    next r tag _ _ =>
      have hwait : b.dev.NetKept { b.dev with fab := { b.dev.fab with waitWr := b.dev.fab.waitWr.erase r } } := fab rfl rfl
      exact (hwait.trans (sendRemote (b.onD fun d => { d with fab := { d.fab with waitWr := d.fab.waitWr.erase r } }) r tag)).trans (ih _)
    · exact refl _

theorem pumpAll (b : Box) : b.dev.NetKept b.pumpAll.dev := pumpWrites ..

theorem dropReq (d : Dev) (r : RemoteReq) : d.NetKept (d.dropReq r) := fab rfl rfl

theorem readDone (b : Box) (r : RemoteReq) (status : Nat) (l : List PB) : b.dev.NetKept (b.readDone r status l).dev := by
  unfold Box.readDone
  refine trans ?_ (pumpAll _)
  split
  · exact dropReq ..
  · exact trans (dropReq b.dev r) (remoteFailed ((b.onD fun d => d.dropReq r).onS _) r status)

theorem writeDone (b : Box) (r : RemoteReq) (status : Nat) : b.dev.NetKept (b.writeDone r status).dev := by
  unfold Box.writeDone
  refine trans ?_ (pumpAll _)
  split
  · exact dropReq ..
  · exact trans (dropReq b.dev r) (remoteFailed (b.onD fun d => d.dropReq r) r status)

theorem actDone (d : Dev) (a : Act) : d.NetKept (d.actDone a) := by
  rw [Dev.actDone, Dev.updAction_onlyCores]
  exact of_same rfl rfl rfl

theorem knotDone (b : Box) (r : RemoteReq) (status : Nat) : b.dev.NetKept (b.knotDone r status).dev := by
  have hdone : ∀ d : Dev, d.NetKept (r.act.elim d d.actDone) := by
    cases r.act with
    | none => exact refl
    | some a => exact fun d => actDone d a
  unfold Box.knotDone
  dsimp only
  split
  · exact trans (dropReq ..) (hdone _)
  · exact trans (dropReq b.dev r) (evStop (b.onD fun d => d.dropReq r) ..)

theorem endReq (b : Box) (r : RemoteReq) (status : Nat) : b.dev.NetKept (b.endReq r status).dev := by
  unfold Box.endReq
  split
  · exact readDone ..
  · split
    · exact knotDone ..
    · exact writeDone ..

theorem statusThree (b : Box) (k : Packet) : b.dev.NetKept (b.statusThree k).dev := by
  unfold Box.statusThree
  split
  · cases b.dev.remoteReq (requestKinds k.type) (tagOf k) k.dst 3 with
    | none => exact refl _
    | some r => exact endReq b r 3
  · exact sendRouted ..

theorem noWay (b : Box) (src : Option Nat) (k : Packet) : b.dev.NetKept (b.noWay src k).dev := by
  have hgone : b.dev.NetKept (b.dev.cannotSend src k) := (giveBack ..).trans (unreachable ..)
  unfold Box.noWay
  dsimp only
  split
  · exact hgone.trans (statusThree (b.onD fun d => d.cannotSend src k) k)
  · exact hgone

theorem reroute (b : Box) (e : Packet × Option Nat) : b.dev.NetKept (b.reroute e).dev := by
  unfold Box.reroute
  dsimp only
  split
  · exact giveBack ..
  · split
    · exact handFrom ..
    · exact noWay ..

theorem packetLost (b : Box) (k : Packet) : b.dev.NetKept (b.packetLost k).dev := by
  unfold Box.packetLost
  split
  · split
    · exact refl _
    · cases b.dev.coll (k.word % 1024) (k.word / 1024 % 64) with
      | none => exact refl _
      | some i => exact collFail ..
  · split
    · exact statusThree ..
    · split
      · exact sendRouted ..
      · exact refl _

/-! ### The Tape's reference, and the loss of a device -/

theorem chooseUpstream (d : Dev) : d.NetKept d.chooseUpstream := by
  have hfab : ∀ (r : Nat) (u : Option Nat) (n : Nat), d.NetKept { d with fab := { d.fab with refId := r, upstream := u, distance := n } } :=
    fun _ _ _ => fab rfl rfl
  have htape : ∀ (d : Dev) (t : TapeSt), d.NetKept { d with tape := t } := fun _ _ => of_same rfl rfl rfl
  unfold Dev.chooseUpstream
  exact Dev.ite_of d.NetKept (hfab _ _ _) (((hfab _ _ _).trans (htape _ _)).trans (raise ..))

theorem flood (d : Dev) (but : Option Nat) (k : Packet) : d.NetKept (d.flood but k) := foldl (fun d p => handFrom d none p k) _ d

theorem failWhere (b : Box) (status : Nat) (sel : Plan → CollInst → Bool) : b.dev.NetKept (b.failWhere status sel).dev := by
  refine foldlBox (fun b i => ?_) _ b
  split
  · exact trans (failColl ..) (faultStop ..)
  · exact refl _

end Dev.NetKept

/-! ### A device that is lost, and a Seam that goes down (12 R364 to R366) -/

/-- The device that holds another for lost. -/
def Dev.withLost (d : Dev) (lost : Nat) : Dev :=
  { d with fab := { d.fab with routes := del d.fab.routes lost, lost := addSet d.fab.lost lost } }

/-- But for its routing entry, what a device does about a lost one leaves the network as it is. -/
theorem Dev.NetKept.actOnLoss (b : Box) (lost : Nat) : (b.dev.withLost lost).NetKept (b.actOnLoss lost).dev := by
  have hchosen : (b.dev.withLost lost).NetKept (b.onD fun d => (d.withLost lost).chooseUpstream).dev := .chooseUpstream _
  unfold Box.actOnLoss
  refine .trans (hchosen.trans (.failWhere _ 1 fun p _ => p.members.any (·.1 == lost))) (.foldlBox (fun b r => ?_) _ _)
  split
  · exact .endReq ..
  · exact .refl _

namespace Dev.LinksKept

theorem partnerLost (b : Box) (partner : Nat) : b.dev.LinksKept (b.partnerLost partner).dev := by
  have hev : b.dev.LinksKept (b.onD fun d => d.ev 0x5006 (dieSelvage 0) none [partner]).dev := (NetKept.raise ..).toLinksKept
  have hfab : ∀ (d : Dev) (x : FabSt), d.LinksKept { d with fab := x } := fun _ _ => ⟨rfl, fun _ => rfl⟩
  unfold Box.partnerLost
  generalize (b.onD fun d => d.ev 0x5006 (dieSelvage 0) none [partner]) = c at hev ⊢
  exact (hev.trans ((hfab ..).trans (NetKept.actOnLoss c partner).toLinksKept)).trans ((hfab ..).trans (NetKept.flood ..).toLinksKept)

/-- The Seam `s` down, no route over it, and the event of the loss. -/
def withoutSeam (s : Seam) (p st : Nat) (reason : Option Nat) (d : Dev) : Dev :=
  let d := (d.setSeam p (s.downAs st d.now)).unroute p
  reason.elim d fun r => d.ev 0x5005 (dieSeam p) none [p, s.partner.toNat, r]

theorem withoutSeam_kept (s : Seam) (p st : Nat) (reason : Option Nat) (d : Dev) :
    (d.setSeam p (s.downAs st d.now)).LinksKept (withoutSeam s p st reason d) := by
  cases reason with
  | none => exact ⟨rfl, fun _ => rfl⟩
  | some r => exact trans (e := (d.setSeam p (s.downAs st d.now)).unroute p) ⟨rfl, fun _ => rfl⟩ (NetKept.raise ..).toLinksKept

/-- A Seam that was up is down in the state that the loss names, and no other changes its state. -/
theorem seamDown {b : Box} {p : Nat} (h : (b.dev.seam p).up = true) (st : Nat) (reason : Option Nat) :
    (b.dev.setSeam p ((b.dev.seam p).downAs st b.dev.now)).LinksKept (b.seamDown p st reason).dev := by
  have hdown := withoutSeam_kept (b.dev.seam p) p st reason b.dev
  have hpackets := hdown.trans
    (NetKept.foldlBox NetKept.packetLost ((b.dev.seam p).flying.map (·.2)) (b.onD (withoutSeam (b.dev.seam p) p st reason))).toLinksKept
  unfold Box.seamDown
  dsimp only
  rw [if_neg (by simp [h])]
  unfold withoutSeam at hpackets
  dsimp only at hpackets
  generalize (((b.dev.seam p).flying.map (·.2)).foldl Box.packetLost (b.onD _)) = c at hpackets ⊢
  refine (hpackets.trans ?_).trans ((NetKept.foldlBox NetKept.reroute _ _).trans (NetKept.chooseUpstream _)).toLinksKept
  split
  · exact partnerLost ..
  · exact refl _

theorem seamDown_bare (b : Box) (p st : Nat) (reason : Option Nat) : (b.seamDown p st reason).dev.bare = b.dev.bare := by
  cases h : (b.dev.seam p).up with
  | true => exact (seamDown h st reason).bare
  | false =>
    unfold Box.seamDown
    dsimp only
    rw [if_pos (by simp [h])]

end Dev.LinksKept

end Sys2Proof.Machine

/-! SUPPORT. The fabric commands: the device's place in the fabric, its tables, its Seams and its plans (12 R356, R361, R367, R374,
R377, R379, R397). -/

namespace Sys2Proof.Machine

open Sys2Proof.Safety

/-- The choice of an upstream changes which reference and Seam the Tape follows, and else only what the record of it does. -/
theorem Dev.chooseUpstream_frame (d : Dev) : ∃ ref up dist slew mb wake, d.chooseUpstream = { d with
    fab := { d.fab with refId := ref, upstream := up, distance := dist }, tape := { d.tape with slewNext := slew }, mb := mb
    power := { d.power with wake := wake } } := by
  unfold Dev.chooseUpstream
  refine Dev.ite_of (fun e => ∃ ref up dist slew mb wake, e = { d with
    fab := { d.fab with refId := ref, upstream := up, distance := dist }, tape := { d.tape with slewNext := slew }, mb := mb
    power := { d.power with wake := wake } }) ⟨_, _, _, _, _, _, rfl⟩ ?_
  rw [Dev.ev_eq, Dev.raise_frame]
  exact ⟨_, _, _, _, _, _, rfl⟩

/-- A field out of range of a fabric command. -/
theorem Box.bad_of_fabricCommand {k : Pend} (hk : k.opc / 256 = 5) (b : Box) (byte : Int) : b.bad k none byte = b.fail k 0x5012 none [k.opc, byte] := by
  have hevent : groupEvent k.opc = 0x5012 := by
    unfold groupEvent
    rw [hk]
    rfl
  unfold Box.bad Box.fail Dev.badField
  rw [hevent, hk]
  rfl

section
variable {opc : Nat} {c : Ici} {needs : Bool} {s : State} (h : performs opc c needs s)
include h

/-- A command that sets something and then chooses the upstream, and succeeds. -/
theorem ici_chooses {f : Pend → Box → Box} {d : Dev}
    (hf : f (Ici.pend opc c) (s.performing opc c) = (s.performing opc c).onD fun _ => d.chooseUpstream.okCmd (Ici.pend opc c))
    (hqueues : d.queues = (s.dev.takeAccepted opc c).queues) (hyoke : d.yoke = s.dev.yoke) :
    ∃ t, s.ici opc c needs f = .next t ∧ sameStore s t ∧ succeeds opc c s t ∧ t.dev = { d.chooseUpstream with queues := t.dev.queues } := by
  have hbare : d.chooseUpstream.bare = false := (Dev.NetKept.chooseUpstream d).bare.trans
    ((congrArg (fun y : YokeSt => y.mode == 2) hyoke).trans (performs_bare h))
  obtain ⟨_, _, _, _, _, _, hchoose⟩ := d.chooseUpstream_frame
  exact ici_sets h hf ((congrArg Dev.queues hchoose).trans hqueues) hbare

/-- A command that fails with an event. -/
theorem ici_failsFor {f : Pend → Box → Box} {ev : Nat} {ctx : Option Nat} {slots : List Int}
    (hf : f (Ici.pend opc c) (s.performing opc c) = (s.performing opc c).fail (Ici.pend opc c) ev ctx slots) :
    ∃ t, s.ici opc c needs f = .next t ∧ sameStore s t ∧ t.dev.fab = s.dev.fab ∧ t.dev.ctxs = s.dev.ctxs
      ∧ answers opc c 1 ev 0 0 s t ∧ recorded ev ctx slots s t := by
  have hfail : (s.dev.takeAccepted opc c).failCmd (Ici.pend opc c) ev ctx slots
      = ((s.dev.takeAccepted opc c).raise ev (s.dev.takeAccepted opc c).fwDie true ctx slots).complete (Ici.pend opc c) 1 ev := rfl
  refine ⟨_, ici_performing h hf, ⟨rfl, rfl⟩, ?_, ?_,
    answers_of_complete hfail (Dev.raise_queues ..) ((Dev.raise_bare_of ..).trans (performs_bare h)),
    recorded_of_raise_mb (d := s.dev.takeAccepted opc c) rfl ((congrArg Dev.mb hfail).trans (Dev.complete_mb ..))⟩
  · exact (Dev.complete_fab ..).trans (Dev.raise_fab ..)
  · exact (Dev.complete_ctxs ..).trans (Dev.raise_ctxs ..)

end

/-! ### FAB_CONFIG, TAPE_REF_SET -/

/-- The device with an ID and forwarding, and with the references of a payload. -/
def Dev.withId (d : Dev) (p : BitVec 384) : Dev :=
  { d with fab := { d.fab with deviceId := BitVec.ofNat 16 (pay p 0 2), forwarding := bitOf p 16 } }
def Dev.withRefs (d : Dev) (p : BitVec 384) : Dev := { d with fab := { d.fab with refs := (List.range 4).map fun i => pay p (2 * i) 2 } }

/-- What FAB_CONFIG and TAPE_REF_SET do. -/
def fabConfigRun (p : BitVec 384) (k : Pend) (b : Box) : Box :=
  b.fields k none [(b.dev.runningCtxs.isEmpty, 0), (pay p 0 2 != 0xFFFF, 0)] fun b => b.onD fun d => (d.withId p).chooseUpstream.okCmd k
def tapeRefRun (p : BitVec 384) (k : Pend) (b : Box) : Box := b.onD fun d => (d.withRefs p).chooseUpstream.okCmd k

theorem fabConfig_answers {c : Ici} {s : State} (h : performs 0x0501 c false s) (hrun : s.dev.runningCtxs = []) (hid : pay c.p 0 2 ≠ 0xFFFF) :
    ∃ t, exec (.fabConfig c) s = .next t ∧ sameStore s t ∧ succeeds 0x0501 c s t ∧ t.dev.fab.deviceId = BitVec.ofNat 16 (pay c.p 0 2)
      ∧ t.dev.fab.forwarding = bitOf c.p 16 ∧ t.dev.ctxs = s.dev.ctxs := by
  have hrun' : (s.performing 0x0501 c).dev.runningCtxs = [] := hrun
  obtain ⟨t, ht, hstore, hok, hdev⟩ := ici_chooses h (f := fabConfigRun c.p) (d := (s.dev.takeAccepted 0x0501 c).withId c.p)
    (Box.fields_pass (by simp [hrun', hid]) _) rfl rfl
  obtain ⟨_, _, _, _, _, _, hchoose⟩ := ((s.dev.takeAccepted 0x0501 c).withId c.p).chooseUpstream_frame
  rw [hchoose] at hdev
  refine ⟨t, ht, hstore, hok, ?_, ?_, ?_⟩
  all_goals
    rw [hdev]
    rfl

theorem tapeRefSet_answers {c : Ici} {s : State} (h : performs 0x0507 c false s) : ∃ t, exec (.tapeRefSet c) s = .next t ∧ sameStore s t
    ∧ succeeds 0x0507 c s t ∧ t.dev.fab.refs = [pay c.p 0 2, pay c.p 2 2, pay c.p 4 2, pay c.p 6 2] := by
  obtain ⟨t, ht, hstore, hok, hdev⟩ := ici_chooses h (f := tapeRefRun c.p) (d := (s.dev.takeAccepted 0x0507 c).withRefs c.p) rfl rfl rfl
  obtain ⟨_, _, _, _, _, _, hchoose⟩ := ((s.dev.takeAccepted 0x0507 c).withRefs c.p).chooseUpstream_frame
  rw [hchoose] at hdev
  refine ⟨t, ht, hstore, hok, ?_⟩
  rw [hdev]
  rfl

/-! ### ROUTE_SET -/

/-- An entry of the routing table is set, or with 0 removed. -/
def setRoute (t : Tbl W32) (e : Nat × W32) : Tbl W32 := if e.2 = 0 then del t e.1 else put t e.1 e.2

theorem get?_setRoute_ne (t : Tbl W32) {e : Nat × W32} {i : Nat} (h : i ≠ e.1) : get? (setRoute t e) i = get? t i := by
  unfold setRoute
  split
  · exact get?_del_ne t h
  · exact get?_put_ne t _ h

theorem getD_setRoute_same (t : Tbl W32) (e : Nat × W32) : getD (setRoute t e) e.1 0 = e.2 := by
  unfold setRoute
  split
  next hzero => rw [getD, get?_del_same, hzero]; rfl
  · exact getD_put_same ..

theorem get?_setRoutes_of_not_mem {l : List (Nat × W32)} {i : Nat} (h : i ∉ l.map (·.1)) (t : Tbl W32) :
    get? (l.foldl setRoute t) i = get? t i := by
  induction l generalizing t with
  | nil => rfl
  | cons e l ih =>
    obtain ⟨he, hl⟩ := not_or.mp (mt List.mem_cons.mpr h)
    rw [List.foldl_cons, ih hl, get?_setRoute_ne t he]

theorem getD_setRoutes_of_mem {l : List (Nat × W32)} (hnodup : (l.map (·.1)).Nodup) {e : Nat × W32} (he : e ∈ l) (t : Tbl W32) :
    getD (l.foldl setRoute t) e.1 0 = e.2 := by
  induction l generalizing t with
  | nil => exact absurd he List.not_mem_nil
  | cons x l ih =>
    obtain ⟨hx, hl⟩ := List.nodup_cons.mp hnodup
    rw [List.foldl_cons]
    rcases List.mem_cons.mp he with rfl | he
    · rw [getD, get?_setRoutes_of_not_mem hx, ← getD, getD_setRoute_same]
    · exact ih hl he _

/-- The routing table with the entries of a range. -/
def Dev.withRoutes (d : Dev) (first : Nat) (l : List W32) : Dev :=
  { d with fab := { d.fab with
      routes := ((span first l.length).zip l).foldl setRoute d.fab.routes
      lost := d.fab.lost.filter fun x => !(first ≤ x && x < first + l.length) } }

theorem routeSet_answers {c : Ici} {s : State} (h : performs 0x0502 c (inSpools (pay c.p 8 8)) s) (l : List Byte)
    (hrange : pay c.p 0 2 + pay c.p 2 2 ≤ 65536)
    (hread : readable s (s.dev.takeAccepted 0x0502 c) (pay c.p 8 8) (4 * pay c.p 2 2) 64 l)
    (hok : ∀ i, i < pay c.p 2 2 → fld (BitVec.ofNat 32 (leAt l (4 * i) 4) : W32) 24 3 ≤ 4 ∧ fld (BitVec.ofNat 32 (leAt l (4 * i) 4) : W32) 27 5 = 0) :
    ∃ t, exec (.routeSet c) s = .next t ∧ sameStore s t ∧ succeeds 0x0502 c s t
      ∧ (∀ i, i < pay c.p 2 2 → getD t.dev.fab.routes (pay c.p 0 2 + i) 0 = BitVec.ofNat 32 (leAt l (4 * i) 4))
      ∧ (∀ i, i < pay c.p 0 2 ∨ pay c.p 0 2 + pay c.p 2 2 ≤ i → get? t.dev.fab.routes i = get? s.dev.fab.routes i)
      ∧ (∀ x ∈ t.dev.fab.lost, x < pay c.p 0 2 ∨ pay c.p 0 2 + pay c.p 2 2 ≤ x) := by
  generalize hes : routeEntries l (pay c.p 2 2) = es
  have hlen : es.length = pay c.p 2 2 := by rw [← hes, routeEntries, List.length_map, List.length_range]
  have hall : es.all routeOk = true := by
    rw [← hes]
    simp only [routeEntries, List.all_map, List.all_eq_true, List.mem_range]
    intro i hi
    simpa [routeOk] using hok i hi
  have hrun : (s.performing 0x0502 c).routeSet (Ici.pend 0x0502 c) c.p = (s.performing 0x0502 c).onD fun _ =>
      ((s.dev.takeAccepted 0x0502 c).withRoutes (pay c.p 0 2) es).chooseUpstream.okCmd (Ici.pend 0x0502 c) := by
    unfold Box.routeSet
    dsimp only
    rw [Box.fields_pass (by simpa using hrange), performing_reads hread, hes, if_pos hall]
    rfl
  obtain ⟨t, ht, hstore, hsucc, hdev⟩ := ici_chooses h (f := fun k b => b.routeSet k c.p) hrun rfl rfl
  obtain ⟨_, _, _, _, _, _, hchoose⟩ := ((s.dev.takeAccepted 0x0502 c).withRoutes (pay c.p 0 2) es).chooseUpstream_frame
  rw [hchoose] at hdev
  have hroutes : t.dev.fab.routes = ((span (pay c.p 0 2) es.length).zip es).foldl setRoute s.dev.fab.routes := by rw [hdev]; rfl
  have hlost : t.dev.fab.lost = s.dev.fab.lost.filter fun x => !(pay c.p 0 2 ≤ x && x < pay c.p 0 2 + es.length) := by rw [hdev]; rfl
  have hkeys : ((span (pay c.p 0 2) es.length).zip es).map (·.1) = span (pay c.p 0 2) (pay c.p 2 2) := by
    rw [List.map_fst_zip (by rw [span_length]), hlen]
  refine ⟨t, ht, hstore, hsucc, fun i hi => ?_, fun i hi => ?_, fun x hx => ?_⟩
  · have hmem : (pay c.p 0 2 + i, (BitVec.ofNat 32 (leAt l (4 * i) 4) : W32)) ∈ (span (pay c.p 0 2) es.length).zip es := by
      rw [List.mem_iff_getElem]
      refine ⟨i, by rw [List.length_zip, span_length, hlen, Nat.min_self]; exact hi, ?_⟩
      subst hes
      simp [span, routeEntries]
    rw [hroutes]
    exact getD_setRoutes_of_mem (hkeys ▸ span_nodup ..) hmem _
  · rw [hroutes]
    refine get?_setRoutes_of_not_mem (fun hmem => ?_) _
    rw [hkeys, mem_span] at hmem
    omega
  · rw [hlost, List.mem_filter, hlen] at hx
    have hout := hx.2
    simp only [Bool.not_eq_true', Bool.and_eq_false_iff, decide_eq_false_iff_not] at hout
    omega

/-! ### REMOTE_MAP, EXPORT_SET -/

section
variable {c : Ici} {s : State} (h : performs 0x0505 c false s)
include h

theorem remoteMap_removes (hunits : pay c.p 8 4 = 0) (hheld : (s.dev.remotes.any fun r => r.base == pay c.p 0 8) = true) :
    ∃ t, exec (.remoteMap c) s = .next t ∧ sameStore s t ∧ succeeds 0x0505 c s t
      ∧ t.dev = { s.dev with queues := t.dev.queues, remotes := s.dev.remotes.filter fun r => r.base != pay c.p 0 8 } := by
  have hheld' : ((s.performing 0x0505 c).dev.remotes.any fun r => r.base == pay c.p 0 8) = true := hheld
  have hrun : (s.performing 0x0505 c).remoteMap (Ici.pend 0x0505 c) c.p = (s.performing 0x0505 c).onD fun _ =>
      ({ s.dev.takeAccepted 0x0505 c with remotes := s.dev.remotes.filter fun r => r.base != pay c.p 0 8 } : Dev).okCmd (Ici.pend 0x0505 c) := by
    unfold Box.remoteMap
    dsimp only
    rw [if_pos hunits, Box.fields_pass (by simpa using hheld')]
    rfl
  obtain ⟨t, ht, hstore, hok, hdev⟩ := ici_sets h (f := fun k b => b.remoteMap k c.p) hrun rfl (performs_bare h)
  exact ⟨t, ht, hstore, hok, hdev⟩

theorem remoteMap_sets (hunits : pay c.p 8 4 ≠ 0) (halign : pay c.p 0 8 % 2097152 = 0) (hfits : s.dev.remoteFits (pay c.p 0 8) (pay c.p 8 4) = true)
    (hroom : (s.dev.remotes.any fun r => r.base == pay c.p 0 8) = true ∨ s.dev.remotes.length < 64) (hdst : pay c.p 12 2 ≠ 0xFFFF)
    (hother : pay c.p 12 2 ≠ s.dev.fab.deviceId.toNat) (htarget : pay c.p 16 8 % 2097152 = 0)
    (hend : pay c.p 16 8 + pay c.p 8 4 * 2097152 ≤ 2 ^ 52) :
    ∃ t, exec (.remoteMap c) s = .next t ∧ sameStore s t ∧ succeeds 0x0505 c s t
      ∧ t.dev = { s.dev with
          queues := t.dev.queues
          remotes := (s.dev.remotes.filter fun r => r.base != pay c.p 0 8)
            ++ [⟨pay c.p 0 8, pay c.p 8 4, pay c.p 12 2, bitOf c.p 112, bitOf c.p 113, pay c.p 16 8⟩] } := by
  have hheld : (s.performing 0x0505 c).dev.remotes = s.dev.remotes := rfl
  have hfits' : (s.performing 0x0505 c).dev.remoteFits (pay c.p 0 8) (pay c.p 8 4) = true := hfits
  have hid : (s.performing 0x0505 c).dev.myId = s.dev.fab.deviceId.toNat := rfl
  have hrun : (s.performing 0x0505 c).remoteMap (Ici.pend 0x0505 c) c.p = (s.performing 0x0505 c).onD fun _ =>
      ({ s.dev.takeAccepted 0x0505 c with
        remotes := (s.dev.remotes.filter fun r => r.base != pay c.p 0 8)
          ++ [⟨pay c.p 0 8, pay c.p 8 4, pay c.p 12 2, bitOf c.p 112, bitOf c.p 113, pay c.p 16 8⟩] } : Dev).okCmd (Ici.pend 0x0505 c) := by
    unfold Box.remoteMap
    dsimp only
    rw [if_neg hunits, hheld, hfits', hid, Box.fields_pass]
    · rfl
    · simp only [List.forall_mem_cons, unit2M]
      refine ⟨by simp [halign], by simpa using hroom, by simp [hdst, hother], Bool.and_eq_true_iff.mpr ⟨by simp [htarget], decide_eq_true hend⟩, by simp⟩
  obtain ⟨t, ht, hstore, hok, hdev⟩ := ici_sets h (f := fun k b => b.remoteMap k c.p) hrun rfl (performs_bare h)
  exact ⟨t, ht, hstore, hok, hdev⟩

end

/-- The window of a payload; none with size 0. -/
def exportOf (p : BitVec 384) : Option ExportWin :=
  if pay p 8 4 = 0 then none else some ⟨pay p 0 8, pay p 8 4, pay p 12 2, pay p 14 2, bitOf p 128, bitOf p 129⟩

/-- The export windows with that of a payload. -/
def exportsWith (t : Tbl ExportWin) (p : BitVec 384) : Tbl ExportWin :=
  if pay p 8 4 = 0 then del t (pay p 17 1) else put t (pay p 17 1) ⟨pay p 0 8, pay p 8 4, pay p 12 2, pay p 14 2, bitOf p 128, bitOf p 129⟩

theorem get?_exportsWith (t : Tbl ExportWin) (p : BitVec 384) (j : Nat) :
    get? (exportsWith t p) j = if j = pay p 17 1 then exportOf p else get? t j := by
  unfold exportsWith exportOf
  by_cases hj : j = pay p 17 1
  · subst hj
    rw [if_pos rfl]
    split
    · exact get?_del_same ..
    · exact get?_put_same ..
  · rw [if_neg hj]
    split
    · exact get?_del_ne t hj
    · exact get?_put_ne t _ hj

theorem exportSet_answers {c : Ici} {s : State} (h : performs 0x0506 c false s) (halign : pay c.p 0 8 % 2097152 = 0)
    (hend : pay c.p 0 8 + pay c.p 8 4 * 2097152 ≤ 2 ^ 52) (hw : pay c.p 17 1 < 64) :
    ∃ t, exec (.exportSet c) s = .next t ∧ sameStore s t ∧ succeeds 0x0506 c s t
      ∧ t.dev = { s.dev with queues := t.dev.queues, exports := t.dev.exports }
      ∧ get? t.dev.exports (pay c.p 17 1) = exportOf c.p ∧ ∀ j, j ≠ pay c.p 17 1 → get? t.dev.exports j = get? s.dev.exports j := by
  have hrun : (s.performing 0x0506 c).exportSet (Ici.pend 0x0506 c) c.p = (s.performing 0x0506 c).onD fun _ =>
      ({ s.dev.takeAccepted 0x0506 c with exports := exportsWith s.dev.exports c.p } : Dev).okCmd (Ici.pend 0x0506 c) := by
    unfold Box.exportSet
    dsimp only
    rw [Box.fields_pass]
    · rfl
    · simp only [List.forall_mem_cons, unit2M]
      exact ⟨Bool.and_eq_true_iff.mpr ⟨by simp [halign], decide_eq_true hend⟩, by simpa using hw, by simp⟩
  obtain ⟨t, ht, hstore, hok, hdev⟩ := ici_sets h (f := fun k b => b.exportSet k c.p) hrun rfl (performs_bare h)
  have hexports : t.dev.exports = exportsWith s.dev.exports c.p := by rw [hdev]
  refine ⟨t, ht, hstore, hok, ?_, ?_, fun j hj => ?_⟩
  · rw [hexports]
    exact hdev
  · rw [hexports, get?_exportsWith, if_pos rfl]
  · rw [hexports, get?_exportsWith, if_neg hj]

/-! ### Collective plans, and the epoch of a context -/

section
variable {c : Ici} {s : State}

/-- The device with a plan in place of the one that an index had. -/
def Dev.withPlan (d : Dev) (i : Nat) (x : Plan) : Dev :=
  { d.dropPlan i with fab := { (d.dropPlan i).fab with plans := put (d.dropPlan i).fab.plans i x } }

/-- What COLL_PLAN_LOAD does with a plan that it read. -/
theorem planLoad_reads {l : List Byte} (hi : pay c.p 0 2 < 1024) (hidle : s.dev.planBusy (pay c.p 0 2) = false) (hlo : 64 ≤ pay c.p 4 4)
    (hhi : pay c.p 4 4 ≤ 524344) (hread : readable s (s.dev.takeAccepted 0x0508 c) (pay c.p 8 8) (pay c.p 4 4) 1 l) :
    (s.performing 0x0508 c).planLoad (Ici.pend 0x0508 c) c.p =
      match (s.dev.takeAccepted 0x0508 c).planFault (pay c.p 0 2) (planOf (payBits c.p 2 0 3) l) l with
      | some f => (s.performing 0x0508 c).fail (Ici.pend 0x0508 c) 0x5011 (some (payBits c.p 2 0 3)) [(pay c.p 0 2 : Int), (f : Int)]
      | none => (s.performing 0x0508 c).onD fun d => (d.withPlan (pay c.p 0 2) (planOf (payBits c.p 2 0 3) l)).okCmd (Ici.pend 0x0508 c) := by
  have hidle' : (s.performing 0x0508 c).dev.planBusy (pay c.p 0 2) = false := hidle
  unfold Box.planLoad
  dsimp only
  rw [Box.fields_pass (by simp [hi, hidle', hlo, hhi]), performing_reads hread]
  rfl

theorem collPlanLoad_loads (h : performs 0x0508 c (inSpools (pay c.p 8 8)) s) {l : List Byte} (hi : pay c.p 0 2 < 1024)
    (hidle : s.dev.planBusy (pay c.p 0 2) = false) (hlo : 64 ≤ pay c.p 4 4) (hhi : pay c.p 4 4 ≤ 524344)
    (hread : readable s (s.dev.takeAccepted 0x0508 c) (pay c.p 8 8) (pay c.p 4 4) 1 l)
    (hgood : (s.dev.takeAccepted 0x0508 c).planFault (pay c.p 0 2) (planOf (payBits c.p 2 0 3) l) l = none) :
    ∃ t, exec (.collPlanLoad c) s = .next t ∧ sameStore s t ∧ succeeds 0x0508 c s t
      ∧ get? t.dev.fab.plans (pay c.p 0 2) = some (planOf (payBits c.p 2 0 3) l)
      ∧ ∀ j, j ≠ pay c.p 0 2 → get? t.dev.fab.plans j = get? s.dev.fab.plans j := by
  have hrun := planLoad_reads hi hidle hlo hhi hread
  rw [hgood] at hrun
  obtain ⟨t, ht, hstore, hok, hdev⟩ := ici_sets h (f := fun k b => b.planLoad k c.p)
    (d := (s.dev.takeAccepted 0x0508 c).withPlan (pay c.p 0 2) (planOf (payBits c.p 2 0 3) l)) hrun rfl (performs_bare h)
  have hplans : t.dev.fab.plans = put (del s.dev.fab.plans (pay c.p 0 2)) (pay c.p 0 2) (planOf (payBits c.p 2 0 3) l) := by rw [hdev]; rfl
  refine ⟨t, ht, hstore, hok, ?_, fun j hj => ?_⟩
  · rw [hplans, get?_put_same]
  · rw [hplans, get?_put_ne _ _ hj, get?_del_ne _ hj]

theorem collPlanLoad_fails (h : performs 0x0508 c (inSpools (pay c.p 8 8)) s) {l : List Byte} (hi : pay c.p 0 2 < 1024)
    (hidle : s.dev.planBusy (pay c.p 0 2) = false) (hlo : 64 ≤ pay c.p 4 4) (hhi : pay c.p 4 4 ≤ 524344)
    (hread : readable s (s.dev.takeAccepted 0x0508 c) (pay c.p 8 8) (pay c.p 4 4) 1 l) {f : Nat}
    (hbad : (s.dev.takeAccepted 0x0508 c).planFault (pay c.p 0 2) (planOf (payBits c.p 2 0 3) l) l = some f) :
    ∃ t, exec (.collPlanLoad c) s = .next t ∧ sameStore s t ∧ t.dev.fab.plans = s.dev.fab.plans
      ∧ answers 0x0508 c 1 0x5011 0 0 s t ∧ recorded 0x5011 (some (payBits c.p 2 0 3)) [pay c.p 0 2, f] s t := by
  have hrun := planLoad_reads hi hidle hlo hhi hread
  rw [hbad] at hrun
  obtain ⟨t, ht, hstore, hfab, -, hans, hrec⟩ := ici_failsFor h (f := fun k b => b.planLoad k c.p) hrun
  exact ⟨t, ht, hstore, congrArg FabSt.plans hfab, hans, hrec⟩

/-- Plans that leave the device. -/
theorem Dev.dropPlans (l : List Nat) (d : Dev) : ∃ early late, l.foldl Dev.dropPlan d =
    { d with fab := { d.fab with plans := l.foldl del d.fab.plans, earlyReady := early, heldLate := late } } := by
  induction l generalizing d with
  | nil => exact ⟨d.fab.earlyReady, d.fab.heldLate, rfl⟩
  | cons i l ih =>
    obtain ⟨early, late, hl⟩ := ih (d.dropPlan i)
    exact ⟨early, late, hl⟩

theorem get?_foldl_del {α : Type} (l : List Nat) (t : Tbl α) (i : Nat) : get? (l.foldl del t) i = if i ∈ l then none else get? t i := by
  induction l generalizing t with
  | nil => rfl
  | cons k l ih =>
    rw [List.foldl_cons, ih]
    by_cases hl : i ∈ l
    · rw [if_pos hl, if_pos (List.mem_cons_of_mem k hl)]
    · rw [if_neg hl]
      by_cases hk : i = k
      · subst hk
        rw [if_pos List.mem_cons_self, get?_del_same]
      · rw [if_neg (by simp [hk, hl]), get?_del_ne t hk]

/-- What COLL_PLAN_UNLOAD does. -/
def planUnloadRun (p : BitVec 384) (k : Pend) (b : Box) : Box :=
  b.fields k none
    [(decide (pay p 0 2 < 1024) && (span (pay p 0 2) (min (pay p 2 2) 1024)).all (fun i => !b.dev.planBusy i), 0),
      (decide (pay p 2 2 ≤ 1024 ∧ pay p 0 2 + pay p 2 2 ≤ 1024), 2)]
    fun b => b.onD fun d => ((span (pay p 0 2) (pay p 2 2)).foldl Dev.dropPlan d).okCmd k

theorem collPlanUnload_answers (h : performs 0x0509 c false s) (hfirst : pay c.p 0 2 < 1024) (hrange : pay c.p 0 2 + pay c.p 2 2 ≤ 1024)
    (hidle : ∀ i, pay c.p 0 2 ≤ i → i < pay c.p 0 2 + pay c.p 2 2 → s.dev.planBusy i = false) :
    ∃ t, exec (.collPlanUnload c) s = .next t ∧ sameStore s t ∧ succeeds 0x0509 c s t
      ∧ (∀ i, pay c.p 0 2 ≤ i → i < pay c.p 0 2 + pay c.p 2 2 → get? t.dev.fab.plans i = none)
      ∧ ∀ i, i < pay c.p 0 2 ∨ pay c.p 0 2 + pay c.p 2 2 ≤ i → get? t.dev.fab.plans i = get? s.dev.fab.plans i := by
  have hn : pay c.p 2 2 ≤ 1024 := by omega
  have hall : (span (pay c.p 0 2) (pay c.p 2 2)).all (fun i => !(s.performing 0x0509 c).dev.planBusy i) = true := by
    simp only [List.all_eq_true, mem_span, Bool.not_eq_true']
    exact fun i hi => hidle i hi.1 hi.2
  obtain ⟨early, late, hdrop⟩ := Dev.dropPlans (span (pay c.p 0 2) (pay c.p 2 2)) (s.dev.takeAccepted 0x0509 c)
  have hrun : planUnloadRun c.p (Ici.pend 0x0509 c) (s.performing 0x0509 c)
      = (s.performing 0x0509 c).onD fun _ => ((span (pay c.p 0 2) (pay c.p 2 2)).foldl Dev.dropPlan (s.dev.takeAccepted 0x0509 c)).okCmd (Ici.pend 0x0509 c) :=
    Box.fields_pass (by
      simp only [List.forall_mem_cons, Nat.min_eq_left hn, hall]
      simp [hfirst, hn, hrange]) _
  rw [hdrop] at hrun
  obtain ⟨t, ht, hstore, hok, hdev⟩ := ici_sets h (f := planUnloadRun c.p) hrun rfl (performs_bare h)
  have hplans : t.dev.fab.plans = (span (pay c.p 0 2) (pay c.p 2 2)).foldl del s.dev.fab.plans := by rw [hdev]; rfl
  refine ⟨t, ht, hstore, hok, fun i hlo hhi => ?_, fun i hi => ?_⟩
  · rw [hplans, get?_foldl_del, if_pos (mem_span.mpr ⟨hlo, hhi⟩)]
  · rw [hplans, get?_foldl_del, if_neg (by rw [mem_span]; omega)]

/-- What COLL_EPOCH_SET does. -/
def epochRun (p : BitVec 384) (k : Pend) (b : Box) : Box :=
  b.fields k none [((b.dev.ctx (payBits p 0 0 3)).st == .loaded, 0)] fun b => b.onD fun d =>
    (d.updCtx (payBits p 0 0 3) fun x => { x with epoch := pay p 2 2 }).okCmd k

theorem collEpochSet_sets (h : performs 0x050A c false s) (hst : (s.dev.ctx (payBits c.p 0 0 3)).st = .loaded) :
    ∃ t, exec (.collEpochSet c) s = .next t ∧ sameStore s t ∧ succeeds 0x050A c s t
      ∧ t.dev.ctx (payBits c.p 0 0 3) = { s.dev.ctx (payBits c.p 0 0 3) with epoch := pay c.p 2 2 }
      ∧ ∀ j, j ≠ payBits c.p 0 0 3 → t.dev.ctx j = s.dev.ctx j := by
  have hst' : ((s.performing 0x050A c).dev.ctx (payBits c.p 0 0 3)).st = .loaded := hst
  obtain ⟨t, ht, hstore, hok, hdev⟩ := ici_sets h (f := epochRun c.p)
    (d := (s.dev.takeAccepted 0x050A c).updCtx (payBits c.p 0 0 3) fun x => { x with epoch := pay c.p 2 2 })
    (Box.fields_pass (by simp [hst']) _) rfl (performs_bare h)
  refine ⟨t, ht, hstore, hok, ?_, fun j hj => ?_⟩
  · rw [hdev]
    exact Dev.setCtx_ctx_same ..
  · rw [hdev]
    exact Dev.setCtx_ctx_ne _ _ _ _ hj

theorem collEpochSet_fails (h : performs 0x050A c false s) (hst : (s.dev.ctx (payBits c.p 0 0 3)).st ≠ .loaded) :
    ∃ t, exec (.collEpochSet c) s = .next t ∧ sameStore s t ∧ t.dev.ctxs = s.dev.ctxs
      ∧ answers 0x050A c 1 0x5012 0 0 s t ∧ recorded 0x5012 none [0x050A, 0] s t := by
  have hst' : ((s.performing 0x050A c).dev.ctx (payBits c.p 0 0 3)).st ≠ .loaded := hst
  have hrun : epochRun c.p (Ici.pend 0x050A c) (s.performing 0x050A c) = (s.performing 0x050A c).fail (Ici.pend 0x050A c) 0x5012 none [0x050A, 0] :=
    (Box.fields_bad (byte := 0) (by simp [firstField, hst']) _).trans (Box.bad_of_fabricCommand (by norm_num [Ici.pend]) _ _)
  obtain ⟨t, ht, hstore, -, hctxs, hans, hrec⟩ := ici_failsFor h (f := epochRun c.p) hrun
  exact ⟨t, ht, hstore, hctxs, hans, hrec⟩

end

/-! ### A lane that leaves and retrains (12 R361) -/

theorem Dev.sendHeartbeat_seam (d : Dev) (p : Nat) :
    (d.sendHeartbeat p).seam p = ((d.seam p).emit d.now 2 (d.heartbeatBody p) (d.lanesOf p)).1 := Dev.setSeam_seam_same ..

/-- A link without a lane. -/
def Dev.withoutLane (d : Dev) (p lane : Nat) : Dev := d.updSeam p fun s => { s with active := s.active &&& ~~~laneBit lane }

theorem popCount_without {a : BitVec 4} {lane : Nat} (hlane : lane < 4) (h : 3 ≤ popCount a) : 2 ≤ popCount (a &&& ~~~laneBit lane) := by
  have hall : ∀ (a : BitVec 4) (lane : Fin 4), 3 ≤ popCount a → 2 ≤ popCount (a &&& ~~~laneBit lane.val) := by decide
  exact hall a ⟨lane, hlane⟩ h

theorem bitOf_without (a : BitVec 4) {lane : Nat} (hlane : lane < 4) : bitOf (a &&& ~~~laneBit lane) lane = false := by
  have hall : ∀ (a : BitVec 4) (lane : Fin 4), bitOf (a &&& ~~~laneBit lane.val) lane.val = false := by decide
  exact hall a ⟨lane, hlane⟩

/-- A lane of a link of at least three leaves, and the heartbeat says so. -/
theorem Box.dropLane_stays {b : Box} {p lane : Nat} (hlane : lane < 4) (h : 3 ≤ (b.dev.seam p).width) :
    b.dropLane p lane = b.onD fun d => (d.withoutLane p lane).sendHeartbeat p := by
  unfold Box.dropLane
  dsimp only
  rw [if_neg]
  · rfl
  · rw [Box.onD_dev, Dev.updSeam, Dev.setSeam_seam_same]
    exact Nat.not_lt.mpr (popCount_without hlane h)

theorem Dev.leftLane_seam (d : Dev) (p lane : Nat) : ∃ x : Seam, ((d.withoutLane p lane).sendHeartbeat p).seam p = x ∧ x.st = (d.seam p).st
    ∧ x.active = (d.seam p).active &&& ~~~laneBit lane ∧ x.retrain = (d.seam p).retrain ∧ x.laneq = (d.seam p).laneq := by
  refine ⟨_, Dev.sendHeartbeat_seam .., ?_, ?_, ?_, ?_⟩
  all_goals
    rw [Dev.withoutLane, Dev.updSeam, Dev.setSeam_seam_same]
    rfl

theorem Dev.linksOnly_leftLane (d : Dev) (p lane : Nat) : d.linksOnly ((d.withoutLane p lane).sendHeartbeat p) :=
  Dev.linksOnly_trans (d.linksOnly_setSeam p _) (Dev.linksOnly_sendFlit ..)

/-- The lane does not carry traffic and retrains since now, with its event; no context, queue or mode differs. -/
structure Dev.LaneRetrains (p lane trigger : Nat) (d e : Dev) : Prop where
  up : (e.seam p).up = true
  idle : bitOf (e.seam p).active lane = false
  retrain : (e.seam p).retrain = some (lane, d.now)
  raised : ∃ f : Dev, f.mb = d.mb ∧ (f.raise 0x5001 (dieSeam p) false none [p, lane, trigger]).mb.Appended 2 e.mb
  queues : e.queues = d.queues
  bare : e.bare = d.bare

theorem Dev.nearColls_linksOnly {d e : Dev} (h : d.linksOnly e) : e.nearColls = d.nearColls := by
  obtain ⟨_, _, _, rfl, -⟩ := h
  exact Dev.nearColls_congr rfl rfl rfl

/-- With no collective near, a lane starts retraining with its event and that of the notice. -/
theorem Dev.retrainLane_retrains {d e : Dev} {p lane trigger : Nat} (h : d.linksOnly e) (hquiet : d.nearColls = []) (hup : (e.seam p).up = true)
    (hidle : bitOf (e.seam p).active lane = false) : Dev.LaneRetrains p lane trigger d (e.retrainLane p lane trigger) := by
  generalize hf : (e.updSeam p fun s => { s with retrain := some (lane, e.now), retrains := satAdd 32 s.retrains 1 }) = f
  have hlinks : d.linksOnly f := hf ▸ Dev.linksOnly_trans h (Dev.linksOnly_setSeam ..)
  have hnow : e.now = d.now := by obtain ⟨_, _, _, rfl, -⟩ := h; rfl
  have hseam : f.seam p = { e.seam p with retrain := some (lane, d.now), retrains := satAdd 32 (e.seam p).retrains 1 } := by
    rw [← hf, Dev.updSeam, Dev.setSeam_seam_same, hnow]
  have hnear : (f.ev 0x5001 (dieSeam p) none [p, lane, trigger]).nearColls = [] :=
    (Dev.nearColls_congr (Dev.raise_fab ..) (Dev.raise_cores ..) (Dev.raise_ctxs ..)).trans ((Dev.nearColls_linksOnly hlinks).trans hquiet)
  have hrun : e.retrainLane p lane trigger = (f.raise 0x5001 (dieSeam p) false none [p, lane, trigger]).raise 0x900C (dieSeam p) false none
      [((f.freeEst 5 : Nat) : Int), 5] := by
    unfold Dev.retrainLane
    dsimp only
    rw [hf, Dev.lateNotice_quiet hnear]
    rfl
  have hsame : (e.retrainLane p lane trigger).seam p = f.seam p := by rw [hrun, Dev.raise_seam_of, Dev.raise_seam_of]
  obtain ⟨_, _, _, hframe, -⟩ := hlinks
  refine ⟨?_, ?_, ?_, ⟨f, by rw [hframe], hrun ▸ .raise ..⟩, ?_, ?_⟩
  · rw [hsame, hseam]
    exact hup
  · rw [hsame, hseam]
    exact hidle
  · rw [hsame, hseam]
  · rw [hrun, Dev.raise_queues, Dev.raise_queues, hframe]
  · rw [hrun, Dev.raise_bare_of, Dev.raise_bare_of, hframe]
    rfl

theorem Box.onD_const (b : Box) (e : Dev) (f : Dev → Dev) : (b.onD fun _ => e).onD f = b.onD fun _ => f e := rfl

/-- A lane that has its turn: it leaves the link when it is still in it, and retrains. -/
def Box.laneTurn (b : Box) (p lane trigger : Nat) (present : Bool) : Box :=
  let b := if present then b.dropLane p lane else b
  if (b.dev.seam p).up then b.onD fun d => d.retrainLane p lane trigger else b

theorem Box.nextLane_turn {b : Box} {p lane trigger : Nat} (hup : (b.dev.seam p).up = true) (hretrain : (b.dev.seam p).retrain = none)
    (hlaneq : (b.dev.seam p).laneq = [(lane, trigger)]) : b.nextLane p =
      (b.onD fun d => d.setSeam p { b.dev.seam p with laneq := [] }).laneTurn p lane trigger (bitOf (b.dev.seam p).active lane) := by
  unfold Box.nextLane
  dsimp only
  rw [hlaneq]
  dsimp only
  rw [if_neg (by simp [hretrain, hup])]
  rfl

theorem Box.laneTurn_retrains {d : Dev} {b : Box} {p lane trigger : Nat} (hlane : lane < 4) (hlinks : d.linksOnly b.dev) (hquiet : d.nearColls = [])
    (hup : (b.dev.seam p).up = true) (hwidth : bitOf (b.dev.seam p).active lane = true → 3 ≤ (b.dev.seam p).width) :
    ∃ e, b.laneTurn p lane trigger (bitOf (b.dev.seam p).active lane) = b.onD (fun _ => e) ∧ Dev.LaneRetrains p lane trigger d e := by
  unfold Box.laneTurn
  dsimp only
  cases hin : bitOf (b.dev.seam p).active lane with
  | true =>
    obtain ⟨y, hy, hst, hactive, -, -⟩ := b.dev.leftLane_seam p lane
    have hup' : (((b.dev.withoutLane p lane).sendHeartbeat p).seam p).up = true := by rw [hy, Seam.up, hst]; exact hup
    have hidle : bitOf (((b.dev.withoutLane p lane).sendHeartbeat p).seam p).active lane = false := by rw [hy, hactive]; exact bitOf_without _ hlane
    have hleft := Dev.linksOnly_trans hlinks (b.dev.linksOnly_leftLane p lane)
    rw [if_pos rfl, Box.dropLane_stays hlane (hwidth hin), Box.onD_at]
    generalize (b.dev.withoutLane p lane).sendHeartbeat p = e at hup' hidle hleft
    refine ⟨e.retrainLane p lane trigger, ?_, Dev.retrainLane_retrains hleft hquiet hup' hidle⟩
    rw [if_pos (by rw [Box.onD_dev]; exact hup'), Box.onD_const]
  | false =>
    refine ⟨b.dev.retrainLane p lane trigger, ?_, Dev.retrainLane_retrains hlinks hquiet hup hin⟩
    rw [if_neg Bool.false_ne_true, if_pos hup, Box.onD_at]

/-- A lane that waits alone for its turn gets it at once. -/
theorem Box.queueLane_retrains {d : Dev} {b : Box} {p lane : Nat} (trigger : Nat) (hlane : lane < 4) (hlinks : d.linksOnly b.dev) (hquiet : d.nearColls = [])
    (hup : (b.dev.seam p).up = true) (hretrain : (b.dev.seam p).retrain = none) (hlaneq : (b.dev.seam p).laneq = [])
    (hwidth : bitOf (b.dev.seam p).active lane = true → 3 ≤ (b.dev.seam p).width) :
    ∃ e, b.queueLane p lane trigger = b.onD (fun _ => e) ∧ Dev.LaneRetrains p lane trigger d e := by
  generalize hq : (b.dev.updSeam p fun s => { s with laneq := s.laneq ++ [(lane, trigger)] }) = q
  have hseam : q.seam p = { b.dev.seam p with laneq := [(lane, trigger)] } := by rw [← hq, Dev.updSeam, Dev.setSeam_seam_same, hlaneq]; rfl
  have hqlinks : d.linksOnly q := Dev.linksOnly_trans hlinks (hq ▸ Dev.linksOnly_setSeam ..)
  generalize hr : q.setSeam p { q.seam p with laneq := [] } = r
  have hrseam : r.seam p = { b.dev.seam p with laneq := [] } := by rw [← hr, Dev.setSeam_seam_same, hseam]
  have hrlinks : d.linksOnly r := Dev.linksOnly_trans hqlinks (hr ▸ Dev.linksOnly_setSeam ..)
  have hrun : b.queueLane p lane trigger = (b.onD fun _ => r).laneTurn p lane trigger (bitOf (r.seam p).active lane) := by
    unfold Box.queueLane
    rw [if_neg (by simp [hretrain, hlaneq]), Box.onD_at, hq]
    refine (Box.nextLane_turn (b := b.onD fun _ => q) (by rw [Box.onD_dev, hseam]; exact hup) (by rw [Box.onD_dev, hseam]; exact hretrain)
      (by rw [Box.onD_dev, hseam])).trans ?_
    rw [Box.onD_dev, Box.onD_at, Box.onD_dev, hr, hrseam, hseam]
    rfl
  obtain ⟨e, he, hretrains⟩ := Box.laneTurn_retrains (b := b.onD fun _ => r) (trigger := trigger) hlane hrlinks hquiet
    (by rw [Box.onD_dev, hrseam]; exact hup) (by rw [Box.onD_dev, hrseam]; exact hwidth)
  exact ⟨e, hrun.trans he, hretrains⟩

/-! ### SEAM_CTRL -/

/-- A run of a list of changes of which one alone does something. -/
theorem foldl_only {α β : Type} [DecidableEq α] {f : β → α → β} {i : α} {l : List α} (hnodup : l.Nodup) (hi : i ∈ l)
    (h : ∀ b, ∀ j ∈ l, j ≠ i → f b j = b) (b : β) : l.foldl f b = f b i := by
  have hnone : ∀ (l : List α), (∀ b, ∀ j ∈ l, f b j = b) → ∀ b, l.foldl f b = b := by
    intro l hl
    induction l with
    | nil => exact fun b => rfl
    | cons j l ih =>
      intro b
      rw [List.foldl_cons, hl b j List.mem_cons_self, ih fun b k hk => hl b k (List.mem_cons_of_mem j hk)]
  induction l generalizing b with
  | nil => exact absurd hi List.not_mem_nil
  | cons j l ih =>
    obtain ⟨hj, hl⟩ := List.nodup_cons.mp hnodup
    rw [List.foldl_cons]
    rcases List.mem_cons.mp hi with rfl | hi
    · exact hnone l (fun b k hk => h b k (List.mem_cons_of_mem i hk) fun hik => hj (hik ▸ hk)) _
    · rw [h b j List.mem_cons_self fun hij => hj (hij ▸ hi)]
      exact ih hl hi (fun b k hk => h b k (List.mem_cons_of_mem j hk)) b

/-- A mask of one lane retrains that lane. -/
theorem Box.retrainMask_one {b : Box} {p lane : Nat} (hlane : lane < 4) (hup : (b.dev.seam p).up = true) (hin : bitOf (b.dev.seam p).active lane = true) :
    b.retrainMask p (2 ^ lane) = b.queueLane p lane 3 := by
  unfold Box.retrainMask
  rw [foldl_only List.nodup_range (List.mem_range.mpr hlane)]
  · exact if_pos (by rw [Nat.testBit_two_pow_self, hup, hin]; rfl)
  · intro b j _ hj
    exact if_neg (by rw [Nat.testBit_two_pow_of_ne (Ne.symm hj)]; simp)

section
variable {c : Ici} {s : State}

/-- SEAM_CTRL by its action. -/
theorem seamCtrl_acts (hp : pay c.p 0 1 < 64) (hact : pay c.p 1 1 ≤ 3) (b : Box) (k : Pend) : b.seamCtrl k c.p =
    Box.ok (if pay c.p 1 1 = 0 then b.disableSeam (pay c.p 0 1)
      else if pay c.p 1 1 = 1 then b.onD fun d => d.enableSeam (pay c.p 0 1) (payBits c.p 3 0 1)
      else if pay c.p 1 1 = 2 then b.retrainMask (pay c.p 0 1) (payBits c.p 2 0 4)
      else b.onD fun d => d.updSeam (pay c.p 0 1) fun s => { s with pol := BitVec.ofNat 4 (payBits c.p 2 0 4) }) k := by
  unfold Box.seamCtrl
  exact Box.fields_pass (by simp [hp, hact]) _

variable (h : performs 0x0503 c false s) (hp : pay c.p 0 1 < 64)
include h

/-- A command that changes one Seam. -/
theorem seamCtrl_sets {x : Seam} (hrun : (s.performing 0x0503 c).seamCtrl (Ici.pend 0x0503 c) c.p
      = (s.performing 0x0503 c).onD fun _ => ((s.dev.takeAccepted 0x0503 c).setSeam (pay c.p 0 1) x).okCmd (Ici.pend 0x0503 c)) :
    ∃ t, exec (.seamCtrl c) s = .next t ∧ sameStore s t ∧ succeeds 0x0503 c s t ∧ t.dev.seam (pay c.p 0 1) = x
      ∧ ∀ j, j ≠ pay c.p 0 1 → t.dev.seam j = s.dev.seam j := by
  obtain ⟨t, ht, hstore, hok, hdev⟩ := ici_sets h (f := fun k b => b.seamCtrl k c.p) hrun rfl (performs_bare h)
  refine ⟨t, ht, hstore, hok, ?_, fun j hj => ?_⟩
  · rw [hdev]
    exact Dev.setSeam_seam_same ..
  · rw [hdev]
    exact Dev.setSeam_seam_ne _ _ _ _ hj

include hp

theorem seamCtrl_disables (hact : pay c.p 1 1 = 0) : ∃ t, exec (.seamCtrl c) s = .next t ∧ t.pending = s.pending
    ∧ (t.dev.seam (pay c.p 0 1)).st = 0 ∧ ended 0x0503 c 0 0 t := by
  have hrun : (s.performing 0x0503 c).seamCtrl (Ici.pend 0x0503 c) c.p = ((s.performing 0x0503 c).disableSeam (pay c.p 0 1)).ok (Ici.pend 0x0503 c) := by
    rw [seamCtrl_acts hp (by omega), if_pos hact]
  have hbare := (Dev.LinksKept.seamDown_bare (s.performing 0x0503 c) (pay c.p 0 1) 0 none).trans (performs_bare h)
  refine ⟨_, ici_performing h (f := fun k b => b.seamCtrl k c.p) hrun, rfl, ?_, ended_of_okCmd (d := ((s.performing 0x0503 c).disableSeam (pay c.p 0 1)).dev) hbare rfl⟩
  refine (congrArg Seam.st (Dev.complete_seam_of ..)).trans ?_
  exact congrArg Seam.st (Dev.setSeam_seam_same ..)

theorem seamCtrl_enables (hact : pay c.p 1 1 = 1) : ∃ t, exec (.seamCtrl c) s = .next t ∧ sameStore s t ∧ succeeds 0x0503 c s t
    ∧ t.dev.seam (pay c.p 0 1) = (if (s.dev.seam (pay c.p 0 1)).st = 0 then
        { s.dev.seam (pay c.p 0 1) with st := 1, mode := payBits c.p 3 0 1, tried := s.dev.tape.now, reported := false } else s.dev.seam (pay c.p 0 1))
    ∧ ∀ j, j ≠ pay c.p 0 1 → t.dev.seam j = s.dev.seam j := by
  refine seamCtrl_sets h ?_
  rw [seamCtrl_acts hp (by omega), if_neg (by omega), if_pos hact]
  rfl

theorem seamCtrl_polarity (hact : pay c.p 1 1 = 3) : ∃ t, exec (.seamCtrl c) s = .next t ∧ sameStore s t ∧ succeeds 0x0503 c s t
    ∧ t.dev.seam (pay c.p 0 1) = { s.dev.seam (pay c.p 0 1) with pol := BitVec.ofNat 4 (payBits c.p 2 0 4) } := by
  obtain ⟨t, ht, hstore, hok, hseam, -⟩ := seamCtrl_sets h (x := { s.dev.seam (pay c.p 0 1) with pol := BitVec.ofNat 4 (payBits c.p 2 0 4) }) (by
    rw [seamCtrl_acts hp (by omega), if_neg (by omega), if_neg (by omega), if_neg (by omega)]
    rfl)
  exact ⟨t, ht, hstore, hok, hseam⟩

theorem seamCtrl_retrains (lane : Fin 4) (hact : pay c.p 1 1 = 2) (hmask : payBits c.p 2 0 4 = 2 ^ lane.val)
    (hup : (s.dev.seam (pay c.p 0 1)).up = true) (hin : bitOf (s.dev.seam (pay c.p 0 1)).active lane.val = true)
    (hwidth : 3 ≤ (s.dev.seam (pay c.p 0 1)).width) (hretrain : (s.dev.seam (pay c.p 0 1)).retrain = none)
    (hlaneq : (s.dev.seam (pay c.p 0 1)).laneq = []) (hquiet : s.dev.nearColls = []) :
    ∃ t, exec (.seamCtrl c) s = .next t ∧ sameStore s t ∧ (t.dev.seam (pay c.p 0 1)).up = true
      ∧ bitOf (t.dev.seam (pay c.p 0 1)).active lane.val = false ∧ (t.dev.seam (pay c.p 0 1)).retrain = some (lane.val, s.dev.tape.now)
      ∧ recorded 0x5001 none [pay c.p 0 1, lane.val, 3] s t ∧ ended 0x0503 c 0 0 t := by
  have hquiet' : (s.dev.takeAccepted 0x0503 c).nearColls = [] := (Dev.nearColls_congr rfl rfl rfl).trans hquiet
  obtain ⟨e, he, hlane⟩ := Box.queueLane_retrains (b := s.performing 0x0503 c) 3 lane.isLt (Dev.linksOnly_refl _) hquiet' hup hretrain hlaneq
    fun _ => hwidth
  have hrun : (s.performing 0x0503 c).seamCtrl (Ici.pend 0x0503 c) c.p = (s.performing 0x0503 c).onD fun _ => e.okCmd (Ici.pend 0x0503 c) := by
    rw [seamCtrl_acts hp (by omega), if_neg (by omega), if_neg (by omega), if_pos hact, hmask, Box.retrainMask_one (b := s.performing 0x0503 c) lane.isLt hup hin, he]
    rfl
  have hseam : ∀ j, (e.okCmd (Ici.pend 0x0503 c)).seam j = e.seam j := fun j => Dev.complete_seam_of ..
  obtain ⟨f, hmb, hraised⟩ := hlane.raised
  refine ⟨_, ici_performing h (f := fun k b => b.seamCtrl k c.p) hrun, ⟨rfl, rfl⟩, ?_, ?_, ?_, ?_,
    ended_of_okCmd (hlane.bare.trans (performs_bare h)) rfl⟩
  · exact (congrArg Seam.up (hseam _)).trans hlane.up
  · exact (congrArg (fun x => bitOf (Seam.active x) lane.val) (hseam _)).trans hlane.idle
  · exact (congrArg Seam.retrain (hseam _)).trans hlane.retrain
  · exact recorded_of_appended (d := f) (n := 2) hmb (by rw [State.setBox_dev, Box.onD_dev, Dev.okCmd, Dev.complete_mb]; exact hraised) (by omega)

end

/-- Settles O58, one lemma for each command and outcome. -/
theorem fabricCommandsAct : Obligations.FabricCommandsAct := by
  unfold Obligations.FabricCommandsAct
  intro c s
  refine ⟨fabConfig_answers, fun h l hrange hread hok => routeSet_answers h l hrange hread hok, fun h hp => ⟨fun hact => seamCtrl_disables h hp hact,
      fun hact hst => ?_, fun hact hst => ?_, fun lane hact hmask hup hin hwidth hretrain hlaneq hquiet =>
        seamCtrl_retrains h hp lane hact hmask hup hin hwidth hretrain hlaneq hquiet, fun hact => seamCtrl_polarity h hp hact⟩,
    fun h => ⟨fun hunits hheld => remoteMap_removes h hunits hheld,
      fun hunits halign hfits hroom hdst hother htarget hend => remoteMap_sets h hunits halign hfits hroom hdst hother htarget hend⟩,
    fun h halign hend hw => exportSet_answers h halign hend hw, tapeRefSet_answers, fun h l hi hidle hlo hhi hread =>
      ⟨fun hgood => collPlanLoad_loads h hi hidle hlo hhi hread hgood, fun f hbad => collPlanLoad_fails h hi hidle hlo hhi hread hbad⟩,
    fun h hfirst hrange hidle => collPlanUnload_answers h hfirst hrange hidle,
    fun h => ⟨fun hst => collEpochSet_sets h hst, fun hst => collEpochSet_fails h hst⟩⟩
  · obtain ⟨t, ht, hstore, hok, hseam, hother⟩ := seamCtrl_enables h hp hact
    exact ⟨t, ht, hstore, hok, hseam.trans (if_pos hst), hother⟩
  · obtain ⟨t, ht, hstore, hok, hseam, -⟩ := seamCtrl_enables h hp hact
    exact ⟨t, ht, hstore, hok, hseam.trans (if_neg hst)⟩

end Sys2Proof.Machine

/-! O43, O44. A step of the Tape may lead back behind the value at which a lane began to retrain, or at which the Yoke went down. The
record of the end then holds the negative time in µs, as the model takes the difference of two Tape values as an integer; the statements
take it as a natural number, which is 0. -/

namespace Sys2Proof.Machine

open Sys2Proof.Safety

namespace TapeSteppedBack

/-- Power is good, and the Tape stands at 0. -/
def dev : Dev := { State.reset.dev with power := { State.reset.dev.power with pwrGood := true } }

/-- Seam 0 runs on lanes 1 to 3, and lane 0 retrains since 1 ms. -/
def retraining : State :=
  ⟨[], { State.reset.box with dev := dev.setSeam 0 { Seam.init with st := 2, active := 14, retrain := some (0, 1000000) } }⟩

/-- The Yoke is down since 1 ms. -/
def silent : State := ⟨[], { State.reset.box with dev := { dev with yoke := { dev.yoke with down := some 1000000 } } }⟩

/-- The slots of the records of an event in a next state. -/
def slotsAfter (code : Nat) : Res → List (List W64)
  | .next t => (t.dev.mb.ring.filter (·.code == code)).map (·.slots)
  | _ => []

theorem slots_of_recorded {code : Nat} {ctx : Option Nat} {l : List Int} {s t : State} {r : Res} (hr : r = .next t) (h : recorded code ctx l s t) :
    l.map toW64 ∈ slotsAfter code r := by
  obtain ⟨x, hx, -, hcode, -, hslots⟩ := h
  subst hr
  exact List.mem_map.mpr ⟨x, List.mem_filter.mpr ⟨hx, beq_iff_eq.mpr hcode⟩, hslots⟩

theorem retraining_powered : retraining.dev.powered = true := by decide +kernel
theorem retraining_seam : (retraining.dev.seam 0).up = true ∧ (retraining.dev.seam 0).retrain = some (0, 1000000) ∧ (retraining.dev.seam 0).laneq = []
    ∧ retraining.dev.tape.now = 0 := by decide +kernel
theorem silent_down : silent.dev.powered = true ∧ silent.dev.yoke.down = some 1000000 ∧ 4 ≤ laneCount 255 ∧ bitOf silent.dev.power.clocksLost 0 = false
    ∧ silent.dev.tape.now = 0 := by decide +kernel

/-- The records hold −1,000 µs. -/
theorem lane_slots : slotsAfter 0x5002 (exec (.laneRetrainDone 0 0) retraining) = [[0, 0, BitVec.ofInt 64 (-1000)]] := by decide +kernel
theorem yoke_slots : slotsAfter 0x100C (exec (.yokeLinkReturn 255) silent) = [[8, BitVec.ofInt 64 (-1000)]] := by decide +kernel

end TapeSteppedBack

open TapeSteppedBack in
/-- Refutes O43: the end of a retraining that began at a later Tape value is recorded with −1,000 µs, not with 0. -/
theorem not_seamsComeUpAndTheirLanesRetrain : ¬ Obligations.SeamsComeUpAndTheirLanesRetrain := by
  unfold Obligations.SeamsComeUpAndTheirLanesRetrain
  intro h
  obtain ⟨-, -, -, -, -, -, hlane, -⟩ := h 0 retraining retraining_powered
  obtain ⟨hup, hretrain, hlaneq, hnow⟩ := retraining_seam
  obtain ⟨t, ht, -, -, -, -, hrec⟩ := (hlane 0 1000000 hup hretrain hlaneq).1 (by rw [hnow]; decide)
  have hmem := slots_of_recorded ht hrec
  rw [lane_slots, hnow] at hmem
  exact absurd hmem (by decide)

open TapeSteppedBack in
/-- Refutes O44: the return of a Yoke that went down at a later Tape value is recorded with −1,000 µs, not with 0. -/
theorem not_flitsAndYokeLanes : ¬ Obligations.FlitsAndYokeLanes := by
  unfold Obligations.FlitsAndYokeLanes
  intro h
  obtain ⟨hpowered, hdown, hlanes, hclock, hnow⟩ := silent_down
  obtain ⟨-, -, -, -, -, -, hreturn⟩ := h 64 silent hpowered
  obtain ⟨t, ht, -, -, -, -, hrec⟩ := hreturn 255 1000000 hdown hlanes hclock
  have hmem := slots_of_recorded ht hrec
  rw [yoke_slots, hnow] at hmem
  exact absurd hmem (by decide)

end Sys2Proof.Machine

/-! SUPPORT. The command queues: their indices, the management queue's control register, what is fetched, accepted and answered
(14 R413 to R418, R422). -/

namespace Sys2Proof.Machine

open Sys2Proof.Safety

/-! ### A queue in ERROR (14 R416) -/

/-- The device with a queue in ERROR, before its message goes out. -/
def Dev.erred (d : Dev) (q kind : Nat) : Dev :=
  ((d.updQueue q fun x => { x with error := true }).setDevirq 1).raise 0x1004 (dieSelvage 0) false none [q, kind]

theorem Box.queueError_erred (b : Box) (q kind : Nat) : ∃ msgs, (b.queueError q kind).dev
    = { b.dev.erred q kind with yoke := { (b.dev.erred q kind).yoke with msgs := msgs } } := (b.onD fun d => d.erred q kind).flushMsgs_frame

theorem Dev.erred_queue (d : Dev) (q kind : Nat) : (d.erred q kind).queue q = { d.queue q with error := true } := by
  rw [Dev.erred, Dev.raise_queue_of]
  exact Dev.setQueue_queue_same ..

theorem Dev.erred_devirq (d : Dev) (q kind : Nat) : bitOf (d.erred q kind).yoke.devirq 1 = true := by
  rw [Dev.erred, Dev.raise_yoke]
  exact Dev.setDevirq_bit _ (by decide)

/-- The queue is in ERROR with its interrupt bit and its event. -/
theorem queueError_answers (s : State) (q kind : Nat) :
    ((s.setBox (s.box.queueError q kind)).dev.queue q = { s.dev.queue q with error := true })
      ∧ bitOf (s.setBox (s.box.queueError q kind)).dev.yoke.devirq 1 = true
      ∧ recorded 0x1004 none [q, kind] s (s.setBox (s.box.queueError q kind)) := by
  obtain ⟨msgs, hdev⟩ := s.box.queueError_erred q kind
  rw [State.setBox_dev, hdev]
  refine ⟨s.dev.erred_queue q kind, s.dev.erred_devirq q kind, ?_⟩
  exact recorded_of_raise_mb (d := (s.dev.updQueue q fun x => { x with error := true }).setDevirq 1) (die := dieSelvage 0) (fw := false) rfl
    (by rw [State.setBox_dev, hdev]; rfl)

/-! ### Doorbells (14 R416) -/

section
variable {q : Fin 9} {v : W32} {s : State}

theorem queueDoorbell_takes (hon : (s.dev.queue q.val).enable = true) (hok : (s.dev.queue q.val).error = false)
    (hin : v.toNat < 2 ^ (s.dev.queue q.val).log2)
    (hroom : (s.dev.queue q.val).dist (s.dev.queue q.val).tail v.toNat
      ≤ 2 ^ (s.dev.queue q.val).log2 - 1 - (s.dev.queue q.val).dist (s.dev.queue q.val).head (s.dev.queue q.val).tail) :
    ∃ t, exec (.queueDoorbell q v) s = .next t ∧ sameStore s t ∧ t.dev = s.dev.setQueue q.val { s.dev.queue q.val with tail := v.toNat } := by
  have hfault : (s.box.dev.queue q.val).tailFault v.toNat = none := by
    unfold Queue.tailFault
    exact (if_neg (Nat.not_le.mpr hin)).trans (if_neg (Nat.not_lt.mpr hroom))
  have hrun : s.box.doorbell q.val v.toNat = s.box.onD fun d => d.updQueue q.val fun x => { x with tail := v.toNat } := by
    unfold Box.doorbell
    dsimp only
    rw [hfault]
    exact if_neg (by rw [show (s.box.dev.queue q.val).enable = true from hon, show (s.box.dev.queue q.val).error = false from hok]; decide)
  exact on_answers_onD (s := s) (f := fun b => b.doorbell q.val v.toNat) hrun

theorem queueDoorbell_errs (hon : (s.dev.queue q.val).enable = true) (hok : (s.dev.queue q.val).error = false) (hbare : s.dev.bare = false)
    (hbad : 2 ^ (s.dev.queue q.val).log2 ≤ v.toNat
      ∨ 2 ^ (s.dev.queue q.val).log2 - 1 - (s.dev.queue q.val).dist (s.dev.queue q.val).head (s.dev.queue q.val).tail
        < (s.dev.queue q.val).dist (s.dev.queue q.val).tail v.toNat) :
    ∃ t k, exec (.queueDoorbell q v) s = .next t ∧ t.dev.queue q.val = { s.dev.queue q.val with error := true }
      ∧ bitOf t.dev.yoke.devirq 1 = true ∧ recorded 0x1004 none [q.val, k] s t := by
  have hfault : ∃ k, (s.box.dev.queue q.val).tailFault v.toNat = some k := by
    unfold Queue.tailFault
    by_cases hbits : (s.box.dev.queue q.val).size ≤ v.toNat
    · exact ⟨0, if_pos hbits⟩
    · exact ⟨1, (if_neg hbits).trans (if_pos (hbad.resolve_left hbits))⟩
  obtain ⟨k, hk⟩ := hfault
  have hrun : s.box.doorbell q.val v.toNat = s.box.queueError q.val k := by
    unfold Box.doorbell
    dsimp only
    rw [hk]
    refine (if_neg ?_).trans (if_neg ?_)
    · rw [show (s.box.dev.queue q.val).enable = true from hon, show (s.box.dev.queue q.val).error = false from hok]
      decide
    · rw [show s.box.dev.bare = false from hbare]
      decide
  exact ⟨_, k, congrArg (fun b => Host.Outcome.next (s.setBox b)) hrun, queueError_answers s q.val k⟩

theorem cqheadWrite_takes (hok : (s.dev.queue q.val).error = false) (hin : v.toNat < 2 ^ (s.dev.queue q.val).log2)
    (hpass : (s.dev.queue q.val).dist (s.dev.queue q.val).cqHead v.toNat
      ≤ (s.dev.queue q.val).dist (s.dev.queue q.val).cqHead (s.dev.queue q.val).cqTail) :
    ∃ t, exec (.cqheadWrite q v) s = .next t ∧ sameStore s t ∧ t.dev = s.dev.setQueue q.val { s.dev.queue q.val with cqHead := v.toNat } := by
  have hrun : s.box.cqHeadWrite q.val v.toNat = s.box.onD fun d => d.updQueue q.val fun x => { x with cqHead := v.toNat } := by
    unfold Box.cqHeadWrite
    refine (if_neg (by rw [show (s.box.dev.queue q.val).error = false from hok]; decide)).trans (if_neg ?_)
    rintro (hbits | hout)
    · exact absurd hin (Nat.not_lt.mpr hbits)
    · exact absurd hpass (Nat.not_le.mpr hout)
  exact on_answers_onD (s := s) (f := fun b => b.cqHeadWrite q.val v.toNat) hrun

/-! ### The control register of the management queue (14 R413) -/

theorem mgmtEnable_checks (hv : bitOf v 4 = true) (hoff : (s.dev.queue 8).enable = false) : s.box.mgmtEnable v =
    if s.dev.ringsOk (s.dev.queue 8).sqBase (s.dev.queue 8).cqBase (fld v 0 4)
    then (s.box.onD fun d => d.updQueue 8 fun x => x.ctrlFields v).onD fun d => d.updQueue 8 Queue.enabled
    else (s.box.onD fun d => d.updQueue 8 fun x => x.ctrlFields v).queueError 8 4 := by
  have hfields : (s.dev.updQueue 8 fun x => x.ctrlFields v).queue 8 = (s.dev.queue 8).ctrlFields v := Dev.setQueue_queue_same ..
  have hlog : ((s.dev.queue 8).ctrlFields v).log2 = fld v 0 4 := if_neg (by rw [hoff]; decide)
  unfold Box.mgmtEnable
  refine (if_neg (by rw [hv]; decide)).trans ?_
  refine (if_neg (by rw [show (s.box.dev.queue 8).enable = false from hoff]; decide)).trans ?_
  rw [Box.onD_dev, show s.box.dev = s.dev from rfl, hfields, hlog]
  rfl

theorem mgmtQueueEnable_enables (hv : bitOf v 4 = true) (hoff : (s.dev.queue 8).enable = false)
    (hrings : s.dev.ringsOk (s.dev.queue 8).sqBase (s.dev.queue 8).cqBase (fld v 0 4) = true) :
    ∃ t, exec (.mgmtQueueEnable v) s = .next t ∧ sameStore s t
      ∧ t.dev = s.dev.setQueue 8 { s.dev.queue 8 with
          log2 := fld v 0 4, irqAll := bitOf v 5, enable := true, error := false, tail := 0, head := 0, cqHead := 0, cqTail := 0, phase := true } := by
  obtain ⟨t, ht, hstore, hdev⟩ := on_answers_onD (s := s) (f := fun b => b.mgmtEnable v)
    (g := fun d => (d.updQueue 8 fun x => x.ctrlFields v).updQueue 8 Queue.enabled) ((mgmtEnable_checks hv hoff).trans (if_pos hrings))
  refine ⟨t, ht, hstore, hdev.trans ?_⟩
  have hfields : (s.dev.updQueue 8 fun x => x.ctrlFields v).queue 8 = (s.dev.queue 8).ctrlFields v := Dev.setQueue_queue_same ..
  have hlog : (if (s.dev.queue 8).enable then (s.dev.queue 8).log2 else fld v 0 4) = fld v 0 4 := if_neg (by rw [hoff]; decide)
  rw [Dev.updQueue, hfields, Dev.updQueue, Queue.ctrlFields, hlog]
  simp only [Dev.setQueue, put_put_same]
  rfl

theorem mgmtQueueEnable_errs (hv : bitOf v 4 = true) (hoff : (s.dev.queue 8).enable = false)
    (hrings : s.dev.ringsOk (s.dev.queue 8).sqBase (s.dev.queue 8).cqBase (fld v 0 4) = false) :
    ∃ t, exec (.mgmtQueueEnable v) s = .next t ∧ (t.dev.queue 8).enable = false ∧ (t.dev.queue 8).error = true := by
  have hrun := (mgmtEnable_checks hv hoff).trans (if_neg (by rw [hrings]; decide))
  obtain ⟨msgs, hdev⟩ := (s.box.onD fun d => d.updQueue 8 fun x => x.ctrlFields v).queueError_erred 8 4
  have hfields : (s.dev.updQueue 8 fun x => x.ctrlFields v).queue 8 = (s.dev.queue 8).ctrlFields v := Dev.setQueue_queue_same ..
  have hqueue : (s.setBox ((s.box.onD fun d => d.updQueue 8 fun x => x.ctrlFields v).queueError 8 4)).dev.queue 8
      = { (s.dev.queue 8).ctrlFields v with error := true } := by
    rw [State.setBox_dev, hdev]
    exact (Dev.erred_queue ..).trans (congrArg (fun x : Queue => { x with error := true }) hfields)
  exact ⟨_, congrArg (fun b => Host.Outcome.next (s.setBox b)) hrun, by rw [hqueue]; exact hoff, by rw [hqueue]⟩

theorem mgmtQueueDisable_answers (hv : bitOf v 4 = false) : ∃ t, exec (.mgmtQueueDisable v) s = .next t ∧ sameStore s t
    ∧ t.dev = s.dev.setQueue 8 { s.dev.queue 8 with
        log2 := (if (s.dev.queue 8).enable then (s.dev.queue 8).log2 else fld v 0 4), irqAll := bitOf v 5, enable := false } :=
  onDev_answers_of_eq (s := s) (f := fun d => d.mgmtDisable v) (if_neg (by rw [hv]; decide))

/-! ### Fetching and acceptance (14 R414, R415, R422) -/

theorem entryFetch_answers (hserving : s.dev.serving = true) (hon : (s.dev.queue q.val).enable = true) (hok : (s.dev.queue q.val).error = false)
    (hup : s.dev.yoke.down = none) (hnew : (s.dev.queue q.val).head ≠ (s.dev.queue q.val).tail) (hdel : s.dev.deleting q.val = false)
    (hroom : s.dev.fetchRoom q.val = true) (hheld : s.dev.heldRing ((s.dev.queue q.val).sqBase + 64 * (s.dev.queue q.val).head) 64 = false)
    (htrip : s.dev.tripHolds ((s.dev.queue q.val).sqBase + 64 * (s.dev.queue q.val).head) 64 = false)
    (haddr : s.dev.addressable ((s.dev.queue q.val).sqBase + 64 * (s.dev.queue q.val).head) 64 = true)
    (hclean : anyBad (s.store.rdMem ((s.dev.queue q.val).sqBase + 64 * (s.dev.queue q.val).head) 64) = false) :
    ∃ t, exec (.entryFetch q) s = .next t ∧ sameStore s t ∧ t.dev = s.dev.setQueue q.val { s.dev.queue q.val with
      head := ((s.dev.queue q.val).head + 1) % 2 ^ (s.dev.queue q.val).log2
      fetched := (s.dev.queue q.val).fetched
        ++ [BitVec.ofNat 512 (leNat (s.store.mem.read ((s.dev.queue q.val).sqBase + 64 * (s.dev.queue q.val).head) 64))] } := by
  have hpass : ¬(!s.dev.serving || !(s.dev.queue q.val).enable || (s.dev.queue q.val).error || s.dev.yoke.down.isSome
      || (s.dev.queue q.val).head == (s.dev.queue q.val).tail || s.dev.deleting q.val || !s.dev.fetchRoom q.val) = true := by
    rw [hserving, hon, hok, hup, beq_false_of_ne hnew, hdel, hroom]
    decide
  have hread : ¬(anyBad (s.store.rdMem ((s.dev.queue q.val).sqBase + 64 * (s.dev.queue q.val).head) 64)
      || !s.dev.addressable ((s.dev.queue q.val).sqBase + 64 * (s.dev.queue q.val).head) 64) = true := by
    rw [hclean, haddr]
    decide
  have hrun : s.box.fetchEntry q.val = s.box.onD fun d => d.updQueue q.val fun x => { x with
      head := (x.head + 1) % x.size
      fetched := x.fetched ++ [BitVec.ofNat 512 (leNat (bytesOf (s.store.rdMem ((s.dev.queue q.val).sqBase + 64 * (s.dev.queue q.val).head) 64)))] } := by
    unfold Box.fetchEntry
    exact (if_neg hpass).trans ((if_neg (by rw [show s.box.dev = s.dev from rfl, hheld]; decide)).trans
      ((if_neg (by rw [show s.box.dev = s.dev from rfl, htrip]; decide)).trans (if_neg hread)))
  obtain ⟨t, ht, hstore, hdev⟩ := on_answers_onD (s := s) (f := fun b => b.fetchEntry q.val) hrun
  rw [bytesOf_rdMem] at hdev
  exact ⟨t, ht, hstore, hdev⟩

/-- The device that has taken the first fetched entry of a queue. -/
def Dev.fetchTaken (d : Dev) (q : Nat) : Dev :=
  (if q = 8 then d else { d with yoke := { d.yoke with lastServed := q } }).updQueue q fun x => { x with fetched := x.fetched.drop 1 }

theorem Dev.fetchTaken_queue (d : Dev) (q : Nat) : (d.fetchTaken q).queue q = { d.queue q with fetched := (d.queue q).fetched.drop 1 } := by
  unfold Dev.fetchTaken
  refine (Dev.setQueue_queue_same ..).trans ?_
  split <;> rfl

theorem Dev.fetchTaken_bare (d : Dev) (q : Nat) : (d.fetchTaken q).bare = d.bare := by
  unfold Dev.fetchTaken
  split <;> rfl

theorem Dev.acceptNext_takes {d : Dev} {q : Nat} {e : BitVec 512} (hserving : d.serving = true) (hnone : d.accepting = false)
    (hnext : d.nextQueue = some q) (hentry : d.acceptable q = some e) : d.acceptNext = match d.entryRefused q e with
      | some r => (d.fetchTaken q).refuse (entryPend q e) r
      | none => (d.fetchTaken q).updQueue q fun x => { x with accepted := x.accepted ++ [e] } := by
  unfold Dev.acceptNext
  rw [if_neg (by rw [hserving, hnone]; decide), hnext]
  dsimp only
  rw [hentry]
  rfl

theorem Dev.not_bare_of_serving {d : Dev} (h : d.serving = true) : d.bare = false := by
  simp only [Dev.serving, Dev.ready, Bool.and_eq_true, beq_iff_eq] at h
  have hmode : d.yoke.mode = 1 := by tauto
  rw [Dev.bare, hmode]
  rfl

section
variable {q : Nat} {e : BitVec 512} {s : State} (hserving : s.dev.serving = true) (hnone : s.dev.accepting = false)
  (hnext : s.dev.nextQueue = some q) (hentry : s.dev.acceptable q = some e)
include hserving hnone hnext hentry

theorem commandAccept_accepts (hok : s.dev.entryRefused q e = none) : ∃ t, exec .commandAccept s = .next t ∧ sameStore s t
    ∧ t.dev.queue q = { s.dev.queue q with fetched := (s.dev.queue q).fetched.drop 1, accepted := (s.dev.queue q).accepted ++ [e] } := by
  have hrun := Dev.acceptNext_takes hserving hnone hnext hentry
  rw [hok] at hrun
  dsimp only at hrun
  obtain ⟨t, ht, hstore, hdev⟩ := onDev_answers_of_eq (s := s) (f := Dev.acceptNext) hrun
  refine ⟨t, ht, hstore, ?_⟩
  rw [hdev]
  exact (Dev.setQueue_queue_same ..).trans (by rw [Dev.fetchTaken_queue])

theorem commandAccept_refuses {r : Refused} (hbad : s.dev.entryRefused q e = some r) : ∃ t, exec .commandAccept s = .next t ∧ sameStore s t
    ∧ t.dev.queue q = { s.dev.queue q with
        fetched := (s.dev.queue q).fetched.drop 1, due := (s.dev.queue q).due ++ [⟨entryPend q e, r.1, r.2.1, 0, 0⟩] } := by
  have hrun := Dev.acceptNext_takes hserving hnone hnext hentry
  rw [hbad] at hrun
  dsimp only at hrun
  obtain ⟨t, ht, hstore, hdev⟩ := onDev_answers_of_eq (s := s) (f := Dev.acceptNext) hrun
  refine ⟨t, ht, hstore, ?_⟩
  rw [hdev]
  unfold Dev.refuse
  generalize [((entryPend q e).q : Int), ((entryPend q e).opc : Int), ((entryPend q e).tag.toNat : Int)] ++ r.2.2 = args
  have hbare : ((s.dev.fetchTaken q).evFw r.2.1 none args).bare = false :=
    (Dev.raise_bare_of ..).trans ((s.dev.fetchTaken_bare q).trans (Dev.not_bare_of_serving hserving))
  have hqueue : ((s.dev.fetchTaken q).evFw r.2.1 none args).queue q = { s.dev.queue q with fetched := (s.dev.queue q).fetched.drop 1 } :=
    (Dev.raise_queue_of ..).trans (s.dev.fetchTaken_queue q)
  rw [Dev.complete_queue _ _ _ _ _ _ _ hbare, hqueue]
  exact if_pos rfl

end

/-! ### Completions (14 R417, R418) -/

theorem completionBytes_length (x : Queue) (c : Completion) (now : Nat) : (completionBytes x c now).length = 32 := by
  simp only [completionBytes, List.length_append, leBytes_length]

/-- The interrupt message of a completion. -/
def Queue.irqMsgs (x : Queue) (c : Completion) : List (Nat × W32) :=
  if (c.cmd.irq || x.irqAll) && x.irqAddr.toNat / 4 * 4 != 0 then [(x.irqAddr.toNat / 4 * 4, x.irqData)] else []

theorem Dev.queueIrq_eq (d : Dev) (q : Nat) (c : Completion) :
    d.queueIrq q c = { d with yoke := { d.yoke with msgs := d.yoke.msgs ++ (d.queue q).irqMsgs c } } := by
  unfold Dev.queueIrq Queue.irqMsgs
  dsimp only
  split
  · rfl
  · rw [List.append_nil]

theorem Dev.settleDeletes_none {d : Dev} (h : ∀ j, d.deleting j = false) : d.settleDeletes = d := by
  have hgone : ((List.range 8).filter fun q => d.deleting q && d.queueEmpty q) = [] := by simp [h]
  unfold Dev.settleDeletes
  rw [hgone]
  rfl

section
variable {q : Fin 9} {s : State} {c : Completion} {l : List Completion}

/-- The device once the oldest completion of a queue stands in its ring, its message waiting. -/
def Dev.completed (d : Dev) (q : Nat) (c : Completion) : Dev :=
  ((d.recalled (linesOf ((d.queue q).cqBase + 32 * (d.queue q).cqTail) 32)).updQueue q Queue.advanceCq).queueIrq q c

theorem Dev.completed_queue (d : Dev) (q : Nat) (c : Completion) : (d.completed q c).queue q = (d.queue q).advanceCq := by
  rw [Dev.completed, Dev.queueIrq_eq]
  exact Dev.setQueue_queue_same ..

theorem Dev.completed_msgs {d : Dev} {q : Nat} {c : Completion} (h : d.yoke.msgs = []) : (d.completed q c).yoke.msgs = (d.queue q).irqMsgs c := by
  have hqueue : (((d.recalled (linesOf ((d.queue q).cqBase + 32 * (d.queue q).cqTail) 32)).updQueue q Queue.advanceCq).queue q)
      = (d.queue q).advanceCq := Dev.setQueue_queue_same ..
  rw [Dev.completed, Dev.queueIrq_eq, hqueue]
  exact (congrArg (· ++ _) h).trans (List.nil_append _)

theorem Box.writeCompletion_writes {b : Box} {q : Nat} (hdue : (b.dev.queue q).due = c :: l) (hready : b.dev.ready = true)
    (hactive : b.dev.cutter.active ≠ none) (hup : b.dev.yoke.down = none)
    (hheld : b.dev.heldRing ((b.dev.queue q).cqBase + 32 * (b.dev.queue q).cqTail) 32 = false)
    (htrip : b.dev.tripHolds ((b.dev.queue q).cqBase + 32 * (b.dev.queue q).cqTail) 32 = false) (hdel : ∀ j, b.dev.deleting j = false)
    (hprot : ∀ g ∈ granulesOf ((b.dev.queue q).cqBase + 32 * (b.dev.queue q).cqTail) 32, b.dev.protector g = none) :
    b.writeCompletion q = Box.flushMsgs ⟨b.store.wrMem ((b.dev.queue q).cqBase + 32 * (b.dev.queue q).cqTail)
      (clean (completionBytes (b.dev.queue q) c b.dev.now)), b.dev.completed q c⟩ := by
  have hlen := completionBytes_length (b.dev.queue q) c b.dev.now
  unfold Box.writeCompletion
  dsimp only
  rw [hdue]
  dsimp only
  rw [if_neg, if_neg (by rw [hheld]; decide), if_neg (by rw [htrip]; decide), Box.wrClean_unprotected (by rw [hlen]; exact hprot), hlen]
  · have hsettle : (b.dev.completed q c).settleDeletes = b.dev.completed q c := Dev.settleDeletes_none (by
      rw [Dev.completed, Dev.queueIrq_eq]
      exact hdel)
    exact congrArg (fun d => Box.flushMsgs ⟨_, d⟩) hsettle
  · rw [hready, hup, Bool.not_true, Bool.false_or, Option.isSome_none, Bool.or_false, Option.isNone_iff_eq_none]
    exact hactive

theorem completionWrite_answers (hdue : (s.dev.queue q.val).due = c :: l) (hready : s.dev.ready = true) (hactive : s.dev.cutter.active ≠ none)
    (hup : s.dev.yoke.down = none) (hmsgs : s.dev.yoke.msgs = [])
    (hheld : s.dev.heldRing ((s.dev.queue q.val).cqBase + 32 * (s.dev.queue q.val).cqTail) 32 = false)
    (htrip : s.dev.tripHolds ((s.dev.queue q.val).cqBase + 32 * (s.dev.queue q.val).cqTail) 32 = false) (hdel : ∀ j, s.dev.deleting j = false)
    (hok : memoryOk s) (hprot : ∀ g ∈ granulesOf ((s.dev.queue q.val).cqBase + 32 * (s.dev.queue q.val).cqTail) 32, s.dev.protector g = none) :
    ∃ t, exec (.completionWrite q) s = .next t ∧ t.pending = s.pending ∧ t.dev.yoke.msgs = []
      ∧ t.dev.queue q.val = (s.dev.queue q.val).advanceCq
      ∧ ((s.dev.queue q.val).irqMsgs c = [] →
          wrote ((s.dev.queue q.val).cqBase + 32 * (s.dev.queue q.val).cqTail) (completionBytes (s.dev.queue q.val) c s.dev.tape.now) s t)
      ∧ ∀ a v, (s.dev.queue q.val).irqMsgs c = [(a, v)] → t.store.mem.read (companionBase + a % 2 ^ 48) 4 = leBytes 4 v.toNat := by
  have hrun := Box.writeCompletion_writes (b := s.box) hdue hready hactive hup hheld htrip hdel hprot
  have hup' : (s.dev.completed q.val c).yoke.down = none := by
    rw [Dev.completed, Dev.queueIrq_eq]
    exact hup
  let b : Box := ⟨s.store.wrMem ((s.dev.queue q.val).cqBase + 32 * (s.dev.queue q.val).cqTail)
    (clean (completionBytes (s.dev.queue q.val) c s.dev.tape.now)), s.dev.completed q.val c⟩
  have hwaits : b.dev.yoke.msgs = (s.dev.queue q.val).irqMsgs c := s.dev.completed_msgs hmsgs
  obtain ⟨msgs, hdev⟩ := b.flushMsgs_frame
  refine ⟨s.setBox b.flushMsgs, congrArg (fun b => Host.Outcome.next (s.setBox b)) hrun, rfl, ?_, ?_, ?_, ?_⟩
  · rw [State.setBox_dev]
    exact Box.flushMsgs_sent hup'
  · rw [State.setBox_dev, hdev]
    exact s.dev.completed_queue q.val c
  · intro hnone
    exact wrote_wrMem hok (Box.flushMsgs_store (hwaits.trans hnone))
  · intro a v hone
    have hstore : (s.setBox b.flushMsgs).store = b.store.wrMem (companionBase + a % 2 ^ 48) (clean (leBytes 4 v.toNat)) :=
      Box.flushMsgs_one hup' (hwaits.trans hone)
    rw [hstore]
    exact read_wrMem_clean (Store.wrMem_wf _ _ _ hok) _ (leBytes_length ..)

end

end

/-- Settles O37. -/
theorem queuesTakeAndAnswerCommands : Obligations.QueuesTakeAndAnswerCommands := by
  intro q v s x m only
  refine ⟨fun hon hok => ⟨queueDoorbell_takes hon hok, queueDoorbell_errs hon hok⟩, cqheadWrite_takes,
    fun hv hoff => ⟨mgmtQueueEnable_enables hv hoff, mgmtQueueEnable_errs hv hoff⟩, mgmtQueueDisable_answers, entryFetch_answers,
    fun e hserving hnone hnext hentry => ⟨commandAccept_accepts hserving hnone hnext hentry,
      fun r => commandAccept_refuses hserving hnone hnext hentry⟩, ?_⟩
  intro c l hdue hready hactive hup hmsgs hheld htrip hdel hok hprot tail irq
  obtain ⟨t, ht, hpending, hsent, hqueue, hquiet, hmsg⟩ := completionWrite_answers hdue hready hactive hup hmsgs hheld htrip hdel hok hprot
  refine ⟨t, ht, hpending, hsent, ?_, fun hirq => hquiet ?_, fun hirq => hmsg _ _ ?_⟩
  · rw [hqueue]
    exact congrArg (fun due => { x with due := due, cqTail := tail, phase := if tail = 0 then !x.phase else x.phase }) (congrArg (List.drop 1) hdue)
  · exact if_neg (by rw [show ((c.cmd.irq || x.irqAll) && x.irqAddr.toNat / 4 * 4 != 0) = false from hirq]; decide)
  · exact if_pos hirq

end Sys2Proof.Machine

/-! O36. A read request of this device may come back to it as a transit packet: its source is this device, its destination another. With no
Seam to that destination the read completes with status 3, which poisons its lines; the statement asks that the store be unchanged. -/

namespace Sys2Proof.Machine

open Sys2Proof.Safety

namespace RequestComesBack

/-- A read of line 0 of device 2, with TAG 0. -/
def request : RemoteReq := { kind := 0, tag := 0, dev := 2, addr := 0, len := 64, act := none, ctx := 0, port := none }

/-- Its packet, on its way from device 1. -/
def packet : Packet := mkPacket 2 1 1 0 0 (packFields [(1, 52)]) 0 []

/-- Device 1 forwards, has Seam 0 up and no routing entry, and waits for the read. -/
def waiting : State :=
  let d := State.reset.dev.setSeam 0 { Seam.init with st := 2 }
  ⟨[], { State.reset.box with dev := { d with fab := { d.fab with deviceId := 1, forwarding := true, remote := [request] } } }⟩

theorem waiting_transit : (waiting.dev.seam 0).up = true ∧ waiting.dev.delivers packet = false ∧ waiting.dev.fab.deviceId.toNat ≠ 0xFFFF
    ∧ waiting.dev.fab.forwarding = true ∧ packet.sr = false := by decide +kernel

/-- The poisoned lines of a next state. -/
def poisonAfter : Res → List Nat
  | .next t => t.store.memPoison
  | _ => []

theorem forward_poisons : poisonAfter (exec (.packetForward 0 packet) waiting) = [0] ∧ waiting.store.memPoison = [] := by decide +kernel

end RequestComesBack

open RequestComesBack in
/-- Refutes O36: a read request that came back to its source and cannot be sent on ends with status 3 and poisons the line that it reads. -/
theorem not_packetsAreServed : ¬ Obligations.PacketsAreServed := by
  unfold Obligations.PacketsAreServed
  intro h
  obtain ⟨hup, htransit, hid, hforwards, hsr⟩ := waiting_transit
  obtain ⟨hpoisons, hclean⟩ := forward_poisons
  obtain ⟨hforward, -⟩ := h 0 packet waiting
  obtain ⟨t, ht, ⟨hstore, -⟩, -⟩ := (hforward hup htransit hid hforwards).1 hsr
  rw [ht, poisonAfter, hstore, hclean] at hpoisons
  exact absurd hpoisons (by decide)

end Sys2Proof.Machine

/-! SUPPORT. What only goes one way while contexts stop and clusters retire: spares are used up, retirements stay recorded, and no collective
begins (12 R391; 15 R444 to R447). -/

namespace Sys2Proof.Machine

open Sys2Proof.Safety

/-- No spare and no instance more, and every retirement still recorded. -/
structure Dev.Wears (d e : Dev) : Prop where
  spares : ∀ b, ∀ p ∈ (e.bolt b).spares, p ∈ (d.bolt b).spares
  retired : ∀ x ∈ d.health.retired, x ∈ e.health.retired
  insts : ∀ i ∈ e.fab.insts, i ∈ d.fab.insts

namespace Dev.Wears

theorem refl (d : Dev) : d.Wears d := ⟨fun _ _ h => h, fun _ h => h, fun _ h => h⟩

theorem trans {d e f : Dev} (h : d.Wears e) (h' : e.Wears f) : d.Wears f :=
  ⟨fun b p hp => h.spares b p (h'.spares b p hp), fun x hx => h'.retired x (h.retired x hx), fun i hi => h.insts i (h'.insts i hi)⟩

/-- The same, with the later change first. -/
theorem after {d e f : Dev} (h' : e.Wears f) (h : d.Wears e) : d.Wears f := h.trans h'

/-- A change that touches none of the three. -/
theorem of_same {d e : Dev} (hb : e.bolts = d.bolts) (hr : e.health.retired = d.health.retired) (hi : e.fab.insts = d.fab.insts) : d.Wears e :=
  ⟨fun b p hp => by rwa [Dev.bolt, hb] at hp, fun _ hx => hr ▸ hx, fun _ hj => hi ▸ hj⟩

theorem foldl {α : Type} {f : Dev → α → Dev} (h : ∀ (d : Dev) (a : α), d.Wears (f d a)) (l : List α) (d : Dev) : d.Wears (l.foldl f d) :=
  List.foldlRecOn l f (motive := d.Wears) (refl d) fun e he a _ => he.trans (h e a)

theorem foldlBox {α : Type} {f : Box → α → Box} (h : ∀ (b : Box) (a : α), b.dev.Wears (f b a).dev) (l : List α) (b : Box) :
    b.dev.Wears (l.foldl f b).dev :=
  List.foldlRecOn l f (motive := fun e => b.dev.Wears e.dev) (refl b.dev) fun e he a _ => he.trans (h e a)

theorem raise (d : Dev) (code die : Nat) (fw : Bool) (ctx : Option Nat) (l : List Int) : d.Wears (d.raise code die fw ctx l) :=
  of_same (Dev.raise_bolts ..) (congrArg HealthSt.retired (Dev.raise_health ..)) (congrArg FabSt.insts (Dev.raise_fab ..))

theorem complete (d : Dev) (k : Pend) (status event : Nat) (detail : W32) (result : W64) :
    d.Wears (d.complete k status event detail result) :=
  of_same (Dev.complete_bolts ..) (congrArg HealthSt.retired (Dev.complete_health ..)) (congrArg FabSt.insts (Dev.complete_fab ..))

theorem endOpens (d : Dev) (p : OpenCmd → Bool) (status event : Nat) (detail : W32) (result : W64) :
    d.Wears (d.endOpens p status event detail result) :=
  after (foldl (fun d (o : OpenCmd) => complete d o.cmd status event detail result) _ _) (of_same rfl rfl rfl)

/-- A Bolt gets no spare. -/
theorem updBolt {d : Dev} {b : Nat} {f : Bolt → Bolt} (h : ∀ x, ∀ p ∈ (f x).spares, p ∈ x.spares) : d.Wears (d.updBolt b f) := by
  refine ⟨fun j p hp => ?_, fun _ hx => hx, fun _ hi => hi⟩
  by_cases hj : j = b
  · subst hj
    rw [Dev.bolt, Dev.updBolt, getD_put_same] at hp
    exact h _ p hp
  · rw [Dev.bolt, Dev.updBolt, getD_put_ne _ _ _ hj] at hp
    exact hp

/-- A change of the retirements and the clusters that are due, with no retirement forgotten. -/
theorem retire {d : Dev} {l : List RetireDue} {x : HealthSt} (h : ∀ y ∈ d.health.retired, y ∈ x.retired) :
    d.Wears { d with retireDue := l, health := x } := ⟨fun _ _ hp => hp, h, fun _ hi => hi⟩

theorem abandonBaste (d : Dev) (id reason : Nat) : d.Wears (d.abandonBaste id reason) := by
  unfold Dev.abandonBaste
  dsimp only
  exact after (endOpens ..) (after (raise ..) (of_same rfl rfl rfl))

/-! ### Writes of device memory, and collectives that fail -/

theorem copyGranule (b : Box) (g : Nat) : b.dev.Wears (b.copyGranule g).dev := by
  unfold Box.copyGranule
  split
  · exact refl _
  · split
    · exact abandonBaste ..
    · exact of_same rfl rfl rfl

theorem wrDev (b : Box) (a : Nat) (l : List PB) : b.dev.Wears (b.wrDev a l).dev :=
  trans (foldlBox copyGranule (granulesOf a l.length) b) (of_same rfl rfl rfl)

theorem undefEls (b : Box) (t : Desc) (first len : Nat) : b.dev.Wears (b.undefEls t first len).dev := by
  unfold Box.undefEls
  split
  · exact foldlBox (fun b (r : Nat × List PB) => wrDev b r.1 r.2) _ b
  · exact refl _

theorem linksOnly {d e : Dev} (h : d.linksOnly e) : d.Wears e := by
  obtain ⟨_, _, _, rfl, -⟩ := h
  exact of_same rfl rfl rfl

theorem sendCtrl (d : Dev) (dst plan inst kind status slip : Nat) : d.Wears (d.sendCtrl dst plan inst kind status slip) := by
  unfold Dev.sendCtrl Dev.sendRouted
  split
  · exact refl d
  · split
    · exact linksOnly (d.linksOnly_handPacket _ _)
    · exact after (raise ..) (of_same rfl rfl rfl)

/-- ABORT goes to the other members. -/
theorem tellAll (d : Dev) (abort : Bool) (l : List Nat) (f : Nat → Nat) (plan inst status : Nat) :
    d.Wears (if abort then l.foldl (fun d m => d.sendCtrl (f m) plan inst 3 status 0) d else d) := by
  split
  · exact foldl (fun d m => sendCtrl d (f m) plan inst 3 status 0) l d
  · exact refl d

/-- A device without an instance, and with a fault more or not. -/
theorem dropColl {d : Dev} {p : CollInst → Bool} {x : HealthSt} (h : x.retired = d.health.retired) :
    d.Wears { d with fab := { d.fab with insts := d.fab.insts.filter p }, health := x } :=
  ⟨fun _ _ hp => hp, fun _ hx => h.symm ▸ hx, fun _ hi => (List.mem_filter.mp hi).1⟩

theorem failColl (b : Box) (i : CollInst) (status reporter : Nat) (abort : Bool) : b.dev.Wears (b.failColl i status reporter abort).dev := by
  have hhealth : ∀ d : Dev, (if 1 ≤ status ∧ status ≤ 3 then { d.health with faults := d.health.faults + 1 } else d.health).retired
      = d.health.retired := fun d => by split <;> rfl
  unfold Box.failColl
  dsimp only
  split
  · exact after (undefEls ..) (after (dropColl (hhealth _)) (after (raise ..) (tellAll ..)))
  · exact after (dropColl (hhealth _)) (after (raise ..) (tellAll ..))

theorem failColls (b : Box) (ctx status : Nat) : b.dev.Wears (b.failColls ctx status).dev :=
  foldlBox (fun b i => failColl b i status (getD b.dev.fab.plans i.plan ⟨0, 0, [], 0⟩).self true) _ b

/-! ### The end of a run -/

theorem setSt (d : Dev) (n : Nat) (st : CtxState) (opc : Nat) : d.Wears (d.setSt n st opc) := by
  have hupd : d.Wears (d.updCtx n fun c => { c with st := st }) := of_same rfl rfl rfl
  have hraised : ∀ slots, d.Wears (if (d.updCtx n fun c => { c with st := st }).bare then d.updCtx n fun c => { c with st := st }
      else (d.updCtx n fun c => { c with st := st }).evFw 0x0002 (some n) slots) := by
    intro slots
    split
    · exact hupd
    · exact hupd.trans (raise ..)
  unfold Dev.setSt
  dsimp only
  split
  · exact refl d
  · split
    · exact trans (hraised _) (foldl (fun d i => abandonBaste d i 1) _ _)
    · exact hraised _

theorem summary (d : Dev) (n code : Nat) (k : CountKind) (len : Nat) : d.Wears (d.summary n code k len) := by
  unfold Dev.summary
  dsimp only
  split
  · exact refl d
  · exact raise ..

theorem summaries (d : Dev) (n : Nat) : d.Wears (d.summaries n) := by
  have hchalk : ∀ d : Dev, d.Wears (d.chalkSummary n) := fun d => foldl (fun d _ => raise d ..) _ d
  have hupd : ∀ (d : Dev) (f : Ctx → Ctx), d.Wears (d.updCtx n f) := fun _ _ => of_same rfl rfl rfl
  unfold Dev.summaries
  dsimp only
  refine after (hupd _ _) (after (summary ..) (after (summary ..) (after (hchalk _) ?_)))
  exact after (summary ..) (after (summary ..) (summary ..))

theorem note (d : Dev) (n : Nat) (how : Ending) : d.Wears (d.note n how) := by
  cases how with
  | aborted => exact refl d
  | _ => exact raise ..

theorem dropHandle (d : Dev) (core h : Nat) : d.Wears (d.dropHandle core h) := by
  unfold Dev.dropHandle
  split
  · exact refl d
  · dsimp only
    split
    · exact after (foldl (fun d (m : Nat) => show d.Wears (d.updSpool m _) from of_same rfl rfl rfl) _ _) (of_same rfl rfl rfl)
    · exact of_same rfl rfl rfl

theorem endHandles (d : Dev) (ctx : Nat) : d.Wears (d.endHandles ctx) :=
  trans (foldl (fun d (x : Nat × Nat) => dropHandle d x.1 x.2) _ d) (of_same rfl rfl rfl)

theorem idleIfLast (d : Dev) : d.Wears d.idleIfLast := by
  unfold Dev.idleIfLast
  split
  · exact refl d
  · dsimp only
    generalize (if d.vcoreHeld = true then d.pace.vcore else 650) = v
    split
    · exact of_same rfl rfl rfl
    · exact after (raise ..) (of_same rfl rfl rfl)

theorem finishRun (d : Dev) (n : Nat) (how : Ending) (opc : Nat) : d.Wears (d.finishRun n how opc) := by
  have hunbind : ∀ d : Dev, d.Wears (d.unbind n) := fun _ => of_same rfl rfl rfl
  have hset : ∀ (d : Dev) (c : Ctx), d.Wears (d.setCtx n c) := fun _ _ => of_same rfl rfl rfl
  have hbefore : d.Wears (d.beforeEnd n how opc) :=
    trans (trans (trans (trans (summaries d n) (note ..)) (endHandles ..)) (hunbind _)) (setSt ..)
  have hend : d.Wears (d.atEnd n how opc) := trans (trans hbefore (hset _ _)) (idleIfLast _)
  rw [Dev.finishRun_eq]
  refine trans hend (after (foldl (fun d k => complete d k 0 0 0 0) _ _) ?_)
  split
  · exact complete ..
  · exact refl _

theorem boxFinishRun (b : Box) (n : Nat) (how : Ending) (opc : Nat) : b.dev.Wears (b.finishRun n how opc).dev := by
  have hpower : ∀ (b : Box) (hs : List (Nat × Handle)), b.dev.Wears (b.losePower hs).dev := fun b hs =>
    foldlBox (fun b _ => foldlBox (fun b _ => by split <;> exact refl _) _ b) hs b
  exact trans (finishRun b.dev n how opc) (hpower (b.onD fun d => d.finishRun n how opc) _)

theorem settleDying (d : Dev) : d.Wears d.settleDying := by
  unfold Dev.settleDying
  split
  · exact refl d
  · exact after (endOpens ..) (of_same rfl rfl rfl)

/-! ### Clusters that retire -/

theorem refreshAdvice (d : Dev) : d.Wears d.refreshAdvice := after (foldl (fun d _ => raise d ..) _ _) (of_same rfl rfl rfl)

theorem queueZeros (d : Dev) (ctx : Nat) (act : Option Act) (core : Nat) (h : Handle) : d.Wears (d.queueZeros ctx act core h) := by
  unfold Dev.queueZeros
  split <;> exact of_same rfl rfl rfl

theorem remap (b : Box) (r : RetireDue) (spare : Nat) : b.dev.Wears (b.remap r spare).dev := by
  unfold Box.remap
  dsimp only
  refine after (foldl (fun d (h : Nat × Handle) => queueZeros d h.2.ctx none h.1 h.2) _ _) (after (refreshAdvice _) (after (raise ..) ?_))
  refine after (foldl (fun d _ => raise d ..) _ _) (after (retire fun _ hx => List.mem_append_left _ hx) ?_)
  exact after (updBolt fun _ _ hp => (List.mem_filter.mp hp).1) (of_same rfl rfl rfl)

theorem releaseHeld (d : Dev) : d.Wears d.releaseHeld := by
  refine foldl (fun d n => ?_) _ d
  split
  · split
    · exact refl d
    · exact of_same rfl rfl rfl
  · exact refl d

theorem tryRetire (b : Box) : b.dev.Wears b.tryRetire.dev := by
  have hremaps := foldlBox (fun b (r : RetireDue) => remap b r (r.spare.getD 0)) (b.dev.retireDue.filter b.dev.mayRemap) b
  unfold Box.tryRetire
  rw [Box.onD_dev]
  exact trans hremaps (releaseHeld _)

theorem stopNow (b : Box) (n : Nat) (how : Ending) (opc : Nat) : b.dev.Wears (b.stopNow n how opc).dev := by
  have hstop := trans (setSt b.dev n .stopping opc) (failColls (b.onD fun d => d.setSt n .stopping opc) n 6)
  unfold Box.stopNow
  split
  · exact refl _
  · dsimp only
    generalize (b.onD fun d => d.setSt n .stopping opc).failColls n 6 = c at hstop ⊢
    have hdiscard : c.dev.Wears (c.dev.discard n) := of_same rfl rfl rfl
    have hrun := trans (trans hstop hdiscard) (boxFinishRun (c.onD fun d => d.discard n) n how opc)
    generalize (c.onD fun d => d.discard n).finishRun n how opc = f at hrun ⊢
    exact trans (trans hrun (settleDying f.dev)) (tryRetire (f.onD Dev.settleDying))

theorem stopAtBoundary (b : Box) (n : Nat) (fault : Option Nat) (opc : Nat) : b.dev.Wears (b.stopAtBoundary n fault opc).dev := by
  unfold Box.stopAtBoundary
  dsimp only
  split
  · exact refl _
  · split
    · exact stopNow ..
    · exact after (setSt ..) (of_same rfl rfl rfl)

theorem noSpare (b : Box) (r : RetireDue) : b.dev.Wears (b.noSpare r).dev := by
  have hdamage : ∀ (l : List Nat) (d : Dev), d.Wears (l.foldl (fun d _ => d.damage) d) := foldl fun _ _ => of_same rfl rfl rfl
  have hout : ∀ d : Dev, d.Wears (d.updBolt r.bolt fun x => { x with out := x.out ++ [r.k] }) := fun _ => updBolt fun _ _ hp => hp
  have hgone := retire (d := b.dev) (l := b.dev.retireDue.filter fun x => !(x.bolt == r.bolt && x.k == r.k))
    (x := { b.dev.health with
      retired := b.dev.health.retired ++ [18 * r.bolt + (b.dev.bolt r.bolt).phys r.k], advice := b.dev.health.advice ||| 32 })
    fun _ hx => List.mem_append_left _ hx
  unfold Box.noSpare
  dsimp only [Box.onD]
  refine trans ?_ (foldlBox (fun b n => stopAtBoundary b n (some 0x7007) 0) _ _)
  dsimp only
  split
  · exact after (refreshAdvice _) (after (hdamage _ _) (after (raise ..) (hgone.trans (hout _))))
  · exact after (refreshAdvice _) (after (raise ..) (after (hdamage _ _) (after (raise ..) (hgone.trans (hout _)))))

theorem settleDue (b : Box) : b.dev.Wears b.settleDue.dev := foldlBox noSpare _ b

end Dev.Wears

/-- An instance that is gone stays gone. -/
theorem Dev.Wears.coll_none {d e : Dev} (h : d.Wears e) {plan inst : Nat} (hd : d.coll plan inst = none) : e.coll plan inst = none :=
  List.find?_eq_none.mpr fun i hi => List.find?_eq_none.mp hd i (h.insts i hi)

end Sys2Proof.Machine

/-! SUPPORT. Collectives and remote Knot arrivals: the header of a packet, an instance that fails or is released, and the control packets
between its members (12 R367, R373, R376, R389 to R392). -/

namespace Sys2Proof.Machine

open Sys2Proof.Safety

/-- Fields above a place add a multiple of its weight. -/
theorem packFields_above {n : Nat} {l : List (Nat × Nat)} (h : ∀ e ∈ l, n ≤ e.2) (a : Nat) :
    ∃ m, l.foldl (fun a x => a + x.1 * 2 ^ x.2) a = a + 2 ^ n * m := by
  induction l generalizing a with
  | nil => exact ⟨0, rfl⟩
  | cons e l ih =>
    obtain ⟨hn, hl⟩ := List.forall_mem_cons.mp h
    obtain ⟨m, hm⟩ := ih hl (a + e.1 * 2 ^ e.2)
    refine ⟨e.1 * 2 ^ (e.2 - n) + m, ?_⟩
    rw [List.foldl_cons, hm, ← Nat.sub_add_cancel hn, pow_add, Nat.add_sub_cancel]
    ring

/-- A field of packed fields, between those below it and those above it. -/
theorem packFields_at {lo w v : Nat} {low high : List (Nat × Nat)} (hlow : packFields low < 2 ^ lo) (hhigh : ∀ e ∈ high, lo + w ≤ e.2) :
    packFields (low ++ (v, lo) :: high) / 2 ^ lo % 2 ^ w = v % 2 ^ w := by
  obtain ⟨m, hm⟩ := packFields_above hhigh (packFields low + v * 2 ^ lo)
  have hsum : packFields (low ++ (v, lo) :: high) = packFields low + (v + 2 ^ w * m) * 2 ^ lo := by
    rw [packFields, List.foldl_append, List.foldl_cons]
    refine hm.trans ?_
    rw [pow_add]
    ring
  rw [hsum, Nat.add_mul_div_right _ _ (Nat.two_pow_pos lo), Nat.div_eq_of_lt hlow, Nat.zero_add, Nat.add_mul_mod_self_left]

theorem fld_ofNat {n lo w : Nat} (h : lo + w ≤ n) (v : Nat) : fld (BitVec.ofNat n v) lo w = v / 2 ^ lo % 2 ^ w := by
  rw [fld, BitVec.toNat_ofNat, Nat.shiftRight_eq_div_pow, ← Nat.mod_mul_right_div_self, ← pow_add, ← Nat.mod_mul_right_div_self, ← pow_add,
    Nat.mod_mod_of_dvd _ (pow_dvd_pow 2 h)]

section
variable (dst src type vc flow word lpoison : Nat) (lines : List (BitVec 512))

theorem limN_mod (w v : Nat) : limN w v % 2 ^ w = limN w v := Nat.mod_mod ..

theorem limN_lt (w v : Nat) : limN w v < 2 ^ w := Nat.mod_lt _ (Nat.two_pow_pos w)

theorem packFields_snoc_lt {lo w n v : Nat} {low : List (Nat × Nat)} (hlow : packFields low < 2 ^ lo) (hv : v < 2 ^ w) (hn : lo + w ≤ n) :
    packFields (low ++ [(v, lo)]) < 2 ^ n := by
  have hmul : (v + 1) * 2 ^ lo ≤ 2 ^ w * 2 ^ lo := Nat.mul_le_mul_right _ hv
  have htop : 2 ^ (lo + w) ≤ 2 ^ n := Nat.pow_le_pow_right (by decide) hn
  rw [pow_add] at htop
  rw [packFields, List.foldl_append]
  change packFields low + v * 2 ^ lo < _
  linarith

/-- The low part of a header. -/
theorem headerLow_lt : packFields [(limN 16 dst, 0), (limN 16 src, 16), (limN 5 type, 32), (limN 2 vc, 37), (limN 3 lines.length, 40), (limN 6 lpoison, 48)]
    < 2 ^ 56 := by
  have h16 := packFields_snoc_lt (low := []) (lo := 0) (n := 16) (by decide) (limN_lt 16 dst) (by decide)
  have h32 := packFields_snoc_lt (n := 32) h16 (limN_lt 16 src) (by decide)
  have h37 := packFields_snoc_lt (n := 37) h32 (limN_lt 5 type) (by decide)
  have h40 := packFields_snoc_lt (n := 40) h37 (limN_lt 2 vc) (by decide)
  have h48 := packFields_snoc_lt (n := 48) h40 (limN_lt 3 lines.length) (by decide)
  exact packFields_snoc_lt h48 (limN_lt 6 lpoison) (by decide)

theorem mkPacket_dst : (mkPacket dst src type vc flow word lpoison lines).dst = limN 16 dst := by
  rw [Packet.dst, mkPacket, fld_ofNat (by decide)]
  exact (packFields_at (low := []) (by decide) (by simp)).trans (limN_mod ..)

theorem mkPacket_src : (mkPacket dst src type vc flow word lpoison lines).src = limN 16 src := by
  rw [Packet.src, mkPacket, fld_ofNat (by decide)]
  refine (packFields_at (low := [(limN 16 dst, 0)]) ?_ (by simp)).trans (limN_mod ..)
  exact packFields_snoc_lt (low := []) (by decide) (limN_lt 16 dst) (by decide)

theorem mkPacket_flow : (mkPacket dst src type vc flow word lpoison lines).flow = limN 8 flow := by
  rw [Packet.flow, mkPacket, fld_ofNat (by decide)]
  refine (packFields_at (low := [(limN 16 dst, 0), (limN 16 src, 16), (limN 5 type, 32), (limN 2 vc, 37), (limN 3 lines.length, 40), (limN 6 lpoison, 48)])
    ?_ (by simp)).trans (limN_mod ..)
  exact headerLow_lt ..

end

/-! ### Instances that fail (12 R391, R392) -/

theorem Box.collFail_dead (b : Box) (i : CollInst) (status reporter : Nat) (abort : Bool) :
    ((b.collFail i status reporter abort).dev.ctx i.ctx).live = false := Box.stopNow_dead ..

theorem Box.collReject_dead (b : Box) (p : Plan) (i : CollInst) (status : Nat) : ((b.collReject p i status).dev.ctx i.ctx).live = false := by
  unfold Box.collReject
  dsimp only
  generalize hj : (if status = 7 then { i with dd := 0xFFFF } else i) = j
  have hctx : j.ctx = i.ctx := by
    subst hj
    split <;> rfl
  rw [← hctx]
  exact Box.collFail_dead ..

/-- The device without an instance. -/
theorem Dev.coll_dropped (d : Dev) (plan inst : Nat) (x : HealthSt) : ({ d with
    fab := { d.fab with insts := d.fab.insts.filter fun y => !(y.plan == plan && y.inst == inst) }, health := x } : Dev).coll plan inst = none := by
  refine List.find?_eq_none.mpr fun i hi => ?_
  obtain ⟨-, hother⟩ := List.mem_filter.mp hi
  exact Bool.eq_false_iff.mp (by simpa only [Bool.not_eq_true'] using hother)

theorem Box.failColl_gone (b : Box) (i : CollInst) (status reporter : Nat) (abort : Bool) :
    (b.failColl i status reporter abort).dev.coll i.plan i.inst = none := by
  unfold Box.failColl
  dsimp only
  split
  · exact (Dev.Wears.undefEls ..).coll_none (Dev.coll_dropped ..)
  · exact Dev.coll_dropped ..

theorem Box.collFail_gone (b : Box) (i : CollInst) (status reporter : Nat) (abort : Bool) :
    (b.collFail i status reporter abort).dev.coll i.plan i.inst = none := (Dev.Wears.stopNow ..).coll_none (b.failColl_gone i status reporter abort)

/-! ### A remote Knot arrival (05 R161; 12 R376) -/

theorem karrPacket_routeFor (d : Dev) (a : Act) (x : Action) (tag : Nat) :
    d.routeFor (karrPacket d a (karrReq a x tag)).dst (karrPacket d a (karrReq a x tag)).src (karrPacket d a (karrReq a x tag)).flow
      = d.routeFor (limN 16 x.dev) (limN 16 d.fab.deviceId.toNat) ((a.cs.core : Nat) % 256) := by
  have hflow : limN 8 ((a.cs.core : Nat) % 256) = (a.cs.core : Nat) % 256 := Nat.mod_mod ..
  rw [karrPacket, mkPacket_dst, mkPacket_src, mkPacket_flow, hflow]
  rfl

/-- The device whose KARR waits for its acknowledgement, once the packet has left. -/
def Dev.waitsFor (d : Dev) (r : RemoteReq) : Dev := { d with fab := { d.fab with remote := d.fab.remote ++ [r] } }

section
variable {a : Act} {x : Action} {s : State} (h : ready a x [] s)
include h

theorem karr_sends {tag out : Nat} (hop : Insn.opc x.w = 0x40) (hremote : Insn.krmt x.w = true) (hwrites : s.dev.writesOut a = false)
    (htag : s.dev.freeTag 2 = some tag) (hdev : x.dev ≠ s.dev.fab.deviceId.toNat)
    (hroute : s.dev.routeFor (limN 16 x.dev) (limN 16 s.dev.fab.deviceId.toNat) ((a.cs.core : Nat) % 256) = some out) :
    ∃ t, exec (.karr a) s = .next t ∧ workDone a x t ∧ sameStore s t ∧ t.dev.fab.remote = s.dev.fab.remote ++ [karrReq a x tag]
      ∧ (out, TxItem.packet (karrPacket s.dev a (karrReq a x tag))) ∈ t.dev.tx := by
  have hpacket : karrPacket (s.dev.actDone a) a (karrReq a x tag) = karrPacket s.dev a (karrReq a x tag) := by
    rw [Dev.actDone, Dev.updAction_onlyCores]
    rfl
  have hsends : (s.dev.actDone a).sendRouted (karrPacket s.dev a (karrReq a x tag))
      = ((s.dev.actDone a).handPacket out (karrPacket s.dev a (karrReq a x tag)), true) := by
    have hfor : (s.dev.actDone a).routeFor (karrPacket s.dev a (karrReq a x tag)).dst (karrPacket s.dev a (karrReq a x tag)).src
        (karrPacket s.dev a (karrReq a x tag)).flow = some out := by
      rw [Dev.actDone, Dev.updAction_onlyCores]
      exact (karrPacket_routeFor s.dev a x tag).trans hroute
    rw [Dev.sendRouted, hfor]
  have hrun : s.box.gate a (isOp 0x40) (fun _ _ => []) (fun b x => if Insn.krmt x.w then b.karrRemote a x
      else b.onD fun d => (d.sendArrival (Insn.kid x.w) x.val.toNat (.act a)).actDone a)
      = s.box.onD fun d => ((d.actDone a).handPacket out (karrPacket d a (karrReq a x tag))).waitsFor (karrReq a x tag) := by
    have hmine : ¬ x.dev = (s.box.onD fun d => d.actDone a).dev.myId := by
      rw [Box.onD_dev, Dev.actDone, Dev.updAction_onlyCores]
      exact hdev
    rw [Box.gate_ready h (by simpa [isOp] using hop), if_pos hremote, Box.karrRemote, show s.box.dev = s.dev from rfl, hwrites, htag]
    dsimp only
    rw [if_neg hmine, Box.onD_dev, show s.box.dev = s.dev from rfl, hpacket, hsends]
    rfl
  obtain ⟨t, ht, hstore, hdev⟩ := on_answers_onD (s := s) (f := fun b => b.gate a (isOp 0x40) (fun _ _ => []) (fun b x =>
    if Insn.krmt x.w then b.karrRemote a x else b.onD fun d => (d.sendArrival (Insn.kid x.w) x.val.toNat (.act a)).actDone a)) hrun
  obtain ⟨seams, tx, cr, hlinks, -⟩ := (s.dev.actDone a).linksOnly_handPacket out (karrPacket s.dev a (karrReq a x tag))
  have htx := (s.dev.actDone a).handPacket_sends out (karrPacket s.dev a (karrReq a x tag))
  refine ⟨t, ht, ?_, hstore, ?_, ?_⟩
  · rw [workDone, hdev, hlinks]
    exact Dev.action_actDone h.1
  · rw [hdev, hlinks, Dev.actDone, Dev.updAction_onlyCores]
    rfl
  · rw [hdev]
    exact htx

/-! ### COLL (12 R379 to R383) -/

theorem coll_gate (hop : Insn.opc x.w = 0x68) : exec (.coll a) s = .next (s.setBox (if x.n0 = 0 then s.box.onD fun d => d.actDone a
    else if (s.dev.coll (clPlan x.desc) x.val.toNat).isSome then s.box else s.box.collRun a x)) :=
  congrArg (fun b => Host.Outcome.next (s.setBox b)) (Box.gate_ready h (by simpa [isOp] using hop) _)

theorem coll_empty (hop : Insn.opc x.w = 0x68) (hn : x.n0 = 0) : ∃ t, exec (.coll a) s = .next t ∧ workDone a x t ∧ onlyActs s t := by
  refine ⟨s.setDev (s.dev.actDone a), (coll_gate h hop).trans ?_, Dev.action_actDone h.1, onlyActs_actDone s a⟩
  rw [if_pos hn]
  rfl

variable {p : Plan} {u : Nat} (hop : Insn.opc x.w = 0x68) (hn : x.n0 ≠ 0) (hfree : s.dev.coll (clPlan x.desc) x.val.toNat = none)
  (hplan : s.dev.plan (clPlan x.desc) = some p) (hunit : s.dev.freeUnit = some u)
include hop hn hfree hplan hunit

theorem coll_checks : exec (.coll a) s = .next (s.setBox (if s.dev.collCheck p x.ctx x.desc x.n0 = 0 then s.box.collBegin p (s.dev.newColl p a x u)
    else s.box.collReject p (s.dev.newColl p a x u) (s.dev.collCheck p x.ctx x.desc x.n0))) := by
  rw [coll_gate h hop, if_neg hn, if_neg (by rw [hfree]; decide), Box.collRun, show s.box.dev = s.dev from rfl, hplan, hunit]

theorem coll_rejects (hbad : s.dev.collCheck p x.ctx x.desc x.n0 ≠ 0) :
    ∃ t, exec (.coll a) s = .next t ∧ (t.dev.ctx x.ctx).live = false ∧ t.pending = s.pending := by
  refine ⟨_, coll_checks h hop hn hfree hplan hunit, ?_, rfl⟩
  rw [if_neg hbad, State.setBox_dev]
  exact Box.collReject_dead s.box p (s.dev.newColl p a x u) _

end

/-- Settles O33. -/
theorem collectivesBegin : Obligations.CollectivesBegin := by
  intro a x s h
  refine ⟨fun hop => ⟨coll_empty h hop, fun p u hn hfree hplan hunit => ⟨fun hok => ?_, coll_rejects h hop hn hfree hplan hunit⟩⟩,
    fun tag out hop hremote hwrites htag hdev hroute => karr_sends h hop hremote hwrites htag hdev hroute⟩
  refine ⟨_, coll_checks h hop hn hfree hplan hunit, ?_⟩
  rw [if_pos hok]
  rfl


/-! ### Control packets between the members (12 R373, R390, R391) -/

/-- Beside the links, the fabric, the Measure Book and the exit from Hold that a record starts, nothing differs. -/
def Dev.fabricOnly (d e : Dev) : Prop :=
  ∃ seams tx cr fab mb wake, e = { d with seams := seams, tx := tx, cr := cr, fab := fab, mb := mb, power := { d.power with wake := wake } }

namespace Dev.fabricOnly

theorem refl (d : Dev) : d.fabricOnly d := ⟨_, _, _, _, _, _, rfl⟩

theorem trans {d e f : Dev} (h : d.fabricOnly e) (h' : e.fabricOnly f) : d.fabricOnly f := by
  obtain ⟨_, _, _, _, _, _, rfl⟩ := h
  obtain ⟨_, _, _, _, _, _, rfl⟩ := h'
  exact ⟨_, _, _, _, _, _, rfl⟩

theorem sendCtrl (d : Dev) (dst plan inst kind status slip : Nat) : d.fabricOnly (d.sendCtrl dst plan inst kind status slip) := by
  unfold Dev.sendCtrl Dev.sendRouted
  split
  · exact refl d
  · split
    · obtain ⟨_, _, _, h, -⟩ := d.linksOnly_handPacket _ (d.collCtrl dst plan inst kind status slip)
      exact ⟨_, _, _, _, _, _, h⟩
    · exact ⟨_, _, _, _, _, _, Dev.raise_frame ..⟩

theorem foldl {α : Type} {f : Dev → α → Dev} (h : ∀ (d : Dev) (a : α), d.fabricOnly (f d a)) (l : List α) (d : Dev) : d.fabricOnly (l.foldl f d) :=
  List.foldlRecOn l f (motive := d.fabricOnly) (refl d) fun e he a _ => he.trans (h e a)

theorem action {d e : Dev} (h : d.fabricOnly e) (a : Act) : e.action a = d.action a := by
  obtain ⟨_, _, _, _, _, _, rfl⟩ := h
  rfl

end Dev.fabricOnly

/-- The device whose instance is released: its action is done, and its context takes the slip. -/
def Dev.collReleased (d : Dev) (i : CollInst) (slip : Nat) : Dev :=
  (({ d with fab := { d.fab with insts := d.fab.insts.filter fun x => !(x.plan == i.plan && x.inst == i.inst) } } : Dev).actDone i.act).updCtx
    i.ctx fun c => { c with slip := slip, inc := 0 }

theorem Dev.collReleased_ctx (d : Dev) (i : CollInst) (slip : Nat) : (d.collReleased i slip).ctx i.ctx = { d.ctx i.ctx with slip := slip, inc := 0 } := by
  rw [Dev.collReleased, Dev.actDone, Dev.updAction_onlyCores]
  exact Dev.setCtx_ctx_same ..

theorem Dev.collReleased_action {d : Dev} {i : CollInst} {x : Action} (h : d.action i.act = some x) (slip : Nat) :
    (d.collReleased i slip).action i.act = some { x with done := true } := Dev.action_actDone h

theorem Dev.collReleased_coll (d : Dev) (i : CollInst) (slip : Nat) : (d.collReleased i slip).coll i.plan i.inst = none := by
  rw [Dev.collReleased, Dev.actDone, Dev.updAction_onlyCores]
  exact Dev.coll_dropped d i.plan i.inst d.health

/-- RELEASE within the limit: packets to the children, the instance released, and the event of a slip that changed. -/
theorem Box.collRelease_within {b : Box} {i : CollInst} {slip : Nat} (hlimit : slip ≤ ((b.dev.ctx i.ctx).img.map (·.slipLimit)).getD 0 * 4) (p : Plan) :
    ∃ e f, b.dev.fabricOnly e ∧ (e.collReleased i slip).fabricOnly f ∧ f.fab = (e.collReleased i slip).fab
      ∧ b.collRelease p i slip = b.onD fun _ => f := by
  have htold : b.dev.fabricOnly ((p.children p.self).foldl (fun d m => d.sendCtrl (p.dev m) i.plan i.inst 2 0 slip) b.dev) :=
    .foldl (fun d m => .sendCtrl d (p.dev m) ..) _ _
  unfold Box.collRelease
  dsimp only [Box.onD]
  generalize (p.children p.self).foldl (fun d m => d.sendCtrl (p.dev m) i.plan i.inst 2 0 slip) b.dev = e at htold ⊢
  have hctx : e.ctx i.ctx = b.dev.ctx i.ctx := by
    obtain ⟨_, _, _, _, _, _, rfl⟩ := htold
    rfl
  have hnoted : ∀ die l, ∃ f, (e.collReleased i slip).fabricOnly f ∧ f.fab = (e.collReleased i slip).fab ∧ f.ctx i.ctx = (e.collReleased i slip).ctx i.ctx
      ∧ (if slip = (e.ctx i.ctx).slip then e.collReleased i slip else (e.collReleased i slip).ev 0x9003 die (some i.ctx) l) = f := by
    intro die l
    split
    · exact ⟨_, .refl _, rfl, rfl, rfl⟩
    · exact ⟨_, ⟨_, _, _, _, _, _, Dev.raise_frame ..⟩, Dev.raise_fab .., Dev.raise_ctx_of .., rfl⟩
  obtain ⟨f, hf, hfab, hfctx, hif⟩ := hnoted (reductionDie i.unit) [collId i.plan i.inst i.ctx, ((e.ctx i.ctx).slip : Int), slip]
  refine ⟨e, f, htold, hf, hfab, ?_⟩
  unfold Dev.collReleased at hif
  rw [hif]
  refine if_neg fun hover => ?_
  rw [hfctx, Dev.collReleased_ctx, hctx] at hover
  exact absurd hover.1 (Nat.not_lt.mpr hlimit)

/-! ### Packets of an instance in progress -/

theorem Dev.coll_names {d : Dev} {plan inst : Nat} {i : CollInst} (h : d.coll plan inst = some i) : i.plan = plan ∧ i.inst = inst := by
  simpa using List.find?_some h

section
variable {p : Fin 64} {k : Packet} {q : Plan} {m : Nat} {s : State} (hplan : s.dev.plan (collOf k).1 = some q) (hmember : q.member k.src = some m)
include hplan hmember

section
variable {i : CollInst} (hcoll : s.dev.coll (collOf k).1 (collOf k).2 = some i)
include hcoll

theorem Box.onColl_named (f : Plan → CollInst → Nat → Box) : s.box.onColl k f = f q i m := by
  rw [Box.onColl, show s.box.dev = s.dev from rfl, hplan, hcoll]
  dsimp only
  rw [hmember]
  rfl

/-- The instance that the packet names, changed. -/
def Box.collChanged (b : Box) (k : Packet) (f : CollInst → CollInst) : Box := b.onD fun d => d.updColl (collOf k).1 (collOf k).2 f

theorem collData_answers (h : arrives 8 p k s) (hepoch : k.word / 65536 % 65536 = q.epoch) {r : RecvPiece}
    (hrecv : (q.recvs i.n).find? (fun r => r.src == m && r.round == k.word / 2 ^ 32 % 2 ^ 14 && decide (k.word / 2 ^ 46 < q.chunks r.len)) = some r) :
    exec (.collData p k) s = .next (s.setBox ((s.box.collChanged k fun x => { x with
      parts := put x.parts (chunkKey m (k.word / 2 ^ 32 % 2 ^ 14) (k.word / 2 ^ 46))
        (linesEls q k.lines k.lpoison (pieceEls q r.first r.len (k.word / 2 ^ 46)).length) }).collAdvance i.plan i.inst)) := by
  refine congrArg (fun b => Host.Outcome.next (s.setBox b)) ((Box.packetOf_arrives h _).trans ?_)
  obtain ⟨hip, hii⟩ := Dev.coll_names hcoll
  rw [Box.takeCollData, Box.onColl_named hplan hmember hcoll, if_neg (not_not.mpr hepoch), Box.takeChunk, hip, hii]
  dsimp only
  rw [hrecv]
  rfl

theorem collReady_answers (h : arrives 9 p k s) (hkind : k.word / 65536 % 4 = 0) : exec (.collReady p k) s
    = .next (s.setBox ((s.box.collChanged k fun x => { x with ready := addSet x.ready m }).collAdvance i.plan i.inst)) := by
  refine congrArg (fun b => Host.Outcome.next (s.setBox b)) ((if_pos hkind).trans ((Box.packetOf_arrives h _).trans ?_))
  obtain ⟨hip, hii⟩ := Dev.coll_names hcoll
  rw [Box.takeReady, show s.box.dev = s.dev from rfl, hplan]
  dsimp only
  rw [hmember]
  dsimp only
  rw [hcoll, hip, hii]
  rfl

theorem collDone_answers (h : arrives 9 p k s) (hkind : k.word / 65536 % 4 = 1) (hchild : (q.children q.self).contains m = true) :
    exec (.collDone p k) s = .next (s.setBox ((s.box.collChanged k fun x => { x with
      dones := addSet x.dones m, slipMax := max x.slipMax (ctrlSlip k) }).collDoneCheck q i.plan i.inst)) := by
  refine congrArg (fun b => Host.Outcome.next (s.setBox b)) ((if_pos hkind).trans ((Box.packetOf_arrives h _).trans ?_))
  obtain ⟨hip, hii⟩ := Dev.coll_names hcoll
  rw [Box.takeDone, Box.onColl_named hplan hmember hcoll, if_neg (by rw [hchild]; decide), hip, hii]
  rfl

theorem collRelease_answers (h : arrives 9 p k s) (hkind : k.word / 65536 % 4 = 2) (hself : q.self ≠ 0) (hparent : m = (q.self - 1) / 2)
    (hlimit : ctrlSlip k ≤ ((s.dev.ctx i.ctx).img.map (·.slipLimit)).getD 0 * 4) :
    ∃ t, exec (.collRelease p k) s = .next t ∧ t.dev.coll i.plan i.inst = none ∧ sameStore s t ∧ (t.dev.ctx i.ctx).slip = ctrlSlip k
      ∧ (t.dev.ctx i.ctx).inc = 0 ∧ ∀ x, s.dev.action i.act = some x → workDone i.act x t := by
  obtain ⟨e, f, he, hf, hfab, hrelease⟩ := Box.collRelease_within (b := s.box) hlimit q
  have hrun : s.box.ctrlOf 2 p k (fun b => b.takeRelease k) = s.box.onD fun _ => f := by
    refine (if_pos hkind).trans ((Box.packetOf_arrives h _).trans ?_)
    rw [Box.takeRelease, Box.onColl_named hplan hmember hcoll, if_pos ⟨hself, hparent⟩, hrelease]
  obtain ⟨t, ht, hstore, hdev⟩ := on_answers_onD (s := s) (f := fun b => b.ctrlOf 2 p k fun b => b.takeRelease k) hrun
  have hctx : t.dev.ctx i.ctx = { e.ctx i.ctx with slip := ctrlSlip k, inc := 0 } := by
    obtain ⟨_, _, _, _, _, _, rfl⟩ := hf
    rw [hdev]
    exact e.collReleased_ctx i _
  refine ⟨t, ht, ?_, hstore, by rw [hctx], by rw [hctx], fun x hx => ?_⟩
  · rw [hdev, Dev.coll, hfab]
    exact e.collReleased_coll i _
  · have hact : f.action i.act = (e.collReleased i (ctrlSlip k)).action i.act := hf.action _
    rw [workDone, hdev, hact]
    exact Dev.collReleased_action ((he.action _).trans hx) _

theorem collAbort_answers (h : arrives 9 p k s) (hkind : k.word / 65536 % 4 = 3) :
    ∃ t, exec (.collAbort p k) s = .next t ∧ t.dev.coll i.plan i.inst = none ∧ (t.dev.ctx i.ctx).live = false := by
  have hrun : s.box.ctrlOf 3 p k (fun b => b.takeAbort k) = s.box.collFail i (k.word / 2 ^ 18 % 16) m false :=
    (if_pos hkind).trans ((Box.packetOf_arrives h fun b => b.takeAbort k).trans (Box.onColl_named hplan hmember hcoll _))
  exact ⟨_, congrArg (fun b => Host.Outcome.next (s.setBox b)) hrun, Box.collFail_gone .., Box.collFail_dead ..⟩

end

theorem collReady_early (h : arrives 9 p k s) (hkind : k.word / 65536 % 4 = 0) (hnone : s.dev.coll (collOf k).1 (collOf k).2 = none)
    (hahead : ((collOf k).2 + 64 - q.launched % 64) % 64 < 4) : ∃ t, exec (.collReady p k) s = .next t ∧ sameStore s t
      ∧ t.dev = { s.dev with fab := { s.dev.fab with earlyReady := s.dev.fab.earlyReady ++ [((collOf k).1, (collOf k).2, m)] } } := by
  refine on_answers_onD (s := s) (f := fun b => b.ctrlOf 0 p k fun b => b.takeReady k)
    (g := fun d => { d with fab := { d.fab with earlyReady := d.fab.earlyReady ++ [((collOf k).1, (collOf k).2, m)] } })
    ((if_pos hkind).trans ((Box.packetOf_arrives h _).trans ?_))
  rw [Box.takeReady, show s.box.dev = s.dev from rfl, hplan]
  dsimp only
  rw [hmember]
  dsimp only
  rw [hnone]
  exact if_pos (.inl hahead)

end

theorem collTimeout_answers {pl : Fin 1024} {inst : Fin 64} {q : Plan} {i : CollInst} {s : State} (hplan : s.dev.plan pl.val = some q)
    (hcoll : s.dev.coll pl.val inst.val = some i) (hdue : i.deadline ≤ s.dev.tape.now) :
    ∃ t, exec (.collTimeout pl inst) s = .next t ∧ t.dev.coll pl.val inst.val = none ∧ (t.dev.ctx i.ctx).live = false := by
  have hgone := s.box.collFail_gone i 2 q.self true
  obtain ⟨hp, hi⟩ := Dev.coll_names hcoll
  rw [hp, hi] at hgone
  refine ⟨s.setBox (s.box.collFail i 2 q.self true), ?_, hgone, Box.collFail_dead ..⟩
  refine congrArg (fun b => Host.Outcome.next (s.setBox b)) ?_
  dsimp only
  rw [show s.box.dev = s.dev from rfl, hplan, hcoll]
  exact if_pos hdue

/-- Settles O34. -/
theorem collectivePacketsAreTaken : Obligations.CollectivePacketsAreTaken := by
  refine ⟨fun pl inst q i s hplan hcoll hdue => collTimeout_answers hplan hcoll hdue,
    fun p k q i m s hplan hmember => ⟨fun hcoll => ?_, collReady_early hplan hmember⟩⟩
  exact ⟨fun h hepoch r hrecv => ⟨_, collData_answers hplan hmember hcoll h hepoch hrecv, rfl, rfl⟩,
    fun h hkind => ⟨_, collReady_answers hplan hmember hcoll h hkind, rfl, rfl⟩,
    fun h hkind hchild => ⟨_, collDone_answers hplan hmember hcoll h hkind hchild, rfl, rfl⟩,
    fun h hkind hself hparent hlimit => collRelease_answers hplan hmember hcoll h hkind hself hparent hlimit,
    fun h hkind => collAbort_answers hplan hmember hcoll h hkind⟩

end Sys2Proof.Machine

/-! SUPPORT. The Cutters: failure and self-test, the baton and its take-over, the planned rotation, the restart of a root, and the spare that
takes a due cluster (15 R446, R464 to R468; 16 R494). -/

namespace Sys2Proof.Machine

open Sys2Proof.Safety

/-! ### What the service advice and an idle update leave -/

theorem Dev.refreshAdvice_cutter (d : Dev) : d.refreshAdvice.cutter = d.cutter := by
  obtain ⟨_, _, _, _, h⟩ := Dev.Maintained.refreshAdvice d
  rw [h]

theorem Dev.refreshAdvice_fw (d : Dev) : d.refreshAdvice.fw = d.fw := by
  obtain ⟨_, _, _, _, h⟩ := Dev.Maintained.refreshAdvice d
  rw [h]

theorem Dev.advanceUpdate_none {d : Dev} (h : d.fw.upd = none) : d.advanceUpdate = d := by
  unfold Dev.advanceUpdate
  rw [h]

/-! ### Failure (15 R466) -/

/-- The device whose Cutter failed, in its new state. -/
def Dev.cutterFailed (d : Dev) (c : Nat) (ev : W16) (st : Nat) : Dev :=
  ({ d with cutter := { d.cutter with failedAt := put d.cutter.failedAt c d.now, lastEv := ev } } : Dev).cutterOut c st

/-- The Cutter failed within the last 24 hours. -/
def Dev.failsAgain (d : Dev) (c : Nat) : Bool := (get? d.cutter.failedAt c).any fun t => decide (d.now < t + 86400000000000)

theorem Dev.failsAgain_true {d : Dev} {c w : Nat} (hw : get? d.cutter.failedAt c = some w) (h : d.now < w + 86400000000000) : d.failsAgain c = true := by
  rw [Dev.failsAgain, hw, Option.any_some, decide_eq_true h]

theorem Dev.failsAgain_false {d : Dev} {c : Nat} (h : ∀ w, get? d.cutter.failedAt c = some w → ¬ d.now < w + 86400000000000) :
    d.failsAgain c = false := by
  rw [Dev.failsAgain]
  cases hw : get? d.cutter.failedAt c with
  | none => rfl
  | some w => rw [Option.any_some, decide_eq_false (h w hw)]

theorem Dev.cutterFails_eq {d : Dev} (hupd : d.fw.upd = none) (c : Nat) (ev : W16) : d.cutterFails c ev =
    if d.failsAgain c then (d.cutterFailed c ev 3).evRoot 0x7002 c [c, 1] else d.cutterFailed c ev 2 := by
  have hidle : ∀ st, ((d.cutterFailed c ev st).evRoot 0x7002 c [c, 1]).fw.upd = none := fun _ => by
    rw [Dev.evRoot, Dev.raise_fw]
    exact hupd
  unfold Dev.cutterFails
  dsimp only
  change (if d.failsAgain c then ((d.cutterFailed c ev (if d.failsAgain c then 3 else 2)).evRoot 0x7002 c [c, 1]).advanceUpdate
    else d.cutterFailed c ev (if d.failsAgain c then 3 else 2)) = _
  cases d.failsAgain c with
  | false => rfl
  | true => exact Dev.advanceUpdate_none (hidle 3)

theorem Dev.cutterFails_cutter {d : Dev} (hupd : d.fw.upd = none) (c : Nat) (ev : W16) :
    (d.cutterFails c ev).cutter = (d.cutterFailed c ev (if d.failsAgain c then 3 else 2)).cutter := by
  rw [Dev.cutterFails_eq hupd]
  cases d.failsAgain c with
  | false => rfl
  | true => exact Dev.raise_cutter ..

/-- A Cutter that leaves service has not the baton. -/
theorem Dev.cutterOut_active (d : Dev) (c st : Nat) : (d.cutterOut c st).cutter.active ≠ some c := by
  change (if d.cutter.active = some c then none else d.cutter.active) ≠ some c
  split
  · exact nofun
  · assumption

section
variable {c : Fin 4} {s : State}

theorem cutterFailure_answers {ev : W16} (hup : s.dev.up = true) (hst : getD s.dev.cutter.st c.val 2 ≤ 1) (hupd : s.dev.fw.upd = none) :
    ∃ t, exec (.cutterFailure c ev) s = .next t ∧ sameStore s t ∧ t.dev.cutter.active ≠ some c.val ∧ t.dev.cutter.lastEv = ev
      ∧ ((∀ w, get? s.dev.cutter.failedAt c.val = some w → w + 86400000000000 ≤ s.dev.tape.now) → getD t.dev.cutter.st c.val 2 = 2)
      ∧ (∀ w, get? s.dev.cutter.failedAt c.val = some w → s.dev.tape.now < w + 86400000000000 →
          getD t.dev.cutter.st c.val 2 = 3 ∧ recorded 0x7002 none [c.val, 1] s t) := by
  have hrun : (if s.dev.up && decide (s.dev.cutterState c.val ≤ 1) then (s.dev.cutterFails c.val ev).refreshAdvice else s.dev)
      = (s.dev.cutterFails c.val ev).refreshAdvice := if_pos (by
    rw [hup, Bool.true_and]
    exact decide_eq_true hst)
  obtain ⟨t, ht, hstore, hdev⟩ := onDev_answers_of_eq (s := s)
    (f := fun d => if d.up && decide (d.cutterState c.val ≤ 1) then (d.cutterFails c.val ev).refreshAdvice else d) hrun
  have hcutter : t.dev.cutter = (s.dev.cutterFailed c.val ev (if s.dev.failsAgain c.val then 3 else 2)).cutter := by
    rw [hdev, Dev.refreshAdvice_cutter, Dev.cutterFails_cutter hupd]
  have hstate : getD t.dev.cutter.st c.val 2 = if s.dev.failsAgain c.val then 3 else 2 := by
    rw [hcutter]
    exact getD_put_same ..
  refine ⟨t, ht, hstore, by rw [hcutter]; exact Dev.cutterOut_active _ _ _, by rw [hcutter]; rfl, fun hold => ?_, fun w hw hlate => ?_⟩
  · rw [hstate, Dev.failsAgain_false fun w hw => Nat.not_lt.mpr (hold w hw)]
    rfl
  · have hagain := Dev.failsAgain_true hw hlate
    refine ⟨hstate.trans (if_pos hagain), recorded_of_appended (d := s.dev.cutterFailed c.val ev 3) (die := dieSelvage c.val) (fw := true) (n := 12) rfl ?_
      (by decide)⟩
    rw [hdev, Dev.cutterFails_eq hupd, if_pos hagain]
    exact Dev.refreshAdvice_appended _

/-! ### Self-test (15 R466) -/

section
variable (hup : s.dev.up = true) (hst : getD s.dev.cutter.st c.val 2 = 2) (hroot : bitOf s.dev.fw.roots c.val = true) (hupd : s.dev.fw.upd = none)
include hup hst hroot hupd

theorem rejoin_runs (ok : Bool) : s.dev.rejoin c.val ok =
    if ok then (({ s.dev with cutter := { s.dev.cutter with st := put s.dev.cutter.st c.val 1 } } : Dev).evRoot 0x7003 c.val
      [c.val, s.dev.rankOf c.val]).refreshAdvice
    else ((s.dev.cutterOut c.val 3).evRoot 0x7002 c.val [c.val, 0]).refreshAdvice := by
  have hpass : ¬(!s.dev.up || s.dev.cutterState c.val != 2 || !bitOf s.dev.fw.roots c.val || (s.dev.fw.upd.bind (·.root)) == some c.val) = true := by
    rw [hup, show s.dev.cutterState c.val = 2 from hst, hroot, hupd]
    simp
  unfold Dev.rejoin
  rw [if_neg hpass]
  cases ok with
  | true =>
    refine Dev.advanceUpdate_none ?_
    rw [Dev.refreshAdvice_fw, Dev.evRoot, Dev.raise_fw]
    exact hupd
  | false =>
    have hidle : (((s.dev.cutterOut c.val 3).evRoot 0x7002 c.val [c.val, 0]).refreshAdvice).fw.upd = none := by
      rw [Dev.refreshAdvice_fw, Dev.evRoot, Dev.raise_fw]
      exact hupd
    dsimp only
    rw [if_neg (by decide), if_neg (by decide), hidle]

theorem cutterRejoin_passes : ∃ t, exec (.cutterRejoin c true) s = .next t ∧ sameStore s t ∧ getD t.dev.cutter.st c.val 2 = 1
    ∧ recorded 0x7003 none [c.val, s.dev.rankOf c.val] s t := by
  obtain ⟨t, ht, hstore, hdev⟩ := onDev_answers_of_eq (s := s) (f := fun d => d.rejoin c.val true) (rejoin_runs hup hst hroot hupd true)
  refine ⟨t, ht, hstore, ?_, recorded_of_appended (die := dieSelvage c.val) (fw := true) (n := 12)
    (d := { s.dev with cutter := { s.dev.cutter with st := put s.dev.cutter.st c.val 1 } }) rfl ?_ (by decide)⟩
  · rw [hdev, if_pos rfl, Dev.refreshAdvice_cutter, Dev.evRoot, Dev.raise_cutter]
    exact getD_put_same ..
  · rw [hdev]
    exact Dev.refreshAdvice_appended _

theorem cutterRejoin_fails : ∃ t, exec (.cutterRejoin c false) s = .next t ∧ sameStore s t ∧ getD t.dev.cutter.st c.val 2 = 3
    ∧ recorded 0x7002 none [c.val, 0] s t := by
  obtain ⟨t, ht, hstore, hdev⟩ := onDev_answers_of_eq (s := s) (f := fun d => d.rejoin c.val false) (rejoin_runs hup hst hroot hupd false)
  refine ⟨t, ht, hstore, ?_, recorded_of_appended (die := dieSelvage c.val) (fw := true) (n := 12) (d := s.dev.cutterOut c.val 3) rfl ?_ (by decide)⟩
  · rw [hdev, if_neg (by decide), Dev.refreshAdvice_cutter, Dev.evRoot, Dev.raise_cutter]
    exact getD_put_same ..
  · rw [hdev]
    exact Dev.refreshAdvice_appended _

end

/-! ### The baton (15 R464, R465) -/

theorem batonHeartbeat_answers (hup : s.dev.up = true) (hactive : s.dev.cutter.active ≠ none) : ∃ t, exec .batonHeartbeat s = .next t ∧ sameStore s t
    ∧ t.dev = { s.dev with cutter := { s.dev.cutter with lastHb := s.dev.tape.now } } := by
  refine onDev_answers_of_eq (s := s) (f := fun d => if d.up && d.cutter.active.isSome then { d with cutter := { d.cutter with lastHb := d.now } } else d)
    (if_pos ?_)
  rw [hup, Option.isSome_iff_ne_none.mpr hactive]
  rfl

/-- The device once an ACTIVE Cutter, silent for so long, has failed. -/
def Dev.silentFailed (d : Dev) : Dev :=
  match d.cutter.active with
  | some a => d.cutterFails a 0x7001
  | none => d

theorem Dev.silentFailed_active {d : Dev} (hupd : d.fw.upd = none) : d.silentFailed.cutter.active = none := by
  unfold Dev.silentFailed
  split
  next a hactive =>
    rw [Dev.cutterFails_cutter hupd]
    exact if_pos hactive
  next hnone => exact hnone

theorem batonClaim_answers (hready : s.dev.ready = true) (hpowered : s.dev.powered = true) (hst : getD s.dev.cutter.st c.val 2 = 1)
    (hclaim : s.dev.cutter.claim = none) (hupd : s.dev.fw.upd = none)
    (hquiet : s.dev.cutter.lastHb + (2 + s.dev.rankOf c.val) * 1000000 ≤ s.dev.tape.now) :
    ∃ t, exec (.batonClaim c) s = .next t ∧ sameStore s t ∧ t.dev.cutter.claim = some c.val ∧ t.dev.cutter.active = none := by
  have hrun : s.dev.claimBaton c.val = { s.dev.silentFailed with cutter := { s.dev.silentFailed.cutter with claim := some c.val } } := by
    have hlate : ¬ s.dev.now < s.dev.cutter.lastHb + (2 + s.dev.rankOf c.val) * 1000000 := Nat.not_lt.mpr hquiet
    unfold Dev.claimBaton
    rw [hready, hpowered, show s.dev.cutterState c.val = 1 from hst, hclaim, if_neg]
    · rfl
    · rw [decide_eq_false hlate]
      decide
  obtain ⟨t, ht, hstore, hdev⟩ := onDev_answers_of_eq (s := s) (f := fun d => d.claimBaton c.val) hrun
  refine ⟨t, ht, hstore, by rw [hdev], ?_⟩
  rw [hdev]
  exact Dev.silentFailed_active hupd

end

/-! ### The take-over (14 R423; 15 R465) -/

/-- The entries that the Cutter holds of a queue: the accepted and the fetched ones. -/
def Queue.held (x : Queue) : List (BitVec 512) × List (BitVec 512) := (x.accepted, x.fetched)

theorem Dev.complete_held (d : Dev) (k : Pend) (status event j : Nat) : ((d.complete k status event).queue j).held = (d.queue j).held := by
  unfold Dev.complete
  split
  · rfl
  · by_cases hj : j = k.q
    · rw [hj, Dev.updQueue, Dev.setQueue_queue_same]
      rfl
    · exact congrArg Queue.held (Dev.setQueue_queue_ne _ _ _ _ hj)

/-- What the DISCARDED completions leave: beside the queues and the records nothing differs, and no queue holds more. -/
structure Dev.Discards (d e : Dev) : Prop where
  frame : ∃ queues mb wake, e = { d with queues := queues, mb := mb, power := { d.power with wake := wake } }
  later : d.mb.head ≤ e.mb.head
  held : ∀ j, (e.queue j).held = (d.queue j).held ∨ (e.queue j).held = ([], [])

namespace Dev.Discards

theorem refl (d : Dev) : d.Discards d := ⟨⟨_, _, _, rfl⟩, le_rfl, fun _ => .inl rfl⟩

theorem trans {d e f : Dev} (h : d.Discards e) (h' : e.Discards f) : d.Discards f := by
  refine ⟨?_, h.later.trans h'.later, fun j => ?_⟩
  · obtain ⟨_, _, _, rfl⟩ := h.frame
    obtain ⟨_, _, _, rfl⟩ := h'.frame
    exact ⟨_, _, _, rfl⟩
  · rcases h'.held j with hj | hj
    · rw [hj]
      exact h.held j
    · exact .inr hj

theorem complete (d : Dev) (k : Pend) (status event : Nat) : d.Discards (d.complete k status event) := by
  obtain ⟨queues, h⟩ := d.complete_onlyQueues k status event 0 0
  exact ⟨⟨queues, _, _, h⟩, by rw [h], fun j => .inl (d.complete_held k status event j)⟩

theorem raise (d : Dev) (code die : Nat) (fw : Bool) (ctx : Option Nat) (l : List Int) : d.Discards (d.raise code die fw ctx l) :=
  ⟨⟨_, _, _, Dev.raise_frame ..⟩, (MbSt.Appended.raise d code die fw ctx l).later, fun _ => .inl (congrArg Queue.held (Dev.raise_queue_of ..))⟩

theorem empty (d : Dev) (q : Nat) : d.Discards (d.updQueue q fun x => { x with accepted := [], fetched := [] }) := by
  refine ⟨⟨_, _, _, rfl⟩, le_rfl, fun j => ?_⟩
  by_cases hj : j = q
  · rw [hj]
    exact .inr (congrArg Queue.held (Dev.setQueue_queue_same ..))
  · exact .inl (congrArg Queue.held (Dev.setQueue_queue_ne _ _ _ _ hj))

theorem foldl {α : Type} {f : Dev → α → Dev} (h : ∀ (d : Dev) (a : α), d.Discards (f d a)) (l : List α) (d : Dev) : d.Discards (l.foldl f d) :=
  List.foldlRecOn l f (motive := d.Discards) (refl d) fun e he a _ => he.trans (h e a)

/-- The completions and their event, after the queue is empty. -/
theorem discardQueue (d : Dev) (q : Nat) : (d.updQueue q fun x => { x with accepted := [], fetched := [] }).Discards (d.discardQueue q) := by
  unfold Dev.discardQueue
  dsimp only
  split
  · exact refl _
  · exact trans (raise ..) (foldl (fun d k => complete d k 5 0x1005) _ _)

theorem empties {d e : Dev} (h : d.Discards e) {j : Nat} (hj : (d.queue j).held = ([], [])) : (e.queue j).held = ([], []) :=
  (h.held j).elim (·.trans hj) id

end Dev.Discards

theorem Dev.discardQueue_held (d : Dev) (q : Nat) : ((d.discardQueue q).queue q).held = ([], []) :=
  (Dev.Discards.discardQueue d q).empties (congrArg Queue.held (Dev.setQueue_queue_same ..))

theorem Dev.Discards.discardQueues (l : List Nat) (d : Dev) : d.Discards (l.foldl Dev.discardQueue d) :=
  .foldl (fun d q => (Dev.Discards.empty d q).trans (.discardQueue d q)) l d

theorem Dev.discardQueues_held {l : List Nat} {q : Nat} (hq : q ∈ l) (d : Dev) : ((l.foldl Dev.discardQueue d).queue q).held = ([], []) := by
  obtain ⟨before, after, rfl⟩ := List.append_of_mem hq
  rw [List.foldl_append, List.foldl_cons]
  exact (Dev.Discards.discardQueues after _).empties (Dev.discardQueue_held ..)

/-- Every queue is empty, and no command is in progress. -/
theorem Dev.discardAll_discards (d : Dev) : ∃ e ctxs, d.Discards e ∧ (∀ q, q < 9 → (e.queue q).held = ([], []))
    ∧ d.discardAll = { e with opens := [], ctxs := ctxs } :=
  ⟨_, _, .discardQueues (List.range 9) d, fun _ hq => Dev.discardQueues_held (List.mem_range.mpr hq) d, rfl⟩

section
variable {c : Fin 4} {s : State}

/-- A Cutter that wins the baton discards what the last one held, and records the take-over. -/
theorem Dev.takeover_eq {d : Dev} {c : Nat} (hready : d.ready = true) (hpowered : d.powered = true) (hclaim : d.cutter.claim = some c)
    (hnone : d.cutter.active = none) (hupd : d.fw.upd = none) : d.takeover c = ((d.becomeActive c).discardAll).evFw 0x7001 none
      [d.cutter.lastActive, c, sumN ((List.range 9).map fun q => (d.heldCmds q).length), ((d.now - d.cutter.lastHb) / 1000 : Nat)] := by
  have hpass : ¬(!(d.ready && d.powered) || d.cutter.claim != some c || d.cutter.active.isSome) = true := by
    rw [hready, hpowered, hclaim, hnone]
    simp
  obtain ⟨e, ctxs, hdiscards, -, he⟩ := (d.becomeActive c).discardAll_discards
  have hidle : ∀ l, (((d.becomeActive c).discardAll).evFw 0x7001 none l).fw.upd = none := fun l => by
    obtain ⟨_, _, _, rfl⟩ := hdiscards.frame
    rw [Dev.evFw_eq, Dev.raise_fw, he]
    exact hupd
  unfold Dev.takeover
  rw [if_neg hpass]
  dsimp only
  unfold Dev.takeoverUpdate
  rw [hidle]

theorem cutterTakeover_answers (hready : s.dev.ready = true) (hpowered : s.dev.powered = true) (hclaim : s.dev.cutter.claim = some c.val)
    (hnone : s.dev.cutter.active = none) (hupd : s.dev.fw.upd = none) :
    ∃ t, exec (.cutterTakeover c) s = .next t ∧ sameStore s t ∧ t.dev.cutter.active = some c.val ∧ getD t.dev.cutter.st c.val 2 = 0
      ∧ t.dev.opens = [] ∧ (∀ q, q < 9 → (t.dev.queue q).accepted = [] ∧ (t.dev.queue q).fetched = [])
      ∧ recorded 0x7001 none [s.dev.cutter.lastActive, c.val, sumN ((List.range 9).map fun q => (s.dev.heldCmds q).length),
          ((s.dev.tape.now - s.dev.cutter.lastHb) / 1000 : Nat)] s t := by
  obtain ⟨t, ht, hstore, hdev⟩ := onDev_answers_of_eq (s := s) (f := fun d => d.takeover c.val)
    (Dev.takeover_eq hready hpowered hclaim hnone hupd)
  obtain ⟨e, ctxs, hdiscards, hempty, he⟩ := (s.dev.becomeActive c.val).discardAll_discards
  rw [he] at hdev
  have hcutter : t.dev.cutter = (s.dev.becomeActive c.val).cutter := by
    obtain ⟨_, _, _, rfl⟩ := hdiscards.frame
    rw [hdev, Dev.evFw_eq, Dev.raise_cutter]
  refine ⟨t, ht, hstore, by rw [hcutter]; rfl, ?_, ?_, fun q hq => ?_, recorded_of_later (d := { e with opens := [], ctxs := ctxs }) hdiscards.later (congrArg Dev.mb hdev)⟩
  · rw [hcutter]
    exact getD_put_same ..
  · rw [hdev, Dev.evFw_eq, Dev.raise_opens]
  · have hheld : (t.dev.queue q).held = ([], []) := by
      rw [hdev, Dev.evFw_eq, Dev.raise_queue_of]
      exact hempty q hq
    exact ⟨congrArg Prod.fst hheld, congrArg Prod.snd hheld⟩

/-! ### The planned rotation (15 R468) -/

section
variable {a b : Nat} {rest : List Nat} (hdue : s.dev.rotationDue = true) (hupd : s.dev.fw.upd = none)
include hdue hupd

theorem rotationPeriod_asks : (if s.dev.rotationDue then s.dev.requestRotation 1 else s.dev) =
    if s.dev.lowestRunning.isNone then s.dev.rotate 1 else { s.dev with cutter := { s.dev.cutter with rotDue := some 1 } } :=
  (if_pos hdue).trans (if_neg (by rw [hupd]; decide))

theorem cutterRotationPeriod_now (hactive : s.dev.cutter.active = some a) (hstandby : s.dev.standbys = b :: rest) (hruns : s.dev.runningCtxs = []) :
    ∃ t, exec .cutterRotationPeriod s = .next t ∧ sameStore s t ∧ t.dev.cutter.active = some b
      ∧ getD t.dev.cutter.st b 2 = 0 ∧ getD t.dev.cutter.st a 2 = 1 ∧ recorded 0x7004 none [a, b, 1] s t := by
  have hlowest : s.dev.lowestRunning.isNone = true := by rw [Dev.lowestRunning, hruns]; rfl
  obtain ⟨t, ht, hstore, hdev⟩ := onDev_answers_of_eq (s := s) (f := fun d => if d.rotationDue then d.requestRotation 1 else d)
    ((rotationPeriod_asks hdue hupd).trans ((if_pos hlowest).trans (Dev.rotate_eq hactive hstandby hupd)))
  have hcutter : t.dev.cutter = (s.dev.handedOver a b).cutter := by
    rw [hdev, Dev.evFw_eq, Dev.raise_cutter]
  have hne : a ≠ b := (Dev.standbys_ne hactive (hstandby ▸ List.mem_cons_self ..)).symm
  refine ⟨t, ht, hstore, by rw [hcutter]; rfl, ?_, ?_, recorded_of_raise_mb (d := s.dev.handedOver a b) rfl (congrArg Dev.mb hdev)⟩
  · rw [hcutter]
    exact getD_put_same ..
  · rw [hcutter]
    exact (getD_put_ne _ _ _ hne).trans (getD_put_same ..)

theorem cutterRotationPeriod_waits (hruns : s.dev.runningCtxs ≠ []) : ∃ t, exec .cutterRotationPeriod s = .next t ∧ sameStore s t
    ∧ t.dev = { s.dev with cutter := { s.dev.cutter with rotDue := some 1 } } := by
  have hlowest : ¬ s.dev.lowestRunning.isNone = true := by simpa [Dev.lowestRunning] using hruns
  exact onDev_answers_of_eq (s := s) (f := fun d => if d.rotationDue then d.requestRotation 1 else d)
    ((rotationPeriod_asks hdue hupd).trans (if_neg hlowest))

end

end

/-! ### The restart of a root (16 R492 to R495) -/

theorem Dev.updateStep_rootImg (d : Dev) : d.updateStep.fw.rootImg = d.fw.rootImg := by
  unfold Dev.updateStep
  split
  · rfl
  · dsimp only
    split
    · rfl
    · split
      · cases d.standbys.find? _ <;> rfl
      · split
        · rfl
        · split <;> rfl

theorem Dev.rotate_rootImg (d : Dev) (reason : Nat) : (d.rotate reason).fw.rootImg = d.fw.rootImg := by
  unfold Dev.rotate
  split
  · dsimp only
    rw [Dev.updateStep_rootImg, Dev.evFw_eq, Dev.raise_fw]
    rfl
  · rfl

theorem Dev.heldRotation_rootImg (d : Dev) : d.heldRotation.fw.rootImg = d.fw.rootImg := by
  unfold Dev.heldRotation
  split
  · rfl
  · dsimp only
    split
    · exact Dev.rotate_rootImg ..
    · rfl

theorem Dev.endUpdate_rootImg (d : Dev) (status event : Nat) : (d.endUpdate status event).fw.rootImg = d.fw.rootImg := by
  unfold Dev.endUpdate
  dsimp only
  rw [Dev.heldRotation_rootImg]
  obtain ⟨queues, h⟩ := Dev.endOpens_frame
    { d with fw := { d.fw with upd := none }, cutter := { d.cutter with rotDue := none } } isUpdateCmd status event 0 0
  rw [h]

theorem Dev.updateFails_rootImg (d : Dev) (u : Update) (sel step reason : Nat) (rolled : Bool) :
    (d.updateFails u sel step reason rolled).fw.rootImg = d.fw.rootImg := by
  unfold Dev.updateFails
  split <;> rw [Dev.endUpdate_rootImg, Dev.evTh, Dev.raise_fw]

theorem FwSt.putImage_rootImg (w : FwSt) (f kind : Nat) (l : List Byte) : (w.putImage f kind l).rootImg = w.rootImg := rfl

theorem FwSt.makePreferred_rootImg (w : FwSt) (f : Nat) : (w.makePreferred f).rootImg = w.rootImg := by
  simp only [FwSt.makePreferred, FwSt.putFlash]

theorem Dev.checkSet_fw (d : Dev) (f : Nat) : (d.checkSet f).1.fw = d.fw := by
  unfold Dev.checkSet
  dsimp only
  split
  · exact Dev.raise_fw ..
  · split
    · exact Dev.raise_fw ..
    · rfl

theorem Dev.persistSet_rootImg (d : Dev) (thimble pattern : FwImg) : (d.persistSet thimble pattern).1.fw.rootImg = d.fw.rootImg := by
  unfold Dev.persistSet
  dsimp only
  generalize hr : Dev.checkSet _ _ = r
  have hkept : r.1.fw.rootImg = d.fw.rootImg := by
    rw [← hr, Dev.checkSet_fw, FwSt.putImage_rootImg, FwSt.putImage_rootImg]
  split
  · exact (FwSt.makePreferred_rootImg ..).trans hkept
  · exact hkept

theorem Dev.raiseSvn_rootImg (d : Dev) (kind svn : Nat) : (d.raiseSvn kind svn).fw.rootImg = d.fw.rootImg := by
  unfold Dev.raiseSvn
  dsimp only
  rw [Dev.evTh, Dev.raise_fw]
  split <;> rfl

theorem Dev.updateSucceeds_rootImg (d : Dev) (u : Update) : (d.updateSucceeds u).fw.rootImg = d.fw.rootImg := by
  have hpersist : ∀ thimble pattern, (if u.persist then d.persistSet thimble pattern else (d, false)).1.fw.rootImg = d.fw.rootImg := fun _ _ => by
    split
    · exact Dev.persistSet_rootImg ..
    · rfl
  unfold Dev.updateSucceeds
  dsimp only
  rw [Dev.endUpdate_rootImg]
  generalize hr : (if u.persist then d.persistSet _ _ else (d, false)) = r
  have hkept : r.1.fw.rootImg = d.fw.rootImg := hr ▸ hpersist _ _
  cases u.raiseSvn with
  | false => cases u.thimble with
    | false => exact (congrArg FwSt.rootImg (Dev.raise_fw ..)).trans hkept
    | true => exact (congrArg FwSt.rootImg (Dev.raise_fw ..)).trans hkept
  | true => cases u.thimble with
    | false => exact (Dev.raiseSvn_rootImg ..).trans ((congrArg FwSt.rootImg (Dev.raise_fw ..)).trans hkept)
    | true => exact (Dev.raiseSvn_rootImg ..).trans ((congrArg FwSt.rootImg (Dev.raise_fw ..)).trans hkept)

/-- Where an update of Thimble stands, no root loses its image. -/
theorem Dev.advanceUpdate_rootImg {d : Dev} {u : Update} (h : d.fw.upd = some u) (hthimble : u.thimble = true) :
    d.advanceUpdate.fw.rootImg = d.fw.rootImg := by
  unfold Dev.advanceUpdate
  rw [h]
  simp only [hthimble, if_true, Bool.not_true, Bool.false_and, Bool.false_eq_true, if_false, Bool.true_or, Bool.and_true]
  split
  · split
    · exact Dev.updateSucceeds_rootImg ..
    · exact Dev.updateFails_rootImg ..
  · rfl

theorem rootRestartDone_answers {c : Fin 4} {s : State} {u : Update} (hupd : s.dev.fw.upd = some u) (hthimble : u.thimble = true)
    (hroot : u.root = some c.val) : ∃ t, exec (.rootRestartDone c true) s = .next t ∧ sameStore s t ∧ getD t.dev.fw.rootImg c.val .none = u.target := by
  let d : Dev := { s.dev with fw := { s.dev.fw with upd := some { u with root := none }, rootImg := put s.dev.fw.rootImg c.val u.target } }
  have hrun : s.dev.rootBack c.val true = d.advanceUpdate := by
    unfold Dev.rootBack
    rw [hupd]
    exact (if_neg (not_not.mpr hroot)).trans (if_pos rfl)
  obtain ⟨t, ht, hstore, hdev⟩ := onDev_answers_of_eq (s := s) (f := fun d => d.rootBack c.val true) hrun
  refine ⟨t, ht, hstore, ?_⟩
  rw [hdev, Dev.advanceUpdate_rootImg (u := { u with root := none }) rfl hthimble]
  exact getD_put_same ..

/-! ### The spare that takes a due cluster (01 R28; 15 R446, R447) -/

/-- The same clusters in service, and the same ones due. -/
structure Dev.ClustersKept (d e : Dev) : Prop where
  bolts : e.bolts = d.bolts
  due : e.retireDue = d.retireDue

namespace Dev.ClustersKept

theorem refl (d : Dev) : d.ClustersKept d := ⟨rfl, rfl⟩

/-- The later change first. -/
theorem after {d e f : Dev} (h' : e.ClustersKept f) (h : d.ClustersKept e) : d.ClustersKept f := ⟨h'.bolts.trans h.bolts, h'.due.trans h.due⟩

theorem foldl {α : Type} {f : Dev → α → Dev} (h : ∀ (d : Dev) (a : α), d.ClustersKept (f d a)) (l : List α) (d : Dev) : d.ClustersKept (l.foldl f d) :=
  List.foldlRecOn l f (motive := d.ClustersKept) (refl d) fun e he a _ => (h e a).after he

theorem raise (d : Dev) (code die : Nat) (fw : Bool) (ctx : Option Nat) (l : List Int) : d.ClustersKept (d.raise code die fw ctx l) :=
  ⟨Dev.raise_bolts .., Dev.raise_retireDue ..⟩

theorem refreshAdvice (d : Dev) : d.ClustersKept d.refreshAdvice := after (foldl (fun d _ => raise d ..) _ _) ⟨rfl, rfl⟩

theorem queueZeros (d : Dev) (ctx : Nat) (act : Option Act) (core : Nat) (h : Handle) : d.ClustersKept (d.queueZeros ctx act core h) := by
  unfold Dev.queueZeros
  split <;> exact ⟨rfl, rfl⟩

theorem releaseHeld (d : Dev) : d.ClustersKept d.releaseHeld := by
  refine foldl (fun d n => ?_) _ d
  split
  · split <;> exact ⟨rfl, rfl⟩
  · exact refl d

end Dev.ClustersKept

theorem Dev.queueZeros_mb (d : Dev) (ctx : Nat) (act : Option Act) (core : Nat) (h : Handle) : (d.queueZeros ctx act core h).mb = d.mb := by
  unfold Dev.queueZeros
  split <;> rfl

theorem Dev.foldl_queueZeros_mb (l : List (Nat × Handle)) (d : Dev) : (l.foldl (fun d h => d.queueZeros h.2.ctx none h.1 h.2) d).mb = d.mb :=
  List.foldlRecOn l _ (motive := fun e : Dev => e.mb = d.mb) rfl fun _ he _ _ => (Dev.queueZeros_mb ..).trans he

theorem Dev.releaseHeld_mb (d : Dev) : d.releaseHeld.mb = d.mb := by
  refine List.foldlRecOn _ _ (motive := fun e : Dev => e.mb = d.mb) rfl fun e he n _ => ?_
  rw [← he]
  split
  · split <;> rfl
  · rfl

/-- The device whose due cluster runs on a spare and is due no more. -/
def Dev.remapped (d : Dev) (r : RetireDue) (spare : Nat) : Dev :=
  let x := (d.freshCluster r.bolt r.k).updBolt r.bolt fun x => { x with remap := put x.remap r.k spare, spares := x.spares.filter (· != spare) }
  { x with
    retireDue := x.retireDue.filter fun y => !(y.bolt == r.bolt && y.k == r.k)
    health := { x.health with retired := x.health.retired ++ [18 * r.bolt + (d.bolt r.bolt).phys r.k] } }

theorem Dev.remapped_bolt (d : Dev) (r : RetireDue) (spare : Nat) : (d.remapped r spare).bolt r.bolt = { d.bolt r.bolt with
    remap := put (d.bolt r.bolt).remap r.k spare, spares := (d.bolt r.bolt).spares.filter (· != spare) } := getD_put_same ..

theorem Box.remap_clusters (b : Box) (r : RetireDue) (spare : Nat) : (b.dev.remapped r spare).ClustersKept (b.remap r spare).dev := by
  unfold Box.remap
  dsimp only
  refine .after (.foldl (fun d (h : Nat × Handle) => .queueZeros d h.2.ctx none h.1 h.2) _ _) (.after (.refreshAdvice _) (.after (.raise ..) ?_))
  exact .after (.foldl (fun d _ => .raise d ..) _ _) ⟨rfl, rfl⟩

/-- A remap records event 0x7006, before the new advice. -/
theorem Box.remap_mb (b : Box) (r : RetireDue) (spare : Nat) : ∃ (e : Dev) (l : List Int), b.dev.mb.head ≤ e.mb.head
    ∧ (b.remap r spare).dev.mb = (e.evFw 0x7006 none l).refreshAdvice.mb := by
  unfold Box.remap
  dsimp only
  refine ⟨_, _, ?_, Dev.foldl_queueZeros_mb _ _⟩
  refine le_of_eq_of_le ?_ (Dev.Discards.foldl (fun d _ => .raise d ..) _ _).later
  rfl

section
variable {b : Fin 24} {k : Fin 16} {r : RetireDue} {p : Nat} {s : State} (hdue : s.dev.retireDue = [r]) (hbolt : r.bolt = b.val) (hk : r.k = k.val)
  (hspare : r.spare = none) (hcandidate : s.dev.candidate r = some p) (hserving : s.dev.serving = true) (hhold : s.dev.power.hold = false)
include hdue hbolt hk hspare hcandidate hserving hhold

/-- The device that keeps the record of the suites. -/
theorem spareTested_runs (ok : Bool) : s.box.spareTested b.val k.val ok =
    if ok then ((s.box.onD fun d => d.keepTest 1 (18 * b.val + p) 7 3 none).onD fun d => { d with retireDue := [{ r with spare := some p }] }).tryRetire
    else ((s.box.onD fun d => d.keepTest 1 (18 * b.val + p) 7 3
        (some { suite := s.dev.testEngine % 3, engine := s.dev.testEngine / 4 % 65536, case := s.dev.testCase })).onD fun d =>
      let d := d.updBolt b.val fun x => { x with spares := x.spares.filter (· != p) }
      let d : Dev := { d with health := { d.health with retired := d.health.retired ++ [18 * b.val + p] } }
      (d.evFw 0x700C none [b.val, p]).refreshAdvice).settleDue := by
  have hfind : s.dev.retireDue.find? (fun r => r.bolt == b.val && r.k == k.val && r.spare.isNone) = some r := by
    rw [hdue, List.find?_cons, hbolt, hk, hspare]
    simp
  unfold Box.spareTested
  dsimp only
  rw [show s.box.dev = s.dev from rfl, hfind]
  dsimp only
  rw [hcandidate]
  dsimp only
  rw [if_neg (by rw [hserving]; decide), if_neg (by rw [hhold]; decide)]
  cases ok with
  | false => simp only [Bool.false_eq_true, if_false]
  | true =>
    have hmap : s.dev.retireDue.map (fun x => if x = r then { x with spare := some p } else x) = [{ r with spare := some p }] := by
      rw [hdue, List.map_singleton, if_pos rfl]
    exact congrArg (fun l => ((s.box.onD fun d => d.keepTest 1 (18 * b.val + p) 7 3 none).onD fun d => { d with retireDue := l }).tryRetire) hmap

theorem spareSuitesDone_passes (husers : s.dev.usersOf b.val k.val = []) (hloading : s.dev.loading = false) :
    ∃ t, exec (.spareSuitesDone b k true) s = .next t ∧ t.pending = s.pending ∧ (t.dev.bolt b.val).phys k.val = p
      ∧ p ∉ (t.dev.bolt b.val).spares ∧ t.dev.retireDue = [] ∧ recordedAny 0x7006 s t := by
  have hrun := spareTested_runs hdue hbolt hk hspare hcandidate hserving hhold true
  rw [if_pos rfl] at hrun
  generalize hc : ((s.box.onD fun d => d.keepTest 1 (18 * b.val + p) 7 3 none).onD fun d => { d with retireDue := [{ r with spare := some p }] }) = c at hrun
  have hl : c.dev.retireDue = [{ r with spare := some p }] := by rw [← hc]; rfl
  have hmay : c.dev.retireDue.filter c.dev.mayRemap = [{ r with spare := some p }] := by
    have husers' : c.dev.usersOf r.bolt r.k = [] := by
      rw [hbolt, hk, ← hc]
      exact husers
    have hloading' : c.dev.loading = false := by
      rw [← hc]
      exact hloading
    have hr : c.dev.mayRemap { r with spare := some p } = true := by
      rw [Dev.mayRemap, husers', hloading']
      rfl
    rw [hl, List.filter_singleton, hr]
    rfl
  have hretire : c.tryRetire = (c.remap { r with spare := some p } p).onD Dev.releaseHeld := by
    rw [Box.tryRetire, hmay]
    rfl
  have hclusters : (c.dev.remapped { r with spare := some p } p).ClustersKept (s.setBox c.tryRetire).dev := by
    rw [hretire, State.setBox_dev, Box.onD_dev]
    exact (Dev.ClustersKept.releaseHeld _).after (c.remap_clusters { r with spare := some p } p)
  obtain ⟨e, l, hlater, hmb⟩ := c.remap_mb { r with spare := some p } p
  have hrecord : recorded 0x7006 none l (s.setDev e) (s.setBox c.tryRetire) := by
    refine recorded_of_appended (d := e) (die := e.fwDie) (fw := true) (n := 12) rfl ?_ (by decide)
    rw [hretire, State.setBox_dev, Box.onD_dev, Dev.releaseHeld_mb, hmb]
    exact Dev.refreshAdvice_appended _
  obtain ⟨x, hx, hseq, hcode, -⟩ := hrecord
  have hhead : c.dev.mb.head = s.dev.mb.head := by rw [← hc]; rfl
  have hbolt' : (s.setBox c.tryRetire).dev.bolt b.val = (c.dev.remapped { r with spare := some p } p).bolt r.bolt := by
    rw [Dev.bolt, hclusters.bolts, hbolt]
    rfl
  refine ⟨_, congrArg (fun b => Host.Outcome.next (s.setBox b)) hrun, rfl, ?_, ?_, ?_, x, hx, hhead ▸ hlater.trans hseq, hcode⟩
  · rw [hbolt', Dev.remapped_bolt, ← hk]
    exact getD_put_same ..
  · rw [hbolt', Dev.remapped_bolt]
    simp
  · have hgone : (c.dev.remapped { r with spare := some p } p).retireDue = c.dev.retireDue.filter fun y => !(y.bolt == r.bolt && y.k == r.k) := rfl
    rw [hclusters.due, hgone, hl]
    simp

theorem spareSuitesDone_fails : ∃ t, exec (.spareSuitesDone b k false) s = .next t ∧ t.pending = s.pending ∧ p ∉ (t.dev.bolt b.val).spares
    ∧ 18 * b.val + p ∈ t.dev.health.retired := by
  have hrun := spareTested_runs hdue hbolt hk hspare hcandidate hserving hhold false
  rw [if_neg (by decide)] at hrun
  generalize hc : (s.box.onD fun d => d.keepTest 1 _ 7 3 _) = c at hrun
  let d := c.dev.updBolt b.val fun x => { x with spares := x.spares.filter (· != p) }
  let e : Dev := { d with health := { d.health with retired := d.health.retired ++ [18 * b.val + p] } }
  have hwears : e.Wears (s.setBox (c.onD fun d =>
      let d := d.updBolt b.val fun x => { x with spares := x.spares.filter (· != p) }
      let d : Dev := { d with health := { d.health with retired := d.health.retired ++ [18 * b.val + p] } }
      (d.evFw 0x700C none [b.val, p]).refreshAdvice).settleDue).dev :=
    .after (.settleDue _) (.after (.refreshAdvice _) (.raise e ..))
  refine ⟨_, congrArg (fun b => Host.Outcome.next (s.setBox b)) hrun, rfl, fun hp => ?_, hwears.retired _ ?_⟩
  · have hspares : (e.bolt b.val).spares = (c.dev.bolt b.val).spares.filter (· != p) := congrArg Bolt.spares (getD_put_same ..)
    have hmem := hwears.spares _ _ hp
    rw [hspares] at hmem
    simp at hmem
  · exact List.mem_append_right _ (List.mem_singleton_self _)

end

/-- Settles O49. -/
theorem cuttersPassTheBaton : Obligations.CuttersPassTheBaton := by
  refine ⟨fun c s => ⟨fun ev hup hst hupd => cutterFailure_answers hup hst hupd, fun hup hst hroot hupd =>
      ⟨cutterRejoin_passes hup hst hroot hupd, cutterRejoin_fails hup hst hroot hupd⟩, batonHeartbeat_answers, batonClaim_answers,
      cutterTakeover_answers, fun a b rest hdue hupd hactive hstandby => ⟨cutterRotationPeriod_now hdue hupd hactive hstandby,
        cutterRotationPeriod_waits hdue hupd⟩, fun u hupd hthimble hroot => rootRestartDone_answers hupd hthimble hroot⟩, ?_⟩
  intro b k r p s hdue hbolt hk hspare hcandidate hserving hhold
  exact ⟨spareSuitesDone_passes hdue hbolt hk hspare hcandidate hserving hhold, spareSuitesDone_fails hdue hbolt hk hspare hcandidate hserving hhold⟩

end Sys2Proof.Machine
